-- ==== Sys2Proof/Word.lean ====
section
/-! DEFINITION. Words, bytes and the plainest ways to take fields out of them and put them together.
Fixed names for the widths the manual uses; every multi-byte value is least significant byte first. -/

namespace Sys2Proof

/-- A byte. -/
abbrev Byte := BitVec 8
/-- A 32-bit register or command word. -/
abbrev W32 := BitVec 32
/-- A 64-bit register value or counter. -/
abbrev W64 := BitVec 64

/-- Field `[hi:lo]` of a number, as a number. -/
def fieldOf (v hi lo : Nat) : Nat := (v >>> lo) % 2 ^ (hi + 1 - lo)

/-- Bit `i` of a number, as a truth value. -/
def bitOf (v i : Nat) : Bool := (v >>> i) % 2 == 1

/-- Field `[hi:lo]` of a word, as a number. -/
abbrev fld {n : Nat} (w : BitVec n) (hi lo : Nat) : Nat := fieldOf w.toNat hi lo

/-- Bit `i` of a word. -/
abbrev bit1 {n : Nat} (w : BitVec n) (i : Nat) : Bool := bitOf w.toNat i

/-- A truth value as a bit of value 0 or 1. -/
def b2n (b : Bool) : Nat := if b then 1 else 0

/-- The bytes of a number, least significant first, `n` of them. -/
def leBytes : Nat → Nat → List Byte
  | 0, _ => []
  | n + 1, v => BitVec.ofNat 8 v :: leBytes n (v / 256)

/-- The number that bytes spell, least significant first. -/
def leNat : List Byte → Nat
  | [] => 0
  | b :: bs => b.toNat + 256 * leNat bs

/-- The number that bytes spell, most significant first. -/
def beNat (bs : List Byte) : Nat := bs.foldl (fun a b => a * 256 + b.toNat) 0

/-- The bytes of a number, most significant first, `n` of them. -/
def beBytes (n v : Nat) : List Byte := (leBytes n v).reverse

/-- The least multiple of `a` at or above `n` (`a` at least 1). -/
def roundUp (n a : Nat) : Nat := (n + a - 1) / a * a

/-- The quotient rounded up. -/
def ceilDiv (n d : Nat) : Nat := (n + d - 1) / d

/-- A list cut into consecutive pieces of `k` entries; the last may be shorter. The first argument bounds the pieces. -/
def piecesOf {α : Type} : Nat → Nat → List α → List (List α)
  | 0, _, _ => []
  | _, _, [] => []
  | f + 1, k, xs => xs.take k :: piecesOf f k (xs.drop k)

/-- Whether a list is strictly rising. -/
def strictlyRising : List Nat → Bool
  | [] => true
  | [_] => true
  | a :: b :: t => decide (a < b) && strictlyRising (b :: t)

end Sys2Proof
end

