-- ==== Sys2Proof/Syntax.lean ====
section
/-! DEFINITION. The commands the block takes: one constructor for each row of the opcode table, with the operands the
row's rule names. An operand that reports what the outside world answered (a temperature, a NAND outcome, a corrupted
word) is given with the command. -/

namespace Sys2Proof

/-- An upset of one 8 B word of tile SRAM that stands from the start of the command on (R623): single-bit, or
uncorrectable. -/
structure Upset where
  tile : Fin 4096
  word : Fin 32768
  hard : Bool
  deriving DecidableEq, Repr

/-- What a read finds wrong in a Cupola that holds its line (R376): nothing, a single-bit data error, an uncorrectable data
error, or a tag parity error in its set. -/
inductive CupolaErr where
  | none | corrected | line | tag
  deriving DecidableEq, Repr

/-- An error that has struck a Cupola, West or East, and that the next look-up of a line finds (R376). -/
structure CupolaUpset where
  east : Bool
  line : Nat
  err : CupolaErr
  deriving DecidableEq, Repr

/-- What the bursts of a request met in the stack (R347, R354): parity errors that one retry cleared, and bursts corrected,
by the stack or by the retry of a read. -/
structure BurstRec where
  parity : Nat := 0
  corrected : Nat := 0
  deriving DecidableEq, Repr

/-- One 16 B command of a stream (R200), as the fetch engine of a Spire finds it next in the stream of a context; with
the ccyc by which bank slips delay it (R149), the ccyc for which the fetch engine waits until the command is in the
command buffer (R180), the SRAM upsets that its reads meet, the errors that strike the Cupolas (R376), and what the bursts of the
stream loader's reads met, each by an address of its stack (R354). -/
structure StreamCmd where
  sp : Fin 16
  ctx : Fin 8
  w0 : W32
  w1 : W32
  w2 : W32
  w3 : W32
  slips : Nat
  refill : Nat
  upsets : List Upset
  cups : List CupolaUpset := []
  bursts : List (Nat × BurstRec) := []
  deriving DecidableEq, Repr

/-- The words of one 64 B line, as the landing buffer holds it, that have a single-bit error and those that are uncorrectable
(R623 to R625). -/
structure LineErr where
  single : List (Fin 8) := []
  double : List (Fin 8) := []
  deriving DecidableEq, Repr

/-- What one chip enable answers at discovery (R387, Table 10-3): whether it gives the ONFI signature and one good copy of
its parameter page, that page's fields (the revision with its point, as 50 and 51; capacity in bytes; times in µs), the
rates it supports in each mode; for blocks given by their block address, what SDR mode reads as the first spare byte of the
first and of the last page, where not both are 0xFF (R428); and the temperature it reports at its long calibration (R385). -/
structure NandTarget where
  ch : Fin 16
  target : Fin 8
  onfi : Bool
  revision : Nat
  bits : Nat
  data : Nat
  spare : Nat
  pages : Nat
  luns : Nat
  planes : Nat
  blocks : Nat
  capacity : Nat
  tProg : Nat
  tBers : Nat
  tR : Nat
  retry : Nat
  lpddr4 : List Nat
  ddr3 : List Nat
  marks : List (Nat × Byte × Byte)
  temp : Int := 0
  deriving DecidableEq, Repr

/-- A read-back of the core regulator: millivolts, and the current in mA. Which of the two reads of a loop tick, and whether the
write of a changed target, goes without an answer; and when a response reports an alert, what the status read after it answers
(Table 15-3). -/
structure AvsAnswer where
  mv : Nat
  ma : Nat
  noVolt : Bool := false
  noAmp : Bool := false
  noWrite : Bool := false
  alert : Option (Option Nat) := none
  deriving DecidableEq, Repr

/-- The tamper monitors (Table 17-5). -/
inductive Monitor where
  | coreRail | alwaysOnRail | references | dieSensors | bootRom | otp
  deriving DecidableEq, Repr

/-- What one boot attempt finds outside the device: the OTP array, the boot flash, the PLLs, the regulator's read-back 50 ms
after the first write, the HBM stacks and the NAND: the channels whose superblock copy does not read correct, and the flash
addresses of metadata codewords that do not; the stage, if any, whose work does not end by itself; and whether the two results of
the image's signature agree (Table 17-3). VCCQ_NAND is what the device measures of the rail, in mV (R707). -/
structure BootEnv where
  otpOk : Bool
  flashAnswers : Bool
  sfdpOk : Bool
  octalOk : Bool
  recordWriteOk : Bool
  pllLocks : Bool
  avs : Option AvsAnswer
  hbmFails : Option (Fin 6)
  vccqNand : Nat
  badCopies : List (Fin 16)
  badCodewords : List Nat
  targets : List NandTarget
  hangs : Option (Fin 11)
  signaturesAgree : Bool := true
  deriving DecidableEq, Repr

/-- The fields of a BEACON record (Table 11-9). -/
structure BeaconRec where
  hops : BitVec 8
  idle : Bool
  rootId : BitVec 8
  delay : W32
  tick : W64
  podId : W32
  deriving DecidableEq, Repr

/-- The fields of a DONE record (Table 11-9). -/
structure DoneRec where
  idleReq : Bool
  devices : BitVec 16
  tick : W64
  podId : W32
  deriving DecidableEq, Repr

/-- The fields of a LINK record (Table 11-9). -/
structure LinkRec where
  deviceId : BitVec 8
  port : BitVec 8
  cls : BitVec 8
  planWidth : BitVec 8
  skein : BitVec 8
  good : BitVec 8
  podHash : W64
  podId : W32
  deriving DecidableEq, Repr

/-- One flit as the receiver's frame decoder hands it on: its header, its body bytes, and its CRC-64. -/
structure FlitRec where
  header : W64
  body : List Byte
  crc : W64
  deriving DecidableEq, Repr

/-- One received frame: whether every codeword of it decoded, its header bytes, the flits, and the symbols the FEC
corrected on each lane, lane 0 first. -/
structure FrameRec where
  decoded : Bool
  header : List Byte
  flits : List FlitRec
  corrected : List Nat
  deriving DecidableEq, Repr

/-- How an arbitrated packet fares at the routers: whole, with a number of single-bit errors (R335), or uncorrectable in its
data, in its engine field, or in its tag as well, found by a router (R337). -/
inductive PacketFault where
  | none | corrected (words : Nat) | data | engine | tag (router : Fin 4096)
  deriving DecidableEq, Repr

/-- One attempt of the read ladder on one codeword (R393): whether the decoder converges at step 1, at which retry level of
step 2, and at step 3; the 4,112 bytes it converges to at each step, where they are not the ones programmed; and the zero bits
among the raw bytes read, where they are not those programmed (R392). -/
structure LadderRec where
  step1 : Bool
  step2 : Option Nat
  step3 : Bool
  got1 : Option (List Byte) := none
  got2 : Option (List Byte) := none
  got3 : Option (List Byte) := none
  zeros : Option Nat := none
  deriving DecidableEq, Repr

/-- An array operation of a target that has not ended (R389): a page read, a program or an erase of a block, given with its LUN
in bits [2:0]. -/
inductive NandOp where
  | read (block page : Nat)
  | program (block : Nat)
  | erase (block : Nat)
  deriving DecidableEq, Repr

/-- The host's configuration requests that act on the device (R490). -/
inductive CfgReq where
  | vfEnable (numVfs : Nat) (on : Bool)
  | busMaster (on : Bool)
  | ptmEnable (on : Bool)
  | msixEnable (on : Bool)
  | msixFunctionMask (on : Bool)
  | msixVectorMask (vector : Nat) (on : Bool)
  /-- A read of the DW that an offset of configuration space lies in. -/
  | read (offset : Nat)
  /-- A write of the Max_Payload_Size and Max_Read_Request_Size of a function, coded as PCI Express codes them. -/
  | sizes (payload readRequest : Nat)
  /-- A write of a register, or of bits, to which the spec gives no effect. -/
  | other
  deriving DecidableEq, Repr

/-- A host access of BAR2: a read of some bytes, or a write of them. -/
inductive Bar2Op where
  | read (len : Nat)
  | write (bytes : List Byte)
  deriving DecidableEq, Repr

/-- The kinds of correctable PCIe error (R628). -/
inductive PcieCe where
  | receiver | badTlp | badDllp | replay | replayTimeout
  deriving DecidableEq, Repr

/-- Functions: VF k is k, the PF is 16. -/
abbrev Fn := Fin 17

/-- The commands of the block. An operand with a default stands for an event that meets nothing of its kind: no error, no second
DW. -/
inductive Instr where
  | resetNAssert
  | resetNDeassert (sel : BitVec 2)
  | bootAttempt (env : BootEnv)
  | bootStageTimeout (stage : Fin 11)
  | nextAttemptStart
  | otpFuseProgram (failRevoke failArb : Bool)
  | bootDonePod
  /-- With the blocks, by their block address, whose erase has started and not ended (R613). -/
  | pwrFailAssert (erasing : List Nat := [])
  | powerFailLogPage (ok : Bool)
  | shdnReqNAssert
  | orderlyShutdown
  | shutdownStopPersistHold
  | thermTrip
  | tamperDetection (monitor : Monitor := .bootRom)
  | corePllUnlock (east : Bool)
  | spanPllUnlock (port : Fin 8)
  | avsLoopTick (answer : Option AvsAnswer) (minSlack : Int)
  | avsbusRetry (answer : Option AvsAnswer)
  | avsRailTempRead (temp : Option Nat) (alert : Option (Option Nat) := none)
  | tempSample (readings : List Int)
  | hbmTempRead (temps : List Int)
  | hbmEcsRead (counts : List Nat) (soft : List (Nat × BurstRec) := [])
  | tickInEdge
  | tickInMissed
  | internalTimerExpiry
  | tickEdge
  | tickOutFall
  | runWindowOpen
  | rosterLoadDone (p : Fin 16) (cups : List CupolaUpset := []) (bursts : List (Nat × BurstRec) := [])
  | lateDrainDone (p : Fin 16)
  | drainComplete (p : Fin 16)
  | ptmExchange (ok : Bool) (ptmNs : W64) (phaseErr : Int)
  | ptmLost
  | tickRootDecide
  | podStall (waiting : List (BitVec 8 × BitVec 16))
  | podStallSentinel (p : Fin 16)
  | beacon (port : Fin 8) (rec : BeaconRec)
  | done (port : Fin 8) (rec : DoneRec)
  | hold (port : Option (Fin 8)) (tick : W64) (podId : W32)
  | beaconLost
  | leftPod
  | leave (port : Fin 8) (dev : BitVec 8) (podId : W32)
  | link (port : Fin 8) (rec : LinkRec)
  | ping (port : Fin 8) (pong : Bool) (sent arrived : W64)
  | credit (port : Fin 8) (c0 c1 c2 : BitVec 8)
  | spanTrainingDone (port : Fin 8) (good : BitVec 6)
  | spanTrainingTimeout (port : Fin 8)
  | laneGroupFail (port : Fin 8) (group : Fin 6)
  | spanFrame (port : Fin 8) (frame : FrameRec)
  | replayTimeout (port : Fin 8)
  | spanSlot (port : Fin 8)
  | rxActionComplete (port : Fin 8)
  | nop (c : StreamCmd)
  | loop (c : StreamCmd)
  | loopEnd (c : StreamCmd)
  | dmaIssue (c : StreamCmd)
  | lanternIssue (c : StreamCmd)
  | calLoad (c : StreamCmd)
  | calLoadComplete (sp : Fin 16) (bad : Option Nat) (cups : List CupolaUpset := []) (bursts : List (Nat × BurstRec) := [])
  | calActivate (p : Fin 16)
  | calEntryAct (p : Fin 16) (upsets : List Upset) (corrected : Nat) (broken : List (Fin 4096 × Fin 4))
  | hqTakeF (c : StreamCmd)
  | hqPutF (c : StreamCmd)
  | mac (c : StreamCmd)
  | macSetFinal (sp : Fin 16) (set : Fin 8)
  | readout (c : StreamCmd)
  | vop (c : StreamCmd)
  | vld (c : StreamCmd)
  | vst (c : StreamCmd)
  | setp (c : StreamCmd)
  | seto (c : StreamCmd)
  | hqTakeE (c : StreamCmd)
  | hqPutE (c : StreamCmd)
  | barrier (c : StreamCmd)
  | barrierRelease (sp : Fin 16) (bid : Fin 8)
  | anchor (c : StreamCmd)
  | yield (c : StreamCmd)
  | eot (c : StreamCmd)
  | contextSwitch (sp : Fin 16)
  | bankWindowStart (sp : Fin 16)
  | descriptorReadDone (sp : Fin 16) (unit : Fin 5) (id : Nat) (bad : Bool) (cup : CupolaErr := .none) (bursts : BurstRec := {})
  | dmaRequestIssue (sp : Fin 16) (upsets : List Upset) (cup : CupolaErr := .none)
  | dmaRequestComplete (sp : Fin 16) (unit : Fin 4) (xfer req : Nat)
  | transferComplete (sp : Fin 16) (unit : Fin 4) (xfer : Nat)
  | drainRelease (sp : Fin 16) (unit : Fin 4) (xfer : Nat)
  | remotePushArrive (id : Nat)
  | lanternComplete (sp : Fin 16) (xfer : Nat) (bad : Bool) (upsets : List Upset) (bursts : BurstRec := {})
  | arbitratedPacket (sp : Fin 16) (unit : Fin 5) (xfer req : Nat) (fault : PacketFault)
  | landingBufferDrain (tile : Fin 4096) (errs : LineErr := {})
  | mantleRetransmit
  | hbmWriteAccept (sp : Fin 16) (unit : Fin 4) (xfer req : Nat) (bad : Bool) (bursts : BurstRec := {})
  | hbmReadComplete (sp : Fin 16) (unit : Fin 4) (xfer req : Nat) (bad : Option Nat) (bursts : BurstRec := {})
  | cupolaFillComplete (east : Bool) (line : Nat) (bad : Option Nat) (bursts : BurstRec := {})
  | windowScrubDone (p : Fin 16)
  | stagingStart
  | stagingComplete (bad : Option Nat) (bursts : List (Nat × BurstRec) := [])
  | codewordRead (ch : Fin 16) (target : Fin 8) (block page slot : Nat) (ladder : LadderRec)
  | nandProgramStatus (ch : Fin 16) (target : Fin 8) (block : Nat) (failed : Bool)
  | nandTimeout (ch : Fin 16) (target : Fin 8) (op : NandOp := .read 0 0) (us : Nat := 0)
  | zqCalibrationShort (ch : Fin 16 := 0) (target : Fin 8 := 0) (temp : Int := 0)
  | retentionPatrol (ch : Fin 16) (target : Fin 8) (block : Nat) (reads : List (Nat × Nat × LadderRec))
  | wearLevelMove (ch : Fin 16) (target : Fin 8) (block dest : Nat)
  | freeSpaceRelocate (ch : Fin 16) (target : Fin 8) (block dest : Nat)
  | ringBlockReclaim
  | indexCheckpoint
  | logFlush
  | ingestDb (vf : Fin 16) (ring : Fin 16) (value : W32) (be : BitVec 4)
  | mbxReqPi (fn : Fn) (value : W32) (be : BitVec 4)
  | mbxRspCi (fn : Fn) (value : W32) (be : BitVec 4)
  | rosterSwitch (fn : Fn)
  | import_ (fn : Fn) (bursts : List (Nat × BurstRec) := [])
  | retire (fn : Fn)
  | objectState (fn : Fn)
  | partitionReset (fn : Fn)
  | shutdown (fn : Fn)
  | echo (fn : Fn)
  | resetQuiesced (p : Fin 16)
  | vfFlr (vf : Fin 16)
  | pfFlr
  | dlDown
  | pmStateChange (d3 : Bool)
  | bar2Access (vf : Fin 16) (offset : Nat) (op : Bar2Op) (bursts : BurstRec := {})
  | pcieWriteDropped (fn : Fn) (ecrc ep : Bool)
  | rcRegisterRead (fn : Fn) (offset : Nat) (be : BitVec 4) (more : Option (Nat × BitVec 4) := none)
  | counterPairRead (fn : Fn) (offset : Nat) (be : BitVec 4)
  | counterPairSnapshot (fn : Fn) (offset : Nat)
  | crossingAccess (fn : Fn) (write : Bool)
  /-- A write of one DW with its byte enables, or of two. -/
  | registerWrite (fn : Fn) (offset : Nat) (value : W32) (be : BitVec 4) (second : Option (W32 × BitVec 4) := none)
  | bufferWrite (fn : Fn) (offset : Nat) (bytes : List Byte)
  | erase
  | program
  | read
  | checkSlot
  | restart
  | plinthCommandDone (ok : Bool)
  | tapReset
  | extest (din pins : BitVec 1378)
  | sample (pins : BitVec 1378)
  | preload (din pins : BitVec 1378)
  | idcode
  | clamp
  | highz
  | extestPulse (din pins : BitVec 1378)
  | extestTrain (din pins : BitVec 1378) (falls : Nat)
  | provSlot (din : BitVec 392)
  | provNsik (din : BitVec 392)
  | provLock (din : BitVec 32)
  | provStatus
  | provFusesDone (ok : Bool)
  | factoryTest (op : Fin 8)
  | bypass (op : BitVec 8)
  | alwaysOnPowerUp
  | pcieLinkTraining (trained : Bool) (speed width : Nat)
  | configurationRequest (fn : Fn) (req : CfgReq)
  /-- A write of bytes into the image buffer, or where `read` says so a read of that many. -/
  | imageBufferWrite (offset : Nat) (bytes : List Byte) (read : Option Nat := none)
  | pcieCorrectableError (fn : Fn) (kind : PcieCe)
  | remotePushAcknowledgement (id : Nat)
  deriving DecidableEq, Repr

end Sys2Proof
end

