-- ==== Sys2Proof/Decode.lean ====
section
/-! DEFINITION. The command that a word spells by the bits of spec/opcode_table.json. No row of the table gives bits: the
block takes its commands from outside, not from words of a program. So no word spells a command. -/

namespace Sys2Proof

/-- The command of a word of `nbits` bits. -/
def decodeTableWord (_nbits _w : Nat) : Option Instr := none

end Sys2Proof
end

