-- ==== Sys2Proof/Config.lean ====
section
/-! DEFINITION. What an implementation fixes and the manual leaves open: free values. Each is a constant with no body,
so nothing proved can rest on what it is. -/

namespace Sys2Proof

/-- The device's own approximation of a special function of the vector unit (R167), before it is held to the bounds
that R167 and R742 state: function code and argument. -/
opaque Config.specialApprox : Nat → W32 → W32

/-- What a read or a write meets where the plan leaves a hazard open (R747), or another context has written the set or the
register (R188): garbage, by the number of the free value and an index within it. -/
opaque Config.hazardWord : Nat → Nat → W32

/-- Which of two values a byte holds where two writes meet and the manual does not say which (R149, R256): true keeps
the earlier one. -/
opaque Config.keepsEarlier : Nat → Bool

/-- Bytes that are delivered although they are uncorrectable: scheduled data at an input (R336), and a word of a landing buffer
(R625); by the number of the free value and the place. -/
opaque Config.meshByte : Nat → Nat → Byte

/-- The address recorded for an uncorrectable packet that is bound to a Span port, which R750 does not give; by the number
of the free value. -/
opaque Config.packetAddr : Nat → W64

/-- The context stride of a Skein frame that a Span port writes (R94, R467), by the number of the free value: 0, 1 or 2
for 1, 2 or 4. -/
opaque Config.skeinStride : Nat → Fin 3

/-- The bytes of a flash range that an ERASE or PROGRAM has not finished (chapter 14, "Not promised"), by the number of the
free value and the place in the range. -/
opaque Config.flashByte : Nat → Nat → Byte

/-- The bits of a DW of a function's configuration space that the manual does not give (Table 12-2): function and offset. -/
opaque Config.cfgWord : Nat → Nat → W32

/-- What a data register of the TAP captures where chapter 20 does not say it, by the number of the free value. -/
opaque Config.tapCapture : Nat → Nat

/-- Whether a fuse of a provisioning that does not end well has blown, by the number of the free value and the bit; and
whether an AC test outside the limits of R730 leaves its pairs inverted. -/
opaque Config.freeBit : Nat → Nat → Bool

/-- The parity of a codeword: Quinvy's LDPC code (R391), whose matrix the manual does not give, over the 4,112 bytes it
protects; by the byte of the parity. -/
opaque Config.ldpcParity : List Byte → Nat → Byte

/-- The payload of a codeword whose layout the manual does not give (fillers, bad-block and wear tables), by flash address and
byte. -/
opaque Config.payloadByte : Nat → Nat → Byte

/-- STORE_ID, chosen at random when a store is formatted (Table 10-6): its bytes, by the number of the free value. -/
opaque Config.storeIdByte : Nat → Nat → Byte

end Sys2Proof
end

