-- ==== Sys2Proof/Machine/Table.lean ====
section
/-! DEFINITION. Tables: lists of key and value pairs in one canonical form. Keys rise strictly, and no entry holds the
value that an unlisted key reads as, so that equal contents are equal data. Byte memories are tables of bytes. -/

namespace Sys2Proof.Machine

/-- A table from numbers to values; what an unlisted key reads as is given with each operation. -/
abbrev Tbl (α : Type) := List (Nat × α)

namespace Tbl

/-- The value at a key; `d` where nothing is listed. -/
def get {α : Type} (d : α) (k : Nat) : Tbl α → α
  | [] => d
  | (j, v) :: t => if j = k then v else get d k t

/-- Put an entry in its place; an entry of the same key is replaced. -/
def insert {α : Type} (k : Nat) (v : α) : Tbl α → Tbl α
  | [] => [(k, v)]
  | (j, w) :: t =>
    if k < j then (k, v) :: (j, w) :: t
    else if k = j then (k, v) :: t
    else (j, w) :: insert k v t

/-- Remove a key. -/
def erase {α : Type} (k : Nat) : Tbl α → Tbl α
  | [] => []
  | (j, w) :: t => if j = k then erase k t else (j, w) :: erase k t

/-- Write the value at a key, keeping the canonical form. -/
def put {α : Type} [DecidableEq α] (d : α) (k : Nat) (v : α) (t : Tbl α) : Tbl α :=
  if v = d then erase k t else insert k v t

/-- Write values at consecutive keys from `k`. -/
def putRun {α : Type} [DecidableEq α] (d : α) : Nat → List α → Tbl α → Tbl α
  | _, [], t => t
  | k, v :: vs, t => putRun d (k + 1) vs (put d k v t)

/-- The values at `n` consecutive keys from `k`. -/
def getRun {α : Type} (d : α) (t : Tbl α) : Nat → Nat → List α
  | _, 0 => []
  | k, n + 1 => get d k t :: getRun d t (k + 1) n

/-- Drop every entry whose key lies in `[lo, lo + n)`. -/
def clear {α : Type} (lo n : Nat) (t : Tbl α) : Tbl α := t.filter (fun e => !(decide (lo ≤ e.1) && decide (e.1 < lo + n)))

/-- The canonical form: strictly rising keys, no entry at the unlisted value. -/
def wf {α : Type} [DecidableEq α] (d : α) (t : Tbl α) : Bool :=
  strictlyRising (t.map Prod.fst) && t.all (fun e => decide (e.2 ≠ d))

end Tbl

/-- A byte memory: what it lists, beside the byte that an unlisted address reads as (given with each operation). -/
abbrev Bytes := Tbl Byte

end Sys2Proof.Machine
end

