-- ==== Sys2Proof/Machine/Bits.lean ====
section
/-! DEFINITION. Cyclic redundancy checks the manual names, each over a list of bytes. The polynomials and conventions
are those of the named published codes (assumption 9). -/

namespace Sys2Proof.Machine

/-- One bit of a reflected check register. -/
def crcStepR (poly r : Nat) : Nat := if r % 2 = 1 then (r / 2) ^^^ poly else r / 2

/-- A reflected CRC of width `w`: start and final inversion all ones. -/
def crcReflected (w poly : Nat) (bs : List Byte) : Nat :=
  (bs.foldl (fun r b => (List.range 8).foldl (fun r _ => crcStepR poly r) (r ^^^ b.toNat)) (2 ^ w - 1)) ^^^ (2 ^ w - 1)

/-- One bit of a check register that is not reflected, of width `w`. -/
def crcStepL (w poly r : Nat) : Nat := if r ≥ 2 ^ (w - 1) then ((2 * r) % 2 ^ w) ^^^ poly else 2 * r

/-- A CRC of width `w` without reflection or final inversion, from a start value. -/
def crcPlain (w poly init : Nat) (bs : List Byte) : Nat :=
  bs.foldl (fun r b => (List.range 8).foldl (fun r _ => crcStepL w poly r) (r ^^^ (b.toNat * 2 ^ (w - 8)))) init

/-- CRC-32 of IEEE 802.3. -/
def crc32 (bs : List Byte) : Nat := crcReflected 32 0xEDB88320 bs

/-- CRC-32C (Castagnoli). -/
def crc32c (bs : List Byte) : Nat := crcReflected 32 0x82F63B78 bs

/-- CRC-16, polynomial 0x1021 from 0xFFFF, no reflection, no final inversion (Table 3-8). -/
def crc16 (bs : List Byte) : Nat := crcPlain 16 0x1021 0xFFFF bs

/-- CRC-64 of a flit (R441). -/
def crc64 (bs : List Byte) : Nat := crcPlain 64 0x42F0E1EBA9EA3693 (2 ^ 64 - 1) bs ^^^ (2 ^ 64 - 1)

end Sys2Proof.Machine
end

