-- ==== Sys2Proof/Machine/StateCfg.lean ====
section
/-! DEFINITION. What the configuration records of the boot image give the device (Tables 14-6 to 14-9), as the
configuration check has read them. Every field holds zero before a boot attempt passes its CONFIG stage. -/

namespace Sys2Proof.Machine

/-- The performance profiles (Table 0-3, R24). -/
inductive Profile where
  | pod720 | store260 | cool180
  deriving DecidableEq, Repr

/-- The tick sources (R32). -/
inductive TickSource where
  | tickIn | internal | ptm
  deriving DecidableEq, Repr

/-- A memory window (R362 to R365): base and size in units of 2 MiB. -/
structure WinCfg where
  base : Nat := 0
  size : Nat := 0
  valid : Bool := false
  rd : Bool := false
  wr : Bool := false
  hostRd : Bool := false
  hostWr : Bool := false
  shared : Bool := false
  deriving DecidableEq, Repr

/-- An ingest ring of a PARTITION record (Table 14-7). -/
structure RingCfg where
  window : Nat := 0
  positions : Nat := 0
  slots : Nat := 0
  chunks : Nat := 0
  chunk : Nat := 0
  ringOff : Nat := 0
  fillOff : Nat := 0
  manifestOff : Nat := 0
  deriving DecidableEq, Repr

/-- A result area of a PARTITION record. -/
structure ResultCfg where
  window : Nat := 0
  bankSize : Nat := 0
  bankOff : Nat := 0
  deriving DecidableEq, Repr

/-- A PARTITION record (Table 14-7). -/
structure PartCfg where
  defined : Bool := false
  ns : Nat := 0
  spires : Nat := 0
  guardUs : Nat := 0
  latePark : Bool := false
  readShare : Nat := 0
  writeShare : Nat := 0
  remoteShare : Nat := 0
  initialRoster : Nat := 0
  rings : List RingCfg := []
  results : List ResultCfg := []
  nsQuota : Nat := 0
  windows : Tbl WinCfg := []
  statusWindow : Nat := 0
  statusSlots : Nat := 0
  statusOff : Nat := 0
  deriving DecidableEq, Repr

/-- An entry of the model-object list (Table 14-8). -/
structure ObjCfg where
  objId : Nat
  ns : Nat
  part : Nat
  window : Nat
  destOff : Nat
  bodyLen : Nat
  digest : List Byte
  deriving DecidableEq, Repr

/-- One TX entry of a Span program (Table 11-5). -/
structure TxEntry where
  slot : Nat
  addr : Nat
  gated : Bool
  gate : Nat
  gateN : Nat
  deriving DecidableEq, Repr

/-- One RX entry of a Span program (Table 11-5). -/
structure RxEntry where
  addr : Nat
  action : Nat
  push : Bool
  spire : Nat
  queue : Nat
  literal : W32
  deriving DecidableEq, Repr

/-- A Span program: the port it stands on and its two lists. -/
structure Program where
  port : Nat
  tx : List TxEntry
  rx : List RxEntry
  deriving DecidableEq, Repr

/-- Settings of one queue (Table 7-6). -/
structure QueueCfg where
  mode : Nat := 0
  pool : Nat := 0
  init : Bool := false
  deriving DecidableEq, Repr

/-- Settings of one pool (Table 7-6). -/
structure PoolCfg where
  base : Nat := 0
  count : Nat := 0
  deriving DecidableEq, Repr

/-- One part of a plan (Table 6-2), with its handle-pool settings. -/
structure PlanPart where
  spire : Nat
  resident : Bool
  off : Nat
  len : Nat
  starts : List Nat
  queues : List QueueCfg
  pools : List PoolCfg
  deriving DecidableEq, Repr

/-- What the device has read of a tick plan (Table 6-1); its other tables are read where the plan lies in HBM. -/
structure Plan where
  base : Nat := 0
  pod : Bool := false
  planCcyc : Nat := 0
  drainAllow : Nat := 0
  contexts : Nat := 0
  calInit : Nat := 0
  csOffset : Nat := 0
  calCount : Nat := 0
  calTable : Nat := 0
  descCount : Nat := 0
  descTable : Nat := 0
  len : Nat := 0
  parts : List PlanPart := []
  deriving DecidableEq, Repr

/-- The part of a Spire. -/
def Plan.partOf (p : Plan) (sp : Nat) : Option PlanPart := p.parts.find? (fun x => decide (x.spire = sp))

/-- Queue settings of a Spire's part; unused where the plan has none. -/
def Plan.queueCfg (p : Plan) (sp q : Nat) : QueueCfg :=
  match p.partOf sp with
  | some x => x.queues.getD q {}
  | none => {}

/-- Pool settings of a Spire's part. -/
def Plan.poolCfg (p : Plan) (sp i : Nat) : PoolCfg :=
  match p.partOf sp with
  | some x => x.pools.getD i {}
  | none => {}

/-- A ROSTER record (Table 14-9), with the refusal code of roster validation (0 where it passed, R579), its plan, its
placement tables by ring (R500) and its Span programs (R451). -/
structure RosterCfg where
  id : Nat
  part : Nat
  contexts : Nat
  spires : Nat
  rings : Nat
  results : Nat
  ports : Nat
  extents : List Nat
  phases : List Nat
  objects : List Nat
  refusal : Nat := 0
  plan : Plan := {}
  placements : Tbl (List Nat) := []
  programs : List Program := []
  deriving DecidableEq, Repr

/-- What the TOPOLOGY record says of one Span port (Table 11-10). -/
structure PortCfg where
  enabled : Bool := false
  skein : Bool := false
  partnerDev : Nat := 0
  partnerPort : Nat := 0
  planWidth : Nat := 0
  maxLinkNs : Nat := 0
  deriving DecidableEq, Repr

/-- What the TOPOLOGY record gives a partition on a port (R450): phase mask, the right to send bulk messages, and the
slot-store region in bytes. -/
structure LaneCfg where
  mask : Nat := 0
  bulk : Bool := false
  base : Nat := 0
  size : Nat := 0
  deriving DecidableEq, Repr

/-- The device-wide configuration. -/
structure Cfg where
  valid : Bool := false
  pod : Bool := false
  profile : Profile := .pod720
  tickSource : TickSource := .tickIn
  stretchLimit : Nat := 0
  periodUs : Nat := 0
  ptmPhaseNs : Nat := 0
  shedOrder : List Nat := []
  formatPolicy : Nat := 0
  nandDdr3 : Bool := false
  nandRate : Nat := 0
  pslcFa : Nat := 0
  pslcOn : W32 := 0#32
  pslcOff : W32 := 0#32
  tlcRated : Nat := 0
  pslcRated : Nat := 0
  belfryBase : Nat := 0
  belfrySize : Nat := 0
  parts : Tbl PartCfg := []
  objects : List ObjCfg := []
  rosters : List RosterCfg := []
  ap : Nat := 0
  maxSpeed : Nat := 0
  subVendor : Nat := 0
  subId : Nat := 0
  podId : Nat := 0
  podHash : Nat := 0
  deviceId : Nat := 0
  devices : Nat := 0
  hasTopology : Bool := false
  rootId : Nat := 0xFF
  beaconDelay : Nat := 0
  beaconTimeoutMs : Nat := 0
  beaconUp : Nat := 0xFF
  beaconDown : Nat := 0
  /-- Route bytes by device (Table 11-10). -/
  routes : Tbl Nat := []
  ports : Tbl PortCfg := []
  /-- By 8 times the partition plus the port. -/
  lanes : Tbl LaneCfg := []
  deriving DecidableEq, Repr

/-- Whether tick beacons run (R38, R479). -/
def Cfg.beacons (c : Cfg) : Bool := c.hasTopology && decide (c.rootId ≠ 0xFF)
/-- Whether this device is the tick root. -/
def Cfg.isRoot (c : Cfg) : Bool := c.beacons && decide (c.rootId = c.deviceId)
/-- Whether this device places its edges from beacons. -/
def Cfg.follows (c : Cfg) : Bool := c.beacons && decide (c.rootId ≠ c.deviceId)
/-- A port's configuration. -/
def Cfg.port (c : Cfg) (i : Nat) : PortCfg := Tbl.get {} i c.ports
/-- A partition's claim on a port. -/
def Cfg.lane (c : Cfg) (p i : Nat) : LaneCfg := Tbl.get {} (8 * p + i) c.lanes
/-- The roster of an ID for a partition, where the image holds one that was not refused. -/
def Cfg.roster (c : Cfg) (p id : Nat) : Option RosterCfg :=
  c.rosters.find? (fun r => decide (r.id = id) && decide (r.part = p) && decide (r.refusal = 0))

/-- The configuration of a partition; an undefined one where none is listed. -/
def Cfg.part (c : Cfg) (p : Nat) : PartCfg := Tbl.get {} p c.parts

/-- The partition a Spire belongs to (R523). -/
def Cfg.ownerOf (c : Cfg) (sp : Nat) : Option Nat :=
  (List.range 16).find? (fun p => (c.part p).defined && bitOf (c.part p).spires sp)

/-- Whether the profile parks a Spire (R24): Cool-180 parks Spires 12 to 15. -/
def Cfg.parks (c : Cfg) (sp : Nat) : Bool := c.profile == .cool180 && decide (12 ≤ sp)

/-- The window of a partition. -/
def Cfg.window (c : Cfg) (p w : Nat) : WinCfg := Tbl.get {} w (c.part p).windows

/-- Bytes of a window. -/
def WinCfg.bytes (w : WinCfg) : Nat := w.size * 2097152

/-- The device address of an offset (R363). -/
def WinCfg.addr (w : WinCfg) (off : Nat) : Nat := w.base * 2097152 + off

end Sys2Proof.Machine
end

