-- ==== Sys2Proof/Machine/StateSpire.lean ====
section
/-! DEFINITION. The state of the Spires and of what joins them to memory: contexts and queues, the tile register
contents, DMA engines and transfers, the Lantern path, link calendars, landing buffers, the Cupolas and HBM
(chapters 5 to 9). -/

namespace Sys2Proof.Machine

/-- An open loop of a context (R215): the part offset of its first command, its count, and the iteration under way. -/
structure Loop where
  start : Nat
  count : Nat
  iter : Nat
  deriving DecidableEq, Repr

/-- An execute-queue entry: the command, its part offset, and the ccyc it was placed in (R211). -/
structure QEntry where
  cmd : StreamCmd
  off : Nat
  placed : Nat
  deriving DecidableEq, Repr

/-- One hardware context of a Spire (R184). -/
structure Ctx where
  /-- Part offset of the next command to read. -/
  pc : Nat := 0
  loops : List Loop := []
  /-- Commands presented and not yet read by the fetch engine, oldest first. -/
  backlog : List StreamCmd := []
  /-- Commands read and not yet started, oldest first: the execute queue. -/
  queue : List QEntry := []
  /-- The ccyc by which every started execute-side command has finished (Table 6-5). -/
  finished : Nat := 0
  /-- The ccyc since when the execute queue of the context has had room and no FENCE BARRIER of it waits (R209, R240). -/
  readMin : Nat := 0
  /-- The ccyc in which the next command will stand in the command buffer, while the context waits for it (R180). -/
  refillAt : Option Nat := none
  /-- The end of the issue cycles of every started command of the context (R187). -/
  issueEnd : Nat := 0
  fh : Tbl W32 := []
  eh : Tbl W32 := []
  /-- A remote push of the fetch side that waits for its acknowledgement. -/
  pushF : Option Nat := none
  /-- A remote push of the execute side that waits for its acknowledgement. -/
  pushE : Option Nat := none
  /-- The barrier the context has arrived at and waits on: its number, the count of the arrival, and its mask. -/
  barrier : Option (Nat × Nat × Nat) := none
  eotRead : Bool := false
  eotDone : Bool := false
  deriving DecidableEq, Repr

/-- The accesses that reach the banks of a tile's SRAM, as R149 ranks them; those of transfers have no place in its list, and a
landing-buffer drain comes last (R152). -/
inductive BankAccess where
  | schedWrite | schedRead | macWeight | macDense | vecRead | readoutWrite | vecWrite | arbitrated | drain
  deriving DecidableEq, Repr

/-- A vector-register write that becomes visible after its ccyc (R747): lanes from `lane` on. -/
structure VWrite where
  at_ : Nat
  tile : Nat
  reg : Nat
  lane : Nat
  vals : List W32
  /-- The context that writes (R188). -/
  ctx : Nat := 0
  deriving DecidableEq, Repr

/-- A step of a VLD whose issue cycle lies ahead (R747), and the tiles it acts in. -/
structure VLoad where
  at_ : Nat
  cmd : StreamCmd
  step : Nat
  tiles : List Nat
  deriving DecidableEq, Repr

/-- A predicate write of a PANY or PALL, visible after its ccyc (R747): the key of the predicate. -/
structure PWrite where
  at_ : Nat
  key : Nat
  val : Bool
  deriving DecidableEq, Repr

/-- A tile SRAM write of a VST or READOUT, visible after `at_`. A READOUT row is written somewhere from `from_` to
`at_` (R747); a read in between is garbage, numbered `id`. -/
structure TWrite where
  from_ : Nat
  at_ : Nat
  spire : Nat
  tile : Nat
  addr : Nat
  bytes : List Byte
  id : Nat
  deriving DecidableEq, Repr

/-- The bytes an unfinished MAC command reads in a tile, for a set: a write to them makes the set garbage (R747). -/
structure MacSpan where
  until_ : Nat
  tile : Nat
  lo : Nat
  len : Nat
  set : Nat
  deriving DecidableEq, Repr

/-- A handle in a queue, with the ccyc it was pushed in (R226). -/
structure Held where
  handle : W32
  at_ : Nat
  deriving DecidableEq, Repr

/-- A calendar entry (Table 8-2) with the port it stands on. -/
structure CalEntry where
  tile : Nat
  port : Nat
  cyc : Nat
  srcA : Nat
  srcB : Nat
  red : Nat
  addr : Nat
  len : Nat
  step : Nat
  deriving DecidableEq, Repr

/-- The blocks of one Spire in one calendar set (Table 8-1). -/
structure CalSet where
  period : Nat := 1
  rep : Nat := 0
  entries : List CalEntry := []
  deriving DecidableEq, Repr

/-- A calendar load into the SHADOW banks (R220). -/
structure CalLoad where
  cal : Nat
  at_ : Nat
  set : Option CalSet := none
  deriving DecidableEq, Repr

/-- Scheduled data on its way to an input register, nameable from a ccyc on (R312, R332). -/
structure Arrival where
  tile : Nat
  port : Nat
  at_ : Nat
  bytes : List Byte
  deriving DecidableEq, Repr

/-- The write-back of an L-port reduction, made in its own ccyc (R312). -/
structure WriteBack where
  spire : Nat
  tile : Nat
  addr : Nat
  at_ : Nat
  bytes : List Byte
  deriving DecidableEq, Repr

/-- One piece of a transfer's byte sequence: a far-side place, a tile-side place and a length. -/
structure Piece where
  far : Nat
  taddr : Nat
  len : Nat
  deriving DecidableEq, Repr

/-- The request classes of the bandwidth split (R283). -/
inductive ReqClass where
  | read | write | remote
  deriving DecidableEq, Repr

/-- What a request moves. -/
inductive ReqKind where
  /-- Far side to tiles. -/
  | read
  /-- Tiles to a memory window. -/
  | write
  /-- Tiles to the tiles of another Spire. -/
  | remote
  /-- A block of list entries (R265). -/
  | list
  /-- The metadata of a unit about to be overwritten (R270). -/
  | hold
  /-- Tiles to a Span port's slot store or bulk message (R264). -/
  | spanOut
  /-- A Span port's slot store to tiles (R264). -/
  | spanIn
  deriving DecidableEq, Repr

/-- Where a request stands. -/
inductive ReqPhase where
  /-- Issued; its far side has not answered or accepted. -/
  | far
  /-- Waiting on a Cupola fill of its line. -/
  | fill
  /-- Its packet is in the mesh. -/
  | mesh
  /-- Its data stands in landing buffers, for the tiles still to drain. -/
  | landing
  /-- Its bytes are complete. -/
  | done
  /-- Its packet was discarded with its owner unknown (R337): it never completes. -/
  | lost
  deriving DecidableEq, Repr

/-- One outstanding request of a transfer (R252). -/
structure Req where
  id : Nat
  kind : ReqKind
  cls : ReqClass
  /-- Device address of the block for windows; destination tile address for REMOTE; port-side offset for SPAN. -/
  far : Nat
  len : Nat
  /-- Global tile IDs that receive the bytes, or the one they come from. -/
  tiles : List Nat
  /-- Where each piece lies: an offset from `far`, a tile address and a length. -/
  pieces : List Piece
  bytes : List Byte
  phase : ReqPhase
  /-- The tile its bytes come from, where they come from one. -/
  source : Nat := 0
  /-- The place of its packet in the order of sending (R329), and the bytes of it that have landed (R326). -/
  sent : Nat := 0
  landed : Nat := 0
  /-- Tiles whose landing buffers have not drained yet. -/
  left : List Nat := []
  deriving DecidableEq, Repr

/-- Where a transfer's completion push stands (R255). -/
inductive PushState where
  | none | waiting | sent | made
  deriving DecidableEq, Repr

/-- One entry of a block list (Table 7-3). -/
structure ListEntry where
  far : Nat
  tile : Nat
  taddr : Nat
  len : Nat
  deriving DecidableEq, Repr

/-- A transfer held by an engine or a Lantern path (R249, R273). -/
structure Xfer where
  id : Nat
  part : Nat
  /-- Index of the descriptor in the plan. -/
  index : Nat
  /-- The 128 descriptor bytes, once read. -/
  desc : List Byte := []
  read : Bool := false
  /-- The earliest ccyc of the first request (R251). -/
  readyAt : Nat := 0
  handle : W32
  sel : Bool
  /-- Order of acceptance within the Spire. -/
  order : Nat
  /-- Cursor over the byte sequence: tile step, row, byte in the row. -/
  atTile : Nat := 0
  atRow : Nat := 0
  atByte : Nat := 0
  ended : Bool := false
  /-- List blocks requested, blocks read in order, blocks read ahead of it, and the entries of the former (R265). -/
  listAsked : Nat := 0
  listRead : Nat := 0
  listLater : Tbl (List ListEntry) := []
  entries : List ListEntry := []
  /-- The metadata that HOLD has read, by far-side address, and the cursor of the step it was read for (R270). -/
  held : Bytes := []
  heldAt : Option (Nat × Nat × Nat) := none
  /-- The write-combine buffer: the gathered request not yet issued (R291). -/
  gathered : Option Req := none
  issued : Nat := 0
  /-- A DRAIN transfer has begun issuing (R288). -/
  released : Bool := false
  reqs : List Req := []
  stopped : Bool := false
  push : PushState := .none
  /-- BULK_WRITE: the message under assembly (remote offset and bytes), the messages that wait for their ACK, and where
  the closing SIGNAL stands: 0 not sent, 1 sent, 2 acknowledged (R467, R469). -/
  bulkBuf : Option (Nat × List Byte) := none
  bulkOut : Nat := 0
  bulkSignal : Nat := 0
  deriving DecidableEq, Repr

/-- A remote handle push in flight or waiting at its target (R275). -/
inductive PushFrom where
  | fetch (ctx : Nat)
  | execute (ctx : Nat)
  | transfer (unit : Nat) (id : Nat)
  | spanRx
  deriving DecidableEq, Repr

/-- Where a remote push stands. -/
inductive PushPhase where
  | flying | waiting | taken
  deriving DecidableEq, Repr

/-- A remote handle push. -/
structure RemotePush where
  id : Nat
  src : Nat
  part : Nat
  origin : PushFrom
  dst : Nat
  queue : Nat
  handle : W32
  phase : PushPhase
  /-- The place of its acknowledgement in the order of sending (R340), once it is taken. -/
  ack : Nat := 0
  deriving DecidableEq, Repr

/-- Data in a tile's landing buffer: the request it belongs to, its place and its bytes (R152). -/
structure Landed where
  spire : Nat
  unit : Nat
  xfer : Nat
  req : Nat
  taddr : Nat
  bytes : List Byte
  deriving DecidableEq, Repr

/-- The counters of one Spire (Table 16-6). -/
structure SpireCtr where
  busy : Nat := 0
  waitHq : Nat := 0
  waitBarrier : Nat := 0
  waitFetch : Nat := 0
  waitRefill : Nat := 0
  bankSlip : Nat := 0
  calLate : Nat := 0
  anchorMiss : Nat := 0
  staleHandle : Nat := 0
  droppedXfer : Nat := 0
  sat : Nat := 0
  nan : Nat := 0
  sramCe : Nat := 0
  sramUe : Nat := 0
  wcDiscard : Nat := 0
  deriving DecidableEq, Repr

/-- One Spire. -/
structure Spire where
  ctxs : Tbl Ctx := []
  /-- Pod class: the context that runs, 8 for none, and whether it has yielded (R185, R242). -/
  running : Nat := 8
  yielded : Bool := false
  /-- The context that ran last, while none runs (R186). -/
  ranLast : Nat := 7
  /-- The end of the latest context switch (R185). -/
  switchEnd : Nat := 0
  /-- The fetch engine: the first ccyc it has not read a command in, and the context it read last (R208). -/
  readFree : Nat := 0
  lastRead : Nat := 7
  /-- The pieces of a part that is not resident which the command buffer holds, from the first on and up to the second
  (R180); a piece is 1 KiB. -/
  ringLo : Nat := 0
  ringHi : Nat := 0
  /-- The ccyc in which a piece came into the buffer in this run window (R180, R209). -/
  pieceAt : Tbl Nat := []
  /-- The context that started the latest command (SPIRE_STATUS CONTEXT). -/
  lastCtx : Nat := 0
  /-- The ccyc each slot is free from, and the ccyc the next start is allowed in (R173). -/
  macFree : Nat := 0
  vecFree : Nat := 0
  roFree : Nat := 0
  startFree : Nat := 0
  /-- When each accumulator set is final, and when its latest read-out ends (R174). -/
  setFinal : Tbl Nat := []
  setRead : Tbl Nat := []
  /-- Sets whose final moment has not been reported yet: the set and the ccyc (R189). -/
  finals : List (Nat × Nat) := []
  vwrites : List VWrite := []
  loads : List VLoad := []
  pwrites : List PWrite := []
  spans : List MacSpan := []
  /-- Handle queues by number, oldest first. -/
  queues : Tbl (List Held) := []
  /-- Barrier arrivals of this run window, by barrier number: the ccyc of each, oldest first (R238). -/
  arrivals : Tbl (List Nat) := []
  /-- Engines 0 to 3, and the Lantern path as unit 4: the transfers held, oldest first. -/
  units : Tbl (List Xfer) := []
  orders : Nat := 0
  /-- The window of 64 ccyc whose shares are running, and the requests of each class issued in it (R285). -/
  shareWindow : Nat := 0
  usedRead : Nat := 0
  usedWrite : Nat := 0
  usedRemote : Nat := 0
  lastClass : Nat := 2
  lastEngine : Tbl Nat := []
  lastXfer : Tbl Nat := []
  issueFree : Nat := 0
  /-- When the pack unit of each engine last gave out bytes (R271). -/
  packFree : Tbl Nat := []
  /-- A transfer accepted in this run window will never complete: it was stopped (R289, R290). -/
  undone : Bool := false
  calInit : CalSet := {}
  calActive : CalSet := {}
  calFrom : Nat := 0
  calShadow : Option CalLoad := none
  calLateLogged : Bool := false
  anchorLogged : Bool := false
  /-- The ccyc the sequencer was frozen in (R532). -/
  seqFrozenAt : Nat := 0
  /-- Frozen masters: bit 0 the sequencer, 1 to 4 the engines, 5 the Lantern path (Table 13-4). -/
  frozen : BitVec 6 := 0#6
  frzA : W32 := 0#32
  frzB : W32 := 0#32
  frzC : W32 := 0#32
  frzD : W32 := 0#32
  /-- Engines stopped: nothing starts until the next run window (R49, R545). -/
  stopped : Bool := false
  ctr : SpireCtr := {}
  deriving DecidableEq, Repr

/-- One line of a Cupola set: valid ways by tag, and the pseudo-LRU tree (R371). -/
structure CupolaSet where
  ways : Tbl Nat := []
  tree : Nat := 0
  deriving DecidableEq, Repr

/-- A pending fill of a line: whether a write to it was accepted meanwhile, and the requests that wait (R370, R374). -/
structure Fill where
  line : Nat
  stale : Bool := false
  waiters : List (Nat × Nat × Nat × Nat) := []
  deriving DecidableEq, Repr

/-- One Cupola (R368). -/
structure Cupola where
  sets : Tbl CupolaSet := []
  fills : List Fill := []
  /-- Reads that miss while 512 fills are pending: the line and the request. -/
  queued : List (Nat × Nat × Nat × Nat × Nat) := []
  /-- Errors that have struck and that no look-up has found yet, each with a line (R376). -/
  struck : List (Nat × CupolaErr) := []
  hits : Nat := 0
  misses : Nat := 0
  ce : Nat := 0
  ueLine : Nat := 0
  tagParity : Nat := 0
  deriving DecidableEq, Repr

/-- One HBM stack: its counters (Table 16-6), its last temperature reading and its refresh rate (R359). -/
structure Stack where
  ce : Nat := 0
  parityRetry : Nat := 0
  ue : Nat := 0
  temp : Int := 0
  doubleRefresh : Bool := false
  deriving DecidableEq, Repr

/-- A read in a controller's queue (R349): the request it serves, or a Cupola's fill (Spires 16 and 17), the bytes it was
accepted for and what they were then (R350, R351), and how often it has been passed over. -/
structure QRead where
  sp : Nat
  unit : Nat
  xfer : Nat
  req : Nat
  far : Nat
  len : Nat
  bytes : List Byte
  passed : Nat := 0
  deriving DecidableEq, Repr

/-- A pseudo-channel's controller (R349, R351): the reads it has accepted, oldest first, those that wait for room, the
writes in its queue, and whether it serves writes. -/
structure Ctl where
  reads : List QRead := []
  waiting : List QRead := []
  writes : Nat := 0
  serving : Bool := false
  deriving DecidableEq, Repr

/-- How the HBM is managed (Table 9-3). -/
inductive HbmMode where
  | held | running | powerFail | selfRefresh
  deriving DecidableEq, Repr

/-- Mesh counters (Table 16-6). -/
structure MeshCtr where
  ce : Nat := 0
  ue : Nat := 0
  delivery : Nat := 0
  mantleRetry : Nat := 0
  deriving DecidableEq, Repr

/-- Everything of chapters 5 to 9 that is not a single Spire's. -/
structure Core where
  spires : Tbl Spire := []
  /-- Tile SRAM by tile ID times 0x4_0000 plus local address; an unlisted byte is 0 (R626). -/
  sram : Bytes := []
  /-- Words of tile SRAM that hold a single-bit or an uncorrectable error: the address divided by 8. -/
  sramCe : List Nat := []
  sramUe : List Nat := []
  /-- Accumulators by ((tile * 8 + set) * 256 + 16 i + j); an unlisted one is +0 (R231). -/
  acc : Tbl W32 := []
  /-- Accumulation tags by tile * 8 + set; false is FP32, true is INT32. -/
  tags : Tbl Bool := []
  /-- Vector registers by (tile * 16 + register) * 32 + lane. -/
  vreg : Tbl W32 := []
  /-- The context that wrote each accumulator set last, plus 1, by tile * 8 + set (R188). -/
  setOwner : Tbl Nat := []
  /-- The context that wrote each vector register last, plus 1, by tile * 16 + register (R188). -/
  regOwner : Tbl Nat := []
  /-- Predicates by (tile * 8 + context) * 8 + number; an unlisted one is 1 (R178). -/
  preds : Tbl Bool := []
  /-- Offsets by (tile * 8 + context) * 8 + number; an unlisted one is 0. -/
  offs : Tbl Nat := []
  landing : Tbl (List Landed) := []
  /-- Input registers of the routers by (tile * 4 + port) * 128 + byte; an unlisted byte is 0 (R313). -/
  inputs : Bytes := []
  /-- SRAM writes of execute-side commands whose ccyc has not passed yet (R747). -/
  twrites : List TWrite := []
  /-- Banks that the present ccyc uses: the Spire, the tile and the bank, with the access (R148, R149). -/
  bankUse : List (Nat × Nat × Nat × BankAccess) := []
  /-- The tiles whose router port has taken a flit of arbitrated traffic in the present ccyc (R171). -/
  ports : List Nat := []
  arrivals : List Arrival := []
  writeBacks : List WriteBack := []
  pushes : List RemotePush := []
  hbm : Bytes := []
  /-- HBM bursts that are uncorrectable until a write replaces them whole: the address divided by 32 (R356). -/
  hbmBad : List Nat := []
  /-- Bursts whose next access by the host, a Span port or the device itself a retry or a correction mends (R347, R354). -/
  hbmSoft : List (Nat × BurstRec) := []
  hbmMode : HbmMode := .held
  hbmStacks : Tbl Stack := []
  cupolas : Tbl Cupola := []
  /-- The controllers by stack and pseudo-channel (R348). -/
  ctls : Tbl Ctl := []
  mesh : MeshCtr := {}
  /-- Ids given to transfers, requests and pushes. -/
  nextId : Nat := 0
  deriving DecidableEq, Repr

end Sys2Proof.Machine
end

