-- ==== Sys2Proof/Machine/StatePart.lean ====
section
/-! DEFINITION. The state of the partitions, of the tick, of the host functions and of the event log (chapters 2, 12,
13 and 16). -/

namespace Sys2Proof.Machine

/-- Tick status codes (Table 2-3). -/
inductive TickStatus where
  | onTime | late | shed | parked | frozen | reset | noRoster
  deriving DecidableEq, Repr

/-- The code of a status (Table 2-3). -/
def TickStatus.code : TickStatus → Nat
  | .onTime => 0 | .late => 1 | .shed => 2 | .parked => 3 | .frozen => 4 | .reset => 5 | .noRoster => 6

/-- The phase a partition's tick is in (Table 2-2): `idle` when the tick is published or none runs, `waiting` from the
tick edge until the run window can open (ingest freeze, roster load, drain of R49), `unfit` in a tick that R483 keeps
from starting. -/
inductive TickPhase where
  | idle | waiting | unfit | run | drain | publish
  deriving DecidableEq, Repr

/-- The steps of a partition reset (Table 13-7). -/
inductive ResetStep where
  | none | quiesce | scrub | restage | restart
  deriving DecidableEq, Repr

/-- A frame published on an ingest ring and not yet consumed: its sequence number, its source number, and the time its
doorbell was accepted (R501, R740). -/
structure Frame where
  seq : Nat
  src : Nat
  at_ : Nat
  deriving DecidableEq, Repr

/-- One ingest ring (Table 12-4): its counters and the frames between its consumer and producer indices. -/
structure Ring where
  pi : Nat := 0
  ci : Nat := 0
  refused : Nat := 0
  discard : Nat := 0
  frames : List Frame := []
  /-- The producer index recorded for the tick in progress (R42). -/
  recorded : Nat := 0
  /-- The producer index recorded for the latest LATE tick, while the drain of R49 lasts (R505). -/
  lateTo : Option Nat := none
  deriving DecidableEq, Repr

/-- A pending roster switch (R514): who asked, under which MSG_ID, for which roster and tick, and when it was
accepted. -/
structure Switch where
  fn : Nat
  msgId : Nat
  roster : Nat
  atTick : Nat
  at_ : Nat
  deriving DecidableEq, Repr

/-- A partition's counters of tick status records (Table 16-6). -/
structure PartCtr where
  onTime : Nat := 0
  late : Nat := 0
  shed : Nat := 0
  parked : Nat := 0
  frozen : Nat := 0
  reset : Nat := 0
  noRoster : Nat := 0
  deriving DecidableEq, Repr

/-- One partition as it runs. -/
structure Part where
  phase : TickPhase := .idle
  /-- The partition ccyc count (R206). -/
  ccyc : Nat := 0
  /-- The first count whose calendar entries have not acted yet. -/
  calNext : Nat := 0
  plan : Plan := {}
  roster : Option Nat := none
  /-- The first tick of the active roster. -/
  rosterSince : Nat := 0
  switch : Option Switch := none
  /-- The switch request that the roster load in progress answers at the roster's start (R516). -/
  answers : Option Switch := none
  /-- A roster load is still to complete before the roster starts. -/
  loading : Bool := false
  /-- A drain of R49 is still to complete. -/
  draining : Bool := false
  /-- The carried-state selector (R46). -/
  sel : Bool := false
  /-- The tick number whose inputs the run window consumes (R279). -/
  tickNo : Nat := 0
  /-- The tick whose inputs the latest run window consumes (R279). -/
  windowTick : Nat := 0
  /-- Whether the tick in progress has been published. -/
  published : Bool := true
  /-- The status of the latest published tick. -/
  last : Option TickStatus := none
  /-- The end of the 3 µs publish step, while it runs, or of the latest ON_TIME one (Table 2-2). -/
  publishEnd : Nat := 0
  /-- Writes of the device that wait for the scrub of their window (R360): the window, the address and the bytes; a tick status
  record goes with its status. -/
  heldWrites : List (Nat × Nat × List Byte × Option TickStatus) := []
  /-- The status the tick in progress is to publish at the end of its ingest freeze, when it does not run. -/
  due : Option TickStatus := none
  /-- The consecutive-late count that record is to carry. -/
  dueRun : Nat := 0
  lateRun : Nat := 0
  parked : Bool := false
  stallRun : Nat := 0
  /-- Pod class: since when the partition has stayed stalled, and how much of it has been reported (R296). -/
  stalledFor : Nat := 0
  stalledSince : Option Nat := none
  statusPi : Nat := 0
  slackLast : Nat := 0xFFFFFFFF
  slackMin : Nat := 0xFFFFFFFF
  slackRun : Nat := 0xFFFFFFFF
  placed : Nat := 0
  discarded : Nat := 0
  rings : Tbl Ring := []
  slotsFrozen : BitVec 8 := 0#8
  frzHost : W32 := 0#32
  frzHostLo : W32 := 0#32
  frzHostHi : W32 := 0#32
  reset : ResetStep := .none
  resetByFlr : Bool := false
  resetMsg : Option Nat := none
  /-- Windows still to scrub (R545 step 5), and objects still to stage again (step 6). -/
  scrubs : List Nat := []
  restage : List Nat := []
  ctr : PartCtr := {}
  deriving DecidableEq, Repr

/-- A held mailbox response: its 256 bytes. -/
structure MbxMsg where
  bytes : List Byte
  deriving DecidableEq, Repr

/-- One function's mailbox (R510). -/
structure Mailbox where
  reqPi : BitVec 16 := 0#16
  reqCi : BitVec 16 := 0#16
  rspPi : BitVec 16 := 0#16
  rspCi : BitVec 16 := 0#16
  /-- Request and response slot bytes: 8 and 16 slots of 256 B. -/
  req : Bytes := []
  rsp : Bytes := []
  held : List MbxMsg := []
  /-- MSG_IDs that are PENDING (Table 12-9). -/
  pendingIds : List Nat := []
  ignored : Nat := 0
  deriving DecidableEq, Repr

/-- One function's MSI-X state (R518): masks, pending bits, and the messages sent on each vector. -/
structure Msix where
  enable : Bool := false
  maskAll : Bool := false
  unmasked : List Nat := []
  pending : List Nat := []
  sent : Tbl Nat := []
  deriving DecidableEq, Repr

/-- AER status of a function (R628, R629): correctable and uncorrectable status bits that have been set. -/
structure Aer where
  receiver : Bool := false
  badTlp : Bool := false
  badDllp : Bool := false
  replay : Bool := false
  replayTimeout : Bool := false
  ecrc : Bool := false
  poisoned : Bool := false
  unsupported : Bool := false
  deriving DecidableEq, Repr

/-- How the device answered the latest host request. -/
inductive Completion where
  | none
  | ok
  | data (value : Nat)
  | bytes (bs : List Byte)
  /-- Data with the poisoned (EP) bit set (R493). -/
  | poisoned (bs : List Byte)
  | unsupported
  | retry
  /-- A write that was dropped, ignored or refused. -/
  | dropped
  /-- A read that waits for a window scrub (R360). -/
  | waiting
  deriving DecidableEq, Repr

/-- One PCIe function as the host sees it. -/
structure Func where
  busMaster : Bool := false
  /-- Max_Payload_Size and Max_Read_Request_Size as PCI Express codes them: 128 B and 512 B at reset (PRESUMED, log 41). -/
  maxPayload : Nat := 0
  maxRead : Nat := 2
  msix : Msix := {}
  aer : Aer := {}
  mbx : Mailbox := {}
  /-- BAR2 accesses completed with Unsupported Request without a violation (Table 16-6). -/
  bar2Ur : Nat := 0
  /-- The fresh counter shadows (R682) by the offset of the LO register, as one more than the HI value; an unlisted one
  is stale. -/
  shadows : Tbl Nat := []
  deriving DecidableEq, Repr

/-- A VF access that waits for a window scrub, with its VF (R360, R496, R501): of BAR2, or a doorbell, a write of a mailbox
index, or of bytes of the request slots, or a read of BAR0, a crossing access among them (R686), behind BAR2 accesses. -/
inductive WaitOp where
  | bar2 (vf offset : Nat) (op : Bar2Op) (bursts : BurstRec)
  | doorbell (vf ring src : Nat)
  | reqPi (vf : Nat) (value : W32)
  | rspCi (vf : Nat) (value : W32)
  | slots (vf offset : Nat) (bytes : List Byte)
  | read (vf offset dws : Nat) (first last : BitVec 4)
  | cross (vf : Nat)
  deriving DecidableEq, Repr

/-- The VF of a waiting access. -/
def WaitOp.vf : WaitOp → Nat
  | .bar2 k _ _ _ => k
  | .doorbell k _ _ => k
  | .reqPi k _ => k
  | .rspCi k _ => k
  | .slots k _ _ => k
  | .read k _ _ _ _ => k
  | .cross k => k

/-- The host side of the device. -/
structure HostSt where
  fns : Tbl Func := []
  vfEnable : Bool := false
  numVfs : Nat := 0
  d3hot : Bool := false
  ptmEnable : Bool := false
  linkUp : Bool := false
  /-- Whether the link runs in Flit mode (R486). -/
  flit : Bool := false
  linkSpeed : Nat := 0
  linkWidth : Nat := 0
  trainings : Nat := 0
  pcieReady : Bool := false
  completion : Completion := .none
  pcieCe : Nat := 0
  pcieUe : Nat := 0
  rwpIgnored : Nat := 0
  regUr : Nat := 0
  /-- VF accesses that wait for a window scrub, oldest first (R360, R546). -/
  waiting : List WaitOp := []
  /-- Imports whose region lies in a window under scrub (R360): function, MSG_ID, payload and partition. -/
  heldImports : List (Nat × Nat × List Byte × Nat) := []
  deriving DecidableEq, Repr

/-- Where a tick edge that is due was decided (Table 2-1, R474). -/
inductive EdgeCause where
  | tickIn | missed | timer | root | beacon (tick : Nat)
  deriving DecidableEq, Repr

/-- The tick of the device. -/
structure Tick where
  /-- The tick counter, once the first edge has come (R39). -/
  count : Option Nat := none
  /-- The tick timestamp (R40). -/
  stamp : Nat := 0
  /-- The time of the latest edge, and in a pod of the root's latest decision. -/
  lastEdge : Nat := 0
  decided : Nat := 0
  /-- The edge that is due: what decided it, when it is placed, and whether the tick is an idle period. -/
  due : Option (EdgeCause × Nat × Bool) := none
  tickOut : Bool := false
  /-- The end of the ingest freeze while it lasts. -/
  frozenUntil : Option Nat := none
  missedRun : Nat := 0
  early : Nat := 0
  missed : Nat := 0
  beaconLate : Nat := 0
  /-- The run of 256 ticks in which a late beacon was last logged. -/
  beaconLateRun : Option Nat := none
  ptmLock : Bool := false
  ptmLostLogged : Bool := false
  /-- The time of the latest successful exchange, the offset of PTM time, and the correction of the latest period, in time
  units (R35). -/
  ptmAt : Nat := 0
  ptmOffset : Int := 0
  ptmRate : Int := 0
  /-- The moment of the latest PTM exchange that was run (R35). -/
  ptmRunAt : Option Nat := none
  /-- Pod class, tick root: the source's period of the tick in progress has ended (R38, R54). -/
  periodDone : Bool := false
  /-- The stretched ticks of the run of 256 under way: their number, their total and their largest stretch, in ns. -/
  stretchCount : Nat := 0
  stretchTotal : Nat := 0
  stretchMax : Nat := 0
  /-- Stretch limits already reported for the tick in progress (R57). -/
  stalls : Nat := 0
  shedLevel : Nat := 0
  shedAt : Option Nat := none
  /-- When the latest sample that was not below its unshed threshold was taken (R606). -/
  warmAt : Option Nat := none
  /-- Pod class: this device asks for idle periods; the tick in progress is one (R66). -/
  idleAsked : Bool := false
  idle : Bool := false
  /-- Downstream ports whose DONE of the tick in progress has come, and whether one asked for an idle period. -/
  doneFrom : BitVec 8 := 0#8
  ownDone : Bool := false
  idleReq : Bool := false
  doneSent : Bool := false
  doneDevices : Nat := 0
  /-- Downstream ports whose boot DONE has come, and whether this device has sent its own (R584). -/
  bootDone : BitVec 8 := 0#8
  bootDoneSent : Bool := false
  /-- When the latest BEACON or HOLD came or was sent, and since when the beacon is lost (R477). -/
  heard : Nat := 0
  lostAt : Option Nat := none
  /-- This device has left the pod (R478). -/
  left : Bool := false
  /-- The device has announced that it leaves, at a shutdown or a power failure: only IDLE and CTRL flits follow. -/
  quiet : Bool := false
  /-- No further tick edge is made: shutdown, power failure or a halt. -/
  halted : Bool := false
  deriving DecidableEq, Repr

/-- An event entry (Table 16-2). -/
structure EventEntry where
  time : W64
  tick : W64
  seq : W32
  code : BitVec 16
  sev : BitVec 8
  src : BitVec 8
  detail : W64
  deriving DecidableEq, Repr

/-- One position of the event ring: an entry, or the 32 B of an extension entry. -/
inductive LogSlot where
  | empty
  | entry (e : EventEntry)
  | ext (bytes : List Byte)
  deriving DecidableEq, Repr

/-- Whether a slot holds an event of an earlier boot. -/
def LogSlot.prior : LogSlot → Bool
  | .entry e => bit1 e.sev 7
  | _ => false

/-- The 32 bytes of an event entry (Table 16-2). -/
def EventEntry.bytes (e : EventEntry) : List Byte :=
  leBytes 8 e.time.toNat ++ leBytes 8 e.tick.toNat ++ leBytes 4 e.seq.toNat ++ leBytes 2 e.code.toNat ++ leBytes 1 e.sev.toNat
    ++ leBytes 1 e.src.toNat ++ leBytes 8 e.detail.toNat

/-- The 32 bytes of a position of the event ring. -/
def LogSlot.bytes : LogSlot → List Byte
  | .empty => leBytes 32 0
  | .entry e => e.bytes
  | .ext b => b

/-- A page of the persisted log: the number of the log ring block it lies in, that block's address, the page's number in it, and
its entries (R411, R637). -/
structure LogPage where
  block : Nat
  at_ : Nat
  page : Nat
  slots : List LogSlot
  deriving DecidableEq, Repr

/-- The event log (R633 to R639). -/
structure Log where
  /-- The on-die ring by slot, position mod 8,192. -/
  ring : Tbl LogSlot := []
  /-- Positions taken so far. -/
  pos : Nat := 0
  seq : Nat := 0
  /-- Positions below this one are not pending. -/
  flushed : Nat := 0
  lost : Nat := 0
  lostSince : Nat := 0
  lastFlush : Nat := 0
  lastFlushTick : Nat := 0
  deriving DecidableEq, Repr

end Sys2Proof.Machine
end

