-- ==== Sys2Proof/Machine/StateDevice.lean ====
section
/-! DEFINITION. The state of the device outside its Spires and partitions: the Span ports, the model store, boot, flash
and fuses, power and clocks, and the test access port (chapters 10, 11, 14, 15, 17, 20). -/

namespace Sys2Proof.Machine

/-! Span ports (chapter 11). -/

/-- Whether a port may carry flits: before training, in training or a retrain, down, trained and limited to CTRL and
IDLE flits, or in full use. -/
inductive PortPhase where
  | off | training | down | ctrl | up
  deriving DecidableEq, Repr

/-- A partition on a port: its program, its slot origin, its lag, its places in both lists and its gates (R452 to R457). -/
structure Lane where
  program : Option Program := none
  origin : Nat := 0
  lag : Nat := 0
  lagLogged : Bool := false
  txAt : Nat := 0
  rxAt : Nat := 0
  gates : Tbl Nat := []
  deriving DecidableEq, Repr

/-- A bulk message on its way out of a port: its partition, VC and sub-channel, and the bodies of its flits still to
send (R463 to R466). -/
structure BulkOut where
  part : Nat
  vc : Nat
  sub : Nat
  /-- A transfer's own message, which needs the partition's right to send bulk messages on the port (Table 11-10). -/
  own : Bool
  opened : Bool
  bodies : List (List Byte)
  /-- A message forwarded for another device: the port it came in on and its channel, to which each flit that leaves
  returns a credit. -/
  back : Option (Nat × Nat) := none
  deriving DecidableEq, Repr

/-- A message that waits for its ACK: where it went, its partition and MSG_ID, the transfer it belongs to, and whether it is the closing SIGNAL. -/
structure BulkWait where
  dst : Nat
  part : Nat
  msgId : Nat
  spire : Nat
  unit : Nat
  xfer : Nat
  signal : Bool
  index : Nat
  deriving DecidableEq, Repr

/-- An accepted RX action, or an accepted WRITE or SIGNAL, that has not completed: when it does, and its push. -/
structure RxPending where
  part : Nat
  at_ : Nat
  push : Option (Nat × Nat × W32)
  deriving DecidableEq, Repr

/-- An inbound WRITE that waits for a window scrub (R360): its header fields and its raw bytes. -/
structure WriteWait where
  src : Nat
  part : Nat
  msgId : Nat
  window : Nat
  off : Nat
  bytes : List Byte
  deriving DecidableEq, Repr

/-- Counters of one Span port (Table 16-6). -/
structure PortCtr where
  uncorr : Nat := 0
  flitCrc : Nat := 0
  replays : Nat := 0
  retrains : Nat := 0
  schedDiscard : Nat := 0
  fecSymbols : Nat := 0
  lagSlots : Nat := 0
  deriving DecidableEq, Repr

/-- A control record that waits for a control slot; some fields are filled as it departs: DELAY of a BEACON counts from a
moment on, PING and PONG carry the time. -/
structure CtrlOut where
  bytes : List Byte
  since : Option Nat := none
  deriving DecidableEq, Repr

/-- One Span port. -/
structure Port where
  phase : PortPhase := .off
  /-- When training or the retrain under way began, and whether it is a retrain. -/
  since : Nat := 0
  retraining : Bool := false
  width : Nat := 0
  good : BitVec 6 := 0#6
  /-- The lane groups that failed while the port trained (R446). -/
  failed : BitVec 6 := 0#6
  partner : Option LinkRec := none
  mismatch : Bool := false
  partnerLeft : Bool := false
  /-- LINK_NS as measured since the latest training. -/
  linkNs : Option Nat := none
  /-- Flit slots since training completed, and the header of the frame that the slots depart in (Table 11-2), before its
  scrambling. -/
  frames : Nat := 0
  head : List Byte := []
  badHeads : Nat := 0
  /-- The number of the next flit slot. -/
  slot : Nat := 0
  txSeq : Nat := 0
  rxSeq : Nat := 0xFFF
  /-- A NAK is due; a discard has happened since the last accepted flit. -/
  nak : Bool := false
  discarding : Bool := false
  unacked : List FlitRec := []
  /-- Flits of the replay buffer still to send again, counted from its end. -/
  resend : Nat := 0
  ackAt : Nat := 0
  replaysInRow : Nat := 0
  /-- Times of retrains, and corrected symbols by lane with their times, of the latest second (R446). -/
  retrainTimes : List Nat := []
  fixes : List (Nat × Nat × Nat) := []
  /-- Control records that wait for a control slot. -/
  ctrl : List CtrlOut := []
  /-- When the latest PING departed, in ns (R482). -/
  pingAt : Option Nat := none
  sent : Option FlitRec := none
  lanes : Tbl Lane := []
  /-- Credits held by VC 0 sub-channel 0, VC 0 sub-channel 1 and VC 1, and credits to return. -/
  credits : Tbl Nat := []
  owed : Tbl Nat := []
  /-- Messages being sent, by VC, and messages that wait. -/
  out : Tbl (Option BulkOut) := []
  queue : List BulkOut := []
  lastPart : Tbl Nat := []
  /-- Messages under reception by channel: the bytes so far. -/
  inbox : Tbl (List Byte) := []
  waits : List BulkWait := []
  msgId : Tbl Nat := []
  pendingRx : List RxPending := []
  heldWrites : List WriteWait := []
  /-- The slot store (4 MiB). -/
  store : Bytes := []
  ctr : PortCtr := {}
  deriving DecidableEq, Repr

/-! Power, clocks and temperature (chapter 15). -/

/-- POWER_STATUS STATE (Table 15-7). -/
inductive PowerMode where
  | booting | running | shutdownDone | powerFail | clockFault | shuttingDown
  deriving DecidableEq, Repr

/-- The code of a power state (Table 15-7). -/
def PowerMode.code : PowerMode → Nat
  | .booting => 0 | .running => 1 | .shutdownDone => 2 | .powerFail => 3 | .clockFault => 4 | .shuttingDown => 5

/-- The steps of an orderly shutdown (R620): closing the tick, and stopping. -/
inductive ShutStep where
  | none | close | stop
  deriving DecidableEq, Repr

/-- Power, thermal control and clocks. -/
structure Power where
  mode : PowerMode := .booting
  /-- PWR_FAIL_N counts as asserted; filtered SHDN_REQ_N is low. -/
  failPin : Bool := false
  shdnPin : Bool := false
  /-- The log page of R614 has been dealt with. -/
  pageDone : Bool := false
  /-- Core voltage in units of 0.5 mV: the target; the latest read-back in mV and mA. -/
  target : Nat := 0
  mv : Nat := 0
  ma : Nat := 0
  avsMissed : Nat := 0
  /-- The Vout transition rate that the regulator has been given, in mV/µs, and its status as last read (Table 15-3). -/
  slewRate : Nat := 0
  avsStatus : Option Nat := none
  avsOff : Nat := 0
  avsFault : Bool := false
  avsRetryAt : Nat := 0
  /-- Consecutive readings whose smallest slack exceeds the margin by half or more (R602). -/
  slackRun : Nat := 0
  /-- The latest rail temperature (R601). -/
  railTemp : Option Nat := none
  /-- Tj and Th in °C; Th once the stacks are trained (R605). -/
  tj : Int := 0
  th : Option Int := none
  /-- THERM_TRIP_N is asserted; the always-on TRIPPED flag; THERM_STATUS TRIPPED; core and Span PLL outputs are gated. -/
  trip : Bool := false
  trippedFlag : Bool := false
  tripped : Bool := false
  gated : Bool := false
  /-- A core PLL has lost its lock (R599). -/
  pllLost : Bool := false
  shut : ShutStep := .none
  shutAt : Nat := 0
  /-- PF SHUTDOWN requests that wait for their final response. -/
  shutAsks : List Nat := []
  deriving DecidableEq, Repr

/-! Boot (chapter 14). -/

/-- Boot, as the always-on domain, the boot record and the attempt under way hold it. -/
structure Boot where
  /-- RESET_N is low. -/
  inReset : Bool := false
  /-- STAGE of BOOT_STATUS (Table 14-17), and whether an attempt is running. -/
  stage : Nat := 0
  /-- When the stage began (R569). -/
  stageSince : Nat := 0
  running : Bool := false
  complete : Bool := false
  /-- 0 A, 1 B, 3 none. -/
  slot : Nat := 0
  /-- The always-on attempt count, where it is valid (R573). -/
  count : Option Nat := none
  sel : Nat := 0
  plinthWhy : Nat := 0
  reason : Nat := 0
  /-- BOOT_HISTORY, newest first. -/
  history : List Nat := []
  /-- Outputs that have left the state of Table 19-2: those of the boot flash, of the regulator's bus, of the NAND and of the Span
  ports (R694). -/
  xspiOn : Bool := false
  avsOn : Bool := false
  nandOn : Bool := false
  spanOn : Bool := false
  /-- When the next attempt starts after a failure (R576). -/
  nextAt : Option Nat := none
  /-- An attempt is to start: after RESET_N deasserts, when the time of R576 has come, or after RESTART; and whether the
  attempts since RESTART use the strap as R592 says. -/
  due : Bool := true
  viaRestart : Bool := false
  completedAt : Nat := 0
  deriving DecidableEq, Repr

/-! The model store (chapter 10). -/

/-- Object states (Table 10-8), in table order. -/
inductive ObjState where
  | valid | degraded | lost | malformed | absent
  deriving DecidableEq, Repr

/-- The code of an object state. -/
def ObjState.code : ObjState → Nat
  | .valid => 0 | .degraded => 1 | .lost => 2 | .malformed => 3 | .absent => 4

/-- Staging states (R418). -/
inductive Staging where
  | notStaged | staging | resident
  deriving DecidableEq, Repr

/-- The code of a staging state (Table 12-8). -/
def Staging.code : Staging → Nat
  | .notStaged => 0 | .staging => 1 | .resident => 2

/-- An object of the model-object list: its state, its staging state, and its failed read-backs (R422). -/
structure ObjSt where
  state : ObjState := .absent
  staging : Staging := .notStaged
  badReadBacks : Nat := 0
  deriving DecidableEq, Repr

/-- An extent: the flash address of its first page, and its pages (R405). -/
structure Extent where
  addr : Nat
  pages : Nat
  deriving DecidableEq, Repr

/-- A commit record (Table 10-7); MAP_COUNT is the number of its maps, and the last field is RECORD_MAC. -/
structure CommitRec where
  seq : Nat
  objId : Nat
  ns : Nat
  replica : Nat
  replicas : Nat
  prot : Nat
  reloc : Nat
  payloadLen : Nat
  units : Nat
  digest : List Byte
  auth : List Byte
  maps : List Nat
  mac : List Byte := []
  deriving DecidableEq, Repr

/-- A superblock copy (Table 10-6). -/
structure SuperRec where
  gen : Nat
  storeId : List Byte
  binding : List Byte
  targets : List Nat
  pages : Nat
  blocks : Nat
  luns : Nat
  planes : Nat
  metaList : List Nat
  logList : List Nat
  deriving DecidableEq, Repr

/-- An index checkpoint (R410): the SEQ it covers, its entries (the flash address of a commit record, OBJ_ID and NS), and its
HMAC. -/
structure Checkpoint where
  covers : Nat
  entries : List (Nat × Nat × Nat)
  mac : List Byte
  deriving DecidableEq, Repr

/-- What a codeword holds, by its KIND (Table 10-4). -/
inductive Content where
  /-- The ciphertext of an object unit. -/
  | unit (bytes : List Byte)
  /-- Extents of a map, at most 512 (R406). -/
  | map (extents : List Extent)
  | commit (r : CommitRec)
  /-- A retire record: SEQ, OBJ_ID, NS and RECORD_MAC (R408). -/
  | retire (seq objId ns : Nat) (mac : List Byte)
  /-- A codeword of the run that an index checkpoint takes, with its place in the run. -/
  | checkpoint (c : Checkpoint) (i : Nat)
  | superblock (r : SuperRec)
  /-- The bad-block table: factory and grown bad blocks (R428, R429). -/
  | badBlocks (l : List Nat)
  /-- The wear table: erase counts by block (R424). -/
  | wear (t : Tbl Nat)
  | filler
  /-- The header of a ring block: BLOCK_SEQ (R402). -/
  | ringHeader (blockSeq : Nat)
  /-- Entries of the persisted log, 128 to a codeword (R637). -/
  | log (slots : List LogSlot)
  deriving DecidableEq, Repr

/-- A codeword as it is programmed: the NS, OBJ_ID and UNIT of its header, and what it holds. -/
structure Codeword where
  ns : Nat
  objId : Nat
  unit : Nat
  content : Content
  deriving DecidableEq, Repr

/-- One object replica of the index: its commit record and the flash address of that, its extents in unit order as its maps
give them, and whether the replica has failed (R419). -/
structure Replica extends CommitRec where
  at_ : Nat := 0
  extents : List Extent
  failed : Bool := false
  deriving DecidableEq, Repr

/-- How far the replica that an import writes has come (R416): nothing of it, its chunks, its maps, or its commit record. -/
inductive ImportPhase where
  | queued | units | maps | commit
  deriving DecidableEq, Repr

/-- An import that has been accepted (R413 to R416): the request (function, MSG_ID, partition, and what its message and its
has not been read. -/
structure ImportRun where
  fn : Nat
  msg : Nat
  part : Nat
  ns : Nat
  objId : Nat
  replicas : Nat
  prot : Nat
  digest : List Byte
  auth : List Byte
  payload : List Byte
  replica : Nat := 0
  phase : ImportPhase := .queued
  extents : List Extent := []
  maps : List Nat := []
  wait : List Nat := []
  /-- A partition reset has ended it; only programs that had started go on. -/
  abandoned : Bool := false
  deriving DecidableEq, Repr

/-- Read-ladder counters of a NAND channel (Table 16-6). -/
structure NandCtr where
  step1 : Nat := 0
  step2 : Nat := 0
  step3 : Nat := 0
  ue : Nat := 0
  levels : Nat := 0
  deriving DecidableEq, Repr

/-- One target, by 8 times its channel plus its number: resets this boot (R389), whether it is out of use until the next
boot, whether it is worn out (R430), the read-retry levels and the longest times it reports in µs, whether it stands in pSLC
mode, the latest Set Features write of a feature address and value (R386), and the time and the temperature of its latest ZQ
calibration (R385). -/
structure TargetSt where
  resets : Nat := 0
  out : Bool := false
  worn : Bool := false
  retry : Nat := 0
  tProg : Nat := 0
  tBers : Nat := 0
  tR : Nat := 0
  /-- Spare bytes of a page. -/
  spare : Nat := 0
  pslc : Bool := false
  feature : Option (Nat × W32) := none
  zqAt : Nat := 0
  zqTemp : Option Int := none
  zqs : Nat := 0
  deriving DecidableEq, Repr

/-- A staging in progress: the object and the replica it reads. -/
structure StageRun where
  obj : Nat
  replica : Nat
  deriving DecidableEq, Repr

/-- The model store: what lies in NAND, and what the device knows of it. -/
structure StoreSt where
  inUse : Bool := false
  /-- Targets found at this boot's discovery, by 8 times the channel plus the target, in use. -/
  targets : List Nat := []
  /-- TARGETS of the superblock: the targets in use at format (Table 10-6). -/
  atFormat : List Nat := []
  pages : Nat := 0
  blocks : Nat := 0
  luns : Nat := 0
  planes : Nat := 0
  rate : Nat := 0
  /-- The Set Features address and values that enter and leave pSLC mode (R386). -/
  pslcFa : Nat := 0
  pslcOn : W32 := 0#32
  pslcOff : W32 := 0#32
  /-- The codewords that stand in flash, by address; an address without one is erased. -/
  cells : Tbl (Option Codeword) := []
  /-- The blocks that hold superblock copies, fixed at format (R397, R398). -/
  superList : List Nat := []
  /-- The rings, as block addresses in ring order (R401), the superblock generation, STORE_ID and the store key. -/
  metaList : List Nat := []
  logList : List Nat := []
  gen : Nat := 0
  storeId : List Byte := []
  key : List Byte := []
  /-- The metadata ring: the newest BLOCK_SEQ, the codewords used in its block, and one more than the block address of each
  BLOCK_SEQ still held; the addresses of the latest bad-block and wear tables, 0 for none. -/
  headSeq : Nat := 0
  headUsed : Nat := 0
  held : Tbl Nat := []
  badAt : Nat := 0
  wearAt : Nat := 0
  /-- The SEQ of the next commit or retire record, and the records written since the latest checkpoint. -/
  seq : Nat := 0
  sinceCheckpoint : Nat := 0
  /-- The object index. -/
  index : List Replica := []
  /-- Imports under way, oldest first; the first one that a reset has not ended writes. -/
  imports : List ImportRun := []
  /-- Data blocks that the operation under way has written chunks into, which no map names yet. -/
  claimed : List Nat := []
  /-- The log ring (R411): its pages, oldest first, the number of the block being written, its address, and the pages used in
  it. -/
  logPages : List LogPage := []
  logSeq : Nat := 0
  logAt : Nat := 0
  logUsed : Nat := 0
  /-- Pages programmed since the last erase, erase counts, and reads since the last erase, by block address; blocks marked
  for refresh; factory and grown bad blocks. -/
  filled : Tbl Nat := []
  erases : Tbl Nat := []
  reads : Tbl Nat := []
  refresh : List Nat := []
  factoryBad : List Nat := []
  bad : List Nat := []
  /-- Blocks that hold an uncorrectable codeword and still something live: they take no new data, and they are retired once they
  are empty (R429). -/
  failing : List Nat := []
  /-- Codewords found uncorrectable in this boot, whose block has not been erased since: they are not read any more (R419). -/
  lost : List Nat := []
  /-- Blocks whose erase was aborted (R613): erased again before they are next programmed. Pages whose program was cut short
  (R609): they do not read correct until their block is erased. -/
  cutErases : List Nat := []
  torn : List Nat := []
  warned80 : Bool := false
  warned95 : Bool := false
  /-- Relocation for free space is under way (R427). -/
  relocating : Bool := false
  tgt : Tbl TargetSt := []
  ctr : Tbl NandCtr := []
  objs : Tbl ObjSt := []
  staging : Option StageRun := none
  deriving DecidableEq, Repr

/-! Flash, fuses and Plinth mode (chapters 14 and 17). -/

/-- The OTP (Table 17-2). -/
structure Otp where
  rootKey : BitVec 256 := 0#256
  uniqueId : W64 := 0#64
  lid : BitVec 2 := 1#2
  pmMargin : BitVec 16 := 0#16
  hash0 : BitVec 384 := 0#384
  hash1 : BitVec 384 := 0#384
  hash2 : BitVec 384 := 0#384
  hash3 : BitVec 384 := 0#384
  revoke : BitVec 4 := 0#4
  arb : BitVec 64 := 0#64
  lock : Bool := false
  deriving DecidableEq, Repr

/-- A Plinth command under way. -/
inductive PlinthRun where
  | erase | program | read | checkSlot
  deriving DecidableEq, Repr

/-- A fuse still to blow (R652). -/
inductive FuseJob where
  | revoke (k : Fin 4)
  | arb (n : Fin 64)
  deriving DecidableEq, Repr

/-- The boot flash, the fuses, the Plinth registers, the key registers and the tamper counter. -/
structure Rom where
  /-- The boot flash: its size in bytes and its contents; an unlisted byte is 0xFF, as an erased flash reads. -/
  flashSize : Nat := 2 ^ 26
  flash : Bytes := []
  /-- The image buffer of PF BAR2; an unlisted byte is 0. -/
  image : Bytes := []
  otp : Otp := {}
  /-- OTP fields as the ROM stage loaded them (SEC_STATUS, DEV_IDENT). -/
  loaded : Bool := false
  bootKey : Nat := 0
  /-- Derived keys stand in the key registers (R654). -/
  keys : Bool := false
  fuses : List FuseJob := []
  tamper : Nat := 0
  plinthOut : Bool := false
  off : W32 := 0#32
  len : BitVec 21 := 0#21
  cmd : BitVec 4 := 0#4
  /-- The command under way, with the OFF and LEN it was started with. -/
  run : Option PlinthRun := none
  runOff : Nat := 0
  runLen : Nat := 0
  result : Nat := 0
  reason : Nat := 0
  plinthBusy : Nat := 0
  regIgnored : Nat := 0
  /-- PUBKEY and SVN of the running image. -/
  pubkey : List Byte := []
  svn : Nat := 0
  deriving DecidableEq, Repr

/-! The test access port (chapter 20). -/

/-- What provisioning blows: a hash into a key-hash slot, or LOCK (R732, R734). -/
inductive ProvJob where
  | slot (k : Fin 4) (hash : BitVec 384)
  | lock
  deriving DecidableEq, Repr

/-- What the boundary-scan side of the device holds: the current instruction, the bits that Capture-IR and Capture-DR loaded
last, the update latches of the boundary cells, whether the transmit pairs stand inverted (R730), the halt of R657, and
provisioning: the fuses being blown, RESULT, and the latched namespace (R732 to R735). -/
structure Tap where
  instr : Nat := 3
  ir : BitVec 8 := 1#8
  cells : BitVec 1378 := 0#1378
  captured : Nat := 0
  inverted : Bool := false
  halted : Bool := false
  job : Option ProvJob := none
  result : Nat := 0
  ns : Option (Fin 16) := none
  deriving DecidableEq, Repr

/-- Whether the current instruction is intrusive (Table 20-1). -/
def Tap.intrusive (t : Tap) : Bool := [0x00, 0x04, 0x05, 0x06, 0x07].contains t.instr || t.instr / 8 == 0x18

end Sys2Proof.Machine
end

