-- ==== Sys2Proof/Machine/State.lean ====
section
/-! DEFINITION. The machine's state as plain data, the reasons a step can stop, and the state right after reset. -/

namespace Sys2Proof.Machine

/-- Why the machine stops with a fault. -/
inductive Fault where
  /-- Raised by a host access whose offset lies outside the BAR it names (Table 12-3): the address does not exist. The
  hardware never sees such an access, so the fault is safe. -/
  | outsideBar
  deriving DecidableEq, Repr

/-- Why a command is refused. -/
inductive Refusal where
  /-- Raised by an arm of the dispatcher whose command has no meaning yet; safe. -/
  | notModelled (mnemonic : String)
  deriving DecidableEq, Repr

/-- The state of the block. -/
structure State where
  /-- Commands waiting, first in, first out. -/
  pending : List Instr := []
  /-- Time since power-up, in units of 1/1683 ns, in which one ccyc of every profile is a whole number. -/
  time : Nat := 0
  /-- When RESET_N was last deasserted, on the same base. -/
  resetAt : Nat := 0
  /-- CCYC: ccyc since the CLOCKS stage, modulo 2^48 (Table 16-6). -/
  ccyc : BitVec 48 := 0#48
  /-- The model's own counter of free values taken; nothing rests on its value. -/
  free : Nat := 0
  cfg : Cfg := {}
  core : Core := {}
  parts : Tbl Part := []
  tick : Tick := {}
  host : HostSt := {}
  log : Log := {}
  ports : Tbl Port := []
  power : Power := {}
  boot : Boot := {}
  store : StoreSt := {}
  rom : Rom := {}
  tap : Tap := {}
  deriving DecidableEq, Repr

/-- The machine right after reset. -/
def State.reset : State := {}

end Sys2Proof.Machine
end

