-- ==== Sys2Proof/Machine/Ops.lean ====
section
/-! DEFINITION. The named operations over the state that every family of commands uses: parts of the state and their
updates, counters, time, the event log, interrupts, freezing, tile SRAM and HBM. -/

namespace Sys2Proof.Machine

open Host (Outcome)

/-! Parts of the state. -/

/-- A partition. -/
def State.part (s : State) (p : Nat) : Part := Tbl.get {} p s.parts
/-- Replace a partition. -/
def State.setPart (s : State) (p : Nat) (x : Part) : State := { s with parts := Tbl.put {} p x s.parts }
/-- Change a partition. -/
def State.onPart (s : State) (p : Nat) (f : Part → Part) : State := s.setPart p (f (s.part p))
/-- A Spire. -/
def State.spire (s : State) (sp : Nat) : Spire := Tbl.get {} sp s.core.spires
/-- Replace a Spire. -/
def State.setSpire (s : State) (sp : Nat) (x : Spire) : State :=
  { s with core := { s.core with spires := Tbl.put {} sp x s.core.spires } }
/-- Change a Spire. -/
def State.onSpire (s : State) (sp : Nat) (f : Spire → Spire) : State := s.setSpire sp (f (s.spire sp))
/-- Change a Spire's counters. -/
def State.onCtr (s : State) (sp : Nat) (f : SpireCtr → SpireCtr) : State := s.onSpire sp (fun x => { x with ctr := f x.ctr })
/-- A context of a Spire. -/
def Spire.ctx (x : Spire) (c : Nat) : Ctx := Tbl.get {} c x.ctxs
/-- Change a context. -/
def Spire.onCtx (x : Spire) (c : Nat) (f : Ctx → Ctx) : Spire := { x with ctxs := Tbl.put {} c (f (x.ctx c)) x.ctxs }
/-- The transfers a unit holds: engines 0 to 3, the Lantern path 4. -/
def Spire.unit (x : Spire) (u : Nat) : List Xfer := Tbl.get [] u x.units
/-- Replace the transfers a unit holds. -/
def Spire.setUnit (x : Spire) (u : Nat) (l : List Xfer) : Spire := { x with units := Tbl.put [] u l x.units }
/-- A PCIe function: VF k is k, the PF is 16. -/
def State.fn (s : State) (f : Nat) : Func := Tbl.get {} f s.host.fns
/-- Change a function. -/
def State.onFn (s : State) (f : Nat) (g : Func → Func) : State :=
  { s with host := { s.host with fns := Tbl.put {} f (g (s.fn f)) s.host.fns } }
/-- Change the core. -/
def State.onCore (s : State) (f : Core → Core) : State := { s with core := f s.core }
/-- Answer the latest host request. -/
def State.answer (s : State) (c : Completion) : State := { s with host := { s.host with completion := c } }
/-- The configuration of a partition. -/
def State.pcfg (s : State) (p : Nat) : PartCfg := s.cfg.part p
/-- The partition that owns a Spire. -/
def State.owner (s : State) (sp : Nat) : Option Nat := s.cfg.ownerOf sp
/-- A fresh number, for transfers, requests and pushes. -/
def State.freshId (s : State) : Nat × State :=
  (s.core.nextId, { s with core := { s.core with nextId := s.core.nextId + 1 } })
/-- The number of the next free value, and the state that has taken it. -/
def State.takeFree (s : State) : Nat × State := (s.free, { s with free := s.free + 1 })

/-! Counters (R640). -/

/-- A 32-bit saturating counter after `k` more. -/
def sat32 (n k : Nat) : Nat := min (n + k) (2 ^ 32 - 1)
/-- A 48-bit saturating counter after `k` more. -/
def sat48 (n k : Nat) : Nat := min (n + k) (2 ^ 48 - 1)
/-- A 48-bit wrapping counter after `k` more. -/
def wrap48 (n k : Nat) : Nat := (n + k) % 2 ^ 48

/-! Time. -/

/-- Time units of one ccyc: 1/1683 ns is 1/935 of 1/1.80 GHz, 1/1530 of 1/1.10 GHz and 1/1980 of 1/0.85 GHz
(Table 0-3). -/
def Profile.ccycUnits : Profile → Nat
  | .pod720 => 935 | .store260 => 1530 | .cool180 => 1980

/-- Time units of a nanosecond. -/
def unitsPerNs : Nat := 1683
/-- Time units of a microsecond. -/
def unitsPerUs : Nat := 1683000
/-- Time units of a count of the 25 MHz always-on reference. -/
def refUnits : Nat := 40 * unitsPerNs
/-- Whether the core clock runs: from the CLOCKS stage on, until a core PLL loses its lock (R599). -/
def State.clocked (s : State) : Bool :=
  decide (s.power.target ≠ 0) && !s.power.gated && !s.power.pllLost && !s.boot.inReset
/-- The private opcodes that LOCK turns into BYPASS (R725). -/
def lockedOpcode (op : Nat) : Bool := (decide (0x80 ≤ op) && decide (op ≤ 0x82)) || op / 8 == 0x18

/-- Whether an intrusive instruction is current: once LOCK is blown, a private opcode acts as BYPASS (R725). -/
def State.intrusive (s : State) : Bool := s.tap.intrusive && !(s.rom.otp.lock && lockedOpcode s.tap.instr)

/-- Whether the device goes on by itself: it has not stopped for a power failure (R612, R615), a completed shutdown (R621), a
thermal trip (R609) or the boundary scan (R657). -/
def State.goesOn (s : State) : Bool :=
  s.power.mode != .powerFail && s.power.mode != .shutdownDone && !s.power.gated && !s.tap.halted

/-- Time units of a step with nothing to do: one ccyc, or 40 ns of the 25 MHz reference while no core clock runs. -/
def State.stepUnits (s : State) : Nat := if s.clocked then s.cfg.profile.ccycUnits else refUnits
/-- Whether a moment lies in the present ccyc or before it (R740). -/
def State.reached (s : State) (t : Nat) : Bool := decide (t < s.time + s.stepUnits)
/-- Whether what was accepted at a time came before an edge, that is, in an earlier ccyc (R740). -/
def State.before (s : State) (t edge : Nat) : Bool := decide (t + s.stepUnits ≤ edge)
/-- The tick period in time units (R32). -/
def State.periodUnits (s : State) : Nat := s.cfg.periodUs * unitsPerUs
/-- Nanoseconds since RESET_N deasserted. -/
def State.nsSinceReset (s : State) : Nat := (s.time - s.resetAt) / unitsPerNs
/-- A moment on the base of tick timestamps (R40): PTM time under the PTM-disciplined timer once an exchange has
succeeded, else the time since RESET_N deasserted. A device whose edges come from beacons has another source than its
configured one (R38). -/
def State.nsAt (s : State) (t : Nat) : Nat :=
  let ns := (t - s.resetAt) / unitsPerNs
  if s.cfg.tickSource = .ptm ∧ s.tick.ptmLock ∧ !s.cfg.follows then ((ns : Int) + s.tick.ptmOffset).toNat else ns
/-- The present time on the base of tick timestamps. -/
def State.nowNs (s : State) : Nat := s.nsAt s.time
/-- The tick number that counts as the current one; all ones before the first edge (Table 16-2). -/
def State.tickWord (s : State) : Nat := s.tick.count.getD (2 ^ 64 - 1)

/-! Interrupts (R518). -/

/-- Signal a vector of a function: a message is sent, or the pending bit is set once where the vector is masked, MSI-X
is off, Bus Master Enable is clear or the PF is in D3hot (R494). No vector is signalled in Plinth mode (R588). -/
def State.signal (s : State) (fn vec : Nat) : State :=
  if s.rom.plinthOut then s else
  s.onFn fn fun f =>
    let m := f.msix
    if m.enable ∧ ¬m.maskAll ∧ m.unmasked.contains vec ∧ f.busMaster ∧ ¬s.host.d3hot then
      { f with msix := { m with sent := Tbl.put 0 vec (Tbl.get 0 vec m.sent + 1) m.sent } }
    else if m.pending.contains vec then f
    else { f with msix := { m with pending := vec :: m.pending } }

/-- The PF's function number. -/
def pfFn : Nat := 16

/-! The event log (R631 to R638). -/

/-- The entries that are lost with a slot that is written again (R638): an event takes its extension entry along, which never
stands apart from it (Table 16-2), and which has therefore been counted when its own slot comes. -/
def LogSlot.entries : LogSlot → Nat
  | .entry e => 1 + b2n (bit1 e.sev 6)
  | _ => 0

/-- Write one position of the ring. A slot whose previous entry is still pending loses it (R638). -/
def State.logSlot (s : State) (x : LogSlot) : State :=
  let l := s.log
  let slot := l.pos % 8192
  let old := Tbl.get .empty slot l.ring
  let loses := s.store.inUse && decide (l.pos ≥ 8192) && decide (l.pos - 8192 ≥ l.flushed) && !old.prior
  { s with log := { l with
      ring := Tbl.put .empty slot x l.ring
      pos := l.pos + 1
      lost := if loses then sat32 l.lost old.entries else l.lost
      lostSince := if loses then sat32 l.lostSince old.entries else l.lostSince } }

/-- The source byte of an entry (Table 16-2). -/
def srcByte : Option Nat → Nat
  | some p => p % 16 + 16
  | none => 0

/-- Log an event with its code, severity, partition, DETAIL and extension entry (R632); the PF EVENT vector is
signalled from severity warning on (Table 16-3). -/
def State.event (s : State) (code sev : Nat) (part : Option Nat) (detail : Nat) (ext : Option (List Byte) := none) : State :=
  let e : EventEntry := {
    time := BitVec.ofNat 64 s.nowNs
    tick := BitVec.ofNat 64 s.tickWord
    seq := BitVec.ofNat 32 s.log.seq
    code := BitVec.ofNat 16 code
    sev := BitVec.ofNat 8 (sev + (if ext.isSome then 64 else 0))
    src := BitVec.ofNat 8 (srcByte part)
    detail := BitVec.ofNat 64 detail }
  let s1 := s.logSlot (.entry e)
  let s2 := match ext with
    | some b => s1.logSlot (.ext b)
    | none => s1
  let s3 := { s2 with log := { s2.log with seq := s2.log.seq + 1 } }
  if sev ≥ 2 then s3.signal pfFn 1 else s3

/-! Partitions and masters. -/

/-- Whether a Spire holds a frozen master. -/
def State.spireFrozen (s : State) (sp : Nat) : Bool := (s.spire sp).frozen != 0#6
/-- Whether the sequencer of a Spire is frozen. -/
def State.seqFrozen (s : State) (sp : Nat) : Bool := bit1 (s.spire sp).frozen 0
/-- Whether an engine (0 to 3) or the Lantern path (4) is frozen. -/
def State.unitFrozen (s : State) (sp u : Nat) : Bool := bit1 (s.spire sp).frozen (u + 1)
/-- The Spires a partition claims. -/
def State.spiresOf (s : State) (p : Nat) : List Nat := (List.range 16).filter (fun sp => bitOf (s.pcfg p).spires sp)
/-- The Spires of a partition's running plan that have a part. -/
def State.planSpires (s : State) (p : Nat) : List Nat := (s.part p).plan.parts.map (·.spire)
/-- The defined partitions. -/
def State.definedParts (s : State) : List Nat := (List.range 16).filter (fun p => (s.pcfg p).defined)
/-- Whether a partition holds a frozen master other than its host window (R535). -/
def State.partFrozen (s : State) (p : Nat) : Bool :=
  (s.spiresOf p).any s.spireFrozen || (s.part p).slotsFrozen != 0#8

/-- The FRZ registers after the freeze of a master with a reason (R540): the first freeze writes them, later ones add
their bit; of two in one ccyc the lower master number stands (chapter 13, "When things fall together"). -/
def Spire.record (x : Spire) (master reason ctx detail ccyc tick : Nat) (mask : BitVec 6) : Spire :=
  let masks := x.frozen ||| mask
  let sameCcyc := x.frzC.toNat = ccyc % 2 ^ 32 ∧ fld x.frzD 15 0 = ccyc / 2 ^ 32 % 2 ^ 16 ∧ fld x.frzD 31 16 = tick % 2 ^ 16
  if x.frozen = 0#6 ∨ (sameCcyc ∧ master < fld x.frzA 18 16) then
    { x with
      frozen := masks
      frzA := BitVec.ofNat 32 (masks.toNat + reason * 2 ^ 8 + master * 2 ^ 16 + ctx % 8 * 2 ^ 20)
      frzB := BitVec.ofNat 32 detail
      frzC := BitVec.ofNat 32 ccyc
      frzD := BitVec.ofNat 32 (ccyc / 2 ^ 32 % 2 ^ 16 + tick % 2 ^ 16 * 2 ^ 16) }
  else
    { x with frozen := masks, frzA := (x.frzA &&& 0xFFFFFFC0#32) ||| BitVec.ofNat 32 masks.toNat }

/-- Whether a transfer has work outstanding: requests, and for a BULK_WRITE also the message under assembly and the ACKs it
waits for, since its bytes have been accepted only then (R254, R468, R469; DEDUCED, log 42). -/
def Xfer.busy (x : Xfer) : Bool := !x.reqs.isEmpty || x.bulkBuf.isSome || decide (x.bulkOut ≠ 0) || decide (x.bulkSignal = 1)

/-- A transfer stopped (R290, R291): what stays of it, the transfers dropped, and the bytes discarded. -/
def Xfer.stop (x : Xfer) : Option Xfer × Nat × Nat :=
  if x.stopped then (some x, 0, 0)
  else
    let discarded := match x.gathered with
      | some r => if r.kind = .write then r.bytes.length else 0
      | none => 0
    if x.issued = 0 then (none, 1, discarded)
    else if !x.busy then (none, 0, discarded)
    else (some { x with stopped := true, gathered := none, push := .none }, 0, discarded)

/-- Stop every transfer a unit holds. -/
def Spire.stopUnit (x : Spire) (u : Nat) : Spire :=
  let rs := (x.unit u).map Xfer.stop
  let kept := rs.filterMap (fun r => r.1)
  let dropped := rs.foldl (fun a r => a + r.2.1) 0
  let bytes := rs.foldl (fun a r => a + r.2.2) 0
  { x.setUnit u kept with undone := x.undone || !(x.unit u).isEmpty, ctr := { x.ctr with
      droppedXfer := sat32 x.ctr.droppedXfer dropped
      wcDiscard := sat48 x.ctr.wcDiscard bytes } }

/-- Stop every unit of a Spire. -/
def Spire.stopAllUnits (x : Spire) : Spire := [0, 1, 2, 3, 4].foldl Spire.stopUnit x

/-- The bytes of the "Master frozen" extension entry (Table 16-5). -/
def frozenExt (addr window ns msgId ccyc : Nat) : List Byte :=
  leBytes 8 addr ++ leBytes 1 window ++ leBytes 1 ns ++ leBytes 2 msgId ++ leBytes 4 0 ++ leBytes 8 ccyc ++ leBytes 8 0

/-- Log a freeze and signal the ALERT vector of the partition's VF (R539). -/
def State.frozenEvent (s : State) (p reason spire master detail ctx port addr window ns msgId : Nat) : State :=
  (s.event 0x0201 3 (some p)
    (reason + spire * 2 ^ 8 + master * 2 ^ 12 + detail % 2 ^ 32 * 2 ^ 16 + ctx % 8 * 2 ^ 48 + port % 8 * 2 ^ 51)
    (some (frozenExt addr window ns msgId (s.part p).ccyc))).signal p 2

/-- Freeze a master of a Spire: 0 the sequencer, which takes the engines and the Lantern path with it (R533), 1 to 4
the engines, 5 the Lantern path. `detail` is the whole value R750 names, `addr` the address field of the extension
entry. A master already frozen, or of a partition in a reset, is left as it is (R539, chapter 13). -/
def State.freeze (s : State) (sp master reason detail addr : Nat) (ctx : Nat := 0) (window : Nat := 0xFF) : State :=
  match s.owner sp with
  | none => s
  | some p =>
    let x := s.spire sp
    if bit1 x.frozen master ∨ (s.part p).reset ≠ .none then s
    else
      let mask : BitVec 6 := if master = 0 then 0x3F#6 else BitVec.ofNat 6 (2 ^ master)
      let y := x.record master reason ctx detail (s.part p).ccyc s.tickWord mask
      let z := if master = 0 then y.stopAllUnits else y.stopUnit (master - 1)
      let wb := if master = 0 then s.core.writeBacks.filter (fun w => decide (w.spire ≠ sp) || decide (w.at_ ≤ (s.part p).ccyc)) else s.core.writeBacks
      let s1 := (s.setSpire sp { z with seqFrozenAt := if master = 0 then (s.part p).ccyc else z.seqFrozenAt }).onCore (fun c => { c with writeBacks := wb })
      s1.frozenEvent p reason sp master detail ctx 0 addr window 0xFF 0

/-- Freeze every Spire of a partition (R295, R337). -/
def State.freezeAll (s : State) (p reason detail addr : Nat) : State :=
  (s.spiresOf p).foldl (fun a sp => a.freeze sp 0 reason detail addr) s

/-- Freeze the host window of a VF (R497, R529), with the FRZ_HOST registers of Table 13-5. No new freeze is recorded during a
partition reset (chapter 13, "When things fall together"). -/
def State.freezeHost (s : State) (p reason : Nat) (write : Bool) (off : Nat) (ns msgId : Nat) : State :=
  let x := s.part p
  if bit1 x.frzHost 0 ∨ x.reset ≠ .none then s
  else
    let low := if reason = 2 then off % 2 ^ 32 else msgId % 2 ^ 16 + ns % 256 * 2 ^ 16
    let y := { x with
      frzHost := BitVec.ofNat 32 (1 + reason * 2 ^ 8 + b2n write * 2 ^ 16)
      frzHostLo := BitVec.ofNat 32 low
      frzHostHi := BitVec.ofNat 32 (if reason = 2 then off / 2 ^ 32 % 32 else 0) }
    (s.setPart p y).frozenEvent p reason 0 6 low 0 0 (if reason = 2 then off else 0) 0xFF
      (if reason = 3 then ns else 0xFF) (if reason = 3 then msgId else 0)

/-- Freeze the receive slot set of a partition on a port (R456, R530). -/
def State.freezeSlots (s : State) (p port : Nat) : State :=
  let x := s.part p
  if bit1 x.slotsFrozen port then s
  else
    (s.setPart p { x with slotsFrozen := x.slotsFrozen ||| BitVec.ofNat 8 (2 ^ port) }).frozenEvent p 4 0 7 0 0 port 0 0xFF 0xFF 0

/-! Tile SRAM (R147, R623 to R626). -/

/-- The key of a byte of tile SRAM. -/
def sramKey (tile a : Nat) : Nat := tile * 0x40000 + a % 0x40000
/-- The device address of a byte in the tile SRAM aperture (Table 9-1). -/
def sramAperture (tile a : Nat) : Nat := 0x4000000000 + sramKey tile a
/-- A byte of tile SRAM. -/
def State.sramByte (s : State) (tile a : Nat) : Byte := Tbl.get 0#8 (sramKey tile a) s.core.sram
/-- Bytes of tile SRAM; addresses are taken modulo 2^18. -/
def State.sramRead (s : State) (tile a n : Nat) : List Byte := (List.range n).map (fun i => s.sramByte tile (a + i))

/-- Write bytes of a tile's SRAM. -/
def putSram (m : Bytes) (tile a : Nat) : List Byte → Bytes
  | [] => m
  | b :: bs => putSram (Tbl.put 0#8 (sramKey tile a) b m) tile (a + 1) bs

/-- Whether a read of `n` bytes meets a word. -/
def meetsWord (tile a n w : Nat) : Bool :=
  let lo := a % 0x40000
  let off := w * 8 - tile * 0x40000
  decide (w / 0x8000 = tile) && decide (n ≠ 0)
    && ((decide (off < lo + n) && decide (lo < off + 8)) || decide (off + 0x40000 < lo + n))

/-- Write bytes to tile SRAM. A word written, in whole or in part, has a valid code again (R623). -/
def State.sramWrite (s : State) (tile a : Nat) (bs : List Byte) : State :=
  let keep (l : List Nat) : List Nat := l.filter (fun w => !meetsWord tile a bs.length w)
  s.onCore fun c => { c with sram := putSram c.sram tile a bs, sramCe := keep c.sramCe, sramUe := keep c.sramUe }

/-- SRAM upsets that stand from now on: an uncorrectable word holds what it reads as, which is free (R625), and a word with a
single-bit error reads corrected (R624). -/
def State.upset (s : State) (us : List Upset) : State :=
  us.foldl (fun a u =>
    let w := u.tile.val * 0x8000 + u.word.val
    if u.hard then
      let (id, b) := a.takeFree
      b.onCore fun c => { c with
        sram := putSram c.sram u.tile.val (8 * u.word.val) ((List.range 8).map (Config.meshByte id))
        sramUe := w :: c.sramUe.filter (· ≠ w), sramCe := c.sramCe.filter (· ≠ w) }
    else if a.core.sramUe.contains w then a
    else a.onCore fun c => { c with sramCe := w :: c.sramCe.filter (· ≠ w) }) s

/-- What reads find in tile SRAM (R624, R625): single-bit errors are counted; the first uncorrectable word is counted
and freezes the Spire of the tile. Each read is a tile, an address and a length. -/
def State.noteReads (s : State) (sp : Nat) (reads : List (Nat × Nat × Nat)) (ctx : Nat := 0) : State :=
  let meets (l : List Nat) : List Nat := reads.flatMap (fun r => l.filter (fun w => meetsWord r.1 r.2.1 r.2.2 w))
  if s.core.sramCe.isEmpty && s.core.sramUe.isEmpty then s
  else
    let ce := meets s.core.sramCe
    let ue := meets s.core.sramUe
    let s1 := s.onCtr sp (fun c => { c with sramCe := sat32 c.sramCe ce.length, sramUe := sat32 c.sramUe ue.length })
    match ue with
    | [] => s1
    | w :: _ => let a := 0x4000000000 + w * 8; s1.freeze sp 0 0x0A a a ctx

/-- The Spire that holds a tile (R143 to R145). -/
def spireOfTile (tile : Nat) : Nat :=
  let gx := tile % 64
  let gy := tile / 64
  8 * (gx / 32) + 2 * (gy / 16) + gx % 32 / 16
/-- The tile ID of a local index in a Spire (R143 to R145). -/
def tileOf (sp i : Nat) : Nat :=
  (16 * (sp % 8 / 2) + i / 16) * 64 + 32 * (sp / 8) + 16 * (sp % 2) + i % 16
/-- The local index of a tile in its Spire (R145). -/
def localIndex (tile : Nat) : Nat := tile / 64 % 16 * 16 + tile % 16

/-! HBM and the Cupolas. -/

/-- The first device address past HBM (Table 9-1). -/
def hbmSize : Nat := 216 * 2 ^ 30
/-- A byte of HBM. -/
def State.hbmByte (s : State) (a : Nat) : Byte := Tbl.get 0#8 a s.core.hbm
/-- Bytes of HBM. -/
def State.hbmRead (s : State) (a n : Nat) : List Byte := (List.range n).map (fun i => s.hbmByte (a + i))
/-- The uncorrectable bursts among those a read touches, each by its number. -/
def State.badIn (s : State) (a n : Nat) : List Nat :=
  s.core.hbmBad.filter (fun b => decide (b * 32 < a + n) && decide (a < b * 32 + 32))

/-- The first of them, as its device address. -/
def State.badBurst (s : State) (a n : Nat) : Option Nat := (s.badIn a n).head?.map (· * 32)

/-- The end-to-end code of a burst at a device address (R352): CRC-32C over the 8 B of the address and the 32 B of data. -/
def burstCode (a : Nat) (data : List Byte) : Nat := crc32c (leBytes 8 a ++ data)

/-- The code held beside a burst (R352): every write writes that of its address and data, so it is kept as these; a burst of
`hbmBad` holds one of which only is known that it does not match. -/
def State.codeHeld (s : State) (b : Nat) : Option Nat :=
  if s.core.hbmBad.contains b then none else some (burstCode (b * 32) (s.hbmRead (b * 32) 32))

/-- The check of a burst that a read makes (R352). -/
def State.codeFails (s : State) (b : Nat) : Bool := s.codeHeld b != some (burstCode (b * 32) (s.hbmRead (b * 32) 32))

/-- The uncorrectable bursts that a write touches without replacing them whole (R353, R356). -/
def State.badEdges (s : State) (a n : Nat) : List Nat :=
  (s.badIn a n).filter (fun b => !(decide (a ≤ b * 32) && decide (b * 32 + 32 ≤ a + n)))

/-- The first of them, as its device address. -/
def State.badPartial (s : State) (a n : Nat) : Option Nat := (s.badEdges a n).head?.map (· * 32)

/-- The set of a line (R368). -/
def cupolaSet (line : Nat) : Nat := (line % 2 ^ 14) ^^^ (line / 2 ^ 14 % 2 ^ 14) ^^^ (line / 2 ^ 28 % 4)
/-- The way of a set that holds a line. -/
def CupolaSet.wayOf (x : CupolaSet) (line : Nat) : Option Nat := (x.ways.find? (fun e => decide (e.2 = line + 1))).map Prod.fst
/-- Whether a Cupola holds a line. -/
def Cupola.holds (c : Cupola) (line : Nat) : Bool := ((Tbl.get {} (cupolaSet line) c.sets).wayOf line).isSome
/-- Invalidate a line in a Cupola, and keep a pending fill of it from being placed (R373, R374). -/
def Cupola.invalidate (c : Cupola) (line : Nat) : Cupola :=
  let k := cupolaSet line
  let x := Tbl.get {} k c.sets
  let sets := match x.wayOf line with
    | some w => Tbl.put {} k { x with ways := Tbl.put 0 w 0 x.ways } c.sets
    | none => c.sets
  { c with sets := sets, fills := c.fills.map (fun f => if f.line = line then { f with stale := true } else f) }

/-- The bytes of HBM after a write. -/
def putHbm (m : Bytes) (a : Nat) (bs : List Byte) : Bytes := Tbl.putRun 0#8 a bs m

/-- Invalidate the lines a write touches in both Cupolas. -/
def invalidateLines (cs : Tbl Cupola) (a n : Nat) : Tbl Cupola :=
  if n = 0 then cs
  else
    let lines := (List.range ((a + n - 1) / 256 - a / 256 + 1)).map (· + a / 256)
    [0, 1].foldl (fun t h => Tbl.put {} h (lines.foldl Cupola.invalidate (Tbl.get {} h t)) t) cs

/-- A write accepted by the memory side (R350, R373): both Cupolas' copies go first; a burst replaced whole is good
again (R356). -/
def State.hbmWrite (s : State) (a : Nat) (bs : List Byte) : State :=
  s.onCore fun c => { c with
    hbm := putHbm c.hbm a bs
    cupolas := invalidateLines c.cupolas a bs.length
    hbmBad := c.hbmBad.filter (fun b => !(decide (a ≤ b * 32) && decide (b * 32 + 32 ≤ a + bs.length))) }

/-- Invalidate the lines of a range in a Cupola, and keep pending fills of them from being placed (R360, R373). -/
def Cupola.invalidateRange (c : Cupola) (a n : Nat) : Cupola :=
  let hit (line : Nat) : Bool := decide (line * 256 < a + n) && decide (a < line * 256 + 256)
  { c with
    sets := (c.sets.map (fun e => (e.1, { e.2 with ways := e.2.ways.filter (fun w => !hit (w.2 - 1)) }))).filter (fun e => decide (e.2 ≠ {}))
    fills := c.fills.map (fun f => if hit f.line then { f with stale := true } else f) }

/-- Zeros, with valid codes, over a range of HBM (R357, R360, R498). -/
def State.hbmZero (s : State) (a n : Nat) : State :=
  s.onCore fun c => { c with
    hbm := Tbl.clear a n c.hbm
    cupolas := [0, 1].foldl (fun t h => Tbl.put {} h ((Tbl.get {} h t).invalidateRange a n) t) c.cupolas
    hbmBad := c.hbmBad.filter (fun b => !(decide (a ≤ b * 32) && decide (b * 32 + 32 ≤ a + n))) }

/-- A read whose burst has turned uncorrectable from now on. -/
def State.hbmSpoil (s : State) (bad : Option Nat) : State :=
  match bad with
  | some a => s.onCore fun c => { c with hbmBad := (a / 32) :: c.hbmBad.filter (· ≠ a / 32) }
  | none => s

/-- The pseudo-channel of an HBM address among the 384 of the device, and from it stack, channel and pseudo-channel, and the
local line (R348). -/
def pseudoOf (a : Nat) : Nat := a / 256 % 384
/-- The stack of an HBM address. -/
def stackOf (a : Nat) : Nat := pseudoOf a / 64
/-- The channel of an HBM address in its stack. -/
def channelOf (a : Nat) : Nat := pseudoOf a % 64 / 2
/-- The pseudo-channel of an HBM address in its channel. -/
def halfChannelOf (a : Nat) : Nat := pseudoOf a % 2
/-- The line of an HBM address within its pseudo-channel. -/
def localLineOf (a : Nat) : Nat := a / 256 / 384

/-- The Cupola of a Spire's half: 0 West, 1 East. -/
def halfOf (sp : Nat) : Nat := sp / 8

/-- Count uncorrectable bursts, each in its stack (R348, Table 16-6). -/
def State.countUe (s : State) (bursts : List Nat) : State :=
  bursts.foldl (fun (a : State) b => a.onCore fun c =>
    let st := stackOf (b * 32)
    let x := Tbl.get {} st c.hbmStacks
    { c with hbmStacks := Tbl.put {} st { x with ue := sat32 x.ue 1 } c.hbmStacks }) s

end Sys2Proof.Machine
end

