-- ==== Sys2Proof/Machine/Flash.lean ====
section
/-! DEFINITION. The boot flash: its slots, its bytes, what an erase and a program do to them (R553, R555, R591), and what a
cut-short Plinth command leaves of the range it worked on. -/

namespace Sys2Proof.Machine

/-- The size of a slot (R555). -/
def Rom.slotSize (r : Rom) : Nat := (r.flashSize - 0x100000) / 2
/-- Where a slot starts: 0 A, 1 B. -/
def Rom.slotBase (r : Rom) (slot : Nat) : Nat := if slot = 0 then 0x100000 else 0x100000 + r.slotSize
/-- Bytes of the flash; an erased byte reads 0xFF. -/
def Rom.flashRead (r : Rom) (a n : Nat) : List Byte := Tbl.getRun 0xFF#8 r.flash a n
/-- Bytes of a slot. -/
def Rom.slotRead (r : Rom) (slot off n : Nat) : List Byte := r.flashRead (r.slotBase slot + off) n
/-- Whether the flash meets R553's density: a power of two from 512 Mbit to 4 Gbit. -/
def Rom.densityOk (r : Rom) : Bool := [26, 27, 28, 29].any (fun k => decide (r.flashSize = 2 ^ k))

/-- Program bytes at consecutive addresses: bits that were 0 stay 0 (R591). -/
def programBytes (m : Bytes) (a : Nat) : List Byte → Bytes
  | [] => m
  | b :: bs => programBytes (Tbl.put 0xFF#8 a (Tbl.get 0xFF#8 a m &&& b) m) (a + 1) bs
/-- The flash after bytes are programmed. -/
def Rom.program (r : Rom) (a : Nat) (bs : List Byte) : Rom := { r with flash := programBytes r.flash a bs }
/-- The flash after a range is erased. -/
def Rom.erase (r : Rom) (a n : Nat) : Rom := { r with flash := Tbl.clear a n r.flash }

/-- The range of a Plinth ERASE or PROGRAM that does not end well: its bytes are free values. -/
def State.spoilFlash (s : State) : State :=
  let f := s.takeFree
  { f.2 with rom := { f.2.rom with
      flash := Tbl.putRun 0xFF#8 s.rom.runOff ((List.range s.rom.runLen).map (Config.flashByte f.1)) f.2.rom.flash } }

/-- A Plinth command that the device cannot go on with: an ERASE or a PROGRAM is cut short. -/
def State.cutPlinth (s : State) : State :=
  match s.rom.run with
  | none => s
  | some c =>
    let t := if c = .erase ∨ c = .program then s.spoilFlash else s
    { t with rom := { t.rom with run := none } }

/-! Provisioning fuses (R646, R732, R734). -/

/-- Blow the fuses of a hash in a key-hash slot; a blown fuse stays blown (R646). -/
def Otp.setHash (o : Otp) (k : Nat) (h : BitVec 384) : Otp :=
  match k with
  | 0 => { o with hash0 := o.hash0 ||| h }
  | 1 => { o with hash1 := o.hash1 ||| h }
  | 2 => { o with hash2 := o.hash2 ||| h }
  | _ => { o with hash3 := o.hash3 ||| h }

/-- The bits of a hash that an unfinished blowing has blown: at least one, where the hash has one. -/
def partHash (n : Nat) (h : BitVec 384) : BitVec 384 :=
  let p := BitVec.ofNat 384 ((List.range 384).foldl (fun a i => if bit1 h i && Config.freeBit n i then a + 2 ^ i else a) 0)
  if p = 0#384 then h &&& (0#384 - h) else p

/-- The OTP after a provisioning job whose fuses have all blown. -/
def Otp.provision (o : Otp) : ProvJob → Otp
  | .slot k h => o.setHash k.val h
  | .lock => { o with lock := true }

/-- The OTP after a provisioning job that did not end well: the fuses blown so far stay blown. -/
def Otp.provisionPart (o : Otp) (n : Nat) : ProvJob → Otp
  | .slot k h => o.setHash k.val (partHash n h)
  | .lock => { o with lock := o.lock || Config.freeBit n 0 }

/-- A reset during provisioning (chapter 20, "When things fall together"). -/
def State.cutProvision (s : State) : State :=
  match s.tap.job with
  | none => s
  | some j =>
    let f := s.takeFree
    { f.2 with rom := { f.2.rom with otp := f.2.rom.otp.provisionPart f.1 j }, tap := { f.2.tap with job := none } }

end Sys2Proof.Machine
end

