-- ==== Sys2Proof/Machine/Numeric.lean ====
section
/-! DEFINITION. The eight element types (Tables 3-1 to 3-3, R68 to R79), their exact values, and the conversions
between them. Values are exact: a sign, a whole number and a power of two. -/

namespace Sys2Proof.Machine

/-- The element types of Table 3-1. -/
inductive Elem where
  | fp32 | bf16 | fp16 | e4m3 | e5m2 | int8 | int4 | fp4
  deriving DecidableEq, Repr

/-- The element type of a code of Table 3-1; the other codes are reserved (R69). -/
def Elem.ofCode : Nat → Option Elem
  | 0 => some .fp32 | 1 => some .bf16 | 2 => some .fp16 | 3 => some .e4m3
  | 4 => some .e5m2 | 5 => some .int8 | 6 => some .int4 | 7 => some .fp4
  | _ => none

/-- Width in bits (Table 3-1). -/
def Elem.width : Elem → Nat
  | .fp32 => 32 | .bf16 => 16 | .fp16 => 16 | .e4m3 => 8 | .e5m2 => 8 | .int8 => 8 | .int4 => 4 | .fp4 => 4

/-- Whether the type is one of the two integer types. -/
def Elem.isInt : Elem → Bool
  | .int8 => true | .int4 => true | _ => false

/-- A value with no rounding in it: not a number, an infinity, or plus or minus `m` times two to the `e`. -/
inductive Val where
  | nan
  | inf (neg : Bool)
  | fin (neg : Bool) (m : Nat) (e : Int)
  deriving DecidableEq, Repr

/-- The layout of a floating-point type (Tables 3-1 and 3-2): mantissa bits, bias, the greatest finite magnitude code,
the infinity code where there is one, the canonical NaN code, and what a magnitude beyond the range becomes. -/
structure FloatFmt where
  width : Nat
  mant : Nat
  bias : Nat
  maxMag : Nat
  infMag : Option Nat
  nanCode : Nat
  overMag : Nat
  deriving DecidableEq, Repr

/-- The floating-point layouts; the integer types have none. -/
def Elem.fmt : Elem → Option FloatFmt
  | .fp32 => some ⟨32, 23, 127, 0x7F7FFFFF, some 0x7F800000, 0x7FC00000, 0x7F800000⟩
  | .bf16 => some ⟨16, 7, 127, 0x7F7F, some 0x7F80, 0x7FC0, 0x7F80⟩
  | .fp16 => some ⟨16, 10, 15, 0x7BFF, some 0x7C00, 0x7E00, 0x7C00⟩
  | .e4m3 => some ⟨8, 3, 7, 0x7E, none, 0x7F, 0x7E⟩
  | .e5m2 => some ⟨8, 2, 15, 0x7B, some 0x7C, 0x7E, 0x7B⟩
  | .fp4 => some ⟨4, 1, 1, 0x7, none, 0x0, 0x7⟩
  | _ => none

/-- The value of a magnitude code of a floating-point type (R71, Table 3-2). -/
def FloatFmt.decode (f : FloatFmt) (neg : Bool) (mag : Nat) : Val :=
  if f.infMag = some mag then .inf neg
  else if mag > f.maxMag then .nan
  else
    let e := mag >>> f.mant
    let m := mag % 2 ^ f.mant
    if e = 0 then .fin neg m (1 - (f.bias : Int) - f.mant)
    else .fin neg (2 ^ f.mant + m) ((e : Int) - f.bias - f.mant)

/-- The signed value of a two's complement code of width `w`. -/
def signedOf (w code : Nat) : Int := if bitOf code (w - 1) then (code % 2 ^ w : Int) - 2 ^ w else (code % 2 ^ w : Int)

/-- An integer as an exact value. -/
def Val.ofInt (i : Int) : Val := .fin (decide (i < 0)) i.natAbs 0

/-- The exact value of an element code (R71, R75). -/
def Elem.decode (t : Elem) (code : Nat) : Val :=
  match t.fmt with
  | some f => f.decode (bitOf code (f.width - 1)) (code % 2 ^ (f.width - 1))
  | none => .ofInt (signedOf t.width code)

/-- The nearest whole number to `n / d`, the even one on a tie (R72). -/
def rneDiv (n d : Nat) : Nat :=
  let q := n / d
  let r := n % d
  if 2 * r > d ∨ (2 * r = d ∧ q % 2 = 1) then q + 1 else q

/-- The nearest whole number to `m` times two to the `e`, the even one on a tie. -/
def rneInt (m : Nat) (e : Int) : Nat := if 0 ≤ e then m * 2 ^ e.toNat else rneDiv m (2 ^ (-e).toNat)

/-- The magnitude code nearest to `m` times two to the `e`, with no upper limit: subnormals are kept (R73). -/
def FloatFmt.roundMag (f : FloatFmt) (m : Nat) (e : Int) : Nat :=
  if m = 0 then 0
  else
    let low : Int := 1 - (f.bias : Int)
    let top : Int := max (e + (Nat.log2 m : Int)) low
    let quantum : Int := top - f.mant
    (top - low).toNat * 2 ^ f.mant + rneInt m (e - quantum)

/-- The result of one conversion: the code, and whether R79 counts it as an overflow or as a NaN removed. -/
structure Conv where
  code : Nat
  overflow : Bool
  nanRemoved : Bool
  deriving DecidableEq, Repr

/-- A magnitude code with its sign in the top bit. -/
def FloatFmt.signed (f : FloatFmt) (neg : Bool) (mag : Nat) : Nat := b2n neg * 2 ^ (f.width - 1) + mag

/-- A conversion to a floating-point type (R72 to R77, Table 3-3). -/
def FloatFmt.convert (f : FloatFmt) : Val → Conv
  | .nan => ⟨f.nanCode, false, decide (f.nanCode ≤ f.maxMag)⟩
  | .inf neg =>
    match f.infMag with
    | some i => ⟨f.signed neg i, false, false⟩
    | none => ⟨f.signed neg f.overMag, true, false⟩
  | .fin neg m e =>
    let mag := f.roundMag m e
    if mag > f.maxMag then ⟨f.signed neg f.overMag, true, false⟩ else ⟨f.signed neg mag, false, false⟩

/-- Two's complement code of width `w`. -/
def twosCode (w : Nat) (neg : Bool) (m : Nat) : Nat := if neg then (2 ^ w - m) % 2 ^ w else m

/-- A conversion to an integer type of width `w` (R72, R74, R75). -/
def convertInt (w : Nat) : Val → Conv
  | .nan => ⟨0, false, true⟩
  | .inf neg => ⟨twosCode w neg (2 ^ (w - 1) - 1), true, false⟩
  | .fin neg m e =>
    let k := rneInt m e
    if k > 2 ^ (w - 1) - 1 then ⟨twosCode w neg (2 ^ (w - 1) - 1), true, false⟩ else ⟨twosCode w neg k, false, false⟩

/-- Every conversion of the device (R72 to R79). -/
def Elem.convert (t : Elem) (v : Val) : Conv :=
  match t.fmt with
  | some f => f.convert v
  | none => convertInt t.width v

/-- A conversion from a type to itself that keeps every code but a NaN's (R267): the least integer code stays too. -/
def Elem.keepCode (t : Elem) (v : Val) : Conv :=
  match t.fmt, v with
  | none, .fin true m e => if m ≠ 0 ∧ rneInt m e = 2 ^ (t.width - 1) then ⟨2 ^ (t.width - 1), false, false⟩ else t.convert v
  | _, _ => t.convert v

/-- The FP32 layout. -/
def fp32Fmt : FloatFmt := ⟨32, 23, 127, 0x7F7FFFFF, some 0x7F800000, 0x7FC00000, 0x7F800000⟩

/-- The value of a 32-bit FP32 code. -/
def fp32Val (c : W32) : Val := fp32Fmt.decode (bit1 c 31) (c.toNat % 2 ^ 31)

/-- The FP32 code nearest to a value. -/
def fp32Of (v : Val) : W32 := BitVec.ofNat 32 (fp32Fmt.convert v).code

/-- The canonical FP32 NaN (R76). -/
def fp32NaN : W32 := 0x7FC00000#32

/-! Exact arithmetic. -/

/-- The sign-changed value. -/
def Val.neg : Val → Val
  | .nan => .nan
  | .inf n => .inf (!n)
  | .fin n m e => .fin (!n) m e

/-- The magnitude. -/
def Val.abs : Val → Val
  | .nan => .nan
  | .inf _ => .inf false
  | .fin _ m e => .fin false m e

/-- Whether the value is zero. -/
def Val.isZero : Val → Bool
  | .fin _ m _ => m == 0
  | _ => false

/-- Whether the value is not a number or infinite. -/
def Val.nonFinite : Val → Bool
  | .fin _ _ _ => false
  | _ => true

/-- The exact product; infinity times zero is not a number (R159). -/
def Val.mul : Val → Val → Val
  | .nan, _ => .nan
  | _, .nan => .nan
  | .inf a, .inf b => .inf (a != b)
  | .inf a, .fin b m _ => if m = 0 then .nan else .inf (a != b)
  | .fin a m _, .inf b => if m = 0 then .nan else .inf (a != b)
  | .fin a m e, .fin b n f => .fin (a != b) (m * n) (e + f)

/-- A value times two to the `q`. -/
def Val.scale (q : Int) : Val → Val
  | .fin n m e => .fin n m (e + q)
  | v => v

/-- A finite value as a signed whole number of units of two to the `base`, for a `base` at most its own exponent. -/
def Val.units (base : Int) : Val → Int
  | .fin n m e => let k : Int := m * 2 ^ (e - base).toNat; if n then -k else k
  | _ => 0

/-- The exponent of a finite value that is not zero; `d` of any other. -/
def Val.expOr (d : Int) : Val → Int
  | .fin _ m e => if m = 0 then d else e
  | _ => d

/-- The least exponent among values. -/
def minExp (vs : List Val) : Int :=
  match vs.filter (fun v => !v.isZero && !v.nonFinite) with
  | [] => 0
  | v :: t => t.foldl (fun a u => min a (u.expOr a)) (v.expOr 0)

/-- The exact sum of values: not a number where one is or where both infinities stand among them; an exact zero is
plus zero unless every addend is minus zero (R159). -/
def Val.sum (vs : List Val) : Val :=
  if vs.any (· == .nan) then .nan
  else if vs.contains (.inf true) && vs.contains (.inf false) then .nan
  else if vs.contains (.inf true) then .inf true
  else if vs.contains (.inf false) then .inf false
  else
    let base := minExp vs
    let total := vs.foldl (fun a v => a + (if v.isZero then 0 else v.units base)) 0
    if total = 0 then .fin (!vs.isEmpty && vs.all (fun v => match v with | .fin n m _ => n && m == 0 | _ => false)) 0 0
    else .fin (decide (total < 0)) total.natAbs base

/-- Whether one finite or infinite value is below another; false where one is not a number. Both zeros are equal. -/
def Val.lt (a b : Val) : Bool :=
  match a, b with
  | .nan, _ => false
  | _, .nan => false
  | .inf x, .inf y => x && !y
  | .inf x, .fin _ _ _ => x
  | .fin _ _ _, .inf y => !y
  | a, b => match Val.sum [a, b.neg] with
    | .fin n m _ => n && m != 0
    | _ => false

/-- Whether two values are equal as numbers. -/
def Val.eqv (a b : Val) : Bool := a != .nan && b != .nan && !a.lt b && !b.lt a

/-! FP32 arithmetic of the vector unit and the mesh (R166): rounded once, a NaN result in the canonical code. -/

/-- FP32 addition. -/
def fadd (a b : W32) : W32 := fp32Of (Val.sum [fp32Val a, fp32Val b])
/-- FP32 subtraction. -/
def fsub (a b : W32) : W32 := fp32Of (Val.sum [fp32Val a, (fp32Val b).neg])
/-- FP32 multiplication. -/
def fmul (a b : W32) : W32 := fp32Of ((fp32Val a).mul (fp32Val b))
/-- FP32 fused multiply-add, rounded once. -/
def ffma (a b c : W32) : W32 := fp32Of (Val.sum [(fp32Val a).mul (fp32Val b), fp32Val c])
/-- Whether an FP32 code is a NaN. -/
def fIsNaN (a : W32) : Bool := fp32Val a == .nan
/-- FP32 order. -/
def flt (a b : W32) : Bool := (fp32Val a).lt (fp32Val b)
/-- FP32 equality: both zeros are equal, no NaN is equal to anything. -/
def feq (a b : W32) : Bool := (fp32Val a).eqv (fp32Val b)

/-- A signed integer clamped to plus and minus 2,147,483,647, and whether it was clamped (R160). -/
def clampAcc (v : Int) : Int × Bool :=
  if v > 2147483647 then (2147483647, true)
  else if v < -2147483647 then (-2147483647, true)
  else (v, false)

end Sys2Proof.Machine
end

