-- ==== Sys2Proof/Machine/Forms.lean ====
section
/-! DEFINITION. The stored forms of tensors: Dense, Bolt (R80 to R89), AZ (R90 to R93) and Pleat (R111 to R142), as the
expander reads them and as the pack unit writes them. Bytes are read through a function from addresses. -/

namespace Sys2Proof.Machine

/-- The form codes of Table 3-10. -/
inductive Form where
  | dense | bb8 | bb4 | bb4s | az
  deriving DecidableEq, Repr

/-- The form of a code; the other codes are reserved (R102). -/
def Form.ofCode : Nat → Option Form
  | 0 => some .dense | 1 => some .bb8 | 2 => some .bb4 | 3 => some .bb4s | 4 => some .az | _ => none

/-- The Pleat codes of Table 4-1, with no Pleat. -/
inductive Pleat where
  | none | p24 | p14 | pv | p24t
  deriving DecidableEq, Repr

/-- The Pleat form of a code; the other codes are reserved (R111). -/
def Pleat.ofCode : Nat → Option Pleat
  | 0 => some .none | 1 => some .p24 | 2 => some .p14 | 3 => some .pv | 4 => some .p24t | _ => Option.none

/-- How a run of elements is stored. -/
structure Store where
  form : Form
  elem : Elem
  pleat : Pleat := .none
  k : Nat := 0
  deriving DecidableEq, Repr

/-- The element types a form takes (Table 3-10). -/
def Form.takes : Form → Elem → Bool
  | .dense, _ => true
  | .bb8, t => t == .e4m3 || t == .e5m2 || t == .int8
  | .bb4, t => t == .fp4 || t == .int4
  | .bb4s, t => t == .fp4 || t == .int4
  | .az, t => t != .int4 && t != .fp4

/-- Whether form, element type and Pleat code combine as Table 3-10 allows. -/
def Store.combines (s : Store) : Bool := s.form.takes s.elem && (s.pleat == .none || s.form != .az)

/-- Bytes of one Bolt record (Table 3-4). -/
def Form.recordBytes : Form → Nat
  | .bb8 => 33 | .bb4 => 17 | .bb4s => 18 | _ => 0

/-- Bytes of `n` dense elements (R70). -/
def denseBytes (t : Elem) (n : Nat) : Nat := (n * t.width + 7) / 8

/-- Bytes of a run of `n` dense or Bolt elements. -/
def runBytes (f : Form) (t : Elem) (n : Nat) : Nat :=
  match f with
  | .dense => denseBytes t n
  | .az => ceilDiv n 64 * (8 + 64 * (t.width / 8))
  | f => ceilDiv n 32 * f.recordBytes

/-- Dense positions of a Pleat unit (Table 4-1). -/
def Pleat.unit : Pleat → Nat
  | .none => 1 | .p24 => 64 | .p14 => 128 | .pv => 256 | .p24t => 64

/-- Kept values of a Pleat unit (Table 4-1). -/
def Pleat.kept : Pleat → Nat → Nat
  | .pv, k => 32 * k
  | _, _ => 32

/-- Metadata bytes of a Pleat unit (Table 4-2). -/
def Pleat.metaBytes : Pleat → Nat
  | .none => 0 | .pv => 32 | _ => 8

/-- Bytes of one Pleat unit (R133). -/
def Store.unitBytes (s : Store) : Nat := s.pleat.metaBytes + runBytes s.form s.elem (s.pleat.kept s.k)

/-- Bytes of a stored row of `n` elements, at its largest for AZ (R93, R104, R114). -/
def Store.rowBytes (s : Store) (n : Nat) : Nat :=
  if s.pleat = .none then runBytes s.form s.elem n else ceilDiv n s.pleat.unit * s.unitBytes

/-- The element code number `i` of a dense run at `base` (R70). -/
def codeAt (rd : Nat → Byte) (t : Elem) (base i : Nat) : Nat :=
  match t.width with
  | 4 => let b := (rd (base + i / 2)).toNat; if i % 2 = 0 then b % 16 else b / 16
  | 8 => (rd (base + i)).toNat
  | 16 => (rd (base + 2 * i)).toNat + 256 * (rd (base + 2 * i + 1)).toNat
  | _ => leNat [rd (base + 4 * i), rd (base + 4 * i + 1), rd (base + 4 * i + 2), rd (base + 4 * i + 3)]

/-- Element `i` of the Bolt record at `base`: its code, its scale and, in BB4s, its factor, unrounded (R81 to R84). -/
def boltVal (rd : Nat → Byte) (f : Form) (t : Elem) (base i : Nat) : Val :=
  let e := (rd base).toNat
  if e = 255 then .nan
  else
    let q := t.decode (codeAt rd t (base + (if f = .bb4s then 2 else 1)) i)
    let scaled := q.scale ((e : Int) - 127)
    if f = .bb4s then
      let m := (rd (base + 1)).toNat
      scaled.mul (.fin false (16 + (if i < 16 then m % 16 else m / 16)) (-4))
    else scaled

/-- Element `i` of a dense or Bolt run at `base`. -/
def runVal (rd : Nat → Byte) (f : Form) (t : Elem) (base i : Nat) : Val :=
  match f with
  | .dense => t.decode (codeAt rd t base i)
  | .az => .fin false 0 0
  | f => boltVal rd f t (base + i / 32 * f.recordBytes) (i % 32)

/-- The value of element `i` of an AZ record at `base` (R90, R91), and the bytes the record occupies (R93). -/
def azRecord (rd : Nat → Byte) (t : Elem) (base : Nat) : List Val × Nat :=
  let bitAt (i : Nat) : Bool := bitOf (rd (base + i / 8)).toNat (i % 8)
  let walk := (List.range 64).foldl
    (fun (a : List Val × Nat) i =>
      if bitAt i then (a.1 ++ [t.decode (codeAt rd t (base + 8) a.2)], a.2 + 1) else (a.1 ++ [t.decode 0], a.2)) ([], 0)
  (walk.1, roundUp (8 + walk.2 * (t.width / 8)) 8)

/-- The records of an AZ row, one after another, and the bytes they occupy (R169). -/
def azRow (rd : Nat → Byte) (t : Elem) : Nat → Nat → List Val × Nat
  | _, 0 => ([], 0)
  | base, j + 1 =>
    let r := azRecord rd t base
    let rest := azRow rd t (base + r.2) j
    (r.1 ++ rest.1, r.2 + rest.2)

/-- The values of a row of `n` elements that is not Pleat (R169). -/
def rowVals (rd : Nat → Byte) (f : Form) (t : Elem) (base n : Nat) : List Val :=
  match f with
  | .az => (azRow rd t base (ceilDiv n 64)).1.take n
  | f => (List.range n).map (runVal rd f t base)

/-- The bytes the expander reads of a row (R169): for AZ the records the count needs, else every record or unit. -/
def rowSpan (rd : Nat → Byte) (s : Store) (base n : Nat) : Nat :=
  if s.form = .az then (azRow rd s.elem base (ceilDiv n 64)).2 else s.rowBytes n

/-- The positions that the slots of one group pair with (R115 to R118, R126, R141): one entry for each slot. -/
def groupPairs (rd : Nat → Byte) (s : Store) (unitBase g : Nat) : List (Option Nat) :=
  match s.pleat with
  | .none => []
  | .p14 => [some ((rd (unitBase + g / 4)).toNat >>> (2 * (g % 4)) % 4)]
  | .pv =>
    let m := (rd (unitBase + g)).toNat
    let set := (List.range 8).filter (fun i => bitOf m i)
    (List.range s.k).map (fun j => set[j]?)
  | _ =>
    let c := (rd (unitBase + g / 2)).toNat >>> (4 * (g % 2)) % 16
    [some (c % 4), some (c / 4)]

/-- Positions of a group (Table 4-1). -/
def Pleat.group : Pleat → Nat
  | .pv => 8 | _ => 4

/-- Slots of a group (Table 4-1). -/
def Pleat.slots : Pleat → Nat → Nat
  | .pv, k => k | .p14, _ => 1 | _, _ => 2

/-- The slot sequence of one Pleat unit: for each slot its paired dense position and its kept value (R126, R140). -/
def unitSlots (rd : Nat → Byte) (s : Store) (unitBase first : Nat) : List (Option Nat × Val) :=
  let gs := s.pleat.group
  let per := s.pleat.slots s.k
  (List.range (s.pleat.unit / gs)).flatMap fun g =>
    (groupPairs rd s unitBase g).zipIdx.map fun pj =>
      (pj.1.map (fun p => first + gs * g + p), runVal rd s.form s.elem (unitBase + s.pleat.metaBytes) (g * per + pj.2))

/-- The slot sequence of a Pleat row of `n` dense positions (R114, R130). -/
def rowSlots (rd : Nat → Byte) (s : Store) (base n : Nat) : List (Option Nat × Val) :=
  (List.range (ceilDiv n s.pleat.unit)).flatMap fun u =>
    unitSlots rd s (base + u * s.unitBytes) (u * s.pleat.unit)

/-! The pack unit. -/

/-- What R79 counts for one piece of packing. -/
structure Counts where
  overflow : Nat := 0
  nanRemoved : Nat := 0
  deriving DecidableEq, Repr

/-- Counts added together. -/
def Counts.add (a b : Counts) : Counts := ⟨a.overflow + b.overflow, a.nanRemoved + b.nanRemoved⟩

/-- The counts of a list of conversions. -/
def Counts.ofConvs (cs : List Conv) : Counts :=
  ⟨(cs.filter (·.overflow)).length, (cs.filter (·.nanRemoved)).length⟩

/-- Element codes as bytes, two 4-bit codes a byte, the even one low (R70). -/
def packNibbles : List Nat → List Byte
  | [] => []
  | [a] => [BitVec.ofNat 8 a]
  | a :: b :: t => BitVec.ofNat 8 (a + 16 * b) :: packNibbles t

/-- Element codes as the bytes of a dense run. -/
def packCodes (t : Elem) (cs : List Nat) : List Byte :=
  match t.width with
  | 4 => packNibbles cs
  | w => cs.flatMap (fun c => leBytes (w / 8) c)

/-- The greatest magnitude code of a type, as an exact value (maxfin of Table 3-5). -/
def Elem.maxFin : Elem → Nat
  | .e4m3 => 448 | .e5m2 => 57344 | .int8 => 127 | .fp4 => 6 | .int4 => 7 | _ => 0

/-- emax of Table 3-5. -/
def Elem.eMax : Elem → Int
  | .e4m3 => 8 | .e5m2 => 15 | .int8 => 6 | .fp4 => 2 | .int4 => 2 | _ => 0

/-- The greatest magnitude among finite values, by number. -/
def maxMagnitude (xs : List Val) : Val := xs.foldl (fun a x => if a.lt x.abs then x.abs else a) (.fin false 0 0)

/-- The floor of the base-2 logarithm of a finite value that is not zero. -/
def floorLog2 : Val → Int
  | .fin _ m e => e + (Nat.log2 m : Int)
  | _ => 0

/-- Whether a magnitude is at most `n/16` times two to the `x`. -/
def atMost16 (v : Val) (n : Nat) (x : Int) : Bool := !(Val.fin false n (x - 4)).lt v.abs

/-- The scale exponent of R86: the least whole number, from -127, with the greatest magnitude at most
maxfin times two to the X times 31/16. -/
def bb4sScale (t : Elem) (amax : Val) : Int :=
  let start := floorLog2 amax - t.eMax - 2
  let found := ((List.range 6).map (fun (i : Nat) => start + Int.ofNat i)).find? (fun x => atMost16 amax (t.maxFin * 31) x)
  max (found.getD start) (-127)

/-- The sub-scale of one half (R86): the least from 0 to 15 that admits the half's greatest magnitude. -/
def subScale (t : Elem) (x : Int) (half : List Val) : Nat :=
  ((List.range 16).find? (fun m => atMost16 (maxMagnitude half) (t.maxFin * (16 + m)) x)).getD 15

/-- The exact quotient of a value by `(16 + m) / 16`, rounded to 80 further bits: enough that the conversion to any
4-bit type rounds as the exact quotient does, the last bit marking a remainder. -/
def divFactor (m : Nat) : Val → Val
  | .fin n k e =>
    let num := k * 2 ^ 84
    let q := num / (16 + m)
    let sticky := if num % (16 + m) = 0 then 0 else 1
    .fin n (2 * q + sticky) (e - 81)
  | v => v

/-- One Bolt record from at most 32 source values; missing ones are padding (R85 to R88). -/
def boltEncode (f : Form) (t : Elem) (xs : List Val) : List Byte × Counts :=
  let pad (cs : List Nat) : List Nat := cs ++ List.replicate (32 - cs.length) 0
  let bytes (e : Nat) (sub : Nat) (cs : List Nat) : List Byte :=
    BitVec.ofNat 8 e :: ((if f = .bb4s then [BitVec.ofNat 8 sub] else []) ++ packCodes t (pad cs))
  if xs.any Val.nonFinite then (bytes 255 0 [], ⟨0, 1⟩)
  else
    let amax := maxMagnitude xs
    if amax.isZero then (bytes 0 0 (xs.map (fun x => (t.convert x).code)), {})
    else if f = .bb4s then
      let x := bb4sScale t amax
      let m0 := subScale t x (xs.take 16)
      let m1 := subScale t x (xs.drop 16)
      let cs := xs.zipIdx.map (fun v => t.convert (divFactor (if v.2 < 16 then m0 else m1) (v.1.scale (-x))))
      (bytes (x + 127).toNat (m0 + 16 * m1) (cs.map (·.code)), Counts.ofConvs cs)
    else
      let x0 := floorLog2 amax - t.eMax
      let x1 := if (t.convert (amax.scale (-x0))).overflow then x0 + 1 else x0
      let x := max x1 (-127)
      let cs := xs.map (fun v => t.convert (v.scale (-x)))
      (bytes (x + 127).toNat 0 (cs.map (·.code)), Counts.ofConvs cs)

/-- One AZ record from at most 64 element codes (R90 to R93). -/
def azEncode (t : Elem) (cs : List Nat) : List Byte :=
  let map := cs.zipIdx.foldl (fun a c => if c.1 = 0 then a else a + 2 ^ c.2) 0
  let body := packCodes t (cs.filter (· ≠ 0))
  let body8 := body ++ List.replicate (roundUp body.length 8 - body.length) 0#8
  leBytes 8 map ++ body8

/-- A run of values in a form that is not Pleat, with what the conversions count. `same` tells that the values have the
type they are to be stored in: into AZ they keep their codes (R267). -/
def encodeRun (f : Form) (t : Elem) (same : Bool) (xs : List Val) : List Byte × Counts :=
  match f with
  | .dense => let cs := xs.map t.convert; (packCodes t (cs.map (·.code)), Counts.ofConvs cs)
  | .az =>
    let cs := xs.map (if same then t.keepCode else t.convert)
    ((piecesOf xs.length 64 (cs.map (·.code))).flatMap (azEncode t), Counts.ofConvs cs)
  | f =>
    (piecesOf xs.length 32 xs).foldl (fun (a : List Byte × Counts) p =>
      let r := boltEncode f t p
      (a.1 ++ r.1, a.2.add r.2)) ([], {})

/-- The rank of a source value (R134): its FP32 magnitude code, NaN and infinities as plus infinity. -/
def rankOf (v : Val) : Nat := if v.nonFinite then 0x7F800000 else (fp32Of v.abs).toNat

/-- The index of the highest rank among candidates, the lowest index on a tie. -/
def topRank (rank : Nat → Nat) : List Nat → Option Nat
  | [] => none
  | i :: t => match topRank rank t with
    | none => some i
    | some j => if rank i ≥ rank j then some i else some j

/-- The `k` positions of highest rank among candidates, in ascending order (R135). -/
def topPositions (rank : Nat → Nat) : Nat → List Nat → List Nat
  | 0, _ => []
  | k + 1, cand => match topRank rank cand with
    | none => []
    | some i => let rest := topPositions rank k (cand.filter (· ≠ i))
      rest.takeWhile (· < i) ++ [i] ++ rest.dropWhile (· < i)

/-- The masks of R136 in ascending order: two set bits in each row and each column of the block. -/
def p24tMasks : List Nat :=
  let rows := [3, 5, 6, 9, 10, 12]
  (rows.flatMap fun r3 => rows.flatMap fun r2 => rows.flatMap fun r1 => rows.map fun r0 =>
      r0 + 16 * r1 + 256 * r2 + 4096 * r3).filter fun m =>
    (List.range 4).all fun c => ((List.range 4).filter (fun r => bitOf m (4 * r + c))).length == 2

/-- The mask of the largest score, the numerically smallest on a tie (R136). -/
def pickP24T (rank : Nat → Nat) : Nat :=
  let score (m : Nat) : W32 := (List.range 16).foldl (fun s b => if bitOf m b then fadd s (BitVec.ofNat 32 (rank b)) else s) 0#32
  ((p24tMasks.foldl (fun (a : Option (Nat × Nat)) m =>
    let s := (score m).toNat
    match a with
    | none => some (s, m)
    | some (best, _) => if s > best then some (s, m) else a) none).map Prod.snd).getD 0x33CC

/-- The kept positions of a group in ascending order, for P24, P14 and PV (R135). `pad` tells the padding. -/
def selectGroup (p : Pleat) (k : Nat) (rank : Nat → Nat) (pad : Nat → Bool) : List Nat :=
  match p with
  | .p14 => topPositions rank 1 (List.range 4)
  | .pv => topPositions rank k ((List.range 8).filter (fun i => !pad i && rank i ≠ 0))
  | _ => topPositions rank 2 (List.range 4)

/-- The metadata code of kept positions (R115 to R117). -/
def groupCode (p : Pleat) (kept : List Nat) : Nat :=
  match p with
  | .pv => kept.foldl (fun a i => a + 2 ^ i) 0
  | .p14 => kept.headD 0
  | _ => kept.headD 0 + 4 * (kept.drop 1).headD 0

/-- The metadata bytes of a unit, from the codes of its groups (Table 4-2). -/
def metaBytesOf (p : Pleat) (codes : List Nat) : List Byte :=
  match p with
  | .none => []
  | .pv => codes.map (BitVec.ofNat 8)
  | .p14 => (piecesOf codes.length 4 codes).map (fun c => BitVec.ofNat 8 (c.zipIdx.foldl (fun a x => a + x.1 * 4 ^ x.2) 0))
  | _ => packNibbles codes

/-- The source value at a position of a row; padding is plus zero (R121). -/
def srcAt (xs : List Val) (i : Nat) : Val := xs.getD i (.fin false 0 0)

/-- One Pleat unit from a row of source values and the kept positions of each of its groups (R137, R119). -/
def encodeUnit (s : Store) (xs : List Val) (first : Nat) (kept : List (List Nat)) (metadata : List Byte) : List Byte × Counts :=
  let gs := s.pleat.group
  let per := s.pleat.slots s.k
  let vals := kept.zipIdx.flatMap fun kg =>
    let v := kg.1.map (fun p => srcAt xs (first + gs * kg.2 + p))
    v ++ List.replicate (per - v.length) (Val.fin false 0 0)
  let body := encodeRun s.form s.elem false vals
  (metadata ++ body.1, body.2)

/-- The kept positions of each group of unit `u` of a row under the selection of R134 to R136. For P24T the four rows
of the aligned band are given; the row itself is number `r` of them. -/
def selectUnit (s : Store) (band : List (List Val)) (r first : Nat) : List (List Nat) :=
  let row := band.getD r []
  (List.range (s.pleat.unit / s.pleat.group)).map fun g =>
    let base := first + s.pleat.group * g
    match s.pleat with
    | .p24t =>
      let mask := pickP24T (fun b => rankOf (srcAt (band.getD (b / 4) []) (base + b % 4)))
      (List.range 4).filter (fun c => bitOf mask (4 * r + c))
    | p =>
      if base ≥ row.length ∧ p ≠ .pv then (if p = .p14 then [0] else [0, 1])
      else selectGroup p s.k (fun i => rankOf (srcAt row (base + i))) (fun i => decide (base + i ≥ row.length))

/-- The kept positions that existing metadata names (R139): hold mode selects nothing. -/
def heldUnit (rd : Nat → Byte) (s : Store) (unitBase : Nat) : List (List Nat) :=
  (List.range (s.pleat.unit / s.pleat.group)).map fun g => (groupPairs rd s unitBase g).filterMap id

/-- One row packed into a store form (R134 to R139). `band` holds the rows of its aligned band, `r` which of them it is;
`hold` reads the metadata at the destination through `rd`, where the row begins at `base`. -/
def packRow (s : Store) (src : Elem) (band : List (List Val)) (r : Nat) (hold : Bool) (rd : Nat → Byte) (base : Nat) : List Byte × Counts :=
  let row := band.getD r []
  if s.pleat = .none then encodeRun s.form s.elem (src == s.elem) row
  else
    (List.range (ceilDiv row.length s.pleat.unit)).foldl (fun (a : List Byte × Counts) u =>
      let first := u * s.pleat.unit
      let unitBase := base + u * s.unitBytes
      let kept := if hold then heldUnit rd s unitBase else selectUnit s band r first
      let metadata := if hold then (List.range s.pleat.metaBytes).map (fun i => rd (unitBase + i))
        else metaBytesOf s.pleat (kept.map (groupCode s.pleat))
      let b := encodeUnit s row first kept metadata
      (a.1 ++ b.1, a.2.add b.2)) ([], {})

end Sys2Proof.Machine
end

