-- ==== Sys2Proof/Machine/Skein.lean ====
section
/-! DEFINITION. Skein, the range-coded byte layer (R94 to R100): frame header, decoder and encoder. -/

namespace Sys2Proof.Machine

/-- The model of one frame: the probabilities of a 1, by context number; 2,048 where none is listed (R95). -/
abbrev SkeinModel := Tbl Nat

/-- The number of a context: lane, history and the bits of the byte coded so far. -/
def skeinCtx (c h k : Nat) : Nat := (c * 4 + h) * 256 + k

/-- The probability moves one sixteenth toward the bit (R95). -/
def skeinAdapt (p : Nat) (b : Bool) : Nat := if b then p + (4096 - p) / 16 else p - p / 16

/-- The decoder: range, code, and the body bytes not yet read. `short` marks a read past the body. -/
structure SkeinDec where
  range : Nat
  code : Nat
  rest : List Byte
  short : Bool
  model : SkeinModel
  deriving DecidableEq, Repr

/-- One more body byte into the code register. -/
def SkeinDec.pull (d : SkeinDec) : SkeinDec :=
  match d.rest with
  | [] => { d with code := d.code * 256 % 2 ^ 32, short := true }
  | b :: t => { d with code := (d.code * 256 + b.toNat) % 2 ^ 32, rest := t }

/-- Renormalise: a byte is read while the range is below two to the 24; two suffice (R96). -/
def SkeinDec.renorm : Nat → SkeinDec → SkeinDec
  | 0, d => d
  | n + 1, d => if d.range < 2 ^ 24 then SkeinDec.renorm n { d.pull with range := d.range * 256 } else d

/-- Decode one bit in a context (R96). -/
def SkeinDec.bit (d : SkeinDec) (ctx : Nat) : Bool × SkeinDec :=
  let p := Tbl.get 2048 ctx d.model
  let split := d.range * p / 4096
  let b := decide (d.code < split)
  let m := Tbl.put 2048 ctx (skeinAdapt p b) d.model
  let d1 := if b then { d with range := split, model := m }
    else { d with code := d.code - split, range := d.range - split, model := m }
  (b, d1.renorm 4)

/-- Decode one byte, most significant bit first. -/
def SkeinDec.byte (d : SkeinDec) (c h : Nat) : Nat × SkeinDec :=
  let r := (List.range 8).foldl (fun (a : Nat × SkeinDec) _ =>
    let x := a.2.bit (skeinCtx c h a.1)
    (2 * a.1 + b2n x.1, x.2)) (1, d)
  (r.1 - 256, r.2)

/-- The history of a byte position: the two top bits of the byte one stride earlier. The bytes so far stand newest
first. -/
def skeinHistory (stride : Nat) (newestFirst : List Byte) : Nat :=
  match newestFirst[stride - 1]? with
  | some b => b.toNat / 64
  | none => 0

/-- Decode `n` bytes of a coded body; none when the decoding reads past the body (R99, R100). -/
def skeinDecode (stride n : Nat) (body : List Byte) : Option (List Byte) :=
  let d0 : SkeinDec := ⟨0xFFFFFFFF, 0, body, false, []⟩
  let d1 := d0.pull.pull.pull.pull
  let r := (List.range n).foldl (fun (a : List Byte × SkeinDec) j =>
    let x := a.2.byte (j % stride) (skeinHistory stride a.1)
    (BitVec.ofNat 8 x.1 :: a.1, x.2)) ([], d1)
  if r.2.short then none else some r.1.reverse

/-- The raw bytes of the frame at the front of a byte list, with the bytes after it; none for a damaged frame or bytes
that hold no whole frame (R94, R99, R100). DESIGN CHOICE (log 38): a stored body longer than the raw bytes gives its first
ones, as R99 has bytes ignored that are not needed. -/
def skeinFrame (bs : List Byte) : Option (List Byte × List Byte) :=
  if bs.length < 8 then none
  else
    let raw := leNat (bs.take 2) + 1
    let body := leNat ((bs.drop 2).take 2) + 1
    let mode := (bs.getD 4 0#8).toNat
    let stride := (bs.getD 5 0#8).toNat
    let check := leNat ((bs.drop 6).take 2)
    let rest := bs.drop 8
    if rest.length < body then none
    else
      let plain := if mode = 0 then (if raw ≤ body then some (rest.take raw) else none)
        else if mode = 1 ∧ (stride = 1 ∨ stride = 2 ∨ stride = 4) then skeinDecode stride raw (rest.take body)
        else none
      match plain with
      | none => none
      | some p => if crc16 p = check then some (p, rest.drop body) else none

/-- The raw bytes of a sequence of frames; none when a frame is damaged. The first argument bounds the frames. -/
def skeinFrames : Nat → List Byte → Option (List Byte)
  | 0, bs => if bs.isEmpty then some [] else none
  | f + 1, bs =>
    if bs.isEmpty then some []
    else match skeinFrame bs with
      | none => none
      | some (p, rest) => (skeinFrames f rest).map (p ++ ·)

/-- The encoder: low, range, and the body built so far, newest byte first. -/
structure SkeinEnc where
  low : Nat
  range : Nat
  out : List Byte
  model : SkeinModel
  deriving DecidableEq, Repr

/-- A carry into the bytes already placed (R97), newest first. -/
def skeinCarry : List Byte → List Byte
  | [] => []
  | b :: t => if b = 0xFF#8 then 0#8 :: skeinCarry t else (b + 1#8) :: t

/-- Place bytes while the range is below two to the 24. -/
def SkeinEnc.renorm : Nat → SkeinEnc → SkeinEnc
  | 0, e => e
  | n + 1, e =>
    if e.range < 2 ^ 24 then
      SkeinEnc.renorm n { e with out := BitVec.ofNat 8 (e.low / 2 ^ 24) :: e.out, low := e.low * 256 % 2 ^ 32, range := e.range * 256 }
    else e

/-- Encode one bit in a context (R97). -/
def SkeinEnc.bit (e : SkeinEnc) (ctx : Nat) (b : Bool) : SkeinEnc :=
  let p := Tbl.get 2048 ctx e.model
  let split := e.range * p / 4096
  let m := Tbl.put 2048 ctx (skeinAdapt p b) e.model
  let e1 := if b then { e with range := split, model := m }
    else
      let sum := e.low + split
      { e with low := sum % 2 ^ 32, out := (if sum ≥ 2 ^ 32 then skeinCarry e.out else e.out),
               range := e.range - split, model := m }
  e1.renorm 4

/-- Encode one byte, most significant bit first. -/
def SkeinEnc.byte (e : SkeinEnc) (x c h : Nat) : SkeinEnc :=
  ((List.range 8).foldl (fun (a : Nat × SkeinEnc) i =>
    let b := bitOf x (7 - i)
    (2 * a.1 + b2n b, a.2.bit (skeinCtx c h a.1) b)) (1, e)).2

/-- The coded body of raw bytes (R97). -/
def skeinBody (stride : Nat) (raw : List Byte) : List Byte :=
  let r := raw.zipIdx.foldl (fun (a : List Byte × SkeinEnc) bj =>
    (bj.1 :: a.1, a.2.byte bj.1.toNat (bj.2 % stride) (skeinHistory stride a.1))) ([], ⟨0, 0xFFFFFFFF, [], []⟩)
  r.2.out.reverse ++ beBytes 4 r.2.low

/-- One frame of at most 65,536 raw bytes as the Hem writes it: coded, or stored when coding does not shorten (R98). -/
def skeinEncode (stride : Nat) (raw : List Byte) : List Byte :=
  let body := skeinBody stride raw
  let coded := decide (body.length < raw.length)
  let b := if coded then body else raw
  leBytes 2 (raw.length - 1) ++ leBytes 2 (b.length - 1) ++ [if coded then 1#8 else 0#8, BitVec.ofNat 8 stride]
    ++ leBytes 2 (crc16 raw) ++ b

end Sys2Proof.Machine
end

