-- ==== Sys2Proof/Machine/Container.lean ====
section
/-! DEFINITION. What staging checks of an object body: the body header (R420) and every tensor container (R101 to R108,
R123, R124). -/

namespace Sys2Proof.Machine

/-- `n` bytes from an offset; fewer where the bytes end. -/
def sliceOf (b : List Byte) (off n : Nat) : List Byte := (b.drop off).take n
/-- A number of `n` bytes at an offset. -/
def numAt (b : List Byte) (off n : Nat) : Nat := leNat (sliceOf b off n)
/-- Whether every byte of a range is 0. -/
def zeroAt (b : List Byte) (off n : Nat) : Bool := (sliceOf b off n).all (· == 0#8)

/-- Where row or unit piece `i` of `n` pieces of `total` begins, and how many it holds (Table 3-11). -/
def pieceAt (total n i : Nat) : Nat × Nat :=
  let k := ceilDiv total n
  (i * k, min ((i + 1) * k) total - i * k)

/-- First row, rows and units of a segment, of `r` rows and `u` units in all (R103). -/
def segmentShape (layout r u n gr gc s : Nat) : Nat × Nat × Nat :=
  match layout with
  | 0 => let p := pieceAt r n s; (p.1, p.2, u)
  | 1 => (0, r, (pieceAt u n s).2)
  | 2 => let p := pieceAt r gr (s / gc); (p.1, p.2, (pieceAt u gc (s % gc)).2)
  | _ => (0, r, u)

/-- The layout constraint of Table 3-11. -/
def layoutOk (layout r u n gr gc : Nat) : Bool :=
  match layout with
  | 0 => decide (n ≤ r)
  | 1 => decide (n ≤ u)
  | 2 => decide (n = gr * gc)
  | 3 => decide (n = 1)
  | _ => false

/-- The Pleat parameter block of a container whose payload starts at `start` and holds `len` bytes (R123, R124). -/
def pleatBlockOk (c : List Byte) (st : Store) (layout r u n gr gc start len : Nat) : Bool :=
  let at_ := roundUp (start + len) 64
  let size := 8 + roundUp n 8
  let b := sliceOf c at_ size
  let ks := (List.range n).map (fun s => (b.getD (8 + s) 0#8).toNat)
  let kOk (k : Nat) : Bool := match st.pleat with
    | .p14 => decide (k = 1)
    | .pv => decide (1 ≤ k) && decide (k ≤ 7)
    | _ => decide (k = 2)
  let segOk (s : Nat) : Bool :=
    let q := segmentShape layout r u n gr gc s
    let k := ks.getD s 0
    decide (numAt c (64 + 8 * s + 4) 3 = q.2.1 * q.2.2 * ({ st with k := k } : Store).unitBytes)
      && (st.pleat != .p24t || decide (q.1 % 4 = 0))
  let rowsPer := if layout = 0 then ceilDiv r n else if layout = 2 then ceilDiv r gr else 0
  decide (numAt c 0x34 4 = at_) && decide (b.length = size)
    && decide (numAt b 4 4 = crc32 (b.drop 8))
    && decide (numAt b 0 1 = numAt c 2 1) && decide (numAt b 2 2 = n)
    && ks.all kOk && (List.range n).all segOk
    && (st.pleat != .p24t || (decide (r % 4 = 0) && decide (rowsPer % 4 = 0)))

/-- Whether the container at the front of some bytes is well formed (R108, R124). DESIGN CHOICE (log 38): a SEG_COUNT of 0,
which no layout of Table 3-11 can hold, is malformed, and one above 4,096 is not refused for itself, as R108 names neither. -/
def containerOk (c : List Byte) : Bool :=
  let n := numAt c 6 2
  match Form.ofCode (numAt c 0 1), Elem.ofCode (numAt c 1 1), Pleat.ofCode (numAt c 2 1) with
  | some f, some t, some p =>
    let st : Store := { form := f, elem := t, pleat := p }
    let unit := if p != .none then p.unit else if f = .az then 64 else 32
    let dim (i : Nat) : Nat := numAt c (8 + 4 * i) 4
    let r := dim 1 * dim 2 * dim 3 * dim 4
    let u := ceilDiv (dim 0) unit
    let gr := numAt c 0x1C 2
    let gc := numAt c 0x1E 2
    let layout := numAt c 4 1
    let start := roundUp (64 + 8 * n) 256
    decide (64 + 8 * n ≤ c.length) && decide (0 < n)
      && decide (numAt c 0x3C 4 = crc32 (c.take 0x3C ++ sliceOf c 64 (8 * n)))
      && st.combines && layoutOk layout r u n gr gc
      && (p == .none || pleatBlockOk c st layout r u n gr gc start (numAt c 0x20 8))
  | _, _, _ => false

/-- Whether an object body is well formed: its header, its tensor table and each container (R420, R421). -/
def bodyOk (b : List Byte) (want : Nat) : Bool :=
  let count := numAt b 0x10 4
  let table := numAt b 0x14 4
  let entry (i : Nat) : Nat := table + 16 * i
  decide (64 ≤ b.length) && decide (b.length = want)
    && decide (sliceOf b 0 4 = [0x51#8, 0x4F#8, 0x42#8, 0x59#8]) && zeroAt b 4 4
    && decide (numAt b 8 8 = b.length) && zeroAt b 0x18 40
    && decide (table + 16 * count ≤ b.length)
    && (List.range count).all (fun i =>
      decide (numAt b (entry i) 8 % 256 = 0) && zeroAt b (entry i + 12) 4
        && containerOk (b.drop (numAt b (entry i) 8)))

/-- The raw bytes of the frames of a payload up to the first damaged one, and whether none is damaged. The first argument
bounds the frames. -/
def skeinPrefix : Nat → List Byte → List Byte × Bool
  | 0, bs => ([], bs.isEmpty)
  | f + 1, bs =>
    if bs.isEmpty then ([], true)
    else match skeinFrame bs with
      | none => ([], false)
      | some (p, rest) => let q := skeinPrefix f rest; (p ++ q.1, q.2)

end Sys2Proof.Machine
end

