-- ==== Sys2Proof/Machine/Cupola.lean ====
section
/-! DEFINITION. The Cupolas' lines and replacement (R368 to R376), and reads of the Belfry region through them (R346). -/

namespace Sys2Proof.Machine

/-! The Cupolas (R368 to R376). -/

/-- The pseudo-LRU tree after an access to a way: each node on its path points away from it (R371). -/
def plruTouch (tree way : Nat) : Nat :=
  ((List.range 4).foldl (fun (a : Nat × Nat) i =>
    let b := bitOf way (3 - i)
    let cleared := if bitOf a.1 a.2 then a.1 - 2 ^ a.2 else a.1
    (if b then cleared else cleared + 2 ^ a.2, 2 * a.2 + b2n b)) (tree, 1)).1

/-- The way the tree points to. -/
def plruVictim (tree : Nat) : Nat :=
  ((List.range 4).foldl (fun (a : Nat × Nat) _ =>
    let b := b2n (bitOf tree a.2)
    (2 * a.1 + b, 2 * a.2 + b)) (0, 1)).1

/-- A hit on a line updates its set's tree. -/
def Cupola.touch (c : Cupola) (line : Nat) : Cupola :=
  let k := cupolaSet line
  let x := Tbl.get {} k c.sets
  match x.wayOf line with
  | some w => { c with sets := Tbl.put {} k { x with tree := plruTouch x.tree w } c.sets }
  | none => c

/-- Place a line: in the lowest invalid way, else in the way the tree chooses (R371). -/
def Cupola.place (c : Cupola) (line : Nat) : Cupola :=
  let k := cupolaSet line
  let x := Tbl.get {} k c.sets
  if (x.wayOf line).isSome then c.touch line
  else
    let w := ((List.range 16).find? (fun i => Tbl.get 0 i x.ways == 0)).getD (plruVictim x.tree)
    { c with sets := Tbl.put {} k { ways := Tbl.put 0 w (line + 1) x.ways, tree := plruTouch x.tree w } c.sets }

/-- What a read finds wrong in a Cupola that holds its line (R376): it is counted, and an uncorrectable error takes the line,
or its whole set, out. -/
def Cupola.meets (c : Cupola) (line : Nat) : CupolaErr → Cupola
  | .none => c
  | .corrected => if c.holds line then { c with ce := sat32 c.ce 1 } else c
  | .line => if c.holds line then { c.invalidate line with ueLine := sat32 c.ueLine 1 } else c
  | .tag => { c with
    sets := Tbl.put {} (cupolaSet line) { Tbl.get {} (cupolaSet line) c.sets with ways := [] } c.sets, tagParity := sat32 c.tagParity 1 }

/-- A look-up of a line finds the errors that have struck it, or the tags of its set, since (R376). -/
def Cupola.look (c : Cupola) (line : Nat) : Cupola :=
  let here (e : Nat × CupolaErr) : Bool := decide (e.1 = line) || (decide (e.2 = .tag) && decide (cupolaSet e.1 = cupolaSet line))
  (c.struck.filter here).foldl (fun (a : Cupola) e => a.meets line e.2) { c with struck := c.struck.filter (fun e => !here e) }

/-- A Cupola: 0 West, 1 East. -/
def State.cupola (s : State) (h : Nat) : Cupola := Tbl.get {} h s.core.cupolas
/-- Replace a Cupola. -/
def State.setCupola (s : State) (h : Nat) (c : Cupola) : State := s.onCore fun k => { k with cupolas := Tbl.put {} h c k.cupolas }

/-- A Cupola meets an error as a line of it is looked up. -/
def State.cupolaMeets (s : State) (h line : Nat) (e : CupolaErr) : State :=
  if e = .none then s else s.setCupola h ((s.cupola h).meets line e)

/-- Errors strike the Cupolas. -/
def State.strike (s : State) (l : List CupolaUpset) : State :=
  l.foldl (fun (a : State) u => let c := a.cupola (b2n u.east); a.setCupola (b2n u.east) { c with struck := c.struck ++ [(u.line, u.err)] }) s

/-- The lines a byte range lies in. -/
def linesOf (a n : Nat) : List Nat := (List.range ((a + n - 1) / 256 - a / 256 + 1)).map (· + a / 256)

/-- Whether a read of the Belfry region cannot complete yet (R370): a line of it waits for a fill that is pending, or for
one of the 512 fills to end. -/
def State.belfryWaits (s : State) (h a n : Nat) : Bool :=
  let c := s.cupola h
  (linesOf a n).any (fun l => !(c.look l).holds l && (c.fills.any (fun f => decide (f.line = l)) || decide (512 ≤ c.fills.length)))

/-- A read of the Belfry region through the Cupola of a half (R346): whether it fails on an uncorrectable burst, whose
address it gives (R749), and the state after it. A line the Cupola holds is served from there. -/
def State.belfryRead (s : State) (h a n : Nat) : Option Nat × State :=
  (linesOf a n).foldl (fun (acc : Option Nat × State) line =>
    match acc.1 with
    | some _ => acc
    | none =>
      let c := (acc.2.cupola h).look line
      if c.holds line then (none, acc.2.setCupola h { c.touch line with hits := wrap48 c.hits 1 })
      else match acc.2.badBurst (line * 256) 256 with
        | some b => (some b, (acc.2.setCupola h { c with misses := wrap48 c.misses 1 }).countUe (acc.2.badIn (line * 256) 256))
        | none => (none, acc.2.setCupola h { c.place line with misses := wrap48 c.misses 1 })) (none, s)

end Sys2Proof.Machine
end

