-- ==== Sys2Proof/Machine/Hbm.lean ====
section
/-! DEFINITION. The controllers of the HBM pseudo-channels (R347 to R354): their queues, the order they serve in, and the
counts of their stacks. What a controller queues here are the requests of transfers and the fills of the Cupolas; which row
is open is timing, and no order among them follows from it (log 40). -/

namespace Sys2Proof.Machine

/-- A controller. -/
def State.ctl (s : State) (pc : Nat) : Ctl := Tbl.get {} pc s.core.ctls
/-- Replace a controller. -/
def State.setCtl (s : State) (pc : Nat) (x : Ctl) : State := s.onCore fun c => { c with ctls := Tbl.put {} pc x c.ctls }

/-- Requests that a queue of a controller holds (R349). -/
def queueRoom : Nat := 64

/-- A read enters a controller's read queue, with the bytes as they are now (R351); while 64 are in it, it waits. -/
def State.enterRead (s : State) (q : QRead) : State :=
  let pc := pseudoOf q.far
  let x := s.ctl pc
  if x.reads.length < queueRoom then s.setCtl pc { x with reads := x.reads ++ [{ q with bytes := s.hbmRead q.far q.len }] }
  else s.setCtl pc { x with waiting := x.waiting ++ [q] }

/-- Whether a controller serves a read of its queue next (R351): no writes are being served, and no other read has been
passed over 16 times. -/
def Ctl.mayServe (x : Ctl) (q : QRead) : Bool := !x.serving && (decide (16 ≤ q.passed) || x.reads.all (fun r => decide (r.passed < 16)))

/-- The reads of a queue after one of them has been served: those ahead of it have been passed over once more. -/
def passOver (sp unit xfer req : Nat) : List QRead → List QRead
  | [] => []
  | r :: t => if r.sp = sp ∧ r.unit = unit ∧ r.xfer = xfer ∧ r.req = req then t else { r with passed := r.passed + 1 } :: passOver sp unit xfer req t

/-- The reads that wait at a controller enter its queue as places come free, the oldest first, with the bytes as they are now
(R349). -/
def State.admitReads (s : State) (pc : Nat) : State :=
  let x := s.ctl pc
  let n := queueRoom - x.reads.length
  s.setCtl pc { x with
    reads := x.reads ++ (x.waiting.take n).map (fun q => { q with bytes := s.hbmRead q.far q.len }), waiting := x.waiting.drop n }

/-- Every controller admits what waits for it. -/
def State.admitAll (s : State) : State :=
  s.core.ctls.foldl (fun a e => if e.2.waiting.isEmpty then a else a.admitReads e.1) s

/-- A controller serves the read of a request that covers an address, and the first that waits enters: the bytes it read,
or none while it is not this read's turn. -/
def State.serveRead (s : State) (a sp unit xfer req : Nat) : Option (List Byte × State) :=
  let pc := pseudoOf a
  let x := s.ctl pc
  match x.reads.find? (fun r => decide (r.sp = sp ∧ r.unit = unit ∧ r.xfer = xfer ∧ r.req = req)) with
  | none => none
  | some q =>
    if x.mayServe q then
      some (q.bytes, (s.setCtl pc { x with reads := passOver sp unit xfer req x.reads }).admitReads pc)
    else none

/-- A request that is over leaves the queue of its controller, and its place is free. -/
def State.forgetRead (s : State) (sp unit xfer req : Nat) : State :=
  let mine (r : QRead) : Bool := decide (r.sp = sp ∧ r.unit = unit ∧ r.xfer = xfer ∧ r.req = req)
  if s.core.ctls.all (fun e => !e.2.reads.any mine && !e.2.waiting.any mine) then s
  else (s.onCore fun c => { c with ctls := c.ctls.map (fun e => (e.1, { e.2 with
    reads := e.2.reads.filter (fun r => !mine r), waiting := e.2.waiting.filter (fun r => !mine r) })) }).admitAll

/-- A controller takes a write into its write queue (R350): none while 64 are in it. From 48 on it serves writes (R351). -/
def State.enterWrite (s : State) (a : Nat) : Option State :=
  let pc := pseudoOf a
  let x := s.ctl pc
  if x.writes < queueRoom then some (s.setCtl pc { x with writes := x.writes + 1, serving := x.serving || decide (48 ≤ x.writes + 1) })
  else none

/-- One ccyc of a controller: a write is served while writes are being served, or while no read waits (R351). -/
def Ctl.tick (x : Ctl) : Ctl :=
  if x.writes ≠ 0 ∧ (x.serving ∨ x.reads.isEmpty) then { x with writes := x.writes - 1, serving := x.serving && decide (16 < x.writes - 1) }
  else x

/-- One ccyc of every controller that has writes to serve. -/
def State.serveWrites (s : State) : State :=
  if s.core.ctls.all (fun e => e.2.writes == 0) then s
  else s.onCore fun c => { c with ctls := (c.ctls.map (fun e => (e.1, e.2.tick))).filter (fun e => decide (e.2 ≠ {})) }

/-- Count what the bursts of a request met (R354, Table 16-6). -/
def State.countBursts (s : State) (a : Nat) (b : BurstRec) : State :=
  if b.parity = 0 ∧ b.corrected = 0 then s
  else s.onCore fun c =>
    let x := Tbl.get {} (stackOf a) c.hbmStacks
    { c with hbmStacks := Tbl.put {} (stackOf a) { x with ce := sat32 x.ce b.corrected, parityRetry := sat32 x.parityRetry b.parity } c.hbmStacks }

/-- The same for accesses that may lie in several stacks, each by an address. -/
def State.countEach (s : State) (l : List (Nat × BurstRec)) : State := l.foldl (fun (a : State) b => a.countBursts b.1 b.2) s

/-- An access of the host, of a Span port or of the device itself meets the bursts of `n` bytes at `a` that a retry or a correction
mends, each counted in its own stack (R347, R354). -/
def State.meetSoft (s : State) (a n : Nat) : State :=
  let hit (e : Nat × BurstRec) : Bool := decide (e.1 * 32 < a + n) && decide (a < e.1 * 32 + 32)
  let met := s.core.hbmSoft.filter hit
  if met.isEmpty then s
  else (s.countEach (met.map (fun e => (e.1 * 32, e.2)))).onCore fun c => { c with hbmSoft := c.hbmSoft.filter (fun e => !hit e) }

/-- A write that the device makes by itself (R356): a part of an uncorrectable burst is counted and not written, the rest is.
No master is frozen, since none made it. The first argument bounds the bursts at its ends. -/
def State.ownWrite : Nat → State → Nat → List Byte → State
  | 0, s, a, bs => (s.meetSoft a bs.length).hbmWrite a bs
  | f + 1, s, a, bs =>
    if bs.isEmpty then s
    else match s.badPartial a bs.length with
      | none => (s.meetSoft a bs.length).hbmWrite a bs
      | some b => State.ownWrite f (State.ownWrite f (s.countUe [b / 32]) a (bs.take (b - a))) (b + 32) (bs.drop (b + 32 - a))

/-- Whether a burst lies wholly in the bytes of a request (R353): its pieces may fill it together. -/
def Req.covers (r : Req) (burst : Nat) : Bool :=
  (List.range 32).all (fun i => r.pieces.any (fun p => decide (r.far + p.far ≤ burst * 32 + i) && decide (burst * 32 + i < r.far + p.far + p.len)))

/-- The uncorrectable bursts that a request writes only a part of (R353, R356), each by its number. -/
def State.badBeneath (s : State) (r : Req) : List Nat :=
  s.core.hbmBad.filter (fun b => !r.covers b
    && r.pieces.any (fun p => decide (b * 32 < r.far + p.far + p.len) && decide (r.far + p.far < b * 32 + 32)))

/-- Write the pieces of a request into HBM; a burst that they fill is good again (R356). -/
def State.writePieces (s : State) (r : Req) : State :=
  let s1 := (r.pieces.foldl (fun (a : State × List Byte) p => (a.1.hbmWrite (r.far + p.far) (a.2.take p.len), a.2.drop p.len)) (s, r.bytes)).1
  s1.onCore fun c => { c with hbmBad := c.hbmBad.filter (fun b => !r.covers b) }

end Sys2Proof.Machine
end

