-- ==== Sys2Proof/Machine/Crypto.lean ====
section
/-! DEFINITION. The published algorithms chapter 17 and chapter 10 name (assumption 9): SHA-384 (FIPS 180-4), HMAC-SHA-384
(FIPS 198-1), the counter-mode KDF of SP 800-108, AES-256-XTS (FIPS 197, IEEE 1619) and ECDSA P-384 (FIPS 186-5). -/

namespace Sys2Proof.Machine

/-! SHA-384. -/

/-- The primes below 410: the first eighty. -/
def firstPrimes : List Nat :=
  (List.range 410).filter (fun n => Nat.ble 2 n && (List.range 21).all (fun d => Nat.ble d 1 || Nat.ble n d || n % d != 0))

/-- The largest `r` plus `k` further bits whose `e`-th power is at most `x`. -/
def rootBelow (e x : Nat) : Nat → Nat → Nat
  | 0, r => r
  | k + 1, r => rootBelow e x k (bif Nat.ble ((r + 2 ^ k) ^ e) x then r + 2 ^ k else r)

/-- The first 64 bits of the fraction of the `e`-th root of `p` (FIPS 180-4 defines its constants so). -/
def rootFraction (e p : Nat) : Nat := rootBelow e (p * 2 ^ (64 * e)) 69 0 % 2 ^ 64

/-- The initial hash value of SHA-384: square roots of the ninth to sixteenth primes. -/
def shaInit : List Nat := ((firstPrimes.drop 8).take 8).map (rootFraction 2)

/-- The 80 round constants: cube roots of the first eighty primes. -/
def shaK : List Nat := firstPrimes.map (rootFraction 3)

/-- The XOR of the rotations right of a 64-bit word by each count. -/
def turns (x : Nat) (counts : List Nat) : Nat :=
  counts.foldl (fun a n => a ^^^ (x / 2 ^ n + x % 2 ^ n * 2 ^ (64 - n))) 0

/-- The message schedule of a block of 128 B: the window keeps the last 16 words, newest first. -/
def shaSchedule (block : List Byte) : List Nat :=
  let first := ((piecesOf 16 8 block).map beNat).reverse
  let more := (List.range 64).foldl (fun (q : List Nat × List Nat) _ =>
    let x := q.1.getD 14 0
    let y := q.1.getD 1 0
    let n := (q.1.getD 15 0 + q.1.getD 6 0 + (turns x [1, 8] ^^^ x / 128) + (turns y [19, 61] ^^^ y / 64)) % 2 ^ 64
    (n :: q.1.take 15, n :: q.2)) (first, first)
  more.2.reverse

/-- One round over the eight working variables, held as the four of each half: the sum `t` goes to both heads. -/
def shaRound (v : List Nat × List Nat) (kw : Nat × Nat) : List Nat × List Nat :=
  let a := v.1.getD 0 0
  let e := v.2.getD 0 0
  let choose := (e &&& v.2.getD 1 0) + ((2 ^ 64 - 1 - e) &&& v.2.getD 2 0)
  let agree := (a &&& (v.1.getD 1 0 ||| v.1.getD 2 0)) ||| (v.1.getD 1 0 &&& v.1.getD 2 0)
  let t := v.2.getD 3 0 + turns e [14, 18, 41] + choose + kw.1 + kw.2
  ((t + turns a [28, 34, 39] + agree) % 2 ^ 64 :: v.1.take 3, (v.1.getD 3 0 + t) % 2 ^ 64 :: v.2.take 3)

/-- The hash value after one block. -/
def shaBlock (h : List Nat) (block : List Byte) : List Nat :=
  let v := (shaK.zip (shaSchedule block)).foldl shaRound (h.take 4, h.drop 4)
  (h.zip (v.1 ++ v.2)).map (fun q => (q.1 + q.2) % 2 ^ 64)

/-- The message with its padding. -/
def shaPad (m : List Byte) : List Byte :=
  m ++ [0x80#8] ++ leBytes ((239 - m.length % 128) % 128) 0 ++ beBytes 16 (8 * m.length)

/-- SHA-384. -/
def sha384 (m : List Byte) : List Byte :=
  let p := shaPad m
  (((piecesOf p.length 128 p).foldl shaBlock shaInit).take 6).flatMap (beBytes 8)

/-- HMAC-SHA-384. -/
def hmac384 (key m : List Byte) : List Byte :=
  let k0 := if 128 < key.length then sha384 key else key
  let k := k0 ++ leBytes (128 - k0.length) 0
  sha384 (k.map (· ^^^ 0x5C#8) ++ sha384 (k.map (· ^^^ 0x36#8) ++ m))

/-- The KDF of R653: `n` bytes. -/
def kdf (key label context : List Byte) (n : Nat) : List Byte :=
  ((List.range (ceilDiv n 48)).flatMap (fun i =>
    hmac384 key (beBytes 4 (i + 1) ++ label ++ [0#8] ++ context ++ beBytes 4 (8 * n)))).take n

/-! AES-256. -/

/-- Multiplication by x in GF(2^8). -/
def gfDouble (a : Nat) : Nat := if 128 ≤ a then (2 * a) % 256 ^^^ 0x1B else 2 * a
/-- Multiplication in GF(2^8). -/
def gfMul (a b : Nat) : Nat :=
  ((List.range 8).foldl (fun (q : Nat × Nat) i => (if bitOf b i then q.1 ^^^ q.2 else q.1, gfDouble q.2)) (0, a)).1
/-- The inverse in GF(2^8), 0 for 0: the 254th power. -/
def gfInv (a : Nat) : Nat :=
  ((List.range 7).foldl (fun (q : Nat × Nat) _ => let d := gfMul q.2 q.2; (gfMul q.1 d, d)) (1, a)).1
/-- The S-box. -/
def aesSub (a : Nat) : Nat :=
  let b := gfInv a
  let rot (n : Nat) : Nat := (b * 2 ^ n) % 256 + b / 2 ^ (8 - n)
  b ^^^ rot 1 ^^^ rot 2 ^^^ rot 3 ^^^ rot 4 ^^^ 0x63
/-- The inverse S-box. -/
def aesUnsub (a : Nat) : Nat :=
  let rot (n : Nat) : Nat := (a * 2 ^ n) % 256 + a / 2 ^ (8 - n)
  gfInv (rot 1 ^^^ rot 3 ^^^ rot 6 ^^^ 0x05)

/-- The key schedule of AES-256: 60 words of four bytes. -/
def aesKeys (key : List Nat) : List (List Nat) :=
  let first := (piecesOf 8 4 key)
  ((List.range 52).foldl (fun (w : List (List Nat)) j =>
    let i := j + 8
    let prev := w.getD (i - 1) []
    let t := if i % 8 = 0 then
        ((prev.drop 1 ++ prev.take 1).map aesSub).zipIdx.map (fun q => if q.2 = 0 then q.1 ^^^ (2 ^ (i / 8 - 1)) else q.1)
      else if i % 8 = 4 then prev.map aesSub else prev
    w ++ [((w.getD (i - 8) []).zip t).map (fun q => q.1 ^^^ q.2)]) first)

/-- The 16 bytes of a round key. -/
def aesRoundKey (ws : List (List Nat)) (r : Nat) : List Nat := ((ws.drop (4 * r)).take 4).flatten
/-- XOR of two lists. -/
def xorList (a b : List Nat) : List Nat := (a.zip b).map (fun q => q.1 ^^^ q.2)
/-- ShiftRows, and its inverse. -/
def aesShift (inverse : Bool) (s : List Nat) : List Nat :=
  (List.range 16).map (fun i => s.getD (4 * ((i / 4 + (if inverse then 4 - i % 4 else i % 4)) % 4) + i % 4) 0)
/-- MixColumns with a first row of the circulant matrix. -/
def aesMix (row : List Nat) (s : List Nat) : List Nat :=
  (List.range 16).map (fun i =>
    (List.range 4).foldl (fun a j => a ^^^ gfMul (row.getD ((j + 4 - i % 4) % 4) 0) (s.getD (4 * (i / 4) + j) 0)) 0)

/-- AES-256 encryption of a block. -/
def aesEncrypt (key block : List Nat) : List Nat :=
  let ws := aesKeys key
  let s := (List.range 13).foldl (fun s r =>
    xorList (aesMix [2, 3, 1, 1] (aesShift false (s.map aesSub))) (aesRoundKey ws (r + 1))) (xorList block (aesRoundKey ws 0))
  xorList (aesShift false (s.map aesSub)) (aesRoundKey ws 14)

/-- AES-256 decryption of a block. -/
def aesDecrypt (key block : List Nat) : List Nat :=
  let ws := aesKeys key
  let s := (List.range 13).foldl (fun s r =>
    aesMix [14, 11, 13, 9] (xorList ((aesShift true s).map aesUnsub) (aesRoundKey ws (13 - r)))) (xorList block (aesRoundKey ws 14))
  xorList ((aesShift true s).map aesUnsub) (aesRoundKey ws 0)

/-- XTS over whole blocks: `f` is the block operation under the data key; the 64 key bytes are the data key, then the
tweak key (R412, Table 17-4). -/
def xts (f : List Nat → List Nat → List Nat) (key : List Byte) (tweak : Nat) (data : List Byte) : List Byte :=
  let k := key.map (·.toNat)
  let t0 := leNat ((aesEncrypt (k.drop 32) ((leBytes 16 tweak).map (·.toNat))).map (BitVec.ofNat 8))
  ((piecesOf data.length 16 data).foldl (fun (a : List Byte × Nat) b =>
    let t := (leBytes 16 a.2).map (·.toNat)
    let out := xorList (f (k.take 32) (xorList (b.map (·.toNat)) t)) t
    let next := if 2 ^ 127 ≤ a.2 then (2 * a.2) % 2 ^ 128 ^^^ 0x87 else 2 * a.2
    (a.1 ++ out.map (BitVec.ofNat 8), next)) ([], t0)).1

/-! ECDSA over P-384. -/

/-- The field prime. -/
def p384 : Nat := 2 ^ 384 - 2 ^ 128 - 2 ^ 96 + 2 ^ 32 - 1
/-- The order of the curve. -/
def n384 : Nat := 0xffffffffffffffffffffffffffffffffffffffffffffffffc7634d81f4372ddf581a0db248b0a77aecec196accc52973
/-- The coefficient b. -/
def b384 : Nat := 0xb3312fa7e23ee7e4988e056be3f82d19181d9c6efe8141120314088f5013875ac656398d8a2ed19d2a85c8edd3ec2aef
/-- The base point. -/
def g384 : Nat × Nat :=
  (0xaa87ca22be8b05378eb1c71ef320ad746e1d3b628ba79b9859f741e082542a385502f25dbf55296c3a545e3872760ab7,
   0x3617de4a96262c6f5d9e98bf9292dc29f8f41dbd289a147ce9da3113b5f0b8c00a60b1ce1d7e819d7a431d7c90ea0e5f)

/-- Powers modulo `m`, over the low `k` bits of the exponent. -/
def modPow (m : Nat) : Nat → Nat → Nat → Nat
  | 0, _, _ => 1
  | k + 1, b, e => let r := modPow m k (b * b % m) (e / 2); if e % 2 = 1 then b * r % m else r
/-- The inverse modulo a prime. -/
def modInv (m a : Nat) : Nat := modPow m 384 (a % m) (m - 2)

/-- Whether a point lies on the curve with both coordinates below p. -/
def onCurve (x y : Nat) : Bool :=
  decide (x < p384) && decide (y < p384) && (y * y) % p384 == (x * x * x + (p384 - 3) * x + b384) % p384

/-- The sum of two points; none is the point at infinity. -/
def ecAdd : Option (Nat × Nat) → Option (Nat × Nat) → Option (Nat × Nat)
  | none, q => q
  | p, none => p
  | some (x1, y1), some (x2, y2) =>
    if x1 = x2 ∧ (y1 + y2) % p384 = 0 then none
    else
      let l := if x1 = x2 then (3 * x1 * x1 + (p384 - 3)) * modInv p384 (2 * y1) % p384
        else (y2 + p384 - y1) * modInv p384 (x2 + p384 - x1) % p384
      let x3 := (l * l + 2 * p384 - x1 - x2) % p384
      some (x3, (l * (x1 + p384 - x3) + p384 - y1) % p384)

/-- A multiple of a point, over the low `k` bits of the factor. -/
def ecMul : Nat → Nat → Option (Nat × Nat) → Option (Nat × Nat)
  | 0, _, _ => none
  | k + 1, e, p => let r := ecMul k (e / 2) (ecAdd p p); if e % 2 = 1 then ecAdd p r else r

/-- Whether stored bytes r then s are a valid signature over a 48 B digest under stored x then y (R560). -/
def ecdsaValid (pubkey sig digest : List Byte) : Bool :=
  let x := leNat (pubkey.take 48)
  let y := leNat ((pubkey.drop 48).take 48)
  let r := leNat (sig.take 48)
  let s := leNat ((sig.drop 48).take 48)
  if !onCurve x y || r == 0 || s == 0 || decide (n384 ≤ r) || decide (n384 ≤ s) then false
  else
    let w := modInv n384 s
    let u1 := beNat digest * w % n384
    let u2 := r * w % n384
    match ecAdd (ecMul 384 u1 (some g384)) (ecMul 384 u2 (some (x, y))) with
    | none => false
    | some (vx, _) => vx % n384 == r

/-! Derived keys (R653, Table 17-4). -/

/-- ASCII bytes of a label. -/
def ascii (s : String) : List Byte := s.toList.map (fun c => BitVec.ofNat 8 c.toNat)
/-- ROOT_KEY as the bytes HMAC takes: bit field [8i + 7:8i] is byte i. -/
def Otp.root (o : Otp) : List Byte := leBytes 32 o.rootKey.toNat
/-- The store key. -/
def Otp.storeKey (o : Otp) : List Byte := kdf o.root (ascii "QWC-STORE") [] 48
/-- The data key of a namespace. -/
def Otp.dataKey (o : Otp) (storeId : List Byte) (ns : Nat) : List Byte := kdf o.root (ascii "QWC-NSDK") (storeId ++ leBytes 1 ns) 64
/-- The import key of a namespace. -/
def Otp.importKey (o : Otp) (ns : Nat) : List Byte := kdf o.root (ascii "QWC-NSIK") (leBytes 1 ns) 48

end Sys2Proof.Machine
end

