-- ==== Sys2Proof/Machine/Messages.lean ====
section
/-! DEFINITION. Mailbox messages from the device (R510 to R512, Tables 12-7 to 12-9), and what a roster needs of the
objects it uses (R515). -/

namespace Sys2Proof.Machine

/-! Response status codes (Table 12-9). -/

/-- OK. -/
def stOk : Nat := 0
/-- PENDING. -/
def stPending : Nat := 1
/-- BAD_TYPE. -/
def stBadType : Nat := 2
/-- BAD_ARG. -/
def stBadArg : Nat := 3
/-- ID_IN_USE. -/
def stIdInUse : Nat := 4
/-- NO_ROSTER. -/
def stNoRoster : Nat := 5
/-- UNSELECTABLE. -/
def stUnselectable : Nat := 6
/-- SUPERSEDED. -/
def stSuperseded : Nat := 7
/-- RESETTING. -/
def stResetting : Nat := 8
/-- REFUSED. -/
def stRefused : Nat := 9
/-- NAMESPACE. -/
def stNamespace : Nat := 10

/-- A message of 256 B: the header of Table 12-7 and its payload. -/
def message (msgId type status : Nat) (payload : List Byte) : List Byte :=
  let h := leBytes 2 msgId ++ leBytes 1 type ++ leBytes 1 0 ++ leBytes 2 payload.length ++ leBytes 2 status ++ leBytes 8 0
  let b := h ++ payload
  b ++ leBytes (256 - b.length) 0

/-- The MAILBOX vector of a function (Table 12-10). -/
def mailboxVector (fn : Nat) : Nat := if fn = pfFn then 0 else 1

/-- Write a message into the next response slot. -/
def Mailbox.write (m : Mailbox) (bs : List Byte) : Mailbox :=
  { m with rsp := Tbl.putRun 0#8 (m.rspPi.toNat % 16 * 256) bs m.rsp, rspPi := m.rspPi + 1#16 }

/-- Whether 16 responses are unread. -/
def Mailbox.full (m : Mailbox) : Bool := decide (16 ≤ (m.rspPi - m.rspCi).toNat)

/-- Send a message to a function, or hold it while 16 are unread (R510). -/
def State.post (s : State) (fn : Nat) (bs : List Byte) : State :=
  let m := (s.fn fn).mbx
  if m.full || !m.held.isEmpty then s.onFn fn (fun f => { f with mbx := { m with held := m.held ++ [⟨bs⟩] } })
  else (s.onFn fn (fun f => { f with mbx := m.write bs })).signal fn (mailboxVector fn)

/-- Answer a request. -/
def State.respond (s : State) (fn msgId type status : Nat) (payload : List Byte := []) : State :=
  s.post fn (message msgId type status payload)

/-- The final response of a request that was PENDING. -/
def State.finish (s : State) (fn msgId type status : Nat) (payload : List Byte := []) : State :=
  (s.onFn fn (fun f => { f with mbx := { f.mbx with pendingIds := f.mbx.pendingIds.erase msgId } })).respond fn msgId type status payload

/-- Answer PENDING. -/
def State.pend (s : State) (fn msgId type : Nat) : State :=
  (s.respond fn msgId type stPending).onFn fn (fun f => { f with mbx := { f.mbx with pendingIds := f.mbx.pendingIds ++ [msgId] } })

/-- Held messages take the slots that reading has freed. -/
def State.releaseHeld : Nat → Nat → State → State
  | 0, _, s => s
  | k + 1, fn, s =>
    let m := (s.fn fn).mbx
    match m.held with
    | [] => s
    | b :: rest =>
      if m.full then s
      else State.releaseHeld k fn ((s.onFn fn (fun f => { f with mbx := { m with held := rest }.write b.bytes })).signal fn (mailboxVector fn))

/-! Objects of the model-object list. -/

/-- An object's states. -/
def State.obj (s : State) (i : Nat) : ObjSt := Tbl.get {} i s.store.objs

/-- Whether a roster uses an object that makes it unselectable (Table 10-8). -/
def State.unselectable (s : State) (r : RosterCfg) : Bool :=
  r.objects.any (fun i => match (s.obj i).state with
    | .valid => false | .degraded => false | _ => true)

/-- Store class: a pending switch to a roster that has become unselectable ends (R515). -/
def State.endUnselectable (s : State) (p : Nat) : State :=
  match (s.part p).switch with
  | none => s
  | some w =>
    if ((s.cfg.roster p w.roster).map s.unselectable).getD false then
      (s.onPart p (fun x => { x with switch := none })).finish w.fn w.msgId 1 stUnselectable
    else s

/-- Set an object's states. A change is logged, the PF and the VF of the destination's partition are told (R418, Table 12-8), and in
store class the switches that it makes impossible end (R515). -/
def State.setObj (s : State) (i : Nat) (x : ObjSt) : State :=
  let old := s.obj i
  let s1 := { s with store := { s.store with objs := Tbl.put {} i x s.store.objs } }
  if x.state = old.state ∧ x.staging = old.staging then s1
  else match s.cfg.objects[i]? with
    | none => s1
    | some o =>
      let s2 := s1.event 0x0405 1 (some o.part) (o.ns + x.state.code * 2 ^ 4 + x.staging.code * 2 ^ 8 + o.objId * 2 ^ 32)
      let note := message 0xFFFF 0x82 0 (leBytes 4 o.ns ++ leBytes 4 o.objId ++ leBytes 1 x.state.code ++ leBytes 1 x.staging.code)
      let s3 := (s2.post pfFn note).post o.part note
      if s.cfg.pod then s3 else s3.definedParts.foldl State.endUnselectable s3

/-- Whether an object can be staged: some replica of it is whole, and no second read-back has failed (R422). -/
def State.stageable (s : State) (i : Nat) : Bool :=
  s.store.inUse && ((s.obj i).state == .valid || (s.obj i).state == .degraded) && decide ((s.obj i).badReadBacks < 2)

/-- Whether every object a roster uses is resident. -/
def State.resident (s : State) (r : RosterCfg) : Bool := r.objects.all (fun i => (s.obj i).staging == .resident)

/-- Whether a roster can start. -/
def State.selectable (s : State) (r : RosterCfg) : Bool := !s.unselectable r && s.resident r

end Sys2Proof.Machine
end

