-- ==== Sys2Proof/Machine/NandRec.lean ====
section
/-! DEFINITION. Codewords of the model store as they stand in flash (R390 to R392): the payloads of Tables 10-6 and 10-7, of
maps and checkpoints, the header of Table 10-4 and the parity. -/

namespace Sys2Proof.Machine

/-- Bytes completed with zeros, or cut, to a length. -/
def fitBytes (n : Nat) (bs : List Byte) : List Byte := bs.take n ++ List.replicate (n - bs.length) 0#8

/-- Bytes 0x000 to 0xFCF of a commit record (Table 10-7). -/
def CommitRec.body (r : CommitRec) : List Byte :=
  leBytes 8 r.seq ++ leBytes 4 r.objId ++ leBytes 1 r.ns ++ leBytes 1 r.replica ++ leBytes 1 r.replicas ++ leBytes 1 r.prot
    ++ leBytes 2 r.reloc ++ leBytes 6 0 ++ leBytes 8 r.payloadLen ++ leBytes 4 r.units ++ leBytes 2 r.maps.length ++ leBytes 10 0
    ++ fitBytes 48 r.digest ++ fitBytes 96 r.auth ++ fitBytes 3840 (r.maps.flatMap (leBytes 8)) ++ leBytes 16 0

/-- Bytes 0x000 to 0xFCF of a retire record (R408). -/
def retireBody (seq objId ns : Nat) : List Byte := fitBytes 0xFD0 (leBytes 8 seq ++ leBytes 4 objId ++ leBytes 1 ns)

/-- An entry of a map (R406). -/
def Extent.word (e : Extent) : Nat := e.addr % 2 ^ 48 + e.pages % 2 ^ 16 * 2 ^ 48

/-- An entry of an index checkpoint (R410). -/
def checkpointEntry (e : Nat × Nat × Nat) : List Byte := leBytes 8 e.1 ++ leBytes 4 e.2.1 ++ leBytes 1 e.2.2 ++ leBytes 3 0

/-- The entries of a checkpoint, over which its HMAC is taken. -/
def Checkpoint.body (c : Checkpoint) : List Byte := c.entries.flatMap checkpointEntry

/-- Codewords that the run of a checkpoint takes. -/
def Checkpoint.words (c : Checkpoint) : Nat := ceilDiv (16 + 16 * c.entries.length + 48) 4096

/-- The payloads of a checkpoint's run, one after the other: the HMAC ends the last codeword. -/
def Checkpoint.bytes (c : Checkpoint) : List Byte :=
  fitBytes (4096 * c.words - 48) (leBytes 8 c.entries.length ++ leBytes 8 c.covers ++ c.body) ++ fitBytes 48 c.mac

/-- The payload of a superblock copy (Table 10-6). -/
def SuperRec.bytes (r : SuperRec) : List Byte :=
  fitBytes 4096 ([0x51#8, 0x53#8, 0x42#8, 0x4B#8] ++ leBytes 2 1 ++ leBytes 2 0 ++ leBytes 8 r.gen ++ fitBytes 16 r.storeId
    ++ fitBytes 48 r.binding ++ leBytes 16 (r.targets.foldl (fun a k => a + 2 ^ k) 0) ++ leBytes 4 r.pages ++ leBytes 4 r.blocks
    ++ leBytes 1 r.luns ++ leBytes 1 r.planes ++ leBytes 2 r.metaList.length ++ leBytes 2 r.logList.length ++ leBytes 146 0
    ++ fitBytes 1024 (r.metaList.flatMap (leBytes 4)) ++ fitBytes 1024 (r.logList.flatMap (leBytes 4)))

/-- The KIND of a codeword (Table 10-4). -/
def Content.kind : Content → Nat
  | .unit _ => 1 | .map _ => 2 | .commit _ => 3 | .retire _ _ _ _ => 4 | .checkpoint _ _ => 5 | .superblock _ => 6
  | .log _ => 7 | .badBlocks _ => 8 | .wear _ => 9 | .filler => 10 | .ringHeader _ => 11

/-- The 4,096 bytes of a payload, for a codeword at a flash address. Where the manual gives no layout they are free values. -/
def Content.payload (a : Nat) : Content → List Byte
  | .unit bs => fitBytes 4096 bs
  | .map es => fitBytes 4096 (es.flatMap (fun e => leBytes 8 e.word))
  | .commit r => r.body ++ fitBytes 48 r.mac
  | .retire q o n m => retireBody q o n ++ fitBytes 48 m
  | .checkpoint c i => (c.bytes.drop (4096 * i)).take 4096
  | .superblock r => r.bytes
  | .ringHeader q => fitBytes 4096 (leBytes 8 q)
  | .log l => fitBytes 4096 (l.flatMap LogSlot.bytes)
  | .badBlocks _ => (List.range 4096).map (Config.payloadByte a)
  | .wear _ => (List.range 4096).map (Config.payloadByte a)
  | .filler => (List.range 4096).map (Config.payloadByte a)

/-- Bytes 0x00 to 0x0B of a header (Table 10-4). -/
def Codeword.head (w : Codeword) : List Byte :=
  leBytes 1 w.content.kind ++ leBytes 1 w.ns ++ leBytes 2 0 ++ leBytes 4 w.objId ++ leBytes 4 w.unit

/-- CHECK (Table 10-4). -/
def Codeword.check (w : Codeword) (a : Nat) : Nat := crc32c (w.content.payload a ++ w.head)

/-- The 4,112 bytes that the parity protects (R391). -/
def Codeword.data (w : Codeword) (a : Nat) : List Byte := w.content.payload a ++ w.head ++ leBytes 4 (w.check a)

/-- The 4,560 bytes of a codeword in its page (R390). -/
def Codeword.raw (w : Codeword) (a : Nat) : List Byte := w.data a ++ (List.range 448).map (Config.ldpcParity (w.data a))

/-- Bits of some bytes that are 0. -/
def zeroBits (bs : List Byte) : Nat := bs.foldl (fun n b => n + (List.range 8).foldl (fun k i => k + b2n (!bit1 b i)) 0) 0

/-- Whether a codeword as it was programmed passes for an erased one (R392): its raw bytes differ from all-0xFF in 64 bits or
fewer. -/
def Codeword.looksErased (w : Codeword) (a : Nat) : Bool := decide (zeroBits w.head ≤ 64) && decide (zeroBits (w.raw a) ≤ 64)

end Sys2Proof.Machine
end

