-- ==== Sys2Proof/Machine/NandMap.lean ====
section
/-! DEFINITION. The model store's flash: addresses and block kinds (R396 to R398), programs and erases (R386, R424), the
metadata ring (R402 to R404, R410), the superblock copies (R399), chunks (R405, R414, R415) and the maps and commit records of
replicas (R406, R407). -/

namespace Sys2Proof.Machine

/-! Flash addresses (R396). -/

/-- The block address of a target's block, given with its LUN in bits [2:0]. -/
def blockAt (ch tg blk : Nat) : Nat := ch + 16 * tg + 128 * blk
/-- The block address in a flash address. -/
def blockOf (a : Nat) : Nat := a % 2 ^ 32
/-- The target of a block, as 8 times its channel plus its number. -/
def targetOf (b : Nat) : Nat := 8 * (b % 16) + b / 16 % 8
/-- The page within the block. -/
def pageOf (a : Nat) : Nat := a / 2 ^ 32 % 2 ^ 16
/-- The address of a codeword. -/
def codewordAt (block page cw : Nat) : Nat := block + page * 2 ^ 32 + cw * 2 ^ 48

/-! Targets and blocks. -/

/-- A target's state. -/
def StoreSt.tg (t : StoreSt) (k : Nat) : TargetSt := Tbl.get {} k t.tgt
/-- Change a target's state. -/
def StoreSt.onTg (t : StoreSt) (k : Nat) (f : TargetSt → TargetSt) : StoreSt := { t with tgt := Tbl.put {} k (f (t.tg k)) t.tgt }
/-- The codeword at a flash address; none where it is erased. -/
def StoreSt.cell (t : StoreSt) (a : Nat) : Option Codeword := Tbl.get none a t.cells
/-- Whether a block is neither a factory nor a grown bad block (R428, R429). -/
def StoreSt.good (t : StoreSt) (b : Nat) : Bool := !t.factoryBad.contains b && !t.bad.contains b
/-- The blocks of a target in ascending LUN, then block. -/
def StoreSt.blocksOf (t : StoreSt) (k : Nat) : List Nat :=
  (List.range t.luns).flatMap (fun l => (List.range t.blocks).map (fun b => blockAt (k / 8) (k % 8) (l + 8 * b)))
/-- The blocks that hold superblock copies when a store is formatted (R398). -/
def StoreSt.superPlaces (t : StoreSt) : List Nat :=
  ([0, 4, 8, 12].filter (fun c => t.targets.contains (8 * c))).filterMap
    (fun c => ((List.range 8).map (fun b => blockAt c 0 (8 * b))).find? t.good)
/-- Whether a block is of a pSLC kind (R397). -/
def StoreSt.isPslc (t : StoreSt) (b : Nat) : Bool := t.metaList.contains b || t.logList.contains b || t.superList.contains b
/-- Whether a good block is a data block (R397). -/
def StoreSt.isData (t : StoreSt) (b : Nat) : Bool := t.good b && !t.isPslc b
/-- Whether a block lies on a target that takes writes: one out of use is left alone (R389), and a worn out one takes no new
writes (R430). -/
def StoreSt.writable (t : StoreSt) (b : Nat) : Bool := !(t.tg (targetOf b)).out && !(t.tg (targetOf b)).worn
/-- Bad blocks of a target. -/
def StoreSt.badOn (t : StoreSt) (k : Nat) : Nat := ((t.factoryBad ++ t.bad).filter (fun b => decide (targetOf b = k))).length
/-- Whether the bad blocks of a target have passed 8 % of its blocks (R430). -/
def StoreSt.wornOut (t : StoreSt) (k : Nat) : Bool := decide (8 * (t.luns * t.blocks) < 100 * t.badOn k)
/-- The data blocks. -/
def StoreSt.dataBlocks (t : StoreSt) : List Nat := (t.targets.flatMap t.blocksOf).filter t.isData
/-- The pSLC blocks. -/
def StoreSt.pslcBlocks (t : StoreSt) : List Nat := t.superList.filter t.good ++ t.metaList ++ t.logList
/-- The erase count of a block. -/
def StoreSt.erased (t : StoreSt) (b : Nat) : Nat := Tbl.get 0 b t.erases
/-- Whether a live map names an extent in a block, or the operation under way has written one there. -/
def StoreSt.live (t : StoreSt) (b : Nat) : Bool :=
  t.claimed.contains b || t.index.any (fun r => r.extents.any (fun e => decide (blockOf e.addr = b)))
    || t.imports.any (fun r => r.extents.any (fun e => decide (blockOf e.addr = b)))
/-- Whether a data block holds nothing live. -/
def StoreSt.freeBlock (t : StoreSt) (b : Nat) : Bool := t.isData b && !t.failing.contains b && !t.live b

/-! Programs and erases. -/

/-- Put the target of a block in the mode of the block's kind before it is touched (R386): a Set Features write where it
stands in the other mode. -/
def StoreSt.touch (t : StoreSt) (b : Nat) : StoreSt :=
  let k := targetOf b
  let want := t.isPslc b
  if (t.tg k).pslc = want then t
  else t.onTg k (fun y => { y with pslc := want, feature := some (t.pslcFa, if want then t.pslcOn else t.pslcOff) })

/-- Put the targets of some blocks in the mode of each, in turn, as its reads need it (R386). -/
def StoreSt.touchAll (t : StoreSt) (bs : List Nat) : StoreSt := bs.foldl StoreSt.touch t

/-- Read some pages of a block: the target stands in the mode of the block (R386), and the reads since its last erase are
counted (R426). -/
def StoreSt.noteRead (t : StoreSt) (b pages : Nat) : StoreSt :=
  { t.touch b with reads := Tbl.put 0 b (Tbl.get 0 b t.reads + pages) t.reads }

/-- Count a codeword read of a channel (R394, Table 16-6). -/
def NandCtr.count (c : NandCtr) (step : Nat × Nat) : NandCtr :=
  match step.1 with
  | 1 => { c with step1 := sat32 c.step1 1 }
  | 2 => { c with step2 := sat32 c.step2 1, levels := sat32 c.levels step.2 }
  | 3 => { c with step3 := sat32 c.step3 1 }
  | _ => { c with ue := sat32 c.ue 1 }

/-- Count a codeword of a block at the step of the ladder that ended it (R394). -/
def StoreSt.countStep (t : StoreSt) (b : Nat) (step : Nat × Nat) : StoreSt :=
  { t with ctr := Tbl.put {} (b % 16) ((Tbl.get {} (b % 16) t.ctr).count step) t.ctr }

/-- Count codewords of a block that are correct at once (R394). -/
def StoreSt.countOnce (t : StoreSt) (b n : Nat) : StoreSt := (List.range n).foldl (fun (u : StoreSt) _ => u.countStep b (1, 0)) t

/-- Reads beyond the first that the ladder makes of a codeword (Table 10-5): one at each retry level it tries, and three at step 3. -/
def ladderReads (levels : Nat) (step : Nat × Nat) : Nat := if step.1 = 1 then 0 else if step.1 = 2 then step.2 else levels + 3

/-- The ladder's further reads of a codeword are reads of its block (R426). -/
def StoreSt.noteLadder (t : StoreSt) (b : Nat) (step : Nat × Nat) : StoreSt :=
  { t with reads := Tbl.put 0 b (Tbl.get 0 b t.reads + ladderReads (t.tg (targetOf b)).retry step) t.reads }

/-- The unit codewords that were programmed into an extent, in order. -/
def StoreSt.unitsAt (t : StoreSt) (e : Extent) : List Codeword :=
  (List.range (4 * e.pages)).filterMap (fun i =>
    (t.cell (codewordAt (blockOf e.addr) (pageOf e.addr + i / 4) (i % 4))).filter (fun w => decide (w.content.kind = 1)))

/-- Whether a flash address lies in an extent. -/
def Extent.holds (e : Extent) (a : Nat) : Bool :=
  decide (blockOf e.addr = blockOf a) && decide (pageOf e.addr ≤ pageOf a) && decide (pageOf a < pageOf e.addr + e.pages)

/-- Whether a codeword has been found uncorrectable, or lies on a target that is out of use (R389, R419). -/
def StoreSt.dead (t : StoreSt) (a : Nat) : Bool := t.lost.contains a || (t.tg (targetOf (blockOf a))).out

/-- The unit codewords of an extent as they can be read, in order: none of a target that is out of use, and none that has been lost
(R389, R419). -/
def StoreSt.extentUnits (t : StoreSt) (e : Extent) : List Codeword :=
  if (t.tg (targetOf (blockOf e.addr))).out ∨ t.lost.any (fun a => e.holds a && (t.cell a).any (fun w => decide (w.content.kind = 1))) then []
  else t.unitsAt e

/-- Read some extents: their pages, and each of their units once (R394, R426). -/
def StoreSt.noteExtents (t : StoreSt) (es : List Extent) : StoreSt :=
  es.foldl (fun (a : StoreSt) e => (a.noteRead (blockOf e.addr) e.pages).countOnce (blockOf e.addr) (a.unitsAt e).length) t

/-- Erase a block (R424). -/
def StoreSt.erase (t : StoreSt) (b : Nat) : StoreSt :=
  let t := t.touch b
  { t with
    erases := Tbl.put 0 b (t.erased b + 1) t.erases
    filled := Tbl.put 0 b 0 t.filled
    reads := Tbl.put 0 b 0 t.reads
    refresh := t.refresh.filter (· ≠ b)
    lost := t.lost.filter (fun a => decide (blockOf a ≠ b))
    cutErases := t.cutErases.filter (· ≠ b), torn := t.torn.filter (fun a => decide (blockOf a ≠ b))
    cells := t.cells.filter (fun e => decide (blockOf e.1 ≠ b)) }

/-- Erase a block again whose erase was aborted (R613), before it is programmed. -/
def StoreSt.ready (t : StoreSt) (b : Nat) : StoreSt := if t.cutErases.contains b then t.erase b else t

/-- Program a codeword. -/
def StoreSt.program (t : StoreSt) (a : Nat) (w : Codeword) : StoreSt :=
  let t := t.touch (blockOf a)
  { t with cells := Tbl.put none a (some w) t.cells }

/-! The superblock (R398, R399). -/

/-- What a superblock copy of the store says. -/
def StoreSt.superRec (t : StoreSt) : SuperRec :=
  { gen := t.gen, storeId := t.storeId, binding := hmac384 t.key t.storeId, targets := t.atFormat, pages := t.pages
    blocks := t.blocks, luns := t.luns, planes := t.planes, metaList := t.metaList, logList := t.logList }

/-- A codeword of store metadata. -/
def metaWord (unit : Nat) (c : Content) : Codeword := { ns := 0xFF, objId := 0, unit := unit, content := c }

/-- Rewrite some superblock copies with the next generation, one at a time (R399), on the targets that take writes. DESIGN CHOICE
(log 24): a copy is codeword 0 of page 0 of its block, with UNIT 0. -/
def StoreSt.writeSuper (t : StoreSt) (copies : List Nat) : StoreSt :=
  let t1 := { t with gen := t.gen + 1 }
  (copies.filter t.writable).foldl (fun (a : StoreSt) b => (a.erase b).program (codewordAt b 0 0) (metaWord 0 (.superblock t1.superRec))) t1

/-! The metadata ring. -/

/-- Codewords of a pSLC block: three TLC pages make one, and each holds four. -/
def StoreSt.perBlock (t : StoreSt) : Nat := t.pages / 3 * 4

/-- The block address of a BLOCK_SEQ that is held. -/
def StoreSt.ringBlock (t : StoreSt) (seq : Nat) : Nat := Tbl.get 0 seq t.held - 1

/-- Whether a ring block stands erased on a target that takes writes. -/
def StoreSt.spare (t : StoreSt) (b : Nat) : Bool := t.writable b && !(t.held.any (fun e => decide (e.2 = b + 1)))

/-- Ring blocks that stand erased and can be written. -/
def StoreSt.spareBlocks (t : StoreSt) : Nat := (t.metaList.filter t.spare).length

/-- The ring block that is written after another: the next one in ring order that can be. -/
def StoreSt.ringAfter (t : StoreSt) (b : Nat) : Nat :=
  let i := match t.metaList.idxOf? b with
    | some i => i + 1
    | none => 0
  ((t.metaList.drop i ++ t.metaList.take i).find? t.spare).getD b

/-- The flash address of a position of the block being written. -/
def StoreSt.headPlace (t : StoreSt) (pos : Nat) : Nat := codewordAt (t.ringBlock t.headSeq) (pos / 4) (pos % 4)

/-- Write a codeword at the ring head, in the block being written. -/
def StoreSt.putHead (t : StoreSt) (w : Codeword) : StoreSt :=
  { t.program (t.headPlace t.headUsed) w with headUsed := t.headUsed + 1 }

/-- The ring position of the next codeword, which its UNIT gives (Table 10-4, log 24). -/
def StoreSt.ringPos (t : StoreSt) : Nat := (t.headSeq * t.perBlock + t.headUsed) % 2 ^ 32

/-- Open the next ring block: its header is written (R402). -/
def StoreSt.openRing (t : StoreSt) : StoreSt :=
  let b := t.ringAfter (t.ringBlock t.headSeq)
  let t1 := { t.ready b with headSeq := t.headSeq + 1, headUsed := 0, held := Tbl.put 0 (t.headSeq + 1) (b + 1) t.held }
  t1.putHead (metaWord t1.ringPos (.ringHeader t1.headSeq))

/-- Where a record of some codewords would start in the block being written: a checkpoint starts at a new page (R410). -/
def StoreSt.startAt (t : StoreSt) (atPage : Bool) : Nat := if atPage then roundUp t.headUsed 4 else t.headUsed

/-- Whether a record of some codewords does not fit the block being written, or that block takes no more writes. -/
def StoreSt.opensRing (t : StoreSt) (atPage : Bool) (words : Nat) : Bool :=
  decide (t.perBlock < t.startAt atPage + words) || !t.writable (t.ringBlock t.headSeq)

/-- Fillers up to a position of the block being written. -/
def StoreSt.fillTo (t : StoreSt) (pos : Nat) : StoreSt :=
  (List.range (pos - t.headUsed)).foldl (fun (a : StoreSt) _ => a.putHead (metaWord a.ringPos .filler)) t

/-- The page of the ring that is being filled is programmed: fillers take the rest of it, since a page is programmed once (R384). -/
def StoreSt.endPage (t : StoreSt) : StoreSt := t.fillTo (roundUp t.headUsed 4)

/-- Write a record at the ring head, and give the flash address of its first codeword. With no block left to open nothing is
written: R401 keeps imports from going so far. A map carries its object and its index, the other kinds their ring position. -/
def StoreSt.write (t : StoreSt) (atPage : Bool) (ws : List Codeword) : Nat × StoreSt :=
  if t.opensRing atPage ws.length ∧ t.spareBlocks = 0 then (0, t)
  else
    let t1 := if t.opensRing atPage ws.length then t.openRing else t
    let t2 := t1.fillTo (t1.startAt atPage)
    (t2.headPlace t2.headUsed, ws.foldl (fun (a : StoreSt) w =>
      a.putHead (if w.content.kind = 2 then w else { w with unit := a.ringPos })) t2)

/-- Write a record of one codeword of store metadata. -/
def StoreSt.writeMeta (t : StoreSt) (c : Content) : Nat × StoreSt := t.write false [metaWord 0 c]

/-- Write the maps of a replica (R406): their flash addresses, in map order. -/
def StoreSt.writeMap (t : StoreSt) (objId ns i : Nat) (es : List Extent) : Nat × StoreSt :=
  t.write false [{ ns := ns, objId := objId, unit := i, content := .map es }]

/-- Whether an index entry is the replica of an object. -/
def Replica.is (x : Replica) (objId ns replica : Nat) : Bool :=
  decide (x.objId = objId) && decide (x.ns = ns) && decide (x.replica = replica)

/-- Replace an index entry by its successor. -/
def StoreSt.putReplica (t : StoreSt) (old new : Replica) : StoreSt :=
  { t with index := t.index.map (fun x => if x = old then new else x) }

/-- Sign and write a commit record of a replica, and make the replica visible in the index (R407, R409). -/
def StoreSt.writeCommit (t : StoreSt) (x : Replica) : StoreSt :=
  let r := { x.toCommitRec with mac := hmac384 t.key x.toCommitRec.body }
  let p := t.writeMeta (.commit r)
  let y := { x with toCommitRec := r, at_ := p.1 }
  let mine (z : Replica) : Bool := z.is x.objId x.ns x.replica
  { p.2 with
    index := if t.index.any mine then t.index.map (fun z => if mine z then y else z) else t.index ++ [y]
    sinceCheckpoint := t.sinceCheckpoint + 1 }

/-- The index checkpoint of the store as it is (R410). -/
def StoreSt.checkpointRec (t : StoreSt) : Checkpoint :=
  let c : Checkpoint := { covers := t.seq - 1, entries := t.index.map (fun x => (x.at_, x.objId, x.ns)), mac := [] }
  { c with mac := hmac384 t.key c.body }

/-- Write an index checkpoint, and the wear table with it (R403, log 24). -/
def StoreSt.writeCheckpoint (t : StoreSt) : StoreSt :=
  let w := t.writeMeta (.wear t.erases)
  let t1 := { w.2 with wearAt := w.1 }
  let c := t1.checkpointRec
  { (t1.write true ((List.range c.words).map (fun i => metaWord 0 (.checkpoint c i)))).2 with sinceCheckpoint := 0 }

/-- The lists of extents that the maps of a replica hold: at least one map (Table 10-7). -/
def mapLists (es : List Extent) : List (List Extent) := if es.isEmpty then [[]] else piecesOf es.length 512 es

/-- The maps of a replica that lie in a block, read and written again at the ring head: the new addresses of all its maps. One that
cannot be read stays where it is (R419). -/
def StoreSt.moveMaps (b : Nat) : List Nat → StoreSt → List Nat × StoreSt
  | [], t => ([], t)
  | a :: rest, t =>
    let r := match t.cell a with
      | some w => if blockOf a = b ∧ !t.dead a then ((t.noteRead b 1).countOnce b 1).write false [w] else (a, t)
      | none => (a, t)
    let q := moveMaps b rest r.2
    (r.1 :: q.1, q.2)

/-- The maps of an import under way that lie in a block, written again from what the import holds. -/
def StoreSt.againMaps (b : Nat) (q : ImportRun) : Nat → List Nat → StoreSt → List Nat × StoreSt
  | _, [], t => ([], t)
  | i, a :: rest, t =>
    let r := if blockOf a = b then t.writeMap q.objId q.ns i ((mapLists q.extents).getD i []) else (a, t)
    let p := againMaps b q (i + 1) rest r.2
    (r.1 :: p.1, p.2)

/-- The bad-block table as it stands (R428, R429). -/
def StoreSt.badTable (t : StoreSt) : Content := .badBlocks (t.factoryBad ++ t.bad)

/-- The flash addresses of the pages that some codewords of the metadata ring lie in. -/
def pagesOf (words : List Nat) : List Nat := (words.map (· % 2 ^ 48)).eraseDups

/-- Rewrite the live records of a ring block at the ring head (R404): the latest tables, the maps of live replicas, and their
commit records with RELOC raised by `bump`; a replica of which a map cannot be read has failed (R419). The maps that imports under way have written go too, and those imports wait for their
programs. -/
def StoreSt.rewrite (t : StoreSt) (b bump : Nat) : StoreSt :=
  let t1 := if t.badAt ≠ 0 ∧ blockOf t.badAt = b then
      let r := t.writeMeta t.badTable
      { r.2 with badAt := r.1 }
    else t
  let t2 := if t1.wearAt ≠ 0 ∧ blockOf t1.wearAt = b then
      let r := t1.writeMeta (.wear t1.erases)
      { r.2 with wearAt := r.1 }
    else t1
  let here (x : CommitRec) (at_ : Nat) : Bool := decide (blockOf at_ = b) || x.maps.any (fun a => decide (blockOf a = b))
  let t3 := (t2.index.filter (fun x => here x.toCommitRec x.at_)).foldl (fun (a : StoreSt) x =>
    let m := StoreSt.moveMaps b x.maps a
    m.2.writeCommit { x with maps := m.1, reloc := x.reloc + bump, failed := x.failed || x.maps.any (fun p => decide (blockOf p = b) && a.dead p) }) t2
  t3.imports.foldl (fun (a : StoreSt) q =>
    let m := StoreSt.againMaps b q 0 q.maps a
    let moved := m.1.filter (fun x => !q.maps.contains x)
    let wait := q.wait.filter (fun x => !(decide (blockOf x = b) && (pagesOf q.maps).contains x)) ++ pagesOf moved
    { m.2 with imports := m.2.imports.map (fun z => if z = q then { q with maps := m.1, wait := wait } else z) }) t3

/-- Codewords that the live records of a block take, and a checkpoint after them, with the fillers that end their pages. -/
def StoreSt.reclaimNeed (t : StoreSt) (b : Nat) : Nat :=
  (t.index.map (fun x =>
    let m := (x.maps.filter (fun a => decide (blockOf a = b))).length
    if blockOf x.at_ = b ∨ m ≠ 0 then m + 1 else 0)).sum
    + (t.imports.map (fun q => (q.maps.filter (fun a => decide (blockOf a = b))).length)).sum + 9 + t.checkpointRec.words

/-- Codewords free in the metadata ring. -/
def StoreSt.ringFree (t : StoreSt) : Nat :=
  t.spareBlocks * (t.perBlock - 1) + (if t.writable (t.ringBlock t.headSeq) then t.perBlock - t.headUsed else 0)

/-- The oldest ring block that can be erased: one on a target out of use stays as it is until the next boot (R389). -/
def StoreSt.oldest (t : StoreSt) : Option (Nat × Nat) := t.held.find? (fun e => !(t.tg (targetOf (e.2 - 1))).out)

/-- Reclaim the oldest ring block (R404): live records, a checkpoint, and then the erase. Where the ring has no room for them
the block stays. -/
def StoreSt.reclaim (t : StoreSt) : StoreSt :=
  match t.oldest with
  | none => t
  | some (seq, b) =>
    if seq = t.headSeq ∨ t.ringFree < t.reclaimNeed (b - 1) then t
    else
      let t1 := ((t.rewrite (b - 1) 1).writeCheckpoint.endPage).erase (b - 1)
      { t1 with held := Tbl.put 0 seq 0 t1.held }

/-- Reclaim the oldest ring block first where a record opens a new block and only one stands erased. -/
def StoreSt.makeRoom (t : StoreSt) (atPage : Bool) (words : Nat) : StoreSt :=
  if t.opensRing atPage words ∧ t.spareBlocks ≤ 1 then t.reclaim else t

/-- Write an index checkpoint, with room made for it. -/
def StoreSt.checkpoint (t : StoreSt) : StoreSt := (t.makeRoom true (t.checkpointRec.words + 1)).writeCheckpoint.endPage

/-- Write a commit record, with room made for it. -/
def StoreSt.commit (t : StoreSt) (x : Replica) : StoreSt := ((t.makeRoom false 1).writeCommit x).endPage

/-- Write a retire record (R408), with room made for it. -/
def StoreSt.retire (t : StoreSt) (objId ns : Nat) : StoreSt :=
  let t1 := t.makeRoom false 1
  { (t1.writeMeta (.retire t1.seq objId ns (hmac384 t1.key (retireBody t1.seq objId ns)))).2.endPage with
    seq := t1.seq + 1, sinceCheckpoint := t1.sinceCheckpoint + 1
    index := t1.index.filter (fun x => !(decide (x.objId = objId) && decide (x.ns = ns))) }

/-- Write the bad-block table (R429), with room made for it. -/
def StoreSt.writeBad (t : StoreSt) : StoreSt :=
  let r := (t.makeRoom false 1).writeMeta t.badTable
  { r.2.endPage with badAt := r.1 }

/-- Write the maps of some extents from map `i` on (R406). -/
def StoreSt.writeMapsFrom (objId ns : Nat) : Nat → List (List Extent) → StoreSt → List Nat × StoreSt
  | _, [], t => ([], t)
  | i, es :: rest, t =>
    let r := t.writeMap objId ns i es
    let q := writeMapsFrom objId ns (i + 1) rest r.2
    (r.1 :: q.1, q.2)

/-- Write the maps of some extents, with room made first for all of them and a commit record (R406), so that no reclaim comes between
them. -/
def StoreSt.writeMaps (objId ns : Nat) (es : List Extent) (t : StoreSt) : List Nat × StoreSt :=
  StoreSt.writeMapsFrom objId ns 0 (mapLists es) (t.makeRoom false ((mapLists es).length + 1))

/-! Chunks (R414, R415). -/

/-- The targets of a replica's rotation (R414), in its order: the first target of every channel, channels ascending, then the
second one (R415; the worked placement of chapter 10 fixes which of the two runs faster). Targets out of use or worn out take no
new writes (R389, R430). -/
def StoreSt.allowed (t : StoreSt) (replica : Nat) : List Nat :=
  let flat := t.targets.all (fun k => decide (k % 8 = 0))
  ((List.range 128).map (fun i => 8 * (i % 16) + i / 16)).filter (fun k =>
    t.targets.contains k && decide ((if flat then k / 8 else k) % 2 = replica) && !(t.tg k).out && !(t.tg k).worn)

/-- Whether two replicas can be kept apart. -/
def StoreSt.separates (t : StoreSt) : Bool := !(t.allowed 0).isEmpty && !(t.allowed 1).isEmpty

/-- Whether a data block can take a chunk of some pages: behind what it holds, or erased because nothing in it is live. -/
def StoreSt.takes (t : StoreSt) (pages b : Nat) : Bool :=
  t.isData b && !t.failing.contains b && (decide (Tbl.get 0 b t.filled + pages ≤ t.pages) || !t.live b)

/-- The block of lowest erase count on a target that can take a chunk. -/
def StoreSt.bestBlock (t : StoreSt) (k pages : Nat) (avoid : List Nat) : Option Nat :=
  (t.blocksOf k).foldl (fun (a : Option Nat) b =>
    if !t.takes pages b || avoid.contains b then a
    else match a with
      | some c => if t.erased b < t.erased c then some b else a
      | none => some b) none

/-- Write a chunk of units into a block, the rest of its last page as fillers (R405), whose header names no namespace and UNIT 0
(DESIGN CHOICE, log 24; R390 states neither for them). -/
def StoreSt.putChunk (t : StoreSt) (b : Nat) (units : List Codeword) : Extent × StoreSt :=
  let pages := ceilDiv units.length 4
  let t1 := if Tbl.get 0 b t.filled + pages ≤ t.pages then t.ready b else t.erase b
  let p0 := Tbl.get 0 b t1.filled
  let all := units ++ List.replicate (4 * pages - units.length) (metaWord 0 .filler)
  (⟨codewordAt b p0 0, pages⟩, all.zipIdx.foldl (fun (a : StoreSt) q => a.program (codewordAt b (p0 + q.2 / 4) (q.2 % 4)) q.1)
    { t1 with filled := Tbl.put 0 b (p0 + pages) t1.filled, claimed := b :: t1.claimed })

/-- Write chunk `k` of a replica on the next target of its rotation that has a free chunk. -/
def StoreSt.placeChunk (t : StoreSt) (replica k : Nat) (units : List Codeword) (avoid : List Nat) : Option (Extent × StoreSt) :=
  let ways := (t.allowed replica).filterMap (fun g => t.bestBlock g (ceilDiv units.length 4) avoid)
  match ways[k % ways.length]? with
  | some b => some (t.putChunk b units)
  | none => none

/-- Write all chunks of a replica. -/
def StoreSt.placeChunks (replica : Nat) (avoid : List Nat) : Nat → List (List Codeword) → StoreSt → Option (List Extent × StoreSt)
  | _, [], t => some ([], t)
  | k, c :: cs, t =>
    match t.placeChunk replica k c avoid with
    | none => none
    | some (e, t1) => (placeChunks replica avoid (k + 1) cs t1).map (fun q => (e :: q.1, q.2))

/-- The end of an operation: what it wrote stands in the index or is free. -/
def StoreSt.settled (t : StoreSt) : StoreSt := { t with claimed := [] }

/-- Whether an extent lies in a block. -/
def Extent.inBlock (b : Nat) (e : Extent) : Bool := decide (blockOf e.addr = b)

/-- Write a replica's maps and its commit record with new extents and a RELOC higher than that of its latest record (R419, R426),
which a reclaim that makes room may have written. -/
def StoreSt.recommit (t : StoreSt) (x : Replica) (es : List Extent) : StoreSt :=
  let m := StoreSt.writeMaps x.objId x.ns es t
  let last := ((m.2.index.find? (fun z => z.is x.objId x.ns x.replica)).map (·.reloc)).getD x.reloc
  (m.2.writeCommit { x with extents := es, maps := m.1, reloc := last + 1, failed := false }).endPage

/-- Move the extents of a replica that lie in a block: into `dest` where one is given, else along the rotation. None where
no block can take them, or where they can't be read. The units of an import under way (`own`) are at hand and are not read. -/
def StoreSt.moveExtents (b replica : Nat) (dest : Option Nat) (own : Bool) : List Extent → StoreSt → Option (List Extent × StoreSt)
  | [], t => some ([], t)
  | e :: es, t =>
    let units := if own then t.unitsAt e else t.extentUnits e
    let u := if own then t else t.noteExtents [e]
    let next : Option (Extent × StoreSt) :=
      if !e.inBlock b then some (e, t)
      else match dest with
        | some d => if t.takes e.pages d && decide (d ≠ b) then some (u.putChunk d units) else none
        | none => u.placeChunk replica 0 units [b]
    match (if e.inBlock b && units.isEmpty then none else next) with
    | none => none
    | some (e1, t1) => (moveExtents b replica dest own es t1).map (fun q => (e1 :: q.1, q.2))

/-- Move what is live in a data block elsewhere, then new maps, then commit records (R425 to R427); a free block given to move
to is erased first. A replica that finds no room stays where it is; a failed replica is left to its repair. -/
def StoreSt.vacate (t : StoreSt) (b : Nat) (dest : Option Nat) : StoreSt :=
  let t1 := match dest with
    | some d => if Tbl.get 0 d t.filled ≠ 0 ∧ t.freeBlock d then t.erase d else t
    | none => t
  ((t1.index.filter (fun x => !x.failed && x.extents.any (Extent.inBlock b))).foldl (fun (a : StoreSt) x =>
    match a.index.find? (fun w => w.is x.objId x.ns x.replica) with
    | none => a
    | some w => match a.moveExtents b w.replica dest false w.extents with
      | some (es, a1) => a1.recommit w es
      | none => a) t1).settled

/-- The unit codewords of a replica in order; none where one cannot be read. -/
def StoreSt.replicaUnits (t : StoreSt) (x : Replica) : Option (List Codeword) :=
  let us := x.extents.flatMap t.extentUnits
  if us.length = x.units then some us else none

/-- The ciphertext of a unit codeword. -/
def Codeword.cipher (w : Codeword) : List Byte := match w.content with
  | .unit bs => bs
  | _ => []

/-- The replicas to rebuild: those that have failed, and those of two of which the index holds only the other, where no import
is writing them. -/
def StoreSt.broken (t : StoreSt) : List Replica :=
  t.index.filter (·.failed) ++ (t.index.filter (fun x =>
    decide (x.replicas = 2) && !x.failed && !(t.index.any (fun w => w.is x.objId x.ns (1 - x.replica)))
      && !(t.imports.any (fun q => decide (q.objId = x.objId) && decide (q.ns = x.ns))))).map
    (fun x => { x with replica := 1 - x.replica, at_ := 0, maps := [], extents := [], failed := true })

/-- Rebuild broken replicas from whole ones (R419): new chunks, new maps, then the commit record. -/
def StoreSt.repair (t : StoreSt) : StoreSt :=
  (t.broken.foldl (fun (a : StoreSt) y =>
    match a.index.find? (fun w => decide (w.objId = y.objId) && decide (w.ns = y.ns) && !w.failed) with
    | some w => match a.replicaUnits w with
      | some us => match StoreSt.placeChunks y.replica [] 0 (piecesOf us.length 64 us) (a.noteExtents w.extents) with
        | some (es, a1) => a1.recommit y es
        | none => a
      | none => a
    | none => a) t).settled

/-! The index at boot (R409). -/

/-- A codeword as it is read at boot: none where it is erased, does not read correct, or lies on a target not in use. -/
def StoreSt.readCell (t : StoreSt) (bad : List Nat) (a : Nat) : Option Codeword :=
  if bad.contains a || t.torn.contains (a % 2 ^ 48) || !t.targets.contains (targetOf (blockOf a)) then none else t.cell a

/-- A commit record as an index entry: its extents are those its maps give; a map that does not read correct, or is not the map of its
index, fails the replica (R419). -/
def StoreSt.entryOf (t : StoreSt) (bad : List Nat) (a : Nat) (r : CommitRec) : Replica :=
  let maps := r.maps.zipIdx.map (fun m => match t.readCell bad m.1 with
    | some ⟨ns, objId, unit, .map es⟩ => if ns = r.ns ∧ objId = r.objId ∧ unit = m.2 then some es else none
    | _ => none)
  { toCommitRec := r, at_ := a, extents := maps.flatMap (·.getD []), failed := maps.any Option.isNone }

/-- The records of the ring in ring order, with their flash addresses: what stands in its blocks and reads correct. -/
def StoreSt.ringRecords (t : StoreSt) (bad : List Nat) : List (Nat × Content) :=
  t.held.flatMap (fun e => (List.range t.perBlock).filterMap (fun i =>
    let a := codewordAt (e.2 - 1) (i / 4) (i % 4)
    (t.readCell bad a).map (fun w => (a, w.content))))

/-- Count codewords that boot reads (R394, Table 16-6), each correct at once or uncorrectable, with the ladder's further reads
(R426); what passes for erased is not decoded. -/
def StoreSt.countReads (t : StoreSt) (bad words : List Nat) : StoreSt :=
  words.foldl (fun (u : StoreSt) a =>
    let step := if bad.contains a then (4, 0) else (1, 0)
    (u.countStep (blockOf a) step).noteLadder (blockOf a) step) t

/-- The codewords that some blocks hold. -/
def StoreSt.wordsOf (t : StoreSt) (bs : List Nat) : List Nat := (t.cells.map Prod.fst).filter (fun a => bs.contains (blockOf a))

/-- Read the metadata ring at boot (R402, R409): its blocks count the reads of their pages (R426), and its channels the steps. -/
def StoreSt.readRing (t : StoreSt) (bad : List Nat) : StoreSt :=
  let bs := t.metaList.filter (fun b => t.targets.contains (targetOf b))
  let pages (b : Nat) : Nat := (((t.wordsOf [b]).map pageOf).eraseDups).length
  (bs.foldl (fun (u : StoreSt) b => u.noteRead b (max 1 (pages b))) t).countReads bad (t.wordsOf bs)

/-- Find the ring blocks by their headers (R402): the newest, and the codewords used in it. -/
def StoreSt.findRing (t : StoreSt) (bad : List Nat) : StoreSt :=
  let seqOf (b : Nat) : Option Nat := match t.readCell bad (codewordAt b 0 0) with
    | some ⟨_, _, _, .ringHeader q⟩ => some q
    | _ => none
  let held := t.metaList.foldl (fun (m : Tbl Nat) b => match seqOf b with
    | some q => Tbl.put 0 q (b + 1) m
    | none => m) []
  let top := held.foldl (fun n e => max n e.1) 0
  let t1 := { t with held := held, headSeq := top }
  let used := (List.range t1.perBlock).foldl (fun n i => if (t1.cell (t1.headPlace i)).isSome then i + 1 else n) 0
  { t1 with headUsed := used }

/-- Take a record that follows the checkpoint into the index (R407 to R409): the address of one whose RECORD_MAC fails is kept. -/
def StoreSt.replay (bad : List Nat) (acc : StoreSt × List Nat) (e : Nat × Content) : StoreSt × List Nat :=
  let t := acc.1
  match e.2 with
  | .commit r =>
    if r.mac ≠ hmac384 t.key r.body then (t, acc.2 ++ [e.1])
    else
      let y := t.entryOf bad e.1 r
      let mine (z : Replica) : Bool := z.is r.objId r.ns r.replica
      let index := match t.index.find? mine with
        | none => t.index ++ [y]
        | some z => if z.seq = r.seq ∧ r.reloc < z.reloc then t.index else t.index.map (fun w => if mine w then y else w)
      ({ t with index := index, seq := max t.seq (r.seq + 1), sinceCheckpoint := t.sinceCheckpoint + 1 }, acc.2)
  | .retire q o n m =>
    if m ≠ hmac384 t.key (retireBody q o n) then (t, acc.2 ++ [e.1])
    else
      ({ t with
        index := t.index.filter (fun x => !(decide (x.objId = o) && decide (x.ns = n) && decide (x.seq < q)))
        seq := max t.seq (q + 1), sinceCheckpoint := t.sinceCheckpoint + 1 }, acc.2)
  | .badBlocks l => ({ t with bad := l.filter (fun b => !t.factoryBad.contains b), badAt := e.1 }, acc.2)
  | .wear _ => ({ t with wearAt := e.1 }, acc.2)
  | _ => acc

/-- The index as a checkpoint gives it; the records it names are read and checked. -/
def StoreSt.fromCheckpoint (t : StoreSt) (bad : List Nat) (c : Checkpoint) : StoreSt × List Nat :=
  c.entries.foldl (fun (acc : StoreSt × List Nat) e =>
    match acc.1.readCell bad e.1 with
    | some ⟨_, _, _, .commit r⟩ =>
      if r.mac = hmac384 acc.1.key r.body then ({ acc.1 with index := acc.1.index ++ [acc.1.entryOf bad e.1 r] }, acc.2)
      else (acc.1, acc.2 ++ [e.1])
    | _ => acc) ({ t with index := [], seq := c.covers + 1, sinceCheckpoint := 0 }, [])

/-- The records up to the latest correct checkpoint, and those after it (R409, R410): a run of which a codeword does not read
correct, or whose MAC fails, is passed over. -/
def lastCheckpoint (key : List Byte) : List (Nat × Content) → Option (Checkpoint × List (Nat × Content))
  | [] => none
  | (_, c) :: rest =>
    match lastCheckpoint key rest with
    | some r => some r
    | none => match c with
      | .checkpoint q 0 =>
        if q.mac = hmac384 key q.body ∧ (rest.take (q.words - 1)).map Prod.snd = (List.range (q.words - 1)).map (fun i => Content.checkpoint q (i + 1)) then
          some (q, rest.drop (q.words - 1))
        else none
      | _ => none

/-- Rebuild the object index (R409): from the latest correct checkpoint, then from every record after it, in ring order; with
the addresses of the records whose RECORD_MAC fails. -/
def StoreSt.rebuild (t : StoreSt) (bad : List Nat) : StoreSt × List Nat :=
  let t1 := (t.readRing bad).findRing bad
  let all := t1.ringRecords bad
  let tables := all.filter (fun e => e.2.kind = 8 || e.2.kind = 9)
  let start := match lastCheckpoint t1.key all with
    | some (c, rest) => (t1.fromCheckpoint bad c, rest)
    | none => (({ t1 with index := [], seq := 1, sinceCheckpoint := 0 }, []), all)
  (start.2.filter (fun e => e.2.kind = 3 || e.2.kind = 4)).foldl (StoreSt.replay bad) (tables.foldl (StoreSt.replay bad) start.1)

/-! Wear. -/

/-- Store wear in percent, rounded down: the larger of the mean erase counts of data blocks and of pSLC blocks, each over
its rating (R424). -/
def StoreSt.wear (t : StoreSt) (tlc pslc : Nat) : Nat :=
  let sum (l : List Nat) : Nat := l.foldl (fun a b => a + t.erased b) 0
  let d := t.dataBlocks
  let p := t.pslcBlocks
  max (100 * sum d / (d.length * tlc)) (100 * sum p / (p.length * pslc))

end Sys2Proof.Machine
end

