-- ==== Sys2Proof/Machine/NandLog.lean ====
section
/-! DEFINITION. The log ring of the model store (R411, R614, R637): groups of entries, pages, and the blocks they are written
to. -/

namespace Sys2Proof.Machine

/-! Entries as groups: an entry, with its extension entry where it has one. -/

/-- The groups in `n` positions from `p`; extension entries that have lost their event are passed over. -/
def groupsFrom (get : Nat → LogSlot) : Nat → Nat → List (List LogSlot)
  | 0, _ => []
  | 1, p => match get p with
    | .entry e => [[.entry e]]
    | _ => []
  | n + 2, p => match get p, get (p + 1) with
    | .entry e, .ext x => if bit1 e.sev 6 then [.entry e, .ext x] :: groupsFrom get n (p + 2) else [.entry e] :: groupsFrom get (n + 1) (p + 1)
    | .entry e, _ => [.entry e] :: groupsFrom get (n + 1) (p + 1)
    | _, _ => groupsFrom get (n + 1) (p + 1)

/-! Writing pages. -/

/-- The log ring block that is written after another: the next one in ring order on a target that takes writes; itself where no
target does. -/
def StoreSt.logAfter (t : StoreSt) (b : Nat) : Nat :=
  let i := match t.logList.idxOf? b with
    | some i => i + 1
    | none => 0
  ((t.logList.drop i ++ t.logList.take i).find? t.writable).getD b

/-- Whether a log ring block takes writes (R389, R430). -/
def StoreSt.logTakes (t : StoreSt) (b : Nat) : Bool := t.logList.contains b && t.writable b

/-- Whether the block being written takes no further page: a pSLC block has a third of a TLC block's pages. -/
def StoreSt.logFull (t : StoreSt) : Bool := decide (t.pages / 3 ≤ t.logUsed) || !t.logTakes t.logAt

/-- Whether a page of the log can be written at all: some block of the ring takes writes. -/
def StoreSt.logUp (t : StoreSt) : Bool := t.logList.any t.writable

/-- Erase a log block that holds pages; their entries are lost (R411). -/
def StoreSt.eraseLog (t : StoreSt) (b : Nat) : StoreSt :=
  if t.logPages.any (fun x => decide (x.at_ = b)) then { t.erase b with logPages := t.logPages.filter (fun x => decide (x.at_ ≠ b)) }
  else t

/-- Keep the block ahead of the writer erased (R411); it never is the block being written. -/
def StoreSt.clearAhead (t : StoreSt) : StoreSt :=
  let c := t.logAfter t.logAt
  if c = t.logAt ∨ !t.logTakes c then t else t.eraseLog c

/-- Go on in the next log block, which stands erased, or is erased now. -/
def StoreSt.openLog (t : StoreSt) : StoreSt :=
  let b := t.logAfter t.logAt
  { (t.eraseLog b).ready b with logSeq := t.logSeq + 1, logAt := b, logUsed := 0 }

/-- The slots of the next log page: 512, or 384 where the page opens a log block (R614, R637). -/
def StoreSt.logRoom (t : StoreSt) : Nat := if t.logUsed = 0 ∨ t.logFull then 384 else 512

/-- The block that the next page of the log lies in. -/
def StoreSt.logNext (t : StoreSt) : Nat := if t.logFull then t.logAfter t.logAt else t.logAt

/-- Program one page of the log; with no block that takes writes there is none (R389, R430). -/
def StoreSt.putLog (t : StoreSt) (slots : List LogSlot) : StoreSt :=
  if !t.logUp then t
  else
  let page := slots ++ List.replicate (t.logRoom - slots.length) LogSlot.empty
  let t1 := if t.logFull then t.openLog else t
  { t1.touch t1.logAt with logUsed := t1.logUsed + 1, logPages := t1.logPages ++ [⟨t1.logSeq, t1.logAt, t1.logUsed, page⟩] }

/-- Write one page; where it opens a block, the oldest block, which is the one ahead of it, is erased (R411). -/
def StoreSt.writeLog (t : StoreSt) (slots : List LogSlot) : StoreSt := (t.putLog slots).clearAhead

/-- Write groups into whole pages; a pair that would straddle a page leaves an empty entry before it (R637). The second
argument holds the slots of the page being filled. -/
def StoreSt.writeGroups : List (List LogSlot) → List LogSlot → StoreSt → StoreSt
  | [], cur, t => if cur.isEmpty then t else t.writeLog cur
  | g :: gs, cur, t =>
    if cur.length + g.length ≤ t.logRoom then writeGroups gs (cur ++ g) t
    else writeGroups gs g (t.writeLog cur)

/-- A log page as the codewords that pass their ladder give it: 128 entries each, after the header codeword where the page opens
its block (R637, R639); `bad` names those that fail. -/
def LogPage.read (bad : List Nat) (g : LogPage) : LogPage :=
  let first := if g.page = 0 then 1 else 0
  { g with slots := g.slots.zipIdx.map (fun x => if bad.contains (codewordAt g.at_ g.page (first + x.2 / 128)) then LogSlot.empty else x.1) }

/-- The groups that some log pages hold. -/
def groupsOf (pages : List LogPage) : List (List LogSlot) :=
  let all := (pages.flatMap (·.slots)).toArray
  groupsFrom (fun p => all.getD p .empty) all.size 0

/-! Codewords of the log (R390, Table 10-4). -/

/-- The codewords of a log page: the header of the block where the page opens it, then 128 entries each. UNIT counts codewords along
the ring, as in the metadata ring (log 24). -/
def StoreSt.logWords (t : StoreSt) (g : LogPage) : List Codeword :=
  let cs := (if g.page = 0 then [Content.ringHeader g.block] else []) ++ (piecesOf 4 128 g.slots).map Content.log
  cs.zipIdx.map (fun c => metaWord ((g.block * t.perBlock + 4 * g.page + c.2) % 2 ^ 32) c.1)

/-- Write again what a log block holds, ahead in the ring, and leave the block out of it (R429); another block then stands erased
ahead of the writer (R411). What its target or its codewords no longer give is lost (R389, R419). -/
def StoreSt.leaveLog (t : StoreSt) (b : Nat) : StoreSt :=
  let here := if (t.tg (targetOf b)).out then [] else t.logPages.filter (fun x => decide (x.at_ = b))
  let t := if here.isEmpty then t else (t.noteRead b here.length).countOnce b (here.flatMap t.logWords).length
  let t1 := if t.logAt = b ∧ t.logUp then t.openLog else t
  let t2 := { t1 with logPages := t1.logPages.filter (fun x => decide (x.at_ ≠ b)), logList := t1.logList.filter (· ≠ b) }
  StoreSt.writeGroups (groupsOf (here.map (LogPage.read t.lost))) [] t2.clearAhead

/-- The codeword that stands at a flash address, in the log ring or elsewhere. -/
def StoreSt.wordAt (t : StoreSt) (a : Nat) : Option Codeword :=
  match t.cell a with
  | some w => some w
  | none => (t.logPages.find? (fun g => decide (g.at_ = blockOf a) && decide (g.page = pageOf a))).bind (fun g => (t.logWords g)[a / 2 ^ 48 % 4]?)

/-- The bytes of a page, main area and then spare area: its four codewords, and 0xFF past them (R390). -/
def StoreSt.pageRaw (t : StoreSt) (b page : Nat) : List Byte :=
  (List.range 4).flatMap (fun i => match t.wordAt (codewordAt b page i) with
      | some w => w.raw (codewordAt b page i)
      | none => List.replicate 4560 0xFF#8)
    ++ List.replicate (16384 + (t.tg (targetOf b)).spare - 18240) 0xFF#8

end Sys2Proof.Machine
end

