-- ==== Sys2Proof/Machine/Operands.lean ====
section
/-! DEFINITION. Operand forms of the command stream (Tables 6-3 and 6-6 to 6-11): the fields of the four words, the
addresses of R207, the pitches of R228, predicates, offsets, and what a tile's SRAM reads as at a ccyc (R747). -/

namespace Sys2Proof.Machine

end Sys2Proof.Machine

namespace Sys2Proof

open Sys2Proof.Machine

/-- Opcode (Table 6-3). -/
def StreamCmd.op (c : StreamCmd) : Nat := fld c.w0 7 0

/-- Order bit of R173. -/
def StreamCmd.ord (c : StreamCmd) : Bool := bit1 c.w0 8

/-- Dependence mark. -/
def StreamCmd.dm (c : StreamCmd) : Bool := bit1 c.w0 9

/-- Predicate that gates the command in each tile. -/
def StreamCmd.psel (c : StreamCmd) : Nat := fld c.w0 12 10

/-- Offset register added to offset-bearing addresses. -/
def StreamCmd.osel (c : StreamCmd) : Nat := fld c.w0 15 13

/-- Carried-state bank. -/
def StreamCmd.cs (c : StreamCmd) : Nat := fld c.w0 17 16

end Sys2Proof

namespace Sys2Proof.Machine

/-- Whether an opcode is carried out by the execute side (Table 6-4). -/
def opExecute (op : Nat) : Bool := decide (0x20 ≤ op) && decide (op < 0x40)
/-- Whether an opcode is a control command (Table 6-4). -/
def opControl (op : Nat) : Bool := decide (0x30 ≤ op) && decide (op < 0x40)

/-- The predicate of a tile in a context (R175). -/
def State.pred (s : State) (tile ctx i : Nat) : Bool := Tbl.get true ((tile * 8 + ctx) * 8 + i) s.core.preds
/-- The offset of a tile in a context. -/
def State.off (s : State) (tile ctx i : Nat) : Nat := Tbl.get 0 ((tile * 8 + ctx) * 8 + i) s.core.offs
/-- The carried-state selector of the partition that owns a Spire, as 0 or 1 (R46). -/
def State.selOf (s : State) (sp : Nat) : Nat :=
  match s.owner sp with
  | some p => b2n (s.part p).sel
  | none => 0
/-- The plan that runs on a Spire. -/
def State.planOf (s : State) (sp : Nat) : Plan :=
  match s.owner sp with
  | some p => (s.part p).plan
  | none => {}
/-- The partition ccyc count of the partition that owns a Spire (R206). -/
def State.countOf (s : State) (sp : Nat) : Nat :=
  match s.owner sp with
  | some p => (s.part p).ccyc
  | none => 0

/-- The carried-state term (R207). -/
def State.csTerm (s : State) (sp cs : Nat) : Nat :=
  let step := (s.planOf sp).csOffset
  if cs = 1 then s.selOf sp * step else if cs = 2 then (1 - s.selOf sp) * step else 0

/-- An offset-bearing address in a tile (R177, R207). -/
def State.addr (s : State) (c : StreamCmd) (tile base : Nat) : Nat :=
  (base + s.off tile c.ctx.val c.osel + s.csTerm c.sp.val c.cs) % 0x40000

/-- The tiles of a Spire in ascending local index. -/
def tilesOf (sp : Nat) : List Nat := (List.range 256).map (tileOf sp)
/-- The tiles of a command's Spire whose named predicate is 1 (R176). -/
def State.activeTiles (s : State) (c : StreamCmd) : List Nat :=
  (tilesOf c.sp.val).filter (fun t => s.pred t c.ctx.val c.psel)

/-- The index of a byte of a tile in a timed write, where the write holds it. -/
def TWrite.index (w : TWrite) (tile a : Nat) : Option Nat :=
  let i := (a + 0x40000 - w.addr % 0x40000) % 0x40000
  if w.tile = tile ∧ i < w.bytes.length then some i else none

/-- The timed write of a list that is made last. -/
def latestWrite (l : List TWrite) : Option TWrite :=
  l.foldl (fun (a : Option TWrite) w => match a with
    | none => some w
    | some b => if b.at_ ≤ w.at_ then some w else some b) none

/-- The byte of a tile's SRAM that a read in a ccyc before `t` of its partition's count sees (R747): the latest timed
write before it, garbage while a READOUT's row may still be written, else what the SRAM holds. -/
def State.byteBefore (s : State) (t tile a : Nat) : Byte :=
  match latestWrite (s.core.twrites.filter fun w => (w.index tile a).isSome && decide (w.from_ < t)) with
  | none => s.sramByte tile a
  | some w =>
    let i := (w.index tile a).getD 0
    if w.at_ < t then w.bytes.getD i 0#8 else (Config.hazardWord w.id i).setWidth 8

/-- Bytes that a read before ccyc `t` sees. -/
def State.readBefore (s : State) (t tile a n : Nat) : List Byte := (List.range n).map (fun i => s.byteBefore t tile (a + i))

/-- The byte a MAC operand read from ccyc `t` to `u` sees: garbage where a timed write of another command may fall in
that span (R747). -/
def State.byteDuring (s : State) (t u tile a : Nat) : Byte :=
  match latestWrite (s.core.twrites.filter fun w => (w.index tile a).isSome && decide (t ≤ w.at_) && decide (w.from_ < u)) with
  | some w => (Config.hazardWord w.id ((w.index tile a).getD 0)).setWidth 8
  | none => s.byteBefore t tile a

/-- A write of bytes of a tile falls, from ccyc `from_` on, into the operand reads of unfinished MAC commands: their sets
become garbage in that tile, since the ccyc of each row's read is not stated (R747). -/
def State.breakSpans (s : State) (sp id tile a n from_ : Nat) : State :=
  let broken := ((s.spire sp).spans.filter fun m =>
    decide (m.tile = tile) && decide (from_ ≤ m.until_) && decide (m.lo < a + n) && decide (a < m.lo + m.len)).map (·.set)
  if broken.isEmpty then s
  else s.onCore fun c => { c with acc := broken.foldl (fun t set => Tbl.putRun 0#32 ((tile * 8 + set) * 256)
    ((List.range 256).map (fun i => Config.hazardWord id (i + 256 * set))) t) c.acc }

/-- A write to tile SRAM that no command of the Spire makes: data that lands, a write of scheduled traffic, a Lantern
transfer. -/
def State.tileWrite (s : State) (tile a : Nat) (bs : List Byte) : State :=
  let sp := spireOfTile tile
  let (id, s1) := s.takeFree
  (s1.breakSpans sp id tile a bs.length (s.countOf sp)).sramWrite tile a bs

/-- Whether two timed writes fall together where the ccyc of one of them is not stated: a READOUT's rows (R747). -/
def TWrite.clashes (v w : TWrite) : Bool :=
  decide (v.tile = w.tile) && decide (v.from_ ≤ w.at_) && decide (w.from_ ≤ v.at_) && (decide (v.from_ < v.at_) || decide (w.from_ < w.at_))

/-- A timed write whose bytes are garbage where another that clashes with it writes them too. -/
def TWrite.blur (w v : TWrite) (id : Nat) : TWrite :=
  if v.clashes w then
    { w with bytes := w.bytes.zipIdx.map (fun b =>
        if (v.index w.tile (w.addr + b.2)).isSome then (Config.hazardWord id b.2).setWidth 8 else b.1) }
  else w

/-- Add a timed write of a command to a tile's SRAM (R747). -/
def State.timedWrite (s : State) (sp tile a from_ at_ : Nat) (bs : List Byte) : State :=
  let (id, s1) := s.takeFree
  let w : TWrite := ⟨from_, at_, sp, tile, a, bs, id⟩
  let mine := s1.core.twrites.foldl (fun (x : TWrite) v => x.blur v id) w
  (s1.breakSpans sp id tile a bs.length from_).onCore fun c => { c with twrites := c.twrites.map (fun v => v.blur w id) ++ [mine] }

/-- Timed writes whose ccyc has passed become the SRAM's contents. -/
def State.settle (s : State) (sp t : Nat) : State :=
  let due := s.core.twrites.filter (fun w => decide (w.spire = sp) && decide (w.at_ < t))
  if due.isEmpty then s
  else
    let s1 := s.onCore fun c => { c with twrites := c.twrites.filter (fun w => !(decide (w.spire = sp) && decide (w.at_ < t))) }
    due.foldl (fun a w => a.sramWrite w.tile w.addr w.bytes) s1

/-! Banks (R147 to R149). -/

/-- The banks an access touches (R147, R148). -/
def banksOf (a n : Nat) : List Nat := if n = 0 then [] else (List.range ((a % 64 + n - 1) / 64 + 1)).map (fun i => (a / 64 + i) % 8)

/-- The rank of an access in the list of R149; the lower one proceeds. -/
def BankAccess.rank : BankAccess → Nat
  | .schedWrite => 1 | .schedRead => 2 | .macWeight => 3 | .macDense => 4 | .vecRead => 5 | .readoutWrite => 6 | .vecWrite => 7
  | .arbitrated => 8 | .drain => 9

/-- Accesses of a Spire in the present ccyc: each a tile, an address, a length. -/
def State.useBanks (s : State) (sp : Nat) (k : BankAccess) (l : List (Nat × Nat × Nat)) : State :=
  if l.isEmpty then s
  else s.onCore fun c => { c with bankUse := c.bankUse ++ l.flatMap (fun a => (banksOf a.2.1 a.2.2).map (fun b => (sp, a.1, b, k))) }

/-- A moment from `t` on comes `n` ccyc later. -/
def later (t n v : Nat) : Nat := if t ≤ v then v + n else v

/-- Every tile of a Spire stalls for `n` ccyc (R149): what was to come about from ccyc `t` on comes that much later. -/
def Spire.stall (x : Spire) (t n : Nat) : Spire :=
  if n = 0 then x
  else
    { x with
      ctxs := x.ctxs.map (fun k => (k.1, { k.2 with finished := later t n k.2.finished, issueEnd := later t n k.2.issueEnd }))
      macFree := later t n x.macFree, vecFree := later t n x.vecFree, roFree := later t n x.roFree, startFree := later t n x.startFree
      setFinal := x.setFinal.map (fun e => (e.1, later t n e.2)), setRead := x.setRead.map (fun e => (e.1, later t n e.2))
      finals := x.finals.map (fun e => (e.1, later t n e.2)), spans := x.spans.map (fun m => { m with until_ := later t n m.until_ })
      vwrites := x.vwrites.map (fun w => { w with at_ := later t n w.at_ }), pwrites := x.pwrites.map (fun w => { w with at_ := later t n w.at_ })
      loads := x.loads.map (fun l => { l with at_ := later t n l.at_ })
      ctr := { x.ctr with bankSlip := sat32 x.ctr.bankSlip n } }

/-- The tiles of a Spire stall for `n` ccyc (R149): its commands' writes to SRAM come later too. -/
def State.stall (s : State) (sp t n : Nat) : State :=
  if n = 0 then s
  else (s.onSpire sp (fun x => x.stall t n)).onCore fun c => { c with
    twrites := c.twrites.map (fun w => if w.spire = sp then { w with from_ := later t n w.from_, at_ := later t n w.at_ } else w) }

/-- The bytes of a pitch field: units of 8 B, or the natural pitch (R228). -/
def pitchOf (field natural : Nat) : Nat := if field = 0 then natural else field * 8

/-- The fields of a MAC command (Table 6-7). -/
structure MacOp where
  set : Nat
  repl : Bool
  trans : Bool
  tq : Nat
  aAddr : Nat
  aPitch : Nat
  aOff : Bool
  aForm : Nat
  aElem : Nat
  wAddr : Nat
  wPitch : Nat
  wOff : Bool
  wForm : Nat
  wElem : Nat
  wPleat : Nat
  wK : Nat
  len : Nat
  deriving DecidableEq, Repr

end Sys2Proof.Machine

namespace Sys2Proof

open Sys2Proof.Machine

/-- Read the fields of a MAC command. -/
def StreamCmd.macOp (c : StreamCmd) : MacOp :=
  { set := fld c.w0 20 18, repl := bit1 c.w0 21, trans := bit1 c.w0 22, tq := fld c.w0 24 23
    aOff := bit1 c.w0 25, wOff := bit1 c.w0 26
    aAddr := fld c.w1 17 0, aPitch := fld c.w1 28 18, aForm := fld c.w1 31 29
    wAddr := fld c.w2 17 0, wPitch := fld c.w2 28 18, wForm := fld c.w2 31 29
    len := fld c.w3 15 0, aElem := fld c.w3 18 16, wElem := fld c.w3 21 19, wPleat := fld c.w3 24 22, wK := fld c.w3 27 25 }

end Sys2Proof

namespace Sys2Proof.Machine

/-- The depth of an element type's width class (Table 5-3). -/
def Elem.depth (t : Elem) : Nat := if t.width = 16 then 1 else if t.width = 8 then 2 else 4

/-- Whether Table 5-3 accepts a form with an element type. -/
def macAccepts (f : Form) (t : Elem) : Bool :=
  t != .fp32 && (match f with
    | .dense => true
    | .az => decide (t.width ≠ 4)
    | .bb8 => decide (t.width = 8)
    | _ => decide (t.width = 4))

/-- The operands of a MAC command as stored forms, where its codes name some. DEDUCED (log 38): W_K is the largest K of R131
and the K of every tile's units, since nothing tells a tile another one. -/
def MacOp.stores (m : MacOp) : Option (Store × Store) :=
  match Form.ofCode m.aForm, Elem.ofCode m.aElem, Form.ofCode m.wForm, Elem.ofCode m.wElem, Pleat.ofCode m.wPleat with
  | some af, some ae, some wf, some we, some wp =>
    some ({ form := af, elem := ae }, { form := wf, elem := we, pleat := wp, k := if wp = .pv then m.wK else if wp = .p14 then 1 else 2 })
  | _, _, _, _, _ => none

/-- Whether a MAC command accumulates in INT32 (R157). -/
def macIsInt (a w : Store) : Bool := a.form == .dense && w.form == .dense && a.elem.isInt && w.elem.isInt

/-- Cycles of a MAC command (R189, R130, Table 4-4). -/
def macCycles (m : MacOp) (a w : Store) : Nat :=
  let d := min a.elem.depth w.elem.depth
  let rate : Nat × Nat := match w.pleat with
    | .none => (1, 1) | .p24 => (2, 1) | .p24t => (2, 1) | .p14 => (4, 1)
    | .pv => if w.k ≤ 2 then (4, 1) else (8, w.k)
  let l := if m.trans then roundUp m.len 4 else if w.pleat = .none then roundUp m.len d else roundUp m.len w.pleat.unit
  ceilDiv (l * rate.2) (d * rate.1)

end Sys2Proof.Machine

namespace Sys2Proof

open Sys2Proof.Machine

/-- A SETO command's words for the implicit SETO of LOOP_END (R216): mode 2, adding AMOUNT to O[OSEL], gated by PSEL. -/
def StreamCmd.implicitSeto (c : StreamCmd) : StreamCmd :=
  { c with
    w0 := BitVec.ofNat 32 (0x26 + c.psel * 2 ^ 10 + c.osel * 2 ^ 18 + 2 * 2 ^ 21)
    w1 := 0#32
    w2 := BitVec.ofNat 32 (fld c.w1 17 0)
    w3 := 0#32 }

end Sys2Proof

namespace Sys2Proof.Machine

end Sys2Proof.Machine
end

