-- ==== Sys2Proof/Machine/Special.lean ====
section
/-! DEFINITION. The special functions of the vector unit: RCP, RSQ, EXP2 and LOG2. R742 fixes their exact cases; within
the bounds of R167 the bits are a free value. The bounds are tested on enclosures of the exact result by whole numbers
of a unit far below one ulp. -/

namespace Sys2Proof.Machine

/-- An enclosure: the exact magnitude lies between `lo` and `hi` units of two to the `e`. -/
structure Enclosure where
  neg : Bool
  lo : Nat
  hi : Nat
  e : Int
  deriving DecidableEq, Repr

/-- The integer square root from above by Newton's steps, a bounded number of them. -/
def sqrtSteps : Nat → Nat → Nat → Nat
  | 0, _, x => x
  | k + 1, n, x => let y := (x + n / x) / 2; if y < x then sqrtSteps k n y else x

/-- The integer square root. -/
def isqrt (n : Nat) : Nat := if n = 0 then 0 else sqrtSteps 600 n (2 ^ (Nat.log2 n / 2 + 1))

/-- 1/x for a finite x that is not zero. -/
def rcpEnclosure (n : Bool) (m : Nat) (e : Int) : Enclosure := ⟨n, 2 ^ 200 / m, 2 ^ 200 / m + 1, -200 - e⟩

/-- One over the square root of x, for a finite x above zero. -/
def rsqEnclosure (m : Nat) (e : Int) : Enclosure :=
  let m2 := if e % 2 = 0 then m else 2 * m
  let e2 := if e % 2 = 0 then e else e - 1
  let r := isqrt (2 ^ 400 / m2)
  ⟨false, r - 1, r + 2, -200 - e2 / 2⟩

/-- Two to the 2^-i, for i from 1, in units of 2^-160: repeated square roots of 2. -/
def rootTwo : Nat → Nat
  | 0 => 2 ^ 161
  | i + 1 => isqrt (rootTwo i * 2 ^ 160)

/-- Two to a fraction given in units of 2^-128, in units of 2^-160. -/
def exp2Frac (f : Nat) : Nat :=
  (List.range 128).foldl (fun acc i => if bitOf f (127 - i) then acc * rootTwo (i + 1) / 2 ^ 160 else acc) (2 ^ 160)

/-- Two to the x, for a finite x. -/
def exp2Enclosure (v : Val) : Enclosure :=
  match v with
  | .fin n m e =>
    let units : Int := if 0 ≤ e + 128 then m * 2 ^ (e + 128).toNat else (m / 2 ^ (-(e + 128)).toNat : Nat)
    let x : Int := if n then -units else units
    let i : Int := x / 2 ^ 128
    let r := exp2Frac (x % 2 ^ 128).toNat
    ⟨false, r - 2 ^ 50, r + 2 ^ 50, i - 160⟩
  | _ => ⟨false, 0, 0, 0⟩

/-- The binary digits of log2 of a number from 1 to below 2 in units of 2^-160, by repeated squaring. -/
def log2Frac : Nat → Nat → Nat
  | 0, _ => 0
  | k + 1, z =>
    let q := z * z / 2 ^ 160
    if q ≥ 2 ^ 161 then 2 ^ k + log2Frac k (q / 2) else log2Frac k q

/-- log2 of a finite x above zero. -/
def log2Enclosure (m : Nat) (e : Int) : Enclosure :=
  let top := Nat.log2 m
  let whole : Int := e + (top : Int)
  let z := m * 2 ^ 160 / 2 ^ top
  let x : Int := whole * 2 ^ 120 + (log2Frac 120 z : Nat)
  let a := x.natAbs
  ⟨decide (x < 0), a - 2 ^ 20, a + 2 ^ 20, -120⟩

/-- Whether an FP32 code lies within `k` ulp of an enclosed result: an ulp is the step of FP32 at the result. -/
def withinUlps (k : Nat) (enc : Enclosure) (c : W32) : Bool :=
  match fp32Val c with
  | .fin n m e =>
    let top : Int := max (enc.e + (Nat.log2 enc.lo : Int)) (-126)
    let ulp : Val := .fin false k (top - 23)
    let v : Val := .fin false m e
    (n == enc.neg) && !(Val.sum [v, ulp]).lt (.fin false enc.lo enc.e) && !(Val.fin false enc.hi enc.e).lt (Val.sum [v, ulp.neg])
  | _ => false

/-- The device's own approximation where it lies within the bound, else the nearest code: a value the bound allows. -/
def boundedApprox (f k : Nat) (x : W32) (enc : Enclosure) : W32 :=
  let c := Config.specialApprox f x
  if withinUlps k enc c then c else fp32Of (.fin enc.neg enc.lo enc.e)

/-- Whether a whole number is a power of two. -/
def isPow2 (m : Nat) : Bool := m != 0 && m == 2 ^ Nat.log2 m

/-- A code whose magnitude lies below the smallest normal: the greatest such one where it does not. -/
def belowNormal (c : W32) : W32 :=
  if c.toNat % 2 ^ 31 < 0x800000 then c else BitVec.ofNat 32 (c.toNat / 2 ^ 31 * 2 ^ 31 + 0x7FFFFF)

/-- Reciprocal (R742). A result below the smallest normal is a subnormal or zero. -/
def fRcp (x : W32) : W32 :=
  match fp32Val x with
  | .nan => fp32NaN
  | .inf n => fp32Of (.fin n 0 0)
  | .fin n m e =>
    if m = 0 then fp32Of (.inf n)
    else if isPow2 m then fp32Of (.fin n 1 (-(e + (Nat.log2 m : Int))))
    else
      let enc := rcpEnclosure n m e
      let r := fp32Of (.fin n enc.lo enc.e)
      let c := if r.toNat % 2 ^ 31 = 0x7F800000 then r else boundedApprox 0x10 1 x enc
      if (Val.fin false 1 126).lt (.fin false m e) then belowNormal c else c

/-- Reciprocal square root (R742). -/
def fRsq (x : W32) : W32 :=
  match fp32Val x with
  | .nan => fp32NaN
  | .inf n => if n then fp32NaN else 0#32
  | .fin n m e =>
    if m = 0 then fp32Of (.inf n)
    else if n then fp32NaN
    else if isPow2 m ∧ (e + (Nat.log2 m : Int)) % 2 = 0 then fp32Of (.fin false 1 (-((e + (Nat.log2 m : Int)) / 2)))
    else boundedApprox 0x11 1 x (rsqEnclosure m e)

/-- A finite value that is a whole number, as that number. -/
def wholeOf : Val → Option Int
  | .fin n m e =>
    if 0 ≤ e then some (if n then -(m * 2 ^ e.toNat : Nat) else (m * 2 ^ e.toNat : Nat))
    else if m % 2 ^ (-e).toNat = 0 then some (if n then -(m / 2 ^ (-e).toNat : Nat) else (m / 2 ^ (-e).toNat : Nat))
    else none
  | _ => none

/-- Two to the x (R742). A subnormal result is some code from the smallest subnormal to 2^-126. -/
def fExp2 (x : W32) : W32 :=
  match fp32Val x with
  | .nan => fp32NaN
  | .inf n => if n then 0#32 else fp32Of (.inf false)
  | .fin n m e =>
    let v := Val.fin n m e
    if !(v.lt (.fin false 128 0)) then fp32Of (.inf false)
    else if v.lt (.fin true 149 0) then 0#32
    else match wholeOf v with
      | some k => fp32Of (.fin false 1 k)
      | none =>
        if v.lt (.fin true 126 0) then
          let c := Config.specialApprox 0x12 x
          if 1 ≤ c.toNat ∧ c.toNat ≤ 0x800000 then c else 1#32
        else
          let enc := exp2Enclosure v
          if (fp32Of (.fin false enc.lo enc.e)) = 0x7F800000#32 then 0x7F7FFFFF#32 else boundedApprox 0x12 2 x enc

/-- Base-2 logarithm (R742). -/
def fLog2 (x : W32) : W32 :=
  match fp32Val x with
  | .nan => fp32NaN
  | .inf n => if n then fp32NaN else fp32Of (.inf false)
  | .fin n m e =>
    if m = 0 then fp32Of (.inf true)
    else if n then fp32NaN
    else if isPow2 m then fp32Of (.ofInt (e + (Nat.log2 m : Int)))
    else boundedApprox 0x13 2 x (log2Enclosure m e)

end Sys2Proof.Machine
end

