-- ==== Sys2Proof/Machine/Compute.lean ====
section
/-! DEFINITION. What the execute-side commands compute (chapter 5 and R227 to R237): the MAC array, the accumulator
read-out, the vector unit, predicates and offsets. Each takes the command and the ccyc its issue begins. -/

namespace Sys2Proof.Machine

/-! The MAC array. -/

/-- The slot sequence of a weight row: for each slot the dense position it pairs with and its value (R158). -/
def weightSlots (rd : Nat → Byte) (w : Store) (base n : Nat) : List (Option Nat × Val) :=
  if w.pleat = .none then (rowVals rd w.form w.elem base n).zipIdx.map (fun v => (some v.2, v.1)) else rowSlots rd w base n

/-- The slot sequence of output column `col` of a transposed read (R127, R229): the kept weights of the column in
ascending row order. -/
def columnSlots (rd : Nat → Byte) (w : Store) (base pitch n col : Nat) : List (Option Nat × Val) :=
  (List.range n).flatMap fun r =>
    ((unitSlots rd w (base + r * pitch) 0).filter (fun x => decide (x.1 = some col))).map (fun x => (some r, x.2))

/-- The products of one step: slots that pair with a position of the operation (R158). -/
def stepProducts (a : List Val) (n : Nat) (slots : List (Option Nat × Val)) : List Val :=
  slots.filterMap fun x => match x.1 with
    | some k => if k < n then some ((a.getD k (.fin false 0 0)).mul x.2) else none
    | none => none

/-- FP32 accumulation over the steps (R158, R159); none is a set the command has replaced and not yet added to. -/
def accFp (a : List Val) (n : Nat) (steps : List (List (Option Nat × Val))) (start : Option W32) : Option W32 :=
  steps.foldl (fun acc st =>
    let ps := stepProducts a n st
    if ps.isEmpty then acc
    else some (fp32Of (Val.sum (ps ++ (match acc with
      | some x => [fp32Val x]
      | none => []))))) start

/-- INT32 accumulation over the steps, with the steps that saturated (R160). -/
def accInt (a : List Val) (n : Nat) (steps : List (List (Option Nat × Val))) (start : Int) : Int × Nat :=
  steps.foldl (fun (acc : Int × Nat) st =>
    let ps := stepProducts a n st
    if ps.isEmpty then acc
    else
      let r := clampAcc (acc.1 + ps.foldl (fun x v => x + v.units 0) 0)
      (r.1, acc.2 + b2n r.2)) (start, 0)

/-- The 16 × 16 block of one tile (R227): the new set contents and the saturated steps. -/
def macBlock (rd : Nat → Byte) (m : MacOp) (a w : Store) (aBase wBase : Nat) (old : List W32) : List W32 × Nat :=
  let n := m.len
  let d := min a.elem.depth w.elem.depth
  let aPitch := pitchOf m.aPitch (a.rowBytes n)
  let wPitch := pitchOf m.wPitch (if m.trans then w.unitBytes else w.rowBytes n)
  let rows := (List.range 16).map (fun i => rowVals rd a.form a.elem (aBase + i * aPitch) n)
  let cols := (List.range 16).map (fun j =>
    let slots := if m.trans then columnSlots rd w wBase wPitch n (16 * m.tq + j) else weightSlots rd w (wBase + j * wPitch) n
    piecesOf slots.length d slots)
  let out := (List.range 16).flatMap fun i => (List.range 16).map fun j =>
    let o := old.getD (16 * i + j) 0#32
    let av := rows.getD i []
    let st := cols.getD j []
    if macIsInt a w then
      let r := accInt av n st (if m.repl then 0 else o.toInt)
      (BitVec.ofInt 32 r.1, r.2)
    else ((accFp av n st (if m.repl then none else some o)).getD 0#32, 0)
  (out.map Prod.fst, out.foldl (fun k x => k + x.2) 0)

/-- The bytes of SRAM a MAC command reads in a tile: for each row an address and a length (R169). -/
def macReads (rd : Nat → Byte) (m : MacOp) (a w : Store) (aBase wBase : Nat) : List (Nat × Nat) :=
  let n := m.len
  let aPitch := pitchOf m.aPitch (a.rowBytes n)
  let wPitch := pitchOf m.wPitch (if m.trans then w.unitBytes else w.rowBytes n)
  (List.range 16).map (fun i => (aBase + i * aPitch, rowSpan rd a (aBase + i * aPitch) n)) ++
    (if m.trans then (List.range n).map (fun r => (wBase + r * wPitch, w.unitBytes))
     else (List.range 16).map (fun j => (wBase + j * wPitch, rowSpan rd w (wBase + j * wPitch) n)))

/-- The contents of a tile's accumulator set. -/
def State.accSet (s : State) (tile set : Nat) : List W32 := Tbl.getRun 0#32 s.core.acc ((tile * 8 + set) * 256) 256

/-- What a command of a context finds in a set: its contents, or garbage where another context wrote it last (R188; log
39). -/
def State.setSeen (s : State) (id ctx tile set : Nat) : List W32 :=
  let owner := Tbl.get 0 (tile * 8 + set) s.core.setOwner
  if owner = 0 ∨ owner = ctx + 1 then s.accSet tile set else (List.range 256).map (fun i => Config.hazardWord id (tile * 256 + i))

/-- The accumulation tag of a tile's set: true is INT32 (R231). -/
def State.tag (s : State) (tile set : Nat) : Bool := Tbl.get false (tile * 8 + set) s.core.tags

/-- The effect of a MAC command in one tile, from ccyc `t`; `id` numbers its garbage. DEDUCED from R747 (log 8): with ORD the bytes
that an earlier command writes in the very ccyc `t` are no garbage, and the MAC finds them written. -/
def macTile (c : StreamCmd) (m : MacOp) (a w : Store) (t id : Nat) (s : State) (tile : Nat) : State :=
  let base (on : Bool) (x : Nat) : Nat := if on then s.addr c tile x else x
  let aBase := base m.aOff m.aAddr
  let wBase := base m.wOff m.wAddr
  let t0 := t + b2n c.ord
  let rd := s.byteDuring t0 (t + macCycles m a w) tile
  let r := macBlock rd m a w aBase wBase (s.setSeen id c.ctx.val tile m.set)
  let reads := macReads rd m a w aBase wBase
  let s1 := s.onCore fun k => { k with
    acc := Tbl.putRun 0#32 ((tile * 8 + m.set) * 256) r.1 k.acc
    setOwner := Tbl.put 0 (tile * 8 + m.set) (c.ctx.val + 1) k.setOwner
    tags := if m.repl then Tbl.put false (tile * 8 + m.set) (macIsInt a w) k.tags else k.tags }
  let s2 := s1.onSpire c.sp.val fun x => { x with
    spans := x.spans ++ reads.map (fun q => ⟨t + macCycles m a w - 1, tile, q.1 % 0x40000, q.2, m.set⟩)
    ctr := { x.ctr with sat := sat32 x.ctr.sat r.2 } }
  s2.noteReads c.sp.val (reads.map (fun q => (tile, q.1, q.2))) c.ctx.val

/-- MAC (R227): every tile whose named predicate is 1 computes its block. -/
def State.doMac (s : State) (c : StreamCmd) (t id : Nat) : State :=
  match c.macOp.stores with
  | none => s
  | some (a, w) => (s.activeTiles c).foldl (macTile c c.macOp a w t id) s

/-! The accumulator read-out. -/

end Sys2Proof.Machine

namespace Sys2Proof

open Sys2Proof.Machine

/-- The q of a READOUT, two's complement of 7 bits (Table 6-8). -/
def StreamCmd.roQ (c : StreamCmd) : Int := signedOf 7 (fld c.w2 9 3)

end Sys2Proof

namespace Sys2Proof.Machine

/-- One value read out (R162): from an INT32 set to an integer type it is divided by two to the q, else multiplied. -/
def readoutVal (tagInt : Bool) (target : Elem) (q : Int) (x : W32) : Conv :=
  if tagInt then
    if target.isInt then target.convert ((Val.ofInt x.toInt).scale (-q)) else target.convert ((Val.ofInt x.toInt).scale q)
  else target.convert ((fp32Val x).scale q)

/-- An address in each word that a write of `n` bytes at `a` covers only in part: it is merged with what the word holds
(R623, R625). -/
def partWords (a n : Nat) : List Nat :=
  if n = 0 then [] else (if a % 8 ≠ 0 then [a] else []) ++ (if (a + n) % 8 ≠ 0 then [a + n - 1] else [])

/-- The effect of a READOUT in one tile, from ccyc `t` (R190, R232); the words it writes in part are read for the merge (R625). -/
def readoutTile (c : StreamCmd) (target : Elem) (t id : Nat) (s : State) (tile : Nat) : State :=
  let set := fld c.w0 20 18
  let vals := (s.setSeen id c.ctx.val tile set).map (readoutVal (s.tag tile set) target c.roQ)
  let pitch := pitchOf (fld c.w1 28 18) (2 * target.width)
  let base := s.addr c tile (fld c.w1 17 0)
  let counts := Counts.ofConvs vals
  let rows := piecesOf 16 16 (vals.map (·.code))
  let s1 := rows.zipIdx.foldl (fun a r => a.timedWrite c.sp.val tile ((base + r.2 * pitch) % 0x40000) t (t + 7) (packCodes target r.1)) s
  let edges := rows.zipIdx.flatMap (fun r => partWords ((base + r.2 * pitch) % 0x40000) (packCodes target r.1).length)
  (s1.onCtr c.sp.val fun k => { k with sat := sat32 k.sat counts.overflow, nan := sat32 k.nan counts.nanRemoved }).noteReads c.sp.val
    (edges.map (fun a => (tile, a, 1))) c.ctx.val

/-- READOUT. -/
def State.doReadout (s : State) (c : StreamCmd) (t id : Nat) : State :=
  match Elem.ofCode (fld c.w2 2 0) with
  | none => s
  | some target => (s.activeTiles c).foldl (readoutTile c target t id) s

/-! The vector unit. -/

/-- A lane of a vector register as a read of a context in ccyc `t` sees it (R747): the latest write before it, or garbage
where that write is another context's (R188; log 39). -/
def State.lane (s : State) (id ctx sp t tile reg lane : Nat) : W32 :=
  let hits := (s.spire sp).vwrites.filter fun w =>
    decide (w.tile = tile) && decide (w.reg = reg) && decide (w.lane ≤ lane) && decide (lane < w.lane + w.vals.length) && decide (w.at_ < t)
  let newest := hits.foldl (fun (a : Option VWrite) w => match a with
    | none => some w
    | some b => if b.at_ ≤ w.at_ then some w else some b) none
  match newest with
  | some w => if w.ctx = ctx then w.vals.getD (lane - w.lane) 0#32 else Config.hazardWord id ((tile * 16 + reg) * 32 + lane)
  | none =>
    let owner := Tbl.get 0 (tile * 16 + reg) s.core.regOwner
    if owner = 0 ∨ owner = ctx + 1 then Tbl.get 0#32 ((tile * 16 + reg) * 32 + lane) s.core.vreg
    else Config.hazardWord id ((tile * 16 + reg) * 32 + lane)

/-- The 32 lanes of a register, read in groups of `rate` from ccyc `t` on, one group a ccyc. -/
def State.vread (s : State) (id ctx sp t rate tile reg : Nat) : List W32 :=
  (List.range 32).map (fun l => s.lane id ctx sp (t + l / rate) tile reg l)

/-- Put an entry in ascending order of its ccyc. -/
def insertByTime (w : VWrite) : List VWrite → List VWrite
  | [] => [w]
  | v :: t => if w.at_ < v.at_ then w :: v :: t else v :: insertByTime w t

/-- Put a predicate write in ascending order of its ccyc. -/
def insertPred (w : PWrite) : List PWrite → List PWrite
  | [] => [w]
  | v :: t => if w.at_ < v.at_ then w :: v :: t else v :: insertPred w t

/-- Writes whose ccyc has passed at `t` become the contents of the vector registers and predicates, earliest first.
DESIGN CHOICE beside R747 (log 42): of two writes of one ccyc to one lane of a register that of the command started later stands,
and a PANY or PALL that meets a SETP of its ccyc stands. -/
def State.settleRegs (s : State) (sp t : Nat) : State :=
  let x := s.spire sp
  let due := (x.vwrites.filter (fun w => decide (w.at_ < t))).foldl (fun l w => insertByTime w l) []
  let preds := (x.pwrites.filter (fun w => decide (w.at_ < t))).foldl (fun l w => insertPred w l) []
  (s.setSpire sp { x with
      vwrites := x.vwrites.filter (fun w => !decide (w.at_ < t)), pwrites := x.pwrites.filter (fun w => !decide (w.at_ < t)) }).onCore
    (fun c => { c with
      vreg := due.foldl (fun m w => Tbl.putRun 0#32 ((w.tile * 16 + w.reg) * 32 + w.lane) w.vals m) c.vreg
      regOwner := due.foldl (fun m w => Tbl.put 0 (w.tile * 16 + w.reg) (w.ctx + 1) m) c.regOwner
      preds := preds.foldl (fun m w => Tbl.put true w.key w.val m) c.preds })

/-- Elements per ccyc and latency of a VOP function (Table 5-5). -/
def vopRate (f : Nat) : Nat × Nat :=
  if f ≤ 7 then (32, 4)
  else if f ≤ 0x0D then (32, 2)
  else if f ≤ 0x13 then (8, 12)
  else if f ≤ 0x19 then (32, 7)
  else (32, 2)

/-- Whether a VOP function code is one of Table 6-10. -/
def vopKnown (f : Nat) : Bool :=
  decide (f ≤ 0x0D) || (decide (0x10 ≤ f) && decide (f ≤ 0x13)) || f == 0x18 || f == 0x19 || (decide (0x20 ≤ f) && decide (f ≤ 0x26))

/-- Which operands a VOP function reads: B, and C. -/
def vopReadsB (f : Nat) : Bool := decide (f ≤ 5) || (decide (8 ≤ f) && decide (f ≤ 0x0B)) || decide (0x20 ≤ f)
/-- FMA and SEL read operand C. -/
def vopReadsC (f : Nat) : Bool := f == 3 || f == 0x0B
/-- PANY and PALL write a predicate and no register. -/
def vopToPred (f : Nat) : Bool := f == 0x0C || f == 0x0D

/-- Whether a lane is non-zero (R743). -/
def laneNonZero (x : W32) : Bool := x.toNat % 2 ^ 31 != 0

/-- The sign-ordered minimum of R744: minus zero is below plus zero. -/
def fMinMax (wantMax : Bool) (a b : W32) : W32 :=
  if fIsNaN a ∨ fIsNaN b then fp32NaN
  else
    let below (x y : W32) : Bool := flt x y || (feq x y && bit1 x 31 && !bit1 y 31)
    if wantMax then (if below a b then b else a) else (if below b a then b else a)

/-- A floating-point function's NaN result is the canonical one (R166). -/
def canon (x : W32) : W32 := if fIsNaN x then fp32NaN else x

/-- One lane of a VOP function (Table 6-10, R743 to R745). -/
def vopLane (f : Nat) (a b c : W32) : W32 :=
  let tf (x : Bool) : W32 := if x then 0x3F800000#32 else 0#32
  if f = 0 then fadd a b
  else if f = 1 then fsub a b
  else if f = 2 then fmul a b
  else if f = 3 then ffma a b c
  else if f = 4 then fMinMax false a b
  else if f = 5 then fMinMax true a b
  else if f = 6 then canon (a &&& 0x7FFFFFFF#32)
  else if f = 7 then canon (a ^^^ 0x80000000#32)
  else if f = 8 then tf (feq a b)
  else if f = 9 then tf (flt a b)
  else if f = 0x0A then tf (flt a b || feq a b)
  else if f = 0x0B then (if laneNonZero c then a else b)
  else if f = 0x10 then fRcp a
  else if f = 0x11 then fRsq a
  else if f = 0x12 then fExp2 a
  else if f = 0x13 then fLog2 a
  else if f = 0x20 then a + b
  else if f = 0x21 then a - b
  else if f = 0x22 then a &&& b
  else if f = 0x23 then a ||| b
  else if f = 0x24 then a ^^^ b
  else if f = 0x25 then a <<< (b.toNat % 32)
  else a.sshiftRight (b.toNat % 32)

/-- Neighbours combined two by two: one level of the tree of R746. -/
def treeLevel (g : W32 → W32 → W32) : List W32 → List W32
  | a :: b :: t => g a b :: treeLevel g t
  | l => l

/-- The five levels of the reduction tree. -/
def treeReduce (g : W32 → W32 → W32) (l : List W32) : W32 :=
  ((List.range 5).foldl (fun x _ => treeLevel g x) l).headD 0#32

/-- The fields of VOP (Table 6-9). -/
structure VopOp where
  f : Nat
  vd : Nat
  rep : Nat
  va : Nat
  vb : Nat
  vc : Nat
  bFix : Bool
  cFix : Bool
  imm : Bool
  pdst : Nat
  deriving DecidableEq, Repr

end Sys2Proof.Machine

namespace Sys2Proof

open Sys2Proof.Machine

/-- Read the fields of VOP. -/
def StreamCmd.vopOp (c : StreamCmd) : VopOp :=
  { f := fld c.w0 23 18, vd := fld c.w0 27 24, rep := fld c.w0 31 28 + 1
    va := fld c.w1 3 0, vb := fld c.w1 7 4, vc := fld c.w1 11 8
    bFix := bit1 c.w1 12, cFix := bit1 c.w1 13, imm := bit1 c.w1 14, pdst := fld c.w1 17 15 }

end Sys2Proof

namespace Sys2Proof.Machine

/-- The 32 lanes that step `r` of a VOP computes in a tile, its issue starting at ccyc `t`. -/
def vopStep (s : State) (c : StreamCmd) (o : VopOp) (t id tile r : Nat) : List W32 × List W32 :=
  let rate := (vopRate o.f).1
  let tr := t + r * (32 / rate)
  let a := s.vread id c.ctx.val c.sp.val tr rate tile (o.va + r)
  let b := if o.imm then List.replicate 32 c.w2 else s.vread id c.ctx.val c.sp.val tr rate tile (if o.bFix then o.vb else o.vb + r)
  let d := s.vread id c.ctx.val c.sp.val tr rate tile (if o.cFix then o.vc else o.vc + r)
  let out := if o.f = 0x18 then treeReduce fadd a :: List.replicate 31 0#32
    else if o.f = 0x19 then treeReduce (fMinMax true) a :: List.replicate 31 0#32
    else (a.zip (b.zip d)).map (fun x => vopLane o.f x.1 x.2.1 x.2.2)
  (a, out)

/-- The effect of a VOP in one tile. -/
def vopTile (c : StreamCmd) (o : VopOp) (t id : Nat) (s : State) (tile : Nat) : State :=
  let steps := (List.range o.rep).map (vopStep s c o t id tile)
  if vopToPred o.f then
    let lanes := steps.flatMap Prod.fst
    let v := if o.f = 0x0C then lanes.any laneNonZero else lanes.all laneNonZero
    s.onSpire c.sp.val fun x => { x with
      pwrites := x.pwrites ++ [⟨t + o.rep - 1 + 2, (tile * 8 + c.ctx.val) * 8 + o.pdst, v⟩] }
  else
    let (rate, lat) := vopRate o.f
    let writes := steps.zipIdx.flatMap fun st =>
      (piecesOf 32 rate st.1.2).zipIdx.map fun g =>
        (⟨t + st.2 * (32 / rate) + g.2 + lat, tile, o.vd + st.2, g.2 * rate, g.1, c.ctx.val⟩ : VWrite)
    s.onSpire c.sp.val fun x => { x with vwrites := x.vwrites ++ writes }

/-- VOP (R233). -/
def State.doVop (s : State) (c : StreamCmd) (t id : Nat) : State := (s.activeTiles c).foldl (vopTile c c.vopOp t id) s

/-- A value as VLD turns it into FP32 (R168), and whether it counts as an overflow. -/
def vldConv (v : Val) : W32 × Nat :=
  let r := fp32Fmt.convert v
  (BitVec.ofNat 32 r.code, b2n (r.overflow))

/-- The 32 values that step `r` of a VLD reads in a tile, and the bytes it reads them from: an address and a length
(R169, R234). Two steps with PITCH 0 share a record of AZ, and each of them reads it. -/
def vldRead (rd : Nat → Byte) (c : StreamCmd) (f : Form) (e : Elem) (base r : Nat) : List Val × Nat × Nat :=
  let pitch := fld c.w2 10 0 * 8
  let st : Store := { form := f, elem := e }
  if pitch = 0 then
    let lo := rowSpan rd st base (if f = .az then 64 * (r / 2) else 32 * r)
    ((rowVals rd f e base (32 * (r + 1))).drop (32 * r), base + lo, rowSpan rd st base (32 * (r + 1)) - lo)
  else (rowVals rd f e (base + r * pitch) 32, base + r * pitch, rowSpan rd st (base + r * pitch) 32)

/-- The bytes a step of a VLD reads in each of its tiles: the tile, an address and a length. -/
def State.loadSpans (s : State) (l : VLoad) : List (Nat × Nat × Nat) :=
  match Form.ofCode (fld l.cmd.w1 20 18), Elem.ofCode (fld l.cmd.w1 23 21) with
  | some f, some e => l.tiles.map fun tile =>
    (tile, (vldRead (s.byteBefore l.at_ tile) l.cmd f e (s.addr l.cmd tile (fld l.cmd.w1 17 0)) l.step).2)
  | _, _ => []

/-- A step of a VLD in one tile, in its issue cycle: the register takes its values 3 ccyc later (R191, R234). -/
def loadTile (l : VLoad) (f : Form) (e : Elem) (s : State) (tile : Nat) : State :=
  let r := vldRead (s.byteBefore l.at_ tile) l.cmd f e (s.addr l.cmd tile (fld l.cmd.w1 17 0)) l.step
  let conv := r.1.map vldConv
  let s1 := s.onSpire l.cmd.sp.val fun x => { x with
    vwrites := x.vwrites ++ [⟨l.at_ + 3, tile, fld l.cmd.w0 27 24 + l.step, 0, conv.map Prod.fst, l.cmd.ctx.val⟩]
    ctr := { x.ctr with sat := sat32 x.ctr.sat (conv.foldl (fun a x => a + x.2) 0) } }
  s1.noteReads l.cmd.sp.val [(tile, r.2)] l.cmd.ctx.val

/-- A step of a VLD in its issue cycle. -/
def State.loadStep (s : State) (l : VLoad) : State :=
  match Form.ofCode (fld l.cmd.w1 20 18), Elem.ofCode (fld l.cmd.w1 23 21) with
  | some f, some e => l.tiles.foldl (loadTile l f e) s
  | _, _ => s

/-- The steps of a VLD of a Spire whose issue cycle is `t` or lies before it are made. -/
def State.loadDue (s : State) (sp t : Nat) : State :=
  let x := s.spire sp
  let due := x.loads.filter (fun l => decide (l.at_ ≤ t))
  if due.isEmpty then s
  else due.foldl State.loadStep (s.setSpire sp { x with loads := x.loads.filter (fun l => !decide (l.at_ ≤ t)) })

/-- The first step of a VLD that starts in ccyc `t`. -/
def State.firstLoad (s : State) (c : StreamCmd) (t : Nat) : VLoad := ⟨t, c, 0, s.activeTiles c⟩

/-- VLD (R234): one step for each register, each in its own issue cycle. -/
def State.doVld (s : State) (c : StreamCmd) (t : Nat) : State :=
  let tiles := s.activeTiles c
  s.onSpire c.sp.val fun x => { x with
    loads := x.loads ++ (List.range (fld c.w0 31 28 + 1)).map (fun r => ⟨t + r, c, r, tiles⟩) }

/-- The effect of a VST in one tile (R235). -/
def vstTile (c : StreamCmd) (e : Elem) (t id : Nat) (s : State) (tile : Nat) : State :=
  let vs := fld c.w0 27 24
  let rep := fld c.w0 31 28 + 1
  let base := s.addr c tile (fld c.w1 17 0)
  let pitch := pitchOf (fld c.w2 10 0) (denseBytes e 32)
  (List.range rep).foldl (fun (a : State) r =>
    let lanes := s.vread id c.ctx.val c.sp.val (t + r) 32 tile (vs + r)
    let convs := if e = .fp32 then lanes.map (fun x => (⟨x.toNat, false, false⟩ : Conv)) else lanes.map (fun x => e.convert (fp32Val x))
    let counts := Counts.ofConvs convs
    (a.timedWrite c.sp.val tile ((base + r * pitch) % 0x40000) (t + r + 3) (t + r + 3) (packCodes e (convs.map (·.code)))).onCtr c.sp.val
      fun k => { k with sat := sat32 k.sat counts.overflow, nan := sat32 k.nan counts.nanRemoved }) s

/-- VST. -/
def State.doVst (s : State) (c : StreamCmd) (t id : Nat) : State :=
  match Elem.ofCode (fld c.w1 23 21) with
  | some e => (s.activeTiles c).foldl (vstTile c e t id) s
  | none => s

/-! Predicates and offsets. -/

/-- A coordinate of a tile (R236). -/
def coord (tile k : Nat) : Nat :=
  if k = 0 then tile % 64 else if k = 1 then tile / 64 else if k = 2 then tile % 16
  else if k = 3 then tile / 64 % 16 else if k = 4 then localIndex tile else tile

/-- The effect of a SETP in one tile (R236). -/
def setpTile (c : StreamCmd) (s : State) (tile : Nat) : State :=
  let x := coord tile (fld c.w1 2 0)
  let imm := fld c.w2 11 0
  let cmp := fld c.w1 5 3
  let r := if cmp = 0 then decide (x < imm) else if cmp = 1 then decide (imm ≤ x) else if cmp = 2 then decide (x = imm)
    else if cmp = 3 then decide (x ≠ imm) else decide (x &&& fld c.w2 27 16 = imm)
  let v := (r != bit1 c.w0 25) && (!bit1 c.w0 24 || s.pred tile c.ctx.val (fld c.w0 23 21))
  s.onCore fun k => { k with preds := Tbl.put true ((tile * 8 + c.ctx.val) * 8 + fld c.w0 20 18) v k.preds }

/-- SETP. -/
def State.doSetp (s : State) (c : StreamCmd) : State := (s.activeTiles c).foldl (setpTile c) s

/-- The effect of a SETO in one tile (R237). -/
def setoTile (c : StreamCmd) (s : State) (tile : Nat) : State :=
  let dst := fld c.w0 20 18
  let mode := fld c.w0 22 21
  let cst : Int := fld c.w2 17 0
  let eh : W32 := Tbl.get 0#32 (fld c.w0 24 23) ((s.spire c.sp.val).ctx c.ctx.val).eh
  let sel := s.selOf c.sp.val
  let v : Int :=
    if mode = 0 then signedOf 16 (fld c.w1 15 0) * (tile % 16 : Nat) + signedOf 16 (fld c.w1 31 16) * (tile / 64 % 16 : Nat) + cst
    else if mode = 1 then cst + (fld eh 19 0 * fld c.w3 17 0 : Nat)
    else if mode = 2 then (s.off tile c.ctx.val dst : Nat) + cst
    else cst + ((if bit1 c.w0 25 then 1 - sel else sel) * (s.planOf c.sp.val).csOffset : Nat)
  s.onCore fun k => { k with offs := Tbl.put 0 ((tile * 8 + c.ctx.val) * 8 + dst) (v % 0x40000).toNat k.offs }

/-- SETO. -/
def State.doSeto (s : State) (c : StreamCmd) : State := (s.activeTiles c).foldl (setoTile c) s

end Sys2Proof.Machine
end

