-- ==== Sys2Proof/Machine/Validity.lean ====
section
/-! DEFINITION. Command validity (R246, Table 6-12): the check that the boot makes of every slot of every plan (R247)
and the sequencer makes of each command it reads (R248). -/

namespace Sys2Proof.Machine

/-- Bits a command may set in W0[31:18], W1, W2 and W3, by opcode (Tables 6-6 to 6-11); none for a reserved opcode. -/
def cmdMasks : Nat → Option (Nat × Nat × Nat × Nat)
  | 0x00 => some (0, 0, 0, 0)
  | 0x01 => some (0, 0xFFFF, 0, 0)
  | 0x02 => some (0x1, 0x3FFFF, 0, 0)
  | 0x10 => some (0x3, 0x7FFFFF, 0xFFFFF, 0)
  | 0x11 => some (0, 0x7FFFFF, 0, 0)
  | 0x12 => some (0, 0xFFFF, 0xFFFFFFFF, 0xFFFF)
  | 0x13 => some (0xFFF, 0xFFFFFFFF, 0, 0)
  | 0x14 => some (0xFFF, 0xFFFFFFFF, 0, 0)
  | 0x20 => some (0x1FF, 0xFFFFFFFF, 0xFFFFFFFF, 0xFFFFFFF)
  | 0x21 => some (0x7, 0x1FFFFFFF, 0x3FF, 0)
  | 0x22 => some (0x3FFF, 0x3FFFF, 0xFFFFFFFF, 0)
  | 0x23 => some (0x3FC0, 0xFFFFFF, 0x7FF, 0)
  | 0x24 => some (0x3FC0, 0xE3FFFF, 0x7FF, 0)
  | 0x25 => some (0xFF, 0x3F, 0x0FFF0FFF, 0)
  | 0x26 => some (0xFF, 0xFFFFFFFF, 0x3FFFF, 0x3FFFF)
  | 0x30 => some (0xFFF, 0xFFFFFFFF, 0, 0)
  | 0x31 => some (0xFFF, 0xFFFFFFFF, 0, 0)
  | 0x32 => some (0xF, 0xFFFF, 0, 0)
  | 0x33 => some (0, 0xFFFFFFFF, 0xFFFF, 0)
  | 0x34 => some (0, 0, 0, 0)
  | 0x3F => some (0, 0, 0, 0)
  | _ => none

/-- Whether a number sets only bits of a mask. -/
def onlyBits (v mask : Nat) : Bool := v &&& mask == v

/-- What the fields common to every command must meet (rows 1 to 3 of Table 6-12). -/
def commonValid (c : StreamCmd) : Bool :=
  match cmdMasks c.op with
  | none => false
  | some (m0, m1, m2, m3) =>
    let gated := decide (0x20 ≤ c.op) && decide (c.op ≤ 0x26)
    onlyBits (fld c.w0 31 18) m0 && onlyBits c.w1.toNat m1 && onlyBits c.w2.toNat m2 && onlyBits c.w3.toNat m3
      && decide (c.cs ≠ 3) && (!c.ord || opExecute c.op)
      && (gated || decide (c.cs = 0)) && (gated || c.op == 2 || (c.psel == 0 && c.osel == 0))

/-- What the check of a command needs of its surroundings: the plan, its Spire, the partition's Spires, the loops open
where the command stands (innermost first, with the part offset after each LOOP and its COUNT), and its own part
offset. -/
structure CmdPlace where
  plan : Plan
  sp : Nat
  owned : Nat
  loops : List (Nat × Nat)
  off : Nat
  deriving DecidableEq, Repr

/-- The queue of an HQ command exists at the Spire the command reaches (R282). -/
def hqValid (e : CmdPlace) (c : StreamCmd) : Bool :=
  let take := c.op == 0x13 || c.op == 0x30
  let lit := bit1 c.w0 24
  let remote := bit1 c.w0 25
  let target := fld c.w0 29 26
  let reach := if remote then target else e.sp
  (!take || (!lit && !remote && target == 0 && c.w1 == 0#32))
    && (take || lit || c.w1 == 0#32)
    && (!remote || bitOf e.owned target)
    && decide ((e.plan.queueCfg reach (fld c.w0 21 18)).mode ≠ 0)

/-- The MAC rows of Table 6-12. -/
def macValid (c : StreamCmd) : Bool :=
  let m := c.macOp
  match m.stores with
  | none => false
  | some (a, w) =>
    macAccepts a.form a.elem && macAccepts w.form w.elem && a.combines && w.combines
      && decide (m.len ≠ 0)
      && (if w.pleat = .pv then decide (1 ≤ m.wK) else m.wK == 0)
      && (if m.trans then decide (w.pleat ≠ .none) && m.len % 4 == 0 else m.tq == 0)

/-- The READOUT row of Table 6-12. -/
def readoutValid (c : StreamCmd) : Bool :=
  match Elem.ofCode (fld c.w2 2 0) with
  | none => false
  | some t => decide (t ≠ .fp4) && (!t.isInt || (decide (0 ≤ c.roQ) && decide (c.roQ ≤ 31)))

/-- The VOP row of Table 6-12. -/
def vopValid (c : StreamCmd) : Bool :=
  let o := c.vopOp
  let fits (i : Nat) : Bool := decide (i + o.rep - 1 ≤ 15)
  vopKnown o.f && fits o.vd && fits o.va
    && (!vopReadsB o.f || o.bFix || o.imm || fits o.vb) && (!vopReadsC o.f || o.cFix || fits o.vc)
    && !(o.imm && o.bFix) && (o.imm || c.w2 == 0#32)

/-- The rows of Table 6-12 that belong to one opcode. -/
def opValid (e : CmdPlace) (c : StreamCmd) : Bool :=
  let repFits := decide (fld c.w0 27 24 + fld c.w0 31 28 ≤ 15)
  match c.op with
  | 0x01 => decide (fld c.w1 15 0 ≠ 0) && decide (e.loops.length < 4)
  | 0x02 => match e.loops with
    | [] => false
    | (start, _) :: _ =>
      match e.plan.partOf e.sp with
      | some p => p.resident || decide (e.off + 16 - start ≤ 32768)
      | none => false
  | 0x10 =>
    let n := match e.loops with
      | [] => 1
      | (_, k) :: _ => k
    decide (fld c.w1 19 0 + fld c.w2 19 0 * (n - 1) < e.plan.descCount) && decide (fld c.w1 22 20 ≤ 4)
  | 0x11 => decide (fld c.w1 19 0 < e.plan.descCount) && decide (fld c.w1 22 20 ≤ 4)
  | 0x12 => decide (fld c.w1 15 0 < e.plan.calCount)
  | 0x13 => hqValid e c
  | 0x14 => hqValid e c
  | 0x30 => hqValid e c
  | 0x31 => hqValid e c
  | 0x20 => macValid c
  | 0x21 => readoutValid c
  | 0x22 => vopValid c
  | 0x23 => match Form.ofCode (fld c.w1 20 18), Elem.ofCode (fld c.w1 23 21) with
    | some f, some t => f.takes t && repFits
    | _, _ => false
  | 0x24 => repFits
  | 0x25 => decide (fld c.w1 2 0 ≤ 5) && decide (fld c.w1 5 3 ≤ 4)
  | 0x3F => e.loops.isEmpty
  | 0x32 =>
    let mask := fld c.w1 15 0
    bitOf mask e.sp && (List.range 16).all (fun sp => !bitOf mask sp || (e.plan.partOf sp).isSome)
  | _ => true

/-- Whether a command is valid (R246), the rules of run time only left aside. -/
def cmdValid (e : CmdPlace) (c : StreamCmd) : Bool := commonValid c && opValid e c

/-- A command made of sixteen bytes of a part (R200). -/
def cmdOfBytes (sp : Fin 16) (ctx : Fin 8) (bs : List Byte) : StreamCmd :=
  { sp := sp, ctx := ctx, slips := 0, refill := 0, upsets := []
    w0 := BitVec.ofNat 32 (leNat (bs.take 4)), w1 := BitVec.ofNat 32 (leNat ((bs.drop 4).take 4))
    w2 := BitVec.ofNat 32 (leNat ((bs.drop 8).take 4)), w3 := BitVec.ofNat 32 (leNat ((bs.drop 12).take 4)) }

/-- The walk of one context from its CTX_START to its EOT (R247): whether every command it meets is valid where it
stands, and the offsets it reaches, each with the COUNT of the innermost loop there (1 outside every loop); none when a
command is invalid, when the part ends first, or when EOT stands inside a loop. -/
def walkContext (plan : Plan) (sp : Fin 16) (owned : Nat) : Nat → List (List Byte) → Nat → List (Nat × Nat) → Option (List (Nat × Nat))
  | 0, _, _, _ => none
  | _, [], _, _ => none
  | f + 1, b :: rest, off, loops =>
    let c := cmdOfBytes sp 0 b
    if !cmdValid ⟨plan, sp.val, owned, loops, off⟩ c then none
    else if c.op = 0x3F then some [(off, 1)]
    else
      let loops2 := if c.op = 1 then (off + 16, fld c.w1 15 0) :: loops else if c.op = 2 then loops.drop 1 else loops
      (walkContext plan sp owned f rest (off + 16) loops2).map ((off, (loops.headD (0, 1)).2) :: ·)

/-- Whether every slot of a part is valid (R247): the slots each declared context reaches, and each other slot as though
it stood outside every loop. -/
def partValid (plan : Plan) (sp : Fin 16) (owned : Nat) (starts : List Nat) (bytes : List Byte) : Bool :=
  let slots := piecesOf bytes.length 16 bytes
  let walks := starts.map (fun st => walkContext plan sp owned (slots.length + 1) (slots.drop (st / 16)) st [])
  walks.all Option.isSome &&
    (let reached := walks.flatMap (fun w => (w.getD []).map Prod.fst)
     slots.zipIdx.all (fun b => reached.contains (b.2 * 16)
       || (let c := cmdOfBytes sp 0 b.1
           cmdValid ⟨plan, sp.val, owned, [], b.2 * 16⟩ c)))

/-- The run-time rule of MAC: an accumulation unlike the set's tag in a tile whose predicate is 1 (R231). -/
def State.macTagOk (s : State) (c : StreamCmd) : Bool :=
  let m := c.macOp
  match m.stores with
  | none => false
  | some (a, w) => m.repl || (s.activeTiles c).all (fun t => s.tag t m.set == macIsInt a w)

/-- The run-time rule of READOUT: a target that the tag of a tile whose predicate is 1 does not allow (R232). -/
def State.readoutTagOk (s : State) (c : StreamCmd) : Bool :=
  match Elem.ofCode (fld c.w2 2 0) with
  | none => false
  | some t => t == .fp32 || (s.activeTiles c).all (fun tile => s.tag tile (fld c.w0 20 18) == t.isInt)

end Sys2Proof.Machine
end

