-- ==== Sys2Proof/Machine/Stream.lean ====
section
/-! DEFINITION. The sequencer: the commands of a stream, the fetch engine and its runahead rule (R208 to R217), the
fetch-side commands, the execute queue, the slots and interlocks (R172 to R174, R189 to R192), the control commands and the
contexts (R184 to R187, R238 to R245). The sequencer keeps time: it does in each ccyc what that ccyc allows, once when a
command comes and once when the ccyc begins, so whatever is presented early waits for its own ccyc (log 8). -/

namespace Sys2Proof.Machine

open Host (Outcome)

/-! Handle queues (R276 to R281). -/

/-- The generation of the run window (R279): the tick whose inputs the latest run window consumes. -/
def State.generation (s : State) (p : Nat) : Nat := (s.part p).windowTick % 4096

/-- Whether a pool-mode queue refuses a handle (R280): its generation or its index is wrong. -/
def State.staleFor (s : State) (sp q : Nat) (h : W32) : Bool :=
  match s.owner sp with
  | none => true
  | some p =>
    let plan := (s.part p).plan
    let qc := plan.queueCfg sp q
    let pool := plan.poolCfg sp qc.pool
    qc.mode == 2 && !(fld h 31 20 == s.generation p && decide (pool.base ≤ fld h 19 0) && decide (fld h 19 0 < pool.base + pool.count))

/-- Whether a queue of a Spire is in unused mode, in which it holds nothing (R277). -/
def State.unusedQueue (s : State) (sp q : Nat) : Bool := match s.owner sp with
  | none => false
  | some p => ((s.part p).plan.queueCfg sp q).mode == 0

/-- A queue's handles. -/
def Spire.queue (x : Spire) (q : Nat) : List Held := Tbl.get [] q x.queues

/-- Push a handle onto a queue of a Spire in ccyc `t` (R225, R280): done, with a stale handle discarded and counted; or
none while the queue is full. A frozen Spire's queues keep what they hold (R538), so a push to one waits (DESIGN CHOICE, log
42). DESIGN CHOICE (log 42): a push that reaches a queue in unused mode, which holds nothing (R277), completes, and its handle
is dropped uncounted. -/
def State.pushLocal (s : State) (sp q : Nat) (h : W32) (t : Nat) : Option State :=
  if s.staleFor sp q h then some (s.onCtr sp (fun c => { c with staleHandle := sat32 c.staleHandle 1 }))
  else if s.unusedQueue sp q then some s
  else if s.seqFrozen sp then none
  else
    let x := s.spire sp
    if (x.queue q).length < 32 then some (s.setSpire sp { x with queues := Tbl.put [] q (x.queue q ++ [⟨h, t⟩]) x.queues })
    else none

/-- Start a remote push (R275). -/
def State.sendPush (s : State) (src : Nat) (origin : PushFrom) (dst q : Nat) (h : W32) : Nat × State :=
  let (id, s1) := s.freshId
  (id, s1.onCore fun c => { c with pushes := c.pushes ++
    [⟨id, src, (s.owner src).getD 16, origin, dst, q, h, .flying, 0⟩] })

/-- A remote push is taken by its target: its acknowledgement sets out (R225). -/
def State.takePush (s : State) (id : Nat) : State :=
  let (n, s1) := s.freshId
  s1.onCore fun c => { c with pushes := c.pushes.map (fun v => if v.id = id then { v with phase := .taken, ack := n } else v) }

/-- Remote pushes that wait at a full queue of a Spire are taken while there is room, oldest first (R225). DESIGN CHOICE (log
42): they take a place that comes free before a local push that waits, in the order of their sending. -/
def State.takeWaiting (s : State) (sp : Nat) : State :=
  s.core.pushes.foldl (fun a w =>
    if w.phase = .waiting ∧ w.dst = sp then
      match a.pushLocal sp w.queue w.handle (a.countOf sp) with
      | some b => b.takePush w.id
      | none => a
    else a) s

/-! The end of a run window (R243, R244). -/

/-- Whether every context a Spire's part declares has reached EOT (R244). -/
def State.closed (s : State) (p sp : Nat) : Bool :=
  (List.range (s.part p).plan.contexts).all (fun c => ((s.spire sp).ctx c).eotDone)

/-- The lowest byte of its part that a Spire's contexts still need (R180): where a context that has not read its EOT
fetches next, or the first command of a loop it has open; none when every context has read its EOT. -/
def Spire.needed (x : Spire) (contexts : Nat) : Option Nat :=
  (List.range contexts).foldl (fun (a : Option Nat) c =>
    let k := x.ctx c
    if k.eotRead then a
    else
      let n := k.loops.foldl (fun m l => min m l.start) k.pc
      some (match a with
        | some m => min m n
        | none => n)) none

/-- The stream loader reads the piece that follows those the command buffer holds (R180); an uncorrectable burst freezes the
Spire (R749), and a line whose fill has not come keeps it waiting (R370). Its commands can be read from this ccyc on (R209). -/
def State.loadPiece (part : PlanPart) (base : Nat) (s : State) (q : Nat) : State :=
  let x := s.spire part.spire
  let a := base + part.off + q * 1024
  let n := min 1024 (part.len - q * 1024)
  if bit1 x.frozen 0 ∨ x.ringHi ≠ q ∨ s.belfryWaits (halfOf part.spire) a n then s
  else match s.belfryRead (halfOf part.spire) a n with
    | (some b, s1) => s1.freeze part.spire 0 9 b b
    | (none, s1) => s1.onSpire part.spire (fun y => { y with
        ringHi := q + 1, pieceAt := Tbl.put 0 q (s.countOf part.spire) y.pieceAt })

/-- The command buffer moves on to the 64 KiB of its part from piece `lo` (R180): what it holds of them stays, and the rest
is loaded. A resident part is not read. -/
def State.moveRing (s : State) (part : PlanPart) (base lo : Nat) : State :=
  if part.resident then s
  else
    let x := s.spire part.spire
    let have_ := if x.ringLo ≤ lo ∧ lo ≤ x.ringHi then x.ringHi else lo
    let hi := min ((part.len + 1023) / 1024) (lo + 64)
    ((List.range (hi - have_)).map (· + have_)).foldl (State.loadPiece part base)
      (s.setSpire part.spire { x with ringLo := lo, ringHi := have_ })

/-- The refill after the fetch engine of a Spire has read a command (R180). -/
def State.refill (s : State) (p sp : Nat) : State :=
  let plan := (s.part p).plan
  match plan.partOf sp, (s.spire sp).needed plan.contexts with
  | some part, some n => s.moveRing part plan.base (n / 1024)
  | _, _ => s

/-- The loader loads the first 64 KiB of every part of a partition that is not resident, whatever the buffers hold (R180). -/
def State.reload (s : State) (p : Nat) : State :=
  let plan := (s.part p).plan
  (s.planSpires p).foldl (fun (a : State) sp => match plan.partOf sp with
    | some part => (a.onSpire sp (fun x => { x with ringLo := 0, ringHi := 0 })).moveRing part plan.base 0
    | none => a) s

/-- Scheduled traffic of a partition ends as its run window closes (R311): a write of a later ccyc is not made, nor one of the
present ccyc when the window closes before the entries of that ccyc have acted. DESIGN CHOICE (log 42): the spec gives no order
of the last EOT and the entries of its own ccyc; they act if their CAL_ENTRY_ACT comes first, and not if the EOT does. -/
def State.stopCalendars (s : State) (p : Nat) : State :=
  let x := s.part p
  s.onCore fun c => { c with writeBacks := c.writeBacks.filter (fun w => decide (s.owner w.spire ≠ some p)
    || (decide (w.at_ ≤ x.ccyc) && decide (x.ccyc < x.calNext))) }

/-- The run window of a partition ends when every Spire with a part has closed its tick; the drain begins (R244). -/
def State.endWindow (s : State) (p : Nat) : State :=
  let x := s.part p
  if x.phase = .run ∧ (s.planSpires p).all (s.closed p) then ((s.setPart p { x with phase := .drain }).stopCalendars p).reload p else s

/-! The execute engine. -/

/-- The ccyc a context may start commands from, as R185 has it: in store class any, in pod class those after the switch that
made it the running one. -/
def Spire.mayRun (x : Spire) (pod : Bool) (ctx now : Nat) : Bool := !pod || (x.running == ctx && !x.yielded && decide (x.switchEnd ≤ now))

/-- The execute-queue entries a context may use (R209). -/
def queueLimit (pod : Bool) : Nat := if pod then 8 else 64

/-- A command of a context has left its execute queue in ccyc `t` and will have finished at `fin`. -/
def Ctx.pass (k : Ctx) (pod : Bool) (t fin : Nat) : Ctx :=
  { k with
    queue := k.queue.drop 1, finished := max k.finished fin, pushE := none, barrier := none
    readMin := if queueLimit pod ≤ k.queue.length then max k.readMin t else k.readMin }

/-- Remove the head of a context's execute queue in ccyc `t`; `fin` is when the command has finished. -/
def Spire.passHead (x : Spire) (pod : Bool) (ctx t fin : Nat) : Spire :=
  { x.onCtx ctx (fun k => k.pass pod t fin) with lastCtx := ctx }

/-- The issue cycles of a context's latest started command end in ccyc `t` (R185). -/
def Spire.issues (x : Spire) (ctx t : Nat) : Spire := x.onCtx ctx (fun k => { k with issueEnd := t })

/-- Issue cycles and latency of a vector command (R191, Table 5-5). -/
def vecCycles (c : StreamCmd) : Nat × Nat :=
  let rep := fld c.w0 31 28 + 1
  if c.op = 0x22 then (rep * (32 / (vopRate c.vopOp.f).1), (vopRate c.vopOp.f).2) else (rep, 3)

/-- Freeze the Spire for an invalid command (R248). The extension entry gives the part offset too, as R750 has it; Table 16-5
gives it 0 (DESIGN CHOICE, log 14). -/
def State.badCommand (s : State) (c : StreamCmd) (off : Nat) : State := s.freeze c.sp.val 0 6 off off c.ctx.val

/-- Whether R173 and R174 let a slot command start in ccyc `t`: its slot is free, nothing else starts in that ccyc, and the
interlock of its set allows it. -/
def Spire.slotFree (x : Spire) (c : StreamCmd) (t : Nat) : Bool :=
  decide (x.startFree ≤ t) &&
    (if c.op = 0x20 then decide (x.macFree ≤ t) && decide (Tbl.get 0 c.macOp.set x.setRead ≤ t)
     else if c.op = 0x21 then decide (x.roFree ≤ t) && decide (Tbl.get 0 (fld c.w0 20 18) x.setFinal ≤ t)
     else decide (x.vecFree ≤ t))

/-- Cycles of a MAC command by its words. -/
def macN (c : StreamCmd) : Nat := match c.macOp.stores with
  | some (a, w) => macCycles c.macOp a w
  | none => 0

/-- A slot command of a context starts in ccyc `t` (R173, R189 to R191): what it keeps busy. -/
def Spire.startSlot (x : Spire) (c : StreamCmd) (pod : Bool) (t : Nat) : Spire :=
  let y := { x with startFree := t + 1, ctr := { x.ctr with busy := wrap48 x.ctr.busy 1 } }
  let ctx := c.ctx.val
  if c.op = 0x20 then
    let n := macN c
    let fin := t + n + 7
    { (y.passHead pod ctx t fin).issues ctx (t + n) with
      macFree := t + n, setFinal := Tbl.put 0 c.macOp.set fin x.setFinal
      finals := x.finals ++ [(c.macOp.set, fin)], spans := x.spans.filter (fun m => decide (t ≤ m.until_)) }
  else if c.op = 0x21 then
    { (y.passHead pod ctx t (t + 8)).issues ctx (t + 8) with roFree := t + 8, setRead := Tbl.put 0 (fld c.w0 20 18) (t + 8) x.setRead }
  else if c.op = 0x25 ∨ c.op = 0x26 then { (y.passHead pod ctx t (t + 1)).issues ctx (t + 1) with vecFree := t + 1 }
  else
    let n := (vecCycles c).1
    { (y.passHead pod ctx t (t + n - 1 + (vecCycles c).2)).issues ctx (t + n) with vecFree := t + n }

/-- What a slot command that starts in ccyc `t` does in the tiles; `id` numbers its garbage. -/
def State.doSlot (s : State) (c : StreamCmd) (t id : Nat) : State :=
  if c.op = 0x20 then s.doMac c t id
  else if c.op = 0x21 then s.doReadout c t id
  else if c.op = 0x22 then s.doVop c t id
  else if c.op = 0x23 then s.doVld c t
  else if c.op = 0x24 then s.doVst c t id
  else if c.op = 0x25 then s.doSetp c
  else s.doSeto c

/-- Whether a MAC or READOUT finds the tag it needs (R231, R232); other commands need none. -/
def State.tagOk (s : State) (c : StreamCmd) : Bool :=
  if c.op = 0x20 then s.macTagOk c else if c.op = 0x21 then s.readoutTagOk c else true

/-- A slot command starts in ccyc `t`. It finds in registers what was written before that ccyc, with ORD or without: a read
that meets a write of its own ccyc returns the value before it (R747). The bank slips its own accesses meet stall every tile
(R149). -/
def State.startSlot (s : State) (c : StreamCmd) (pod : Bool) (t : Nat) (off : Nat) : State :=
  let sp := c.sp.val
  let (id, s1) := (s.settleRegs sp t).takeFree
  if !s1.tagOk c then s1.badCommand c off
  else ((s1.onSpire sp (fun x => x.startSlot c pod t)).doSlot c t id).stall sp (t + 1) c.slips

/-- The handle an HQ put names (R225). -/
def putHandle (c : StreamCmd) (regs : Tbl W32) : W32 := if bit1 c.w0 24 then c.w1 else Tbl.get 0#32 (fld c.w0 23 22) regs

/-- The oldest handle of a queue, where it was pushed before ccyc `t` (R226), and the rest. -/
def Spire.popAt (x : Spire) (q t : Nat) : Option (W32 × List Held) :=
  match x.queue q with
  | [] => none
  | h :: rest => if h.at_ < t then some (h.handle, rest) else none

/-- The anchor miss of a context in ccyc `t` (R241). -/
def State.anchorMissed (s : State) (p sp ctx t : Nat) : State :=
  let s1 := s.onSpire sp (fun y => { y with anchorLogged := true, ctr := { y.ctr with anchorMiss := sat32 y.ctr.anchorMiss 1 } })
  if (s.spire sp).anchorLogged then s1 else s1.event 0x0203 2 (some p) (sp + ctx * 2 ^ 4 + t * 2 ^ 16)

/-- A BARRIER at the head of a context's queue arrives in ccyc `t`, once every earlier command of the context has finished
(R238); it needs no turn of the context, since it starts nothing. -/
def Spire.arrive (x : Spire) (c : StreamCmd) (t : Nat) : Option Spire :=
  let k := x.ctx c.ctx.val
  if k.barrier.isSome ∨ t < k.finished then none
  else
    let bid := fld c.w0 20 18
    let arr := Tbl.get [] bid x.arrivals
    some { x.onCtx c.ctx.val (fun k => { k with barrier := some (bid, arr.length, fld c.w1 15 0) }) with
      arrivals := Tbl.put [] bid (arr ++ [t]) x.arrivals }

/-- A control command other than BARRIER at the head of a context's queue passes in ccyc `t`, or none while it waits (R224,
R225, R241 to R243). -/
def State.passControl (s : State) (c : StreamCmd) (p : Nat) (pod : Bool) (t : Nat) : Option State :=
  let sp := c.sp.val
  let ctx := c.ctx.val
  let x := s.spire sp
  let k := x.ctx ctx
  if c.op = 0x30 then
    let q := fld c.w0 21 18
    match x.popAt q t with
    | none => none
    | some (h, rest) =>
      let y := { x.passHead pod ctx t t with queues := Tbl.put [] q rest x.queues }
      some ((s.setSpire sp (y.onCtx ctx (fun k => { k with eh := Tbl.put 0#32 (fld c.w0 23 22) h k.eh }))).takeWaiting sp)
  else if c.op = 0x31 then
    let h := putHandle c k.eh
    if bit1 c.w0 25 then
      match k.pushE with
      | some _ => none
      | none =>
        let (id, s1) := s.sendPush sp (.execute ctx) (fld c.w0 29 26) (fld c.w0 21 18) h
        some (s1.onSpire sp (fun y => { y.onCtx ctx (fun k => { k with pushE := some id }) with lastCtx := ctx }))
    else
      match s.pushLocal sp (fld c.w0 21 18) h t with
      | none => none
      | some s1 => some (s1.onSpire sp (fun y => y.passHead pod ctx t t))
  else if c.op = 0x33 then
    let at_ := c.w1.toNat + fld c.w2 15 0 * 2 ^ 32
    let s1 := s.setSpire sp (x.passHead pod ctx t t)
    if t < at_ then none else if t = at_ then some s1 else some (s1.anchorMissed p sp ctx t)
  else if c.op = 0x34 then some (s.setSpire sp { x.passHead pod ctx t t with yielded := pod })
  else if t < k.finished then none
  else some ((s.setSpire sp ((x.passHead pod ctx t t).onCtx ctx (fun k => { k with eotDone := true }))).endWindow p)

/-- Whether the command at the head of a context's queue waits on nothing but exact times: a handle command that can pass,
no BARRIER, or any other command (R185, R186). -/
def State.headPasses (s : State) (sp ctx : Nat) : Bool :=
  let x := s.spire sp
  let k := x.ctx ctx
  match k.queue with
  | [] => false
  | q :: _ =>
    if q.cmd.op = 0x30 then (x.popAt (fld q.cmd.w0 21 18) (s.countOf sp)).isSome
    else if q.cmd.op = 0x31 then k.pushE.isNone &&
      (bit1 q.cmd.w0 25 || s.staleFor sp (fld q.cmd.w0 21 18) (putHandle q.cmd k.eh) || s.unusedQueue sp (fld q.cmd.w0 21 18) || decide ((x.queue (fld q.cmd.w0 21 18)).length < 32))
    else decide (q.cmd.op ≠ 0x32)

/-- Whether a context is ready (R186): its next command has been queued for 2 ccyc (R211) and waits on nothing but exact
times. A context that has reached EOT queues nothing. -/
def State.ctxReady (s : State) (sp ctx : Nat) : Bool :=
  (((s.spire sp).ctx ctx).queue.take 1).any (fun q => decide (q.placed + 2 ≤ s.countOf sp)) && s.headPasses sp ctx

/-- Contexts of a Spire in ascending circular order after one. -/
def circularAfter (n last : Nat) : List Nat := (List.range n).map (fun i => (last + 1 + i) % n)

/-- The context R186 picks: context 0 when it is ready, else the first ready one in circular order after the one that ran
last; a yielding context is not ready before the switch completes (R242). -/
def State.pick (s : State) (sp last : Nat) (yielding : Bool) : Option Nat :=
  (0 :: circularAfter 8 last).find? (fun c => s.ctxReady sp c && !(yielding && c == last))

/-- Pod class, with no context running: the first that is ready runs from this ccyc on, with no switch time (R185). -/
def State.pickUp (s : State) (sp : Nat) : Option State :=
  let x := s.spire sp
  if (s.planOf sp).pod ∧ x.running = 8 ∧ x.switchEnd ≤ s.countOf sp ∧ ¬bit1 x.frozen 0 ∧ ¬x.stopped then
    (s.pick sp x.ranLast false).map (fun c => s.setSpire sp { x with running := c })
  else none

/-- Whether the first read of a VLD that would start in ccyc `t` meets a transfer's access or a drain that this ccyc has seen, in a
bank (R148). DESIGN CHOICE (log 8): a command that its row presents after them counts as presented in the next ccyc, so neither
displaces nor delays it (R152). -/
def State.loadMeets (s : State) (c : StreamCmd) (t : Nat) : Bool :=
  c.op == 0x23 && (s.core.bankUse.any fun e => decide (e.1 = c.sp.val) && (decide (e.2.2.2 = .arbitrated) || decide (e.2.2.2 = .drain))
    && (s.loadSpans (s.firstLoad c t)).any (fun a => decide (a.1 = e.2.1) && (banksOf a.2.1 a.2.2).contains e.2.2.1))

/-- One start of the execute engine for a context in the present ccyc, or none while its next command cannot start. Once
context 0 is ready, another context starts nothing more (R185, DEDUCED, log 8). DESIGN CHOICE (log 42): a BARRIER arrives
without a turn of its context, and an EOT is reached only in its context's turn; R238 and R243 use the same words of both. -/
def State.startNext (s : State) (p sp ctx : Nat) : Option State :=
  let x := s.spire sp
  let pod := (s.part p).plan.pod
  let now := (s.part p).ccyc
  let k := x.ctx ctx
  match k.queue with
  | [] => none
  | q :: _ =>
    if bit1 x.frozen 0 ∨ x.stopped ∨ now < q.placed + 2 then none
    else if q.cmd.op = 0x32 then (x.arrive q.cmd now).map (s.setSpire sp)
    else if ¬x.mayRun pod ctx now ∨ (q.cmd.ord ∧ now < k.finished) ∨ (pod ∧ ctx ≠ 0 ∧ s.ctxReady sp 0) then none
    else if opControl q.cmd.op then s.passControl q.cmd p pod now
    else if x.slotFree q.cmd now ∧ !s.loadMeets q.cmd now then some (s.startSlot q.cmd pod now q.off)
    else none

/-! The fetch engine. -/

/-- Give a descriptor to a unit of a Spire (R218, R219, R249): engines 0 to 3 hold 6 transfers, the Lantern path 8. -/
def State.acceptXfer (s : State) (p sp u index : Nat) (h : W32) : Option State :=
  let x := s.spire sp
  if (x.unit u).length < (if u = 4 then 8 else 6) ∧ ¬bit1 x.frozen (u + 1) then
    let (id, s1) := s.freshId
    let t : Xfer := { id := id, part := p, index := index, handle := h, sel := (s.part p).sel, order := x.orders }
    some (s1.onSpire sp (fun y => { y.setUnit u (y.unit u ++ [t]) with orders := y.orders + 1 }))
  else none

/-- The handle HSRC names (R218, R258). -/
def hsrcHandle (k : Ctx) (hsrc : Nat) : W32 := if hsrc = 0 then 0#32 else Tbl.get 0#32 (hsrc - 1) k.fh

/-- A fetch-side command of a context in ccyc `t`, or none while it holds the fetch engine (R210, R218 to R225). -/
def State.fetchSide (s : State) (c : StreamCmd) (p t : Nat) : Option State :=
  let sp := c.sp.val
  let ctx := c.ctx.val
  let x := s.spire sp
  let k := x.ctx ctx
  if c.op = 0x10 then
    let i := match k.loops with
      | [] => 0
      | l :: _ => l.iter
    s.acceptXfer p sp (fld c.w0 19 18) (fld c.w1 19 0 + fld c.w2 19 0 * i) (hsrcHandle k (fld c.w1 22 20))
  else if c.op = 0x11 then s.acceptXfer p sp 4 (fld c.w1 19 0) (hsrcHandle k (fld c.w1 22 20))
  else if c.op = 0x12 then
    match x.calShadow with
    | some _ => none
    | none => some (s.setSpire sp { x with calShadow := some { cal := fld c.w1 15 0, at_ := c.w2.toNat + fld c.w3 15 0 * 2 ^ 32 } })
  else if c.op = 0x13 then
    let q := fld c.w0 21 18
    match x.popAt q t with
    | none => none
    | some (h, rest) =>
      some ((s.setSpire sp ({ x with queues := Tbl.put [] q rest x.queues }.onCtx ctx
        (fun k => { k with fh := Tbl.put 0#32 (fld c.w0 23 22) h k.fh }))).takeWaiting sp)
  else
    let h := putHandle c k.fh
    if bit1 c.w0 25 then
      match k.pushF with
      | some _ => none
      | none =>
        let (id, s1) := s.sendPush sp (.fetch ctx) (fld c.w0 29 26) (fld c.w0 21 18) h
        some (s1.onSpire sp (fun y => { y.onCtx ctx (fun k => { k with pushF := some id }) with readFree := max y.readFree (t + 1), lastRead := ctx }))
    else s.pushLocal sp (fld c.w0 21 18) h t

/-- Whether an opcode is carried out by the fetch side (Table 6-4). -/
def opFetch (op : Nat) : Bool := decide (0x10 ≤ op) && decide (op < 0x20)

/-- The command at the head of a context's backlog has been read in ccyc `t`: the stream pointer moves to `pc`. -/
def Spire.readHead (x : Spire) (ctx pc t : Nat) : Spire :=
  { x.onCtx ctx (fun k => { k with backlog := k.backlog.drop 1, pc := pc, refillAt := none }) with
    readFree := max x.readFree (t + 1), lastRead := ctx }

/-- A remote HQ_PUT_F of a context passes in ccyc `t`, its acknowledgement having come (R225): the stream pointer moves on, and
the context's next command is read in a later ccyc. The command was read when its push set out (R208). -/
def Spire.putPassed (x : Spire) (ctx t : Nat) : Spire :=
  x.onCtx ctx (fun k => { k with pushF := none, backlog := k.backlog.drop 1, pc := k.pc + 16, refillAt := none, readMin := max k.readMin (t + 1) })

/-- The fetch engine reads the command at the head of a context's backlog in ccyc `t` (R215 to R217, R246); a fetch-side
command acts in the present ccyc `now`, or holds its context (none). A command that lies past the part is invalid (R248). -/
def State.readCommand (s : State) (place : CmdPlace) (c : StreamCmd) (p sp ctx t now : Nat) : Option State :=
  let x := s.spire sp
  let k := x.ctx ctx
  let inPart := (place.plan.partOf sp).any (fun q => decide (k.pc + 16 ≤ q.len))
  let on (y : Spire) : Option State := some (s.setSpire sp y)
  if !cmdValid place c || !inPart then some (s.badCommand c k.pc)
  else if opExecute c.op then
    on ((x.readHead ctx (k.pc + 16) t).onCtx ctx (fun z => { z with queue := z.queue ++ [⟨c, k.pc, t⟩], eotRead := c.op == 0x3F }))
  else if c.op = 0 then on (x.readHead ctx (k.pc + 16) t)
  else if c.op = 1 then
    on ((x.readHead ctx (k.pc + 16) t).onCtx ctx (fun z => { z with loops := ⟨z.pc, fld c.w1 15 0, 0⟩ :: z.loops }))
  else if c.op = 2 then
    match k.loops with
    | [] => none
    | l :: rest =>
      if l.iter + 1 < l.count then
        let y := (x.readHead ctx l.start t).onCtx ctx (fun z => { z with loops := { l with iter := l.iter + 1 } :: rest })
        on (if bit1 c.w0 18 then y.onCtx ctx (fun z => { z with queue := z.queue ++ [⟨c.implicitSeto, k.pc, t⟩] }) else y)
      else on ((x.readHead ctx (k.pc + 16) t).onCtx ctx (fun z => { z with loops := rest }))
  else if k.pushF.isSome then none
  else match s.fetchSide c p now with
    | none => none
    | some s1 =>
      if ((s1.spire sp).ctx ctx).pushF.isSome then some s1 else some (s1.onSpire sp (fun y => y.readHead ctx (k.pc + 16) now))

/-- Whether the runahead rule keeps a context's next command from being read (R208 to R211, R240, R243). -/
def State.holdsFetch (s : State) (p sp ctx : Nat) (c : StreamCmd) : Bool :=
  let x := s.spire sp
  let k := x.ctx ctx
  let loopsBack := match k.loops with
    | [] => false
    | l :: _ => decide (l.iter + 1 < l.count)
  let queues := opExecute c.op || (c.op == 2 && bit1 c.w0 18 && loopsBack)
  let fenced := k.queue.any (fun q => q.cmd.op == 0x32 && bit1 q.cmd.w0 21)
  bit1 x.frozen 0 || x.stopped || k.eotRead || fenced
    || (queues && decide (queueLimit (s.part p).plan.pod ≤ k.queue.length)) || (c.dm && !k.queue.isEmpty)

/-- The first ccyc in which the runahead rule lets a context's next command be read, when the command stands in the buffer:
the engine is free, the piece of the part has been loaded, the queue has had room, and for a dependence mark every earlier
command has finished (R180, R209). -/
def Spire.readFrom (x : Spire) (ctx : Nat) (c : StreamCmd) : Nat :=
  let k := x.ctx ctx
  max (max (max x.readFree k.readMin) (Tbl.get 0 (k.pc / 1024) x.pieceAt)) (if c.dm then k.finished else 0)

/-- Whether the span of the command buffer holds the next command of a context (R180). -/
def State.inBuffer (s : State) (p sp ctx : Nat) : Bool :=
  let x := s.spire sp
  let n := (x.ctx ctx).pc / 1024
  match (s.part p).plan.partOf sp with
  | some q => q.resident || (decide (x.ringLo ≤ n) && decide (n < x.ringHi))
  | none => true

/-- The ccyc a refill keeps the next command of a context out of the command buffer (R180): none in a resident part. -/
def State.refillWait (s : State) (p sp : Nat) (c : StreamCmd) : Nat :=
  match (s.part p).plan.partOf sp with
  | some q => if q.resident then 0 else c.refill
  | none => 0

/-- One read of the fetch engine for a context (R208 to R217), or none while its next command cannot be read. The stream
stands in the buffer however late it is presented here, so a read may fall in a ccyc that has passed (log 8); nothing else
may. -/
def State.readNext (s : State) (p sp ctx : Nat) : Option State :=
  let x := s.spire sp
  let k := x.ctx ctx
  let now := (s.part p).ccyc
  match k.backlog with
  | [] => none
  | c :: _ =>
    let t := x.readFrom ctx c
    let wait := s.refillWait p sp c
    if s.holdsFetch p sp ctx c ∨ now < t ∨ !s.inBuffer p sp ctx then none
    else
      let place : CmdPlace := ⟨(s.part p).plan, sp, (s.pcfg p).spires, k.loops.map (fun l => (l.start, l.count)), k.pc⟩
      match k.refillAt with
      | none =>
        if wait = 0 then s.readCommand place c p sp ctx t now
        else some (s.onSpire sp (fun y => y.onCtx ctx (fun k => { k with refillAt := some (now + wait) })))
      | some r => if now < r then none else s.readCommand place c p sp ctx (max t r) now

/-- One move of a Spire's sequencer in the present ccyc: a start, else the pick of a context, else a read, after which the
command buffer is refilled; none when nothing can move. -/
def State.move (s : State) (p sp : Nat) : Option State :=
  match (List.range 8).findSome? (s.startNext p sp) with
  | some s1 => some s1
  | none => match s.pickUp sp with
    | some s1 => some s1
    | none => ((circularAfter 8 (s.spire sp).lastRead).findSome? (s.readNext p sp)).map (fun a => a.refill p sp)

/-- Moves of a Spire's sequencer until none is left; the first argument bounds them. -/
def State.pump : Nat → Nat → Nat → State → State
  | 0, _, _, s => s
  | f + 1, p, sp, s => match s.move p sp with
    | none => s
    | some s1 => State.pump f p sp s1

/-- The commands a Spire still holds, which bounds the moves it can make. -/
def Spire.work (x : Spire) : Nat :=
  (List.range 8).foldl (fun a c => a + 4 * (x.ctx c).backlog.length + 3 * (x.ctx c).queue.length) 2

/-- A Spire's sequencer does what the present ccyc allows. -/
def State.resume (s : State) (sp : Nat) : State :=
  match s.owner sp with
  | none => s
  | some p => if (s.part p).phase = .run then (s.refill p sp).pump (s.spire sp).work p sp else s

/-! Waits (R183, R293, Table 16-6). -/

/-- What a context waits on. -/
inductive CtxWait where
  /-- A handle command of the execute side, at a part offset and a queue. -/
  | handle (off queue : Nat)
  /-- A BARRIER that has arrived, at a part offset with its number. -/
  | barrier (off bid : Nat)
  /-- A fetch-side command that R210 holds, with nothing queued behind: its part offset, and its queue when it is a handle
  command. -/
  | fetch (off : Nat) (queue : Option Nat)
  /-- A CAL_LOAD at a busy shadow bank (R210), with nothing queued behind. -/
  | calLoad (off : Nat)
  /-- A refill, with nothing queued (R180). -/
  | refill
  /-- The span of the command buffer, which does not reach the context's next command while another context needs an earlier
  part of it (R180): its part offset, with nothing queued. -/
  | span (off : Nat)
  deriving DecidableEq, Repr

/-- What a context waits on with nothing queued: the command its fetch engine has reached. -/
def State.fetchWait (s : State) (p sp ctx : Nat) : Option CtxWait :=
  let x := s.spire sp
  let k := x.ctx ctx
  let now := (s.part p).ccyc
  match k.backlog with
  | [] => none
  | c :: _ =>
    if now < x.readFrom ctx c ∨ s.holdsFetch p sp ctx c then none
    else if !s.inBuffer p sp ctx then some (if x.ringLo + 64 ≤ k.pc / 1024 then .span k.pc else .refill)
    else if k.refillAt.any (fun r => decide (now < r)) then some .refill
    else if c.op = 0x12 then some (.calLoad k.pc)
    else if opFetch c.op then some (.fetch k.pc (if c.op = 0x13 ∨ c.op = 0x14 then some (fld c.w0 21 18) else none))
    else none

/-- What a context waits on that is not an exact time, after the present ccyc's moves. -/
def State.ctxWait (s : State) (p sp ctx : Nat) : Option CtxWait :=
  let k := (s.spire sp).ctx ctx
  let now := (s.part p).ccyc
  match k.queue with
  | [] => s.fetchWait p sp ctx
  | q :: _ =>
    if now < q.placed + 2 then none
    else if q.cmd.op = 0x32 then (if k.barrier.isSome then some (.barrier q.off (fld q.cmd.w0 20 18)) else none)
    else if (q.cmd.op = 0x30 ∨ q.cmd.op = 0x31) ∧ (!q.cmd.ord ∨ k.finished ≤ now) ∧ !s.headPasses sp ctx then
      some (.handle q.off (fld q.cmd.w0 21 18))
    else none

/-- Whether a Spire waits on nothing exact: each declared context has reached EOT or waits, and one has not reached EOT; the
waits that count are given by `f`. -/
def State.allWait (s : State) (p sp : Nat) (f : CtxWait → Bool) : Bool :=
  !s.closed p sp && (List.range (s.part p).plan.contexts).all (fun c =>
    ((s.spire sp).ctx c).eotDone || (s.ctxWait p sp c).any f)

/-- Whether the stream of a context takes commands: the run window of its partition is open, the Spire has a part, the
context is declared and has not read its EOT, and the sequencer is neither frozen nor stopped. -/
def State.streaming (s : State) (sp ctx : Nat) : Bool :=
  match s.owner sp with
  | none => false
  | some p =>
    let x := s.part p
    let y := s.spire sp
    decide (x.phase = .run) && (x.plan.partOf sp).isSome && decide (ctx < x.plan.contexts)
      && !bit1 y.frozen 0 && !y.stopped && !(y.ctx ctx).eotRead

/-- What the reads of the stream loader meet as a command is presented (R354, R376); a resident part is not read. -/
def State.refillMeets (s : State) (c : StreamCmd) : State :=
  match (s.planOf c.sp.val).partOf c.sp.val with
  | none => s
  | some q => if q.resident then s else (s.strike c.cups).countEach c.bursts

/-- The next command of a stream stands in the command buffer: the fetch engine reads it when the runahead rule allows, and
it takes effect in its turn, in this ccyc or a later one. Outside an open stream nothing is read. -/
def State.feed (s : State) (c : StreamCmd) : State :=
  if s.streaming c.sp.val c.ctx.val then
    let s1 := (s.upset c.upsets).refillMeets c
    (s1.onSpire c.sp.val (fun x => x.onCtx c.ctx.val (fun k => { k with backlog := k.backlog ++ [c] }))).resume c.sp.val
  else s

/-! The meanings. What a word does is what its OP says (R203): the sequencer goes by the words it finds in the stream, and an
opcode that is reserved freezes its Spire when the word is read (R248). -/

/-- NOP: nothing apart from a dependence mark (R217). -/
def execNop (c : StreamCmd) (s : State) : Outcome State Fault Refusal := .next (s.feed c)
/-- LOOP (R215). -/
def execLoop (c : StreamCmd) (s : State) : Outcome State Fault Refusal := .next (s.feed c)
/-- LOOP_END (R216). -/
def execLoopEnd (c : StreamCmd) (s : State) : Outcome State Fault Refusal := .next (s.feed c)
/-- DMA_ISSUE (R218). -/
def execDmaIssue (c : StreamCmd) (s : State) : Outcome State Fault Refusal := .next (s.feed c)
/-- LANTERN_ISSUE (R219). -/
def execLanternIssue (c : StreamCmd) (s : State) : Outcome State Fault Refusal := .next (s.feed c)
/-- CAL_LOAD (R220). -/
def execCalLoad (c : StreamCmd) (s : State) : Outcome State Fault Refusal := .next (s.feed c)
/-- HQ_TAKE_F (R224). -/
def execHqTakeF (c : StreamCmd) (s : State) : Outcome State Fault Refusal := .next (s.feed c)
/-- HQ_PUT_F (R225). -/
def execHqPutF (c : StreamCmd) (s : State) : Outcome State Fault Refusal := .next (s.feed c)
/-- MAC (R227). -/
def execMac (c : StreamCmd) (s : State) : Outcome State Fault Refusal := .next (s.feed c)
/-- READOUT (R232). -/
def execReadout (c : StreamCmd) (s : State) : Outcome State Fault Refusal := .next (s.feed c)
/-- VOP (R233). -/
def execVop (c : StreamCmd) (s : State) : Outcome State Fault Refusal := .next (s.feed c)
/-- VLD (R234). -/
def execVld (c : StreamCmd) (s : State) : Outcome State Fault Refusal := .next (s.feed c)
/-- VST (R235). -/
def execVst (c : StreamCmd) (s : State) : Outcome State Fault Refusal := .next (s.feed c)
/-- SETP (R236). -/
def execSetp (c : StreamCmd) (s : State) : Outcome State Fault Refusal := .next (s.feed c)
/-- SETO (R237). -/
def execSeto (c : StreamCmd) (s : State) : Outcome State Fault Refusal := .next (s.feed c)
/-- HQ_TAKE_E (R224). -/
def execHqTakeE (c : StreamCmd) (s : State) : Outcome State Fault Refusal := .next (s.feed c)
/-- HQ_PUT_E (R225). -/
def execHqPutE (c : StreamCmd) (s : State) : Outcome State Fault Refusal := .next (s.feed c)
/-- BARRIER (R238). -/
def execBarrier (c : StreamCmd) (s : State) : Outcome State Fault Refusal := .next (s.feed c)
/-- ANCHOR (R241). -/
def execAnchor (c : StreamCmd) (s : State) : Outcome State Fault Refusal := .next (s.feed c)
/-- YIELD (R242). -/
def execYield (c : StreamCmd) (s : State) : Outcome State Fault Refusal := .next (s.feed c)
/-- EOT (R243). -/
def execEot (c : StreamCmd) (s : State) : Outcome State Fault Refusal := .next (s.feed c)

/-- MAC_SET_FINAL (R189): the set of the oldest MAC command whose set has become final and was not yet reported. A read-out
that waited for it starts in its own ccyc. -/
def execMacSetFinal (sp : Fin 16) (set : Fin 8) (s : State) : Outcome State Fault Refusal :=
  match (s.spire sp.val).finals.find? (fun f => decide (f.1 = set.val) && decide (f.2 ≤ s.countOf sp.val)) with
  | none => .next s
  | some f =>
    .next ((s.onSpire sp.val (fun x => { x with
      finals := x.finals.erase f
      spans := x.spans.filter (fun m => !(decide (m.set = set.val) && decide (m.until_ < f.2))) })).resume sp.val)

/-- The k-th arrival at a barrier number in a Spire. -/
def State.arrival (s : State) (sp bid k : Nat) : Option Nat := (Tbl.get [] bid (s.spire sp).arrivals)[k]?

/-- The release ccyc of a context's arrival (R238): 48 ccyc after the last of the k-th arrivals of the Spires its own
mask names; none while one is missing. -/
def State.releaseAt (s : State) (bid k mask : Nat) : Option Nat :=
  let ts := ((List.range 16).filter (fun sp => bitOf mask sp)).map (fun sp => s.arrival sp bid k)
  if ts.all Option.isSome ∧ ts ≠ [] then some (ts.foldl (fun a t => max a (t.getD 0)) 0 + 48) else none

/-- Whether the barrier a context waits at, of number `bid`, is released by ccyc `t`: its mask. -/
def State.released (s : State) (sp bid ctx t : Nat) : Option Nat :=
  match ((s.spire sp).ctx ctx).barrier with
  | some (b, k, mask) => if b = bid ∧ (s.releaseAt b k mask).any (fun r => decide (r ≤ t)) then some mask else none
  | none => none

/-- A context passes its barrier in ccyc `t`; a FENCE holds the fetch engine until then (R240). DESIGN CHOICE beside
R193 (log 42): a BARRIER starts nothing, so CONTEXT of SPIRE_STATUS stays, at its arrival and at its release. -/
def Spire.passBarrier (x : Spire) (pod : Bool) (ctx t : Nat) : Spire :=
  let fence := ((x.ctx ctx).queue.take 1).any (fun q => bit1 q.cmd.w0 21)
  { x.passHead pod ctx t t with lastCtx := x.lastCtx }.onCtx ctx (fun k => { k with readMin := if fence then max k.readMin t else k.readMin })

/-- Release the contexts of one Spire that wait at a barrier number and whose release has come. DESIGN CHOICE beside R185 (log 42):
the BARRIER of a context that is switched away leaves its queue at once, with no turn and no switch for it. -/
def State.releaseSpire (s : State) (bid : Nat) (sp : Nat) : State :=
  let pod := (s.planOf sp).pod
  let t := s.countOf sp
  if s.seqFrozen sp ∨ (s.spire sp).stopped then s
  else ((List.range 8).foldl (fun (a : State) c =>
    if (a.released sp bid c t).isSome then a.onSpire sp (fun x => x.passBarrier pod c t) else a) s).resume sp

/-- BARRIER_RELEASE (R239): 48 ccyc after the last matching arrival, a barrier number is released in a Spire, and in every
Spire of the waiting mask. Before that ccyc nothing is released. -/
def execBarrierRelease (sp : Fin 16) (bid : Fin 8) (s : State) : Outcome State Fault Refusal :=
  match (List.range 8).filterMap (fun c => s.released sp.val bid.val c (s.countOf sp.val)) with
  | [] => .next s
  | mask :: _ => .next (((List.range 16).filter (fun x => bitOf mask x)).foldl (fun a x => a.releaseSpire bid.val x) s)

/-- Whether R185 has a switch begin in the present ccyc: the issue cycles of the running context's latest command have ended
(R187, Table 5-10), and its queue is empty, its next command is a handle command that cannot pass or a BARRIER, it has
yielded, or context 0 is ready while another runs. -/
def State.switchDue (s : State) (sp : Nat) : Bool :=
  let x := s.spire sp
  (s.planOf sp).pod && x.running != 8 && decide (x.switchEnd ≤ s.countOf sp) && decide ((x.ctx x.running).issueEnd ≤ s.countOf sp) &&
    (x.yielded || !s.headPasses sp x.running || (x.running != 0 && s.ctxReady sp 0))

/-- CONTEXT_SWITCH (R185, R186): the switch takes 2 ccyc, in which no command starts; then the picked context runs, or none
when none is ready. -/
def execContextSwitch (sp : Fin 16) (s : State) : Outcome State Fault Refusal :=
  if s.switchDue sp.val ∧ s.seqFrozen sp.val = false then
    let x := s.spire sp.val
    .next ((s.setSpire sp.val { x with
      running := (s.pick sp.val x.running x.yielded).getD 8, ranLast := x.running, yielded := false
      switchEnd := s.countOf sp.val + 2 }).resume sp.val)
  else .next s

end Sys2Proof.Machine
end

