-- ==== Sys2Proof/Machine/Banks.lean ====
section
/-! DEFINITION. The banks of a tile's SRAM in the present ccyc: the accesses that are known, and the banks they leave free (R147 to
R152). -/

namespace Sys2Proof.Machine

/-- Whether an entry reads its tile's SRAM. -/
def CalEntry.local_ (e : CalEntry) : Bool := e.srcA == 0 || (e.red != 0 && e.srcB == 0)

/-- The entries of a set that act at a count, with the address each acts at (R310). -/
def CalSet.acting (c : CalSet) (from_ count : Nat) : List (CalEntry × Nat) :=
  let t := count - from_
  let k := t / c.period
  if count < from_ ∨ (c.rep ≠ 0 ∧ c.rep ≤ k) then []
  else (c.entries.filter (fun e => decide (e.cyc = t % c.period))).map (fun e => (e, (e.addr + e.step * k) % 0x40000))

/-- The SRAM accesses that entries and write-backs of one ccyc make in a tile: reads shared as R314 says. -/
def State.schedAccesses (s : State) (count tile : Nat) (es : List (CalEntry × Nat)) : List (Nat × Nat) :=
  let here := es.filter (fun e => decide (e.1.tile = tile))
  let reads := ((here.filter (fun e => e.1.local_)).map (fun e => (e.2, e.1.len))).eraseDups
  let writes := (here.filter (fun e => e.1.port == 4 && !e.1.local_)).map (fun e => (e.2, e.1.len))
  let backs := (s.core.writeBacks.filter (fun w => decide (w.tile = tile) && decide (w.at_ = count))).map (fun w => (w.addr, w.bytes.length))
  reads ++ writes ++ backs

/-- The accesses of a Spire's own commands in the present ccyc whose cycle is stated: the reads of VLD steps and the writes of
VST rows (R148, R191, R747), each a tile, an address and a length. -/
def State.vectorAccesses (s : State) (sp : Nat) (write : Bool) : List (Nat × Nat × Nat) :=
  let now := s.countOf sp
  if write then (s.core.twrites.filter (fun w => decide (w.spire = sp) && decide (w.at_ = now) && decide (w.from_ = now))).map
    (fun w => (w.tile, w.addr, w.bytes.length))
  else ((s.spire sp).loads.filter (fun l => decide (l.at_ = now))).flatMap s.loadSpans

/-- The accesses of scheduled traffic in a tile in the present ccyc, as far as its entries have not acted yet (R148): what
those of the ccyc read and write, and the writes that fall in it. -/
def State.schedDue (s : State) (sp tile : Nat) : List (Nat × Nat) :=
  match s.owner sp with
  | none => []
  | some p =>
    let x := s.part p
    let y := s.spire sp
    s.schedAccesses x.ccyc tile (if x.phase = .run ∧ x.calNext ≤ x.ccyc ∧ (!bit1 y.frozen 0 ∨ y.seqFrozenAt = x.ccyc) then y.calActive.acting y.calFrom x.ccyc else [])

/-- The banks of a tile that known accesses use in the present ccyc (R148). The ccyc of each operand read of a MAC and of each
row of a READOUT is not stated (R747), so they hold no bank here (log 8). -/
def State.banksUsed (s : State) (sp tile : Nat) : List Nat :=
  (s.core.bankUse.filter (fun e => decide (e.1 = sp) && decide (e.2.1 = tile))).map (fun e => e.2.2.1)
    ++ (s.schedDue sp tile).flatMap (fun a => banksOf a.1 a.2)
    ++ ((s.vectorAccesses sp false ++ s.vectorAccesses sp true).filter (fun a => decide (a.1 = tile))).flatMap (fun a => banksOf a.2.1 a.2.2)

/-- Whether an access of `n` bytes at `a` finds its banks free in the present ccyc (R148). -/
def State.banksFree (s : State) (sp tile a n : Nat) : Bool := (banksOf a n).all (fun b => !(s.banksUsed sp tile).contains b)

end Sys2Proof.Machine
end

