-- ==== Sys2Proof/Machine/Desc.lean ====
section
/-! DEFINITION. DMA and Lantern descriptors (Tables 7-1 to 7-5 and 11-8): their fields, their validity (Table 7-9, R472),
and the byte sequence a transfer moves, as requests of one aligned 256 B block for one tile or multicast group
(R252, R260 to R263). -/

namespace Sys2Proof.Machine

/-- `n` bytes of a descriptor at an offset, as a number. -/
def le (d : List Byte) (off n : Nat) : Nat := leNat ((d.drop off).take n)
/-- A signed 32-bit field. -/
def le32s (d : List Byte) (off : Nat) : Int := signedOf 32 (le d off 4)

/-- A descriptor. -/
abbrev Desc := List Byte

/-- KIND. -/
def Desc.kind (d : Desc) : Nat := le d 0 1
/-- DIR: tiles to far side. -/
def Desc.dir (d : Desc) : Bool := bitOf (le d 1 1) 0
/-- CUPOLA. -/
def Desc.cupola (d : Desc) : Bool := bitOf (le d 1 1) 1
/-- DRAIN. -/
def Desc.drain (d : Desc) : Bool := bitOf (le d 1 1) 2
/-- PACK. -/
def Desc.pack (d : Desc) : Bool := bitOf (le d 1 1) 3
/-- CS_FAR. -/
def Desc.csFar (d : Desc) : Nat := fieldOf (le d 1 1) 5 4
/-- WINDOW. -/
def Desc.window (d : Desc) : Nat := fieldOf (le d 2 1) 2 0
/-- CMODE. -/
def Desc.cmode (d : Desc) : Nat := fieldOf (le d 3 1) 1 0
/-- CQUEUE. -/
def Desc.cqueue (d : Desc) : Nat := fieldOf (le d 3 1) 5 2
/-- CREMOTE. -/
def Desc.cremote (d : Desc) : Bool := bitOf (le d 3 1) 6
/-- CSPIRE. -/
def Desc.cspire (d : Desc) : Nat := fieldOf (le d 4 1) 3 0
/-- HPOOL. -/
def Desc.hpool (d : Desc) : Nat := fieldOf (le d 5 1) 3 0
/-- HCHK. -/
def Desc.hchk (d : Desc) : Bool := bitOf (le d 5 1) 4
/-- LITERAL. -/
def Desc.literal (d : Desc) : W32 := BitVec.ofNat 32 (le d 8 4)
/-- CS_STEP. -/
def Desc.csStep (d : Desc) : Nat := le d 0xC 4
/-- FAR_BASE, or LIST_OFF. -/
def Desc.farBase (d : Desc) : Nat := le d 0x10 8
/-- C0 to C4. -/
def Desc.count (d : Desc) (i : Nat) : Nat := le d (0x18 + 2 * i) 2 + 1
/-- LX0. -/
def Desc.lx0 (d : Desc) : Nat := fieldOf (le d 0x22 2) 3 0
/-- LX1. -/
def Desc.lx1 (d : Desc) : Nat := fieldOf (le d 0x22 2) 7 4
/-- LY0. -/
def Desc.ly0 (d : Desc) : Nat := fieldOf (le d 0x22 2) 11 8
/-- LY1. -/
def Desc.ly1 (d : Desc) : Nat := fieldOf (le d 0x22 2) 15 12
/-- S1 to S4. -/
def Desc.stride (d : Desc) (i : Nat) : Int := le32s d (0x24 + 4 * (i - 1))
/-- TX. -/
def Desc.tx (d : Desc) : Int := le32s d 0x34
/-- TY. -/
def Desc.ty (d : Desc) : Int := le32s d 0x38
/-- TADDR. -/
def Desc.taddr (d : Desc) : Nat := le d 0x3C 4
/-- HSTRIDE. -/
def Desc.hstride (d : Desc) : Nat := le d 0x40 4
/-- TPITCH. -/
def Desc.tpitch (d : Desc) : Nat := le d 0x44 4
/-- HOLD. -/
def Desc.hold (d : Desc) : Bool := bitOf (le d 0x4D 1) 0
/-- ROW_LEN. -/
def Desc.rowLen (d : Desc) : Nat := le d 0x4E 2 + 1
/-- DST_SPIRE of a REMOTE descriptor. -/
def Desc.dstSpire (d : Desc) : Nat := fieldOf (le d 0x50 1) 3 0
/-- Entries of a block list. -/
def Desc.listCount (d : Desc) : Nat := le d 0x18 2 + 1
/-- LMODE. -/
def Desc.lmode (d : Desc) : Nat := fieldOf (le d 0x50 1) 1 0
/-- DST_SPIRE of a LANTERN descriptor. -/
def Desc.lanternSpire (d : Desc) : Nat := fieldOf (le d 0x52 1) 3 0
/-- Length of a Lantern transfer. -/
def Desc.lanternLen (d : Desc) : Nat := fieldOf (le d 0x5C 1) 5 0 + 1
/-- SUB of a SPAN descriptor (Table 11-8). -/
def Desc.sub (d : Desc) : Nat := fieldOf (le d 0x50 1) 1 0
/-- PORT of a SPAN descriptor. -/
def Desc.port (d : Desc) : Nat := fieldOf (le d 0x50 1) 6 4

/-- Rows of a tile (R260, R269). -/
def Desc.rows (d : Desc) : Nat := d.count 1 * d.count 2 * d.count 3 * d.count 4

/-- The source type in tile SRAM of a packing transfer. -/
def Desc.srcElem (d : Desc) : Elem := (Elem.ofCode (le d 0x48 1)).getD .fp32
/-- The stored form a packing transfer writes. -/
def Desc.packStore (d : Desc) : Store :=
  { form := (Form.ofCode (le d 0x49 1)).getD .dense, elem := (Elem.ofCode (le d 0x4A 1)).getD .fp32
    pleat := (Pleat.ofCode (le d 0x4B 1)).getD .none, k := le d 0x4C 1 }
/-- The natural source row of a packing transfer (R266). -/
def Desc.srcRow (d : Desc) : Nat := denseBytes d.srcElem d.rowLen
/-- The source elements of the AZ records that hold the first `b` bytes of a packed row, 64 a record, from the record at
`base` on. The first argument bounds the records. -/
def azTaken (rd : Nat → Byte) (t : Elem) : Nat → Nat → Nat → Nat
  | 0, _, _ => 0
  | k + 1, base, b => if b ≤ base then 0 else 64 + azTaken rd t k (base + (azRecord rd t base).2) b

/-- The source elements of one row that a pack unit has taken once it has given out the first `b` bytes of the packed row
(R271): whole units of a Pleat form, whole runs of a Bolt form, whole records of AZ. -/
def Desc.packTaken (d : Desc) (row : List Byte) (b : Nat) : Nat :=
  let st := d.packStore
  let k := if st.pleat ≠ .none then ceilDiv b st.unitBytes * st.pleat.unit
    else match st.form with
      | .dense => ceilDiv (b * 8) st.elem.width
      | .az => azTaken (fun i => row.getD i 0#8) st.elem (ceilDiv d.rowLen 64) 0 b
      | _ => ceilDiv b (runBytes st.form st.elem 32) * 32
  min d.rowLen k

/-- The source elements of a transfer that a pack unit has taken once it has given out `b` bytes of row `r` (R271). The first
row of a band of P24T needs the elements of all four, and the others of the band need no more (DESIGN CHOICE, log 42). -/
def Desc.packUpTo (d : Desc) (r : Nat) (row : List Byte) (b : Nat) : Nat :=
  if d.packStore.pleat = .p24t then r / 4 * 4 * d.rowLen + (if r % 4 = 0 then 4 * d.packTaken row b else 4 * d.rowLen)
  else r * d.rowLen + d.packTaken row b

/-- The metadata bytes of a piece of a packed row, as offsets in the piece (R270). -/
def Desc.metadataOf (d : Desc) (off len : Nat) : List Nat :=
  (List.range len).filter (fun i => decide ((off + i) % d.packStore.unitBytes < d.packStore.pleat.metaBytes))

/-- The tile-side pitch (R260). -/
def Desc.pitch (d : Desc) : Nat := if d.tpitch ≠ 0 then d.tpitch else if d.pack then d.srcRow else d.count 0

/-- Bits a descriptor of a kind may set in byte `i` (Tables 7-1 to 7-5 and 11-8). -/
def descMask (kind : Nat) (d : Desc) (i : Nat) : Nat :=
  let full (lo n : Nat) : Bool := decide (lo ≤ i) && decide (i < lo + n)
  let addr18 (lo : Nat) : Nat := if i < lo + 2 then 0xFF else if i = lo + 2 then 0x03 else 0
  if i = 0 then 0xFF else if i = 1 then 0x3F else if i = 2 then 0x07 else if i = 3 then 0x7F
  else if i = 4 then 0x0F else if i = 5 then 0x1F else if i < 8 then 0 else if i < 0x10 then 0xFF
  else if kind = 2 then
    (if full 0x10 5 then 0xFF else if full 0x18 2 then 0xFF else if full 0x40 4 then addr18 0x40 else 0)
  else if kind = 4 then
    (if full 0x10 5 then 0xFF else if full 0x40 4 then addr18 0x40 else if i = 0x50 then 0x03 else if i = 0x51 then 0xFF
     else if i = 0x52 then 0x0F else if i = 0x53 then 0xFF else if full 0x54 4 then addr18 0x54
     else if full 0x58 4 then addr18 0x58 else if i = 0x5C then 0x3F else 0)
  else
    (if full 0x10 5 then (if kind = 3 then 0 else 0xFF)
     else if full 0x18 12 then 0xFF
     else if full 0x24 24 then (if kind = 3 then 0 else 0xFF)
     else if full 0x3C 4 then addr18 0x3C else if full 0x40 4 then addr18 0x40 else if full 0x44 4 then addr18 0x44
     else if full 0x48 8 then (if Desc.pack d ∧ kind ≠ 5 then (if i = 0x4D then 0x07 else 0xFF) else 0)
     else if kind = 3 then (if i = 0x50 then 0x0F else if full 0x54 4 then addr18 0x54 else if full 0x58 4 then addr18 0x58 else 0)
     else if kind = 5 then
       (if i = 0x50 then 0x73 else if i = 0x51 then 0xFF else if i = 0x52 then 0x07 else if i = 0x53 then 0x1F
        else if i = 0x54 then 0x01 else if i = 0x55 then 0xFF else if full 0x58 4 then 0xFF else 0)
     else 0)

/-- Whether every tile-side byte of a transfer lies below 2^18 for a handle index (R261). -/
def Desc.tileRangeOk (d : Desc) (h : Nat) : Bool :=
  let base := h * d.hstride
  if d.kind = 4 then
    let src := le d 0x54 4 + (if d.lmode = 2 then 0 else base)
    let dst := le d 0x58 4 + (if d.lmode = 2 then base else 0)
    (d.lmode == 2 || decide (src + d.lanternLen ≤ 2 ^ 18)) && (d.lmode == 1 || decide (dst + d.lanternLen ≤ 2 ^ 18))
  else if d.kind = 2 then decide (base < 2 ^ 18)
  else
    let width := if d.pack then d.srcRow else d.count 0
    decide (d.taddr + base + (d.rows - 1) * d.pitch + width ≤ 2 ^ 18)
      && (d.kind != 3 || (let p := if le d 0x58 4 = 0 then d.count 0 else le d 0x58 4
                          decide (le d 0x54 4 + (d.rows - 1) * p + d.count 0 ≤ 2 ^ 18)))

/-- The pack rows of Table 7-9 (R266, R269, R138). -/
def Desc.packOk (d : Desc) : Bool :=
  match Elem.ofCode (le d 0x48 1), Form.ofCode (le d 0x49 1), Elem.ofCode (le d 0x4A 1), Pleat.ofCode (le d 0x4B 1) with
  | some src, some f, some e, some pl =>
    let st : Store := { form := f, elem := e, pleat := pl, k := le d 0x4C 1 }
    (src != .int4 && src != .fp4) && st.combines
      && (match pl with
          | .none => st.k == 0
          | .p14 => st.k == 1
          | .pv => decide (1 ≤ st.k) && decide (st.k ≤ 7)
          | _ => st.k == 2)
      && (!d.hold || pl != .none) && decide (d.count 0 = st.rowBytes d.rowLen)
      && (pl != .p24t || (d.rows % 4 == 0 && fieldOf (le d 0x4D 1) 2 1 == 0))
  | _, _, _, _ => false

/-- Whether a transfer of `n` bytes at an offset stays inside one 64 B line. -/
def inLine64 (off n : Nat) : Bool := decide (off % 64 + n ≤ 64)

/-- The range of far-side offsets a transfer may reach (R259, R260). -/
def Desc.farExtent (d : Desc) : Int × Int :=
  let terms := [d.tx * ((d.lx1 - d.lx0 : Nat) : Int), d.ty * ((d.ly1 - d.ly0 : Nat) : Int)]
    ++ [1, 2, 3, 4].map (fun i => d.stride i * ((d.count i - 1 : Nat) : Int))
  let carried := if d.csFar = 1 ∨ d.csFar = 2 then d.csStep * 256 else 0
  (terms.foldl (fun a x => a + min 0 x) (d.farBase : Int), terms.foldl (fun a x => a + max 0 x) (d.farBase + d.count 0 + carried : Int))

/-- What Span configuration a SPAN descriptor must meet (R472). -/
def Cfg.spanOk (c : Cfg) (p : Nat) (d : Desc) : Bool :=
  let dev := le d 0x51 1
  d.sub != 3 && d.window == 0 && !d.pack && !d.cupola && d.dir == (d.sub != 1)
    && (d.sub == 0 || le d 0x53 1 == 0) && (d.sub == 2 || le d 0x54 1 == 0)
    && (if d.sub = 2 then
          d.port == 0 && c.hasTopology && dev != c.deviceId && decide (dev < c.devices) && bitOf (Tbl.get 0 dev c.routes) 7
        else
          (c.port d.port).enabled && decide ((c.lane p d.port).size ≠ 0)
            && decide (0 ≤ d.farExtent.1) && decide (d.farExtent.2 ≤ (c.lane p d.port).size))

/-- A descriptor's boot checks (Table 7-9, R472). `owned` is the partition's Spires, `win` tells the windows it may name,
and `spanOk` judges the Span configuration. `issuer` is the Spire that issues it and whether LANTERN_ISSUE names it; a
descriptor that no command names is held to the rows that need neither. -/
def descValid (plan : Plan) (issuer : Option (Nat × Bool)) (owned : Nat) (win : Nat → Bool) (spanOk : Desc → Bool) (d : Desc) : Bool :=
  let k := d.kind
  let ofSpire (f : Nat → Bool) : Bool := match issuer with
    | some i => f i.1
    | none => true
  decide (1 ≤ k) && decide (k ≤ 5)
    && (match issuer with
        | some i => i.2 == (k == 4)
        | none => true)
    && (List.range 128).all (fun i => onlyBits (le d i 1) (descMask k d i))
    && d.csFar != 3 && d.cmode != 3
    && (!(k == 1 || k == 2 || (k == 4 && d.lmode != 0)) || win d.window)
    && (d.cmode == 0
        || (if d.cremote then bitOf owned d.cspire && decide ((plan.queueCfg d.cspire d.cqueue).mode ≠ 0)
            else ofSpire (fun sp => decide ((plan.queueCfg sp d.cqueue).mode ≠ 0))))
    && (!d.hchk || ofSpire (fun sp => decide ((plan.poolCfg sp d.hpool).count ≠ 0)))
    && (!(k == 1 || k == 3 || k == 5) || (decide (d.lx0 ≤ d.lx1) && decide (d.ly0 ≤ d.ly1)))
    && d.tileRangeOk 0
    && !(d.cupola && (d.dir || k == 3)) && !(d.pack && !d.dir)
    && (!(d.pack && (k == 1 || k == 3)) || d.packOk) && !(d.pack && (k == 2 || k == 4 || k == 5))
    && (k != 2 || d.farBase % 16 == 0)
    && (k != 3 || (d.dir && ofSpire (fun sp => d.dstSpire != sp) && bitOf owned d.dstSpire && d.csFar == 0))
    && (k != 4 || (d.lmode != 3 && (d.lmode == 1 || bitOf owned d.lanternSpire)
        && (d.lmode == 2 || inLine64 (le d 0x54 4) d.lanternLen) && (d.lmode == 1 || inLine64 (le d 0x58 4) d.lanternLen)
        && (d.lmode == 0 || inLine64 d.farBase d.lanternLen)))
    && (k != 5 || spanOk d)

/-! The byte sequence. -/

/-- The carried-state term on the far side, in bytes (R259). -/
def Desc.csFarTerm (d : Desc) (sel : Bool) : Nat :=
  if d.csFar = 1 then b2n sel * d.csStep * 256 else if d.csFar = 2 then (1 - b2n sel) * d.csStep * 256 else 0

/-- The tile steps of a transfer: for each its column and row and the local indices served together (R260, R262). -/
def Desc.steps (d : Desc) : List (Nat × Nat × List Nat) :=
  let xs := (List.range (d.lx1 - d.lx0 + 1)).map (· + d.lx0)
  let ys := (List.range (d.ly1 - d.ly0 + 1)).map (· + d.ly0)
  if !d.dir && d.tx == 0 && d.ty == 0 then [(d.lx0, d.ly0, ys.flatMap (fun y => xs.map (fun x => 16 * y + x)))]
  else if !d.dir && d.tx == 0 then ys.map (fun y => (d.lx0, y, xs.map (fun x => 16 * y + x)))
  else if !d.dir && d.ty == 0 then xs.map (fun x => (x, d.ly0, ys.map (fun y => 16 * y + x)))
  else ys.flatMap (fun y => xs.map (fun x => (x, y, [16 * y + x])))

/-- The far-side offset of a row (R260); for REMOTE the destination tile address (R263). -/
def Desc.rowFar (d : Desc) (sel : Bool) (lx ly r : Nat) : Int :=
  if d.kind = 3 then (le d 0x54 4 + r * (if le d 0x58 4 = 0 then d.count 0 else le d 0x58 4) : Nat)
  else
    let i1 := r % d.count 1
    let i2 := r / d.count 1 % d.count 2
    let i3 := r / (d.count 1 * d.count 2) % d.count 3
    let i4 := r / (d.count 1 * d.count 2 * d.count 3)
    (d.farBase : Int) + (d.csFarTerm sel : Nat) + d.tx * ((lx - d.lx0 : Nat) : Int) + d.ty * ((ly - d.ly0 : Nat) : Int)
      + d.stride 1 * i1 + d.stride 2 * i2 + d.stride 3 * i3 + d.stride 4 * i4

/-- The tile-side address of a row (R258, R260). -/
def Desc.rowTile (d : Desc) (h r : Nat) : Nat := d.taddr + h * d.hstride + r * d.pitch

/-- One piece of a gathered request: its far offset, its tile address, and the bytes it carries (tile to far), or just
their number. -/
structure Got where
  far : Int
  taddr : Nat
  len : Nat
  bytes : List Byte
  /-- Where the piece begins in its row. -/
  off : Nat := 0
  deriving DecidableEq, Repr

/-- What a row moves: its length, and its bytes where tiles are the source (R266 to R268, R272). `rd` reads the source
tile; `hold` reads the far side at the row's place. -/
def Desc.rowBytes (d : Desc) (h r : Nat) (rd : Nat → Byte) (hold : Nat → Byte) : Nat × List Byte × Counts :=
  if !d.dir then (d.count 0, [], {})
  else if !d.pack then
    let a := d.rowTile h r
    (d.count 0, (List.range (d.count 0)).map (fun i => rd (a + i)), {})
  else
    let vals (q : Nat) : List Val := (List.range d.rowLen).map (fun i => d.srcElem.decode (codeAt rd d.srcElem (d.rowTile h q) i))
    let band := if d.packStore.pleat = .p24t then (List.range 4).map (fun j => vals (r / 4 * 4 + j)) else [vals r]
    let out := packRow d.packStore d.srcElem band (if d.packStore.pleat = .p24t then r % 4 else 0) d.hold hold 0
    (out.1.length, out.1, out.2)

/-- What the pack unit reads of its source tile for a row (R266, R267): the row, and for P24T with the first row of a band all
four. -/
def Desc.rowReads (d : Desc) (h r : Nat) : List (Nat × Nat) :=
  let rows := if d.packStore.pleat = .p24t then (if r % 4 = 0 then (List.range 4).map (· + r) else []) else [r]
  rows.map (fun q => (d.rowTile h q, d.srcRow))

/-- Gather the next pieces of one tile step that lie in one aligned 256 B block, at most 256 B of them: the pieces, and
the row and byte reached. The first argument bounds the pieces. -/
def gather (rowFar : Nat → Int) (rowTile : Nat → Nat) (row : Nat → Nat × List Byte × Counts) (rows : Nat) :
    Nat → Option Int → Nat → Nat → Nat → List Got × Nat × Nat
  | 0, _, _, r, b => ([], r, b)
  | f + 1, block, sum, r, b =>
    if r ≥ rows then ([], r, b)
    else
      let x := row r
      if b ≥ x.1 then gather rowFar rowTile row rows f block sum (r + 1) 0
      else
        let far := rowFar r + b
        let here := far / 256
        if (match block with
            | some k => decide (k ≠ here)
            | none => false) || decide (sum ≥ 256) then ([], r, b)
        else
          let n := min (min (x.1 - b) (256 - (far % 256).toNat)) (256 - sum)
          let rest := gather rowFar rowTile row rows f (some here) (sum + n) r (b + n)
          (⟨far, rowTile r + b, n, (x.2.1.drop b).take n, b⟩ :: rest.1, rest.2)

end Sys2Proof.Machine
end

