-- ==== Sys2Proof/Machine/Bulk.lean ====
section
/-! DEFINITION. Span ports as other families use them: their parts, the slot stores (R450), and bulk messages on their
way out (R466 to R471). -/

namespace Sys2Proof.Machine

open Host (Outcome)

/-- A Span port. -/
def State.port (s : State) (i : Nat) : Port := Tbl.get {} i s.ports
/-- Replace a port. -/
def State.setPort (s : State) (i : Nat) (x : Port) : State := { s with ports := Tbl.put {} i x s.ports }
/-- Change a port. -/
def State.onPort (s : State) (i : Nat) (f : Port → Port) : State := s.setPort i (f (s.port i))
/-- A partition on a port. -/
def Port.lane (x : Port) (p : Nat) : Lane := Tbl.get {} p x.lanes
/-- Change a partition on a port. -/
def Port.onLane (x : Port) (p : Nat) (f : Lane → Lane) : Port := { x with lanes := Tbl.put {} p (f (x.lane p)) x.lanes }
/-- Queue a control record on a port for its next control slot. -/
def State.sendCtrl (s : State) (port : Nat) (bytes : List Byte) (since : Option Nat := none) : State :=
  s.onPort port (fun x => { x with ctrl := x.ctrl ++ [⟨bytes, since⟩] })
/-- The ports of a mask, in ascending order. -/
def portsOf (mask : Nat) : List Nat := (List.range 8).filter (bitOf mask)

/-- Whether a port may carry SCHED and BULK flits. -/
def State.mayCarry (s : State) (i : Nat) : Bool := (s.port i).phase == .up && !(s.port i).partnerLeft && !s.tick.left && !s.tick.quiet

/-! Slot stores. -/

/-- Where a partition's region starts in a port's slot store. -/
def State.regionBase (s : State) (p port : Nat) : Nat := (s.cfg.lane p port).base
/-- Bytes of a region from an offset; bytes past the region read as zero. -/
def State.slotRead (s : State) (p port off n : Nat) : List Byte :=
  let l := s.cfg.lane p port
  (List.range n).map (fun i => if off + i < l.size then Tbl.get 0#8 (l.base + off + i) (s.port port).store else 0#8)
/-- Write bytes of a region; bytes past the region are dropped. -/
def State.slotWrite (s : State) (p port off : Nat) (bs : List Byte) : State :=
  let l := s.cfg.lane p port
  s.onPort port (fun x => { x with store := Tbl.putRun 0#8 (l.base + off) (bs.take (l.size - off)) x.store })

/-! Bulk messages (R466, R470). -/

/-- The bytes of a bulk message: the header of Table 11-7 and its data. -/
def bulkBytes (mtype src dst flags msgId target : Nat) (data : List Byte) : List Byte :=
  leBytes 1 mtype ++ leBytes 1 src ++ leBytes 1 dst ++ leBytes 1 flags ++ leBytes 2 msgId
    ++ leBytes 2 (data.length - 1) ++ leBytes 8 target ++ data

/-- The flit bodies of a message: 240 B each, the last completed with zeros. -/
def flitBodies (bs : List Byte) : List (List Byte) :=
  (piecesOf bs.length 240 bs).map (fun b => b ++ leBytes (240 - b.length) 0)

/-- The route to a device: its port, and whether a VC 0 message changes sub-channel there. -/
def State.route (s : State) (dev : Nat) : Option (Nat × Bool) :=
  let r := Tbl.get 0 dev s.cfg.routes
  if bitOf r 7 then some (r % 8, bitOf r 3) else none

/-- Put a message in the queue of the port its route names. One with no valid route goes nowhere. -/
def State.sendBulk (s : State) (part vc sub dst : Nat) (own : Bool) (bs : List Byte) (back : Option (Nat × Nat) := none) : State :=
  match s.route dst with
  | none => s
  | some (port, dateline) =>
    let out : BulkOut := { part := part, vc := vc, sub := if vc = 0 ∧ dateline then 1 else sub, own := own, opened := false, bodies := flitBodies bs, back := back }
    s.onPort port (fun x => { x with queue := x.queue ++ [out] })

/-- A transfer's WRITE or SIGNAL, with the next MSG_ID of its port and partition, waiting for its ACK (R467, R469). -/
def State.sendOwn (s : State) (sp u : Nat) (x : Xfer) (mtype target : Nat) (data : List Byte) : State :=
  let dst := le x.desc 0x51 1
  match s.route dst with
  | none => s
  | some (port, _) =>
    let id := Tbl.get 0 x.part (s.port port).msgId
    let skein := mtype == 1 && (s.cfg.port port).skein
    let (k, s1) := s.takeFree
    let bs := if skein then skeinEncode (2 ^ (Config.skeinStride k).val) data else data
    let s2 := s1.onPort port (fun y => { y with
      msgId := Tbl.put 0 x.part ((id + 1) % 65536) y.msgId
      waits := y.waits ++ [⟨dst, x.part, id, sp, u, x.id, mtype == 3, x.index⟩] })
    s2.sendBulk x.part 0 0 dst true (bulkBytes mtype s.cfg.deviceId dst (x.part + b2n skein * 16) id target bs)

/-- SUB of a SPAN descriptor's transfer: whether it sends bulk messages. -/
def Xfer.isBulk (x : Xfer) : Bool := Desc.kind x.desc == 5 && Desc.sub x.desc == 2

/-- Send the message under assembly. -/
def State.flushBulk (s : State) (sp u id : Nat) : State :=
  match ((s.spire sp).unit u).find? (fun t => decide (t.id = id)) with
  | none => s
  | some x =>
    match x.bulkBuf with
    | none => s
    | some (off, bs) =>
      let change (t : Xfer) : Xfer := if t.id = id then { t with bulkBuf := none, bulkOut := t.bulkOut + 1 } else t
      (s.onSpire sp (fun y => y.setUnit u ((y.unit u).map change))).sendOwn sp u x 1
        (off % 2 ^ 40 + fieldOf (le x.desc 0x52 1) 2 0 * 2 ^ 40) bs

/-- The messages under assembly of a Spire's stopped transfers are sent once every request has brought its bytes, since
outstanding writes complete (R290). -/
def State.flushStopped (s : State) (sp : Nat) : State :=
  [0, 1, 2, 3].foldl (fun (a : State) u =>
    (((s.spire sp).unit u).filter (fun x => x.stopped && x.bulkBuf.isSome && x.reqs.all (fun r => decide (r.phase = .done)))).foldl
      (fun (b : State) x => b.flushBulk sp u x.id) a) s

/-- Bytes of a BULK_WRITE have reached the Hem: they join the message under assembly where they go on in its 4 KiB
block, else that message is sent and another begins (R467). -/
def State.bulkBytesIn (s : State) (sp u id off : Nat) (bs : List Byte) : State :=
  match ((s.spire sp).unit u).find? (fun t => decide (t.id = id)) with
  | none => s
  | some x =>
    let joins := match x.bulkBuf with
      | some (o, old) => decide (o + old.length = off) && decide (o / 4096 = off / 4096)
      | none => false
    let s1 := if joins then s else s.flushBulk sp u id
    let put (t : Xfer) : Xfer :=
      if t.id = id then
        { t with bulkBuf := match t.bulkBuf with
          | some (o, old) => some (o, old ++ bs)
          | none => some (off, bs) }
      else t
    s1.onSpire sp (fun y => y.setUnit u ((y.unit u).map put))

/-- The SIGNAL that RSIG asks for (R469). -/
def State.sendSignal (s : State) (sp u : Nat) (x : Xfer) : State :=
  let change (t : Xfer) : Xfer := if t.id = x.id then { t with bulkSignal := 1 } else t
  (s.onSpire sp (fun y => y.setUnit u ((y.unit u).map change))).sendOwn sp u x 3
    (le x.desc 0x55 1 + le x.desc 0x58 4 * 2 ^ 32) []

end Sys2Proof.Machine
end

