-- ==== Sys2Proof/Machine/Dma.lean ====
section
/-! DEFINITION. DMA engines, the Lantern path and remote pushes (chapter 7), the arbitrated packets and landing buffers
that carry them (R152, R153, R322 to R337), and what the HBM controllers and Cupolas answer (R350 to R376). -/

namespace Sys2Proof.Machine

open Host (Outcome)

/-! Finding and changing transfers and requests. -/

/-- Change a transfer of a unit. -/
def Spire.onXfer (x : Spire) (u id : Nat) (f : Xfer → Xfer) : Spire :=
  x.setUnit u ((x.unit u).map (fun t => if t.id = id then f t else t))
/-- Remove a transfer of a unit. -/
def Spire.dropXfer (x : Spire) (u id : Nat) : Spire := x.setUnit u ((x.unit u).filter (fun t => decide (t.id ≠ id)))
/-- A transfer a unit holds. -/
def Spire.xfer (x : Spire) (u id : Nat) : Option Xfer := (x.unit u).find? (fun t => decide (t.id = id))
/-- Change a request of a transfer. -/
def Xfer.onReq (x : Xfer) (id : Nat) (f : Req → Req) : Xfer :=
  { x with reqs := x.reqs.map (fun r => if r.id = id then f r else r) }
/-- A request of a transfer. -/
def Xfer.req (x : Xfer) (id : Nat) : Option Req := x.reqs.find? (fun r => decide (r.id = id))
/-- A held transfer and one of its requests. -/
def State.findReq (s : State) (sp u xid rid : Nat) : Option (Xfer × Req) :=
  match (s.spire sp).xfer u xid with
  | none => none
  | some x => (x.req rid).map (fun r => (x, r))
/-- Change a request of a Spire's transfer. -/
def State.onReq (s : State) (sp u xid rid : Nat) (f : Req → Req) : State :=
  s.onSpire sp (fun y => y.onXfer u xid (fun x => x.onReq rid f))

/-- A request that is over leaves its transfer; a stopped transfer with nothing outstanding leaves its unit (R290). -/
def State.endReq (s : State) (sp u xid rid : Nat) : State :=
  (s.forgetRead sp u xid rid).onSpire sp fun y =>
    let z := y.onXfer u xid (fun x => { x with reqs := x.reqs.filter (fun r => decide (r.id ≠ rid)) })
    match z.xfer u xid with
    | some x => if x.stopped ∧ !x.busy then z.dropXfer u xid else z
    | none => z

/-- A packet of a request enters the mesh: the place it takes in the order of sending (R329). -/
def State.sendPacket (s : State) (r : Req) : State × Req :=
  let (id, s1) := s.freshId
  (s1, { r with phase := .mesh, sent := id, landed := 0 })

/-- A packet of a held request enters the mesh. -/
def State.sendReq (s : State) (sp u xid rid : Nat) : State :=
  let (id, s1) := s.freshId
  s1.onReq sp u xid rid (fun r => { r with phase := .mesh, sent := id, landed := 0 })

/-- A request's bytes have been accepted behind its gateway: its acknowledgement sets out. -/
def State.sendAccepted (s : State) (sp u xid rid : Nat) : State :=
  let (id, s1) := s.freshId
  s1.onReq sp u xid rid (fun r => { r with phase := .done, sent := id })

/-- The fill of a line begins (R370): a read of the whole line at its controller. -/
def State.startFill (s : State) (h line : Nat) : State := s.enterRead ⟨16 + h, 0, line, 0, line * 256, 256, [], 0⟩

/-- A DMA read that goes through a Cupola (R370): served at once on a hit, else waiting on the fill of its line. -/
def State.cupolaRead (s : State) (sp u xid : Nat) (r : Req) : State × Req :=
  let h := halfOf sp
  let line := r.far / 256
  let c := (s.cupola h).look line
  if c.holds line then
    (s.setCupola h { c.touch line with hits := wrap48 c.hits 1 }).sendPacket { r with bytes := s.hbmRead r.far r.len }
  else if c.fills.any (fun f => decide (f.line = line)) then
    (s.setCupola h { c with fills := c.fills.map (fun f => if f.line = line then { f with waiters := f.waiters ++ [(sp, u, xid, r.id)] } else f) },
      { r with phase := .fill })
  else if c.fills.length < 512 then
    ((s.setCupola h { c with fills := c.fills ++ [⟨line, false, [(sp, u, xid, r.id)]⟩], misses := wrap48 c.misses 1 }).startFill h line,
      { r with phase := .fill })
  else (s.setCupola h { c with queued := c.queued ++ [(line, sp, u, xid, r.id)] }, { r with phase := .fill })

/-! Issuing requests (R249 to R253, R283 to R285, R526). -/

/-- The class of a transfer's data requests (R283). -/
def Desc.cls (d : Desc) : ReqClass := if d.kind = 3 ∨ d.kind = 5 then .remote else if d.dir then .write else .read

/-- Whether every transfer accepted earlier by the Spire, and every Lantern transfer issued earlier, has left (R288). -/
def Spire.drained (x : Spire) (order : Nat) : Bool :=
  [0, 1, 2, 3, 4].all (fun u => (x.unit u).all (fun t => decide (t.order ≥ order)))

/-- The far-side offset of a list, its carried-state term included (R259). -/
def Desc.listBase (d : Desc) (sel : Bool) : Nat := Desc.farBase d + Desc.csFarTerm d sel

/-- Blocks of 256 B that a list spans (R265): the carried-state term is a multiple of 256 B. -/
def Desc.listBlocks (d : Desc) : Nat :=
  let last := d.farBase + 16 * d.listCount - 1
  last / 256 - d.farBase / 256 + 1

/-- Whether a list transfer has a data piece to issue. -/
def Xfer.hasEntry (x : Xfer) : Bool := decide (x.atRow < x.entries.length)

/-- Whether a transfer has something left to issue. -/
def Xfer.left (x : Xfer) : Bool :=
  x.gathered.isSome ||
    (if Desc.kind x.desc = 2 then x.hasEntry || decide (x.listAsked < Desc.listBlocks x.desc) else !x.ended)

/-- Whether a transfer can issue a request now (R251, R252, R288). -/
def State.canIssue (s : State) (sp u : Nat) (x : Xfer) : Bool :=
  x.read && !x.stopped && decide (x.readyAt ≤ s.countOf sp) && decide (x.reqs.length < 64) && x.left
    && !bit1 (s.spire sp).frozen (u + 1) && (!Desc.drain x.desc || x.released)
    && !x.reqs.any (fun r => decide (r.kind = .hold))

/-- The requests of each class a Spire has issued in the running window (R285). -/
def Spire.used (x : Spire) : ReqClass → Nat
  | .read => x.usedRead | .write => x.usedWrite | .remote => x.usedRemote

/-- The share of a class (R284). -/
def PartCfg.share (c : PartCfg) : ReqClass → Nat
  | .read => c.readShare | .write => c.writeShare | .remote => c.remoteShare

/-- A request made of gathered pieces. -/
def makeReq (id : Nat) (kind : ReqKind) (cls : ReqClass) (base : Int) (tiles : List Nat) (gs : List Got) : Option Req :=
  match gs with
  | [] => none
  | g :: _ =>
    let low : Int := gs.foldl (fun a x => min a x.far) g.far
    let high : Int := gs.foldl (fun a x => max a (x.far + (x.len : Int))) (g.far + (g.len : Int))
    if low + base < 0 then none
    else some { id := id, kind := kind, cls := cls, far := (low + base).toNat, len := (high - low).toNat, tiles := tiles
                pieces := gs.map (fun x => ⟨(x.far - low).toNat, x.taddr, x.len⟩)
                bytes := gs.flatMap (·.bytes), phase := .far }

/-- The pieces of a transfer's next request and the cursor after them. -/
structure Step where
  gots : List Got
  tiles : List Nat
  atTile : Nat
  atRow : Nat
  atByte : Nat
  ended : Bool
  counts : Counts
  source : Nat
  /-- What it reads of the source tile: addresses and lengths. -/
  reads : List (Nat × Nat) := []
  /-- Source elements a pack unit takes for it (R271). -/
  elements : Nat := 0
  deriving DecidableEq, Repr

/-- What is added to a far-side offset to make an HBM address: nothing for REMOTE and SPAN. -/
def State.farBase (s : State) (p : Nat) (d : Desc) : Int := if Desc.kind d = 3 ∨ Desc.kind d = 5 then 0 else ((s.cfg.window p (Desc.window d)).addr 0 : Nat)

/-- Gather the next request of a STREAM, REMOTE or SPAN transfer from its cursor. The metadata of HOLD is what has been read
of it (R270), so a row of HOLD is counted (R79, R87) with its last request, when all of it has been read; another row is
counted with its first. -/
def State.nextStep (s : State) (sp p : Nat) (x : Xfer) : Option Step :=
  let d := x.desc
  let h := fld x.handle 19 0
  match (Desc.steps d)[x.atTile]? with
  | none => none
  | some (lx, ly, idx) =>
    let tiles := idx.map (tileOf sp)
    let src := tiles.headD 0
    let rd := s.byteBefore (s.countOf sp + 1) src
    let row := fun r => Desc.rowBytes d h r rd (fun i => Tbl.get 0#8 (s.farBase p d + Desc.rowFar d x.sel lx ly r + i).toNat x.held)
    let taken := fun (r b : Nat) => if Desc.pack d then Desc.packUpTo d r (row r).2.1 b else 0
    let g := gather (Desc.rowFar d x.sel lx ly) (Desc.rowTile d h) row (Desc.rows d) 1024 none 0 x.atRow x.atByte
    let done := decide (g.2.1 ≥ Desc.rows d) || (decide (g.2.1 + 1 = Desc.rows d) && decide (g.2.2 ≥ (row g.2.1).1))
    let met := ((List.range (g.2.1 + 1 - x.atRow)).map (· + x.atRow)).filter (fun r => decide (r < Desc.rows d) &&
      (if Desc.hold d then decide (r < g.2.1) || done
       else (decide (r ≠ x.atRow) || x.atByte == 0) && (decide (r < g.2.1) || decide (0 < g.2.2))))
    let counts := if Desc.pack d then met.foldl (fun a r => a.add (row r).2.2) {} else {}
    some { gots := g.1, tiles := if Desc.kind d = 3 then idx.map (tileOf (Desc.dstSpire d)) else tiles, source := src
           atTile := if done then x.atTile + 1 else x.atTile
           atRow := if done then 0 else g.2.1
           atByte := if done then 0 else g.2.2
           ended := done && decide (x.atTile + 1 ≥ (Desc.steps d).length)
           counts := counts, reads := if Desc.pack d then met.flatMap (Desc.rowReads d h) else g.1.map (fun q => (q.taddr, q.len)), elements := taken g.2.1 g.2.2 - taken x.atRow x.atByte }

/-- Gather the pieces of list entries from the one under the cursor on, while they lie in one aligned 256 B block of the far
side and one tile (R252, R265) and sum to at most 256 B, which is what a packet carries (DESIGN CHOICE, log 42): the pieces, and
the cursor after them. -/
def State.entryPieces (s : State) (sp : Nat) (x : Xfer) : List ListEntry → Nat → Nat → Option (Nat × Nat) → Nat → List Got × Nat × Nat
  | [], row, b, _, _ => ([], row, b)
  | e :: rest, row, b, key, sum =>
    let far := e.far + Desc.csFarTerm x.desc x.sel + b
    let here := (e.tile, far / 256)
    if key.any (fun k => decide (k ≠ here)) ∨ 256 ≤ sum then ([], row, b)
    else
      let n := min (min (e.len - b) (256 - far % 256)) (256 - sum)
      let ta := e.taddr + fld x.handle 19 0 * Desc.hstride x.desc + b
      let got : Got := ⟨(far : Nat), ta, n, if Desc.dir x.desc then s.readBefore (s.countOf sp + 1) (tileOf sp e.tile) ta n else [], 0⟩
      if b + n < e.len then ([got], row, b + n)
      else
        let r := s.entryPieces sp x rest (row + 1) 0 (some here) (sum + n)
        (got :: r.1, r.2)

/-- Gather the next data request of a LIST transfer (R265). -/
def State.nextEntry (s : State) (sp : Nat) (x : Xfer) : Option Step :=
  match x.entries[x.atRow]? with
  | none => none
  | some e =>
    let tile := tileOf sp e.tile
    let g := s.entryPieces sp x (x.entries.drop x.atRow) x.atRow x.atByte none 0
    some { gots := g.1, tiles := [tile], source := tile, atTile := 0, atRow := g.2.1, atByte := g.2.2, ended := false, counts := {}
           reads := g.1.map (fun q => (q.taddr, q.len)) }

/-- The step under a transfer's cursor; for a LIST the next entry that has been read. -/
def State.stepOf (s : State) (sp p : Nat) (x : Xfer) : Option Step :=
  if Desc.kind x.desc = 2 then (if x.hasEntry then s.nextEntry sp x else none) else if x.ended then none else s.nextStep sp p x

/-- Whether entries not yet read may still join the block that a step of a LIST write gathers (R265, R291). -/
def Xfer.listOpen (x : Xfer) (g : Step) : Bool :=
  Desc.kind x.desc == 2 && Desc.dir x.desc && decide (x.entries.length ≤ g.atRow) && decide (x.listRead < Desc.listBlocks x.desc)

/-- Whether the next request of a transfer is the read of a block of its list: it is a LIST, blocks of it are left, and it has
no entries whose data it may move (DESIGN CHOICE, log 42: R265 does not say when a further block is read). -/
def State.listTurn (s : State) (sp p : Nat) (x : Xfer) : Bool :=
  Desc.kind x.desc == 2 && decide (x.listAsked < Desc.listBlocks x.desc) && ((s.stepOf sp p x).map x.listOpen).getD true

/-- Whether a transfer has something to do at its turn: a LIST write waits for the entries that may still join its block
(R291). -/
def State.stepReady (s : State) (sp p : Nat) (x : Xfer) : Bool :=
  s.listTurn sp p x || !((s.stepOf sp p x).map x.listOpen).getD false

/-- Whether a packing transfer holds the positions it finds (R139). -/
def Xfer.holds (x : Xfer) : Bool := Desc.pack x.desc && Desc.hold x.desc

/-- The metadata that a step of a HOLD transfer overwrites, as far-side offsets: the first, and one past the last; none
where the step meets none, or where it has been read (R270). -/
def Xfer.holdSpan (x : Xfer) (g : Step) : Option (Int × Int) :=
  if !x.holds || x.heldAt == some (x.atTile, x.atRow, x.atByte) then none
  else
    match g.gots.flatMap (fun q => (Desc.metadataOf x.desc q.off q.len).map (fun (i : Nat) => (q.far + i : Int))) with
    | [] => none
    | a :: t => some (t.foldl min a, t.foldl max a + 1)

/-- The class of a transfer's next request: the reads of lists and of data, the reads of HOLD, which are writes, and the rest
(R265, R270, R283). -/
def State.classOf (s : State) (sp p : Nat) (x : Xfer) : ReqClass :=
  if s.listTurn sp p x then .read
  else if x.holds ∧ ((s.stepOf sp p x).bind x.holdSpan).isSome then .write
  else Desc.cls x.desc

/-- The cursor of a transfer moved past a step. The metadata read for HOLD is kept within a tile. -/
def Xfer.advance (x : Xfer) (g : Step) : Xfer :=
  { x with atTile := g.atTile, atRow := g.atRow, atByte := g.atByte, ended := g.ended
           held := if g.atTile = x.atTile then x.held else [], heldAt := none }

/-- The source elements that the steps a transfer takes at its next turn need (R271): with an empty write-combine buffer a
write takes two. -/
def State.turnElements (s : State) (sp p : Nat) (x : Xfer) : Nat :=
  match s.stepOf sp p x with
  | none => 0
  | some g =>
    if x.gathered.isSome ∨ x.holds ∨ Desc.kind x.desc ≠ 1 then g.elements
    else g.elements + ((s.stepOf sp p (x.advance g)).map (·.elements)).getD 0

/-- Whether the pack unit of an engine has produced what a transfer's next turn needs, at 32 elements a ccyc (R271). -/
def State.packReady (s : State) (sp p e : Nat) (x : Xfer) : Bool :=
  !Desc.pack x.desc ||
    decide (max x.readyAt (Tbl.get 0 e (s.spire sp).packFree) + ceilDiv (s.turnElements sp p x) 32 ≤ s.countOf sp)

/-- The classes in circular order after the one that issued last (R253). -/
def classOrder (last : Nat) : List ReqClass :=
  (circularAfter 3 last).map (fun i => if i = 0 then .read else if i = 1 then .write else .remote)

/-- The number of a class in the circular order. -/
def ReqClass.num : ReqClass → Nat
  | .read => 0 | .write => 1 | .remote => 2

/-- The transfer whose turn it is (R253): the class, the engine and the transfer. -/
def State.nextTurn (s : State) (sp p : Nat) : Option (ReqClass × Nat × Xfer) :=
  let x := s.spire sp
  let fresh := x.shareWindow ≠ (s.part p).ccyc / 64
  (classOrder x.lastClass).findSome? fun c =>
    if (if fresh then 0 else x.used c) ≥ 4 * (s.pcfg p).share c then none
    else (circularAfter 4 (Tbl.get 3 c.num x.lastEngine)).findSome? fun e =>
      let ready := (x.unit e).filter (fun t => s.canIssue sp e t && decide (s.classOf sp p t = c) && s.packReady sp p e t && s.stepReady sp p t)
      let last := Tbl.get 0 e x.lastXfer
      let pick := match ready.find? (fun t => decide (t.id ≥ last)) with
        | some t => some t
        | none => ready.head?
      pick.map (fun t => (c, e, t))

/-- The check of R526 on a request whose far side is a memory window. -/
def windowPasses (w : WinCfg) (write : Bool) (off : Int) (n : Nat) : Bool :=
  w.valid && decide (0 ≤ off) && decide (off + n ≤ (w.bytes : Int)) && (if write then w.wr && !w.shared else w.rd)

/-- Account for an issued request in the split and the turns. -/
def Spire.account (x : Spire) (c : ReqClass) (e id count : Nat) : Spire :=
  let fresh := x.shareWindow ≠ count / 64
  let y := if fresh then { x with shareWindow := count / 64, usedRead := 0, usedWrite := 0, usedRemote := 0 } else x
  { y with
    usedRead := y.usedRead + b2n (c == .read), usedWrite := y.usedWrite + b2n (c == .write)
    usedRemote := y.usedRemote + b2n (c == .remote)
    lastClass := c.num, lastEngine := Tbl.put 3 c.num e y.lastEngine, lastXfer := Tbl.put 0 e (id + 1) y.lastXfer
    issueFree := count + 1 }

/-- Put an issued request on its way. A read goes to its controller or its Cupola; data from tiles or a slot store, and the
read of a tile's metadata, start in the mesh. -/
def State.launch (s : State) (sp e : Nat) (x : Xfer) (r : Req) : State :=
  let q : QRead := ⟨sp, e, x.id, r.id, r.far, r.len, [], 0⟩
  let (s1, r1) := match r.kind with
    | .read => if Desc.cupola x.desc then s.cupolaRead sp e x.id r else (s.enterRead q, r)
    | .list => (s.enterRead q, r)
    | .hold => if Desc.kind x.desc = 3 then s.sendPacket r else (s.enterRead q, r)
    | .spanIn => s.sendPacket { r with bytes := s.slotRead x.part (Desc.port x.desc) r.far r.len }
    | _ => s.sendPacket r
  s1.onSpire sp (fun y => (y.onXfer e x.id (fun t => { t with issued := t.issued + 1, reqs := t.reqs ++ [r1] })))

/-- Freeze an engine for a request its window refuses (R527). -/
def State.windowViolation (s : State) (sp e : Nat) (x : Xfer) (off : Int) : State :=
  s.freeze sp (e + 1) 1 x.index (off % 2 ^ 40).toNat 0 (Desc.window x.desc)

/-- A list-entry read: one aligned 256 B block of the list (R265), from its far-side offset with the carried-state term
(R259, R526). -/
def State.issueList (s : State) (sp p e : Nat) (x : Xfer) : State :=
  let d := x.desc
  let w := s.cfg.window p (Desc.window d)
  let base := Desc.listBase d x.sel
  let off := (base / 256 + x.listAsked) * 256
  let lo := max off base
  if !windowPasses w false lo (off + 256 - lo) then s.windowViolation sp e x lo
  else
    let (id, s1) := s.freshId
    let r : Req := { id := id, kind := .list, cls := .read, far := w.addr off, len := 256, tiles := [], pieces := [], bytes := [], phase := .far }
    let s2 := s1.onSpire sp (fun y => y.onXfer e x.id (fun t => { t with listAsked := t.listAsked + 1 }))
    (s2.launch sp e x r).onSpire sp (fun y => y.account .read e x.id (s.countOf sp))

/-- A transfer reads tile SRAM of a Spire in the present ccyc: it uses banks (R148), and may meet errors (R625). -/
def State.readTiles (s : State) (sp : Nat) (reads : List (Nat × Nat × Nat)) : State :=
  (s.useBanks sp .arbitrated reads).noteReads sp reads

/-- What a step of a transfer reads is noted, and its conversions are counted. -/
def State.noteStep (s : State) (sp : Nat) (x : Xfer) (g : Step) : State :=
  (if Desc.dir x.desc then s.readTiles sp (g.reads.map (fun q => (g.source, q.1, q.2))) else s).onCtr sp
    (fun k => { k with sat := sat32 k.sat g.counts.overflow, nan := sat32 k.nan g.counts.nanRemoved })

/-- A transfer's cursor and write-combine buffer after a step; its requests stand as they are. -/
def State.storeXfer (s : State) (sp e : Nat) (x1 : Xfer) : State :=
  s.onSpire sp (fun y => y.onXfer e x1.id (fun z => { x1 with reqs := z.reqs, issued := z.issued, stopped := z.stopped }))

/-- What kind of data request a transfer makes. -/
def Desc.dataKind (d : Desc) : ReqKind :=
  if Desc.kind d = 3 then .remote else if Desc.kind d = 5 then (if Desc.dir d then .spanOut else .spanIn) else if Desc.dir d then .write else .read

/-- The check of R526 on a step: only what goes to a memory window is checked. -/
def State.stepPasses (s : State) (p : Nat) (x : Xfer) (g : Step) : Bool :=
  let kind := Desc.dataKind x.desc
  (kind != .read && kind != .write) || g.gots.all (fun q => windowPasses (s.cfg.window p (Desc.window x.desc)) (kind == .write) q.far q.len)

/-- Read the metadata a step of a HOLD transfer is about to overwrite (R270), from `lo` up to `hi` of its far side. -/
def State.issueHold (s : State) (sp p e : Nat) (x : Xfer) (g : Step) (lo hi : Int) : State :=
  let (id, s1) := s.freshId
  let r : Req := { id := id, kind := .hold, cls := .write, far := (s.farBase p x.desc + lo).toNat, len := (hi - lo).toNat, tiles := g.tiles
                   pieces := [], bytes := [], phase := .far }
  ((s1.onSpire sp (fun y => y.onXfer e x.id (fun t => { t with heldAt := some (x.atTile, x.atRow, x.atByte) }))).launch sp e x r).onSpire sp
    (fun y => y.account .write e x.id (s.countOf sp))

/-- What the next data request of a transfer reads of its source tile: its step, and the one after it where nothing waits in the
write-combine buffer. -/
def State.issueReads (s : State) (sp p : Nat) (x : Xfer) : List (Nat × Nat × Nat) :=
  let reads (g : Step) : List (Nat × Nat × Nat) := g.reads.map (fun q => (g.source, q.1, q.2))
  match (if Desc.dir x.desc then s.stepOf sp p x else none) with
  | none => []
  | some g => reads g ++ (if x.gathered.isSome ∨ Desc.dataKind x.desc ≠ .write then [] else ((s.stepOf sp p (x.advance g)).map reads).getD [])

/-- Whether the banks that the next data request of a transfer reads are free in the present ccyc (R148). DESIGN CHOICE (log 8):
R149's list has no place for the accesses of transfers; one waits for a ccyc in which nothing known uses its banks. -/
def State.issueFits (s : State) (sp p : Nat) (x : Xfer) : Bool := (s.issueReads sp p x).all (fun q => s.banksFree sp q.1 q.2.1 q.2.2)

/-- The request a step makes: a write fills its write-combine buffer with it first. -/
def State.gatherStep (s : State) (p : Nat) (x : Xfer) (c : ReqClass) (id : Nat) (g : Step) : Option Req :=
  (makeReq id (Desc.dataKind x.desc) c (s.farBase p x.desc) g.tiles g.gots).map (fun r => { r with source := g.source })

/-- Issue the next data request of a transfer. Each step charges the pack unit (R271). A write fills its write-combine buffer, and the block in it is issued when
the transfer moves to the next or ends (R291). DESIGN CHOICE (log 42): the whole of the next block enters the buffer as the
block before it is issued, and what a stop discards is that block; a block of a LIST write enters only when every entry that
may lie in it has been read, so a block whose end is not known is not sent. DESIGN CHOICE (log 42): the transfers that write, in the
sense of R291, are those that write a memory window; REMOTE and SPAN hold no buffer. With HOLD the metadata of the next block is read
first (R270), while the block before it stays in the buffer. -/
def State.issueData (s : State) (sp p e : Nat) (x : Xfer) (c : ReqClass) : State :=
  let write := Desc.dataKind x.desc == .write
  let packed (t : State) : State := t.onSpire sp (fun y =>
    { y with packFree := if Desc.pack x.desc then Tbl.put 0 e (s.countOf sp) y.packFree else y.packFree })
  let finish (t : State) : State := packed (t.onSpire sp (fun y => y.account c e x.id (s.countOf sp)))
  let (id, s1) := s.freshId
  let refuse (g : Step) : State := s.windowViolation sp e x ((g.gots.map (·.far)).headD 0)
  match x.gathered with
  | some r =>
    match s.stepOf sp p x with
    | none => finish ((s1.storeXfer sp e { x with gathered := none }).launch sp e x { r with id := id })
    | some g =>
      if !s.stepPasses p x g then finish ((s1.storeXfer sp e { x with gathered := none }).launch sp e x { r with id := id })
      else match x.holdSpan g with
        | some (lo, hi) => s.issueHold sp p e x g lo hi
        | none => finish (((s1.storeXfer sp e { x.advance g with gathered := s.gatherStep p x c 0 g }).noteStep sp x g).launch sp e x { r with id := id })
  | none =>
    match s.stepOf sp p x with
    | none => s.onSpire sp (fun y => y.onXfer e x.id (fun z => { z with ended := true }))
    | some g =>
      if !s.stepPasses p x g then refuse g
      else match x.holdSpan g with
        | some (lo, hi) => s.issueHold sp p e x g lo hi
        | none =>
          let x1 := x.advance g
          let alone := (s1.storeXfer sp e x1).noteStep sp x g
          match s.gatherStep p x c id g with
          | none => s1.storeXfer sp e x1
          | some r =>
            match (if write then s.stepOf sp p x1 else none) with
            | none => finish (alone.launch sp e x r)
            | some g2 =>
              if !s.stepPasses p x g2 ∨ x1.listOpen g2 then finish (alone.launch sp e x r)
              else match x1.holdSpan g2 with
                | some (lo, hi) => packed (((s1.storeXfer sp e { x1 with gathered := some r }).noteStep sp x g).issueHold sp p e x1 g2 lo hi)
                | none => finish ((((s1.storeXfer sp e { x1.advance g2 with gathered := s.gatherStep p x c 0 g2 }).noteStep sp x g).noteStep sp x g2).launch sp e x r)

/-- DMA_REQUEST_ISSUE (R252, R253, R526): the transfer whose turn it is issues its next request. At most one request a
ccyc is issued by a Spire, and none while a bank it reads is in use (R148). A read through a Cupola may find an error in the line it
looks up (R376). -/
def execDmaRequestIssue (sp : Fin 16) (upsets : List Upset) (s : State) (cup : CupolaErr := .none) : Outcome State Fault Refusal :=
  match s.owner sp.val with
  | none => .next s
  | some p =>
    if (s.spire sp.val).issueFree > (s.part p).ccyc then .next s
    else match s.nextTurn sp.val p with
      | none => .next s
      | some (c, e, x) =>
        if !s.listTurn sp.val p x && !s.issueFits sp.val p x then .next s
        else
        let line := ((s.stepOf sp.val p x).map (fun g => ((s.farBase p x.desc + (g.gots.map (·.far)).headD 0).toNat / 256))).getD 0
        let s1 := (s.upset upsets).cupolaMeets (halfOf sp.val) line (if Desc.cupola x.desc then cup else .none)
        .next (if s1.listTurn sp.val p x then s1.issueList sp.val p e x else s1.issueData sp.val p e x c)

/-- BANK_WINDOW_START (R285): a window of 64 ccyc has begun, and the request shares of each class are renewed. -/
def execBankWindowStart (sp : Fin 16) (s : State) : Outcome State Fault Refusal :=
  match s.owner sp.val with
  | none => .next s
  | some p =>
    let w := (s.part p).ccyc / 64
    if (s.spire sp.val).shareWindow = w then .next s
    else .next (s.onSpire sp.val (fun x => { x with shareWindow := w, usedRead := 0, usedWrite := 0, usedRemote := 0 }))

/-! The descriptor read (R251, R281, R299). -/

/-- Whether a handle fails the checks of R280 against a pool. -/
def State.staleInPool (s : State) (sp p pool : Nat) (h : W32) : Bool :=
  let q := (s.part p).plan.poolCfg sp pool
  !(fld h 31 20 == s.generation p && decide (q.base ≤ fld h 19 0) && decide (fld h 19 0 < q.base + q.count))

/-- DESCRIPTOR_READ_DONE: the descriptor read of a transfer completes; it may issue requests 4 ccyc later. While its line
waits on a fill it has not completed (R370). -/
def execDescriptorReadDone (sp : Fin 16) (unit : Fin 5) (id : Nat) (bad : Bool) (s : State) (cup : CupolaErr := .none)
    (bursts : BurstRec := {}) : Outcome State Fault Refusal :=
  match (s.spire sp.val).xfer unit.val id, s.owner sp.val with
  | some x, some p =>
    if x.read ∨ x.stopped then .next s
    else
      let plan := (s.part p).plan
      let a := plan.base + plan.descTable + 128 * x.index
      let s1 := (s.hbmSpoil (if bad then some a else none)).cupolaMeets (halfOf sp.val) (a / 256) cup
      if s1.belfryWaits (halfOf sp.val) a 128 then .next s
      else match (s1.countBursts a bursts).belfryRead (halfOf sp.val) a 128 with
      | (some b, s2) => .next (s2.freeze sp.val (unit.val + 1) 9 b b)
      | (none, s2) =>
        let d : Desc := s2.hbmRead a 128
        let s3 := s2.onSpire sp.val (fun y => y.onXfer unit.val id (fun t => { t with desc := d, read := true, readyAt := s.countOf sp.val + 4 }))
        if Desc.hchk d ∧ s.staleInPool sp.val p (Desc.hpool d) x.handle then .next (s3.freeze sp.val (unit.val + 1) 8 x.index 0)
        else if !Desc.tileRangeOk d (fld x.handle 19 0) then .next (s3.freeze sp.val (unit.val + 1) 7 x.index 0)
        else .next s3
  | _, _ => .next s

/-- DRAIN_RELEASE (R288): a DRAIN transfer begins issuing once every earlier transfer of its Spire has left. -/
def execDrainRelease (sp : Fin 16) (unit : Fin 4) (xfer : Nat) (s : State) : Outcome State Fault Refusal :=
  match (s.spire sp.val).xfer unit.val xfer with
  | none => .next s
  | some x =>
    if x.read ∧ Desc.drain x.desc ∧ (s.spire sp.val).drained x.order then
      .next (s.onSpire sp.val (fun y => y.onXfer unit.val xfer (fun t => { t with released := true })))
    else .next s

/-! The memory side. -/

/-- The entries in a block of a list that has been read (R265, Table 7-3), and whether one breaks Table 7-9. -/
def parseEntries (sp : Nat) (x : Xfer) (r : Req) (base : Nat) : List ListEntry × Bool :=
  let first := base + Desc.listBase x.desc x.sel
  let last := first + 16 * Desc.listCount x.desc
  let offs := ((List.range 16).map (fun i => r.far + 16 * i)).filter (fun a => decide (first ≤ a) && decide (a < last))
  let raw := offs.map (fun a => (r.bytes.drop (a - r.far)).take 16)
  let h := fld x.handle 19 0 * Desc.hstride x.desc
  let es := raw.map (fun b => (⟨le b 0 5, le b 5 1, le b 8 4, le b 6 2 + 1⟩ : ListEntry))
  (es, sp > 15 || raw.any (fun b => decide (le b 8 4 ≥ 2 ^ 18) || decide (le b 0xC 4 ≠ 0))
    || es.any (fun e => decide (e.taddr + h + e.len > 2 ^ 18)))

/-- The entries of the blocks that follow those a list transfer has taken, as far as they have been read (R265): entries are
moved in list order, whichever block came first. The first argument bounds the blocks. -/
def Xfer.takeBlocks : Nat → Xfer → Xfer
  | 0, x => x
  | f + 1, x =>
    match x.listLater.find? (fun e => decide (e.1 = x.listRead)) with
    | none => x
    | some e => Xfer.takeBlocks f { x with
        entries := x.entries ++ e.2, listRead := x.listRead + 1, listLater := x.listLater.filter (fun y => decide (y.1 ≠ x.listRead)) }

/-- HBM_READ_COMPLETE (R355): a controller serves the read of a request, whose data sets out, or its engine is frozen when
the read meets an uncorrectable burst. -/
def execHbmReadComplete (sp : Fin 16) (unit : Fin 4) (xfer req : Nat) (bad : Option Nat) (s : State) (bursts : BurstRec := {}) :
    Outcome State Fault Refusal :=
  match s.findReq sp.val unit.val xfer req with
  | none => .next s
  | some (x, r) =>
    if r.phase ≠ .far ∨ (r.kind ≠ .read ∧ r.kind ≠ .list ∧ r.kind ≠ .hold) then .next s
    else match s.serveRead r.far sp.val unit.val xfer req with
      | none => .next s
      | some (bytes, s0) =>
        let s1 := (s0.hbmSpoil bad).countBursts r.far bursts
        match s1.badBurst r.far r.len with
        | some b => .next (((s1.countUe (s1.badIn r.far r.len)).endReq sp.val unit.val xfer req).freeze sp.val (unit.val + 1) 9 b b)
        | none =>
          if x.stopped then .next (s1.endReq sp.val unit.val xfer req)
          else .next ((s1.onReq sp.val unit.val xfer req (fun q => { q with bytes := bytes })).sendReq sp.val unit.val xfer req)

/-- Reads that queued for want of a fill start theirs, oldest first, while fewer than 512 are pending (R370). The first
argument bounds them. -/
def State.dequeue : Nat → Nat → State → State
  | 0, _, s => s
  | f + 1, h, s =>
    let c := s.cupola h
    match c.queued with
    | [] => s
    | (l, w) :: t =>
      if c.fills.any (fun g => decide (g.line = l)) then
        State.dequeue f h (s.setCupola h { c with queued := t, fills := c.fills.map (fun g => if g.line = l then { g with waiters := g.waiters ++ [w] } else g) })
      else if c.fills.length < 512 then
        State.dequeue f h ((s.setCupola h { c with queued := t, fills := c.fills ++ [⟨l, false, [w]⟩], misses := wrap48 c.misses 1 }).startFill h l)
      else s

/-- CUPOLA_FILL_COMPLETE (R370, R371, R374): a fill delivers its line to the reads that wait, and places it unless a
write to it was accepted meanwhile. An uncorrectable burst freezes every engine that waits (R355). -/
def execCupolaFillComplete (east : Bool) (line : Nat) (bad : Option Nat) (s : State) (bursts : BurstRec := {}) : Outcome State Fault Refusal :=
  let h := b2n east
  match (s.cupola h).fills.find? (fun f => decide (f.line = line)), s.serveRead (line * 256) (16 + h) 0 line 0 with
  | some f, some (_, s0) =>
    let s1 := (s0.hbmSpoil bad).countBursts (line * 256) bursts
    let c := s1.cupola h
    let c1 := { c with fills := c.fills.filter (fun g => decide (g.line ≠ line)) }
    let go (a : State) : State := a.dequeue (c.queued.length + 1) h
    match s1.badBurst (line * 256) 256 with
    | some b =>
      let s2 := go ((s1.setCupola h c1).countUe (s1.badIn (line * 256) 256))
      .next (f.waiters.foldl (fun (a : State) (w : Nat × Nat × Nat × Nat) =>
        (a.endReq w.1 w.2.1 w.2.2.1 w.2.2.2).freeze w.1 (w.2.1 + 1) 9 b b) s2)
    | none =>
      let s2 := go (s1.setCupola h (if f.stale then c1 else c1.place line))
      .next (f.waiters.foldl (fun (a : State) (w : Nat × Nat × Nat × Nat) =>
        match a.findReq w.1 w.2.1 w.2.2.1 w.2.2.2 with
        | none => a
        | some (x, _) =>
          if x.stopped then a.endReq w.1 w.2.1 w.2.2.1 w.2.2.2
          else (a.onReq w.1 w.2.1 w.2.2.1 w.2.2.2 (fun q => { q with bytes := a.hbmRead q.far q.len })).sendReq w.1 w.2.1 w.2.2.1 w.2.2.2) s2)
  | _, _ => .next s

/-- HBM_WRITE_ACCEPT (R350, R353, R356): a controller with room in its write queue accepts a write after invalidating both
Cupolas' copies; a burst that the request fills only in part is read first, and an uncorrectable one keeps the write from
being performed and freezes its engine. -/
def execHbmWriteAccept (sp : Fin 16) (unit : Fin 4) (xfer req : Nat) (bad : Bool) (s : State) (bursts : BurstRec := {}) : Outcome State Fault Refusal :=
  match s.findReq sp.val unit.val xfer req with
  | none => .next s
  | some (_, r) =>
    if r.phase ≠ .far ∨ r.kind ≠ .write ∨ s.core.hbmMode ≠ .running then .next s
    else match s.enterWrite r.far with
      | none => .next s
      | some s0 =>
        let s1 := (s0.hbmSpoil (if bad then some r.far else none)).countBursts r.far bursts
        match s1.badBeneath r with
        | b :: _ => .next (((s1.countUe (s1.badBeneath r)).endReq sp.val unit.val xfer req).freeze sp.val (unit.val + 1) 9 (b * 32) (b * 32))
        | [] => .next ((s1.writePieces r).sendAccepted sp.val unit.val xfer req)

/-! Arbitrated packets and landing buffers. -/

/-- Bytes that stand in a tile's landing buffer. -/
def State.landed (s : State) (tile : Nat) : Nat := (Tbl.get [] tile s.core.landing).foldl (fun a l => a + l.bytes.length) 0

/-- The bytes of a request's piece. -/
def Req.pieceBytes (r : Req) : List (Piece × List Byte) :=
  if r.kind = .read ∨ r.kind = .spanIn then r.pieces.map (fun p => (p, (r.bytes.drop p.far).take p.len))
  else (r.pieces.foldl (fun (a : List (Piece × List Byte) × List Byte) p => (a.1 ++ [(p, a.2.take p.len)], a.2.drop p.len)) ([], r.bytes)).1

/-- Where a request's data lands in its tiles: for REMOTE the far side is the destination tile's address. -/
def Req.landing (r : Req) (sp u xid : Nat) : List Landed :=
  r.pieceBytes.map (fun q => ⟨sp, u, xid, r.id, if r.kind = .remote then r.far + q.1.far else q.1.taddr, q.2⟩)

/-- The address R750 names for an arbitrated packet: the device address of its request where it comes from or goes to a
memory window, else where its first byte lands; it names none for a packet bound to a Span port. -/
def Req.errorAddr (r : Req) (id : Nat) : Nat :=
  let aperture (offset : Piece → Nat) : Nat := sramAperture (r.tiles.headD 0) ((r.pieces.head?.map offset).getD 0)
  match r.kind with
  | .remote => aperture (fun p => r.far + p.far)
  | .spanIn => aperture (fun p => p.taddr)
  | .spanOut => (Config.packetAddr id).toNat
  | _ => r.far

/-- A SPAN packet has reached the Hem: its bytes go into the slot store, or into the messages of a BULK_WRITE, the last
of which is sent when the transfer has nothing left (R467, R471). In a partition reset a message not yet begun is dropped (Table 13-8). -/
def State.spanPacket (s : State) (sp u : Nat) (x : Xfer) (r : Req) : State :=
  let put (a : State) (q : Piece × List Byte) : State :=
    if x.isBulk then (if (a.part x.part).reset = .none then a.bulkBytesIn sp u x.id (r.far + q.1.far) q.2 else a) else a.slotWrite x.part (Desc.port x.desc) (r.far + q.1.far) q.2
  let s1 := (r.pieceBytes.foldl put s).sendAccepted sp u x.id r.id
  match (s1.spire sp).xfer u x.id with
  | some y => if y.isBulk ∧ (y.stopped ∨ !y.left) ∧ y.reqs.all (fun q => decide (q.phase = .done)) then s1.flushBulk sp u x.id else s1
  | none => s1

/-- The virtual channel of a request's data (Table 8-4). DESIGN CHOICE beside R322 (log 42): the metadata that a REMOTE transfer
with HOLD reads of its destination tile, which the table does not name, travels on VC 0 as other read data does. -/
def Req.channel (r : Req) : Nat := match r.kind with
  | .write => 1 | .spanOut => 1 | .remote => 2 | .spanIn => 2 | _ => 0

/-- Where arbitrated packets start and end: a tile, the gateway of a column or of a row (R305), or an engine of the Spire. -/
inductive Stop where
  | tile (t : Nat) | column (c : Nat) (south : Bool) | row (r : Nat) (east : Bool) | engine (u : Nat)
  deriving DecidableEq, Repr

/-- The gateway that memory-window traffic of a tile uses, and the one its SPAN traffic uses (R305). -/
def columnGateway (tile : Nat) : Stop := .column (tile % 64) (decide (32 ≤ tile / 64))
def rowGateway (tile : Nat) : Stop := .row (tile / 64) (decide (32 ≤ tile % 64))

/-- Where a request's data starts: a multicast at the gateway of its first tile's column (R318). The gateway of what an engine
reads for itself is not stated; each engine has one here (DESIGN CHOICE, log 42). -/
def Req.from (r : Req) (u : Nat) : Stop := match r.kind with
  | .write | .spanOut | .remote => .tile r.source
  | .read => columnGateway (r.tiles.headD 0)
  | .spanIn => rowGateway (r.tiles.headD 0)
  | .list | .hold => .engine u

/-- Where a request's data ends. -/
def Req.to (r : Req) (u : Nat) : List Stop := match r.kind with
  | .write => [columnGateway r.source]
  | .spanOut => [rowGateway r.source]
  | .list | .hold => [.engine u]
  | _ => r.tiles.map .tile

/-- The requests of a Spire's engines, each with its engine. -/
def Spire.requests (x : Spire) : List (Nat × Req) :=
  [0, 1, 2, 3].flatMap (fun u => (x.unit u).flatMap (fun y => y.reqs.map (fun q => (u, q))))

/-- Whether an earlier packet on the same virtual channel from the same source to a same destination is still in the mesh
(R329); a packet to several tiles keeps the order to each of them. -/
def State.overtakes (s : State) (sp u : Nat) (r : Req) : Bool :=
  (s.spire sp).requests.any (fun q => decide (q.2.phase = .mesh) && q.2.channel == r.channel && decide (q.2.sent < r.sent)
    && decide (q.2.from q.1 = r.from u) && (q.2.to q.1).any (r.to u).contains)

/-- Whether a request's acknowledgement is a packet of its own, on virtual channel 3 from its gateway (Table 8-4). -/
def Req.acknowledged (r : Req) : Bool := r.kind == .write || r.kind == .spanOut

/-- Whether an earlier acknowledgement from the same gateway to the same engine is still under way (R329). -/
def State.acksAhead (s : State) (sp u : Nat) (r : Req) : Bool :=
  r.acknowledged && (s.spire sp).requests.any (fun q => decide (q.1 = u) && decide (q.2.phase = .done) && q.2.acknowledged
    && decide (q.2.sent < r.sent) && decide (q.2.to u = r.to u))

/-- The part of landing items that lies between two places in their bytes. -/
def cutItems : List Landed → Nat → Nat → List Landed
  | [], _, _ => []
  | l :: t, lo, hi =>
    let n := l.bytes.length
    let here := { l with taddr := l.taddr + lo, bytes := (l.bytes.take hi).drop lo }
    (if here.bytes.isEmpty then [] else [here]) ++ cutItems t (lo - n) (hi - n)

/-- Whether the LOCAL port of a tile carries scheduled traffic into it in the present ccyc (R171, R312): an entry of the tile's
calendar acts there whose data comes from an input, or the write-back of an earlier entry is made. -/
def State.portReserved (s : State) (tile : Nat) : Bool :=
  let sp := spireOfTile tile
  match s.owner sp with
  | none => false
  | some p =>
    let x := s.part p
    let y := s.spire sp
    decide (x.phase = .run) && (!bit1 y.frozen 0 || decide (y.seqFrozenAt = x.ccyc)) &&
      ((y.calActive.acting y.calFrom x.ccyc).any (fun e => e.1.tile == tile && e.1.port == 4 && !e.1.local_)
        || s.core.writeBacks.any (fun w => decide (w.tile = tile) && decide (w.at_ = x.ccyc)))

/-- A packet bound to tiles reaches them: its next flit lands where every tile has room for it (R326) and has taken no other
flit nor scheduled data in the present ccyc, since a router port moves 128 B a ccyc into its tile (R171); the rest wait. -/
def State.landPacket (s : State) (sp u : Nat) (x : Xfer) (r : Req) : State :=
  let items := r.landing sp u x.id
  let len := items.foldl (fun a l => a + l.bytes.length) 0
  let room := r.tiles.foldl (fun m t => min m (4096 - s.landed t)) 4096
  let upto := min len (r.landed + 128)
  if room < 128 ∨ upto = r.landed ∨ r.tiles.any (fun t => s.core.ports.contains t || s.portReserved t) then s
  else
    let add := cutItems items r.landed upto
    let s1 := s.onCore (fun c => { c with landing := r.tiles.foldl (fun m t => Tbl.put [] t (Tbl.get [] t m ++ add) m) c.landing, ports := r.tiles ++ c.ports })
    s1.onReq sp u x.id r.id (fun q => if upto < len then { q with landed := upto } else { q with landed := upto, phase := .landing, left := q.tiles })

/-- The data of a list or metadata read has reached its engine (R265, R270). -/
def State.engineData (s : State) (sp u : Nat) (x : Xfer) (r : Req) : State :=
  let s1 := s.onReq sp u x.id r.id (fun q => { q with phase := .done })
  if r.kind = .hold then s1.onSpire sp (fun y => y.onXfer u x.id (fun t => { t with held := Tbl.putRun 0#8 r.far r.bytes t.held }))
  else
    let base := (s.cfg.window x.part (Desc.window x.desc)).addr 0
    let es := parseEntries sp x r base
    let s2 := s1.onSpire sp (fun y => y.onXfer u x.id (fun t =>
      ({ t with listLater := Tbl.put [] (r.far / 256 - (base + Desc.listBase x.desc x.sel) / 256) es.1 t.listLater }).takeBlocks (t.listLater.length + 1)))
    if es.2 then s2.freeze sp (u + 1) 7 x.index 0 else s2

/-- A whole packet of a request reaches its end (R326, R330): data bound to a gateway or an engine is delivered, data bound
to tiles lands where the tiles are its partition's, and anything else is a delivery violation. -/
def State.deliver (s : State) (sp u : Nat) (x : Xfer) (r : Req) : State :=
  if r.kind = .write then s.onReq sp u x.id r.id (fun q => { q with phase := .far })
  else if r.kind = .spanOut then s.spanPacket sp u x r
  else if r.tiles.any (fun t => decide (s.owner (spireOfTile t) ≠ some x.part)) then
    ((s.onCore (fun c => { c with mesh := { c.mesh with delivery := sat32 c.mesh.delivery 1 } })).endReq sp u x.id r.id).freeze sp (u + 1) 5 x.index 0
  else if x.stopped ∧ r.kind ≠ .remote then s.endReq sp u x.id r.id
  else if r.kind = .list ∨ (r.kind = .hold ∧ Desc.kind x.desc ≠ 3) then s.engineData sp u x r
  else if r.kind = .hold then
    let t := r.tiles.headD 0
    (s.readTiles (spireOfTile t) [(t, r.far, r.len)]).engineData sp u x { r with bytes := s.readBefore (s.countOf sp + 1) t r.far r.len }
  else s.landPacket sp u x r

/-- Whether the tile that a REMOTE transfer with HOLD reads its metadata from (R270) has the banks of it free in the present ccyc
(R148); any other packet reads no tile. -/
def State.heldFits (s : State) (x : Xfer) (r : Req) : Bool :=
  let t := r.tiles.headD 0
  r.kind != .hold || Desc.kind x.desc != 3 || s.banksFree (spireOfTile t) t r.far r.len

/-- ARBITRATED_PACKET (R326, R330, R335, R337): a packet of a request, its data or on virtual channel 3 the request itself or
its acknowledgement, reaches its last router. It is delivered, or discarded as a delivery violation or an uncorrectable packet; while a
destination's landing buffer has no room, a bank it reads is in use (R148), or an earlier packet of the same way is still under way (R329), it waits. -/
def execArbitratedPacket (sp : Fin 16) (unit : Fin 5) (xfer req : Nat) (fault : PacketFault) (s : State) : Outcome State Fault Refusal :=
  match s.findReq sp.val unit.val xfer req with
  | none => .next s
  | some (x, r) =>
    if r.phase = .landing ∨ r.phase = .lost ∨ (r.phase = .done ∧ !r.acknowledged) then .next s
    else
      let (id, s) := s.takeFree
      let addr := if r.kind = .hold ∧ Desc.kind x.desc = 3 then sramAperture (r.tiles.headD 0) r.far else r.errorAddr id
      let mesh (f : MeshCtr → MeshCtr) : State := s.onCore (fun c => { c with mesh := f c.mesh })
      let discarded : State := mesh (fun m => { m with ue := sat32 m.ue 1 })
      match fault with
      | .data => .next ((discarded.endReq sp.val unit.val xfer req).freeze sp.val (unit.val + 1) 0x0A addr addr)
      | .engine => .next ((discarded.endReq sp.val unit.val xfer req).freezeAll x.part 0x0A addr addr)
      | .tag router => .next ((discarded.onReq sp.val unit.val xfer req (fun q => { q with phase := .lost })).event 0x0205 3 none router.val)
      | .corrected words => .next ((fun t : State => if r.phase ≠ .mesh ∨ t.overtakes sp.val unit.val r ∨ !t.heldFits x r then t else t.deliver sp.val unit.val x r)
          (mesh (fun m => { m with ce := sat32 m.ce words })))
      | .none => .next (if r.phase ≠ .mesh ∨ s.overtakes sp.val unit.val r ∨ !s.heldFits x r then s else s.deliver sp.val unit.val x r)

/-- What a drain finds in the landing buffer (R624, R625): single-bit errors are counted; an uncorrectable word is counted, is
delivered as read, which is free, and freezes the Spire of the tile. `n` bytes drain to `a`. -/
def State.landingErrors (s : State) (tile a n : Nat) (bs : List Byte) (e : LineErr) : State × List Byte :=
  let line := a - a % 64
  let meets (k : Fin 8) : Bool := decide (a < line + 8 * k.val + 8) && decide (line + 8 * k.val < a + n)
  let ue := e.double.eraseDups.filter meets
  let ce := (e.single.eraseDups.filter meets).filter (fun k => !ue.contains k)
  let sp := spireOfTile tile
  let s1 := s.onCtr sp (fun c => { c with sramCe := sat32 c.sramCe ce.length, sramUe := sat32 c.sramUe ue.length })
  match ue with
  | [] => (s1, bs)
  | k :: _ =>
    let (id, s2) := s1.takeFree
    let addr := sramAperture tile (line + 8 * k.val)
    (s2.freeze sp 0 0x0A addr addr, bs.zipIdx.map (fun b => if ue.any (fun k => decide (k.val = (a + b.2) % 64 / 8)) then Config.meshByte id b.2 else b.1))

/-- DMA_REQUEST_COMPLETE (R252): a request whose bytes are complete ends; its transfer may issue another. Acknowledgements of one
gateway come in the order they were sent (R329). -/
def execDmaRequestComplete (sp : Fin 16) (unit : Fin 4) (xfer req : Nat) (s : State) : Outcome State Fault Refusal :=
  match s.findReq sp.val unit.val xfer req with
  | none => .next s
  | some (_, r) => if r.phase = .done ∧ !s.acksAhead sp.val unit.val r then .next (s.endReq sp.val unit.val xfer req) else .next s

/-! Completion (R254, R255) and remote pushes (R225, R275, R280, R528). -/

/-- The gate of a SLOT_FILL with GATE_INC counts up when the transfer completes (R455). -/
def State.gateUp (s : State) (x : Xfer) : State :=
  let g := le x.desc 0x53 1
  if Desc.kind x.desc = 5 ∧ Desc.sub x.desc = 0 ∧ bitOf g 0 then
    s.onPort (Desc.port x.desc) (fun y => y.onLane x.part (fun l =>
      { l with gates := Tbl.put 0 (fieldOf g 4 1) (Tbl.get 0 (fieldOf g 4 1) l.gates + 1) l.gates }))
  else s

/-- Make a transfer's completion push, or leave it waiting (R255). A push that is made completes the transfer (R254): its
gate counts up, and its place is free. -/
def State.completionPush (s : State) (sp u : Nat) (x : Xfer) : State :=
  let d := x.desc
  let leave (t : State) : State := ((t.gateUp x).onSpire sp (fun y => y.dropXfer u x.id)).resume sp
  let h := if Desc.cmode d = 2 then Desc.literal d else x.handle
  if Desc.cmode d = 0 then leave s
  else if Desc.cremote d then
    if x.push = .sent then s
    else
      let (_, s1) := s.sendPush sp (.transfer u x.id) (Desc.cspire d) (Desc.cqueue d) h
      s1.onSpire sp (fun y => y.onXfer u x.id (fun t => { t with push := .sent }))
  else match s.pushLocal sp (Desc.cqueue d) h (s.countOf sp) with
    | some s1 => leave s1
    | none => s.onSpire sp (fun y => y.onXfer u x.id (fun t => { t with push := .waiting }))

/-- Whether every byte of a transfer is complete: for a BULK_WRITE every message has its ACK, and the SIGNAL that RSIG
asks for has too (R469). -/
def Xfer.complete (x : Xfer) : Bool :=
  x.read && !x.stopped && !x.left && x.reqs.isEmpty && x.bulkBuf.isNone && decide (x.bulkOut = 0)
    && (!x.isBulk || !bitOf (le x.desc 0x54 1) 0 || decide (x.bulkSignal = 2))

/-- TRANSFER_COMPLETE (R254): a transfer whose bytes are all complete makes its completion push and leaves its engine. -/
def execTransferComplete (sp : Fin 16) (unit : Fin 4) (xfer : Nat) (s : State) : Outcome State Fault Refusal :=
  match (s.spire sp.val).xfer unit.val xfer with
  | none => .next s
  | some x =>
    if !x.complete then .next s
    else .next (s.completionPush sp.val unit.val x)

/-- The waiting push's own change of phase. -/
def State.setPushPhase (s : State) (id : Nat) (ph : PushPhase) : State :=
  s.onCore fun c => { c with pushes := c.pushes.map (fun v => if v.id = id then { v with phase := ph } else v) }

/-- The master a remote push to another partition freezes (R528): the one that sent it, which is the engine or the Lantern
path whose transfer makes a completion push, and the Lantern path for a push of a command. -/
def State.freezePusher (s : State) (w : RemotePush) : State :=
  match w.origin with
  | .transfer u id =>
    let index := match (s.spire w.src).xfer u id with
      | some x => x.index
      | none => 0
    s.freeze w.src (u + 1) 5 index 0
  | _ => s.freeze w.src 5 5 0 0

/-- Whether an earlier Lantern-class message from one Spire to another has not arrived (R340): a push, an acknowledgement of one,
or the data of a Lantern transfer to its tiles, sent before the message numbered `id`. -/
def State.lanternAhead (s : State) (src dst id : Nat) : Bool :=
  s.core.pushes.any (fun w => (decide (w.phase = .flying) && decide (w.src = src) && decide (w.dst = dst) && decide (w.id < id))
      || (decide (w.phase = .taken) && decide (w.dst = src) && decide (w.src = dst) && decide (w.ack < id)))
    || ((s.spire src).unit 4).any (fun x => decide (Desc.lmode x.desc = 0) && decide (Desc.lanternSpire x.desc = dst)
        && x.reqs.any (fun r => decide (r.id < id)))

/-- Whether an earlier Lantern-class message of the way that the acknowledgement of a push takes has not arrived (R225, R340). -/
def State.ackAhead (s : State) (w : RemotePush) : Bool := s.lanternAhead w.dst w.src w.ack

/-- REMOTE_PUSH_ARRIVE (R225, R280, R528): a remote push reaches its target queue: accepted, discarded when stale,
waiting when the queue is full, never before an earlier message of the same way (R340); or discarded with its master frozen when the Spire is another partition's. -/
def execRemotePushArrive (id : Nat) (s : State) : Outcome State Fault Refusal :=
  match s.core.pushes.find? (fun w => decide (w.id = id)) with
  | none => .next s
  | some w =>
    if w.phase ≠ .flying ∨ s.lanternAhead w.src w.dst id then .next s
    else if s.owner w.dst ≠ some w.part then
      let s1 := s.onCore (fun c => { c with pushes := c.pushes.filter (fun v => decide (v.id ≠ id)), mesh := { c.mesh with delivery := sat32 c.mesh.delivery 1 } })
      .next (s1.freezePusher w)
    else match s.pushLocal w.dst w.queue w.handle (s.countOf w.dst) with
      | some s1 => .next ((s1.takePush id).resume w.dst)
      | none => .next (s.setPushPhase id .waiting)

/-- REMOTE_PUSH_ACKNOWLEDGEMENT (R225, R254): the target's acknowledgement returns, never before an earlier one of the same
way (R340), and the waiting HQ_PUT command passes, or the completion push counts as made. A frozen Spire's contexts stay as
they are (R538). DESIGN CHOICE beside R185 (log 42): an HQ_PUT_E whose context has been switched away passes as its
acknowledgement comes, with no turn of its context and no switch. -/
def execRemotePushAcknowledgement (id : Nat) (s : State) : Outcome State Fault Refusal :=
  match s.core.pushes.find? (fun w => decide (w.id = id)) with
  | none => .next s
  | some w =>
    if w.phase ≠ .taken ∨ s.ackAhead w then .next s
    else
      let s1 := s.onCore (fun c => { c with pushes := c.pushes.filter (fun v => decide (v.id ≠ id)) })
      let t := s.countOf w.src
      let pod := (s.planOf w.src).pod
      let x := s1.spire w.src
      match w.origin with
      | .fetch c =>
        if (x.ctx c).pushF = some id ∧ !s.seqFrozen w.src then
          .next ((s1.setSpire w.src (x.putPassed c t)).resume w.src)
        else .next s1
      | .execute c =>
        if (x.ctx c).pushE = some id ∧ !s.seqFrozen w.src then
          .next ((s1.setSpire w.src (x.onCtx c (fun k => k.pass pod t t))).resume w.src)
        else .next s1
      | .transfer u xid => .next ((((x.xfer u xid).elim s1 s1.gateUp).onSpire w.src (fun y => y.dropXfer u xid)).resume w.src)
      | .spanRx => .next s1

/-! The Lantern path (R273, R274). -/

/-- The destination of a Lantern transfer, for the order of R274: a tile, or a window. -/
def lanternDest (x : Xfer) : Nat × Nat :=
  if Desc.lmode x.desc = 1 then (0, Desc.window x.desc) else (1, tileOf (Desc.lanternSpire x.desc) (le x.desc 0x53 1))

/-- The tile and the address that a Lantern transfer from a tile reads. -/
def lanternSource (sp : Nat) (x : Xfer) : Nat × Nat :=
  (tileOf sp (le x.desc 0x51 1), le x.desc 0x54 4 + (if Desc.lmode x.desc = 2 then 0 else fld x.handle 19 0 * Desc.hstride x.desc))

/-- The tile and the address that a Lantern transfer to a tile writes. -/
def lanternTarget (x : Xfer) : Nat × Nat :=
  (tileOf (Desc.lanternSpire x.desc) (le x.desc 0x53 1), le x.desc 0x58 4 + (if Desc.lmode x.desc = 2 then fld x.handle 19 0 * Desc.hstride x.desc else 0))

/-- Whether a Lantern transfer reaches a Spire of another partition (R528). -/
def State.lanternForeign (s : State) (x : Xfer) : Bool :=
  Desc.lmode x.desc != 1 && decide (s.owner (Desc.lanternSpire x.desc) ≠ some x.part)

/-- Whether a Lantern transfer finds the banks that it reads and writes free in the present ccyc (R148; DESIGN CHOICE, log 8). -/
def State.lanternFits (s : State) (sp : Nat) (x : Xfer) : Bool :=
  (Desc.lmode x.desc == 2 || s.banksFree sp (lanternSource sp x).1 (lanternSource sp x).2 (Desc.lanternLen x.desc))
    && (Desc.lmode x.desc == 1 || s.banksFree (Desc.lanternSpire x.desc) (lanternTarget x).1 (lanternTarget x).2 (Desc.lanternLen x.desc))

/-- The effect of a Lantern transfer on memory: the state, or the freeze that R526, R528 or R355 makes of it. DESIGN CHOICE beside
R273 (log 42): a transfer that its handle term makes cross a 64 B boundary, which Table 7-9 checks with h = 0 alone, moves its
bytes across it. DESIGN CHOICE beside R152 (log 42): its data is written into the SRAM of its tile with no passage through a landing
buffer, which the spec names for arbitrated traffic at the router port. -/
def State.lanternMove (s : State) (sp : Nat) (x : Xfer) (bad : Bool) : State × Bool :=
  let d := x.desc
  let n := Desc.lanternLen d
  let (srcTile, srcA) := lanternSource sp x
  let (dstTile, dstA) := lanternTarget x
  let w := s.cfg.window x.part (Desc.window d)
  let off := Desc.farBase d + Desc.csFarTerm d x.sel
  let banks (t : State) (sp tile a : Nat) : State := t.useBanks sp .arbitrated [(tile, a, n)]
  if s.lanternForeign x then ((s.onCore (fun c => { c with mesh := { c.mesh with delivery := sat32 c.mesh.delivery 1 } })).freeze sp 5 5 x.index 0, false)
  else if Desc.lmode d = 0 then
    ((banks (s.readTiles sp [(srcTile, srcA, n)]) (Desc.lanternSpire d) dstTile dstA).tileWrite dstTile dstA
      (s.readBefore (s.countOf sp + 1) srcTile srcA n), true)
  else if !windowPasses w (Desc.lmode d == 1) off n then (s.windowViolation sp 4 x off, false)
  else
    let a := w.addr off
    let s1 := s.hbmSpoil (if bad then some a else none)
    if Desc.lmode d = 1 then
      match s1.badPartial a n with
      | some b => ((s1.countUe (s1.badEdges a n)).freeze sp 5 9 b b, false)
      | none => ((s1.readTiles sp [(srcTile, srcA, n)]).hbmWrite a (s.readBefore (s.countOf sp + 1) srcTile srcA n), true)
    else
      match s1.badBurst a n with
      | some b => ((s1.countUe (s1.badIn a n)).freeze sp 5 9 b b, false)
      | none => ((banks s1 (Desc.lanternSpire d) dstTile dstA).tileWrite dstTile dstA (s1.hbmRead a n), true)

/-- The check of R526 on a Lantern transfer: only one with a memory window is checked. -/
def State.lanternPasses (s : State) (x : Xfer) : Bool :=
  Desc.lmode x.desc == 0 || windowPasses (s.cfg.window x.part (Desc.window x.desc)) (Desc.lmode x.desc == 1)
    (Desc.farBase x.desc + Desc.csFarTerm x.desc x.sel) (Desc.lanternLen x.desc)

/-- Lantern transfers of a Spire that may issue do so (R251, R273, R288): each is one message, outstanding until it
completes. One that its window refuses is not issued, and freezes the path (R527). -/
def State.issueLantern (s : State) (sp : Nat) : State :=
  let y := s.spire sp
  let ready := (y.unit 4).filter (fun x => x.read && !x.stopped && decide (x.issued = 0) && decide (x.readyAt ≤ s.countOf sp)
    && !bit1 y.frozen 5 && (!Desc.drain x.desc || y.drained x.order))
  ready.foldl (fun (a : State) x =>
    if bit1 (a.spire sp).frozen 5 then a
    else if !s.lanternPasses x then a.windowViolation sp 4 x (Desc.farBase x.desc + Desc.csFarTerm x.desc x.sel)
    else
    let (id, b) := a.freshId
    let r : Req := { id := id, kind := if Desc.lmode x.desc = 2 then .read else .write, cls := .remote, far := 0, len := Desc.lanternLen x.desc
                     tiles := [], pieces := [], bytes := [], phase := .far }
    b.onSpire sp (fun z => z.onXfer 4 x.id (fun t => { t with issued := 1, reqs := [r] }))) s

/-- Whether the memory side of a Lantern transfer takes its message now: tiles of a Spire that is not frozen, whose SRAM
stays as it is until the reset (R538); a window of HBM that accepts writes (Table 9-3). DESIGN CHOICE (log 42): a message to a
frozen Spire waits for the reset. -/
def State.lanternMay (s : State) (x : Xfer) : Bool :=
  if Desc.lmode x.desc = 1 then s.core.hbmMode == .running
  else !s.seqFrozen (Desc.lanternSpire x.desc) || decide ((s.part x.part).reset ≠ .none)

/-- The device address a Lantern transfer reads or writes in HBM. -/
def State.lanternAddr (s : State) (x : Xfer) : Nat :=
  (s.cfg.window x.part (Desc.window x.desc)).addr (Desc.farBase x.desc + Desc.csFarTerm x.desc x.sel)

/-- The place a Lantern transfer to a window takes in the write queue of its controller, where there is one (R349, R350). -/
def State.lanternEnter (s : State) (x : Xfer) : Option State :=
  if Desc.lmode x.desc = 1 then s.enterWrite (s.lanternAddr x) else some s

/-- LANTERN_COMPLETE (R274): the message of a Lantern transfer arrives, in the order of issue to its destination, and the
transfer makes its completion push. One that reaches a Spire of another partition is discarded, whatever holds that Spire (R528).
One that was stopped meanwhile, or that its own read stops, still writes what it has sent, drops what it reads,
and pushes nothing (R290). It waits while a bank it reads or writes is in use (R148). A write to a window waits for a place in its controller's queue (R349). -/
def execLanternComplete (sp : Fin 16) (xfer : Nat) (bad : Bool) (upsets : List Upset) (s : State) (bursts : BurstRec := {}) :
    Outcome State Fault Refusal :=
  let s := s.issueLantern sp.val
  let y := s.spire sp.val
  match y.xfer 4 xfer with
  | none => .next s
  | some x =>
    if x.push = .sent then .next s
    else if x.push = .waiting then .next (s.completionPush sp.val 4 x)
    else match x.reqs with
      | [] => .next s
      | r :: _ =>
        if (y.unit 4).any (fun t => decide (t.order < x.order) && (!t.read || decide (lanternDest t = lanternDest x)) && decide (t.push = .none))
            ∨ (Desc.lmode x.desc = 0 ∧ s.lanternAhead sp.val (Desc.lanternSpire x.desc) r.id) then .next s
        else if x.stopped ∧ r.kind = .read then .next (s.endReq sp.val 4 xfer r.id)
        else if !s.lanternForeign x ∧ (!s.lanternMay x ∨ !s.lanternFits sp.val x) then .next s
        else match s.lanternEnter x with
          | none => .next s
          | some s0 =>
            let s1 := if Desc.lmode x.desc = 0 then s0 else s0.countBursts (s0.lanternAddr x) bursts
            let m := (s1.upset upsets).lanternMove sp.val x bad
            let t := m.1.endReq sp.val 4 xfer r.id
            .next (if m.2 ∧ ((m.1.spire sp.val).xfer 4 xfer).any (fun y => !y.stopped) then t.completionPush sp.val 4 x else t)

end Sys2Proof.Machine
end

