-- ==== Sys2Proof/Machine/Mesh.lean ====
section
/-! DEFINITION. Link calendars and scheduled traffic (R306 to R321, R331 to R336), calendar loads (R220 to R222, R315)
and the Mantle's retransmissions (R627). -/

namespace Sys2Proof.Machine

open Host (Outcome)

/-! Calendar sets as they lie in HBM (Tables 8-1 and 8-2). -/

/-- A calendar entry of eight bytes. -/
def calEntryOf (tile port v : Nat) : CalEntry :=
  { tile := tile, port := port, cyc := fieldOf v 15 0, srcA := fieldOf v 18 16, srcB := fieldOf v 21 19, red := fieldOf v 23 22
    addr := fieldOf v 41 24, len := fieldOf v 48 42 + 1, step := 16 * fieldOf v 59 49 }

/-- The entries of `n` port blocks that stand one after the other (R308), and the bytes they take. -/
def calBlocks : Nat → List Byte → List CalEntry × Nat
  | 0, _ => ([], 0)
  | n + 1, bs =>
    let h := leNat (bs.take 4)
    let k := fieldOf h 24 16
    let es := (List.range k).map (fun i => calEntryOf (fieldOf h 11 0) (fieldOf h 14 12) (leNat ((bs.drop (4 + 8 * i)).take 8)))
    let rest := calBlocks n (bs.drop (4 + 8 * k))
    (es ++ rest.1, 4 + 8 * k + rest.2)

/-- A calendar set's place in the plan (R198): offset and length. -/
def State.calPlace (s : State) (plan : Plan) (cal : Nat) : Nat × Nat :=
  let b := s.hbmRead (plan.base + plan.calTable + 8 * cal) 8
  (leNat (b.take 4), leNat (b.drop 4))

/-- The blocks of one Spire in a calendar set of a plan, and where they lie: address and bytes. -/
def State.calSetOf (s : State) (plan : Plan) (sp cal : Nat) : CalSet × Nat × Nat :=
  let place := s.calPlace plan cal
  let bs := s.hbmRead (plan.base + place.1) place.2
  let f := leNat ((bs.drop (0x10 + 8 * sp)).take 8)
  let off := fieldOf f 31 0
  let r := calBlocks (fieldOf f 42 32) (bs.drop off)
  ({ period := leNat (bs.take 2) + 1, rep := leNat ((bs.drop 4).take 4), entries := r.1 }, plan.base + place.1 + off, r.2)

/-! Calendar loads. -/

/-- Make a Spire's loaded set the active one from a count on (R310). -/
def Spire.activate (x : Spire) (set : CalSet) (count : Nat) : Spire :=
  { x with calActive := set, calFrom := count, calShadow := none }

/-- The reads a calendar load makes through the Belfry (R308): the set's header and table, then the Spire's own blocks,
`len` bytes from `at_`. The first uncorrectable burst met, if any. -/
def State.calFetch (s : State) (h head at_ len : Nat) : Option Nat × State :=
  let r := s.belfryRead h head 144
  if r.1.isSome ∨ len = 0 then r else r.2.belfryRead h at_ len

/-- A loaded set waits for its count, or, when the load is late, becomes active at once and is counted; the first of a
tick in a Spire is logged (R220, R221, R315). -/
def State.calLoaded (s : State) (p sp : Nat) (l : CalLoad) (set : CalSet) : State :=
  let count := (s.part p).ccyc
  if count ≤ l.at_ then s.onSpire sp (fun y => { y with calShadow := some { l with set := some set } })
  else
    let s1 := (s.onSpire sp (fun y => { y.activate set count with
      calLateLogged := true, ctr := { y.ctr with calLate := sat32 y.ctr.calLate 1 } })).resume sp
    if (s.spire sp).calLateLogged then s1 else s1.event 0x0202 2 (some p) (sp + l.cal * 2 ^ 4)

/-- CAL_LOAD_COMPLETE (R220, R221, R315): the set of a CAL_LOAD has been read into the SHADOW banks. While a line of it waits
on a fill the load has not completed (R370). -/
def execCalLoadComplete (sp : Fin 16) (bad : Option Nat) (s : State) (cups : List CupolaUpset := [])
    (bursts : List (Nat × BurstRec) := []) : Outcome State Fault Refusal :=
  match s.owner sp.val, (s.spire sp.val).calShadow with
  | some p, some l =>
    if l.set.isSome ∨ (s.part p).phase ≠ .run ∨ bit1 (s.spire sp.val).frozen 0 then .next s
    else
      let plan := (s.part p).plan
      let head := plan.base + (s.calPlace plan l.cal).1
      let s1 := (s.hbmSpoil bad).strike cups
      let r := s1.calSetOf plan sp.val l.cal
      if s1.belfryWaits (halfOf sp.val) head 144 ∨ (r.2.2 ≠ 0 ∧ s1.belfryWaits (halfOf sp.val) r.2.1 r.2.2) then .next s
      else match (s1.countEach bursts).calFetch (halfOf sp.val) head r.2.1 r.2.2 with
      | (some b, s2) => .next (s2.freeze sp.val 0 9 b b)
      | (none, s2) => .next (s2.calLoaded p sp.val l r.1)
  | _, _ => .next s

/-- CAL_ACTIVATE (R220, R310): the sets loaded for a count that has been reached become active. -/
def execCalActivate (p : Fin 16) (s : State) : Outcome State Fault Refusal :=
  let count := (s.part p.val).ccyc
  if (s.part p.val).phase ≠ .run then .next s
  else .next ((s.planSpires p.val).foldl (fun (a : State) sp =>
    let x := a.spire sp
    match x.calShadow with
    | some ⟨_, at_, some set⟩ =>
      if at_ ≤ count ∧ !bit1 x.frozen 0 then (a.setSpire sp (x.activate set at_)).resume sp else a
    | _ => a) s)

/-! Entries. -/

/-- The neighbour an output port leads to, and the input port there (R302). -/
def neighbour (tile port : Nat) : Nat × Nat :=
  match port with
  | 0 => (tile - 64, 2)
  | 1 => (tile + 1, 3)
  | 2 => (tile + 64, 0)
  | _ => (tile - 1, 1)

/-- Whether an output port leads onto a Seam wire (R303). -/
def onSeam (tile port : Nat) : Bool := (tile % 64 == 31 && port == 1) || (tile % 64 == 32 && port == 3)

/-- The key of an input register's first byte. -/
def inputKey (tile port : Nat) : Nat := (tile * 4 + port) * 128

/-- The bytes an input register gives (R313, R314): those that have come, and past them its earlier contents. The register of
a Seam input has 32 B (R332), and what is taken past them is garbage of the free number `id`. -/
def State.inputRead (s : State) (id tile port n : Nat) : List Byte :=
  let key := inputKey tile port
  if onSeam tile port then Tbl.getRun 0#8 s.core.inputs key (min n 32) ++ (List.range (n - 32)).map (fun i => Config.meshByte id (key + 32 + i))
  else Tbl.getRun 0#8 s.core.inputs key n

/-- The bytes of an operand of an entry. -/
def State.operand (s : State) (count id tile src addr n : Nat) : List Byte :=
  if src = 0 then s.readBefore count tile addr n else s.inputRead id tile (src - 1) n

/-- The sum of two operands (R319, R320). -/
def reduceBytes (red : Nat) (a b : List Byte) : List Byte :=
  if red = 1 then
    ((piecesOf a.length 4 a).zip (piecesOf b.length 4 b)).flatMap
      (fun q => leBytes 4 (fadd (BitVec.ofNat 32 (leNat q.1)) (BitVec.ofNat 32 (leNat q.2))).toNat)
  else
    ((piecesOf a.length 2 a).zip (piecesOf b.length 2 b)).flatMap
      (fun q => leBytes 2 (Elem.bf16.convert (Val.sum [Elem.bf16.decode (leNat q.1), Elem.bf16.decode (leNat q.2)])).code)

/-- What an entry sends or writes. -/
def State.entryBytes (s : State) (count id : Nat) (e : CalEntry × Nat) : List Byte :=
  let a := s.operand count id e.1.tile e.1.srcA e.2 e.1.len
  if e.1.red = 0 then a else reduceBytes e.1.red a (s.operand count id e.1.tile e.1.srcB e.2 e.1.len)

/-- Bank meetings of scheduled accesses of one ccyc in a tile (R149): banks that more than one of them reaches. -/
def meetings (accesses : List (Nat × Nat)) : Nat :=
  let banks := accesses.flatMap (fun a => banksOf a.1 a.2)
  ((List.range 8).filter (fun b => decide (1 < banks.count b))).length

/-- Whether a datum has arrived at a router of a partition by a count. -/
def State.arrived (s : State) (p count : Nat) (a : Arrival) : Bool :=
  decide (s.owner (spireOfTile a.tile) = some p) && decide (a.at_ ≤ count)

/-- Data that comes uncorrectable at some inputs is delivered as received, which is not what was sent (R336): garbage. -/
def State.corrupt (s : State) (p count id : Nat) (broken : List (Fin 4096 × Fin 4)) : State :=
  s.onCore fun c => { c with arrivals := c.arrivals.map (fun a =>
    if s.arrived p count a ∧ broken.any (fun b => decide (b.1.val = a.tile) && decide (b.2.val = a.port)) then
      { a with bytes := (List.range a.bytes.length).map (fun i => Config.meshByte id (inputKey a.tile a.port + i)) }
    else a) }

/-- Arrivals that have come by a count go into their input registers (R313). -/
def State.takeArrivals (s : State) (p count : Nat) : State :=
  let due := s.core.arrivals.filter (s.arrived p count)
  s.onCore fun c => { c with inputs := due.foldl (fun m a => Tbl.putRun 0#8 (inputKey a.tile a.port) a.bytes m) c.inputs }

/-- The effect of one entry: data driven onto a link, or a write that the ccyc of the entry or the next one makes. A Seam
wire carries the first 32 B (R332). -/
def State.actEntry (s : State) (sp count id : Nat) (view : State) (e : CalEntry × Nat) : State :=
  let bs := view.entryBytes count id e
  s.onCore fun c =>
    if e.1.port = 4 then
      { c with writeBacks := c.writeBacks ++ [⟨sp, e.1.tile, e.2, if e.1.local_ then count + 1 else count, bs⟩] }
    else
      let n := neighbour e.1.tile e.1.port
      let seam := onSeam e.1.tile e.1.port
      { c with arrivals := c.arrivals ++ [⟨n.1, n.2, if seam then count + 3 else count + 1, if seam then bs.take 32 else bs⟩] }

/-- The address R750 names for uncorrectable scheduled data at an input. -/
def brokenAddr (es : List (CalEntry × Nat)) (tile port : Nat) : Nat :=
  match es.find? (fun e => decide (e.1.tile = tile) && e.1.port == 4 && (e.1.srcA == port + 1 || (e.1.red != 0 && e.1.srcB == port + 1))) with
  | some e => sramAperture tile e.1.addr
  | none => sramAperture tile 0

/-- Where two scheduled writes of one ccyc overlap, each byte holds one of the two values (R149). -/
def State.schedWrite (s : State) (earlier : List WriteBack) (w : WriteBack) : State :=
  let hit (i : Nat) : Bool := earlier.any (fun v => decide (v.tile = w.tile) && decide (v.at_ = w.at_)
    && decide ((w.addr + i + 0x40000 - v.addr) % 0x40000 < v.bytes.length))
  if (List.range w.bytes.length).any hit then
    let (id, s1) := s.takeFree
    s1.tileWrite w.tile w.addr (w.bytes.zipIdx.map (fun b =>
      if hit b.2 ∧ Config.keepsEarlier (id * 128 + b.2) then s1.sramByte w.tile (w.addr + b.2) else b.1))
  else s.tileWrite w.tile w.addr w.bytes

/-- The scheduled writes of a partition's Spires that its present ccyc makes reach the SRAM as that ccyc ends. -/
def State.landScheduled (s : State) (p : Nat) : State :=
  let count := (s.part p).ccyc
  let mine (w : WriteBack) : Bool := decide (s.owner w.spire = some p) && decide (w.at_ ≤ count)
  let due := s.core.writeBacks.filter mine
  if due.isEmpty then s
  else
    let s1 := s.onCore (fun c => { c with writeBacks := c.writeBacks.filter (fun w => !mine w) })
    (due.foldl (fun (a : State × List WriteBack) w => (a.1.schedWrite a.2 w, a.2 ++ [w])) (s1, [])).1

/-- Whether data in a landing buffer is discarded (R49, R290): it was read by a transfer that has been stopped. DESIGN CHOICE
beside R290 (log 42): it leaves the buffer as it would drain, and is not written. -/
def State.dropsLanded (s : State) (l : Landed) : Bool := match (s.spire l.spire).xfer l.unit l.xfer with
  | none => true
  | some x => x.stopped && Desc.dataKind x.desc != .remote

/-- LANDING_BUFFER_DRAIN (R152, R153, R625): the oldest data of a tile's landing buffer drains into SRAM, up to the end of its
64 B line, in a ccyc in which no other access uses the bank; what a stopped transfer has read is discarded (R290). A request is
complete when its last byte has drained. -/
def execLandingBufferDrain (tile : Fin 4096) (s : State) (errs : LineErr := {}) : Outcome State Fault Refusal :=
  match Tbl.get [] tile.val s.core.landing with
  | [] => .next s
  | l :: rest =>
    let at_ := spireOfTile tile.val
    let n := min l.bytes.length (64 - l.taddr % 64)
    let drops := s.dropsLanded l
    if !drops && !s.banksFree at_ tile.val l.taddr n then .next s
    else
      let f := s.landingErrors tile.val l.taddr n (l.bytes.take n) errs
      let s1 := if drops then s else (f.1.tileWrite tile.val l.taddr f.2).useBanks at_ .drain [(tile.val, l.taddr, n)]
      let left := if n < l.bytes.length then { l with taddr := l.taddr + n, bytes := l.bytes.drop n } :: rest else rest
      let s2 := s1.onCore (fun c => { c with landing := Tbl.put [] tile.val left c.landing })
      if left.any (fun m => decide (m.spire = l.spire) && decide (m.unit = l.unit) && decide (m.xfer = l.xfer) && decide (m.req = l.req)) then .next s2
      else .next (s2.onReq l.spire l.unit l.xfer l.req (fun q =>
        let t := q.left.filter (· ≠ tile.val)
        { q with left := t, phase := if t.isEmpty ∧ q.phase = .landing then .done else q.phase }))

/-- MANTLE_RETRANSMIT (R627): a message with an uncorrectable word is sent again over its hop. -/
def execMantleRetransmit (s : State) : Outcome State Fault Refusal :=
  .next (s.onCore (fun c => { c with mesh := { c.mesh with mantleRetry := sat32 c.mesh.mantleRetry 1 } }))

end Sys2Proof.Machine
end

