-- ==== Sys2Proof/Machine/Publish.lean ====
section
/-! DEFINITION. What a tick leaves behind and what it starts from: temperature against the thresholds (R606), tick status
records (R45, R506, R507), ingest frames and manifests (R501 to R505), the opening of a run window (R178, R222, R245,
R279, R313, R452, R748), drains (R289, R292) and the stall conditions (R293, R294). -/

namespace Sys2Proof.Machine

open Host (Outcome)

/-! Span ports. -/

/-- Whether a port no longer fits the programs of its partitions (R483): it is down, narrower than its plan, or refused as a topology
mismatch, which is treated as a down port. A retrain at the planned width leaves it fit. -/
def State.portUnfit (s : State) (i : Nat) : Bool :=
  let x := s.port i
  x.phase == .down || x.mismatch || decide (x.width < (s.cfg.port i).planWidth)

/-! Temperature (R606, Table 15-4). -/

/-- Die shed and unshed thresholds of a profile. -/
def Profile.dieShed : Profile → Int × Int
  | .pod720 => (95, 89) | _ => (92, 86)
/-- HBM shed and unshed thresholds. -/
def hbmShed : Int × Int := (95, 88)
/-- Whether the device is above the shed threshold. -/
def State.hot (s : State) : Bool :=
  decide (s.power.tj > s.cfg.profile.dieShed.1) || (match s.power.th with
    | some t => decide (t > hbmShed.1)
    | none => false)
/-- Keep when a sample was last not below its unshed threshold. -/
def State.noteSample (s : State) (below : Bool) : State :=
  if below then s else { s with tick := { s.tick with warmAt := some s.time } }
/-- Whether every sample of the last second lay below the unshed thresholds. -/
def State.cool (s : State) : Bool := match s.tick.warmAt with
  | none => true
  | some a => decide (a + 1000000 * unitsPerUs ≤ s.time)
/-- Tj and Th as an event's DETAIL carries them, from a bit on. -/
def State.tempBits (s : State) (lo : Nat) : Nat :=
  let byte (t : Int) : Nat := (t % 256).toNat
  byte s.power.tj * 2 ^ lo + byte (s.power.th.getD (-128)) * 2 ^ (lo + 8)

/-! Window scrubs (R360). -/

/-- Whether a window of a partition is under scrub. -/
def State.underScrub (s : State) (p w : Nat) : Bool := (s.part p).reset == .scrub && (s.part p).scrubs.head? == some w

/-! Status records. -/

/-- The stretch limit in time units (R57). -/
def State.stretchUnits (s : State) : Nat :=
  min ((if s.cfg.stretchLimit = 0 then 10 else s.cfg.stretchLimit) * s.periodUnits) (60000000 * unitsPerUs)

/-- The stretch that the tick in progress has had so far, in time units (R55). -/
def State.stretchSoFar (s : State) : Nat := if s.cfg.pod then s.time - (s.tick.decided + s.periodUnits) else 0

/-- The result areas' write bank (R207, R508). -/
def Part.writeBank (x : Part) : Nat := 1 - b2n x.sel

/-- The bytes of a tick status record (Table 12-6). -/
def State.statusRecord (s : State) (p : Nat) (st : TickStatus) (run slackUs : Nat) : List Byte :=
  let x := s.part p
  let body := leBytes 8 s.tickWord ++ leBytes 8 s.tick.stamp ++ leBytes 1 st.code ++ leBytes 1 p
    ++ leBytes 2 (x.roster.getD 0xFFFF) ++ leBytes 4 run ++ leBytes 8 (s.stretchSoFar / unitsPerNs)
    ++ leBytes 1 (if st = .onTime then x.writeBank else 0xFF) ++ leBytes 3 0 ++ leBytes 4 slackUs
    ++ leBytes 4 x.placed ++ leBytes 4 x.discarded ++ leBytes 12 0
  body ++ leBytes 4 (crc32 body)

/-- Count a record of a status (Table 16-6). -/
def PartCtr.add (c : PartCtr) : TickStatus → PartCtr
  | .onTime => { c with onTime := sat32 c.onTime 1 }
  | .late => { c with late := sat32 c.late 1 }
  | .shed => { c with shed := sat32 c.shed 1 }
  | .parked => { c with parked := sat32 c.parked 1 }
  | .frozen => { c with frozen := sat32 c.frozen 1 }
  | .reset => { c with reset := sat32 c.reset 1 }
  | .noRoster => { c with noRoster := sat32 c.noRoster 1 }

/-- Give the record of the tick in progress the stretch the tick has had when its next edge comes (R45, R55). Under a scrub of
its window this access waits too (R360). -/
def State.restretch (s : State) (ns p : Nat) : State :=
  let c := s.pcfg p
  let w := s.cfg.window p c.statusWindow
  let a := w.addr (c.statusOff + 64 * (if c.statusSlots = 0 then 0 else s.tickWord % c.statusSlots))
  let old := s.hbmRead a 60
  let body := old.take 24 ++ leBytes 8 ns ++ old.drop 32
  if leNat ((old.drop 24).take 8) = ns ∨ !(s.part p).published then s
  else if s.underScrub p c.statusWindow then
    s.onPart p (fun x => { x with heldWrites := x.heldWrites ++ [(c.statusWindow, a, body ++ leBytes 4 (crc32 body), none)] })
  else (s.meetSoft a 64).hbmWrite a (body ++ leBytes 4 (crc32 body))

/-- Pod class: whether every partition of this device has published the tick in progress. -/
def State.allPublished (s : State) : Bool := s.definedParts.all (fun p => (s.part p).published)

/-- The DONE record of a tick (Table 11-9). -/
def doneRecord (idle : Bool) (devices tick podId : Nat) : List Byte :=
  leBytes 1 2 ++ leBytes 1 (b2n idle) ++ leBytes 2 devices ++ leBytes 4 0 ++ leBytes 8 tick ++ leBytes 4 podId ++ leBytes 4 0

/-- The devices below this one whose DONE has come, at least one for each downstream port; DEVICES counts them. -/
def State.sendDone (s : State) : State :=
  let t := s.tick
  if s.cfg.pod ∧ t.count.isSome ∧ t.ownDone ∧ !t.doneSent ∧ (portsOf s.cfg.beaconDown).all (fun i => bit1 t.doneFrom i) then
    let s1 := { s with tick := { t with doneSent := true } }
    if s.cfg.follows then
      s1.sendCtrl s.cfg.beaconUp (doneRecord (t.idleReq || t.idleAsked) (t.doneDevices + 1) s.tickWord s.cfg.podId)
    else s1
  else s

/-- Pod class: once every partition of the device has published, the device settles whether it asks for an idle period
(R66, R67), and reports upstream when its children have (R476). -/
def State.closeOwn (s : State) : State :=
  if s.cfg.pod ∧ !s.tick.ownDone ∧ s.allPublished then
    let hot := s.hot
    let s1 := { s with tick := { s.tick with ownDone := true, idleAsked := hot } }
    let s2 := if hot = s.tick.idleAsked then s1 else (s1.event 0x010B 2 none (b2n hot + s1.tempBits 8)).signal pfFn 3
    s2.sendDone
  else s

/-- The three steps of publishing a record (R507): it is written, counted, and signalled. -/
def State.putRecord (s : State) (p a : Nat) (record : List Byte) (st : TickStatus) : State :=
  let s1 := ((s.meetSoft a record.length).hbmWrite a record).onPart p (fun x => { x with
    published := true, statusPi := (x.statusPi + 1) % 2 ^ 32, ctr := x.ctr.add st })
  ((s1.signal p 0).signal pfFn (16 + p)).closeOwn

/-- Publish the record of the tick in progress (R45, R46, R51, R507). A device that has left its pod publishes none
(R478). A record whose window is under scrub waits for the scrub to end (R360); the tick's status is settled all the same. -/
def State.publish (s : State) (p : Nat) (st : TickStatus) (run slackUs : Nat) : State :=
  if s.tick.left then s.onPart p (fun x => { x with published := true })
  else
    let c := s.pcfg p
    let slot := if c.statusSlots = 0 then 0 else s.tickWord % c.statusSlots
    let a := (s.cfg.window p c.statusWindow).addr (c.statusOff + 64 * slot)
    let record := s.statusRecord p st run slackUs
    let s1 := s.onPart p (fun x => { x with last := some st, sel := if st = .onTime then !x.sel else x.sel })
    if s.underScrub p c.statusWindow then
      s1.onPart p (fun x => { x with published := !s.cfg.pod, heldWrites := x.heldWrites ++ [(c.statusWindow, a, record, some st)] })
    else s1.putRecord p a record st

/-- The status records of some ticks that wait for a scrub are dropped: none is published for them (R478, R599, R620). -/
def State.dropRecords (s : State) (of : Nat → Bool) : State :=
  s.definedParts.foldl (fun (a : State) p => a.onPart p (fun x => { x with
    heldWrites := x.heldWrites.filter (fun h => h.2.2.2.isNone || !of (le h.2.2.1 0 8)) })) s

/-! Ingest (R501 to R505). -/

/-- The next consumer index that frames count from: past those of a LATE tick whose drain goes on (R50). -/
def Ring.from_ (r : Ring) : Nat := r.lateTo.getD r.ci

/-- Record the producer index at an edge (R42, R740): frames whose doorbell was not taken before it are left out. -/
def Ring.record (r : Ring) (before : Nat → Bool) : Ring :=
  { r with recorded := (r.pi + 2 ^ 32 - (r.frames.filter (fun f => !before f.at_)).length) % 2 ^ 32 }

/-- The frames of the tick (R503). -/
def Ring.ofTick (r : Ring) : List Frame :=
  r.frames.filter (fun f => decide ((f.seq + 2 ^ 32 - r.from_) % 2 ^ 32 < (r.recorded + 2 ^ 32 - r.from_) % 2 ^ 32))

/-- The frame placed at a position: of those with its source number the latest (R504). -/
def Ring.placedAt (r : Ring) (position : Nat) : Option Frame := (r.ofTick.filter (fun f => decide (f.src = position))).getLast?

/-- Move the consumer index up to a value (R505). -/
def Ring.consume (r : Ring) (upTo : Nat) : Ring :=
  let n := (upTo + 2 ^ 32 - r.ci) % 2 ^ 32
  { r with ci := upTo, frames := r.frames.filter (fun f => decide ((f.seq + 2 ^ 32 - r.ci) % 2 ^ 32 ≥ n)) }

/-- A ring of a partition. -/
def Part.ring (x : Part) (r : Nat) : Ring := Tbl.get {} r x.rings
/-- Change every ring of a partition. -/
def State.onRings (s : State) (p : Nat) (f : Ring → Ring) : State :=
  s.onPart p fun x => { x with rings := (List.range (s.pcfg p).rings.length).foldl (fun t r => Tbl.put {} r (f (Tbl.get {} r t)) t) x.rings }

/-- Consume frames of every ring, and signal INGEST where an index advances. -/
def State.consume (s : State) (p : Nat) (upTo : Ring → Nat) : State :=
  let x := s.part p
  let moves := (List.range (s.pcfg p).rings.length).any (fun r => decide (upTo (x.ring r) ≠ (x.ring r).ci))
  let s1 := s.onRings p (fun r => { r.consume (upTo r) with lateTo := none })
  if moves then s1.signal p 3 else s1

/-- The manifest of a ring (R503): one list entry for each chunk of each position. -/
def manifest (c : RingCfg) (r : Ring) (placement : List Nat) : List Byte :=
  (List.range c.positions).flatMap fun pos =>
    let base := match r.placedAt pos with
      | some f => c.ringOff + f.seq % c.slots * (c.chunks * c.chunk)
      | none => c.fillOff
    (List.range c.chunks).flatMap fun j =>
      let e := placement.getD (pos * c.chunks + j) 0
      leBytes 5 (base + j * c.chunk) ++ leBytes 1 (fieldOf e 7 0) ++ leBytes 2 (c.chunk - 1) ++ leBytes 4 (fieldOf e 25 8) ++ leBytes 4 0

/-- Frames of the tick that are placed. -/
def Ring.placed (c : RingCfg) (r : Ring) : Nat := ((List.range c.positions).filter (fun i => (r.placedAt i).isSome)).length

/-- The ingest work of an edge for one ring: the frames not placed are counted, and the manifest is written where the
roster reads the ring. -/
def State.ingestRing (s : State) (p : Nat) (roster : Option RosterCfg) (i : Nat) (c : RingCfg) : State :=
  let x := s.part p
  let r := x.ring i
  let placed := r.placed c
  let lost := r.ofTick.length - placed
  let s1 := s.setPart p { x with
    placed := x.placed + placed, discarded := x.discarded + lost
    rings := Tbl.put {} i { r with discard := sat32 r.discard lost } x.rings }
  match roster.map (fun q => Tbl.get [] i q.placements) with
  | some (e :: es) =>
    let a := (s.cfg.window p c.window).addr c.manifestOff
    if s.underScrub p c.window then s1.onPart p (fun y => { y with heldWrites := y.heldWrites ++ [(c.window, a, manifest c r (e :: es), none)] })
    else State.ownWrite 2 s1 a (manifest c r (e :: es))
  | _ => s1

/-- The ingest freeze's work for a partition at the edge of its tick (R42, R503, R504, R740). -/
def State.ingest (s : State) (p : Nat) (roster : Option RosterCfg) : State :=
  let s1 := (s.onRings p (fun r => r.record (fun t => s.before t s.tick.lastEdge))).onPart p (fun x => { x with placed := 0, discarded := 0 })
  (s.pcfg p).rings.zipIdx.foldl (fun a c => a.ingestRing p roster c.2 c.1) s1

/-! Run windows. -/

/-- Times of the last count, in the count that starts `age` ccyc into it. -/
def carried (age : Nat) (t : Tbl Nat) : Tbl Nat := (t.map (fun e => (e.1, e.2 - age))).filter (fun e => decide (e.2 ≠ 0))

/-- A Spire as a run window opens on it, `age` ccyc after the last one did: commands started before run their cycles on
(R49, R187), and the circular order of the fetch engine starts at context 0 (DESIGN CHOICE, log 42; R208 says only 'after the
context it read last'); so does that of the execute side, with no switch time, as no context counts as having run in the tick
(DESIGN CHOICE, log 42; R186 says only 'after the context that ran last'). DESIGN CHOICE (log 42): a handle that fills an INIT queue counts as pushed in ccyc 0, so it can be popped from ccyc
1 on; R226 speaks of handles that are pushed. -/
def Spire.opened (x : Spire) (plan : Plan) (sp gen age : Nat) : Spire :=
  match plan.partOf sp with
  | none => { x with
      stopped := false, ctxs := [], running := 8, yielded := false, ranLast := 7, queues := [], arrivals := [], undone := false
      pieceAt := [], packFree := [], loads := [], seqFrozenAt := 2 ^ 48
      calActive := x.calInit, calFrom := 0, calShadow := none }
  | some part =>
    let fill (q : QueueCfg) : List Held :=
      if q.init then
        let pool := part.pools.getD q.pool {}
        (List.range pool.count).map (fun i => ⟨BitVec.ofNat 32 (pool.base + i + gen % 4096 * 2 ^ 20), 0⟩)
      else []
    { x with
      ctxs := (List.range plan.contexts).foldl (fun t c => Tbl.put {} c { pc := part.starts.getD c 0 } t) []
      running := 8, yielded := false, ranLast := 7, switchEnd := 0, readFree := 0, lastRead := 7, macFree := x.macFree - age, vecFree := x.vecFree - age, roFree := x.roFree - age
      startFree := 0, setFinal := carried age x.setFinal, setRead := carried age x.setRead
      finals := (x.finals.filter (fun f => decide (age < f.2))).map (fun f => (f.1, f.2 - age)), spans := []
      queues := part.queues.zipIdx.foldl (fun t q => Tbl.put [] q.2 (fill q.1) t) []
      arrivals := [], shareWindow := 0, usedRead := 0, usedWrite := 0, usedRemote := 0, issueFree := 0
      pieceAt := [], packFree := [], undone := false, loads := [], seqFrozenAt := 2 ^ 48
      calActive := x.calInit, calFrom := 0, calShadow := none, calLateLogged := false, anchorLogged := false
      stopped := false }

/-- The predicates, offsets and input registers of a partition's tiles as a run window opens (R178, R313). -/
def Core.opened (c : Core) (mine : Nat → Bool) : Core :=
  { c with
    preds := c.preds.filter (fun e => !mine (spireOfTile (e.1 / 64)))
    offs := c.offs.filter (fun e => !mine (spireOfTile (e.1 / 64)))
    inputs := c.inputs.filter (fun e => !mine (spireOfTile (e.1 / 512)))
    arrivals := c.arrivals.filter (fun a => !mine (spireOfTile a.tile)) }

/-- A frozen Spire as a run window opens: it keeps what it holds (R538), but its contexts have not closed the new tick (R48,
R535), no barrier has been reached in its run window (R238), and none of its calendar entries acts in it (R343). -/
def Spire.openedFrozen (x : Spire) : Spire :=
  { x with ctxs := x.ctxs.map (fun k => (k.1, { k.2 with eotDone := false })), arrivals := [], seqFrozenAt := 2 ^ 48 }

/-- Open the run window of a partition on the inputs of the tick in progress (R43, R206). A Spire frozen since the edge keeps
what it holds (R538). -/
def State.openWindow (s : State) (p : Nat) : State :=
  let x := s.part p
  let sps := (s.spiresOf p).filter (fun sp => !s.seqFrozen sp)
  let s0 := ((s.spiresOf p).filter s.seqFrozen).foldl (fun (a : State) sp => a.onSpire sp Spire.openedFrozen) s
  let s1 := sps.foldl (fun (a : State) sp => ((a.loadDue sp (2 ^ 49)).settle sp (2 ^ 49)).settleRegs sp (2 ^ 49)) s0
  let s2 := sps.foldl (fun (a : State) sp => a.onSpire sp (fun y => y.opened x.plan sp x.tickNo x.ccyc)) s1
  let s3 := s2.onCore (fun c => c.opened (fun sp => sps.contains sp))
  let s4 := (List.range 8).foldl (fun (a : State) i => a.onPort i (fun y => if (y.lane p).program.isSome then
      y.onLane p (fun l => { l with origin := roundUp y.slot 25, lag := 0, lagLogged := false, txAt := 0, rxAt := 0, gates := [] }) else y)) s3
  let s5 := s4.setPart p { x with phase := .run, ccyc := 0, calNext := 0, windowTick := x.tickNo, stalledSince := none, stalledFor := 0 }
  (sps.foldl (fun (a : State) sp => a.takeWaiting sp) (s5.onCore (fun c => { c with bankUse := [] }))).endWindow p

/-- Open the run window when nothing keeps it shut: the ingest freeze is over, the roster is loaded, and no drain goes
on. -/
def State.tryOpen (s : State) (p : Nat) : State :=
  let x := s.part p
  if x.phase = .waiting ∧ !x.loading ∧ !x.draining ∧ s.tick.frozenUntil.isNone ∧ x.due.isNone ∧ !s.tick.halted then s.openWindow p else s

/-! Stops and drains. -/

/-- Stop the engines of a partition (R49): transfers not started are dropped, the streams read and start nothing, and
scheduled traffic ends (R311). -/
def State.stopEngines (s : State) (p : Nat) : State :=
  ((s.spiresOf p).foldl (fun (a : State) sp => a.onSpire sp (fun y => { y.stopAllUnits with stopped := true })) s).stopCalendars p

/-- Whether nothing that belongs to a partition's transfers is under way. -/
def State.unitsEmpty (s : State) (p : Nat) : Bool :=
  (s.spiresOf p).all (fun sp => [0, 1, 2, 3, 4].all (fun u => ((s.spire sp).unit u).isEmpty))

/-- The end of the drain phase (R289): every transfer that was accepted has completed, so none was stopped, and every push
has been made. -/
def State.drainDone (s : State) (p : Nat) : Bool :=
  s.unitsEmpty p && (s.spiresOf p).all (fun sp => !(s.spire sp).undone) && s.core.pushes.all (fun w => decide (w.part ≠ p))

/-- The end of the drain after a stop (R292): what waits at a full queue stays (R748). -/
def State.stopDrained (s : State) (p : Nat) : Bool :=
  s.unitsEmpty p && s.core.pushes.all (fun w => decide (w.part ≠ p) || decide (w.phase ≠ .flying))

/-! The stall conditions (R293, R294). -/

/-- What the "stalled" event says of a wait at a handle-queue command or a BARRIER (Table 16-4); none for other waits. DESIGN
CHOICE (log 42): a context with nothing queued that waits at a DMA_ISSUE (R250) is not blocked, since R293 names handle-queue
commands and BARRIER only, though an unlabelled passage of chapter 7 calls a partition stalled that waits so. DEDUCED from R180 (log 42): a context that the
span of the command buffer holds back is blocked, and is named with no queue. -/
def CtxWait.word : CtxWait → Option Nat
  | .handle off q => some (off / 16 % 2 ^ 24 + q * 2 ^ 24 + 2 ^ 29)
  | .barrier off b => some (off / 16 % 2 ^ 24 + b * 2 ^ 24 + 2 ^ 28 + 2 ^ 29)
  | .fetch off (some q) => some (off / 16 % 2 ^ 24 + q * 2 ^ 24)
  | .fetch _ none => none
  | .calLoad _ => none
  | .refill => none
  | .span off => some (off / 16 % 2 ^ 24)

/-- Whether a Spire with a part is blocked (R293, R180): it starts no command, and each declared context has reached EOT or waits
at a handle-queue command or a BARRIER, or for the span of the command buffer to reach it. -/
def State.blocked (s : State) (p sp : Nat) : Bool := s.allWait p sp (fun w => w.word.isSome)

/-- Whether the refill of a Spire's command buffer is in flight (R294): a piece that the buffer has room for has not come. -/
def State.refilling (s : State) (p sp : Nat) : Bool :=
  let x := s.spire sp
  match (s.part p).plan.partOf sp with
  | some q => !q.resident && !bit1 x.frozen 0 && decide (x.ringHi < min ((q.len + 1023) / 1024) (x.ringLo + 64))
  | none => false

/-- Whether a transfer is in flight in the sense of R294. DEDUCED (log 42): a BULK_WRITE that waits only for an ACK is. -/
def Spire.moving (y : Spire) (u : Nat) (x : Xfer) : Bool :=
  x.busy || (!bit1 y.frozen (u + 1) && !x.stopped && (match x.push with
    | .none => !x.read || !Desc.drain x.desc || x.released || y.drained x.order
    | _ => false))

/-- Whether a partition is stalled (R294). -/
def State.stalled (s : State) (p : Nat) : Bool :=
  let sps := s.planSpires p
  sps.all (fun sp => s.closed p sp || s.blocked p sp) && sps.any (s.blocked p) && sps.all (fun sp => !s.refilling p sp)
    && (s.spiresOf p).all (fun sp => [0, 1, 2, 3, 4].all (fun u => ((s.spire sp).unit u).all (fun x => !(s.spire sp).moving u x)))
    && s.core.pushes.all (fun w => decide (w.part ≠ p) || decide (w.phase ≠ .flying))

/-- Pod class: since when a partition has stayed stalled (R296). -/
def State.noteStall (s : State) (p : Nat) : State :=
  let x := s.part p
  if !s.cfg.pod then s
  else if x.phase = .run ∧ s.stalled p then s.setPart p { x with stalledSince := some (x.stalledSince.getD s.time) }
  else s.setPart p { x with stalledSince := none, stalledFor := 0 }

/-- Log a "stalled" event for each blocked Spire (R295, Table 16-4). -/
def State.logStalls (s : State) (p : Nat) : State :=
  ((s.planSpires p).filter (s.blocked p)).foldl (fun (a : State) sp =>
    let waits := (List.range 8).map (fun c => (s.ctxWait p sp c).bind CtxWait.word)
    let mask := waits.zipIdx.foldl (fun m w => m + (if w.1.isSome then 2 ^ w.2 else 0)) 0
    a.event 0x010C 3 (some p) (sp + mask * 2 ^ 8) (some (waits.flatMap (fun w => leBytes 4 (w.getD 0))))) s

end Sys2Proof.Machine
end

