-- ==== Sys2Proof/Machine/Tick.lean ====
section
/-! DEFINITION. The tick (chapter 2): its sources and edges, the phases of a tick in each partition, late ticks, shedding,
stretches and stalls, roster starts (R514 to R517) and PTM. -/

namespace Sys2Proof.Machine

open Host (Outcome)

/-- Whether tick edges are being made. -/
def State.ticking (s : State) : Bool := s.boot.complete && !s.tick.halted && !s.tick.left

/-- A fraction of the period in thousandths, in time units. -/
def State.periodPart (s : State) (thousandths : Nat) : Nat := s.periodUnits * thousandths / 1000

/-- The number of the next tick by the device's own counter. -/
def State.nextTick (s : State) : Nat := match s.tick.count with
  | none => 0
  | some n => n + 1

/-- The BEACON record (Table 11-9); DELAY is filled as it departs, on top of what it has already travelled. -/
def beaconRecord (hops : Nat) (idle : Bool) (root delay16 tick podId : Nat) : List Byte :=
  leBytes 1 1 ++ leBytes 1 hops ++ leBytes 1 (b2n idle) ++ leBytes 1 root ++ leBytes 4 delay16 ++ leBytes 8 tick ++ leBytes 4 podId ++ leBytes 4 0

/-- Decide the next edge at a moment that has come. A tick root sends its beacon and makes its own edge BEACON_DELAY later
(R474); any other device makes the edge at that moment. -/
def State.decideEdge (s : State) (cause : EdgeCause) (idle : Bool) (t0 : Nat) : State :=
  let t := { s.tick with decided := t0, periodDone := false }
  if s.cfg.isRoot then
    let s1 := (portsOf s.cfg.beaconDown).foldl (fun (a : State) i =>
      a.sendCtrl i (beaconRecord 0 idle s.cfg.rootId 0 s.nextTick s.cfg.podId) (some t0)) s
    { s1 with tick := { t with due := some (cause, t0 + s.cfg.beaconDelay * unitsPerNs, idle), heard := s.time } }
  else { s with tick := { t with due := some (cause, t0, idle) } }

/-! Sources (R33 to R36, R583). -/

/-- Pod class, tick root: every device of the pod has published the tick in progress (R54, R476). -/
def State.barrierClosed (s : State) : Bool :=
  s.tick.ownDone && (portsOf s.cfg.beaconDown).all (fun i => bit1 s.tick.doneFrom i) && decide (s.power.shut = .none)

/-- The tick source's period ends at a moment (R38). In store class the next edge is decided; in pod class it is once the
barrier has closed too (R54). Edge 0 of a pod waits for the boot DONE records alone (R584). -/
def State.sourceEdge (s : State) (cause : EdgeCause) (t0 : Nat) : State :=
  if !s.cfg.pod then s.decideEdge cause false t0
  else if s.tick.count.isNone then s
  else if s.barrierClosed then s.decideEdge .root (s.tick.idleAsked || s.tick.idleReq) t0
  else { s with tick := { s.tick with periodDone := true } }

/-- TICK_IN_EDGE (R33, R34, R38): a rising edge makes a tick edge, unless it comes less than 99.5 % of the period after the
previous one, when it is counted. DEDUCED (log 36): the two are compared where they are decided, before BEACON_DELAY; a pod
root whose period has ended already takes no further edge of the pin until it has decided. -/
def execTickInEdge (s : State) : Outcome State Fault Refusal :=
  if !s.ticking ∨ s.cfg.follows ∨ s.cfg.tickSource ≠ .tickIn then .next s
  else if (s.tick.count.isSome ∨ s.tick.due.isSome) ∧ s.time - s.tick.decided < s.periodPart 995 then
    .next { s with tick := { s.tick with early := sat32 s.tick.early 1 } }
  else if s.tick.due.isSome ∨ s.tick.periodDone then .next s
  else
    let s1 := if s.tick.missedRun = 0 then s
      else { s.event 0x0102 1 none (s.tick.missedRun % 2 ^ 32) with tick := { s.tick with missedRun := 0 } }
    .next (s1.sourceEdge .tickIn s.time)

/-- TICK_IN_MISSED (R34, R38): no edge by 100.5 % of the period; the device makes one at that moment, counts it and logs
it. -/
def execTickInMissed (s : State) : Outcome State Fault Refusal :=
  let t0 := s.tick.decided + s.periodPart 1005
  if !s.ticking ∨ s.cfg.follows ∨ s.cfg.tickSource ≠ .tickIn ∨ s.tick.due.isSome ∨ s.tick.periodDone ∨ s.tick.count.isNone
      ∨ !s.reached t0 then .next s
  else
    let run := s.tick.missedRun + 1
    let s1 := { s with tick := { s.tick with missed := sat32 s.tick.missed 1, missedRun := run } }
    .next ((s1.event 0x0101 2 none (run % 2 ^ 32)).sourceEdge .missed t0)

/-- The first count of the 25 MHz reference at or after a moment. -/
def State.refCount (s : State) (t : Nat) : Nat := s.resetAt + ceilDiv (t - s.resetAt) refUnits * refUnits

/-- The phase error of the period under way, in ns (R35): how far its end lies past the nearest moment at which PTM time
modulo the period equals the phase offset. -/
def State.ptmPhaseError (s : State) : Int :=
  let period := s.cfg.periodUs * 1000
  let past := (s.nsAt (s.tick.decided + s.periodUnits) + period - s.cfg.ptmPhaseNs % period) % period
  if 2 * past ≤ period then past else (past : Int) - period

/-- The correction of the period under way, in time units (R35): what takes its phase error away, within 200 ppm. While PTM
is lost, that of the latest period (R36). -/
def State.ptmCorrection (s : State) : Int :=
  if s.tick.ptmLostLogged then s.tick.ptmRate
  else
    let limit : Int := (s.periodUnits * 200 / 1000000 : Nat)
    max (-limit) (min limit (-s.ptmPhaseError * unitsPerNs))

/-- The moment at which the device's own timer completes the period under way, or places edge 0 (R32, R35, R519, R583,
Table 2-1); none where the device has no timer as its source, or no PTM exchange has succeeded yet. -/
def State.timerMoment (s : State) : Option Nat :=
  match s.cfg.tickSource, s.tick.count with
  | .internal, none => some (s.refCount (s.boot.completedAt + 1))
  | .internal, some _ => some (s.refCount (s.tick.decided + s.periodUnits))
  | .ptm, none =>
    let period := s.cfg.periodUs * 1000
    if s.tick.ptmLock then
      some (s.tick.ptmAt + (period - (s.nsAt s.tick.ptmAt + period - s.cfg.ptmPhaseNs % period) % period) % period * unitsPerNs)
    else none
  | .ptm, some _ => if s.tick.ptmLock then some ((s.tick.decided + s.periodUnits : Nat) + s.ptmCorrection).toNat else none
  | .tickIn, _ => none

/-- The timer's moment, once it has come. -/
def State.timerDone (s : State) : Option Nat := s.timerMoment.filter s.reached

/-- INTERNAL_TIMER_EXPIRY (R32, R35): the internal or PTM-disciplined timer completes a period. -/
def execInternalTimerExpiry (s : State) : Outcome State Fault Refusal :=
  if !s.ticking ∨ s.cfg.follows ∨ s.tick.due.isSome ∨ s.tick.periodDone then .next s
  else match s.timerDone with
    | none => .next s
    | some t0 => .next ({ s with tick := { s.tick with ptmRate := if s.cfg.tickSource = TickSource.ptm then s.ptmCorrection else s.tick.ptmRate } }.sourceEdge .timer t0)

/-- Whether the next PTM exchange of the device is due: it runs one every 10 ms (R35). -/
def State.ptmDue (s : State) : Bool := match s.tick.ptmRunAt with
  | none => true
  | some a => decide (a + 10000 * unitsPerUs ≤ s.time)

/-- PTM_EXCHANGE (R35, R36, R519): the device runs an exchange, 10 ms after the one before it; a successful one gives the PTM
time, and with it the phase error that the event of a restoration carries (Table 16-4); the command's own figure for it says nothing
more. A device that takes its edges from beacons runs none (R38). -/
def execPtmExchange (ok : Bool) (ptmNs : W64) (_phaseErr : Int) (s : State) : Outcome State Fault Refusal :=
  if s.cfg.tickSource ≠ .ptm ∨ s.cfg.follows ∨ !s.boot.complete ∨ !s.host.ptmEnable ∨ !s.ptmDue then .next s
  else if !ok then .next { s with tick := { s.tick with ptmRunAt := some s.time } }
  else
    let t := { s.tick with
      ptmRunAt := some s.time
      ptmLock := true, ptmAt := s.time, ptmOffset := (ptmNs.toNat : Int) - s.nsSinceReset, ptmLostLogged := false }
    let s2 := { s with tick := t }
    .next (if s.tick.ptmLostLogged then s2.event 0x0104 1 none (s2.ptmPhaseError % 2 ^ 32).toNat else s2)

/-- PTM_LOST (R36): no successful exchange for 1 s; the timer holds its rate. -/
def execPtmLost (s : State) : Outcome State Fault Refusal :=
  if s.cfg.tickSource ≠ .ptm ∨ s.cfg.follows ∨ !s.tick.ptmLock ∨ s.tick.ptmLostLogged ∨ s.time - s.tick.ptmAt < 1000000 * unitsPerUs then .next s
  else .next ({ s with tick := { s.tick with ptmLostLogged := true } }.event 0x0103 2 none 0)

/-! Closing a tick at an edge. -/

/-- What the third consecutive LATE tick, and every third one after it, does (R52, Table 2-4). -/
def State.latePolicy (s : State) (p : Nat) : State :=
  let x := s.part p
  if x.lateRun % 3 ≠ 0 then s
  else
    let park := (s.pcfg p).latePark && decide (x.lateRun = 3)
    let s1 := if park then s.setPart p { x with parked := true } else s
    (s1.event 0x0106 3 (some p) (x.lateRun % 2 ^ 32 + b2n park * 2 ^ 32)).signal p 2

/-- Store class: a tick that has not been published at the next edge is LATE (R48 to R52, R295, R380). -/
def State.lateTick (s : State) (p : Nat) : State :=
  let x := s.part p
  let stalled := x.phase == .run && s.stalled p
  let active := x.phase == .run || x.phase == .drain || x.phase == .publish
  let run := sat32 x.lateRun 1
  let s1 := s.setPart p { x with lateRun := run, slackLast := 0, slackRun := 0, stallRun := if stalled then x.stallRun + 1 else 0 }
  let s2 := ((s1.publish p .late run 0).latePolicy p)
  let s3 := if stalled then s2.logStalls p else s2
  let s4 := if active then (s3.stopEngines p).reload p else s3
  let s5 := s4.onPart p (fun y => { y with phase := .idle, draining := y.draining || active })
  let s6 := if (s5.part p).draining then s5.onRings p (fun r => { r with lateTo := some r.recorded }) else s5.consume p (fun r => r.recorded)
  if (s6.part p).stallRun ≥ 3 then (s6.onPart p (fun y => { y with stallRun := 0 })).freezeAll p 0x0C 0 0 else s6

/-- Close the tick in progress for a partition at the edge that ends it. In pod class every partition has published by then
(R54). -/
def State.closePart (s : State) (edge p : Nat) : State :=
  let x := s.part p
  if !x.published then (if s.cfg.pod then s else s.lateTick p)
  else
    let slack := (edge - x.publishEnd) / unitsPerUs
    let y := if x.last = some .onTime then { x with slackLast := slack, slackRun := min x.slackRun slack } else x
    s.setPart p { y with stallRun := if x.last = some .shed then x.stallRun else 0 }

/-- A run of 256 ticks ends (R380). -/
def State.endRun (s : State) (p : Nat) : State := s.onPart p (fun x => { x with slackMin := x.slackRun, slackRun := 0xFFFFFFFF })

/-- The stretch of the tick that ends (R55, R56). -/
def State.closeStretch (s : State) (edge : Nat) : State :=
  if !s.cfg.pod then s
  else
    let t := s.tick
    let ns := (edge - (t.lastEdge + s.periodUnits)) / unitsPerNs
    let count := t.stretchCount + (if ns = 0 then 0 else 1)
    let s1 := { s with tick := { t with stretchCount := count, stretchTotal := t.stretchTotal + ns, stretchMax := max t.stretchMax ns } }
    let s2 := if ns ≠ 0 ∧ count = 1 then s1.event 0x0107 1 none ns else s1
    s2.definedParts.foldl (fun (a : State) p => a.restretch ns p) s2

/-- Close the tick in progress at the edge that ends it. -/
def State.closeTick (s : State) (edge : Nat) : State :=
  if s.tick.count.isNone then s
  else s.definedParts.foldl (fun (a : State) p => a.closePart edge p) (s.closeStretch edge)

/-- The run of 256 ticks that ended with the tick closed, where the next tick belongs to another (R56, R380). DESIGN CHOICE
(log 36): a run with a single stretched tick, which has been logged, gets no summary. -/
def State.closeRun (s : State) (n : Nat) : State :=
  match s.tick.count with
  | none => s
  | some m =>
    if m / 256 = n / 256 then s
    else
      let t := s.tick
      let s1 := if s.cfg.pod ∧ t.stretchCount > 1 then
          s.event 0x0108 1 none (t.stretchCount % 2 ^ 16 + t.stretchTotal / 1000 * 2 ^ 16) else s
      let s2 := { s1 with tick := { s1.tick with stretchCount := 0, stretchTotal := 0, stretchMax := 0 } }
      s2.definedParts.foldl State.endRun s2

/-- The shed level at an edge (R62, R63, R67); in clock fault it is frozen. -/
def State.shedStep (s : State) : State :=
  let t := s.tick
  let waited (us : Nat) : Bool := match t.shedAt with
    | none => true
    | some a => decide (us * unitsPerUs ≤ s.time - a)
  let level :=
    if s.cfg.pod then t.shedLevel
    else if s.hot && decide (t.shedLevel < s.cfg.shedOrder.length) && waited 100000 then t.shedLevel + 1
    else if s.cool && waited 1000000 && !s.hot then t.shedLevel - 1
    else t.shedLevel
  if level = t.shedLevel then s
  else
    let s1 := { s with tick := { t with shedLevel := level, shedAt := some s.time } }
    (s1.event 0x010A 2 none (level + s1.tempBits 8)).signal pfFn 3

/-! Opening a tick. -/

/-- Whether a partition is in steps 1 to 6 of a reset. -/
def Part.resetting (x : Part) : Bool := match x.reset with
  | .none => false | .restart => false | _ => true

/-- End a pending switch request with a status (R515, R517). -/
def State.endSwitch (s : State) (p : Nat) (status : Nat) : State :=
  match (s.part p).switch with
  | none => s
  | some w => (s.onPart p (fun x => { x with switch := none })).finish w.fn w.msgId 1 status

/-- Make a roster the partition's active one and begin its load (R516); a park ends (R52). DESIGN CHOICE (log 42): a switch whose roster
load still waits, behind a drain that outlasts a tick, gets its final response now, SUPERSEDED (R512). -/
def State.takeRoster (s : State) (n p id : Nat) (w : Option Switch) : State :=
  let s1 := match (s.part p).answers with
    | none => s
    | some v => s.finish v.fn v.msgId 1 stSuperseded
  s1.onPart p fun x => { x with
    roster := some id, rosterSince := n, loading := true, answers := w, switch := if w.isSome then none else x.switch
    parked := false, reset := if x.reset = .restart then .none else x.reset }

/-- The switch that takes effect at an edge (R515, R517), else the initial roster (R545 step 7, R582). -/
def State.pickRoster (s : State) (p n : Nat) : State :=
  let x := s.part p
  let early (w : Switch) : Bool := s.before w.at_ s.tick.lastEdge
  if x.resetting || s.partFrozen p then s
  else
    let s1 := match x.switch with
      | none => s
      | some w =>
        match s.cfg.roster p w.roster with
        | none => s.endSwitch p stNoRoster
        | some r =>
          if s.cfg.pod then
            if n < w.atTick ∨ !early w then s
            else if n = w.atTick ∧ s.selectable r then s.takeRoster n p w.roster (some w) else s.endSwitch p stUnselectable
          else if s.unselectable r then s.endSwitch p stUnselectable
          else if w.atTick ≤ n ∧ early w ∧ s.resident r then s.takeRoster n p w.roster (some w)
          else s
    if (s1.part p).roster.isSome then s1
    else match s1.cfg.roster p (s1.pcfg p).initialRoster with
      | some r => if s1.selectable r then s1.takeRoster n p r.id none else s1
      | none => s1

/-- The status of a tick in which the partition does not run (Table 2-3), or none when it runs. In an idle period every
partition publishes SHED (R66). DESIGN CHOICE (log 37): where several conditions hold in another tick, the order is
RESET, FROZEN, PARKED, NO_ROSTER, SHED; the spec states only PARKED before SHED. -/
def State.dueStatus (s : State) (p : Nat) (idle : Bool) : Option TickStatus :=
  let x := s.part p
  if idle then some .shed
  else if x.resetting then some .reset
  else if s.partFrozen p then some .frozen
  else if x.parked then some .parked
  else if x.roster.isNone then some .noRoster
  else if (!s.cfg.pod && (s.cfg.shedOrder.take s.tick.shedLevel).contains p) then some .shed
  else none

/-- The active roster's record. -/
def State.activeRoster (s : State) (p : Nat) : Option RosterCfg := (s.part p).roster.bind (s.cfg.roster p)

/-- Store class: the active roster has a program on a port that no longer fits it (R483). -/
def State.unfit (s : State) (p : Nat) : Bool :=
  !s.cfg.pod && (match s.activeRoster p with
    | some r => (portsOf r.ports).any s.portUnfit
    | none => false)

/-- Open tick `n` for a partition (R42, R43, R53, R64, R503). -/
def State.openPart (s : State) (n : Nat) (idle : Bool) (p : Nat) : State :=
  if s.cfg.pod ∧ !(s.part p).published then s
  else
    let s1 := s.pickRoster p n
    let due := s1.dueStatus p idle
    let run := if (s1.part p).resetting then 0 else (s1.part p).lateRun
    let s2 := s1.onPart p fun x => { x with
      tickNo := n, published := false, due := due, dueRun := run
      phase := if due.isSome then .idle else if s1.unfit p then .unfit else .waiting }
    s2.ingest p (s2.activeRoster p)

/-- The number that a tick edge gives its tick (R39, R41): the device's own, or the beacon's, with a correction logged
after the first. -/
def State.numberTick (s : State) (cause : EdgeCause) : Nat × State :=
  match cause with
  | .beacon t => if s.tick.count.isNone ∨ t = s.nextTick then (t, s) else (t, s.event 0x0105 3 none s.nextTick)
  | _ => (s.nextTick, s)

/-- Make the tick edge of a moment (R37, R39, R40, R42): it counts and takes its timestamp, and opens a tick. In an orderly
shutdown of store class it counts and takes its timestamp too, and only closes the tick in progress (R620). A pod device without partitions has published the tick at once (R476). -/
def State.edge (s : State) (cause : EdgeCause) (at_ : Nat) (idle : Bool) : State :=
  let s1 := { s with tick := { s.tick with due := none } }.closeTick at_
  let s2 := s1.shedStep
  let (n, sn) := s2.numberTick cause
  let s3 := sn.closeRun n
  if s.power.shut = .close then
    { s3 with tick := { s3.tick with count := some n, stamp := s3.nsAt at_, lastEdge := at_, halted := true } }
  else
    let s4 := { s3 with
      boot := { s3.boot with stage := 0xF }
      tick := { s3.tick with
        count := some n, stamp := s3.nsAt at_, lastEdge := at_, tickOut := true, frozenUntil := some (at_ + 4 * unitsPerUs)
        idle := idle, doneFrom := 0#8, ownDone := false, doneSent := false, idleReq := false, doneDevices := 0, stalls := 0 } }
    (s4.definedParts.foldl (fun (a : State) p => a.openPart n idle p) s4).closeOwn

/-- Make the edge that is due, where its ccyc has come (R740). Whatever arrives in that ccyc makes it first. Host writes, doorbells, mailbox requests and the edges of pins
make it first, since what is accepted in that ccyc is taken after it. -/
def State.dueEdge (s : State) : State :=
  match s.tick.due with
  | none => s
  | some (cause, at_, idle) => if s.ticking ∧ s.reached at_ then s.edge cause at_ idle else s

/-- TICK_EDGE (R37 to R42): the edge that is due is made. -/
def execTickEdge (s : State) : Outcome State Fault Refusal := .next s.dueEdge

/-- TICK_OUT_FALL (R37): TICK_OUT returns low 1 µs after the edge. -/
def execTickOutFall (s : State) : Outcome State Fault Refusal :=
  if s.tick.tickOut ∧ s.tick.lastEdge + unitsPerUs ≤ s.time then .next { s with tick := { s.tick with tickOut := false } } else .next s

/-! The phases of a tick. -/

/-- What the end of the ingest freeze does in a partition: a status that is due is published and its frames are
consumed, else the run window opens when it can (R43, R505). -/
def State.endFreeze (s : State) (p : Nat) : State :=
  let x := s.part p
  match x.due with
  | some st => ((s.setPart p { x with due := none }).publish p st x.dueRun 0).consume p (fun r => r.recorded)
  | none => s.tryOpen p

/-- RUN_WINDOW_OPEN (R43): the ingest freeze ends in every partition at the same moment. -/
def execRunWindowOpen (s : State) : Outcome State Fault Refusal :=
  match s.tick.frozenUntil with
  | none => .next s
  | some t =>
    if s.time < t ∨ !s.ticking then .next s
    else
      let s1 := { s with tick := { s.tick with frozenUntil := none } }
      .next (s1.definedParts.foldl State.endFreeze s1)

/-- DRAIN_COMPLETE (R289): the drain phase ends, and the publish step of 3 µs begins. -/
def execDrainComplete (p : Fin 16) (s : State) : Outcome State Fault Refusal :=
  let x := s.part p.val
  if x.phase = .drain ∧ s.drainDone p.val then .next (s.setPart p.val { x with phase := .publish, publishEnd := s.time + 3 * unitsPerUs })
  else .next s

/-- The publish step of a partition has ended before a moment (R45, R46, R505, R740). The slack in the record is the
time left to the next edge as the period places it. -/
def State.endPublish (s : State) (horizon p : Nat) : State :=
  let x := s.part p
  if x.phase = .publish ∧ x.publishEnd < horizon ∧ !s.tick.halted then
    let next := s.tick.lastEdge + s.periodUnits
    let s1 := s.setPart p { x with phase := .idle, lateRun := 0 }
    (s1.publish p .onTime 0 ((next - x.publishEnd) / unitsPerUs)).consume p (fun r => r.recorded)
  else s

/-- LATE_DRAIN_DONE (R49, R50, R505): the drain after a late tick completes, and the partition restarts its plan. -/
def execLateDrainDone (p : Fin 16) (s : State) : Outcome State Fault Refusal :=
  let x := s.part p.val
  if x.draining ∧ s.stopDrained p.val then
    let s1 := (s.setPart p.val { x with draining := false }).consume p.val (fun r => r.lateTo.getD r.ci)
    .next (s1.tryOpen p.val)
  else .next s

/-- Load a roster's Span programs into the ports (R451, R457). -/
def State.loadPrograms (s : State) (p : Nat) (r : RosterCfg) : State :=
  (List.range 8).foldl (fun (a : State) i =>
    let prog := r.programs.find? (fun g => decide (g.port = i))
    a.onPort i (fun x => if prog.isSome ∨ (x.lane p).program.isSome then x.onLane p (fun _ => { program := prog }) else x)) s

/-- What the roster load reads for a Spire with a part beside the moving span of its stream (R179, R222, R516): its blocks of
CAL_INIT, and the whole of a resident part. An uncorrectable burst freezes the Spire (R749). -/
def State.loadFixed (s : State) (plan : Plan) (sp head at_ len : Nat) : State :=
  match plan.partOf sp with
  | none => s
  | some part =>
    let h := halfOf sp
    match s.calFetch h head at_ len with
    | (some b, s1) => s1.freeze sp 0 9 b b
    | (none, s1) =>
      if !part.resident ∨ part.len = 0 then s1
      else match s1.belfryRead h (plan.base + part.off) part.len with
        | (some b, s2) => s2.freeze sp 0 9 b b
        | (none, s2) => s2

/-- The roster load is complete: the roster starts (R51, R498, R500, R516, R306). -/
def State.startRoster (s : State) (p : Nat) (r : RosterCfg) : State :=
  let x := s.part p
  let n := s.tickWord
  let s1 := s.setPart p { x with plan := r.plan, loading := false, answers := none, lateRun := 0 }
  let s2 := (s.spiresOf p).foldl (fun (a : State) sp =>
    let c := a.calSetOf r.plan sp r.plan.calInit
    let set := if (r.plan.partOf sp).isSome then c.1 else {}
    (a.loadFixed r.plan sp (r.plan.base + (a.calPlace r.plan r.plan.calInit).1) c.2.1 c.2.2).onSpire sp
      (fun y => { y with calInit := set, ringLo := 0, ringHi := 0 })) (s1.loadPrograms p r)
  let s3 := (s.pcfg p).rings.foldl (fun (a : State) c => a.hbmZero ((s.cfg.window p c.window).addr c.fillOff) (c.chunks * c.chunk)) (s2.reload p)
  let s4 := s3.event 0x0007 0 (some p) r.id
  let s5 := match x.answers with
    | none => s4
    | some w =>
      let other := if w.fn = pfFn then p else pfFn
      (s4.finish w.fn w.msgId 1 stOk (leBytes 8 n)).respond other 0xFFFF 0x81 0 (leBytes 2 r.id ++ leBytes 6 0 ++ leBytes 8 n)
  s5.tryOpen p

/-- ROSTER_LOAD_DONE (R516): the load of the new roster completes, once any drain has. Its reads may meet errors that have
struck the Cupolas, and bursts that were mended (R354, R376). -/
def execRosterLoadDone (p : Fin 16) (s : State) (cups : List CupolaUpset := []) (bursts : List (Nat × BurstRec) := []) : Outcome State Fault Refusal :=
  let x := s.part p.val
  if !x.loading ∨ x.draining ∨ !s.goesOn then .next s
  else match s.activeRoster p.val with
    | none => .next s
    | some r => .next (((s.strike cups).countEach bursts).startRoster p.val r)

/-! Pod class (R54, R57, R296, R584). -/

/-- The moment from now on at which a tick root may decide edge 0: the next one that R35's phase rule names under the
PTM-disciplined timer (R519), else the present one. -/
def State.phaseMoment (s : State) : Nat :=
  if s.cfg.tickSource = .ptm then
    let period := s.cfg.periodUs * 1000
    s.time + (period - (s.nsAt s.time + period - s.cfg.ptmPhaseNs % period) % period) % period * unitsPerNs
  else s.time

/-- TICK_ROOT_DECIDE (R54, R474, R519, R584): the tick root decides the next edge once its source's period has ended and every
device has published; edge 0 once every boot DONE has arrived, at the phase that PTM gives where that is its source. -/
def execTickRootDecide (s : State) : Outcome State Fault Refusal :=
  if !s.ticking ∨ !s.cfg.pod ∨ s.cfg.follows ∨ s.tick.due.isSome ∨ (s.cfg.tickSource = .ptm ∧ !s.tick.ptmLock) then .next s
  else
    let down := portsOf s.cfg.beaconDown
    match s.tick.count with
    | none =>
      let t0 := s.phaseMoment
      if down.all (fun i => bit1 s.tick.bootDone i) ∧ s.reached t0 then .next (s.decideEdge .root false t0) else .next s
    | some _ =>
      if s.tick.periodDone ∧ s.barrierClosed then .next (s.decideEdge .root (s.tick.idleAsked || s.tick.idleReq) s.time)
      else .next s

/-- The partitions of this device that have not published the tick in progress, as a mask. -/
def State.unpublished (s : State) : Nat :=
  s.definedParts.foldl (fun m p => m + (if (s.part p).published then 0 else 2 ^ p)) 0

/-- POD_STALL (R57): a further stretch limit has passed; the tick root logs each device that has not published and
raises the stall interrupt. -/
def execPodStall (waiting : List (BitVec 8 × BitVec 16)) (s : State) : Outcome State Fault Refusal :=
  if !s.ticking ∨ !s.cfg.pod ∨ s.cfg.follows ∨ s.tick.count.isNone ∨ s.tick.due.isSome
      ∨ s.time ≤ s.tick.decided + s.periodUnits + (s.tick.stalls + 1) * s.stretchUnits then .next s
  else
    let own := s.unpublished
    let all := (if own = 0 then [] else [(s.cfg.deviceId, own)])
      ++ (waiting.filter (fun d => decide (d.1.toNat ≠ s.cfg.deviceId))).map (fun d => (d.1.toNat, d.2.toNat))
    if all.isEmpty then .next s
    else
      let s1 := { s with tick := { s.tick with stalls := s.tick.stalls + 1 } }
      .next ((all.foldl (fun (a : State) d => a.event 0x0109 3 none (d.1 + d.2 * 2 ^ 8)) s1).signal pfFn 2)

/-- POD_STALL_SENTINEL (R296): a partition that has stayed stalled for one tick period is logged; for three, every Spire of
it is frozen. -/
def execPodStallSentinel (p : Fin 16) (s : State) : Outcome State Fault Refusal :=
  let x := s.part p.val
  if !s.cfg.pod ∨ x.phase ≠ .run ∨ !s.stalled p.val then .next (s.setPart p.val { x with stalledSince := none, stalledFor := 0 })
  else
    let since := x.stalledSince.getD s.time
    let periods := if s.periodUnits = 0 then 0 else (s.time - since) / s.periodUnits
    let s1 := s.setPart p.val { x with stalledSince := some since, stalledFor := min periods 1 }
    let s2 := if periods ≥ 1 ∧ x.stalledFor = 0 then s1.logStalls p.val else s1
    .next (if periods ≥ 3 then s2.freezeAll p.val 0x0C 0 0 else s2)

end Sys2Proof.Machine
end

