-- ==== Sys2Proof/Machine/Store.lean ====
section
/-! DEFINITION. The model store at work: object states, failing replicas and blocks, imports, retirements and staging
(chapter 10), and the commands of the NAND. -/

namespace Sys2Proof.Machine

open Host (Outcome)

/-! Shared operations. -/

/-- Change the store. -/
def State.onStore (s : State) (f : StoreSt → StoreSt) : State := { s with store := f s.store }

/-- Whether the device still starts NAND operations at all (R612, R620). -/
def State.nandWorks (s : State) : Bool :=
  s.store.inUse && !s.power.gated && s.power.mode != .powerFail && s.power.mode != .shutdownDone

/-- Whether store work goes on: not before the boot completes (R582), nor once the device has stopped (R612, R620). -/
def State.storeRuns (s : State) : Bool :=
  s.store.inUse && s.rom.keys && s.boot.complete && !s.tap.halted && !s.power.gated
    && (s.power.mode == .running || (s.power.mode == .shuttingDown && s.power.shut != .stop))

/-- Whether a replica is one of a listed object's, with the digest the list names. -/
def Replica.serves (x : Replica) (o : ObjCfg) : Bool :=
  decide (x.objId = o.objId) && decide (x.ns = o.ns) && decide (x.digest = o.digest)

/-- The state of a listed object (Table 10-8). -/
def State.evalObj (s : State) (i : Nat) (o : ObjCfg) : ObjState :=
  let all := s.store.index.filter (fun x => x.serves o)
  let whole := all.filter (fun x => !x.failed)
  if !s.store.inUse || all.isEmpty then .absent
  else if (s.obj i).state = .malformed then .malformed
  else if whole.isEmpty then .lost
  else if all.any (fun x => decide (whole.length < x.replicas)) then .degraded
  else .valid

/-- Bring the states of all listed objects up to date (R418). -/
def State.refreshObjects (s : State) : State :=
  s.cfg.objects.zipIdx.foldl (fun (a : State) q => a.setObj q.2 { a.obj q.2 with state := a.evalObj q.2 q.1 }) s

/-- A partition whose restaging has ended: step 6 ends (R545). Objects that can no longer be staged are passed over. -/
def State.noteRestage (s : State) : State :=
  (List.range 16).foldl (fun (a : State) p =>
    let x := a.part p
    if x.reset ≠ .restage then a
    else
      let left := x.restage.filter (fun i => a.stageable i && (a.obj i).staging != .resident)
      if left.isEmpty then a.setPart p { x with restage := [], reset := .restart, roster := none } else a.setPart p { x with restage := left }) s

/-- Log a wear level that is reached for the first time (R424). -/
def State.logWear (s : State) : State :=
  let w := s.store.wear s.cfg.tlcRated s.cfg.pslcRated
  let s1 := if 80 ≤ w ∧ !s.store.warned80 then
    (s.onStore (fun t => { t with warned80 := true })).event 0x0407 2 none (min w 255) else s
  if 95 ≤ w ∧ !s1.store.warned95 then (s1.onStore (fun t => { t with warned95 := true })).event 0x0407 3 none (min w 255) else s1

/-- The staging under way goes on from another whole replica of its object, or ends (R419, R422). -/
def State.restage (s : State) : State :=
  match s.store.staging with
  | none => s
  | some r => match s.cfg.objects[r.obj]? with
    | none => s
    | some o =>
      match s.store.index.find? (fun x => x.serves o && !x.failed && decide (x.replica = r.replica)),
          s.store.index.find? (fun x => x.serves o && !x.failed) with
      | some _, _ => s
      | none, some x => s.onStore (fun t => { t with staging := some { r with replica := x.replica } })
      | none, none => (s.onStore (fun t => { t with staging := none })).setObj r.obj { s.obj r.obj with staging := .notStaged }

/-- A replica fails (R419): the object's state follows, and a staging from it goes on from the other replica. -/
def State.failReplica (s : State) (x : Replica) : State :=
  ((s.onStore (fun t => t.putReplica x { x with failed := true })).refreshObjects.restage).noteRestage

/-- A target whose bad blocks have passed its share takes no new writes; the first time this is logged (R430). -/
def State.checkWorn (s : State) (k : Nat) : State :=
  if !(s.store.tg k).worn ∧ s.store.wornOut k then
    (s.onStore (fun t => t.onTg k (fun y => { y with worn := true }))).event 0x0409 3 none (k / 8 + k % 8 * 2 ^ 4)
  else s

/-- A block leaves the store (R429): it stands in the next bad-block table, and when it was a ring block every superblock copy
is rewritten (R399). What is still live in it stays readable, and patrol moves it away. -/
def StoreSt.drop (t : StoreSt) (b : Nat) : StoreSt :=
  let ring := t.metaList.contains b || t.logList.contains b
  let without (l : List Nat) : List Nat := l.filter (· ≠ b)
  let t1 := { t with
    bad := t.bad ++ [b], metaList := without t.metaList, logList := without t.logList, superList := without t.superList
    refresh := if t.live b then b :: without t.refresh else without t.refresh, failing := without t.failing }.writeBad
  if ring then t1.writeSuper t1.superList else t1

/-- Retire a block: it leaves the store, and a target past its share of bad blocks takes no new writes (R429, R430). -/
def State.retireBlock (s : State) (b : Nat) (byStatus : Bool) : State :=
  if s.store.bad.contains b then s
  else
    let k := targetOf b
    ((s.onStore (fun t => t.drop b)).event 0x0408 1 none (b + (k / 8) * 2 ^ 32 + (k % 8) * 2 ^ 36 + b2n byStatus * 2 ^ 40)).checkWorn k

/-- Whether nothing of a failing block is left to move (R429): what lies in it belongs to replicas found lost. -/
def StoreSt.emptied (t : StoreSt) (b : Nat) : Bool :=
  !t.claimed.contains b && !(t.index.any (fun r => !r.failed && r.extents.any (Extent.inBlock b)))
    && !(t.imports.any (fun r => r.extents.any (Extent.inBlock b)))

/-- After work on the flash: failing blocks that are empty by now are retired (R429), and wear levels are logged (R424). -/
def State.noteWear (s : State) : State :=
  ((s.store.failing.filter s.store.emptied).foldl (fun (a : State) b => a.retireBlock b false) s).logWear

/-! Imports (R413 to R416). -/

/-- Whether AUTH verifies over DIGEST (Table 17-3). -/
def State.authOk (s : State) (q : ImportRun) : Bool :=
  if q.prot = 0 then ecdsaValid s.rom.pubkey q.auth q.digest
  else decide (q.auth.take 48 = hmac384 (s.rom.otp.importKey q.ns) q.digest) && (q.auth.drop 48).all (· == 0#8)

/-- The unit codewords of a payload, encrypted (R405, R412). -/
def State.sealUnits (s : State) (q : ImportRun) : List Codeword :=
  let key := s.rom.otp.dataKey s.store.storeId q.ns
  (piecesOf q.payload.length 4096 q.payload).zipIdx.map (fun u =>
    { ns := q.ns, objId := q.objId, unit := u.2
      content := .unit (xts aesEncrypt key (u.2 + q.objId * 2 ^ 32 + q.ns * 2 ^ 64) (u.1 ++ leBytes (4096 - u.1.length) 0)) })

/-- Write the chunks of one replica (R415). -/
def StoreSt.placeReplica (t : StoreSt) (us : List Codeword) (r : Nat) : Option (List Extent × StoreSt) :=
  StoreSt.placeChunks r [] 0 (piecesOf us.length 64 us) t

/-- Whether the free space or the ring would be exceeded (R401, R413). -/
def StoreSt.exceeded (t : StoreSt) (us : List Codeword) (replicas : Nat) : Bool :=
  decide (t.ringFree < replicas * (roundUp (max 1 (ceilDiv (ceilDiv us.length 64) 512)) 4 + 4) + (t.perBlock - 1))
    || ((List.range replicas).foldl (fun (a : Option StoreSt) r => a.bind (fun u => (u.placeReplica us r).map Prod.snd)) (some t)).isNone

/-- Units that the replicas of a namespace hold. -/
def StoreSt.nsUnits (t : StoreSt) (ns : Nat) : Nat :=
  ((t.index.filter (fun x => decide (x.ns = ns))).map (·.units)).sum

/-- The namespace quota in units, where a partition of it sets one. -/
def State.quotaOf (s : State) (ns : Nat) : Nat :=
  match (List.range 16).find? (fun p => (s.pcfg p).defined && decide ((s.pcfg p).ns = ns)) with
  | some p => (s.pcfg p).nsQuota
  | none => 0

/-- What R413 says of an import before anything is written: a refusal reason, 0 for an object that is there, or nothing
against it. -/
def State.importVerdict (s : State) (q : ImportRun) : Option Nat :=
  let same := s.store.index.filter (fun x => decide (x.objId = q.objId) && decide (x.ns = q.ns))
  let units := ceilDiv q.payload.length 4096
  let quota := s.quotaOf q.ns
  if !s.authOk q then some 1
  else if sha384 q.payload ≠ q.digest then some 2
  else if same.any (fun x => decide (x.digest ≠ q.digest)) then some 3
  else if !same.isEmpty then some 0
  else if quota ≠ 0 ∧ quota < s.store.nsUnits q.ns + units * q.replicas then some 4
  else if q.replicas = 2 ∧ !s.store.separates then some 5
  else if 100 ≤ s.store.wear s.cfg.tlcRated s.cfg.pslcRated then some 6
  else if 15728640 < units then some 7
  else if s.store.exceeded (s.sealUnits q) q.replicas then some 4
  else none

/-- The import that writes. -/
def StoreSt.active (t : StoreSt) : Option ImportRun := t.imports.find? (fun q => !q.abandoned)

/-- Whether two are the same import, however far it has come. -/
def ImportRun.same (x y : ImportRun) : Bool :=
  decide ({ x with replica := y.replica, phase := y.phase, extents := y.extents, maps := y.maps, wait := y.wait } = y)

/-- Replace an import by its successor. -/
def StoreSt.putImport (t : StoreSt) (old new : ImportRun) : StoreSt :=
  { t with imports := t.imports.map (fun x => if x.same old then new else x) }

/-- An import ends with its final response: OK for reason 0, else REFUSED with the reason. -/
def State.endImport (s : State) (q : ImportRun) (reason : Nat) : State :=
  (s.onStore (fun t => { t with imports := t.imports.filter (· ≠ q) })).finish q.fn q.msg 2 (if reason = 0 then stOk else stRefused) (leBytes 1 reason)

/-- The flash addresses of the pages that some extents take: each is one program (R416). -/
def programsOf (es : List Extent) : List Nat := es.flatMap (fun e => (List.range e.pages).map (fun i => e.addr % 2 ^ 48 + i * 2 ^ 32))

/-- Write the units of a replica of an import (R416). -/
def State.importUnits (s : State) (q : ImportRun) (replica : Nat) : State :=
  match s.store.placeReplica (s.sealUnits q) replica with
  | none => s.endImport q 4
  | some (es, t) =>
    { s with store := (t.putImport q { q with replica := replica, phase := .units, extents := es, maps := [], wait := programsOf es }).settled }

/-- Write the maps, once every chunk stands (R406, R416): their pages end here, since the commit record waits for their status
(R384). -/
def StoreSt.importMaps (t : StoreSt) (q : ImportRun) : StoreSt :=
  let m := StoreSt.writeMaps q.objId q.ns q.extents t
  m.2.endPage.putImport q { q with phase := .maps, maps := m.1, wait := pagesOf m.1 }

/-- Write the commit record, once every map stands (R407, R416): the replica is visible. Where the room made for it has moved maps of
the import, their status comes first. -/
def StoreSt.importCommit (t : StoreSt) : StoreSt :=
  let t := t.makeRoom false 1
  match t.active.filter (fun q => q.wait.isEmpty) with
  | none => t
  | some q =>
  let t1 := ({ t with seq := t.seq + 1 }.writeCommit {
    seq := t.seq, objId := q.objId, ns := q.ns, replica := q.replica, replicas := q.replicas, prot := q.prot, reloc := 0
    payloadLen := q.payload.length, units := ceilDiv q.payload.length 4096, digest := q.digest, auth := q.auth
    maps := q.maps, extents := q.extents }).endPage
  let at_ := ((t1.index.find? (fun x => x.is q.objId q.ns q.replica)).map (·.at_)).getD 0
  t1.putImport q { q with phase := .commit, extents := [], maps := [], wait := pagesOf [at_] }

/-- The import that writes goes as far as it can before a program's status is to be read; then the next one begins. The first
argument bounds the steps. -/
def State.advanceImports : Nat → State → State
  | 0, s => s
  | n + 1, s => match s.store.active with
    | none => s
    | some q =>
      if !q.wait.isEmpty then s
      else match q.phase with
        | .queued => match s.importVerdict q with
          | some r => State.advanceImports n (s.endImport q r)
          | none => State.advanceImports n (s.importUnits q 0)
        | .units => State.advanceImports n (s.onStore (fun t => t.importMaps q))
        | .maps => State.advanceImports n (s.onStore StoreSt.importCommit).refreshObjects
        | .commit =>
          if q.replica + 1 < q.replicas then State.advanceImports n (s.importUnits q (q.replica + 1))
          else State.advanceImports n (s.endImport q 0)

/-- Let imports go on. -/
def State.runImports (s : State) : State :=
  if s.storeRuns then (State.advanceImports (4 * s.store.imports.length + 8) s).noteWear else s

/-! Blocks that fail. -/

/-- What an import under way has written into a failed block is written again elsewhere: its chunks, with its maps anew where they
already name them, or its commit record, which the ring's rewrite has moved. None where its chunks find no room. -/
def StoreSt.rescue (t : StoreSt) (b : Nat) (q : ImportRun) : Option StoreSt :=
  let at_ := ((t.index.find? (fun x => x.is q.objId q.ns q.replica)).map (·.at_)).getD 0
  let again (l : List Nat) : List Nat := q.wait.filter (fun a => decide (blockOf a ≠ b)) ++ l
  if q.extents.any (Extent.inBlock b) then
    match t.moveExtents b q.replica none true q.extents with
    | some (es, t1) =>
      let chunks := programsOf (es.filter (fun e => !q.extents.contains e))
      if q.maps.isEmpty then some (t1.putImport q { q with extents := es, wait := again chunks }).settled
      else
        let m := StoreSt.writeMaps q.objId q.ns es t1
        some (m.2.endPage.putImport q { q with extents := es, maps := m.1, wait := again (chunks ++ pagesOf m.1) }).settled
    | none => none
  else if q.wait.any (fun a => decide (blockOf a = b)) then
    some (t.putImport q { q with wait := again (if q.phase = .commit then pagesOf [at_] else []) })
  else some t

/-- Imports under way after a block has failed. -/
def State.rescueImports (s : State) (b : Nat) : State :=
  s.store.imports.foldl (fun (a : State) q => match a.store.rescue b q with
    | some t => { a with store := t }
    | none => a.endImport q 4) s

/-- Leave a metadata ring block: its live records go to the ring head, which is another block (R404, R429). -/
def StoreSt.leaveRing (t : StoreSt) (seq b : Nat) : StoreSt :=
  let t1 := ((if t.headSeq = seq ∧ t.spareBlocks ≠ 0 then t.openRing else t).rewrite b 0).endPage
  { t1 with held := Tbl.put 0 seq 0 t1.held }

/-- Take a block out of use after a failure: what is live in it and can be read moves first (R429); a replica of which a map cannot
be read has failed (R419). A failed status makes it a bad block even when
its live data finds no room; patrol then goes on to move that. A block with an uncorrectable codeword takes no more data, and is
retired once it is empty. -/
def State.giveUpBlock (s : State) (b : Nat) (byStatus : Bool) : State :=
  let s1 := s.onStore (fun t => match t.held.find? (fun e => decide (e.2 = b + 1)) with
    | some (seq, _) => t.leaveRing seq b
    | none => if t.logList.contains b then t.leaveLog b else t.vacate b none)
  let s2 := (if s1.store.index.any (fun x => x.failed && s.store.index.any (fun y => y.is x.objId x.ns x.replica && !y.failed)) then
    (s1.refreshObjects.restage).noteRestage else s1).rescueImports b
  if !byStatus && !s2.store.emptied b then
    s2.onStore (fun t => { t with refresh := b :: t.refresh.filter (· ≠ b), failing := b :: t.failing.filter (· ≠ b) })
  else s2.retireBlock b byStatus

/-! Retirements (R417). -/

/-- A retirement: refused when the model-object list names the object (R417), when no store is in use, or when the store key has
been cleared (R657); else a retire record drops every replica. -/
def State.retireObject (s : State) (ns objId : Nat) : Bool × State :=
  if !s.store.inUse || !s.rom.keys || s.cfg.objects.any (fun o => decide (o.objId = objId) && decide (o.ns = ns)) then (false, s)
  else (true, (s.onStore (fun t => t.retire objId ns)).noteWear)

/-! Staging (R420 to R423). -/

/-- Objects in staging order: those of each partition's initial roster first, then the rest, in list order (R423). -/
def State.stagingOrder (s : State) : List Nat :=
  let first (i : Nat) : Bool := (List.range 16).any (fun p =>
    (s.pcfg p).defined && match s.cfg.roster p (s.pcfg p).initialRoster with
      | some r => r.objects.contains i
      | none => false)
  let all := List.range s.cfg.objects.length
  all.filter first ++ all.filter (fun i => !first i)

/-- Whether an object may start staging now: not while its own window waits for the scrub of a partition reset. -/
def State.mayStage (s : State) (i : Nat) : Bool :=
  match s.cfg.objects[i]? with
  | none => false
  | some o =>
    let r := (s.part o.part).reset
    s.stageable i && (s.obj i).staging == .notStaged
      && ((s.cfg.window o.part o.window).shared || !(r == .quiesce || r == .scrub))

/-- STAGING_START (R423): the next object in staging order starts, from its first whole replica. -/
def execStagingStart (s : State) : Outcome State Fault Refusal :=
  let s := s.dueEdge
  if !s.storeRuns || s.store.staging.isSome then .next s
  else match s.stagingOrder.find? s.mayStage with
    | none => .next s
    | some i => match s.cfg.objects[i]? with
      | none => .next s
      | some o => match s.store.index.find? (fun x => x.serves o && !x.failed) with
        | none => .next s
        | some x => .next ((s.onStore (fun t => { t with staging := some ⟨i, x.replica⟩ })).setObj i { s.obj i with staging := .staging })

/-- The staging ends with the object in some state, and step 6 of a reset may end with it. -/
def State.endStaging (s : State) (i : Nat) (x : ObjSt) : State :=
  ((s.onStore (fun t => { t with staging := none })).setObj i x).noteRestage

/-- The plaintext payload of a replica's units (R412). -/
def State.openUnits (s : State) (x : Replica) (us : List Codeword) : List Byte :=
  let key := s.rom.otp.dataKey s.store.storeId x.ns
  (us.zipIdx.flatMap (fun u => xts aesDecrypt key (u.2 + x.objId * 2 ^ 32 + x.ns * 2 ^ 64) u.1.cipher)).take x.payloadLen

/-- The end of a staging whose units could all be read (R356, R421, R422); `bad` is a burst that the read-back finds
uncorrectable. -/
def State.stageBytes (s : State) (i : Nat) (o : ObjCfg) (x : Replica) (plain : List Byte) (bad : Option Nat) : State :=
  let dec := skeinPrefix plain.length plain
  let dest := (s.cfg.window o.part o.window).addr o.destOff
  let s1 := State.ownWrite 2 s dest (dec.1.take o.bodyLen)
  if sha384 plain ≠ x.digest then (s1.failReplica x).noteWear
  else if !dec.2 || !bodyOk dec.1 o.bodyLen then s1.endStaging i { s1.obj i with state := .malformed, staging := .notStaged }
  else
    let s2 := s1.hbmSpoil (bad.filter (fun a => decide (dest ≤ a) && decide (a < dest + o.bodyLen)))
    match s2.badBurst dest o.bodyLen with
    | none => s2.endStaging i { s2.obj i with staging := .resident }
    | some a =>
      let s3 := s2.countUe (s2.badIn dest o.bodyLen)
      let y : ObjSt := { s3.obj i with badReadBacks := (s3.obj i).badReadBacks + 1 }
      if y.badReadBacks < 2 then s3.setObj i y
      else (s3.event 0x0406 3 (some o.part) a).endStaging i { y with staging := .notStaged }

/-- STAGING_COMPLETE (R421, R422): every write has been accepted; the digest, the body, its containers and the read-back
decide what becomes of the object. -/
def execStagingComplete (bad : Option Nat) (s : State) (bursts : List (Nat × BurstRec) := []) : Outcome State Fault Refusal :=
  let s := s.dueEdge
  if !s.storeRuns then .next s
  else match s.store.staging with
    | none => .next s
    | some r => match s.cfg.objects[r.obj]? with
      | none => .next s
      | some o => match s.store.index.find? (fun x => x.serves o && decide (x.replica = r.replica)) with
        | none => .next s
        | some x =>
          let s1 := s.onStore (fun t => t.noteExtents x.extents)
          match s.store.replicaUnits x with
          | none => .next (s1.failReplica x).noteWear
          | some us => .next ((s1.countEach bursts).stageBytes r.obj o x (s.openUnits x us) bad)

/-! Reads, programs and timeouts. -/

/-- Whether CHECK matches the 4,112 bytes that the decoder converged to (R392, Table 10-4); the programmed ones carry their own, where
the position has been programmed. -/
def checkMatches (written : Bool) : Option (List Byte) → Bool
  | none => written
  | some bs => decide (numAt bs 0x100C 4 = crc32c (bs.take 0x100C))

/-- How far the read ladder goes (Table 10-5): the step that makes the codeword correct, with the retry level of step 2; step 4 is
uncorrectable. A codeword is correct when the decoder converges and CHECK matches (R392). -/
def ladderStep (levels : Nat) (l : LadderRec) (written : Bool := true) : Nat × Nat :=
  let soft := if l.step3 && checkMatches written l.got3 then (3, 0) else (4, 0)
  if l.step1 && checkMatches written l.got1 then (1, 0)
  else match l.step2 with
    | some n => if decide (1 ≤ n ∧ n ≤ levels) && checkMatches written l.got2 then (2, n) else soft
    | none => soft

/-- Whether a position of the flash holds a codeword that has been programmed. -/
def StoreSt.written (t : StoreSt) (a : Nat) : Bool := (t.wordAt a).isSome

/-- Whether a position passes for erased (R392): its raw bytes as read, given by their zero bits where they are not those programmed,
differ from all-0xFF in 64 bits or fewer. -/
def StoreSt.readsErased (t : StoreSt) (a : Nat) (zeros : Option Nat) : Bool := match zeros, t.wordAt a with
  | some z, _ => decide (z ≤ 64)
  | none, some w => w.looksErased a
  | none, none => true

/-- The replica that an uncorrectable codeword fails, by what the codeword holds (R419): a unit or a map of it. -/
def StoreSt.failsAt (t : StoreSt) (a : Nat) : Option Replica := match t.cell a with
  | some ⟨_, _, _, .unit _⟩ => t.index.find? (fun x => !x.failed && x.extents.any (fun e => e.holds a))
  | some ⟨_, _, _, .map _⟩ => t.index.find? (fun x => !x.failed && x.maps.contains a)
  | _ => none

/-- An uncorrectable codeword is not read any more: the replica of a unit or a map fails (R419), and a replica whose commit record it
was is no more (R416). -/
def State.failCodeword (s : State) (a : Nat) : State :=
  let s0 := s.onStore (fun t => { t with lost := a :: t.lost.filter (· ≠ a) })
  match s0.store.failsAt a with
  | some x => s0.failReplica x
  | none =>
    if s0.store.index.any (fun x => decide (x.at_ = a)) then
      ((s0.onStore (fun t => { t with index := t.index.filter (fun x => decide (x.at_ ≠ a)) })).refreshObjects.restage).noteRestage
    else s0

/-- Uncorrectable codewords: all of them fail what they serve before anything moves, and then their blocks are given up (R419,
R429). -/
def State.lostCodewords (s : State) (l : List Nat) : State :=
  ((l.map blockOf).eraseDups).foldl (fun (a : State) b => a.giveUpBlock b false) (l.foldl State.failCodeword s)

/-- Whether the device still starts NAND operations that write records or read data (R612, R620, R657). -/
def State.nandUp (s : State) : Bool := s.nandWorks && s.rom.keys && !s.tap.halted

/-- A started program or erase of a device that starts no new NAND operation has ended (R613, R620): no block is retired and nothing
is written again, and a program that was waited for is no longer. -/
def StoreSt.lastStatus (t : StoreSt) (b : Nat) : StoreSt :=
  { t with imports := (t.imports.map (fun q => { q with wait := q.wait.eraseP (fun a => decide (blockOf a = b)) })).filter (fun q =>
      !(q.abandoned && q.wait.isEmpty)) }

/-- Whether a block given with its LUN in bits [2:0] is one of a target in use, and not a bad block; a grown bad block is read as
long as something in it is live (R428, R429). -/
def StoreSt.reaches (t : StoreSt) (k block : Nat) : Bool :=
  let b := blockAt (k / 8) (k % 8) block
  t.targets.contains k && !(t.tg k).out && !t.factoryBad.contains b && (!t.bad.contains b || t.live b)
    && decide (block % 8 < t.luns) && decide (block / 8 < t.blocks)

/-- Whether a codeword at a flash address is an object unit. -/
def StoreSt.isUnit (t : StoreSt) (a : Nat) : Bool := match t.cell a with
  | some w => decide (w.content.kind = 1)
  | none => false

/-- A codeword that does not pass for erased goes down the read ladder (R393 to R395): its channel counts the step, its block the
ladder's further reads (R426), and a block whose unit took retry level 4 or higher, or step 3, is marked for refresh. -/
def StoreSt.climb (t : StoreSt) (a : Nat) (step : Nat × Nat) : StoreSt :=
  let b := blockOf a
  { (t.countStep b step).noteLadder b step with
    refresh := if t.isUnit a ∧ ((step.1 = 2 ∧ 4 ≤ step.2) ∨ step.1 = 3) then b :: t.refresh.filter (· ≠ b) else t.refresh }

/-- CODEWORD_READ (R392 to R395, R419): a codeword goes down the read ladder; one that passes for erased is not decoded. -/
def execCodewordRead (ch : Fin 16) (target : Fin 8) (block page slot : Nat) (ladder : LadderRec) (s : State) : Outcome State Fault Refusal :=
  let k := 8 * ch.val + target.val
  let b := blockAt ch.val target.val block
  let a := codewordAt b page slot
  if !s.nandUp || !s.store.reaches k block || decide (4 ≤ slot) then .next s
  else
    let s0 := s.onStore (fun u => u.noteRead b 1)
    if s.store.readsErased a ladder.zeros then .next s0
    else
      let step := ladderStep (s.store.tg k).retry ladder (s.store.written a)
      let s1 := s0.onStore (fun u => u.climb a step)
      .next (if step.1 = 4 then (s1.lostCodewords [a]).noteWear.runImports else s1)

/-- NAND_PROGRAM_STATUS (R416, R429, R613): the status of a program or erase. A success is that of one page program, and lets the
imports that wait for it go on; a failure retires the block, and what it was to hold is written elsewhere. -/
def execNandProgramStatus (ch : Fin 16) (target : Fin 8) (block : Nat) (failed : Bool) (s : State) : Outcome State Fault Refusal :=
  let b := blockAt ch.val target.val block
  if !s.store.inUse || s.power.gated || !s.store.reaches (8 * ch.val + target.val) block then .next s
  else if !s.nandUp then .next (s.onStore (fun t => t.lastStatus b))
  else if failed then .next (s.giveUpBlock b true).noteWear.runImports
  else .next (s.onStore (fun t => { t with imports := t.imports.map (fun q => { q with wait := q.wait.eraseP (fun a => decide (blockOf a = b)) }) })).runImports

/-- Of page programs that wait for their status, those that have started: the first of each target (DESIGN CHOICE, log 24). -/
def startedOf (wait : List Nat) : List Nat :=
  wait.foldl (fun a x => if a.any (fun y => decide (targetOf (blockOf y) = targetOf (blockOf x))) then a else a ++ [x]) []

/-- Programs that have not started are dropped (Table 13-8): their pages stay as they were. -/
def StoreSt.dropPrograms (t : StoreSt) (pages : List Nat) : StoreSt :=
  { t with cells := t.cells.filter (fun e => !pages.contains (e.1 % 2 ^ 48)) }

/-- Imports are abandoned (Table 13-8, R612, R620): their programs that have not started are dropped, and what they have written is
free. -/
def StoreSt.cutImports (t : StoreSt) (which : ImportRun → Bool) : StoreSt :=
  let late := (t.imports.filter which).flatMap (fun q => q.wait.filter (fun a => !(startedOf q.wait).contains a))
  { t.dropPrograms late with imports := t.imports.map (fun q =>
    if which q then { q with abandoned := true, extents := [], maps := [], wait := startedOf q.wait } else q) }

/-- Whether a target runs an array operation of which the model knows: a program whose status an import waits for. -/
def StoreSt.busy (t : StoreSt) (k : Nat) : Bool := t.imports.any (fun q => q.wait.any (fun a => decide (targetOf (blockOf a) = k)))

/-- The longest time that a target reports for an operation, in µs. -/
def TargetSt.longest (y : TargetSt) : NandOp → Nat
  | .read _ _ => y.tR
  | .program _ => y.tProg
  | .erase _ => y.tBers

/-- What an operation that timed out comes to (R389): a read, for which the target had been put in the block's mode (R386), is an
uncorrectable page, each of its codewords at the last step of the ladder; a program or an erase is a status failure. -/
def State.timedOut (s : State) (k : Nat) : NandOp → State
  | .read block page =>
    let b := blockAt (k / 8) (k % 8) block
    let words := ((List.range 4).map (codewordAt b page)).filter s.store.written
    (s.onStore (fun t => words.foldl (fun (u : StoreSt) _ => u.countStep b (4, 0)) (t.touch b))).lostCodewords words
  | .program block => s.giveUpBlock (blockAt (k / 8) (k % 8) block) true
  | .erase block => s.giveUpBlock (blockAt (k / 8) (k % 8) block) true

/-- The block of an operation. -/
def opBlock : NandOp → Nat
  | .read b _ => b
  | .program b => b
  | .erase b => b

/-- NAND_TIMEOUT (R389, R613): an array operation has lasted some µs. Past the longest time of the target plus 25 % the target is
reset and the operation has failed; the third reset of a boot takes the target out of use, so nothing is written to it again. -/
def execNandTimeout (ch : Fin 16) (target : Fin 8) (s : State) (op : NandOp := .read 0 0) (us : Nat := 0) : Outcome State Fault Refusal :=
  let k := 8 * ch.val + target.val
  let n := (s.store.tg k).resets + 1
  let s1 := s.onStore (fun t => t.onTg k (fun y => { y with resets := n, out := decide (3 ≤ n) }))
  if !s.store.inUse || s.power.gated || !s.store.reaches k (opBlock op) || decide (4 * us ≤ 5 * (s.store.tg k).longest op) then .next s
  else if !s.nandUp then .next (s1.onStore (fun t => t.lastStatus (blockAt ch.val target.val (opBlock op))))
  else
    let s2 := s1.timedOut k op
    .next ((if 3 ≤ n then s2.event 0x040A 3 none (ch.val + target.val * 2 ^ 4) else s2).noteWear.runImports)

/-- ZQ_CALIBRATION_SHORT (R385): one target is calibrated, 100 ms after its latest calibration, or sooner when the temperature it
reports has moved by more than 10 °C since then. It waits for the target's array operation. -/
def execZqCalibrationShort (s : State) (ch : Fin 16 := 0) (target : Fin 8 := 0) (temp : Int := 0) : Outcome State Fault Refusal :=
  let k := 8 * ch.val + target.val
  let y := s.store.tg k
  let moved := match y.zqTemp with
    | some t => decide (10 < temp - t) || decide (10 < t - temp)
    | none => false
  if !s.nandUp || !s.store.targets.contains k || y.out || s.store.busy k
      || !(moved || decide (y.zqAt + 100000 * unitsPerUs ≤ s.time)) then .next s
  else .next (s.onStore (fun t => t.onTg k (fun y => { y with zqAt := s.time, zqTemp := some temp, zqs := y.zqs + 1 })))

/-! Patrol, wear and free space. -/

/-- Whether the staging under way reads a target, so that patrol waits (R426). -/
def State.stagingReads (s : State) (k : Nat) : Bool :=
  match s.store.staging with
  | none => false
  | some r => match s.cfg.objects[r.obj]? with
    | none => false
    | some o => s.store.index.any (fun x => x.serves o && decide (x.replica = r.replica)
        && x.extents.any (fun e => decide (targetOf (blockOf e.addr) = k)))

/-- Refresh a ring block (R426): its live records are rewritten in another block. The oldest block is reclaimed first where the ring
has no room for them, or where the block being written, which is left for the next one, is the last that stands erased; a
reclaim of the block itself is its refresh. -/
def StoreSt.refreshRing (t : StoreSt) (seq b : Nat) : StoreSt :=
  let t0 := if (t.headSeq = seq ∧ t.spareBlocks ≤ 1) ∨ t.ringFree < t.reclaimNeed b then t.reclaim else t
  let t1 := if t0.headSeq = seq ∧ t0.spareBlocks ≠ 0 then t0.openRing else t0
  if !(t0.held.any (fun e => decide (e.2 = b + 1))) ∨ t1.headSeq = seq ∨ t1.ringFree < t1.reclaimNeed b then t0
  else { (t1.rewrite b 1).endPage with refresh := t1.refresh.filter (· ≠ b) }

/-- The flash addresses of the codewords that a block of data or of the metadata ring holds. -/
def StoreSt.wordsIn (t : StoreSt) (b : Nat) : List Nat := (t.cells.filter (fun e => decide (blockOf e.1 = b))).map Prod.fst

/-- Pages of a block that hold codewords. -/
def StoreSt.pagesIn (t : StoreSt) (b : Nat) : Nat := (((t.wordsIn b).map pageOf).eraseDups).length

/-- How each codeword of a block that does not pass for erased comes through the ladder when patrol reads it: those named as given,
the others correct at once. -/
def StoreSt.patrolSteps (t : StoreSt) (b : Nat) (reads : List (Nat × Nat × LadderRec)) : List (Nat × Nat × Nat) :=
  let given (a : Nat) : Option LadderRec := (reads.find? (fun r => decide (codewordAt b r.1 r.2.1 = a))).map (·.2.2)
  let named := (reads.filter (fun r => decide (r.2.1 < 4) && decide (r.1 < t.pages))).map (fun r => codewordAt b r.1 r.2.1)
  let words := (t.wordsIn b ++ named.filter (fun a => !t.written a)).eraseDups
  (words.filter (fun a => !t.readsErased a ((given a).bind LadderRec.zeros))).map (fun a =>
    (a, ((given a).map (fun l => ladderStep (t.tg (targetOf b)).retry l (t.written a))).getD (1, 0)))

/-- Patrol reads every codeword of a block (R426). Answered with the uncorrectable ones. A ring block is marked for refresh as a data
block is. -/
def StoreSt.patrol (t : StoreSt) (b : Nat) (reads : List (Nat × Nat × LadderRec)) : List Nat × StoreSt :=
  let steps := t.patrolSteps b reads
  let weak := steps.any (fun q => decide ((q.2.1 = 2 ∧ 4 ≤ q.2.2) ∨ q.2.1 = 3))
  let t1 := steps.foldl (fun (u : StoreSt) q => u.climb q.1 q.2) (t.noteRead b (t.pagesIn b))
  ((steps.filter (fun q => decide (q.2.1 = 4))).map Prod.fst, { t1 with refresh := if weak then b :: t1.refresh.filter (· ≠ b) else t1.refresh })

/-- Whether a block is due for a refresh (R426, R430). -/
def StoreSt.refreshDue (t : StoreSt) (b : Nat) : Bool :=
  t.refresh.contains b || decide (100000 ≤ Tbl.get 0 b t.reads) || (t.tg (targetOf b)).worn

/-- Refresh a data block: what is live in it moves away (R426). -/
def StoreSt.refreshData (t : StoreSt) (b : Nat) : StoreSt :=
  let t1 := t.vacate b none
  if t1.live b then t1 else { t1 with refresh := t1.refresh.filter (· ≠ b) }

/-- RETENTION_PATROL (R419, R426, R429, R430): patrol reads every codeword of one live block; `reads` gives those that are not
correct at once, by page and codeword. A block that needs it is refreshed, an uncorrectable codeword is dealt with as in any read,
and repairs of failed replicas are tried. -/
def execRetentionPatrol (ch : Fin 16) (target : Fin 8) (block : Nat) (reads : List (Nat × Nat × LadderRec)) (s : State) :
    Outcome State Fault Refusal :=
  let b := blockAt ch.val target.val block
  let k := targetOf b
  let ring := s.store.held.find? (fun e => decide (e.2 = b + 1))
  if !s.storeRuns || !s.store.reaches k block || s.stagingReads k || s.store.busy k || !(s.store.live b || ring.isSome) then .next s
  else
    let p := s.store.patrol b reads
    let s1 := ((s.onStore (fun _ => p.2)).lostCodewords p.1).onStore StoreSt.repair
    let s2 := if !s1.store.refreshDue b then s1
      else match s1.store.held.find? (fun e => decide (e.2 = b + 1)) with
        | some (seq, _) => s1.onStore (fun t => t.refreshRing seq b)
        | none => s1.onStore (fun t => t.refreshData b)
    .next (s2.refreshObjects.noteRestage).noteWear

/-- Whether everything live in a block may move to another block without joining two replicas of an object on one
target (R414). -/
def StoreSt.mayMove (t : StoreSt) (b dest : Nat) : Bool :=
  decide (b ≠ dest) && t.freeBlock dest && t.targets.contains (targetOf dest)
    && t.index.all (fun x => !x.extents.any (Extent.inBlock b) || (t.allowed x.replica).contains (targetOf dest))

/-- Whether live chunks of a block may be gathered in another one (R427): a data block that takes them, behind what it holds or
because nothing in it is live, on a target that R414 allows for the replica; they are read from a target in use. -/
def StoreSt.mayGather (t : StoreSt) (b dest : Nat) : Bool :=
  decide (b ≠ dest) && t.targets.contains (targetOf dest) && !(t.tg (targetOf b)).out
    && t.index.any (fun x => !x.failed && x.extents.any (fun e => e.inBlock b && t.takes e.pages dest))
    && t.index.all (fun x => !x.extents.any (Extent.inBlock b) || (t.allowed x.replica).contains (targetOf dest))

/-- WEAR_LEVEL_MOVE (R425): when the erase counts of data blocks lie more than 200 apart, the chunks of the least-erased
block move to a more-erased free block. -/
def execWearLevelMove (ch : Fin 16) (target : Fin 8) (block dest : Nat) (s : State) : Outcome State Fault Refusal :=
  let b := blockAt ch.val target.val block
  let t := s.store
  let d := t.dataBlocks
  if s.storeRuns ∧ d.contains b ∧ t.live b ∧ t.mayMove b dest ∧ t.erased b < t.erased dest
      ∧ d.all (fun x => decide (t.erased b ≤ t.erased x)) ∧ d.any (fun x => decide (t.erased b + 200 < t.erased x)) then
    .next (s.onStore (fun u => u.vacate b (some dest))).noteWear
  else .next s

/-- FREE_SPACE_RELOCATE (R427): once free data blocks fall below 5 %, and until 8 % are free again, live chunks leave
the data blocks that hold the most free units; they are gathered in another block, behind what it holds. The choice is among the
blocks whose chunks may be gathered in that one (DESIGN CHOICE, log 24). -/
def execFreeSpaceRelocate (ch : Fin 16) (target : Fin 8) (block dest : Nat) (s : State) : Outcome State Fault Refusal :=
  let b := blockAt ch.val target.val block
  let t := s.store
  let d := t.dataBlocks
  let free (u : StoreSt) : Nat := (d.filter u.freeBlock).length
  let livePages (x : Nat) : Nat := (t.index.flatMap (fun r => (r.extents.filter (Extent.inBlock x)).map (·.pages))).sum
  let low := t.relocating || decide (100 * free t < 5 * d.length)
  if s.storeRuns ∧ low ∧ d.contains b ∧ t.live b ∧ t.mayGather b dest
      ∧ (d.filter (fun x => t.mayGather x dest)).all (fun x => decide (livePages b ≤ livePages x)) then
    .next (s.onStore (fun u =>
      let v := u.vacate b (some dest)
      { v with relocating := decide (100 * free v < 8 * d.length) })).noteWear
  else .next s

/-- RING_BLOCK_RECLAIM (R404): the oldest ring block is reclaimed. -/
def execRingBlockReclaim (s : State) : Outcome State Fault Refusal :=
  if s.storeRuns then .next (s.onStore StoreSt.reclaim).noteWear else .next s

/-- INDEX_CHECKPOINT (R410): after 256 commit and retire records a checkpoint is written. -/
def execIndexCheckpoint (s : State) : Outcome State Fault Refusal :=
  if s.storeRuns ∧ 256 ≤ s.store.sinceCheckpoint then .next (s.onStore StoreSt.checkpoint).noteWear else .next s

end Sys2Proof.Machine
end

