-- ==== Sys2Proof/Machine/Logs.lean ====
section
/-! DEFINITION. The persisted event log (R411, R614, R635 to R639). -/

namespace Sys2Proof.Machine

open Host (Outcome)

/-- The pending groups, oldest first (R636, R638). -/
def State.pendingLog (s : State) : List (List LogSlot) :=
  let l := s.log
  let from_ := max l.flushed (l.pos - 8192)
  (groupsFrom (fun p => Tbl.get .empty (p % 8192) l.ring) (l.pos - from_) from_).filter (fun g => !(g.any LogSlot.prior))

/-! Flushes. -/

/-- A flush (R636 to R638): an overflow is logged first; then every pending entry is written. Where no log block takes writes
(R389, R430) they stay pending. -/
def State.flushLog (s : State) : State :=
  if !s.store.inUse ∨ !s.store.logUp then s
  else
    let s1 := if s.log.lostSince = 0 then s
      else { s with log := { s.log with lostSince := 0 } }.event 0x0005 2 none s.log.lostSince
    (s1.onStore (StoreSt.writeGroups s1.pendingLog [])).noteWear |> fun a =>
      { a with log := { a.log with flushed := s1.log.pos, lastFlush := a.time, lastFlushTick := a.tick.count.getD 0 } }

/-- Entries pending. -/
def State.pendingCount (s : State) : Nat := (s.pendingLog.map List.length).sum

/-- LOG_FLUSH (R636): 256 ticks or 10 s after the last flush, or with 4,096 entries pending, whenever the store is in use: before
the boot completes and in clock fault as well. -/
def execLogFlush (s : State) : Outcome State Fault Refusal :=
  if s.nandWorks ∧ (s.log.lastFlushTick + 256 ≤ s.tick.count.getD 0 ∨ s.log.lastFlush + 10000000 * unitsPerUs ≤ s.time ∨ 4096 ≤ s.pendingCount) then
    .next s.flushLog
  else .next s

/-! The on-die ring over boots. -/

/-- The ring emptied (R635). -/
def State.clearLog (s : State) : State :=
  { s with log := { lost := s.log.lost, lastFlush := s.time } }

/-- A slot as an entry of an earlier boot. -/
def LogSlot.asPrior : LogSlot → LogSlot
  | .entry e => .entry { e with sev := e.sev ||| 0x80#8 }
  | x => x

/-- Whether a slot holds an event of a code. -/
def LogSlot.codeIs (c : Nat) : LogSlot → Bool
  | .entry e => decide (e.code.toNat = c)
  | _ => false

/-- The newest 2,048 entries; an extension entry whose event is not among them does not stand on its own (Table 16-2). -/
def newestEntries (l : List LogSlot) : List LogSlot :=
  match l.drop (l.length - 2048) with
  | .ext _ :: rest => rest
  | xs => xs

/-- EVT_LOST of the previous boot, as far as its persisted entries tell it: what its "log overflow" events add up to, from its
latest "boot started" event on (log 32). -/
def lostBefore (l : List LogSlot) : Nat :=
  let last := (l.reverse.takeWhile (fun x => !x.codeIs 0x0001)).reverse
  last.foldl (fun n x => match x with
    | .entry e => if e.code = 0x0005#16 then n + fld e.detail 31 0 else n
    | _ => n) 0

/-- The log pages that boot reads: those of targets in use. -/
def StoreSt.pagesRead (t : StoreSt) : List LogPage := t.logPages.filter (fun g => t.targets.contains (targetOf g.at_))

/-- The flash addresses of the codewords of a log page. -/
def StoreSt.logAddrs (t : StoreSt) (g : LogPage) : List Nat := (List.range (t.logWords g).length).map (codewordAt g.at_ g.page)

/-- Read back the newest 2,048 persisted entries of earlier boots, but for the codewords that fail their ladder (R639); the channels
count what is read (R394). -/
def State.resumeLog (s : State) (bad : List Nat) : State :=
  let pages := s.store.pagesRead
  let all := (groupsOf (pages.map (LogPage.read bad))).flatten
  let back := newestEntries all
  let s0 := s.onStore (fun t => (t.touchAll (pages.map (·.at_))).countReads bad (pages.flatMap t.logAddrs))
  let s1 := back.foldl (fun (a : State) x => a.logSlot x.asPrior) s0
  s1.event 0x0004 1 none (back.length % 2 ^ 16 + lostBefore all % 2 ^ 32 * 2 ^ 16)

/-- POWER_FAIL_LOG_PAGE (R614 to R616): once the target of the next page of the log ring is idle, one page of the newest pending
entries, oldest first, with a "power fail" event at its end; `ok` tells whether its program succeeds. -/
def execPowerFailLogPage (ok : Bool) (s : State) : Outcome State Fault Refusal :=
  if s.power.mode ≠ .powerFail ∨ s.power.pageDone ∨ s.power.gated
      ∨ (s.store.inUse ∧ s.store.busy (targetOf s.store.logNext)) then .next s
  else
    let s1 := { s with power := { s.power with pageDone := true } }
    if !s.store.inUse then .next s1
    else
      let groups := s.pendingLog
      let kept := (groups.reverse.foldl (fun (a : List (List LogSlot) × Bool) g =>
        if a.2 ∨ s.store.logRoom - 1 < (a.1.map List.length).sum + g.length then (a.1, true) else (g :: a.1, false)) ([], false)).1
      let s2 := s1.event 0x0605 4 none (((groups.map List.length).sum - (kept.map List.length).sum) % 2 ^ 32)
      let last := Tbl.get .empty ((s2.log.pos - 1) % 8192) s2.log.ring
      if ok then .next (s2.onStore (fun t => t.putLog (kept.flatten ++ [last]))) else .next s2

end Sys2Proof.Machine
end

