-- ==== Sys2Proof/Machine/Span.lean ====
section
/-! DEFINITION. Span ports (chapter 11): training and lane groups, received frames and flits, scheduled slots, bulk
messages, control records, and tick beacons. -/

namespace Sys2Proof.Machine

open Host (Outcome)

/-! Ports going up and down (R435, R445 to R449, R482). -/

/-- Milliseconds in time units. -/
def unitsPerMs : Nat := 1000 * unitsPerUs

/-- The partitions whose active programs use a port, as a mask. -/
def State.programMask (s : State) (i : Nat) : Nat :=
  s.definedParts.foldl (fun m p => m + (if ((s.port i).lane p).program.isSome then 2 ^ p else 0)) 0

/-- Log a change of width (R449). -/
def State.degraded (s : State) (i old new : Nat) (good : BitVec 6) : State :=
  s.event 0x0502 2 none (i + old * 2 ^ 8 + new * 2 ^ 16 + good.toNat * 2 ^ 24 + s.programMask i * 2 ^ 32)

/-- The port goes down. A port that had a width logs that it loses it. -/
def State.portDown (s : State) (i : Nat) (good : BitVec 6) : State :=
  let x := s.port i
  let s1 := s.setPort i { x with phase := .down, width := 0, good := good, retraining := false, linkNs := none }
  let s2 := if x.width = 0 then s1 else s1.degraded i x.width 0 good
  s2.event 0x0501 3 none i

/-- The lane group that a lane belongs to (R446). -/
def groupOf (lane : Nat) : Nat := lane / 4

/-- Corrected symbols on a lane within the latest `span` time units. -/
def Port.corrected (x : Port) (lane span now : Nat) : Nat :=
  (x.fixes.filter (fun f => decide (f.2.1 = lane) && decide (now - f.1 ≤ span))).foldl (fun a f => a + f.2.2) 0

/-- The lane group with the most corrected symbols of the last second, among the good ones. -/
def Port.worstGroup (x : Port) (now : Nat) : Nat :=
  let sum (g : Nat) : Nat := (List.range 4).foldl (fun a k => a + x.corrected (4 * g + k) (1000 * unitsPerMs) now) 0
  ((List.range 6).filter (bit1 x.good)).foldl (fun b g => if bit1 x.good b && decide (sum g ≤ sum b) then b else g) 6

/-- Good groups of a mask. -/
def goodCount (good : BitVec 6) : Nat := ((List.range 6).filter (bit1 good)).length

/-- Begin a retrain (R445, R446): a third within one second counts as the failure of the worst group. -/
def State.retrain (s : State) (i : Nat) (good : BitVec 6) : State :=
  let x := s.port i
  let times := x.retrainTimes.filter (fun t => decide (s.time - t ≤ 1000 * unitsPerMs)) ++ [s.time]
  let third := decide (3 ≤ times.length)
  let worst := { x with good := good }.worstGroup s.time
  let good1 := if third then good &&& ~~~(BitVec.ofNat 6 (2 ^ worst)) else good
  let s1 := s.setPort i { x with
    phase := .training, retraining := true, since := s.time, good := good1, linkNs := none, badHeads := 0
    retrainTimes := if third then [] else times, ctr := { x.ctr with retrains := sat32 x.ctr.retrains 1 } }
  if goodCount good1 < 2 then s1.portDown i good1 else s1

/-- Whether a port is trained. -/
def Port.trained (x : Port) : Bool := x.phase == .ctrl || x.phase == .up

/-- Whether a port trains or has trained: a record that waits on it departs once it can. -/
def Port.lives (x : Port) : Bool := x.phase == .training || x.trained

/-- The width for a number of good groups (R447). -/
def widthFor (n most : Nat) : Nat := ([24, 16, 12, 8].find? (fun w => decide (w ≤ 4 * n) && decide (w ≤ most))).getD 0

/-- The LINK record of a port (Table 11-9). -/
def State.linkRecord (s : State) (i : Nat) : List Byte :=
  let c := s.cfg.port i
  leBytes 1 5 ++ leBytes 1 s.cfg.deviceId ++ leBytes 1 i ++ leBytes 1 (b2n s.cfg.pod) ++ leBytes 1 c.planWidth
    ++ leBytes 1 (b2n c.skein) ++ leBytes 1 (s.port i).good.toNat ++ leBytes 1 0 ++ leBytes 8 s.cfg.podHash ++ leBytes 4 s.cfg.podId ++ leBytes 4 0

/-- How long training, or a retrain, may take (R435, R449). -/
def Port.trainLimit (x : Port) : Nat := (if x.retraining then 5 else 500) * unitsPerMs

/-- SPAN_TRAINING_DONE (R435, R445 to R449): training completes, `good` being the groups good at both ends; a group that failed
meanwhile is not used. One that completes past its time leaves the port down. After a retrain the unacknowledged flits are replayed. -/
def execSpanTrainingDone (port : Fin 8) (good : BitVec 6) (s : State) : Outcome State Fault Refusal :=
  let i := port.val
  let x := s.port i
  if x.phase ≠ .training then .next s
  else if x.trainLimit < s.time - x.since then .next (s.portDown i x.good)
  else
    let g := (if x.retraining then good &&& x.good else good) &&& ~~~x.failed
    let w := widthFor (goodCount g) (if x.width = 0 then (s.cfg.port i).planWidth else min x.width (s.cfg.port i).planWidth)
    if goodCount g < 2 ∨ w = 0 then .next (s.portDown i g)
    else
      let old := if x.retraining then x.width else (s.cfg.port i).planWidth
      let s1 := s.setPort i { x with
        phase := .ctrl, retraining := false, width := w, good := g, frames := 0, badHeads := 0, resend := x.unacked.length
        replaysInRow := 0, ackAt := s.time, linkNs := none, pingAt := none
        ctr := { x.ctr with replays := sat32 x.ctr.replays (b2n (!x.unacked.isEmpty)) } }
      let s2 := if w = old then s1 else s1.degraded i old w g
      .next ((s2.sendCtrl i (s2.linkRecord i)).sendCtrl i (leBytes 1 6 ++ leBytes 23 0))

/-- SPAN_TRAINING_TIMEOUT (R435, R449): a port untrained after 500 ms, or 5 ms into a retrain, is down. -/
def execSpanTrainingTimeout (port : Fin 8) (s : State) : Outcome State Fault Refusal :=
  let x := s.port port.val
  if x.phase = .training ∧ x.trainLimit ≤ s.time - x.since then .next (s.portDown port.val x.good)
  else .next s

/-- A lane group of a port fails for the rest of the boot (R446, R447); one that fails while the port trains is left out when
training completes. -/
def State.failGroup (s : State) (i group : Nat) : State :=
  let x := s.port i
  let good := x.good &&& ~~~(BitVec.ofNat 6 (2 ^ group))
  let bit := BitVec.ofNat 6 (2 ^ group)
  if x.phase = .training then s.setPort i { x with good := good, failed := x.failed ||| bit }
  else if !bit1 x.good group ∨ x.phase = .off ∨ x.phase = .down then s
  else if goodCount good < 2 then s.portDown i good
  else s.retrain i good

/-- LANE_GROUP_FAIL (R446, R447): a lane of the group has lost its signal or its clock for 1 µs, has failed to train, or fails
at the other end. -/
def execLaneGroupFail (port : Fin 8) (group : Fin 6) (s : State) : Outcome State Fault Refusal := .next (s.failGroup port.val group.val)

/-- Symbols that a lane receives in 1 ms (R433, R437): 212.5 Gb/s in symbols of 10 bits. -/
def laneSymbolsPerMs : Nat := 21250000

/-- The lane groups that fail by their corrected symbols (R446): a lane of theirs had more than 1 symbol in 10^4 corrected in
the latest 1 ms. -/
def Port.noisyGroups (x : Port) (now : Nat) : List Nat :=
  if x.fixes.isEmpty then []
  else (List.range 6).filter (fun g => (List.range 4).any (fun k => decide (laneSymbolsPerMs < 10000 * x.corrected (4 * g + k) unitsPerMs now)))

/-- The first field of a partner's LINK record that differs (R482), by the numbers of Table 16-4. -/
def State.linkDiffers (s : State) (i : Nat) (r : LinkRec) : Option Nat :=
  let c := s.cfg.port i
  if r.podId.toNat ≠ s.cfg.podId then some 1
  else if r.podHash.toNat ≠ s.cfg.podHash then some 2
  else if r.cls.toNat ≠ b2n s.cfg.pod then some 3
  else if r.planWidth.toNat ≠ c.planWidth then some 4
  else if r.deviceId.toNat ≠ c.partnerDev then some 5
  else if r.port.toNat ≠ c.partnerPort then some 6
  else if r.skein.toNat ≠ b2n c.skein then some 7
  else none

/-- Refuse the partner (R482). -/
def State.mismatch (s : State) (i field : Nat) : State :=
  (s.onPort i (fun x => { x with mismatch := true, phase := .ctrl })).event 0x0508 3 none (i + field * 2 ^ 8)

/-- The port comes into use once its partner matches and LINK_NS is measured (R482). -/
def State.tryUp (s : State) (i : Nat) : State :=
  s.onPort i fun x => if x.phase = .ctrl ∧ x.partner.isSome ∧ !x.mismatch ∧ x.linkNs.isSome then { x with phase := .up } else x

/-- LINK (R482): the partner's LINK record is checked against the topology record. -/
def execLink (port : Fin 8) (rec : LinkRec) (s : State) : Outcome State Fault Refusal :=
  let x := s.port port.val
  if !x.trained then .next s
  else
    let s1 := s.setPort port.val { x with partner := some rec }
    match s.linkDiffers port.val rec with
    | some f => .next (if x.mismatch then s1 else s1.mismatch port.val f)
    | none => .next (s1.tryUp port.val)

/-- PING (R482): a PING is answered with a PONG; a PONG gives LINK_NS, half the round trip less the turnaround. -/
def execPing (port : Fin 8) (pong : Bool) (sent arrived : W64) (s : State) : Outcome State Fault Refusal :=
  let i := port.val
  let x := s.port i
  if !x.trained then .next s
  else if !pong then .next (s.sendCtrl i (leBytes 1 7 ++ leBytes 15 0 ++ leBytes 8 s.nsSinceReset))
  else match x.pingAt with
    | none => .next s
    | some t =>
      let ns := ((s.nsSinceReset - t) - (sent.toNat - arrived.toNat)) / 2
      let s1 := s.setPort i { x with pingAt := none, linkNs := some ns }
      if ns > (s.cfg.port i).maxLinkNs then .next (if x.mismatch then s1 else s1.mismatch i 8)
      else .next (s1.tryUp i)

/-- CREDIT (R465): credits return to the transmitter. -/
def execCredit (port : Fin 8) (c0 c1 c2 : BitVec 8) (s : State) : Outcome State Fault Refusal :=
  let add (k n : Nat) (t : Tbl Nat) : Tbl Nat := Tbl.put 64 k (Tbl.get 64 k t + n) t
  if !(s.port port.val).trained then .next s
  else .next (s.onPort port.val (fun x => { x with credits := add 2 c2.toNat (add 1 c1.toNat (add 0 c0.toNat x.credits)) }))

/-! Replay (R443 to R445). -/

/-- Start a replay of every unacknowledged flit; after 8 in a row without an advance of ACK the port retrains. -/
def State.startReplay (s : State) (i : Nat) : State :=
  let x := s.port i
  if x.unacked.isEmpty then s
  else if 8 ≤ x.replaysInRow then s.retrain i x.good
  else s.setPort i { x with
    resend := x.unacked.length, replaysInRow := x.replaysInRow + 1, ackAt := s.time
    ctr := { x.ctr with replays := sat32 x.ctr.replays 1 } }

/-- REPLAY_TIMEOUT (R444): 2 µs with unacknowledged flits and no advance of ACK. -/
def execReplayTimeout (port : Fin 8) (s : State) : Outcome State Fault Refusal :=
  let x := s.port port.val
  if x.phase = .up ∧ !x.unacked.isEmpty ∧ 2 * unitsPerUs ≤ s.time - x.ackAt then .next (s.startReplay port.val) else .next s

/-! Flit headers (Table 11-4). -/

end Sys2Proof.Machine

namespace Sys2Proof

/-- TYPE. -/
def FlitRec.type (f : FlitRec) : Nat := fld f.header 3 0
/-- SEQ. -/
def FlitRec.seq (f : FlitRec) : Nat := fld f.header 15 4
/-- Whether the CRC is correct. -/
def FlitRec.good (f : FlitRec) : Bool := decide (f.crc.toNat = Machine.crc64 (leBytes 8 f.header.toNat ++ f.body))
/-- The receive channel of a BULK flit: 0 and 1 the sub-channels of VC 0, 2 VC 1; none where R464 discards it. -/
def FlitRec.channel (f : FlitRec) : Option Nat :=
  let vc := fld f.header 45 44
  let sub := b2n (bit1 f.header 46)
  if vc = 0 then some sub else if vc = 1 ∧ sub = 0 then some 2 else none

end Sys2Proof

namespace Sys2Proof.Machine

open Host (Outcome)

/-- Take the ACK field of a header: flits up to it leave the replay buffer. -/
def Port.acked (x : Port) (ack now : Nat) : Port :=
  match x.unacked.findIdx? (fun f => decide (f.seq = ack)) with
  | none => x
  | some k =>
    let left := x.unacked.drop (k + 1)
    { x with unacked := left, resend := min x.resend left.length, ackAt := now, replaysInRow := 0 }

/-- A sequenced flit is discarded: the first after an accepted one asks for a replay. -/
def Port.discard (x : Port) : Port := if x.discarding then x else { x with discarding := true, nak := true }

/-! Scheduled flits (R456 to R458, R530). -/

/-- Whether a partition runs a plan in the current tick (R457). -/
def State.plays (s : State) (p : Nat) : Bool :=
  let x := s.part p
  s.tick.count.isSome && x.roster.isSome && x.due.isNone && !x.resetting
    && (x.phase == .waiting || x.phase == .run || x.phase == .drain || x.phase == .publish
        || (x.phase == .idle && x.published && x.last == some .onTime))

/-- The bytes an RX action leaves at its address: 0 STORE, 1 ADD_FP32, 2 ADD_BF16. -/
def rxBytes (action : Nat) (old body : List Byte) : List Byte := if action = 0 then body else reduceBytes action body old

/-- A SCHED flit that was discarded (Table 16-6). -/
def State.schedDiscard (s : State) (i : Nat) : State :=
  s.onPort i (fun x => { x with ctr := { x.ctr with schedDiscard := sat32 x.ctr.schedDiscard 1 } })

/-- A SCHED flit accepted by the link layer. -/
def State.takeSched (s : State) (i : Nat) (f : FlitRec) : State :=
  let p := fld f.header 35 32
  let c := s.cfg.lane p i
  let x := s.part p
  if c.size = 0 then (s.schedDiscard i).event 0x0206 2 none (i + p * 2 ^ 4)
  else if bit1 x.slotsFrozen i ∨ !s.plays p ∨ fld f.header 43 36 ≠ x.tickNo % 256 then s.schedDiscard i
  else
    let l := (s.port i).lane p
    let entry := l.program.bind (fun g => g.rx[l.rxAt]?)
    match entry with
    | some e =>
      if fld f.header 59 44 = l.rxAt % 65536 then
        let s1 := s.slotWrite p i e.addr (rxBytes e.action (s.slotRead p i e.addr 240) f.body)
        s1.onPort i (fun y => { y.onLane p (fun l => { l with rxAt := l.rxAt + 1 }) with
          pendingRx := y.pendingRx ++ [⟨p, s.time + 20 * unitsPerNs, if e.push then some (e.spire, e.queue, e.literal) else none⟩] })
      else (s.schedDiscard i).freezeSlots p i
    | none => (s.schedDiscard i).freezeSlots p i

/-- RX_ACTION_COMPLETE (R458): the oldest RX action of a port has been accepted for 20 ns and completes. DESIGN CHOICE
beside R340 (log 42): its push counts as sent by the Mantle stop of its target Spire. -/
def execRxActionComplete (port : Fin 8) (s : State) : Outcome State Fault Refusal :=
  let x := s.port port.val
  match x.pendingRx with
  | [] => .next s
  | r :: rest =>
    if s.time < r.at_ then .next s
    else
      let s1 := s.setPort port.val { x with pendingRx := rest }
      match r.push with
      | none => .next s1
      | some (sp, q, h) => .next (s1.sendPush sp .spanRx sp q h).2

/-! Bulk messages (R466 to R470). -/

/-- Answer a WRITE or SIGNAL. -/
def State.sendAck (s : State) (dst part msgId status : Nat) : State :=
  s.sendBulk part 1 0 dst false (bulkBytes 2 s.cfg.deviceId dst (part + status * 32) msgId 0 [])

/-- A WRITE for this device (R468): accepted and acknowledged, refused, or waiting for a scrub. A byte range that holds
an uncorrectable burst it does not replace whole is not written (R356), and no ACK is sent. -/
def State.takeWrite (s : State) (i src part msgId w off : Nat) (raw : Option (List Byte)) : State :=
  let c := s.cfg.window part w
  if !((s.pcfg part).defined && c.valid && c.wr && !c.shared) then s.sendAck src part msgId 1
  else match raw with
    | none => s.sendAck src part msgId 2
    | some bs =>
      if c.bytes ≤ off + bs.length then s.sendAck src part msgId 1
      else if s.underScrub part w ∨ s.core.hbmMode ≠ .running then
        s.onPort i (fun x => { x with heldWrites := x.heldWrites ++ [⟨src, part, msgId, w, off, bs⟩] })
      else
        let s := s.meetSoft (c.addr off) bs.length
        match s.badPartial (c.addr off) bs.length with
        | some _ => s.countUe (s.badEdges (c.addr off) bs.length)
        | none => (s.hbmWrite (c.addr off) bs).sendAck src part msgId 0

/-- A SIGNAL for this device (R468). DESIGN CHOICE beside R340 (log 42): its push counts as sent by the Mantle stop of its target
Spire. -/
def State.takeSignal (s : State) (src part msgId sp q : Nat) (h : W32) : State :=
  if s.owner sp = some part ∧ ((s.part part).plan.queueCfg sp q).mode ≠ 0 then
    ((s.sendPush sp .spanRx sp q h).2).sendAck src part msgId 0
  else s.sendAck src part msgId 3

/-- An ACK for this device (R469). One that no transfer has waited for is discarded; one that refuses a message freezes the
sending engine, whether or not its transfer has been stopped since (R530). A stopped transfer leaves with its last ACK (R290). -/
def State.takeAck (s : State) (src part msgId status : Nat) : State :=
  let mine (w : BulkWait) : Bool := decide (w.dst = src) && decide (w.part = part) && decide (w.msgId = msgId)
  match (List.range 8).findSome? (fun i => ((s.port i).waits.find? mine).map (fun w => (i, w))) with
  | none => s
  | some (i, w) =>
    let s1 := s.onPort i (fun x => { x with waits := x.waits.filter (fun v => !mine v) })
    let s2 := s1.onSpire w.spire (fun z => z.onXfer w.unit w.xfer (fun x =>
      if w.signal then { x with bulkSignal := 2 } else { x with bulkOut := x.bulkOut - 1 }))
    let s3 := if status ≠ 0 then s2.freeze w.spire (w.unit + 1) 0x0B w.index 0 else s2
    match (s3.spire w.spire).xfer w.unit w.xfer with
      | none => s3
      | some y =>
        if y.stopped then (if y.busy then s3 else s3.onSpire w.spire (fun z => z.dropXfer w.unit w.xfer))
        else if !y.left ∧ y.bulkBuf.isNone ∧ y.bulkOut = 0 ∧ y.bulkSignal = 0 ∧ y.reqs.all (fun r => decide (r.phase = .done))
            ∧ bitOf (le y.desc 0x54 1) 0 then s3.sendSignal w.spire w.unit y
        else s3

/-- Credits of a channel to return. -/
def State.owe (s : State) (i ch n : Nat) : State :=
  s.onPort i (fun x => { x with owed := Tbl.put 0 ch (Tbl.get 0 ch x.owed + n) x.owed })

/-- A whole bulk message has come in on a port and channel. -/
def State.takeMessage (s : State) (i ch : Nat) (bs : List Byte) : State :=
  let src := le bs 1 1
  let dst := le bs 2 1
  let flags := le bs 3 1
  let part := flags % 16
  let msgId := le bs 4 2
  let n := le bs 6 2 + 1
  let target := le bs 8 8
  if dst ≠ s.cfg.deviceId then
    let whole := if le bs 0 1 = 1 then bs.take (16 + n) else bs.take 16
    s.sendBulk part (if ch = 2 then 1 else 0) (if ch = 2 then 0 else ch) dst false whole (some (i, ch))
  else match le bs 0 1 with
    | 1 =>
      let data := (bs.drop 16).take n
      let raw := if bitOf flags 4 then (skeinFrame data).map Prod.fst else some data
      s.takeWrite i src part msgId (fieldOf target 42 40) (target % 2 ^ 40) raw
    | 2 => s.takeAck src part msgId (flags / 32)
    | 3 => s.takeSignal src part msgId (fieldOf target 3 0) (fieldOf target 7 4) (BitVec.ofNat 32 (target / 2 ^ 32))
    | _ => s

/-- A BULK flit accepted by the link layer. The buffer place of a flit for this device is free at once; that of a
forwarded one when the flit has left again. -/
def State.takeBulk (s : State) (i ch : Nat) (f : FlitRec) : State :=
  let x := s.port i
  let bs := if bit1 f.header 29 then f.body else Tbl.get [] ch x.inbox ++ f.body
  let s1 := s.setPort i { x with inbox := Tbl.put [] ch (if bit1 f.header 30 then [] else bs) x.inbox }
  let s2 := if le bs 2 1 = s.cfg.deviceId then s1.owe i ch 1 else s1
  if bit1 f.header 30 then s2.takeMessage i ch bs else s2

/-! Received frames (R439, R443, R464). -/

/-- A flit that the link layer drops: a SCHED flit is counted (Table 16-6, "for any cause"). -/
def State.dropFlit (s : State) (i : Nat) (f : FlitRec) : State := if f.type = 1 then s.schedDiscard i else s

/-- A sequenced flit in its turn is accepted; out of its turn it is discarded (R443). -/
def State.acceptFlit (s : State) (i : Nat) (f : FlitRec) : State :=
  let y := s.port i
  if !((f.type = 1 ∨ f.type = 2) ∧ y.phase = .up) then s.dropFlit i f
  else if f.seq ≠ (y.rxSeq + 1) % 4096 then (s.setPort i y.discard).dropFlit i f
  else
    let s1 := s.setPort i { y with rxSeq := f.seq, discarding := false }
    if f.type = 1 then s1.takeSched i f
    else match f.channel with
      | some ch => s1.takeBulk i ch f
      | none => s1

/-- One received flit. -/
def State.takeFlit (s : State) (i : Nat) (f : FlitRec) : State :=
  let x := s.port i
  let crcMiss (y : Port) : Port := { y with ctr := { y.ctr with flitCrc := sat32 y.ctr.flitCrc 1 } }
  if !x.trained then s.dropFlit i f
  else if f.type = 2 ∧ f.channel.isNone then s.setPort i (crcMiss x).discard
  else if !f.good then (s.setPort i (if f.type = 1 ∨ f.type = 2 then (crcMiss x).discard else crcMiss x)).dropFlit i f
  else
    let s1 := s.setPort i (x.acked (fld f.header 27 16) s.time)
    (if bit1 f.header 28 then s1.startReplay i else s1).acceptFlit i f

/-- SPAN_FRAME (R439): a frame arrives. A frame with a codeword that does not decode loses all its flits, its SCHED flits counted
as discarded (Table 16-6); FH_CHECK
failing in 3 consecutive frames makes the port retrain. The corrected symbols of the latest 1 ms may fail lane groups (R446). -/
def execSpanFrame (port : Fin 8) (frame : FrameRec) (s : State) : Outcome State Fault Refusal :=
  let s := s.dueEdge
  let i := port.val
  let x := s.port i
  if !x.trained then .next s
  else
    let fixed := frame.corrected.foldl (· + ·) 0
    let fixes := (x.fixes.filter (fun q => decide (s.time - q.1 ≤ 1000 * unitsPerMs)))
      ++ ((frame.corrected.zipIdx.filter (fun q => decide (q.1 ≠ 0))).map (fun q => (s.time, q.2, q.1)))
    let bad := if crc16 (frame.header.take 8) = le frame.header 8 2 then 0 else x.badHeads + 1
    let s1 := s.setPort i { x with
      fixes := fixes, badHeads := bad
      ctr := { x.ctr with fecSymbols := wrap48 x.ctr.fecSymbols fixed, uncorr := sat32 x.ctr.uncorr (b2n (!frame.decoded)) } }
    let s2 := frame.flits.foldl (fun (a : State) f => if frame.decoded then a.takeFlit i f else a.dropFlit i f) s1
    let s3 := if 3 ≤ bad ∧ (s2.port i).trained then s2.retrain i (s2.port i).good else s2
    .next (((s3.port i).noisyGroups s.time).foldl (fun (a : State) g => a.failGroup i g) s3)

/-! Sent slots (R453, R463, R465, R473). -/

/-- A flit of a type with its header fields and the port's ACK and NAK, and its CRC. -/
def Port.makeFlit (x : Port) (fields : Nat) (body : List Byte) : FlitRec :=
  let h := fields + x.rxSeq * 2 ^ 16 + b2n x.nak * 2 ^ 28
  ⟨BitVec.ofNat 64 h, body, BitVec.ofNat 64 (crc64 (leBytes 8 h ++ body))⟩

/-- The header of the frame that the present slot opens (Table 11-2). -/
def Port.frameHeader (x : Port) : List Byte :=
  let b := leBytes 2 0xC3A5 ++ leBytes 4 (x.frames / 10) ++ leBytes 1 x.width ++ leBytes 1 (x.slot % 25)
  b ++ leBytes 2 (crc16 b)

/-- Send a flit in the present slot; every tenth slot opens a frame (R436, R438, R440). -/
def State.sendFlit (s : State) (i : Nat) (f : FlitRec) : State :=
  s.onPort i (fun x => { x with
    sent := some f, nak := false, slot := x.slot + 1, frames := x.frames + 1, head := if x.frames % 10 = 0 then x.frameHeader else x.head })

/-- Send a sequenced flit for the first time: it stays in the replay buffer until it is acknowledged. -/
def State.sendSequenced (s : State) (i fields : Nat) (body : List Byte) : State :=
  let x := s.port i
  let f := x.makeFlit (fields + x.txSeq * 16) body
  (s.setPort i { x with
    txSeq := (x.txSeq + 1) % 4096, unacked := x.unacked ++ [f], ackAt := if x.unacked.isEmpty then s.time else x.ackAt }).sendFlit i f

/-- Send the next flit of the replay under way, with a fresh ACK. -/
def State.sendReplay (s : State) (i : Nat) : State :=
  let x := s.port i
  match x.unacked[x.unacked.length - x.resend]? with
  | none => s.sendFlit i (x.makeFlit 0 (leBytes 240 0))
  | some f =>
    let fields := f.header.toNat % 2 ^ 16 + f.header.toNat / 2 ^ 29 * 2 ^ 29
    (s.setPort i { x with resend := x.resend - 1 }).sendFlit i (x.makeFlit fields f.body)

/-- A control record as it departs now: a BEACON's DELAY includes the time since it was ready, PING and PONG carry the
time. -/
def State.departing (s : State) (r : CtrlOut) : List Byte :=
  match r.since with
  | some t =>
    let d := leNat ((r.bytes.drop 4).take 4) + (s.time - t) * 16 / unitsPerNs
    r.bytes.take 4 ++ leBytes 4 d ++ r.bytes.drop 8
  | none =>
    let ty := (r.bytes.getD 0 0#8).toNat
    if ty = 6 ∨ ty = 7 then r.bytes.take 8 ++ leBytes 8 s.nsSinceReset ++ r.bytes.drop 16 else r.bytes

/-- The CTRL flit of a control slot (R440, R473): at most 10 records, a CREDIT record first where credits are owed. -/
def State.sendControl (s : State) (i : Nat) : State :=
  let x := s.port i
  let owes := x.owed.any (fun e => decide (e.2 ≠ 0)) && s.mayCarry i
  let back (k : Nat) : Nat := min 255 (Tbl.get 0 k x.owed)
  let credit := if owes then [leBytes 1 4 ++ leBytes 1 (back 0) ++ leBytes 1 (back 1) ++ leBytes 1 (back 2) ++ leBytes 20 0] else []
  let room := 10 - credit.length
  let now := x.ctrl.take room
  let body := (credit ++ now.map s.departing).flatMap (fun r => r.take 24 ++ leBytes (24 - r.length) 0)
  let pings := now.any (fun r => decide ((r.bytes.getD 0 0#8).toNat = 6))
  let owed := if owes then [0, 1, 2].foldl (fun t k => Tbl.put 0 k (Tbl.get 0 k t - back k) t) x.owed else x.owed
  (s.setPort i { x with ctrl := x.ctrl.drop room, owed := owed, pingAt := if pings then some s.nsSinceReset else x.pingAt }).sendFlit i
    (x.makeFlit 3 (body ++ leBytes (240 - body.length) 0))

/-- Whether a partition's TX entries may be sent (R453): from the opening of its run window to the next edge, unless its
slot set is frozen. -/
def State.sends (s : State) (p i : Nat) : Bool :=
  let x := s.part p
  !bit1 x.slotsFrozen i && (x.phase == .run || x.phase == .drain || x.phase == .publish
    || (x.phase == .idle && x.published && x.last == some .onTime && x.reset == .none))

/-- The TX entry due in the present slot: its partition, the entry, and the slots by which it is late beyond the lag. -/
def State.dueEntry (s : State) (i : Nat) : Option (Nat × TxEntry × Nat) :=
  let x := s.port i
  if 1024 ≤ x.unacked.length then none
  else s.definedParts.findSome? fun p =>
    let l := x.lane p
    if !bitOf (s.cfg.lane p i).mask (x.slot % 25) ∨ !s.sends p i ∨ x.slot < l.origin then none
    else match l.program.bind (fun g => g.tx[l.txAt]?) with
      | none => none
      | some e =>
        let at_ := x.slot - l.origin
        if at_ < e.slot + l.lag ∨ (e.gated ∧ Tbl.get 0 e.gate l.gates < e.gateN) then none else some (p, e, at_ - (e.slot + l.lag))

/-- Send a due TX entry. -/
def State.sendEntry (s : State) (i p : Nat) (e : TxEntry) (grow : Nat) : State :=
  let l := (s.port i).lane p
  let fields := 1 + p * 2 ^ 32 + (s.part p).tickNo % 256 * 2 ^ 36 + l.txAt % 65536 * 2 ^ 44
  let s1 := (s.sendSequenced i fields (s.slotRead p i e.addr 240)).onPort i (fun x =>
    { x.onLane p (fun l => { l with txAt := l.txAt + 1, lag := l.lag + grow, lagLogged := l.lagLogged || decide (grow ≠ 0) }) with
      ctr := { x.ctr with lagSlots := sat48 x.ctr.lagSlots grow } })
  if grow ≠ 0 ∧ !l.lagLogged then s1.event 0x0503 2 (some p) (i + grow * 2 ^ 16) else s1

/-- Credits a port holds for a message's channel. -/
def Port.creditFor (x : Port) (m : BulkOut) : Nat := Tbl.get 64 (if m.vc = 1 then 2 else m.sub) x.credits

/-- The message a VC carries on, or the one it opens next: of the waiting ones that may go, partitions in circular
order, each partition's oldest first. -/
def State.nextMessage (s : State) (i vc : Nat) : Option (BulkOut × Port) :=
  let x := s.port i
  match Tbl.get none vc x.out with
  | some m => some (m, x)
  | none =>
    let may (m : BulkOut) : Bool := decide (m.vc = vc) && decide (x.creditFor m ≠ 0) && (!m.own || (s.cfg.lane m.part i).bulk)
    let order := circularAfter 16 (Tbl.get 15 vc x.lastPart)
    match order.findSome? (fun p => x.queue.findIdx? (fun m => may m && decide (m.part = p))) with
    | none => none
    | some k =>
      match x.queue[k]? with
      | none => none
      | some m => some (m, { x with queue := x.queue.eraseIdx k, lastPart := Tbl.put 15 vc m.part x.lastPart })

/-- Send one bulk flit of a VC, or none where it has none to send, no credit, or no room in the replay buffer. -/
def State.sendBulkFlit (s : State) (i vc : Nat) : Option State :=
  match s.nextMessage i vc with
  | none => none
  | some (m, x) =>
    if x.creditFor m = 0 ∨ 1024 ≤ x.unacked.length then none
    else match m.bodies with
      | [] => none
      | b :: rest =>
        let ch := if vc = 1 then 2 else m.sub
        let fields := 2 + b2n (!m.opened) * 2 ^ 29 + b2n rest.isEmpty * 2 ^ 30 + m.part * 2 ^ 32 + vc * 2 ^ 44 + m.sub * 2 ^ 46
        let y := { x with
          credits := Tbl.put 64 ch (Tbl.get 64 ch x.credits - 1) x.credits
          out := Tbl.put none vc (if rest.isEmpty then none else some { m with opened := true, bodies := rest }) x.out }
        let s1 := (s.setPort i y).sendSequenced i fields b
        some (match m.back with
          | some (port, c) => s1.owe port c 1
          | none => s1)

/-- SPAN_SLOT (R440, R453, R463): the next flit slot of a port departs; during a retrain it passes empty. -/
def execSpanSlot (port : Fin 8) (s : State) : Outcome State Fault Refusal :=
  let i := port.val
  let x := s.port i
  if !x.trained then .next (if x.retraining then s.setPort i { x with slot := x.slot + 1 } else s)
  else if x.slot % 25 = 24 then .next (s.sendControl i)
  else if !s.mayCarry i then .next (s.sendFlit i (x.makeFlit 0 (leBytes 240 0)))
  else if x.resend ≠ 0 then .next (s.sendReplay i)
  else match s.dueEntry i with
    | some (p, e, grow) => .next (s.sendEntry i p e grow)
    | none => match s.sendBulkFlit i 1 with
      | some s1 => .next s1
      | none => match s.sendBulkFlit i 0 with
        | some s1 => .next s1
        | none => .next (s.sendFlit i (x.makeFlit 0 (leBytes 240 0)))

/-! Tick beacons (R474 to R479, R584, R585). -/

/-- BEACON (R474, R475, R477): a beacon on the upstream port is forwarded and heard, and places this device's edge while edges are
made. -/
def execBeacon (port : Fin 8) (rec : BeaconRec) (s : State) : Outcome State Fault Refusal :=
  let x := s.port port.val
  if !s.boot.complete ∨ s.tick.left ∨ !s.cfg.follows ∨ port.val ≠ s.cfg.beaconUp ∨ !x.trained ∨ rec.podId.toNat ≠ s.cfg.podId then .next s
  else
    let link := x.linkNs.getD 0
    let target : Int := ((s.time + s.cfg.beaconDelay * unitsPerNs : Nat) : Int) - (rec.delay.toNat * unitsPerNs / 16 + link * unitsPerNs : Nat)
    let idle := s.cfg.pod && rec.idle
    let lateBy := ((s.time : Int) - target).toNat
    let at_ := s.time + (target - (s.time : Int)).toNat
    let s1 := (portsOf s.cfg.beaconDown).foldl (fun (a : State) i =>
      a.sendCtrl i (beaconRecord (rec.hops.toNat + 1) idle rec.rootId.toNat (rec.delay.toNat + 16 * link) rec.tick.toNat rec.podId.toNat) (some s.time)) s
    let s2 := { s1 with tick := { s1.tick with heard := s.time, lostAt := none } }
    let s3 := { s2 with tick := { s2.tick with
      due := some (.beacon rec.tick.toNat, at_, idle), decided := (target - ((s.cfg.beaconDelay * unitsPerNs : Nat) : Int)).toNat
      } }
    if s.tick.halted then .next s2
    else if lateBy = 0 then .next s3
    else
      let run := rec.tick.toNat / 256
      let s4 := { s3 with tick := { s3.tick with beaconLate := sat32 s3.tick.beaconLate 1, beaconLateRun := some run } }
      .next (if s.tick.beaconLateRun = some run then s4 else s4.event 0x0504 2 none (lateBy / unitsPerNs % 2 ^ 32))

/-- DONE (R476, R584): a DONE record arrives on a downstream port, for the tick in progress or for the boot. -/
def execDone (port : Fin 8) (rec : DoneRec) (s : State) : Outcome State Fault Refusal :=
  let i := port.val
  if !s.cfg.pod ∨ !bitOf s.cfg.beaconDown i ∨ !(s.port i).trained ∨ rec.podId.toNat ≠ s.cfg.podId then .next s
  else
    let bit := BitVec.ofNat 8 (2 ^ i)
    let t := s.tick
    if rec.tick.toNat = 2 ^ 64 - 1 then
      .next (if bit1 t.bootDone i then s else { s with tick := { t with bootDone := t.bootDone ||| bit, doneDevices := t.doneDevices + rec.devices.toNat } })
    else if some rec.tick.toNat = t.count ∧ !bit1 t.doneFrom i then
      .next ({ s with tick := { t with
        doneFrom := t.doneFrom ||| bit, idleReq := t.idleReq || rec.idleReq, doneDevices := t.doneDevices + rec.devices.toNat } }.sendDone)
    else .next s

/-- BOOT_DONE_POD (R584): a pod device whose boot has completed, and whose children's boot DONE have come, sends its own
upstream. -/
def execBootDonePod (s : State) : Outcome State Fault Refusal :=
  if s.cfg.pod ∧ s.boot.complete ∧ s.cfg.follows ∧ !s.tick.bootDoneSent ∧ (portsOf s.cfg.beaconDown).all (fun i => bit1 s.tick.bootDone i) then
    .next ({ s with tick := { s.tick with bootDoneSent := true } }.sendCtrl s.cfg.beaconUp
      (doneRecord false (s.tick.doneDevices + 1) (2 ^ 64 - 1) s.cfg.podId))
  else .next s

/-- The HOLD record (Table 11-9). -/
def holdRecord (tick podId : Nat) : List Byte := leBytes 1 3 ++ leBytes 7 0 ++ leBytes 8 tick ++ leBytes 4 podId ++ leBytes 4 0

/-- HOLD (R477): with no port, the tick root's own after 100 µs without a beacon; with a port, one that has arrived
upstream. Either goes out on every downstream port. -/
def execHold (port : Option (Fin 8)) (tick : W64) (podId : W32) (s : State) : Outcome State Fault Refusal :=
  let onward (a : State) (t d : Nat) : State := (portsOf a.cfg.beaconDown).foldl (fun (b : State) i => b.sendCtrl i (holdRecord t d)) a
  match port with
  | none =>
    if s.cfg.isRoot ∧ s.ticking ∧ 100 * unitsPerUs ≤ s.time - s.tick.heard then
      .next (onward { s with tick := { s.tick with heard := s.time } } s.tickWord s.cfg.podId)
    else .next s
  | some i =>
    if s.cfg.follows ∧ s.boot.complete ∧ !s.tick.left ∧ i.val = s.cfg.beaconUp ∧ (s.port i.val).trained ∧ podId.toNat = s.cfg.podId then
      .next (onward { s with tick := { s.tick with heard := s.time } } tick.toNat podId.toNat)
    else .next s

/-- BEACON_LOST (R477): neither BEACON nor HOLD for 1 ms. No edge is made until a beacon ends the loss. -/
def execBeaconLost (s : State) : Outcome State Fault Refusal :=
  if s.cfg.follows ∧ s.ticking ∧ s.tick.lostAt.isNone ∧ unitsPerMs ≤ s.time - s.tick.heard then
    .next (({ s with tick := { s.tick with lostAt := some s.time } }.event 0x0505 3 none 0).signal pfFn 2)
  else .next s

/-- The LEAVE record (Table 11-9). -/
def State.leaveRecord (s : State) : List Byte := leBytes 1 8 ++ leBytes 1 s.cfg.deviceId ++ leBytes 14 0 ++ leBytes 4 s.cfg.podId ++ leBytes 4 0

/-- Whether the device must leave its pod: its beacon loss has lasted BEACON_TIMEOUT, or in pod class the beacon of tick
0 has not come that long after boot completion (R478, R585). -/
def State.mustLeave (s : State) : Bool :=
  let limit := (if s.cfg.beaconTimeoutMs = 0 then 100 else s.cfg.beaconTimeoutMs) * unitsPerMs
  (match s.tick.lostAt with
    | some t => decide (limit ≤ s.time - t)
    | none => false)
  || (s.cfg.pod && s.tick.count.isNone && s.tick.due.isNone && decide (limit ≤ s.time - s.boot.completedAt))

/-- LEFT_POD (R478): the device leaves its pod: LEAVE on every port that is not down (one in a retrain sends it afterwards), an event, the pod interrupt, and no
further edge or status record: one that waits for a scrub is dropped. -/
def execLeftPod (s : State) : Outcome State Fault Refusal :=
  if s.cfg.follows ∧ s.ticking ∧ s.mustLeave then
    let s1 := (List.range 8).foldl (fun (a : State) i =>
      if (a.port i).lives then a.sendCtrl i s.leaveRecord else a) s
    let s2 := s1.dropRecords (fun _ => true)
    .next (({ s2 with tick := { s2.tick with left := true, due := none } }.event 0x0506 4 none 0).signal pfFn 2)
  else .next s

/-- LEAVE (R478): a neighbour has left the pod; only CTRL and IDLE flits go on this port from now on. -/
def execLeave (port : Fin 8) (dev : BitVec 8) (podId : W32) (s : State) : Outcome State Fault Refusal :=
  let x := s.port port.val
  if !x.trained ∨ x.partnerLeft ∨ podId.toNat ≠ s.cfg.podId then .next s
  else .next (((s.setPort port.val { x with partnerLeft := true }).event 0x0507 3 none (port.val + dev.toNat * 2 ^ 8)).signal pfFn 2)

/-- SPAN_PLL_UNLOCK (R600): the port is handled as one that fails to train. -/
def execSpanPllUnlock (port : Fin 8) (s : State) : Outcome State Fault Refusal :=
  let x := s.port port.val
  if x.phase = .off ∨ x.phase = .down then .next s else .next (s.portDown port.val x.good)

end Sys2Proof.Machine
end

