-- ==== Sys2Proof/Machine/Partition.lean ====
section
/-! DEFINITION. Partition resets (R543 to R549), window scrubs (R360), function resets and the host's configuration of the
device (R486 to R494, R628 to R630). -/

namespace Sys2Proof.Machine

open Host (Outcome)

/-! The steps of a partition reset. -/

/-- A partition's windows that a reset scrubs: valid, not shared, in ascending order. -/
def State.scrubWindows (s : State) (p : Nat) : List Nat :=
  (List.range 8).filter (fun w => (s.cfg.window p w).valid && !(s.cfg.window p w).shared)

/-- A pending switch, and one whose roster is being loaded, are answered RESETTING. -/
def State.dropSwitches (s : State) (p : Nat) : State :=
  let x := s.part p
  let answer (a : State) (w : Option Switch) : State := match w with
    | some v => a.finish v.fn v.msgId 1 stResetting
    | none => a
  answer (answer (s.setPart p { x with switch := none, answers := none, loading := false }) x.switch) x.answers

/-- A Spire whose bulk messages have been dropped: its transfers wait for no ACK, and those with nothing left leave (R290). -/
def Spire.forgetBulk (x : Spire) : Spire :=
  [0, 1, 2, 3].foldl (fun (y : Spire) u =>
    y.setUnit u (((y.unit u).map (fun t => { t with bulkBuf := none, bulkOut := 0, bulkSignal := 0 })).filter (fun t => !t.stopped || t.busy))) x

/-- The partition's outbound bulk messages not yet begun are dropped, and later ACKs reach no transfer (Table 13-8). -/
def State.dropBulk (s : State) (p : Nat) : State :=
  (s.spiresOf p).foldl (fun (a : State) sp => a.onSpire sp Spire.forgetBulk) <| (List.range 8).foldl (fun (a : State) i => a.onPort i (fun x => { x with
    queue := x.queue.filter (fun m => !(m.own && decide (m.part = p)))
    waits := x.waits.filter (fun w => decide (w.part ≠ p)) })) s

/-- A staging into a window of the partition that is not shared stops, and its object is not staged (Table 13-8). -/
def State.dropStaging (s : State) (p : Nat) : State :=
  match s.store.staging with
  | none => s
  | some r => match s.cfg.objects[r.obj]? with
    | some o =>
      if o.part = p ∧ !(s.cfg.window p o.window).shared then
        { s with store := { s.store with staging := none } }.setObj r.obj { s.obj r.obj with staging := .notStaged }
      else s
    | none => s

/-- The imports of a partition are abandoned: their programs that have not started are dropped, and what they have written is free
(Table 13-8). Those of others go on. -/
def State.abandonImports (s : State) (p : Nat) : State :=
  (s.onStore (fun t => t.cutImports (fun q => decide (q.part = p)))).runImports

/-- Abandoned imports get their final response (Table 13-8). -/
def State.endAbandoned (s : State) (p : Nat) : State :=
  (s.store.imports.filter (fun q => decide (q.part = p) && q.abandoned)).foldl (fun (a : State) q => a.finish q.fn q.msg 2 stResetting)
    (s.onStore (fun t => { t with imports := t.imports.filter (fun q => !(decide (q.part = p) && q.abandoned)) }))

/-- The reads of a partition that a controller has not served are dropped as its reset quiesces (R545, Table 13-8). -/
def State.dropReads (s : State) (p : Nat) : State :=
  let sps := s.spiresOf p
  (s.core.ctls.flatMap (fun e => e.2.reads ++ e.2.waiting)).foldl (fun (a : State) q =>
    if sps.contains q.sp then a.endReq q.sp q.unit q.xfer q.req else a) s

/-- Step 1 (R545): the tick in progress is published RESET, the Spires and masters stop, and switches are answered; the reads
of step 2 that no controller has served are dropped with it. -/
def State.startReset (s : State) (p : Nat) (byFlr : Bool) (msg : Option Nat) : State :=
  let s1 := s.onPart p (fun x => { x with reset := .quiesce, resetByFlr := byFlr, resetMsg := msg })
  let s2 := if s1.tick.count.isSome ∧ !(s1.part p).published then s1.publish p .reset (s1.part p).lateRun 0 else s1
  let s3 := (s2.stopEngines p).onPart p (fun x => { x with phase := .idle, due := none, draining := false, stalledSince := none })
  ((((s3.dropReads p).dropSwitches p).dropBulk p).dropStaging p).abandonImports p

/-- Whether a transfer holds nothing but requests whose packets were lost with their owner (R337). -/
def Xfer.lostOnly (x : Xfer) : Bool := x.reqs.all (fun r => decide (r.phase = .lost))

/-- The end of step 2 (R545, Table 13-8): none of the partition's transactions is in progress, no accepted RX action of it, no page
program of its imports, and no staging into its own windows (step 1 has stopped it). -/
def State.quiesced (s : State) (p : Nat) : Bool :=
  (s.spiresOf p).all (fun sp => [0, 1, 2, 3, 4].all (fun u => ((s.spire sp).unit u).all Xfer.lostOnly))
    && s.core.pushes.all (fun w => decide (w.part ≠ p) || decide (w.phase ≠ .flying))
    && (List.range 8).all (fun i => (s.port i).pendingRx.all (fun r => decide (r.part ≠ p)))
    && s.store.imports.all (fun q => decide (q.part ≠ p) || !q.abandoned || q.wait.isEmpty)

/-- Step 3 on the tiles and routers of some Spires: zeros (R231), and nothing under way. -/
def Core.cleared (c : Core) (mine : Nat → Bool) (p : Nat) : Core :=
  let tile (k : Nat) : Bool := mine (spireOfTile k)
  { c with
    sram := c.sram.filter (fun e => !tile (e.1 / 0x40000))
    sramCe := c.sramCe.filter (fun w => !tile (w / 0x8000))
    sramUe := c.sramUe.filter (fun w => !tile (w / 0x8000))
    acc := c.acc.filter (fun e => !tile (e.1 / 2048))
    tags := c.tags.filter (fun e => !tile (e.1 / 8))
    vreg := c.vreg.filter (fun e => !tile (e.1 / 512))
    setOwner := c.setOwner.filter (fun e => !tile (e.1 / 8))
    regOwner := c.regOwner.filter (fun e => !tile (e.1 / 16))
    bankUse := c.bankUse.filter (fun e => !mine e.1)
    landing := c.landing.filter (fun e => !tile e.1)
    twrites := c.twrites.filter (fun w => !mine w.spire)
    arrivals := c.arrivals.filter (fun a => !tile a.tile)
    writeBacks := c.writeBacks.filter (fun w => !mine w.spire)
    pushes := c.pushes.filter (fun w => decide (w.part ≠ p))
    ctls := c.ctls.map (fun e => (e.1, { e.2 with reads := e.2.reads.filter (fun r => !mine r.sp), waiting := e.2.waiting.filter (fun r => !mine r.sp) })) }

/-- Step 3 (R545): the partition's memory on the die is zeroed, and its queues, gates, lags and freeze records cleared. -/
def State.clearPart (s : State) (p : Nat) : State :=
  let sps := s.spiresOf p
  let s1 := (s.onCore (fun c => c.cleared (fun sp => sps.contains sp) p)).admitAll
  let s2 := sps.foldl (fun (a : State) sp => a.onSpire sp (fun x => { ctr := x.ctr, orders := x.orders, stopped := true })) s1
  let s3 := (List.range 8).foldl (fun (a : State) i =>
    let l := a.cfg.lane p i
    a.onPort i (fun x => if l.size = 0 then x else
      { x.onLane p (fun y => { program := y.program }) with store := Tbl.clear l.base l.size x.store })) s2
  s3.onPart p fun x => { x with
    slotsFrozen := 0#8, frzHost := 0#32, frzHostLo := 0#32, frzHostHi := 0#32
    sel := false, lateRun := 0, parked := false, stallRun := 0 }

/-- Step 6 (R545, R423): the objects whose destination lay in a scrubbed window are to be staged again. -/
def State.beginRestage (s : State) (p : Nat) : State :=
  let wins := s.scrubWindows p
  let lost := (List.range s.cfg.objects.length).filter (fun i => match s.cfg.objects[i]? with
    | some o => decide (o.part = p) && wins.contains o.window
    | none => false)
  let s1 := lost.foldl (fun (a : State) i => a.setObj i { a.obj i with staging := .notStaged, badReadBacks := 0 }) s
  let mine := lost.filter s1.stageable
  s1.onPart p (fun x => { x with
    reset := if mine.isEmpty then .restart else .restage, restage := mine, roster := if mine.isEmpty then none else x.roster })

/-- Step 4 (R545): the frames published so far are passed over, and the reset is answered. Step 5 begins. -/
def State.completeReset (s : State) (p : Nat) : State :=
  let x := s.part p
  let rings := List.range (s.pcfg p).rings.length
  let moves := rings.any (fun r => decide ((x.ring r).ci ≠ (x.ring r).pi))
  let pass (r : Ring) : Ring := { r with
    discard := sat32 r.discard r.frames.length, ci := r.pi, recorded := r.pi, frames := [], lateTo := none }
  let s1 := (s.onRings p pass).onPart p (fun y => { y with reset := .scrub, scrubs := s.scrubWindows p, resetMsg := none })
  let s2 := s1.event 0x0204 1 (some p) (b2n x.resetByFlr)
  let s3 := match x.resetMsg with
    | some m => s2.finish pfFn m 5 stOk
    | none => s2
  let s4 := (s3.endAbandoned p).signal p 2
  let s5 := if moves then s4.signal p 3 else s4
  if (s5.part p).scrubs.isEmpty then s5.beginRestage p else s5

/-- RESET_QUIESCED (R545): step 2 has ended; steps 3 and 4 follow, and step 5 begins. -/
def execResetQuiesced (p : Fin 16) (s : State) : Outcome State Fault Refusal :=
  if (s.part p.val).reset = .quiesce ∧ s.goesOn ∧ s.quiesced p.val then .next ((s.clearPart p.val).completeReset p.val) else .next s

/-! Function resets. -/

/-- A function's configuration space, MSI-X table and mailbox rings at their reset values; its counters stay (R491,
R641), and its counter shadows are stale (R682). -/
def Func.flr (f : Func) : Func :=
  { bar2Ur := f.bar2Ur, mbx := { ignored := f.mbx.ignored, pendingIds := f.mbx.pendingIds } }

/-- Whether a request for a partition reset is accepted at all (R612, R621). -/
def State.takesResets (s : State) : Bool := s.power.mode != .powerFail && s.power.mode != .shutdownDone && !s.power.gated

/-- VF_FLR (R491, R543, R544): the VF is reset, and a partition reset starts unless one runs. -/
def execVfFlr (vf : Fin 16) (s : State) : Outcome State Fault Refusal :=
  let s := s.dueEdge
  let k := vf.val
  if !s.host.vfEnable ∨ s.host.numVfs ≤ k then .next s
  else
    let s1 := s.onFn k Func.flr
    .next (if (s1.pcfg k).defined ∧ s1.boot.complete ∧ (s1.part k).reset = .none ∧ s1.takesResets then s1.startReset k true none else s1)

/-- The PF at its reset values, with VF Enable cleared (R491). -/
def State.resetPf (s : State) : State :=
  let s1 := s.onFn pfFn Func.flr
  { s1 with host := { s1.host with vfEnable := false, numVfs := 0, d3hot := false, ptmEnable := false } }

/-- PF_FLR (R491). -/
def execPfFlr (s : State) : Outcome State Fault Refusal := .next (if s.host.pcieReady then s.dueEdge.resetPf else s.dueEdge)

/-- The data link is lost: every function is reset, no partition is, and the link trains again (R630). -/
def State.linkDown (s : State) : State :=
  if !s.host.linkUp then s
  else
    let s1 := ((List.range 16).foldl (fun (a : State) k => a.onFn k Func.flr) s).resetPf
    let s2 := { s1 with host := { s1.host with linkUp := false, linkWidth := 0, flit := false } }
    s2.event 0x0701 3 none s.host.linkSpeed

/-- DL_DOWN (R630). -/
def execDlDown (s : State) : Outcome State Fault Refusal := .next s.dueEdge.linkDown

/-- Pending MSI-X messages that may be sent now are sent (R494, R518); in Plinth mode none is (R588). -/
def State.flushPending (s : State) (fn : Nat) : State :=
  (s.fn fn).msix.pending.foldl (fun (a : State) v =>
    let m := (a.fn fn).msix
    if !a.rom.plinthOut ∧ m.enable ∧ !m.maskAll ∧ m.unmasked.contains v ∧ (a.fn fn).busMaster ∧ !a.host.d3hot then
      a.onFn fn (fun f => { f with msix := { m with pending := m.pending.erase v, sent := Tbl.put 0 v (Tbl.get 0 v m.sent + 1) m.sent } })
    else a) s

/-- PM_STATE_CHANGE (R490, R494): the host moves the PF between D0 and D3hot. It does so by a configuration request, which is
answered Request Retry Status until the PCIE stage has completed. -/
def execPmStateChange (d3 : Bool) (s : State) : Outcome State Fault Refusal :=
  let s := s.dueEdge
  if !s.host.linkUp then .next s
  else if !s.host.pcieReady then .next (s.answer .retry)
  else if s.host.d3hot = d3 then .next s
  else
    let s1 := { s with host := { s.host with d3hot := d3 } }
    .next (if d3 then s1 else (List.range 17).foldl State.flushPending s1)

/-! Configuration space (R488, R489, Table 12-2). -/

/-- The capabilities of a function in configuration space: offset and ID, in the order of their chain. PRESUMED (log 41): the
IDs and the places of the fields are those of PCI Express; Table 12-2 gives names and offsets. -/
def capabilities (fn : Nat) : List (Nat × Nat) := if fn = pfFn then [(0x40, 0x01), (0x50, 0x11), (0x70, 0x10)] else [(0x50, 0x11), (0x70, 0x10)]

/-- The extended capabilities of a function: offset and ID. -/
def extendedCaps (fn : Nat) : List (Nat × Nat) :=
  if fn = pfFn then
    [(0x100, 0x01), (0x148, 0x03), (0x158, 0x0E), (0x160, 0x10), (0x1A0, 0x19), (0x1D0, 0x25), (0x1E0, 0x26), (0x210, 0x2A),
     (0x240, 0x31), (0x260, 0x27), (0x2B0, 0x1F), (0x2C0, 0x2F)]
  else [(0x100, 0x01)]

/-- The entry of a chain at an offset: its ID and the offset of the next one, 0 for none. -/
def chainAt (o : Nat) : List (Nat × Nat) → Option (Nat × Nat)
  | [] => none
  | (a, id) :: rest => if a = o then some (id, (rest.head?.map Prod.fst).getD 0) else chainAt o rest

/-- Replace the bits from `lo` on, `n` of them, of a word. -/
def withField (w lo n v : Nat) : Nat := w % 2 ^ lo + v % 2 ^ n * 2 ^ lo + w / 2 ^ (lo + n) * 2 ^ (lo + n)

/-- One half of a 64-bit value: the upper where `hi` says so. -/
def half32 (v : Nat) (hi : Bool) : Nat := if hi then v / 2 ^ 32 % 2 ^ 32 else v % 2 ^ 32

/-- A DW of a function's configuration space: identity, chains, what Table 12-1 supports (an endpoint that takes 512 B of
payload, 10-bit and 14-bit tags as completer, FLR, ECRC, PTM as a requester only; D0 and D3hot; no INTx, ASPM, L0p, LTR, TPH, ACS, AtomicOps,
OBFF or deferrable writes), the serial number (Table 17-2), what the link runs at, AER's status, and the settings the host makes; every other bit is a free value. -/
def State.configWord (s : State) (fn o : Nat) : Nat :=
  let w := (Config.cfgWord fn o).toNat
  let f := s.fn fn
  let pf := decide (fn = pfFn)
  let header := match chainAt o (capabilities fn), chainAt o (extendedCaps fn) with
    | some (id, next), _ => withField w 0 16 (id + next * 2 ^ 8)
    | none, some (id, next) => withField (withField w 0 16 id) 20 12 next
    | none, none => w
  if o = 0x00 then 0x1D7A + (if pf then 0xC409 else 0xC40A) * 2 ^ 16
  else if o = 0x04 then withField w 2 1 (b2n f.busMaster)
  else if o = 0x08 then 0xB1 + 0x120000 * 2 ^ 8
  else if o = 0x2C then (if s.rom.plinthOut then 0 else s.cfg.subVendor % 2 ^ 16 + s.cfg.subId % 2 ^ 16 * 2 ^ 16)
  else if o = 0x34 then withField w 0 8 ((capabilities fn).headD (0, 0)).1
  else if o = 0x3C then withField w 8 8 0
  else if o = 0x40 ∧ pf then withField header 25 2 0
  else if o = 0x44 ∧ pf then withField (withField w 0 2 (if s.host.d3hot then 3 else 0)) 3 1 1
  else if o = 0x50 then withField (withField header 16 11 (if pf then 127 else 119)) 30 2 (b2n f.msix.maskAll + 2 * b2n f.msix.enable)
  else if o = 0x70 then withField (withField header 16 4 2) 20 4 0
  else if o = 0x74 then withField (withField (withField w 0 3 2) 5 1 1) 28 1 1
  else if o = 0x78 then withField (withField w 5 3 f.maxPayload) 12 3 f.maxRead
  else if o = 0x7C then withField (withField w 4 6 16) 10 2 0
  else if o = 0x80 then withField (withField (withField w 0 2 0) 16 4 s.host.linkSpeed) 20 6 s.host.linkWidth
  else if o = 0x94 then
    withField (withField (withField (withField (withField (withField (withField w 7 3 0) 11 1 0) 12 2 0) 16 1 1) 17 1 0) 18 2 0) 28 1 0
  else if o = 0xA0 then withField w 26 1 (b2n s.host.flit)
  else if o = 0x104 then withField (withField (withField w 12 1 (b2n f.aer.poisoned)) 19 1 (b2n f.aer.ecrc)) 20 1 (b2n f.aer.unsupported)
  else if o = 0x110 then withField (withField (withField (withField (withField w 0 1 (b2n f.aer.receiver)) 6 1 (b2n f.aer.badTlp)) 7 1 (b2n f.aer.badDllp))
    8 1 (b2n f.aer.replay)) 12 1 (b2n f.aer.replayTimeout)
  else if o = 0x118 then withField (withField w 5 1 1) 7 1 1
  else if o = 0x14C ∧ pf then (if s.rom.loaded then half32 s.rom.otp.uniqueId.toNat false else 0)
  else if o = 0x150 ∧ pf then (if s.rom.loaded then half32 s.rom.otp.uniqueId.toNat true else 0)
  else if o = 0x2C4 ∧ pf then withField (withField w 1 2 1) 3 1 0
  else if o = 0x15C ∧ pf then withField w 1 1 0
  else if o = 0x164 ∧ pf then withField w 2 1 0
  else if o = 0x168 ∧ pf then withField w 0 1 (b2n s.host.vfEnable)
  else if o = 0x16C ∧ pf then withField w 16 16 (if s.rom.plinthOut then 0 else 16)
  else if o = 0x170 ∧ pf then withField w 0 16 s.host.numVfs
  else if o = 0x2B4 ∧ pf then withField w 0 3 1
  else if o = 0x2B8 ∧ pf then withField w 0 1 (b2n s.host.ptmEnable)
  else header

/-- CONFIGURATION_REQUEST (R490, R492, R494): a configuration request of the host. Before the PCIE stage has completed the
PF answers Request Retry Status; a VF that is not enabled does not answer. -/
def execConfigurationRequest (fn : Fn) (req : CfgReq) (s : State) : Outcome State Fault Refusal :=
  let s := s.dueEdge
  let f := fn.val
  let bus (g : Func → Func) : State := ((s.onFn f g).flushPending f).answer .ok
  if !s.host.linkUp then .next (s.answer .unsupported)
  else if f ≠ pfFn ∧ (!s.host.vfEnable ∨ s.host.numVfs ≤ f) then .next (s.answer .unsupported)
  else if !s.host.pcieReady then .next (s.answer .retry)
  else match req with
    | .vfEnable n on =>
      if f ≠ pfFn ∨ s.rom.plinthOut then .next (s.answer .ok)
      else .next ({ s with host := { s.host with vfEnable := on, numVfs := min n 16 } }.answer .ok)
    | .ptmEnable on => if f ≠ pfFn then .next (s.answer .ok) else .next ({ s with host := { s.host with ptmEnable := on } }.answer .ok)
    | .busMaster on => .next (bus (fun x => { x with busMaster := on }))
    | .msixEnable on => .next (bus (fun x => { x with msix := { x.msix with enable := on } }))
    | .msixFunctionMask on => .next (bus (fun x => { x with msix := { x.msix with maskAll := on } }))
    | .msixVectorMask v on =>
      if (if f = pfFn then 128 else 120) ≤ v then .next (s.answer .ok)
      else .next (bus (fun x => { x with msix := { x.msix with
        unmasked := if on then x.msix.unmasked.erase v else v :: x.msix.unmasked.erase v } }))
    | .read o => if o < 0x1000 then .next (s.answer (.data (s.configWord f (o / 4 * 4)))) else .next (s.answer .unsupported)
    | .sizes payload readRequest => .next ((s.onFn f (fun x => { x with maxPayload := min payload 2, maxRead := min readRequest 5 })).answer .ok)
    | .other => .next (s.answer .ok)

/-- PCIE_LINK_TRAINING (R486, R571): a training attempt of the PCIe link ends. Speed is coded as MAX_SPEED; the link never
trains above it, nor above 64 GT/s, nor below 2.5 GT/s, and at 64 GT/s it runs in Flit mode. An attempt that fails is logged, and training goes on. -/
def execPcieLinkTraining (trained : Bool) (speed width : Nat) (s : State) : Outcome State Fault Refusal :=
  if s.host.linkUp ∨ s.boot.inReset ∨ s.intrusive then .next s
  else
    let s1 := { s with host := { s.host with trainings := s.host.trainings + 1 } }
    if trained then
      let top := if s.cfg.maxSpeed = 0 then 6 else s.cfg.maxSpeed
      .next { s1 with host := { s1.host with linkUp := true, linkSpeed := max 1 (min speed top), flit := decide (6 ≤ min speed top), linkWidth := (([16, 8, 4, 2, 1].find? (fun w => decide (w ≤ width))).getD 1) } }
    else .next (s1.event 0x0703 2 none (s1.host.trainings % 2 ^ 32))

/-- PCIE_CORRECTABLE_ERROR (R628): recorded in the function's AER status and counted; no event. -/
def execPcieCorrectableError (fn : Fn) (kind : PcieCe) (s : State) : Outcome State Fault Refusal :=
  let s1 := { s with host := { s.host with pcieCe := sat32 s.host.pcieCe 1 } }
  let set (a : Aer) : Aer := match kind with
    | .receiver => { a with receiver := true }
    | .badTlp => { a with badTlp := true }
    | .badDllp => { a with badDllp := true }
    | .replay => { a with replay := true }
    | .replayTimeout => { a with replayTimeout := true }
  .next (s1.onFn fn.val (fun f => { f with aer := set f.aer }))

/-- PCIE_WRITE_DROPPED (R629): a received memory write whose ECRC fails or whose EP bit is set is dropped. -/
def execPcieWriteDropped (fn : Fn) (ecrc ep : Bool) (s : State) : Outcome State Fault Refusal :=
  if !ecrc && !ep then .next s
  else
    let s1 := { s with host := { s.host with pcieUe := sat32 s.host.pcieUe 1, completion := .dropped } }
    let s2 := s1.onFn fn.val (fun f => { f with aer := { f.aer with ecrc := f.aer.ecrc || ecrc, poisoned := f.aer.poisoned || ep } })
    .next (s2.event 0x0702 2 none ((if fn.val = pfFn then 0xF else fn.val) + b2n ecrc * 2 ^ 4 + b2n ep * 2 ^ 5))

end Sys2Proof.Machine
end

