-- ==== Sys2Proof/Machine/Host.lean ====
section
/-! DEFINITION. Host accesses of VF BAR2 and doorbells (R495 to R502, R546), what waits for a window scrub (R360), and the
readings of the HBM stacks (R347, R359). -/

namespace Sys2Proof.Machine

open Host (Outcome)

/-- Whether VF BAR2 is closed without a violation (R494, R524, R546, R586, R612, R621). -/
def State.bar2Closed (s : State) (k : Nat) : Bool :=
  !s.boot.complete || s.host.d3hot || !(s.pcfg k).defined || (s.part k).reset == .quiesce
    || s.power.mode == .powerFail || s.power.mode == .shutdownDone

/-- Whether a VF answers memory requests at all. -/
def State.vfOn (s : State) (k : Nat) : Bool := s.host.linkUp && !s.power.gated && s.host.vfEnable && decide (k < s.host.numVfs)

/-- Whether a function answers memory requests of BAR0. -/
def State.fnOn (s : State) (fn : Nat) : Bool :=
  s.host.linkUp && s.host.pcieReady && !s.power.gated && !s.host.d3hot && (decide (fn = pfFn) || (s.vfOn fn && !s.rom.plinthOut))

/-- Whether an access is permitted (R495). -/
def State.bar2Permits (s : State) (k off n : Nat) (write : Bool) : Bool :=
  let w := s.cfg.window k (off / 2 ^ s.cfg.ap)
  w.valid && decide (off % 2 ^ s.cfg.ap + n ≤ w.bytes) && (if write then w.hostWr else w.hostRd)

/-- Bytes of a BAR2 access. -/
def bar2Len : Bar2Op → Nat
  | .read n => n
  | .write bs => bs.length

/-- Whether a BAR2 access writes. -/
def bar2Writes : Bar2Op → Bool
  | .read _ => false
  | .write _ => true

/-- Refuse an access with Unsupported Request: a write reports it through AER. -/
def State.refuse (s : State) (fn : Nat) (write : Bool) : State :=
  if write then (s.onFn fn (fun f => { f with aer := { f.aer with unsupported := true } })).answer .dropped else s.answer .unsupported

/-- The permitted access itself: HBM is read (R493) or written, and what its bursts met is counted (R354), `bursts` being
that of its first burst. A partial write that
meets an uncorrectable burst is not performed (R356). -/
def State.bar2Do (s : State) (k off : Nat) (op : Bar2Op) (bursts : BurstRec) : State :=
  let a := (s.cfg.window k (off / 2 ^ s.cfg.ap)).addr (off % 2 ^ s.cfg.ap)
  let s := (s.countBursts a bursts).meetSoft a (bar2Len op)
  match op with
  | .read n =>
    match s.badBurst a n with
    | some b =>
      let s1 := (s.countUe (s.badIn a n)).onFn k (fun f => { f with aer := { f.aer with poisoned := true } })
      (s1.event 0x0301 3 (some k) b).answer (.poisoned (List.replicate n 0xFF#8))
    | none => s.answer (.bytes (s.hbmRead a n))
  | .write bs =>
    match s.badPartial a bs.length with
    | some b => (s.countUe (s.badEdges a bs.length)).answer .dropped
    | none => (s.hbmWrite a bs).answer .ok

/-- A BAR2 access that does not wait (R495, R497, R546). -/
def State.bar2Now (s : State) (k off : Nat) (op : Bar2Op) (bursts : BurstRec) : State :=
  let write := bar2Writes op
  if s.bar2Closed k then (s.refuse k write).onFn k (fun f => { f with bar2Ur := sat32 f.bar2Ur 1 })
  else if bit1 (s.part k).frzHost 0 then s.refuse k write
  else if !s.bar2Permits k off (bar2Len op) write then (s.refuse k write).freezeHost k 2 write off 0 0
  else s.bar2Do k off op bursts

/-- Whether a BAR2 access must wait: its window is under scrub, or an earlier access of its VF waits (R360, R496). -/
def State.bar2Waits (s : State) (k off : Nat) : Bool :=
  !s.bar2Closed k && (s.underScrub k (off / 2 ^ s.cfg.ap) || s.host.waiting.any (fun w => decide (w.vf = k)))

/-- BAR2_ACCESS (R495): a VF BAR2 access reaches a window, waits for a scrub, or is a host window violation. -/
def execBar2Access (vf : Fin 16) (offset : Nat) (op : Bar2Op) (s : State) (bursts : BurstRec := {}) : Outcome State Fault Refusal :=
  let s := s.dueEdge
  let k := vf.val
  if !s.vfOn k then .next (s.answer .unsupported)
  else if s.boot.complete ∧ 8 * 2 ^ s.cfg.ap < offset + bar2Len op then .fault .outsideBar
  else if s.bar2Waits k offset then
    .next ({ s with host := { s.host with waiting := s.host.waiting ++ [WaitOp.bar2 k offset op bursts] } }.answer .waiting)
  else .next (s.bar2Now k offset op bursts)

/-- A doorbell accepted (R501, R502, R546): the frame is published, or refused when the ring is full or the partition is
in steps 1 to 4 of a reset. -/
def State.doorbell (s : State) (k r src : Nat) : State :=
  let x := s.part k
  let ring := x.ring r
  let c := (s.pcfg k).rings.getD r {}
  let put (y : Ring) : State := s.setPart k { x with rings := Tbl.put {} r y x.rings }
  if x.reset = .quiesce ∨ (ring.pi + 2 ^ 32 - ring.ci) % 2 ^ 32 ≥ c.slots then put { ring with refused := sat32 ring.refused 1 }
  else put { ring with pi := (ring.pi + 1) % 2 ^ 32, frames := ring.frames ++ [⟨ring.pi, src, s.time⟩] }

/-- A write of INGEST_DB (R501, R502, R680): a full write publishes a frame, or waits behind earlier BAR2 writes of its VF
(R496, R501); a narrower one is ignored and counted; a ring the partition does not have is a reserved register. -/
def State.writeDb (s : State) (k r : Nat) (value : W32) (be : BitVec 4) : State :=
  if be = 0#4 ∨ (s.pcfg k).rings.length ≤ r then s.answer .ok
  else if be ≠ 0xF#4 then { s with rom := { s.rom with regIgnored := sat32 s.rom.regIgnored 1 } }.answer .dropped
  else if s.host.waiting.any (fun w => decide (w.vf = k)) then
    { s with host := { s.host with waiting := s.host.waiting ++ [WaitOp.doorbell k r (fld value 15 0)] } }.answer .ok
  else (s.doorbell k r (fld value 15 0)).answer .ok

/-- INGEST_DB (R501): a doorbell write of a VF publishes a frame. -/
def execIngestDb (vf : Fin 16) (ring : Fin 16) (value : W32) (be : BitVec 4) (s : State) : Outcome State Fault Refusal :=
  let s := s.dueEdge
  if !s.vfOn vf.val ∨ s.host.d3hot ∨ s.rom.plinthOut then .next (s.answer .unsupported)
  else .next (s.writeDb vf.val ring.val value be)

/-- Let the inbound WRITEs that wait for a scrub go on. -/
def State.releaseWrites (s : State) : State :=
  (List.range 8).foldl (fun (a : State) i =>
    let ws := (a.port i).heldWrites
    ws.foldl (fun (b : State) w => b.takeWrite i w.src w.part w.msgId w.window w.off (some w.bytes)) (a.onPort i (fun x => { x with heldWrites := [] }))) s

/-- The device's own writes that wait for the scrub of a window go on, in order. -/
def State.releaseOwn (s : State) (p w : Nat) : State :=
  let held := (s.part p).heldWrites
  (held.filter (fun h => decide (h.1 = w))).foldl (fun (a : State) h => match h.2.2.2 with
    | some st => a.putRecord p h.2.1 h.2.2.1 st
    | none => State.ownWrite 2 a h.2.1 h.2.2.1) (s.onPart p (fun x => { x with heldWrites := held.filter (fun h => decide (h.1 ≠ w)) }))

/-! HBM stacks. -/

/-- How a stack is refreshed (Table 9-3). -/
inductive Refresh where
  | none | allBank | perBank | perBankTwice | self
  deriving DecidableEq, Repr

/-- The refresh of a stack in the device's present state (R358, R359): none before the HBM stage, all banks while it
initialises the stacks, bank by bank while the device runs and while the rails hold, at the rate its temperature asks for, and
self refresh after an orderly shutdown. -/
def State.refresh (s : State) (stack : Nat) : Refresh :=
  match s.core.hbmMode with
  | .held => if s.boot.stage = 7 then .allBank else .none
  | .selfRefresh => .self
  | _ => if (Tbl.get {} stack s.core.hbmStacks).doubleRefresh then .perBankTwice else .perBank

/-- HBM_TEMP_READ (R359, R605): every stack's temperature is read; it sets the stack's refresh rate, and the highest is
Th. -/
def execHbmTempRead (temps : List Int) (s : State) : Outcome State Fault Refusal :=
  let s := s.dueEdge
  if s.core.hbmMode = .held ∨ temps.length ≠ 6 then .next s
  else
    let all := temps.zipIdx.foldl (fun t q => Tbl.put {} q.2 { Tbl.get {} q.2 t with temp := q.1, doubleRefresh := decide (q.1 > 85) } t) s.core.hbmStacks
    let top : Int := temps.foldl max (temps.headD 0)
    .next ({ s with core := { s.core with hbmStacks := all }, power := { s.power with th := some top } }.noteSample (decide (top < hbmShed.2)))

/-- HBM_ECS_READ (R347, R354): the error check and scrub counts of the stacks are read and counted. `soft`
names bursts, each by an address, that a retry or a correction mends at their next access (DESIGN CHOICE, log 40). -/
def execHbmEcsRead (counts : List Nat) (s : State) (soft : List (Nat × BurstRec) := []) : Outcome State Fault Refusal :=
  if s.core.hbmMode = .held ∨ counts.length ≠ 6 then .next s
  else .next (s.onCore fun c => { c with
    hbmSoft := c.hbmSoft ++ soft.map (fun e => (e.1 / 32, e.2))
    hbmStacks := counts.zipIdx.foldl (fun t q => let x := Tbl.get {} q.2 t; Tbl.put {} q.2 { x with ce := sat32 x.ce q.1 } t) c.hbmStacks })

end Sys2Proof.Machine
end

