-- ==== Sys2Proof/Machine/Image.lean ====
section
/-! DEFINITION. The boot image as it lies in a slot of the boot flash (R555 to R560), its configuration records (Tables
14-6 to 14-9 and 11-10), and the configuration check (Table 14-10). -/

namespace Sys2Proof.Machine

/-! OTP. -/

/-- A key-hash slot. -/
def Otp.hash (o : Otp) : Nat → BitVec 384
  | 0 => o.hash0 | 1 => o.hash1 | 2 => o.hash2 | _ => o.hash3

/-- Whether a key-hash slot is programmed (R648). -/
def Otp.programmed (o : Otp) (k : Nat) : Bool := decide (k < 4) && o.hash k != 0#384

/-- Blown fuses from `i` upward, up to the first unblown one. -/
def blownFrom (arb : BitVec 64) : Nat → Nat → Nat
  | 0, _ => 0
  | f + 1, i => if bit1 arb i then blownFrom arb f (i + 1) + 1 else 0

/-- The anti-rollback count (R651). -/
def Otp.arbCount (o : Otp) : Nat := blownFrom o.arb 64 0

/-! The directory. -/

/-- A directory entry (Table 14-3). -/
structure DirEntry where
  type : Nat
  sub : Nat
  index : Nat
  off : Nat
  len : Nat
  check : Nat
  deriving DecidableEq, Repr

/-- An entry of sixteen bytes. -/
def DirEntry.ofBytes (b : List Byte) : DirEntry :=
  { type := numAt b 0 1, sub := numAt b 1 1, index := numAt b 2 2, off := numAt b 4 4, len := numAt b 8 4, check := numAt b 0xC 4 }

/-- The order of R557. -/
def DirEntry.key (e : DirEntry) : Nat := e.type * 2 ^ 24 + e.index * 2 ^ 8 + e.sub

/-- A TYPE of Table 14-4, with INDEX and SUB as it states. -/
def DirEntry.placeOk (e : DirEntry) : Bool :=
  match e.type with
  | 1 => e.index == 0 && e.sub == 0
  | 2 => e.index == 0 && e.sub == 0
  | 3 => decide (e.index ≤ 15) && e.sub == 0
  | 4 => e.index == 0 && e.sub == 0
  | 5 => e.index == 0 && e.sub == 0
  | 6 => e.index == 0 && e.sub == 0
  | 7 => decide (e.index ≤ 65534) && e.sub == 0
  | 8 => decide (e.index ≤ 65534) && e.sub == 0
  | 9 => decide (e.index ≤ 65534) && decide (e.sub ≤ 15)
  | 10 => decide (e.index ≤ 65534) && decide (e.sub ≤ 7)
  | _ => false

/-- The entries of an image. -/
def dirOf (img : List Byte) : List DirEntry := (List.range (numAt img 0x24 4)).map (fun i => DirEntry.ofBytes (sliceOf img (0x100 + 16 * i) 16))

/-- Whether two ranges of bytes meet. -/
def meet (a m b n : Nat) : Bool := decide (a < b + n) && decide (b < a + m) && decide (0 < m) && decide (0 < n)

/-- Whether no two of a list of ranges meet. -/
def disjoint : List (Nat × Nat) → Bool
  | [] => true
  | r :: rs => rs.all (fun q => !meet r.1 r.2 q.1 q.2) && disjoint rs

/-- Whether the directory of a signed region keeps R557 and R558, with one good FIRMWARE record. -/
def dirOk (img : List Byte) : Bool :=
  let n := numAt img 0x24 4
  let es := dirOf img
  let dirEnd := 0x100 + 16 * n
  let ranges := es.map (fun e => (e.off, e.len))
  decide (numAt img 0x20 4 = 0x100) && decide (3 ≤ n) && decide (n ≤ 4096) && decide (dirEnd ≤ img.length)
    && strictlyRising (es.map DirEntry.key) && es.all DirEntry.placeOk
    && es.all (fun e => e.off % 64 == 0 && decide (dirEnd ≤ e.off) && decide (e.off + e.len ≤ img.length))
    && disjoint ranges
    && (img.zipIdx.drop dirEnd).all (fun b => b.1 == 0#8 || ranges.any (fun r => decide (r.1 ≤ b.2) && decide (b.2 < r.1 + r.2)))
    && (match es.filter (fun e => e.type == 1) with
        | [e] => decide (crc32 (sliceOf img e.off e.len) = e.check)
        | _ => false)

/-! The IMAGE stage. -/

/-- The reason that the IMAGE-stage checks of a slot give (R556 to R560, Table 14-12); 0 when the image verifies. With all four
key-hash slots empty every check ends in 0x0305 (R648). -/
def Rom.imageReason (r : Rom) (slot : Nat) : Nat :=
  let h := r.slotRead slot 0 256
  let len := numAt h 0x10 8
  if (List.range 4).all (fun k => !r.otp.programmed k) then 0x0305
  else if h.take 4 ≠ [0x51#8, 0x42#8, 0x49#8, 0x4D#8] ∨ numAt h 0xFC 4 ≠ crc32 (h.take 0xFC) then 0x0301
  else if numAt h 4 2 ≠ 1 then 0x0302
  else if numAt h 6 1 ≠ 0xB1 then 0x0303
  else if r.slotSize < len + 256 ∨ len % 64 ≠ 0 then 0x0304
  else
    let sig := r.slotRead slot len 256
    let img := r.slotRead slot 0 len
    let key := numAt h 7 1
    if sig.take 4 ≠ [0x51#8, 0x53#8, 0x49#8, 0x47#8] ∨ numAt sig 8 8 ≠ len then 0x0304
    else if !r.otp.programmed key || bit1 r.otp.revoke key
        || sha384 (sliceOf sig 0x10 96) != leBytes 48 (r.otp.hash key).toNat then 0x0305
    else if !ecdsaValid (sliceOf sig 0x10 96) (sliceOf sig 0x70 96) (sha384 img) then 0x0306
    else if numAt h 8 8 < r.otp.arbCount then 0x0307
    else if !dirOk img then 0x0308
    else 0

/-! Records. -/

/-- A record with its directory entry. -/
structure Rec where
  e : DirEntry
  b : List Byte
  deriving DecidableEq, Repr

/-- The records of an image, in directory order. -/
def recsOf (img : List Byte) : List Rec := (dirOf img).map (fun e => ⟨e, sliceOf img e.off e.len⟩)

/-- The records of a type. -/
def ofType (rs : List Rec) (t : Nat) : List Rec := rs.filter (fun r => r.e.type == t)

/-- The bytes of a record; none listed gives no bytes. -/
def recBytes (rs : List Rec) (t idx sub : Nat) : List Byte :=
  match rs.find? (fun r => r.e.type == t && r.e.index == idx && r.e.sub == sub) with
  | some r => r.b
  | none => []

/-- Whether a record is listed. -/
def hasRec (rs : List Rec) (t idx sub : Nat) : Bool := rs.any (fun r => r.e.type == t && r.e.index == idx && r.e.sub == sub)

/-- A field of a number that a record holds at an offset. -/
def bitsAt (b : List Byte) (off n hi lo : Nat) : Nat := fieldOf (numAt b off n) hi lo

/-- A window of a PARTITION record (Tables 9-4 and 9-5). -/
def windowOf (v : Nat) : WinCfg :=
  { base := fieldOf v 18 0, valid := bitOf v 19, rd := bitOf v 20, wr := bitOf v 21, hostRd := bitOf v 22, hostWr := bitOf v 23
    shared := bitOf v 24, size := fieldOf v 48 32 }

/-- Ring `i` of a PARTITION record. -/
def ringOf (b : List Byte) (i : Nat) : RingCfg :=
  let o := 0xB0 + 48 * i
  { window := numAt b o 1, positions := numAt b (o + 2) 2, slots := numAt b (o + 4) 4, chunks := numAt b (o + 8) 2
    chunk := numAt b (o + 0xC) 4, ringOff := numAt b (o + 0x10) 8, fillOff := numAt b (o + 0x18) 8, manifestOff := numAt b (o + 0x20) 8 }

/-- Result area `i` of a PARTITION record. -/
def resultOf (b : List Byte) (i : Nat) : ResultCfg :=
  let o := 0x70 + 16 * i
  { window := numAt b o 1, bankSize := numAt b (o + 4) 4, bankOff := numAt b (o + 8) 8 }

/-- A PARTITION record (Table 14-7), with the default shares of R284. -/
def partOfRec (b : List Byte) : PartCfg :=
  let none_ := numAt b 9 3 = 0
  { defined := true, ns := numAt b 1 1, spires := numAt b 2 2, guardUs := numAt b 4 4, latePark := numAt b 8 1 == 1
    readShare := if none_ then 10 else numAt b 9 1, writeShare := if none_ then 4 else numAt b 0xA 1
    remoteShare := if none_ then 2 else numAt b 0xB 1, initialRoster := numAt b 0xC 2
    rings := (List.range (min 16 (numAt b 0xE 1))).map (ringOf b), results := (List.range (min 4 (numAt b 0xF 1))).map (resultOf b)
    nsQuota := numAt b 0x10 8
    windows := (List.range 8).foldl (fun t w => Tbl.put {} w (windowOf (numAt b (0x20 + 8 * w) 8)) t) []
    statusWindow := numAt b 0x60 1, statusSlots := numAt b 0x64 4, statusOff := numAt b 0x68 8 }

/-- Entry `i` of the OBJECT_LIST record (Table 14-8). -/
def objectOf (b : List Byte) (i : Nat) : ObjCfg :=
  let o := 16 + 72 * i
  { objId := numAt b o 4, ns := numAt b (o + 4) 1, part := numAt b (o + 5) 1, window := numAt b (o + 6) 1, destOff := numAt b (o + 8) 8
    bodyLen := numAt b (o + 0x10) 8, digest := sliceOf b (o + 0x18) 48 }

/-- A ROSTER record (Table 14-9), before its validation. -/
def rosterOf (r : Rec) : RosterCfg :=
  let b := r.b
  { id := r.e.index, part := numAt b 2 1, contexts := numAt b 3 1, spires := numAt b 4 2, rings := numAt b 6 2, results := numAt b 8 1
    ports := numAt b 9 1, extents := (List.range 8).map (fun w => numAt b (0x10 + 8 * w) 8)
    phases := (List.range 8).map (fun p => numAt b (0x50 + 4 * p) 4), objects := (List.range (numAt b 0xA 2)).map (fun i => numAt b (0x70 + 2 * i) 2) }

/-- Port `i` of the TOPOLOGY record (Table 11-10). -/
def portOfRec (b : List Byte) (i : Nat) : PortCfg :=
  let o := 0x20 + 32 * i
  { enabled := bitOf (numAt b o 1) 0, skein := bitOf (numAt b o 1) 1, partnerDev := numAt b (o + 1) 1, partnerPort := numAt b (o + 2) 1
    planWidth := numAt b (o + 3) 1, maxLinkNs := numAt b (o + 4) 4 }

/-- Partition `q` on port `p` of the TOPOLOGY record; regions are kept in bytes. -/
def laneOfRec (b : List Byte) (q p : Nat) : LaneCfg :=
  let v := numAt b (0x220 + 64 * q + 8 * p) 8
  { mask := fieldOf v 23 0, bulk := bitOf v 24, base := fieldOf v 37 32 * 65536, size := fieldOf v 54 48 * 65536 }

/-- A profile code (Table 14-6). -/
def profileOf : Nat → Profile
  | 0 => .pod720 | 1 => .store260 | _ => .cool180
/-- A tick source code. -/
def sourceOf : Nat → TickSource
  | 0 => .tickIn | 1 => .internal | _ => .ptm

/-- The configuration that the records give. -/
def cfgOf (rs : List Rec) : Cfg :=
  let d := recBytes rs 2 0 0
  let pci := recBytes rs 4 0 0
  let t := recBytes rs 5 0 0
  let ob := recBytes rs 6 0 0
  { valid := true, pod := numAt d 0 1 == 1, profile := profileOf (numAt d 1 1), tickSource := sourceOf (numAt d 2 1)
    stretchLimit := numAt d 3 1, periodUs := numAt d 4 4, ptmPhaseNs := numAt d 8 8
    shedOrder := (List.range (min 16 (numAt d 0x10 1))).map (fun i => numAt d (0x20 + i) 1)
    formatPolicy := numAt d 0x11 1, nandDdr3 := numAt d 0x12 1 == 1, pslcFa := numAt d 0x13 1, nandRate := numAt d 0x14 2
    pslcOn := BitVec.ofNat 32 (numAt d 0x18 4), pslcOff := BitVec.ofNat 32 (numAt d 0x1C 4)
    tlcRated := numAt d 0x30 4, pslcRated := numAt d 0x34 4, belfryBase := numAt d 0x38 4, belfrySize := numAt d 0x3C 4
    parts := (ofType rs 3).foldl (fun m r => Tbl.put {} r.e.index (partOfRec r.b) m) []
    objects := (List.range (min 4096 (numAt ob 0 4))).map (objectOf ob)
    rosters := (ofType rs 7).map rosterOf
    subVendor := numAt pci 0 2, subId := numAt pci 2 2, ap := numAt pci 4 1, maxSpeed := numAt pci 5 1
    hasTopology := hasRec rs 5 0 0, podId := numAt t 0 4, deviceId := numAt t 4 1
    rootId := if hasRec rs 5 0 0 then numAt t 5 1 else 0xFF, devices := numAt t 6 2, beaconDelay := numAt t 8 4
    beaconTimeoutMs := numAt t 0xC 4, podHash := numAt t 0x10 8
    beaconUp := if hasRec rs 5 0 0 then numAt t 0x18 1 else 0xFF, beaconDown := numAt t 0x19 1
    routes := (List.range 256).foldl (fun m i => Tbl.put 0 i (numAt t (0x120 + i) 1) m) []
    ports := (List.range 8).foldl (fun m i => Tbl.put {} i (portOfRec t i) m) []
    lanes := (List.range 128).foldl (fun m k => Tbl.put {} k (laneOfRec t (k / 8) (k % 8)) m) [] }

/-! The configuration check. -/

/-- The length that Table 14-4 gives a record. -/
def lengthOk (c : Cfg) (r : Rec) : Bool :=
  let n := r.b.length
  match r.e.type with
  | 1 => decide (n ≤ 4 * 2 ^ 20)
  | 2 => n == 128
  | 3 => n == 944
  | 4 => n == 16
  | 5 => n == 1568
  | 6 => decide (16 ≤ n) && n == 16 + 72 * numAt r.b 0 4
  | 7 => decide (112 ≤ n) && n == 112 + 2 * numAt r.b 0xA 2
  | 8 => decide (0x38 ≤ n) && n == numAt r.b 0x34 4
  | 9 =>
    match c.rosters.find? (fun q => q.id == r.e.index) with
    | some q => match (c.part q.part).rings[r.e.sub]? with
      | some g => n == 4 * g.positions * g.chunks
      | none => true
    | none => true
  | 10 => decide (16 ≤ n) && n == 16 + 16 * (numAt r.b 4 4 + numAt r.b 8 4)
  | _ => false

/-- Row 0x01: what must be there, how often, and in what length: a roster has a PLACEMENT for a ring it uses, and for no other. -/
def recordsOk (rs : List Rec) (c : Cfg) : Bool :=
  hasRec rs 2 0 0 && hasRec rs 4 0 0 && hasRec rs 6 0 0 && rs.all (lengthOk c)
    && rs.all (fun r => !(r.e.type == 8 || r.e.type == 9 || r.e.type == 10) || hasRec rs 7 r.e.index 0)
    && (ofType rs 9).all (fun r => ((c.rosters.find? (fun q => q.id == r.e.index)).map (fun q => bitOf q.rings r.e.sub)).getD true)
    && (ofType rs 7).all (fun r => numAt r.b 0 2 == r.e.index && hasRec rs 8 r.e.index 0)

/-- Whether the reserved bytes of a record are 0 (row 0x02), with R564. Plans, placements and Span programs are judged
with their rosters. -/
def reservedOk (r : Rec) : Bool :=
  let b := r.b
  match r.e.type with
  | 2 => zeroAt b 0x16 2 && zeroAt b 0x40 64
  | 3 =>
    zeroAt b 0x18 8
      && (List.range 8).all (fun w => let v := numAt b (0x20 + 8 * w) 8; fieldOf v 31 25 == 0 && fieldOf v 63 49 == 0)
      && zeroAt b 0x61 3
      && (List.range 4).all (fun i => if i < numAt b 0xF 1 then zeroAt b (0x71 + 16 * i) 3 else zeroAt b (0x70 + 16 * i) 16)
      && (List.range 16).all (fun i => let o := 0xB0 + 48 * i
          if i < numAt b 0xE 1 then zeroAt b (o + 1) 1 && zeroAt b (o + 0xA) 2 && zeroAt b (o + 0x28) 8 else zeroAt b o 48)
  | 4 => zeroAt b 6 10
  | 5 =>
    zeroAt b 0x1A 6
      && (List.range 8).all (fun i => let o := 0x20 + 32 * i; numAt b o 1 / 4 == 0 && zeroAt b (o + 8) 24)
      && (List.range 256).all (fun i => bitsAt b (0x120 + i) 1 6 4 == 0)
      && (List.range 128).all (fun k => let v := numAt b (0x220 + 8 * k) 8
          fieldOf v 31 25 == 0 && fieldOf v 47 38 == 0 && fieldOf v 63 55 == 0)
  | 6 => zeroAt b 4 12 && (List.range (numAt b 0 4)).all (fun i => zeroAt b (16 + 72 * i + 7) 1)
  | 7 => zeroAt b 0xC 4 && (List.range 8).all (fun p => zeroAt b (0x53 + 4 * p) 1)
  | _ => true

/-- Whether a lid cools a profile (R24, Table 0-1). -/
def lidAllows (lid : BitVec 2) (p : Profile) : Bool :=
  if lid = 1#2 then p != .pod720 else lid == 2#2

/-- Row 0x04: the tick. -/
def tickOk (d : List Byte) : Bool :=
  let pod := numAt d 0 1 == 1
  let src := numAt d 2 1
  let limit := numAt d 3 1
  let period := numAt d 4 4
  let phase := numAt d 8 8
  decide (src ≤ 2) && decide (1000 ≤ period) && decide (period ≤ if pod then 60000000 else 1000000)
    && decide (phase < period * 1000)
    && (if pod then decide (limit ≤ 100) && decide ((if limit = 0 then 10 else limit) * period ≤ 60000000) else limit == 0)

/-- Row 0x05: the shed order. -/
def shedOk (d : List Byte) (c : Cfg) : Bool :=
  let n := numAt d 0x10 1
  decide (n ≤ 16) && c.shedOrder.all (fun p => (c.part p).defined) && decide (c.shedOrder.Nodup)

/-- Row 0x06: NAND settings and wear ratings (Table 10-1). -/
def nandOk (d : List Byte) : Bool :=
  let rates := match numAt d 0x12 1 with
    | 0 => [2400, 3200]
    | 1 => [800, 1200, 1600]
    | _ => []
  rates.contains (numAt d 0x14 2) && decide (numAt d 0x11 1 ≤ 2) && decide (1 ≤ numAt d 0x30 4) && decide (numAt d 0x30 4 ≤ 100000)
    && decide (1 ≤ numAt d 0x34 4) && decide (numAt d 0x34 4 ≤ 1000000)

/-- HBM in units of 2 MiB. -/
def hbmUnits : Nat := 110592

/-- Row 0x08: the partitions (R523, R58). -/
def partitionsOk (rs : List Rec) (c : Cfg) : Bool :=
  let ps := ofType rs 3
  let claims := c.parts.flatMap (fun p => (List.range 16).filter (fun sp => bitOf p.2.spires sp))
  ps.all (fun r => numAt r.b 0 1 == r.e.index && decide (numAt r.b 1 1 ≤ 15) && numAt r.b 2 2 != 0
      && decide (numAt r.b 8 1 ≤ 1) && (!c.pod || numAt r.b 8 1 == 0)
      && (numAt r.b 4 4 == 0 || (decide (c.periodUs ≤ 100 * numAt r.b 4 4) && decide (2 * numAt r.b 4 4 ≤ c.periodUs)))
      && c.rosters.any (fun q => q.id == numAt r.b 0xC 2 && q.part == r.e.index))
    && decide (claims.Nodup) && decide ((c.parts.map (fun p => p.2.ns)).Nodup)

/-- Row 0x09: the windows (R363 to R365). DESIGN CHOICE (log 42): a window with VALID 0 and any other bit set fails this row. -/
def windowsOk (c : Cfg) : Bool :=
  let ws := c.parts.flatMap (fun p => p.2.windows.map (fun w => (p.1, w.2)))
  let live := ws.filter (fun w => w.2.valid)
  ws.all (fun w => w.2.valid || w.2 == {})
    && live.all (fun w => decide (1 ≤ w.2.size) && decide (w.2.base + w.2.size ≤ hbmUnits)
        && !meet w.2.base w.2.size c.belfryBase c.belfrySize && (!w.2.shared || (!w.2.wr && !w.2.hostWr)))
    && live.zipIdx.all (fun a => live.zipIdx.all (fun b => decide (b.2 ≤ a.2)
        || !meet a.1.2.base a.1.2.size b.1.2.base b.1.2.size
        || (a.1.2.shared && b.1.2.shared && decide (a.1.1 ≠ b.1.1))))

/-- Row 0x0A: the shares (R284). -/
def sharesOk (p : PartCfg) : Bool :=
  let s := [p.readShare, p.writeShare, p.remoteShare]
  s.all (fun x => decide (1 ≤ x) && decide (x ≤ 14)) && decide (p.readShare + p.writeShare + p.remoteShare ≤ 16)

/-- The bytes of a window when it has what a use needs. -/
def PartCfg.usable (p : PartCfg) (w : Nat) (need : WinCfg → Bool) : Option Nat :=
  let x := Tbl.get {} w p.windows
  if w < 8 ∧ x.valid ∧ need x then some x.bytes else none

/-- The ranges of a ring in its window: slots, fill area and manifest. -/
def RingCfg.ranges (g : RingCfg) : List (Nat × Nat) :=
  let slot := g.chunks * g.chunk
  [(g.ringOff, g.slots * slot), (g.fillOff, slot), (g.manifestOff, 16 * g.positions * g.chunks)]

/-- Whether a ring keeps R498 and lies in its window. -/
def ringOk (p : PartCfg) (g : RingCfg) : Bool :=
  g.ringOff % 256 == 0 && decide (2 ≤ g.slots) && decide (g.slots ≤ 65536) && decide (1 ≤ g.chunks) && decide (g.chunks ≤ 256)
    && decide (64 ≤ g.chunk) && decide (g.chunk ≤ 65536) && g.chunk % 64 == 0 && g.chunks * g.chunk % 256 == 0
    && decide (1 ≤ g.positions) && decide (g.positions ≤ 1024) && g.fillOff % 256 == 0 && g.manifestOff % 16 == 0
    && (match p.usable g.window (fun w => w.rd && w.hostWr && !w.shared) with
        | some n => g.ranges.all (fun r => decide (r.1 + r.2 ≤ n))
        | none => false)

/-- Whether a result area keeps R508. -/
def resultOk (p : PartCfg) (a : ResultCfg) : Bool :=
  a.bankSize % 256 == 0 && a.bankOff % 256 == 0
    && (match p.usable a.window (fun w => w.hostRd && w.wr) with
        | some n => decide (a.bankOff + 2 * a.bankSize ≤ n)
        | none => false)

/-- Whether the status ring keeps R506 and R364, under which nothing but staging writes into a shared window. DESIGN CHOICE (log
42): a ring in a shared window fails row 0x0B, the row of the status ring. -/
def statusOk (p : PartCfg) : Bool :=
  [16, 32, 64, 128, 256, 512, 1024, 2048, 4096].contains p.statusSlots && p.statusOff % 64 == 0
    && (match p.usable p.statusWindow (fun w => w.hostRd && !w.shared) with
        | some n => decide (p.statusOff + 64 * p.statusSlots ≤ n)
        | none => false)

/-- Row 0x0B: rings, status rings and result areas (R498, R499, R506, R508). -/
def ringsOk (rs : List Rec) (c : Cfg) : Bool :=
  (ofType rs 3).all (fun r => decide (numAt r.b 0xE 1 ≤ 16) && decide (numAt r.b 0xF 1 ≤ 4))
    && c.parts.all (fun p => p.2.rings.all (ringOk p.2) && p.2.results.all (resultOk p.2) && statusOk p.2
        && (List.range 8).all (fun w => disjoint ((p.2.rings.filter (fun g => g.window == w)).flatMap RingCfg.ranges)))
    && decide ((c.parts.flatMap (fun p => p.2.rings)).foldl (fun n g => n + g.positions * g.chunks) 0 ≤ 4096)

/-- Whether no two of a list of masks share a bit. -/
def masksApart : Nat → List Nat → Bool
  | _, [] => true
  | seen, m :: ms => (seen &&& m) == 0 && masksApart (seen ||| m) ms

/-- Row 0x0C: the topology record (R481). -/
def topologyOk (t : List Byte) (c : Cfg) : Bool :=
  let isRoot := c.rootId == c.deviceId
  let hop (i : Nat) : Nat := (c.port i).maxLinkNs + 100
  let down := (List.range 8).filter (bitOf c.beaconDown)
  let depth := (if c.beaconUp < 8 then hop c.beaconUp else 0) + (down.map hop).foldl max 0
  decide (1 ≤ c.devices) && decide (c.devices ≤ 256)
    && decide (1000 ≤ c.beaconDelay) && decide (c.beaconDelay ≤ 100000) && decide (c.beaconTimeoutMs ≤ 10000)
    && (decide (c.beaconUp < 8) || c.beaconUp == 0xFF)
    && (List.range 8).all (fun i => [24, 16, 12, 8].contains (c.port i).planWidth)
    && (if c.rootId = 0xFF then !c.pod && c.beaconUp == 0xFF && c.beaconDown == 0
        else decide (c.rootId < c.devices) && (if isRoot then c.beaconUp == 0xFF else (c.port c.beaconUp).enabled)
          && decide (depth ≤ c.beaconDelay))
    && !bitOf (Tbl.get 0 c.deviceId c.routes) 7
    && (List.range 8).all (fun i =>
        masksApart 0 ((List.range 16).map (fun q => (c.lane q i).mask))
          && disjoint ((List.range 16).map (fun q => ((c.lane q i).base, (c.lane q i).size)))
          && (List.range 16).all (fun q => decide ((c.lane q i).base + (c.lane q i).size ≤ 64 * 65536)))
    && t.length == 1568

/-- Where an object goes in HBM: address and length. -/
def Cfg.destOf (c : Cfg) (o : ObjCfg) : Nat × Nat := ((c.window o.part o.window).addr o.destOff, o.bodyLen)

/-- Row 0x0E: the model-object list (R566). -/
def objectsOk (ob : List Byte) (c : Cfg) : Bool :=
  decide (numAt ob 0 4 ≤ 4096)
    && c.objects.all (fun o => o.objId != 0 && (c.part o.part).defined && o.ns == (c.part o.part).ns
        && (match (c.part o.part).usable o.window (fun _ => true) with
            | some n => decide (o.destOff + o.bodyLen ≤ n)
            | none => false)
        && o.destOff % 4096 == 0)
    && disjoint (c.objects.map c.destOf)

/-- The code of the first row that does not hold, in a list in rising order of codes; 0 when all hold. -/
def firstBroken (rows : List (Nat × Bool)) : Nat := ((rows.find? (fun r => !r.2)).map Prod.fst).getD 0

/-- The detail code of the configuration check (R568, Table 14-10); 0 when it passes. -/
def configDetail (rs : List Rec) (lid : BitVec 2) : Nat :=
  let c := cfgOf rs
  let d := recBytes rs 2 0 0
  firstBroken [
    (0x01, recordsOk rs c),
    (0x02, rs.all (fun r => decide (crc32 r.b = r.e.check) && reservedOk r)),
    (0x03, decide (numAt d 0 1 ≤ 1) && decide (numAt d 1 1 ≤ 2) && lidAllows lid c.profile),
    (0x04, tickOk d),
    (0x05, shedOk d c),
    (0x06, nandOk d),
    (0x07, decide (33 ≤ c.belfrySize) && decide (c.belfryBase + c.belfrySize ≤ hbmUnits)),
    (0x08, partitionsOk rs c),
    (0x09, windowsOk c),
    (0x0A, c.parts.all (fun p => sharesOk p.2)),
    (0x0B, ringsOk rs c),
    (0x0C, if c.hasTopology then topologyOk (recBytes rs 5 0 0) c else !c.pod),
    (0x0D, decide (30 ≤ c.ap) && decide (c.ap ≤ 34) && decide (1 ≤ c.maxSpeed) && decide (c.maxSpeed ≤ 6)),
    (0x0E, objectsOk (recBytes rs 6 0 0) c)]

end Sys2Proof.Machine
end

