-- ==== Sys2Proof/Machine/RegRead.lean ====
section
/-! DEFINITION. The register map (R663 to R673): where an offset lies, what each register holds, and reads of BAR0 (R674 to R678,
R681 to R683). -/

namespace Sys2Proof.Machine

/-! Where an offset lies. -/

/-- The blocks of the register space (Table 18-1) with their instance numbers. -/
inductive Block where
  | device
  | eventRing
  | spire (i : Nat)
  | part (i : Nat)
  | span (i : Nat)
  | cupola (i : Nat)
  | hbm (i : Nat)
  | nand (i : Nat)
  /-- A VF block, through its own BAR0 (`own`) or in the PF's view. -/
  | vf (i : Nat) (own : Bool)
  | reserved
  deriving DecidableEq, Repr

/-- The block and the offset in it that an offset of PF BAR0 reaches (Table 18-1). -/
def pfBlock (o : Nat) : Block × Nat :=
  if o < 0x10000 then (.device, o)
  else if 0x40000 ≤ o ∧ o < 0x80000 then (.eventRing, o - 0x40000)
  else if 0x100000 ≤ o ∧ o < 0x200000 then (.spire ((o - 0x100000) / 0x10000), o % 0x10000)
  else if 0x200000 ≤ o ∧ o < 0x210000 then (.part ((o - 0x200000) / 0x1000), o % 0x1000)
  else if 0x210000 ≤ o ∧ o < 0x210800 then (.span ((o - 0x210000) / 0x100), o % 0x100)
  else if 0x211000 ≤ o ∧ o < 0x211200 then (.cupola ((o - 0x211000) / 0x100), o % 0x100)
  else if 0x212000 ≤ o ∧ o < 0x212600 then (.hbm ((o - 0x212000) / 0x100), o % 0x100)
  else if 0x213000 ≤ o ∧ o < 0x214000 then (.nand ((o - 0x213000) / 0x100), o % 0x100)
  else if 0x1000000 ≤ o ∧ o < 0x1100000 then (.vf ((o - 0x1000000) / 0x10000) false, o % 0x10000)
  else (.reserved, o)

/-- The block that an offset of a function's BAR0 reaches. -/
def regPlace (fn o : Nat) : Block × Nat := if fn = pfFn then pfBlock o else (.vf fn true, o)

/-- The size of a function's BAR0 (Table 12-3). -/
def bar0Size (fn : Nat) : Nat := if fn = pfFn then 2 ^ 28 else 2 ^ 16

/-! Buffer regions (R664). -/

/-- A buffer region: the event ring, or the request or response slots of a function. -/
inductive Region where
  | events
  | requests (fn : Nat)
  | responses (fn : Nat)
  deriving DecidableEq, Repr

/-- The buffer region an offset of a block lies in, and the place in it. -/
def Block.region : Block → Nat → Option (Region × Nat)
  | .eventRing, o => some (.events, o)
  | .device, o =>
    if 0xE000 ≤ o ∧ o < 0xE800 then some (.requests pfFn, o - 0xE000)
    else if 0xE800 ≤ o ∧ o < 0xF800 then some (.responses pfFn, o - 0xE800)
    else none
  | .vf k _, o =>
    if 0x4000 ≤ o ∧ o < 0x4800 then some (.requests k, o - 0x4000)
    else if 0x4800 ≤ o ∧ o < 0x5800 then some (.responses k, o - 0x4800)
    else none
  | _, _ => none

/-- The size of a buffer region. -/
def Region.size : Region → Nat
  | .events => 0x40000
  | .requests _ => 0x800
  | .responses _ => 0x1000

/-- Bytes of a buffer region; in Plinth mode only the event ring is kept (R690). -/
def State.regionRead (s : State) (r : Region) (o n : Nat) : List Byte :=
  (List.range n).map (fun i => match r with
    | .events => (Tbl.get LogSlot.empty ((o + i) / 32) s.log.ring).bytes.getD ((o + i) % 32) 0#8
    | .requests f => if s.rom.plinthOut then 0#8 else Tbl.get 0#8 (o + i) (s.fn f).mbx.req
    | .responses f => if s.rom.plinthOut then 0#8 else Tbl.get 0#8 (o + i) (s.fn f).mbx.rsp)

/-! Register values. -/

/-- DEV_IDENT (R666). -/
def State.devIdent (s : State) : Nat :=
  0xB1 + (if s.rom.loaded then s.rom.otp.lid.toNat * 2 ^ 8 else 0)
    + (match s.cfg.profile with | .pod720 => 0 | .store260 => 1 | .cool180 => 2) * 2 ^ 10 + b2n s.cfg.pod * 2 ^ 12
    + b2n (s.cfg.valid && !s.rom.plinthOut) * 2 ^ 13 + 0x4096 * 2 ^ 16

/-- SEC_STATUS (R662): the OTP fields follow the fuses once the ROM stage has loaded them. -/
def State.secStatus (s : State) : Nat :=
  let o := s.rom.otp
  (if s.rom.loaded then
      (List.range 4).foldl (fun a k => a + b2n (o.programmed k) * 2 ^ k) 0 + o.revoke.toNat * 2 ^ 4 + o.arbCount * 2 ^ 8 + b2n o.lock * 2 ^ 15
    else 0) + s.rom.bootKey % 4 * 2 ^ 16 + s.rom.tamper * 2 ^ 18

/-- BOOT_STATUS (Table 14-17). -/
def State.bootStatus (s : State) : Nat :=
  s.boot.stage + s.boot.slot * 2 ^ 4 + s.boot.count.getD 0 * 2 ^ 6 + b2n s.rom.plinthOut * 2 ^ 8 + s.boot.plinthWhy * 2 ^ 9
    + s.boot.sel * 2 ^ 11 + s.boot.reason * 2 ^ 16

/-- PLINTH_STAT (Table 14-18). -/
def State.plinthStat (s : State) : Nat := b2n s.rom.run.isSome + s.rom.result * 2 ^ 4 + s.rom.reason * 2 ^ 16

/-- A temperature as a byte in two's complement. -/
def tempByte (t : Int) : Nat := (t % 256).toNat

/-- TH of THERM_STATUS (Table 15-6). DEDUCED (log 29): its reset value 0x00 until an attempt begins, and 0x80 from then until the
stacks are read. -/
def State.thByte (s : State) : Nat :=
  match s.power.th with
  | some t => tempByte t
  | none => if s.boot.stage = 0 then 0 else 0x80

/-- THERM_STATUS (Table 15-6). -/
def State.thermStatus (s : State) : Nat :=
  tempByte s.power.tj + s.thByte * 2 ^ 8 + s.tick.shedLevel % 32 * 2 ^ 16
    + b2n s.tick.idleAsked * 2 ^ 21 + b2n s.power.tripped * 2 ^ 22

/-- POWER_STATUS (Table 15-7). -/
def State.powerStatus (s : State) : Nat :=
  s.power.mv % 2 ^ 12 + s.power.ma / 500 % 2 ^ 12 * 2 ^ 12 + s.power.mode.code * 2 ^ 24 + b2n s.power.avsFault * 2 ^ 27

/-- TICK_INFO (R667). -/
def State.tickInfo (s : State) : Nat :=
  (if s.cfg.follows then 3 else match s.cfg.tickSource with | .tickIn => 0 | .internal => 1 | .ptm => 2)
    + b2n s.cfg.isRoot * 2 ^ 2 + b2n s.tick.count.isSome * 2 ^ 3 + b2n (s.tick.ptmLock && !s.tick.ptmLostLogged) * 2 ^ 4
    + b2n s.tick.lostAt.isSome * 2 ^ 5 + b2n s.tick.left * 2 ^ 6

/-- A half of a counter pair: its LO or its HI register. -/
def half (value : Nat) (hi : Bool) : Nat := if hi then value / 2 ^ 32 else value % 2 ^ 32

/-- A register of the device block (Table 18-2); none at an offset that names no register. -/
def State.deviceReg (s : State) (o : Nat) : Option Nat :=
  match o with
  | 0x0000 => some s.devIdent
  | 0x0008 => some (if s.rom.loaded then half s.rom.otp.uniqueId.toNat false else 0)
  | 0x000C => some (if s.rom.loaded then half s.rom.otp.uniqueId.toNat true else 0)
  | 0x0010 => some s.secStatus
  | 0x0020 => some s.bootStatus
  | 0x0024 => some (s.boot.history.getD 0 0 + s.boot.history.getD 1 0 * 2 ^ 16)
  | 0x0028 => some (s.boot.history.getD 2 0)
  | 0x0040 => some s.rom.off.toNat
  | 0x0044 => some s.rom.len.toNat
  | 0x0048 => some s.rom.cmd.toNat
  | 0x004C => some s.plinthStat
  | 0x0060 => some s.thermStatus
  | 0x0064 => some s.powerStatus
  | 0x0080 => some (half (s.tick.count.getD 0) false)
  | 0x0084 => some (half (s.tick.count.getD 0) true)
  | 0x0088 => some (half s.tick.stamp false)
  | 0x008C => some (half s.tick.stamp true)
  | 0x0090 => some s.cfg.periodUs
  | 0x0094 => some s.tickInfo
  | 0x00A0 => some (half s.ccyc.toNat false)
  | 0x00A4 => some (half s.ccyc.toNat true)
  | 0x00C0 => some (s.log.pos % 2 ^ 32)
  | 0x0100 => some s.tick.early
  | 0x0104 => some s.tick.missed
  | 0x0108 => some s.tick.beaconLate
  | 0x010C => some s.host.rwpIgnored
  | 0x0110 => some s.host.regUr
  | 0x0114 => some s.rom.plinthBusy
  | 0x0118 => some s.log.lost
  | 0x011C => some s.core.mesh.ce
  | 0x0120 => some s.core.mesh.ue
  | 0x0124 => some s.core.mesh.delivery
  | 0x0128 => some s.core.mesh.mantleRetry
  | 0x012C => some s.host.pcieCe
  | 0x0130 => some s.host.pcieUe
  | 0x0134 => some s.rom.regIgnored
  | 0xC000 => some (s.fn pfFn).mbx.reqPi.toNat
  | 0xC004 => some (s.fn pfFn).mbx.reqCi.toNat
  | 0xC008 => some (s.fn pfFn).mbx.rspPi.toNat
  | 0xC00C => some (s.fn pfFn).mbx.rspCi.toNat
  | _ => none

/-- The registers of the device block that Plinth mode keeps (Table 18-2). -/
def keptReg (o : Nat) : Bool :=
  [0x0000, 0x0008, 0x000C, 0x0020, 0x0024, 0x0028, 0x0040, 0x0044, 0x0048, 0x004C, 0x00C0, 0x0110, 0x0114, 0x0134].contains o

/-- The Spires whose arrival the barrier number `bid` still misses in a Spire (R238). -/
def State.missing (s : State) (sp bid : Nat) : List Nat :=
  (List.range 8).flatMap (fun c => match ((s.spire sp).ctx c).barrier with
    | some (b, k, mask) => if b = bid then (List.range 16).filter (fun y => bitOf mask y && (s.arrival y b k).isNone) else []
    | none => [])

/-- Whether a Spire waits on an average-only resource (R183): a handle queue, a DMA completion, a refill, or a barrier whose
other side waits so. DESIGN CHOICE (log 42): the other side of a barrier waits so when every context of the missing Spire does. The
first argument bounds the chain of barriers. -/
def State.averageWait : Nat → State → Nat → Nat → Bool
  | 0, _, _, _ => false
  | f + 1, s, p, sp => s.allWait p sp (fun w => match w with
    | .barrier _ bid => (s.missing sp bid).any (State.averageWait f s p)
    | .calLoad _ => false
    | _ => true)

/-- The state of a Spire as SPIRE_STATUS codes it (Table 5-9). DESIGN CHOICE (log 42): a Spire whose own contexts have all
reached EOT while the run window is open reads 0, idle, and in the drain every Spire of the partition reads 5, one without a
part too. -/
def State.spireState (s : State) (sp : Nat) : Nat :=
  if s.cfg.parks sp then 4
  else if s.seqFrozen sp then 3
  else match s.owner sp with
    | none => 0
    | some p =>
      let x := s.part p
      if x.phase = .drain ∨ x.draining then 5
      else if x.phase ≠ .run ∨ (x.plan.partOf sp).isNone ∨ s.closed p sp then 0
      else if State.averageWait 16 s p sp then 2 else 1

/-- The contexts that the running plan of a Spire declares (Table 5-9). DESIGN CHOICE (log 42): no plan runs from the start of a
partition reset, or of a roster load, until a roster has started. -/
def State.contextsOf (s : State) (sp : Nat) : Nat :=
  match s.owner sp with
  | none => 0
  | some p =>
    let x := s.part p
    if x.roster.isNone ∨ x.loading ∨ x.resetting then 0 else x.plan.contexts

/-- SPIRE_STATUS (Table 5-9). -/
def State.spireStatus (s : State) (sp : Nat) : Nat :=
  let x := s.spire sp
  s.spireState sp + x.lastCtx * 2 ^ 4 + s.contextsOf sp * 2 ^ 8
    + min 64 ((List.range 8).foldl (fun a c => a + (x.ctx c).queue.length) 0) * 2 ^ 12
    + b2n (s.owner sp).isSome * 2 ^ 19 + (s.owner sp).getD 0 * 2 ^ 20

/-- DMA_SPLIT (Table 7-8). -/
def State.dmaSplit (s : State) (sp : Nat) : Nat :=
  match s.owner sp with
  | none => 0
  | some p => (s.pcfg p).readShare % 16 + (s.pcfg p).writeShare % 16 * 2 ^ 4 + (s.pcfg p).remoteShare % 16 * 2 ^ 8

/-- Whether a transfer of an engine waits under R288. -/
def Spire.drainWait (y : Spire) (e : Nat) : Bool := (y.unit e).any (fun x => x.read && Desc.drain x.desc && !x.released && !x.stopped)

/-- DMA_ENG_STATUS (Table 7-11). -/
def State.dmaEngStatus (s : State) (sp : Nat) : Nat :=
  let y := s.spire sp
  (List.range 4).foldl (fun a e =>
    a + ((y.unit e).length % 8 + b2n (bit1 y.frozen (e + 1)) * 8 + b2n (y.drainWait e) * 16) * 2 ^ (8 * e)) 0

/-- HQ_FILLk (R301). -/
def State.hqFill (s : State) (sp k : Nat) : Nat :=
  (List.range 4).foldl (fun a j => a + ((s.spire sp).queue (4 * k + j)).length % 64 * 2 ^ (8 * j)) 0

/-- A register of a Spire block (Table 18-6). -/
def State.spireReg (s : State) (sp o : Nat) : Option Nat :=
  let x := s.spire sp
  match o with
  | 0x000 => some (s.spireStatus sp)
  | 0x004 => some (s.dmaSplit sp)
  | 0x008 => some (s.dmaEngStatus sp)
  | 0x010 => some (s.hqFill sp 0)
  | 0x014 => some (s.hqFill sp 1)
  | 0x018 => some (s.hqFill sp 2)
  | 0x01C => some (s.hqFill sp 3)
  | 0x020 => some x.frzA.toNat
  | 0x024 => some x.frzB.toNat
  | 0x028 => some x.frzC.toNat
  | 0x02C => some x.frzD.toNat
  | 0x100 => some (half x.ctr.busy false)
  | 0x104 => some (half x.ctr.busy true)
  | 0x108 => some (half x.ctr.waitHq false)
  | 0x10C => some (half x.ctr.waitHq true)
  | 0x110 => some (half x.ctr.waitBarrier false)
  | 0x114 => some (half x.ctr.waitBarrier true)
  | 0x118 => some (half x.ctr.waitFetch false)
  | 0x11C => some (half x.ctr.waitFetch true)
  | 0x120 => some (half x.ctr.waitRefill false)
  | 0x124 => some (half x.ctr.waitRefill true)
  | 0x128 => some (half x.ctr.wcDiscard false)
  | 0x12C => some (half x.ctr.wcDiscard true)
  | 0x140 => some x.ctr.bankSlip
  | 0x144 => some x.ctr.calLate
  | 0x148 => some x.ctr.anchorMiss
  | 0x14C => some x.ctr.staleHandle
  | 0x150 => some x.ctr.droppedXfer
  | 0x154 => some x.ctr.sat
  | 0x158 => some x.ctr.nan
  | 0x15C => some x.ctr.sramCe
  | 0x160 => some x.ctr.sramUe
  | _ => none

/-- PART_STATUS (R541, Table 13-6). -/
def State.partStatus (s : State) (p : Nat) : Nat :=
  let x := s.part p
  let state : Nat :=
    if !(s.pcfg p).defined then 0
    else match x.reset with
      | .quiesce => 4
      | .scrub => 5
      | .restage => 6
      | _ => if s.partFrozen p then 3 else if x.parked then 2 else 1
  state + b2n (bit1 x.frzHost 0) * 2 ^ 3
    + (s.spiresOf p).foldl (fun a sp => a + b2n (s.spireFrozen sp) * 2 ^ sp) 0 * 2 ^ 4 + x.slotsFrozen.toNat * 2 ^ 20

/-- MWIN_LO of a window (Table 9-4). -/
def WinCfg.lo (w : WinCfg) : Nat :=
  w.base % 2 ^ 19 + b2n w.valid * 2 ^ 19 + b2n w.rd * 2 ^ 20 + b2n w.wr * 2 ^ 21 + b2n w.hostRd * 2 ^ 22 + b2n w.hostWr * 2 ^ 23
    + b2n w.shared * 2 ^ 24

/-- MWIN_HI of a window (Table 9-5). -/
def WinCfg.hi (w : WinCfg) : Nat := if w.valid then w.size % 2 ^ 17 else 0

/-- A window register, by its offset from the first one. -/
def State.windowReg (s : State) (p o : Nat) : Option Nat :=
  let w := s.cfg.window p (o / 8)
  if 64 ≤ o then none else if o % 8 = 0 then some w.lo else if o % 8 = 4 then some w.hi else none

/-- The status counters in the order of Table 18-6. -/
def PartCtr.list (c : PartCtr) : List Nat := [c.onTime, c.late, c.shed, c.parked, c.frozen, c.reset, c.noRoster]

/-- A status counter, by its offset from the first one. -/
def State.tickCounter (s : State) (p o : Nat) : Option Nat := if o % 4 = 0 then (s.part p).ctr.list[o / 4]? else none

/-- A register of a partition block (Table 18-6). -/
def State.partReg (s : State) (p o : Nat) : Option Nat :=
  let x := s.part p
  match o with
  | 0x000 => some (s.partStatus p)
  | 0x010 => some x.slackLast
  | 0x014 => some x.slackMin
  | 0x200 => some x.frzHost.toNat
  | 0x204 => some x.frzHostLo.toNat
  | 0x208 => some x.frzHostHi.toNat
  | _ => if 0x100 ≤ o then s.windowReg p (o - 0x100) else if 0x20 ≤ o then s.tickCounter p (o - 0x20) else none

/-- SPAN_PORT_STATUS (Table 11-12). -/
def State.spanStatus (s : State) (i : Nat) : Nat :=
  let x := s.port i
  x.width % 32 + b2n (s.mayCarry i) * 2 ^ 5 + b2n x.partnerLeft * 2 ^ 6 + b2n x.mismatch * 2 ^ 7
    + x.good.toNat * 2 ^ 8
    + (match x.partner with | some r => r.deviceId.toNat * 2 ^ 16 + r.port.toNat % 8 * 2 ^ 24 | none => 0)

/-- A register of a Span port block (Table 18-6). -/
def State.spanReg (s : State) (i o : Nat) : Option Nat :=
  let c := (s.port i).ctr
  match o with
  | 0x00 => some (s.spanStatus i)
  | 0x08 => some (half c.fecSymbols false)
  | 0x0C => some (half c.fecSymbols true)
  | 0x10 => some (half c.lagSlots false)
  | 0x14 => some (half c.lagSlots true)
  | 0x20 => some c.uncorr
  | 0x24 => some c.flitCrc
  | 0x28 => some c.replays
  | 0x2C => some c.retrains
  | 0x30 => some c.schedDiscard
  | _ => none

/-- A register of a Cupola block (Table 18-6). -/
def State.cupolaReg (s : State) (h o : Nat) : Option Nat :=
  let c := s.cupola h
  match o with
  | 0x00 => some (half c.hits false)
  | 0x04 => some (half c.hits true)
  | 0x08 => some (half c.misses false)
  | 0x0C => some (half c.misses true)
  | 0x10 => some c.ce
  | 0x14 => some c.ueLine
  | 0x18 => some c.tagParity
  | _ => none

/-- A register of an HBM stack block (Table 18-6). -/
def State.hbmReg (s : State) (k o : Nat) : Option Nat :=
  let c := Tbl.get {} k s.core.hbmStacks
  match o with
  | 0x00 => some c.ce
  | 0x04 => some c.parityRetry
  | 0x08 => some c.ue
  | _ => none

/-- A register of a NAND channel block (Table 18-6). -/
def State.nandReg (s : State) (ch o : Nat) : Option Nat :=
  let c := Tbl.get {} ch s.store.ctr
  match o with
  | 0x00 => some c.step1
  | 0x04 => some c.step2
  | 0x08 => some c.step3
  | 0x0C => some c.ue
  | 0x10 => some c.levels
  | _ => none

/-- VF_IDENT (R672, Table 18-8). -/
def State.vfIdent (s : State) (k : Nat) : Nat :=
  let c := s.pcfg k
  k + c.rings.length % 16 * 2 ^ 4 + c.results.length % 16 * 2 ^ 8 + b2n (c.rings.length == 16) * 2 ^ 12 + b2n c.defined * 2 ^ 13

/-- ROSTER_NOW (R672, Table 18-9). -/
def State.rosterNow (s : State) (k : Nat) : Nat :=
  (s.part k).roster.getD 0xFFFF % 2 ^ 16 + b2n (s.part k).switch.isSome * 2 ^ 16

/-- A register of an ingest ring (Table 12-4); a doorbell reads 0. In Plinth mode, where no partition is defined, every ring
register of the layout is one that the mode does not keep (R690). -/
def State.ringReg (s : State) (k r o : Nat) : Option Nat :=
  let x := (s.part k).ring r
  if !s.rom.plinthOut && decide ((s.pcfg k).rings.length ≤ r) then none
  else match o with
    | 0x00 => some 0
    | 0x04 => some x.pi
    | 0x08 => some x.ci
    | 0x0C => some x.refused
    | 0x10 => some x.discard
    | _ => none

/-- A register of a VF block (Tables 12-4 and 18-7). -/
def State.vfReg (s : State) (k o : Nat) : Option Nat :=
  match o with
  | 0x0000 => some (s.vfIdent k)
  | 0x0008 => some (half (s.tick.count.getD 0) false)
  | 0x000C => some (half (s.tick.count.getD 0) true)
  | 0x0010 => some (s.part k).statusPi
  | 0x0014 => some (s.rosterNow k)
  | 0x2000 => some (s.fn k).mbx.reqPi.toNat
  | 0x2004 => some (s.fn k).mbx.reqCi.toNat
  | 0x2008 => some (s.fn k).mbx.rspPi.toNat
  | 0x200C => some (s.fn k).mbx.rspCi.toNat
  | 0x6000 => some (s.part k).slackLast
  | 0x6004 => some (s.part k).slackMin
  | 0x6008 => some (s.partStatus k)
  | 0x6010 => some (s.part k).frzHost.toNat
  | 0x6014 => some (s.part k).frzHostLo.toNat
  | 0x6018 => some (s.part k).frzHostHi.toNat
  | 0x6020 => some (s.fn k).bar2Ur
  | 0x6024 => some (s.fn k).mbx.ignored
  | _ =>
    if 0x1000 ≤ o ∧ o < 0x1200 then s.ringReg k ((o - 0x1000) / 0x20) (o % 0x20)
    else if 0x6100 ≤ o then s.windowReg k (o - 0x6100)
    else if 0x6040 ≤ o then s.tickCounter k (o - 0x6040)
    else none

/-- The register at an offset of a block, as it reads outside Plinth mode; none where no register is named. A parked
Spire's registers but SPIRE_STATUS read their reset values (R670). -/
def State.named (s : State) : Block → Nat → Option Nat
  | .device, o => s.deviceReg o
  | .spire i, o => (s.spireReg i o).map (fun v => if s.cfg.parks i then (if o = 0 then 4 else 0) else v)
  | .part i, o => s.partReg i o
  | .span i, o => s.spanReg i o
  | .cupola i, o => s.cupolaReg i o
  | .hbm i, o => s.hbmReg i o
  | .nand i, o => s.nandReg i o
  | .vf i _, o => s.vfReg i o
  | .eventRing, _ => none
  | .reserved, _ => none

/-- Whether Plinth mode keeps a register. -/
def keeps (b : Block) (o : Nat) : Bool := b == .device && keptReg o

/-- What a register reads (R665, R690). -/
def State.regValue (s : State) (b : Block) (o : Nat) : Nat :=
  if s.rom.plinthOut && !keeps b o then 0 else (s.named b o).getD 0

/-! Counter pairs and RC registers. -/

/-- Whether the LO register of a counter pair lies at an offset of a block (R668). -/
def pairAt : Block → Nat → Bool
  | .device, o => [0x80, 0x88, 0xA0].contains o
  | .spire _, o => [0x100, 0x108, 0x110, 0x118, 0x120, 0x128].contains o
  | .span _, o => [0x08, 0x10].contains o
  | .cupola _, o => [0x00, 0x08].contains o
  | .vf _ _, o => o == 0x0008
  | _, _ => false

/-- Clear the RC register at an offset of a VF's own block (R678). -/
def State.clearRc (s : State) (k o : Nat) : State :=
  let r := (o - 0x1000) / 0x20
  if o < 0x1000 ∨ 0x1200 ≤ o ∨ (s.pcfg k).rings.length ≤ r then s
  else
    let put (f : Ring → Ring) : State := s.onPart k (fun x => { x with rings := Tbl.put {} r (f (x.ring r)) x.rings })
    if o % 0x20 = 0x0C then put (fun x => { x with refused := 0 })
    else if o % 0x20 = 0x10 then put (fun x => { x with discard := 0 })
    else s

/-! Reads. -/

/-- The bytes of a register value in the enabled lanes, 0 in the others (R677). -/
def laneValue (be : BitVec 4) (v : Nat) : Nat :=
  (List.range 4).foldl (fun a i => a + (if bit1 be i then v / 2 ^ (8 * i) % 256 * 2 ^ (8 * i) else 0)) 0

/-- The effects of a read of one register, and what it returns in its enabled lanes (R677, R678, R682): LO copies the pair's
HI into the function's shadow; HI takes a fresh shadow, which is stale then; a full read by its own VF clears an RC register. -/
def State.readReg (s : State) (fn o : Nat) (be : BitVec 4) : Nat × State :=
  let q := regPlace fn o
  let live := s.regValue q.1 q.2
  if pairAt q.1 q.2 then
    (live, s.onFn fn (fun f => { f with shadows := Tbl.put 0 o (s.regValue q.1 (q.2 + 4) + 1) f.shadows }))
  else if 4 ≤ q.2 ∧ pairAt q.1 (q.2 - 4) then
    match Tbl.get 0 (o - 4) (s.fn fn).shadows with
    | 0 => (live, s)
    | v + 1 => (v, s.onFn fn (fun f => { f with shadows := Tbl.put 0 (o - 4) 0 f.shadows }))
  else if fn ≠ pfFn ∧ be = 0xF#4 then (live, s.clearRc fn q.2)
  else (live, s)

/-- A read of one DW of BAR0 (R674, R676, R677). -/
def State.readWord (s : State) (fn o : Nat) (be : BitVec 4) : State :=
  if be = 0#4 then s.answer (.data 0)
  else match (regPlace fn o).1.region (regPlace fn o).2 with
    | some (r, i) => s.answer (.data (leNat (s.regionRead r i 4)))
    | none => let x := s.readReg fn o be; x.2.answer (.data (laneValue be x.1))

/-- A crossing access (R675). -/
def State.crossing (s : State) (fn : Nat) (write : Bool) : State :=
  { s with host := { s.host with regUr := sat32 s.host.regUr 1 } }.refuse fn write

/-- A 64-bit read in a register region, at a multiple of 8 (R681, R683). -/
def State.readPair (s : State) (fn o : Nat) : State :=
  let q := regPlace fn o
  if pairAt q.1 q.2 then s.answer (.data (s.regValue q.1 q.2 + s.regValue q.1 (q.2 + 4) * 2 ^ 32))
  else
    let x := s.readReg fn o 0xF#4
    let y := x.2.readReg fn (o + 4) 0xF#4
    y.2.answer (.data (x.1 + y.1 * 2 ^ 32))

/-- A read of `n` DWs of BAR0 from a multiple of 4, with the byte enables of its first and last DW (R674 to R676): one DW; two in
register regions, at a multiple of 8 and whole; any that lie in one buffer region; else a crossing access. -/
def State.readDws (s : State) (fn o n : Nat) (first last : BitVec 4) : State :=
  if n ≤ 1 then s.readWord fn o first
  else match (regPlace fn o).1.region (regPlace fn o).2 with
    | some (r, i) => if i + 4 * n ≤ r.size then s.answer (.bytes (s.regionRead r i (4 * n))) else s.crossing fn false
    | none => if n = 2 ∧ o % 8 = 0 ∧ first = 0xF#4 ∧ last = 0xF#4 then s.readPair fn o else s.crossing fn false

end Sys2Proof.Machine
end

