-- ==== Sys2Proof/Machine/Order.lean ====
section
/-! DEFINITION. The accesses of BAR0 and BAR2 of one function in the order in which they arrive (R496, R686): the mailbox index
registers (R680, R688, R689), and the accesses that wait. -/

namespace Sys2Proof.Machine

open Host (Outcome)

/-! The index registers. -/

/-- A write that is ignored and counted in REG_IGNORED (R687). -/
def State.ignoreWrite (s : State) : State := { s with rom := { s.rom with regIgnored := sat32 s.rom.regIgnored 1 } }.answer .dropped

/-- Change a mailbox. -/
def State.onMbx (s : State) (fn : Nat) (g : Mailbox → Mailbox) : State := s.onFn fn (fun f => { f with mbx := g f.mbx })

/-- A write of a function's BAR0 that acts at once, or in its turn where earlier accesses of its VF wait (R496). -/
def State.inOrder (s : State) (fn : Nat) (w : WaitOp) (now : State) : State :=
  if s.host.waiting.any (fun v => decide (v.vf = fn)) then { s with host := { s.host with waiting := s.host.waiting ++ [w] } }.answer .ok else now

/-- A full write of MBX_REQ_PI takes effect (R510, R688). -/
def State.takeReqPi (s : State) (fn : Nat) (value : W32) : State :=
  let m := (s.fn fn).mbx
  let new := BitVec.ofNat 16 value.toNat
  if 8 < (new - m.reqCi).toNat ∨ 8 - (m.reqPi - m.reqCi).toNat < (new - m.reqPi).toNat then
    (s.onMbx fn (fun m => { m with ignored := sat32 m.ignored 1 })).answer .dropped
  else (s.onMbx fn (fun m => { m with reqPi := new })).answer .ok

/-- A full write of MBX_RSP_CI takes effect (R510, R689): held responses take the slots it frees. -/
def State.takeRspCi (s : State) (fn : Nat) (value : W32) : State :=
  let m := (s.fn fn).mbx
  let new := BitVec.ofNat 16 value.toNat
  if (m.rspPi - m.rspCi).toNat < (m.rspPi - new).toNat then s.ignoreWrite
  else State.releaseHeld m.held.length fn ((s.onMbx fn (fun m => { m with rspCi := new })).answer .ok)

/-- Bytes enter a function's request slots (R510). -/
def State.takeSlots (s : State) (fn o : Nat) (bs : List Byte) : State := (s.onMbx fn (fun m => { m with req := Tbl.putRun 0#8 o bs m.req })).answer .ok

/-- A full write of MBX_REQ_PI, in its turn (R496). -/
def State.writeReqPi (s : State) (fn : Nat) (value : W32) : State := s.inOrder fn (.reqPi fn value) (s.takeReqPi fn value)

/-- A full write of MBX_RSP_CI, in its turn (R496). -/
def State.writeRspCi (s : State) (fn : Nat) (value : W32) : State := s.inOrder fn (.rspCi fn value) (s.takeRspCi fn value)

/-- A read of a function's BAR0, `now`, in its turn: its completion does not overtake a doorbell or a write that waits (R686). -/
def State.holdBack (s : State) (fn : Nat) (w : WaitOp) (now : State) : State :=
  if s.host.waiting.any (fun v => decide (v.vf = fn)) then
    { s with host := { s.host with waiting := s.host.waiting ++ [w] } }.answer .waiting
  else now

/-- A read of DWs of BAR0, in its turn. -/
def State.readInOrder (s : State) (fn o n : Nat) (first last : BitVec 4) : State :=
  s.holdBack fn (.read fn o n first last) (s.readDws fn o n first last)

/-- One waiting access goes on as if it came now, or waits again: behind an earlier one of its VF, or for a scrub. -/
def State.goOn (a : State) (w : WaitOp) : State :=
  let wait : State := { a with host := { a.host with waiting := a.host.waiting ++ [w] } }
  if a.host.waiting.any (fun v => decide (v.vf = w.vf)) then wait
  else match w with
    | .bar2 k off op bursts => if a.bar2Waits k off then wait else a.bar2Now k off op bursts
    | .doorbell k r src => a.doorbell k r src
    | .reqPi k v => a.takeReqPi k v
    | .rspCi k v => a.takeRspCi k v
    | .slots k o bs => a.takeSlots k o bs
    | .read k o n first last => a.readDws k o n first last
    | .cross k => a.crossing k false

/-- Let the waiting accesses go on, oldest first. -/
def State.releaseWaiting (s : State) : State := s.host.waiting.foldl State.goOn { s with host := { s.host with waiting := [] } }

/-- A write of a mailbox index: nothing without byte enables; ignored and counted in Plinth mode (R690) or when narrower
(R680). -/
def State.writeIndex (s : State) (be : BitVec 4) (full : State) : State :=
  if be = 0#4 then s.answer .ok
  else if s.rom.plinthOut ∨ be ≠ 0xF#4 then s.ignoreWrite
  else full

/-- MBX_REQ_PI (R510, R680, R688): the host publishes requests. -/
def execMbxReqPi (fn : Fn) (value : W32) (be : BitVec 4) (s : State) : Outcome State Fault Refusal :=
  let s := s.dueEdge
  .next (if s.fnOn fn.val then s.writeIndex be (s.writeReqPi fn.val value) else s.answer .unsupported)

/-- MBX_RSP_CI (R510, R680, R689): the host has read responses. -/
def execMbxRspCi (fn : Fn) (value : W32) (be : BitVec 4) (s : State) : Outcome State Fault Refusal :=
  let s := s.dueEdge
  .next (if s.fnOn fn.val then s.writeIndex be (s.writeRspCi fn.val value) else s.answer .unsupported)

end Sys2Proof.Machine
end

