-- ==== Sys2Proof/Machine/Power.lean ====
section
/-! DEFINITION. Core voltage, temperature, clock faults, power failure and orderly shutdown (chapter 15). -/

namespace Sys2Proof.Machine

open Host (Outcome)

/-! ALERT_N. -/

/-- Whether ALERT_N is asserted (R610, Table 15-5). -/
def State.alert (s : State) : Bool :=
  decide (0 < s.tick.shedLevel) || s.tick.idleAsked || s.power.avsFault
    || s.power.mode == .clockFault || s.power.mode == .powerFail || s.power.mode == .shutdownDone

/-! Core voltage (R601 to R604). -/

/-- The core voltage range of a profile, in units of 0.5 mV (Table 15-1). -/
def Profile.voltRange : Profile → Nat × Nat
  | .pod720 => (1560, 1760) | .store260 => (1320, 1520) | .cool180 => (1200, 1400)

/-- How far a read-back lies from the target, in units of 0.5 mV. -/
def Power.voltError (p : Power) (mv : Nat) : Nat := if p.target ≤ 2 * mv then 2 * mv - p.target else p.target - 2 * mv

/-- One transaction on the bus, with or without an answer: the run of those without one, which stays at 10 once it has come so far
(R604). -/
def Power.transact (p : Power) (answered : Bool) : Power :=
  if 10 ≤ p.avsMissed then p else { p with avsMissed := if answered then 0 else p.avsMissed + 1 }

/-- A read of the rail voltage. -/
def Power.readVolt (p : Power) : Option Nat → Power
  | none => p.transact false
  | some v => { p.transact true with mv := v, avsOff := if 60 < p.voltError v then p.avsOff + 1 else 0 }

/-- A read of the rail current. -/
def Power.readAmp (p : Power) : Option Nat → Power
  | none => p.transact false
  | some i => { p.transact true with ma := i }

/-- The status read after a response that reports an alert (Table 15-3). -/
def Power.readStatus (p : Power) : Option (Option Nat) → Power
  | none => p
  | some none => p.transact false
  | some (some v) => { p.transact true with avsStatus := some v }

/-- The reads of one loop tick: the voltage, then the current (Table 15-3). -/
def Power.readBack (p : Power) (answer : Option AvsAnswer) : Power :=
  let part (missing : AvsAnswer → Bool) (value : AvsAnswer → Nat) : Option Nat := (answer.filter (fun a => !missing a)).map value
  (p.readVolt (part AvsAnswer.noVolt AvsAnswer.mv)).readAmp (part AvsAnswer.noAmp AvsAnswer.ma)

/-- One step of the voltage loop: the target follows the smallest slack of the path monitors (R602). -/
def Power.adjust (p : Power) (prof : Profile) (margin : Nat) (slack : Int) : Power :=
  if slack < margin then { p with target := min (p.target + 10) prof.voltRange.2, slackRun := 0 }
  else if 3 * (margin : Int) ≤ 2 * slack then
    if p.slackRun + 1 = 100 then { p with target := max (p.target - 5) prof.voltRange.1, slackRun := 0 }
    else { p with slackRun := p.slackRun + 1 }
  else { p with slackRun := 0 }

/-- Whether the voltage loop runs: from the CLOCKS stage on, while the management clock and the rails are there. -/
def State.voltLoop (s : State) : Bool := decide (s.power.target ≠ 0) && !s.boot.inReset && !s.rom.plinthOut

/-- The run of transactions without an answer, or of read-backs off the target, as a transaction leaves it: at 10 it is a fault,
which stops the loop (R604). -/
def State.avsCheck (s : State) (p : Power) : Option State :=
  if 10 ≤ p.avsMissed ∨ 10 ≤ p.avsOff then
    some ({ s with power := { p with avsFault := true, avsRetryAt := s.time + 100 * unitsPerMs } }.event 0x0602 3 none
      (p.target / 2 % 4096 + p.mv % 4096 * 2 ^ 16))
  else none

/-- The rest of a loop tick: the target follows the monitors, is written where it has changed, and an alert is looked into. -/
def State.avsAdjust (s : State) (p : Power) (answer : Option AvsAnswer) (minSlack : Int) : Power :=
  let q := p.adjust s.cfg.profile s.rom.otp.pmMargin.toNat minSlack
  let r := if q.target = p.target then q else q.transact (match answer with
    | none => false
    | some a => !a.noWrite)
  r.readStatus (answer.bind AvsAnswer.alert)

/-- AVS_LOOP_TICK (R601, R602, R604): the bus and the monitors are read; a fault stops the loop. With no answer at all the target
still follows the monitors, and its write goes unanswered too. The status is read wherever a response reports an alert. -/
def execAvsLoopTick (answer : Option AvsAnswer) (minSlack : Int) (s : State) : Outcome State Fault Refusal :=
  if !s.voltLoop || s.power.avsFault then .next s
  else
    let p := s.power.readBack answer
    let r := if (s.avsCheck p).isSome then p.readStatus (answer.bind AvsAnswer.alert) else s.avsAdjust p answer minSlack
    .next ((s.avsCheck r).getD { s with power := r })

/-- AVSBUS_RETRY (R604): during a fault the bus is tried every 100 ms; a good read-back resumes the loop. -/
def execAvsbusRetry (answer : Option AvsAnswer) (s : State) : Outcome State Fault Refusal :=
  if !s.voltLoop || !s.power.avsFault || decide (s.time < s.power.avsRetryAt) then .next s
  else
    let p := { s.power with avsRetryAt := s.time + 100 * unitsPerMs }
    match answer with
    | none => .next { s with power := p }
    | some a =>
      let q := { p with mv := a.mv, ma := a.ma, avsStatus := (a.alert.bind id).orElse (fun _ => p.avsStatus) }
      if p.voltError a.mv ≤ 60 then
        .next ({ s with power := { q with avsFault := false, avsMissed := 0, avsOff := 0, slackRun := 0 } }.event 0x0603 1 none (a.mv % 4096))
      else .next { s with power := q }

/-- AVS_RAIL_TEMP_READ (R601, R604): the rail temperature is read and reported; no answer counts toward a fault. -/
def execAvsRailTempRead (temp : Option Nat) (s : State) (alert : Option (Option Nat) := none) : Outcome State Fault Refusal :=
  if !s.voltLoop then .next s
  else
    let p := (s.power.transact temp.isSome).readStatus alert
    let q := { p with railTemp := temp.orElse (fun _ => p.railTemp) }
    if s.power.avsFault then .next { s with power := { s.power with railTemp := q.railTemp, avsStatus := q.avsStatus } }
    else .next ((s.avsCheck q).getD { s with power := q })

/-! Stopping the device. -/

/-- Every Spire stops, and every transfer (R290, R291, R612). -/
def State.stopSpires (s : State) : State :=
  (List.range 16).foldl (fun (a : State) sp => a.onSpire sp (fun y => { y.stopAllUnits with stopped := true })) s

/-- No tick edge is made any more, and TICK_OUT is low. -/
def State.haltTick (s : State) : State := { s with tick := { s.tick with halted := true, tickOut := false, due := none } }

/-- A staging stops, and its object stays not staged. -/
def State.haltStaging (s : State) : State :=
  match s.store.staging with
  | none => s
  | some r => (s.onStore (fun t => { t with staging := none })).setObj r.obj { s.obj r.obj with staging := .notStaged }

/-- Imports are abandoned: what they have written is free at the next index rebuild (R416, R612). Programs that have started run to
completion (R613), and no other starts. -/
def State.haltImports (s : State) : State :=
  s.onStore (fun t => let u := t.cutImports (fun _ => true); { u with imports := u.imports.filter (fun q => !q.wait.isEmpty) })

/-- An import whose commit record program has started, and of which no other replica is to follow. -/
def ImportRun.committing (q : ImportRun) : Bool := q.phase == .commit && decide (q.replicas ≤ q.replica + 1) && !q.abandoned

/-- Step 2 of a shutdown for imports (R620): one whose commit record program has started runs to its end, the others are abandoned;
programs that have started run to completion, and of an abandoned one no other starts. -/
def State.closeImports (s : State) : State :=
  let done := s.store.imports.filter (fun q => q.committing && q.wait.isEmpty)
  let s1 := done.foldl (fun (a : State) q => a.endImport q 0) s
  s1.onStore (fun t => let u := t.cutImports (fun q => !q.committing); { u with imports := u.imports.filter (fun q => !q.wait.isEmpty) })

/-- LEAVE goes out on every port that trains or has trained, in its next control slot or behind the records that wait, and then only IDLE and CTRL
flits. -/
def State.leavePorts (s : State) (first : Bool) : State :=
  (List.range 8).foldl (fun (a : State) i =>
    if (a.port i).lives then a.onPort i (fun x => { x with ctrl := if first then ⟨a.leaveRecord, none⟩ :: x.ctrl else x.ctrl ++ [⟨a.leaveRecord, none⟩] })
    else a) { s with tick := { s.tick with quiet := true } }

/-- Started erases are aborted (R613): their blocks are erased again before they are next programmed. -/
def StoreSt.abortErases (t : StoreSt) (erasing : List Nat) : StoreSt :=
  { t with cutErases := erasing.filter t.good ++ t.cutErases.filter (fun b => !erasing.contains b) }

/-- Started programs are cut short (R609): whether a page had been programmed is open. Programs that have not started never do. -/
def State.cutPrograms (s : State) : State :=
  let s1 := s.onStore (fun t => t.cutImports (fun _ => true))
  (s1.store.imports.flatMap (·.wait)).foldl (fun (a : State) x =>
    a.takeFree.2.onStore (fun t => if Config.freeBit a.takeFree.1 0 then { t with torn := x :: t.torn } else t)) s1

/-- PWR_FAIL_ASSERT (R611 to R613, R616): the device stops; a boot attempt starts no further stage and counts as failed. BAR2 accesses
that wait for a scrub complete with Unsupported Request (R612). -/
def execPwrFailAssert (s : State) (erasing : List Nat := []) : Outcome State Fault Refusal :=
  let s := s.dueEdge
  if s.power.failPin then .next s
  else
    let s0 := { s with power := { s.power with failPin := true } }
    if s.boot.inReset then .next s0
    else
      let s1 := ((s0.cutPlinth.stopSpires.haltTick.haltStaging.haltImports).onStore (fun t => t.abortErases erasing)).leavePorts true
      .next (State.releaseWaiting { s1 with
        power := { s1.power with mode := .powerFail, shut := .none }
        boot := { s1.boot with running := false, nextAt := none }
        core := { s1.core with hbmMode := if s1.core.hbmMode = .running then .powerFail else s1.core.hbmMode } })

/-- THERM_TRIP (R607 to R609): THERM_TRIP_N asserts, latched; every core and Span PLL output is gated off, so nothing on
those clocks goes on, and nothing more is written. -/
def execThermTrip (s : State) : Outcome State Fault Refusal :=
  let s := s.dueEdge
  let p := { s.power with trip := true, trippedFlag := true, gated := true }
  let s1 := s.cutPlinth.haltTick.cutPrograms
  .next { s1 with
    power := p
    boot := { s1.boot with running := false, nextAt := none }
    core := { s1.core with
      spires := s1.core.spires.map (fun e => (e.1, { e.2 with stopped := true, units := [] }))
      arrivals := [], writeBacks := [], pushes := [], twrites := [], bankUse := [] }
    ports := s1.ports.map (fun e => (e.1, { e.2 with phase := .down }))
    store := { s1.store with staging := none, imports := [] } }

/-- The status records of the tick in progress that wait for a scrub are dropped: none is published for it (R599, R620). -/
def State.dropCurrent (s : State) : State := s.dropRecords (fun n => decide (n = s.tickWord))

/-- CORE_PLL_UNLOCK (R599): clock fault. The tick in progress is not published. -/
def execCorePllUnlock (east : Bool) (s : State) : Outcome State Fault Refusal :=
  let s := s.dueEdge
  if s.boot.inReset ∨ s.power.target = 0 ∨ s.rom.plinthOut ∨ s.power.gated
      ∨ s.power.mode = .powerFail ∨ s.power.mode = .shutdownDone ∨ s.power.mode = .clockFault then .next s
  else
    let stop := (List.range 16).foldl (fun (a : State) sp => a.onSpire sp (fun y => { y with stopped := true })) s.haltTick.dropCurrent
    let quiet := (List.range 16).foldl (fun (a : State) p =>
      a.onPart p (fun x => { x with published := true, phase := .idle, due := none, draining := false })) stop
    let s1 := { quiet with
      power := { quiet.power with mode := .clockFault, shut := .none, pllLost := true }
      boot := { quiet.boot with running := false, nextAt := none } }
    .next (s1.event 0x0601 4 none (b2n east)).flushLog

/-! Orderly shutdown (R619 to R621). -/

/-- Start an orderly shutdown, unless one runs or the device has stopped. -/
def State.startShutdown (s : State) (byPin : Bool) : State :=
  if s.power.mode ≠ .running ∨ s.power.gated then s
  else { s with power := { s.power with mode := .shuttingDown, shut := .close, shutAt := s.time } }.event 0x0606 1 none (b2n byPin)

/-- SHDN_REQ_N_ASSERT (R619): the filtered pin falls. Before boot completion the request is kept; in Plinth mode it is
ignored. -/
def execShdnReqNAssert (s : State) : Outcome State Fault Refusal :=
  let s := s.dueEdge
  if s.rom.plinthOut then .next s
  else
    let s1 := { s with power := { s.power with shdnPin := true } }
    .next (if s1.boot.complete then s1.startShutdown true else s1)

/-- Whether a status record waits for a scrub. -/
def State.recordHeld (s : State) : Bool := s.definedParts.any (fun p => (s.part p).heldWrites.any (fun h => h.2.2.2.isSome))

/-- Whether step 1 of a shutdown has ended (R620): in store class the closing edge has been made, or no tick has
begun, or the device has left its pod and makes no edge (R478), and no record waits for a scrub; in
pod class every partition has published, or a stretch limit has passed. -/
def State.tickClosed (s : State) : Bool :=
  ((s.tick.count.isNone || s.tick.halted || (!s.cfg.pod && s.tick.left)) && (s.cfg.pod || !s.recordHeld))
    || (s.cfg.pod && (s.definedParts.all (fun p => (s.part p).published) || decide (s.power.shutAt + s.stretchUnits ≤ s.time)))

/-- ORDERLY_SHUTDOWN (R620 step 1): the tick is closed; in pod class LEAVE goes out. -/
def execOrderlyShutdown (s : State) : Outcome State Fault Refusal :=
  if s.power.mode ≠ .shuttingDown ∨ s.power.shut ≠ .close ∨ !s.tickClosed then .next s
  else
    let s1 := s.haltTick
    let s2 := if s1.cfg.pod then
        (s1.dropCurrent.definedParts.foldl (fun (a : State) p => a.onPart p (fun x => { x with published := true, due := none })) s1.dropCurrent).leavePorts false
      else s1
    .next { s2 with power := { s2.power with shut := .stop } }

/-- Step 4 of a shutdown for the mailboxes: requests that wait are dropped, and SHUTDOWN requests get their final OK. -/
def State.endRequests (s : State) : State :=
  let asks := s.power.shutAsks
  let s1 := (List.range 17).foldl (fun (a : State) f => a.onFn f (fun x => { x with mbx := { x.mbx with
    pendingIds := if f = pfFn then x.mbx.pendingIds.filter (fun m => asks.contains m) else [] } })) s
  let s2 := (List.range 16).foldl (fun (a : State) p => a.onPart p (fun x => { x with switch := none, answers := none, resetMsg := none })) s1
  let s3 := { s2 with power := { s2.power with shutAsks := [] } }
  (asks.foldl (fun (a : State) m => a.finish pfFn m 6 stOk) s3).signal pfFn 4

/-- Steps 3 and 4 of a shutdown: the log and a checkpoint are written, HBM enters self refresh, and requests are answered. BAR2
accesses that wait complete with Unsupported Request (R621). -/
def State.persistAndHold (s : State) : State :=
  let s1 := s.flushLog
  let s2 := if s1.store.inUse then (s1.onStore StoreSt.checkpoint).noteWear else s1
  let s3 := { s2 with
    core := { s2.core with hbmMode := .selfRefresh }
    power := { s2.power with mode := .shutdownDone, shut := .none } }
  (s3.endRequests.event 0x0607 1 none 0).releaseWaiting

/-- SHUTDOWN_STOP_PERSIST_HOLD (R609, R620 steps 2 to 4, R621): everything stops; once every started program has completed, the rest
follows. After a thermal trip nothing is written any more. -/
def execShutdownStopPersistHold (s : State) : Outcome State Fault Refusal :=
  if s.power.mode ≠ .shuttingDown ∨ s.power.shut ≠ .stop ∨ s.power.gated then .next s
  else
    let s1 := s.stopSpires.haltStaging.closeImports
    if s1.store.imports.isEmpty then .next s1.persistAndHold else .next s1

end Sys2Proof.Machine
end

