-- ==== Sys2Proof/Machine/Rosters.lean ====
section
/-! DEFINITION. Roster validation at boot (R579, Table 14-15): tick plans (Tables 6-1, 6-2 and 7-6), calendar sets (Table
8-3), descriptors, Span programs (R462) and placements, and the loading of the plans that pass (R580). -/

namespace Sys2Proof.Machine

/-! Plans. -/

/-- Queue `q` of a part's handle-pool settings (Table 7-6). -/
def queueOf (v : Nat) : QueueCfg := { mode := fieldOf v 1 0, pool := fieldOf v 5 2, init := bitOf v 6 }
/-- Pool `p` of a part's handle-pool settings. -/
def poolOf (v : Nat) : PoolCfg := { base := fieldOf v 19 0, count := fieldOf v 25 20 }

/-- Part `i` of a plan (Table 6-2), with its handle-pool settings. -/
def partOfPlan (b : List Byte) (i : Nat) : PlanPart :=
  let o := 128 + 48 * i
  let h := numAt b 0x2C 4 + 128 * i
  { spire := numAt b o 1, resident := bitOf (numAt b (o + 1) 1) 0, off := numAt b (o + 4) 4, len := numAt b (o + 8) 4
    starts := (List.range 8).map (fun c => numAt b (o + 0x10 + 4 * c) 4)
    queues := (List.range 16).map (fun q => queueOf (numAt b (h + 4 * q) 4))
    pools := (List.range 16).map (fun p => poolOf (numAt b (h + 0x40 + 4 * p) 4)) }

/-- A plan (Table 6-1). -/
def planOf (b : List Byte) : Plan :=
  { pod := numAt b 6 1 == 1, planCcyc := numAt b 8 8, drainAllow := numAt b 0x10 4, contexts := numAt b 0x14 1, calInit := numAt b 0x16 2
    csOffset := numAt b 0x18 4, calCount := numAt b 0x1C 2, calTable := numAt b 0x20 4, descCount := numAt b 0x24 4
    descTable := numAt b 0x28 4, len := numAt b 0x34 4, parts := (List.range (numAt b 7 1)).map (partOfPlan b) }

/-- The place of calendar set `i` in a plan: offset and length (R198). -/
def calAt (b : List Byte) (i : Nat) : Nat × Nat := (numAt b (numAt b 0x20 4 + 8 * i) 4, numAt b (numAt b 0x20 4 + 8 * i + 4) 4)

/-- Whether a part keeps Table 6-2, R194, R197 and R199. -/
def planPartOk (b : List Byte) (contexts : Nat) (mayUse : Nat → Bool) (i : Nat) : Bool :=
  let o := 128 + 48 * i
  let x := partOfPlan b i
  decide (numAt b (o + 1) 1 < 2) && zeroAt b (o + 2) 2 && zeroAt b (o + 0xC) 4
    && decide (x.spire < 16) && mayUse x.spire && x.off % 256 == 0 && x.len % 16 == 0 && decide (x.off + x.len ≤ b.length)
    && x.resident == decide (x.len ≤ 65536)
    && x.starts.zipIdx.all (fun s => if s.2 < contexts then s.1 % 16 == 0 && decide (s.1 < x.len) else s.1 == 0)

/-- Row 0x04: whether a plan is well formed under R199, but for its commands, descriptors, calendar sets and handle-pool
settings. `mayUse` tells the Spires it may have parts for. -/
def planOk (b : List Byte) (pod : Bool) (mayUse : Nat → Bool) : Bool :=
  let n := numAt b 7 1
  let contexts := numAt b 0x14 1
  let cals := numAt b 0x1C 2
  b.take 4 == [0x51#8, 0x54#8, 0x50#8, 0x4C#8] && numAt b 4 2 == 1
    && numAt b 0x7C 4 == crc32 (sliceOf b 0 0x7C ++ sliceOf b 128 (48 * n))
    && numAt b 6 1 == b2n pod
    && zeroAt b 0x15 1 && zeroAt b 0x1E 2 && zeroAt b 0x40 60 && decide (numAt b 0x18 4 < 2 ^ 18)
    && decide (1 ≤ n) && decide (n ≤ 16) && decide (1 ≤ contexts) && decide (contexts ≤ 8)
    && decide (1 ≤ cals) && decide (cals ≤ 4096) && decide (numAt b 0x16 2 < cals) && decide (numAt b 0x24 4 ≤ 1048576)
    && numAt b 0x30 4 == 128 && numAt b 0x34 4 == b.length && decide (128 + 48 * n ≤ b.length)
    && decide (numAt b 0x20 4 + 8 * cals ≤ b.length) && decide (numAt b 0x28 4 + 128 * numAt b 0x24 4 ≤ b.length)
    && decide (numAt b 0x2C 4 + 128 * n ≤ b.length)
    && (List.range cals).all (fun i => decide ((calAt b i).1 + (calAt b i).2 ≤ b.length))
    && strictlyRising ((List.range n).map (fun i => numAt b (128 + 48 * i) 1))
    && (List.range n).all (planPartOk b contexts mayUse)

/-- A Spire number as an index. -/
def spireIx (sp : Nat) : Fin 16 := ⟨sp % 16, Nat.mod_lt _ (by decide)⟩

/-- The starts of a part's declared contexts. -/
def PlanPart.declared (x : PlanPart) (contexts : Nat) : List Nat := x.starts.take contexts

/-- Row 0x05: whether every command of a plan is valid (R247). -/
def planCmdsOk (b : List Byte) (plan : Plan) (owned : Nat) : Bool :=
  plan.parts.all (fun x => partValid plan (spireIx x.spire) owned (x.declared plan.contexts) (sliceOf b x.off x.len))

/-- The descriptors that the commands of a part name as its contexts run (R218), with the Spire and whether LANTERN_ISSUE
names them. -/
def namedDescs (b : List Byte) (plan : Plan) (owned : Nat) (x : PlanPart) : List (Nat × Nat × Bool) :=
  let slots := piecesOf x.len 16 (sliceOf b x.off x.len)
  (x.declared plan.contexts).flatMap (fun st =>
    ((walkContext plan (spireIx x.spire) owned (slots.length + 1) (slots.drop (st / 16)) st []).getD []).flatMap (fun w =>
      let c := cmdOfBytes (spireIx x.spire) 0 (slots.getD (w.1 / 16) [])
      if c.op = 0x10 then
        let step := fld c.w2 19 0
        (List.range (if step = 0 then 1 else w.2)).map (fun i => (fld c.w1 19 0 + step * i, x.spire, false))
      else if c.op = 0x11 then [(fld c.w1 19 0, x.spire, true)]
      else []))

/-- Row 0x06: whether every descriptor of a plan is valid (R298). -/
def planDescsOk (b : List Byte) (plan : Plan) (c : Cfg) (p : Nat) (extents : List Nat) : Bool :=
  let owned := (c.part p).spires
  let named := plan.parts.flatMap (namedDescs b plan owned)
  let win (w : Nat) : Bool := (c.window p w).valid && extents.getD w 0 != 0
  (List.range plan.descCount).all (fun i =>
    let d : Desc := sliceOf b (plan.descTable + 128 * i) 128
    let by_ := (named.filter (fun n => n.1 == i)).map (fun n => n.2)
    if by_.isEmpty then descValid plan none owned win (c.spanOk p) d
    else by_.all (fun who => descValid plan (some who) owned win (c.spanOk p) d))

/-! Calendar sets. -/

/-- A port block of a calendar set (R308): its tile, its port and its entries, as words. -/
structure CalBlock where
  tile : Nat
  port : Nat
  words : List Nat
  deriving DecidableEq, Repr

/-- `n` port blocks that stand one after the other, when they lie in the bytes, hold no reserved bit and at most 256
entries. -/
def calBlocksOf : Nat → List Byte → Option (List CalBlock)
  | 0, _ => some []
  | n + 1, bs =>
    let h := leNat (bs.take 4)
    let k := fieldOf h 24 16
    if bs.length < 4 + 8 * k ∨ h / 2 ^ 25 ≠ 0 ∨ bitOf h 15 ∨ 256 < k then none
    else
      (calBlocksOf n (bs.drop (4 + 8 * k))).map
        (⟨fieldOf h 11 0, fieldOf h 14 12, (List.range k).map (fun i => numAt bs (4 + 8 * i) 8)⟩ :: ·)

/-- Where a link of a tile leads; none at a gateway. -/
def linkTo (tile port : Nat) : Option Nat :=
  match port with
  | 0 => if tile < 64 then none else some (tile - 64)
  | 1 => if tile % 64 = 63 then none else some (tile + 1)
  | 2 => if 4032 ≤ tile then none else some (tile + 64)
  | _ => if tile % 64 = 0 then none else some (tile - 1)

/-- Whether an entry keeps Table 8-3 at its tile and port, with R331. `mine` tells the tiles of the partition. -/
def calEntryOk (mine : Nat → Bool) (period tile port v : Nat) : Bool :=
  let e := calEntryOf tile port v
  let seamIn := if tile % 64 = 31 then 2 else if tile % 64 = 32 then 4 else 0
  let inOk (src : Nat) : Bool := src == 0 || decide (4 < src)
    || (match linkTo tile (src - 1) with
        | some t => mine t
        | none => false)
  decide (e.cyc < period) && v / 2 ^ 60 == 0
    && decide (e.srcA ≤ 4) && e.srcB != 5 && e.srcB != 6 && e.red != 3
    && inOk e.srcA && inOk e.srcB
    && (port == 4 || (e.srcA != port + 1 && e.srcB != port + 1)) && e.srcA != e.srcB
    && !(port == 4 && e.srcA == 0)
    && !(port != 4 && e.srcB == 0 && e.srcA != 0 && e.red == 0)
    && (e.red == 0) == (e.srcB == 7)
    && (e.red != 1 || e.len % 4 == 0) && (e.red != 2 || e.len % 2 == 0)
    && (!onSeam tile port || (e.srcA == 0 && e.srcB == 7 && decide (e.len ≤ 32)))
    && (seamIn == 0 || !(e.srcA == seamIn || e.srcB == seamIn) || (port == 4 && e.srcA == seamIn && e.srcB == 7))

/-- Whether a port block keeps Table 8-3. -/
def calBlockOk (mine : Nat → Bool) (period : Nat) (k : CalBlock) : Bool :=
  decide (k.port ≤ 4)
    && (k.port == 4 || (match linkTo k.tile k.port with
        | some t => mine t
        | none => false))
    && strictlyRising (k.words.map (fun v => fieldOf v 15 0)) && k.words.all (calEntryOk mine period k.tile k.port)

/-- Whether no Seam entry of a Spire's blocks is one copy of a multicast (R333). -/
def seamAlone (ks : List CalBlock) : Bool :=
  ks.all (fun k => !onSeam k.tile k.port || k.words.all (fun v =>
    let e := calEntryOf k.tile k.port v
    ks.all (fun m => m.tile != k.tile || m.port == k.port || m.words.all (fun u =>
      let f := calEntryOf m.tile m.port u
      !(f.cyc == e.cyc && (f.srcA == 0 || f.srcB == 0) && f.addr == e.addr && f.len == e.len)))))

/-- Whether the blocks of one Spire in a set keep Table 8-3. -/
def calSpireOk (plan : Plan) (mine : Nat → Bool) (bs : List Byte) (sp : Nat) : Bool :=
  let f := numAt bs (0x10 + 8 * sp) 8
  let off := fieldOf f 31 0
  let n := fieldOf f 42 32
  f / 2 ^ 43 == 0 && off % 4 == 0 && decide (off ≤ bs.length)
    && (n == 0 || (decide (144 ≤ off) && decide (n ≤ 1280) && (plan.partOf sp).isSome
        && (match calBlocksOf n (bs.drop off) with
            | some ks =>
              ks.all (fun k => spireOfTile k.tile == sp && calBlockOk mine (numAt bs 0 2 + 1) k)
                && strictlyRising (ks.map (fun k => 8 * k.tile + k.port)) && seamAlone ks
            | none => false)))

/-- Row 0x07: whether every calendar set of a plan is valid (R316). -/
def planCalsOk (b : List Byte) (plan : Plan) (owned : Nat) : Bool :=
  let mine (t : Nat) : Bool := bitOf owned (spireOfTile t)
  (List.range plan.calCount).all (fun i =>
    let bs := sliceOf b (calAt b i).1 (calAt b i).2
    decide (144 ≤ bs.length) && decide (bs.length ≤ 4 * 2 ^ 20) && numAt bs 8 4 == crc32 (bs.drop 0xC)
      && zeroAt bs 2 2 && zeroAt bs 0xC 4 && (List.range 16).all (calSpireOk plan mine bs))

/-! Handle-pool settings. -/

/-- Row 0x08: whether the handle-pool settings of a plan keep R278. -/
def planPoolsOk (b : List Byte) (plan : Plan) : Bool :=
  plan.parts.zipIdx.all (fun x =>
    let h := numAt b 0x2C 4 + 128 * x.2
    (List.range 16).all (fun q => decide (numAt b (h + 4 * q) 4 < 2 ^ 7) && decide (numAt b (h + 0x40 + 4 * q) 4 < 2 ^ 26))
      && x.1.queues.all (fun q => q.mode != 3 && (!q.init || q.mode == 2) && (q.mode != 2 || (x.1.pools.getD q.pool {}).count != 0))
      && x.1.pools.zipIdx.all (fun p => decide (p.1.count ≤ 32)
          && (p.1.count == 0 || (decide (p.1.base + p.1.count ≤ 2 ^ 20)
              && (x.1.queues.filter (fun q => q.init && q.pool == p.2)).length == 1))))

/-! Fit. -/

/-- Row 0x09: whether a plan fits the tick (R58, R59). -/
def planFits (plan : Plan) (c : Cfg) (guardUs : Nat) : Bool :=
  let guard := if guardUs = 0 then ceilDiv (8 * c.periodUs) 100 else guardUs
  decide (7 * unitsPerUs + plan.planCcyc * c.profile.ccycUnits + plan.drainAllow * unitsPerNs + guard * unitsPerUs ≤ c.periodUs * unitsPerUs)

/-! Span programs. -/

/-- A TX entry (Table 11-5). -/
def txOf (b : List Byte) (o : Nat) : TxEntry :=
  let g := numAt b (o + 0xC) 4
  { slot := bitsAt b o 8 47 0, addr := bitsAt b (o + 8) 4 21 0, gated := bitOf g 0, gate := fieldOf g 4 1, gateN := fieldOf g 16 5 }

/-- An RX entry (Table 11-5). -/
def rxOf (b : List Byte) (o : Nat) : RxEntry :=
  { addr := bitsAt b o 4 21 0, action := bitsAt b (o + 4) 1 1 0, push := bitOf (numAt b (o + 6) 1) 0, spire := bitsAt b (o + 7) 1 3 0
    queue := bitsAt b (o + 7) 1 7 4, literal := BitVec.ofNat 32 (numAt b (o + 8) 4) }

/-- A Span program (Table 11-5). -/
def programOf (b : List Byte) : Program :=
  let n := numAt b 4 4
  { port := numAt b 0 1, tx := (List.range n).map (fun i => txOf b (16 + 16 * i))
    rx := (List.range (numAt b 8 4)).map (fun i => rxOf b (16 + 16 * (n + i))) }

/-- Whether a Span program of a partition on a port keeps R462, but for the total of its port. -/
def programOk (b : List Byte) (c : Cfg) (plan : Plan) (p port : Nat) : Bool :=
  let g := programOf b
  let l := c.lane p port
  let n := numAt b 4 4
  let addrOk (a : Nat) : Bool := a % 16 == 0 && decide (a + 240 ≤ l.size)
  decide (numAt b 0xC 4 = crc32 (b.drop 16)) && zeroAt b 3 1
    && g.port == port && numAt b 1 1 == p && (c.port port).enabled && l.mask != 0 && l.size != 0
    && numAt b 2 1 == (c.port port).planWidth && c.hasTopology && (c.pod || c.rootId != 0xFF)
    && decide (n ≤ 65536) && decide (numAt b 8 4 ≤ 65536)
    && strictlyRising (g.tx.map (fun e => e.slot))
    && g.tx.zipIdx.all (fun e => let o := 16 + 16 * e.2
        zeroAt b (o + 6) 2 && numAt b (o + 8) 4 / 2 ^ 22 == 0 && numAt b (o + 0xC) 4 / 2 ^ 17 == 0
          && bitOf l.mask (e.1.slot % 25) && addrOk e.1.addr && (!e.1.gated || e.1.gateN != 0))
    && g.rx.zipIdx.all (fun e => let o := 16 + 16 * (n + e.2)
        numAt b o 4 / 2 ^ 22 == 0 && numAt b (o + 4) 1 / 4 == 0 && zeroAt b (o + 5) 1 && decide (numAt b (o + 6) 1 < 2) && zeroAt b (o + 0xC) 4
          && e.1.action != 3 && addrOk e.1.addr && (e.1.action != 1 || e.1.addr % 4 == 0)
          && bitOf (c.part p).spires e.1.spire && (plan.queueCfg e.1.spire e.1.queue).mode != 0)

/-- The most entries that the accepted rosters of the other partitions put in a list of a port. -/
def entriesOn (accepted : List RosterCfg) (p port : Nat) (size : Program → Nat) : Nat :=
  ((List.range 16).filter (· ≠ p)).foldl (fun n q =>
    n + ((accepted.filter (fun r => r.part == q)).flatMap (fun r => (r.programs.filter (fun g => g.port == port)).map size)).foldl max 0) 0

/-- Row 0x0B: phases, ports and Span programs (R450 to R462). -/
def spanRowOk (rs : List Rec) (c : Cfg) (accepted : List RosterCfg) (plan : Plan) (r : RosterCfg) : Bool :=
  (List.range 8).all (fun i =>
    let b := recBytes rs 10 r.id i
    let g := programOf b
    onlyBits (r.phases.getD i 0) (c.lane r.part i).mask && hasRec rs 10 r.id i == bitOf r.ports i
      && (!hasRec rs 10 r.id i || (programOk b c plan r.part i
          && decide (g.tx.length + entriesOn accepted r.part i (fun q => q.tx.length) ≤ 65536)
          && decide (g.rx.length + entriesOn accepted r.part i (fun q => q.rx.length) ≤ 65536))))

/-! Rings and objects. -/

/-- The words of a placement table. -/
def placementOf (b : List Byte) : List Nat := (List.range (b.length / 4)).map (fun i => numAt b (4 * i) 4)

/-- Row 0x0C: rings, placements and result areas (R500). Every PLACEMENT record of the roster is judged. -/
def ringsRowOk (rs : List Rec) (c : Cfg) (r : RosterCfg) : Bool :=
  let p := c.part r.part
  (List.range 16).all (fun i => !bitOf r.rings i
      || (match p.rings[i]? with
          | some _ => hasRec rs 9 r.id i
          | none => false))
    && (ofType rs 9).all (fun q => q.e.index != r.id
      || (placementOf q.b).all (fun v => v / 2 ^ 26 == 0 && decide (fieldOf v 25 8 + (p.rings.getD q.e.sub {}).chunk ≤ 2 ^ 18)))
    && (List.range 8).all (fun a => !bitOf r.results a || decide (a < p.results.length))

/-- Row 0x0D: the objects a roster uses. -/
def objectsRowOk (c : Cfg) (r : RosterCfg) : Bool :=
  decide (r.objects.length ≤ 1024)
    && r.objects.all (fun i =>
        match c.objects[i]? with
        | some o =>
          let d := c.destOf o
          (c.part r.part).windows.any (fun w => w.2.valid && decide (w.2.addr 0 ≤ d.1) && decide (d.1 + d.2 ≤ w.2.addr 0 + w.2.bytes))
        | none => false)

/-! Validation. -/

/-- Where the next plan may start (R580), and the end of the Belfry region. -/
def Cfg.plansFrom (c : Cfg) : Nat := (c.belfryBase + 32) * 2097152
/-- The end of the Belfry region. -/
def Cfg.belfryEnd (c : Cfg) : Nat := (c.belfryBase + c.belfrySize) * 2097152

/-- Check one roster against Table 14-15 (R579): its refusal code, or 0, with what the device keeps of it. `next` is the
first free byte for plans. -/
def checkRoster (rs : List Rec) (c : Cfg) (accepted : List RosterCfg) (next : Nat) (r : RosterCfg) : RosterCfg :=
  let b := recBytes rs 8 r.id 0
  let plan := { planOf b with base := roundUp next 256 }
  let p := c.part r.part
  let parked := if c.profile = .cool180 then 0xF000 else 0
  let code := firstBroken [
    (0x01, p.defined),
    (0x02, onlyBits r.spires p.spires && (r.spires ||| p.spires) &&& parked == 0),
    (0x03, r.extents.zipIdx.all (fun x => x.1 == 0
        || ((c.window r.part x.2).valid && decide (x.1 ≤ (c.window r.part x.2).bytes)))),
    (0x04, planOk b c.pod (fun sp => bitOf p.spires sp && !c.parks sp)),
    (0x05, planCmdsOk b plan p.spires),
    (0x06, planDescsOk b plan c r.part r.extents),
    (0x07, planCalsOk b plan p.spires),
    (0x08, planPoolsOk b plan),
    (0x09, planFits plan c p.guardUs),
    (0x0A, r.contexts == plan.contexts && decide (r.contexts ≤ 8) && (c.pod || decide (r.contexts ≤ 1))),
    (0x0B, spanRowOk rs c accepted plan r),
    (0x0C, ringsRowOk rs c r),
    (0x0D, objectsRowOk c r),
    (0x0E, decide (plan.base + b.length ≤ c.belfryEnd))]
  if code ≠ 0 then { r with refusal := code }
  else { r with
    plan := plan
    placements := (List.range 16).foldl (fun t i =>
      if bitOf r.rings i then Tbl.put [] i (placementOf (recBytes rs 9 r.id i)) t else t) []
    programs := ((List.range 8).filter (bitOf r.ports)).map (fun i => programOf (recBytes rs 10 r.id i)) }

/-- Check every roster in directory order (R579, R580), and answer them with the end of the plans loaded. -/
def checkRosters (rs : List Rec) (c : Cfg) : List RosterCfg × Nat :=
  c.rosters.foldl (fun acc r =>
    let q := checkRoster rs c (acc.1.filter (fun x => x.refusal == 0)) acc.2 r
    (acc.1 ++ [q], if q.refusal = 0 then q.plan.base + q.plan.len else acc.2)) ([], c.plansFrom)

end Sys2Proof.Machine
end

