-- ==== Sys2Proof/Machine/Boot.lean ====
section
/-! DEFINITION. Resets, the boot stages, the attempts and the boot record, the fuses blown after a boot, and the tamper
response (R569 to R582, R616, R650 to R661, R692). -/

namespace Sys2Proof.Machine

open Host (Outcome)

/-! The boot record (R572). -/

/-- A boot record (Table 14-13), its reasons newest first. -/
structure BootRec where
  seq : Nat := 0
  count : Nat := 0
  lastGood : Nat := 0xFF
  reasons : List Nat := [0, 0, 0]
  good : Nat := 0
  deriving DecidableEq, Repr

/-- The record in 64 bytes, when MAGIC and CHECK match. -/
def BootRec.ofBytes (b : List Byte) : Option BootRec :=
  if b.take 4 = [0x51#8, 0x42#8, 0x52#8, 0x44#8] ∧ numAt b 0x3C 4 = crc32 (b.take 0x3C) then
    some { seq := numAt b 4 4, count := numAt b 8 1, lastGood := numAt b 9 1
           reasons := [numAt b 0xA 2, numAt b 0xC 2, numAt b 0xE 2], good := numAt b 0x10 8 }
  else none

/-- The bytes of a record. -/
def BootRec.bytes (x : BootRec) : List Byte :=
  let b := [0x51#8, 0x42#8, 0x52#8, 0x44#8] ++ leBytes 4 x.seq ++ leBytes 1 x.count ++ leBytes 1 x.lastGood
    ++ (List.range 3).flatMap (fun i => leBytes 2 (x.reasons.getD i 0)) ++ leBytes 8 x.good ++ leBytes 36 0
  b ++ leBytes 4 (crc32 b)

/-- The places of a sector's records. -/
def recordPlaces (sector : Nat) : List Nat := (List.range 1024).map (fun i => sector * 0x10000 + 64 * i)

/-- The governing record and its place: the highest SEQ whose MAGIC and CHECK match; of equals, the first. -/
def Rom.governing (r : Rom) : Option (BootRec × Nat) :=
  (recordPlaces 0 ++ recordPlaces 1).foldl (fun best a =>
    match BootRec.ofBytes (r.flashRead a 64), best with
    | some x, some y => if y.1.seq < x.seq then some (x, a) else some y
    | some x, none => some (x, a)
    | none, y => y) none

/-- The first place of a sector behind everything written in it; none when it is full. -/
def Rom.freePlace (r : Rom) (sector : Nat) : Option Nat :=
  let used := (recordPlaces sector).filter (fun a => (r.flashRead a 64).any (· != 0xFF#8))
  let next := match used.getLast? with
    | some a => a + 64
    | none => sector * 0x10000
  if next < (sector + 1) * 0x10000 then some next else none

/-- Append a record: behind the governing one in its sector, or in the other sector, erased, when that one is full. -/
def Rom.append (r : Rom) (x : BootRec) : Rom :=
  let sector := match r.governing with
    | some g => g.2 / 0x10000
    | none => 0
  match r.freePlace sector with
  | some a => r.program a x.bytes
  | none => (r.erase ((1 - sector) * 0x10000) 0x10000).program ((1 - sector) * 0x10000) x.bytes

/-- The governing record's contents; those of R572 where none governs. -/
def Rom.record (r : Rom) : BootRec := (r.governing.map Prod.fst).getD {}

/-- Write a boot record with changed fields; a failure is logged (R575). -/
def State.writeRecord (s : State) (ok : Bool) (f : BootRec → BootRec) : State :=
  let x := s.rom.record
  if ok then { s with rom := s.rom.append { f x with seq := (x.seq + 1) % 2 ^ 32 } } else s.event 0x0009 2 none 0

/-! Resets. -/

/-- What the NAND keeps through a reset: its contents, with the wear and the marks of its blocks, and the pages of its log ring.
What the device held of it in its own registers is gone. -/
def StoreSt.cold (t : StoreSt) : StoreSt := {
  cells := t.cells, superList := t.superList, logPages := t.logPages, logSeq := t.logSeq, logAt := t.logAt, logUsed := t.logUsed
  filled := t.filled, erases := t.erases, reads := t.reads, refresh := t.refresh, factoryBad := t.factoryBad
  cutErases := t.cutErases, torn := t.torn, warned80 := t.warned80, warned95 := t.warned95
  tgt := (t.tgt.map (fun e => (e.1, ({ worn := e.2.worn } : TargetSt)))).filter (fun e => decide (e.2 ≠ {})) }

/-- Every domain reset but the always-on domain (R692): the attempt count, the TRIPPED flag, the TAMPER counter and the
TAP stay, and the flash, the fuses and the NAND keep what they hold. -/
def State.resetDomains (s : State) : State := {
  pending := s.pending, time := s.time, resetAt := s.resetAt, free := s.free
  power := { failPin := s.power.failPin, shdnPin := s.power.shdnPin, trip := s.power.trip, trippedFlag := s.power.trippedFlag
             gated := s.power.gated }
  boot := { count := s.boot.count, sel := s.boot.sel, due := false }
  store := s.store.cold
  rom := { flashSize := s.rom.flashSize, flash := s.rom.flash, otp := s.rom.otp, tamper := s.rom.tamper }
  tap := { s.tap with halted := false } }

/-- The device counters of before, as they outlast a domain reset without RESET_N (R641). -/
def State.keepCounters (s old : State) : State := { s with
  log := { old.log with lost := old.log.lost }
  host := { s.host with
    pcieCe := old.host.pcieCe, pcieUe := old.host.pcieUe, rwpIgnored := old.host.rwpIgnored, regUr := old.host.regUr
    trainings := old.host.trainings
    fns := (old.host.fns.map (fun e => (e.1, ({ bar2Ur := e.2.bar2Ur, mbx := { ignored := e.2.mbx.ignored } } : Func)))).filter (fun e => decide (e.2 ≠ {})) }
  rom := { s.rom with regIgnored := old.rom.regIgnored, plinthBusy := old.rom.plinthBusy }
  store := { s.store with ctr := old.store.ctr }
  ports := (old.ports.map (fun e => (e.1, ({ ctr := e.2.ctr } : Port)))).filter (fun e => decide (e.2 ≠ {}))
  core := { s.core with
    mesh := old.core.mesh
    hbmStacks := (old.core.hbmStacks.map (fun e => (e.1, ({ ce := e.2.ce, parityRetry := e.2.parityRetry, ue := e.2.ue } : Stack)))).filter (fun e => decide (e.2 ≠ {}))
    cupolas := (old.core.cupolas.map (fun e => (e.1, ({ hits := e.2.hits, misses := e.2.misses, ce := e.2.ce, ueLine := e.2.ueLine, tagParity := e.2.tagParity } : Cupola)))).filter (fun e => decide (e.2 ≠ {}))
    spires := (old.core.spires.map (fun e => (e.1, ({ ctr := e.2.ctr } : Spire)))).filter (fun e => decide (e.2 ≠ {})) }
  parts := (old.parts.map (fun e => (e.1, ({ ctr := e.2.ctr, rings := (e.2.rings.map (fun r => (r.1, ({ refused := r.2.refused, discard := r.2.discard } : Ring)))).filter (fun r => decide (r.2 ≠ {})) } : Part)))).filter (fun e => decide (e.2 ≠ {}))
  tick := { s.tick with early := old.tick.early, missed := old.tick.missed, beaconLate := old.tick.beaconLate } }

/-- The domain reset of a failed attempt and of RESTART (R576): the boot status registers, the event ring and the TAP's
halt stay. -/
def State.resetForAttempt (s : State) : State :=
  let s1 := s.resetDomains.keepCounters s
  { s1 with tap := s.tap, boot := { s1.boot with reason := s.boot.reason, history := s.boot.history, slot := s.boot.slot, viaRestart := s.boot.viaRestart } }

/-- Whether an attempt must wait, or never comes: PWR_FAIL_N at the start (R616). -/
def State.armBoot (s : State) : State :=
  if s.power.failPin then { s with boot := { s.boot with due := false }, power := { s.power with mode := .powerFail, pageDone := true } }
  else { s with boot := { s.boot with due := true } }

/-- RESET_N_ASSERT (R692, R635, R641): the latch of THERM_TRIP_N is released, the other domains are reset. -/
def execResetNAssert (s : State) : Outcome State Fault Refusal :=
  if s.boot.inReset then .next s
  else
    let s1 := s.cutPlinth.cutProvision.resetDomains
    .next { s1 with
      boot := { s1.boot with inReset := true }
      power := { s1.power with failPin := false, shdnPin := false, trip := false, gated := false } }

/-- RESET_N_DEASSERT (R578, R616, R736): BOOT_SEL is sampled, and an attempt is to start. -/
def execResetNDeassert (sel : BitVec 2) (s : State) : Outcome State Fault Refusal :=
  if !s.boot.inReset then .next s
  else .next { s with resetAt := s.time, boot := { s.boot with inReset := false, sel := sel.toNat, viaRestart := false } }.armBoot

/-- What a tamper detection does (R659, R660): a reset as RESET_N makes it, but for the THERM_TRIP_N latch; TAMPER counts it. -/
def State.tamperReset (s : State) : State :=
  let s0 := { s with rom := { s.rom with tamper := min 127 (s.rom.tamper + 1) } }
  if s.boot.inReset then s0
  else
    let s1 := s0.cutPlinth.cutProvision.resetDomains
    { s1 with resetAt := s.time }.armBoot

/-- Whether a monitor is armed (R661): those of the core rail and of the references are not once PWR_FAIL_N counts as asserted, nor in
Plinth mode. -/
def State.armed (s : State) : Monitor → Bool
  | .coreRail | .references => !s.power.failPin && !s.rom.plinthOut
  | _ => true

/-- TAMPER_DETECTION (R658 to R661): the condition of a monitor holds. -/
def execTamperDetection (s : State) (monitor : Monitor := .bootRom) : Outcome State Fault Refusal :=
  .next (if s.armed monitor then s.tamperReset else s)

/-- TEMP_SAMPLE (R605, R658): all 72 sensors are sampled, and the highest reading is Tj; one below −25 °C is a tamper detection. -/
def execTempSample (readings : List Int) (s : State) : Outcome State Fault Refusal :=
  let s := s.dueEdge
  if s.boot.inReset ∨ readings.length ≠ 72 then .next s
  else if readings.any (fun t => decide (t < -25)) then .next s.tamperReset
  else
    let top := readings.foldl max (readings.headD 0)
    .next ({ s with power := { s.power with tj := top } }.noteSample (decide (top < s.cfg.profile.dieShed.2)))

/-- ALWAYS_ON_POWER_UP (R573, R660, R722): the always-on domain comes up, with RESET_N low: the attempt count is invalid,
TAMPER and the TRIPPED flag start over, and the TAP is in Test-Logic-Reset. -/
def execAlwaysOnPowerUp (s : State) : Outcome State Fault Refusal :=
  let s1 := s.cutPlinth.cutProvision.resetDomains
  .next { s1 with
    boot := { inReset := true, due := false }
    power := {}
    rom := { s1.rom with tamper := 0 }
    tap := {} }

/-! Plinth mode. -/

/-- Enter Plinth mode (R587, R588, R654). -/
def State.enterPlinth (s : State) (why : Nat) : State :=
  { s with
    boot := { s.boot with stage := 0xD, slot := 3, plinthWhy := why, running := false, due := false }
    rom := { s.rom with plinthOut := true, keys := false }
    host := { s.host with pcieReady := true } }.event 0x0008 4 none (why + s.boot.reason * 2 ^ 16)

/-! Stages. -/

/-- How a stage ends. -/
inductive StageEnd where
  | ok
  | fail (reason : Nat)
  | plinth (why : Nat)
  /-- A tamper detection ends the attempt (Table 17-5). -/
  | tamper
  deriving DecidableEq, Repr

/-- The strap value that the attempt uses (R592). -/
def Boot.strap (b : Boot) : Nat := if b.viaRestart ∧ 2 ≤ b.sel then 0 else b.sel

/-- The slot of an attempt (Table 14-14). -/
def slotFor (strap n : Nat) : Nat := if n < 2 then strap else 1 - strap

/-- The attempt count N (R573): the always-on count when it is valid, else COUNT of the boot record, as far as the flash answers. -/
def State.attemptCount (s : State) (flashAnswers : Bool) : Nat :=
  s.boot.count.getD (if flashAnswers then min s.rom.record.count 3 else 0)

/-- ROM: TAMPER, the strap and the attempt count, which can give Plinth mode whatever the OTP reads (R587, R660), and the OTP (R573,
R574, R646). -/
def State.romStage (s : State) (env : BootEnv) : State × StageEnd :=
  let s1 := if env.otpOk then { s with rom := { s.rom with loaded := true } } else s
  if 64 ≤ s.rom.tamper then (s1, .plinth 1)
  else if 2 ≤ s.boot.strap then (s1, .plinth 2)
  else if 3 ≤ s.boot.count.getD 0 then (s1, .plinth 1)
  else if !env.otpOk then (s, .fail 0x0101)
  else (s1, .ok)

/-- FLASH (R554, R572 to R575, R654): the flash is reached, the count is raised, and the keys are derived. -/
def State.flashStage (s : State) (env : BootEnv) : State × StageEnd :=
  if !env.flashAnswers then (s, .fail 0x0201)
  else if !env.sfdpOk || !s.rom.densityOk then (s, .fail 0x0202)
  else if !env.octalOk then (s, .fail 0x0203)
  else
    let x := s.rom.record
    let n := s.boot.count.getD 0
    let s1 := { s with boot := { s.boot with history := x.reasons } }
    if 3 ≤ n then (s1, .plinth 1)
    else
      let slot := slotFor s.boot.strap n
      let s2 := { s1 with boot := { s1.boot with count := some (n + 1), slot := slot } }.writeRecord env.recordWriteOk
        (fun r => { r with count := n + 1 })
      ({ s2 with rom := { s2.rom with keys := true } }, .ok)

/-- The signed region of the image in the slot of the attempt. -/
def State.imageBytes (s : State) : List Byte := s.rom.slotRead s.boot.slot 0 (numAt (s.rom.slotRead s.boot.slot 0 256) 0x10 8)

/-- IMAGE (R556 to R560, R649): the image verifies, and its key slot, SVN and public key are kept. The signature is computed twice;
results that disagree are a tamper detection (Table 17-5). -/
def State.imageStage (s : State) (env : BootEnv) : State × StageEnd :=
  let reason := s.rom.imageReason s.boot.slot
  if !env.signaturesAgree ∧ (reason = 0 ∨ 0x0306 ≤ reason) then (s, .tamper)
  else if reason ≠ 0 then (s, .fail reason)
  else
    let h := s.rom.slotRead s.boot.slot 0 256
    ({ s with rom := { s.rom with
        bootKey := numAt h 7 1, svn := numAt h 8 8
        pubkey := s.rom.slotRead s.boot.slot (numAt h 0x10 8 + 0x10) 96 } }, .ok)

/-- CONFIG (R568): the configuration check passes, and its records are in force. -/
def State.configStage (s : State) : State × StageEnd :=
  let rs := recsOf s.imageBytes
  let d := configDetail rs s.rom.otp.lid
  if d ≠ 0 then (s, .fail (0x0400 + d)) else ({ s with cfg := cfgOf rs }, .ok)

/-- CLOCKS (R598, R601, R603): the transition rate and the core voltage, the status where the regulator reports an alert, then the
PLLs. -/
def State.clocksStage (s : State) (env : BootEnv) : State × StageEnd :=
  let p := { s.power with target := s.cfg.profile.voltRange.2, slewRate := 1 }
  match env.avs with
  | none => ({ s with power := p }, .fail 0x0502)
  | some a =>
    let q := { p with mv := a.mv, ma := a.ma }.readStatus a.alert
    if 30 < p.voltError a.mv then ({ s with power := q }, .fail 0x0502)
    else if !env.pllLocks then ({ s with power := q }, .fail 0x0501)
    else ({ s with power := q, ccyc := 0#48 }, .ok)

/-- PCIE (R490, R565): the PF stops answering with Request Retry Status, and a link that trained faster before the record was known
goes down to MAX_SPEED, below 64 GT/s in non-Flit mode (R486). -/
def State.pcieStage (s : State) : State × StageEnd :=
  let speed := min s.host.linkSpeed s.cfg.maxSpeed
  ({ s with host := { s.host with pcieReady := true, linkSpeed := speed, flit := s.host.flit && decide (6 ≤ speed) } }, .ok)

/-- HBM (R357): every stack is trained, and all of HBM is zero. -/
def State.hbmStage (s : State) (env : BootEnv) : State × StageEnd :=
  match env.hbmFails with
  | some k => (s, .fail (0x0701 + k.val))
  | none => ((s.hbmZero 0 hbmSize).onCore (fun c => { c with hbmMode := .running }), .ok)

/-! The model store at boot. -/

/-- The first row of Table 10-3 that a target fails, from 1; 0 when it meets them all. -/
def targetRow (x : NandTarget) (ddr3 : Bool) : Nat :=
  firstBroken [
    (1, x.revision == 50 || x.revision == 51),
    (2, x.bits == 3),
    (3, x.data == 16384),
    (4, decide (1856 ≤ x.spare)),
    (5, decide (768 ≤ x.pages) && decide (x.pages ≤ 4096) && x.pages % 3 == 0),
    (6, decide (1 ≤ x.luns) && decide (x.luns ≤ 8) && [1, 2, 4, 6].contains x.planes),
    (7, decide (x.capacity ≤ 256 * 2 ^ 30)),
    (8, decide (x.tProg ≤ 2000) && decide (x.tBers ≤ 10000) && decide (x.tR ≤ 100)),
    (9, decide (1 ≤ x.retry) && decide (x.retry ≤ 15)),
    (10, if ddr3 then [800, 1200, 1600].any x.ddr3.contains else [2400, 3200].any x.lpddr4.contains)]

/-- Whether two targets report the same geometry (R388). DESIGN CHOICE (log 42): the pages, LUNs, planes, blocks, data bytes and bits
per cell of their parameter pages; R388 names no fields. -/
def sameGeometry (x y : NandTarget) : Bool :=
  x.pages == y.pages && x.luns == y.luns && x.planes == y.planes && x.blocks == y.blocks && x.data == y.data && x.bits == y.bits

/-- The place of a target in channel and target order. -/
def targetIx (x : NandTarget) : Nat := 8 * x.ch.val + x.target.val

/-- The targets that answer, in channel and target order. -/
def foundTargets (ts : List NandTarget) : List NandTarget :=
  (List.range 128).filterMap (fun k => ts.find? (fun x => decide (targetIx x = k) && x.onfi))

/-- Discovery (R387, R388): the targets used, and those rejected with the failing row; a target whose geometry differs
from the first accepted one's has no row of its own and gives 0. -/
def discover (ddr3 : Bool) : List NandTarget → List NandTarget → List NandTarget × List (NandTarget × Nat)
  | acc, [] => (acc, [])
  | acc, x :: xs =>
    if targetRow x ddr3 ≠ 0 then
      let r := discover ddr3 acc xs
      (r.1, (x, targetRow x ddr3) :: r.2)
    else if acc.isEmpty ∨ sameGeometry x (acc.headD x) then discover ddr3 (acc ++ [x]) xs
    else
      let r := discover ddr3 acc xs
      (r.1, (x, 0) :: r.2)

/-- The rate of R383: the highest one of the mode, no higher than the named rate, that every target reports.
DESIGN CHOICE (log 42): a target that is rejected (R388) does not count. -/
def commonRate (c : Cfg) (ts : List NandTarget) : Option Nat :=
  let rates := if c.nandDdr3 then [1600, 1200, 800] else [3200, 2400]
  rates.find? (fun r => decide (r ≤ c.nandRate) && ts.all (fun x => (if c.nandDdr3 then x.ddr3 else x.lpddr4).contains r))

/-- The blocks that the rings are taken from, in the order of R401. -/
def StoreSt.ringOrder (t : StoreSt) : List Nat :=
  let rows := t.targets.map (fun k => ((List.range t.blocks).filter (8 ≤ ·)).map (fun b => blockAt (k / 8) (k % 8) (8 * b)) |>.filter t.good)
  (List.range t.blocks).flatMap (fun i => rows.filterMap (fun r => r[i]?))

/-- LOG_COUNT (R401). -/
def StoreSt.logCount (t : StoreSt) : Nat := max 2 (ceilDiv (64 * 2 ^ 20) (t.perBlock * 4096 - 4096) + 1)

/-- What META_COUNT must reach when `m` blocks are taken for the metadata ring (R401): 1.25 maps for every 32,768 B of C, in
blocks of payload P. -/
def StoreSt.metaNeed (t : StoreSt) (m : Nat) : Nat :=
  let good := ((t.targets.flatMap t.blocksOf).filter t.good).length
  let data := good - t.superPlaces.length - m - t.logCount
  let c := data * t.pages * 16384
  max 4 (min 256 (ceilDiv (5 * c) (4 * 32768 * (t.perBlock * 4096 - 4096))))

/-- META_COUNT: the least number of ring blocks that meets R401 for the data blocks it leaves. -/
def StoreSt.metaCount (t : StoreSt) : Nat := ((List.range 253).map (· + 4)).find? (fun m => decide (t.metaNeed m ≤ m)) |>.getD 256

/-- The factory bad blocks of a target (R428): those whose first or last page does not show 0xFF in its first spare byte. -/
def NandTarget.factoryBad (x : NandTarget) : List Nat :=
  (x.marks.filter (fun m => decide (m.2.1 ≠ 0xFF#8) || decide (m.2.2 ≠ 0xFF#8))).map Prod.fst

/-- Targets whose bad blocks have passed their share are worn out (R430). -/
def StoreSt.wearOut (t : StoreSt) : StoreSt :=
  (t.targets.filter t.wornOut).foldl (fun (a : StoreSt) k => a.onTg k (fun y => { y with worn := true })) t

/-- Format a store (R400, R401, R428): every good block is erased, and an empty metadata ring and the superblock copies are
written; none where the targets have too few good blocks for the rings. Grown bad blocks of which the device knows stay bad
(R429). DESIGN CHOICE (log 42): the first BLOCK_SEQ, SEQ and GEN are 1. -/
def StoreSt.format (t : StoreSt) (found : List NandTarget) (grown : List Nat) (id key : List Byte) : Option StoreSt :=
  let t0 : StoreSt := { t with cutErases := [], torn := [], factoryBad := found.flatMap NandTarget.factoryBad }
  let t1 : StoreSt := { t0 with
    bad := grown.filter (fun b => !t0.factoryBad.contains b), failing := [], lost := [], atFormat := t.targets, metaList := [], logList := [], superList := [], index := []
    held := [], headSeq := 0, headUsed := 0, badAt := 0, wearAt := 0, logPages := [], logSeq := 0, logAt := 0, logUsed := 0
    seq := 1, sinceCheckpoint := 0, gen := 0, storeId := id, key := key }.wearOut
  let order := t1.ringOrder
  let m := t1.metaCount
  let n := t1.logCount
  if order.length < m + n ∨ t1.superPlaces.isEmpty ∨ !((order.take m).any t1.writable) then none
  else
    let logs := (order.drop m).take n
    let t2 := { t1 with metaList := order.take m, logList := logs, superList := t1.superPlaces, logAt := logs.headD 0 }
    let t3 := (((t2.targets.flatMap t2.blocksOf).filter t2.good).foldl StoreSt.erase t2).openRing.writeBad
    some (t3.writeSuper t3.superList)

/-- Log the outcome of the STORE stage. -/
def State.storeOutcome (s : State) (n : Nat) : State := s.event 0x0403 2 none n

/-- The store is in use, and objects are judged by the index (R409). -/
def State.useStore (s : State) (outcome : Nat) : State :=
  ((s.onStore (fun t => { t with inUse := true })).storeOutcome outcome).refreshObjects

/-- Targets that answer but can't serve are logged (R387). -/
def State.logTargets (s : State) (bad : List (NandTarget × Nat)) : State :=
  bad.foldl (fun (a : State) x => a.event 0x0402 2 none (x.1.ch.val + x.1.target.val * 2 ^ 4 + x.2 * 2 ^ 8)) s

/-- The store's geometry and rate, taken from the targets that serve (R383, R387), each of which has had its long ZQ calibration
(R384). -/
def State.takeTargets (s : State) (good : List NandTarget) (first : NandTarget) (rate : Nat) : State :=
  let s2 := if rate < s.cfg.nandRate then s.event 0x0401 2 none rate else s
  s2.onStore (fun t => good.foldl (fun (u : StoreSt) x => u.onTg (targetIx x) (fun g => { g with
      retry := x.retry, tProg := x.tProg, tBers := x.tBers, tR := x.tR, spare := x.spare, zqAt := s.time, zqTemp := some x.temp }))
    { t with
      targets := good.map targetIx, pages := first.pages, blocks := first.blocks, luns := first.luns, planes := first.planes
      rate := rate, pslcFa := s.cfg.pslcFa, pslcOn := s.cfg.pslcOn, pslcOff := s.cfg.pslcOff })

/-- What a format leaves: the new store in use, or none (R399, R400); targets that are worn out are named (R430). The log is read
back at the end of the stage (R639). -/
def State.formatted (s : State) : Option StoreSt → State
  | some t =>
    (((t.targets.filter (fun k => (t.tg k).worn && !(s.store.tg k).worn)).foldl (fun (a : State) k =>
      a.event 0x0409 3 none (k / 8 + k % 8 * 2 ^ 4)) { s with store := t }).useStore 3).noteWear.resumeLog []
  | none => s.storeOutcome 4

/-- The grown bad blocks that the bad-block table of a foreign store names, as far as a correct superblock copy leads to it
(R429), and the store after its ring has been read (R386). -/
def StoreSt.knownBad (t : StoreSt) (copies : List (Nat × SuperRec)) (bad : List Nat) : List Nat × StoreSt :=
  match copies with
  | [] => ([], t)
  | c :: _ =>
    let t1 := { t with metaList := c.2.metaList }.readRing bad
    (((t1.findRing bad).ringRecords bad).foldl (fun (l : List Nat) (e : Nat × Content) => match e.2 with
      | .badBlocks q => q
      | _ => l) [], { t1 with metaList := t.metaList })

/-- The store is formatted (R399, R400); the store's new id is free. -/
def State.formatStore (s : State) (good : List NandTarget) (grown : List Nat) : State :=
  s.takeFree.2.formatted (s.takeFree.2.store.format good grown ((List.range 16).map (Config.storeIdByte s.takeFree.1)) s.rom.otp.storeKey)

/-- The superblock copies that read correct, with their blocks (R398, R399): those of targets in use, but for the channels
named. -/
def StoreSt.copies (t : StoreSt) (bad : List (Fin 16)) : List (Nat × SuperRec) :=
  (t.superList.filter (fun b => t.targets.contains (targetOf b) && !(bad.any (fun c => decide (c.val = b % 16))))).filterMap (fun b =>
    match t.cell (codewordAt b 0 0) with
    | some ⟨_, _, _, .superblock r⟩ => some (b, r)
    | _ => none)

/-- The copy that governs: of those whose BINDING verifies, the one with the highest GEN. -/
def governingCopy (key : List Byte) (l : List (Nat × SuperRec)) : Option SuperRec :=
  l.foldl (fun (a : Option SuperRec) x =>
    if x.2.binding ≠ hmac384 key x.2.storeId then a
    else match a with
      | some y => if y.gen < x.2.gen then some x.2 else a
      | none => some x.2) none

/-- The store as a superblock copy describes it, its index rebuilt from the ring (R399, R409); copies that are older or did not
read correct are rewritten. With it the flash addresses of the records whose RECORD_MAC fails. -/
def StoreSt.mount (t : StoreSt) (r : SuperRec) (key : List Byte) (copies : List (Nat × SuperRec)) (bad : List Nat) : StoreSt × List Nat :=
  let t0 := { t with lost := [], metaList := r.metaList, logList := r.logList, gen := r.gen, storeId := r.storeId, atFormat := r.targets, key := key }
  let stale := (t0.superList.filter (fun b => t0.targets.contains (targetOf b))).filter (fun b =>
    !(copies.any (fun x => decide (x.1 = b) && decide (x.2 = r))))
  (if stale.isEmpty then t0 else t0.writeSuper stale).rebuild bad

/-- Codewords of the ring that do not read correct at boot fail what they serve, and their blocks are given up (R419, R429). -/
def State.loseMeta (s : State) (bad : List Nat) : State :=
  s.lostCodewords (bad.filter (fun x => s.store.metaList.contains (blockOf x) && (s.store.cell x).isSome))

/-- Codewords of the log ring that do not read correct at boot: their blocks are given up, and what else they hold is written again
(R429). -/
def State.loseLog (s : State) (bad : List Nat) : State :=
  s.lostCodewords (bad.filter (fun x => s.store.logList.contains (blockOf x) && s.store.written x))

/-- A store is mounted: records whose RECORD_MAC fails are logged (R409), as targets that turn out to be worn out are (R430). The
entries of earlier boots are read back at the end of the stage (R639). -/
def State.mountStore (s : State) (r : SuperRec) (copies : List (Nat × SuperRec)) (bad : List Nat) : State :=
  let m := s.store.mount r s.rom.otp.storeKey copies bad
  let s1 := m.2.foldl (fun (a : State) x => a.event 0x0404 3 none (x % 2 ^ 48)) (m.1.targets.foldl State.checkWorn { s with store := m.1 })
  (((s1.useStore 0).loseMeta bad).noteWear.resumeLog bad).loseLog bad

/-- The superblock that verifies is used; where none does, the store is blank, or foreign when a copy is correct, and the
configured policy decides (R399, R400). -/
def State.openStore (s : State) (badCopies : List (Fin 16)) (bad : List Nat) (good : List NandTarget) : State :=
  let copies := s.store.copies badCopies
  let mine := s.store.superList.filter (fun b => s.store.targets.contains (targetOf b))
  let s1 := s.onStore (fun t => (t.touchAll mine).countReads bad (t.wordsOf mine))
  match governingCopy s.rom.otp.storeKey copies with
  | some r => s1.mountStore r copies bad
  | none =>
    let blank := copies.isEmpty
    if s.cfg.formatPolicy = 0 ∨ (s.cfg.formatPolicy = 1 ∧ !blank) then s1.storeOutcome (if blank then 1 else 2)
    else
      let k := s1.store.knownBad copies bad
      (s1.onStore (fun _ => k.2)).formatStore good k.1

/-- Whether VCCQ_NAND lies in the range of the configured mode (R707, Table 19-7), in mV. -/
def nandRailOk (ddr3 : Bool) (mv : Nat) : Bool :=
  if ddr3 then decide (1140 ≤ mv) && decide (mv ≤ 1260) else decide (570 ≤ mv) && decide (mv ≤ 630)

/-- STORE (R383, R387, R388, R399, R400, R409, R570): with the rail out of range no NAND signal is driven (R707). -/
def State.storeStage (s : State) (env : BootEnv) : State :=
  if !nandRailOk s.cfg.nandDdr3 env.vccqNand then s.storeOutcome 4
  else
    let d := discover s.cfg.nandDdr3 [] (foundTargets env.targets)
    let s1 := s.logTargets d.2
    match commonRate s.cfg d.1, d.1.head? with
    | some rate, some first => (s1.takeTargets d.1 first rate).openStore env.badCopies env.badCodewords d.1
    | _, _ => s1.storeOutcome 4

/-! The last stages. -/

/-- SPAN (R434, R435): every enabled port starts training. -/
def State.spanStage (s : State) : State :=
  (List.range 8).foldl (fun (a : State) i => if (a.cfg.port i).enabled then a.onPort i (fun x => { x with phase := .training, since := a.time }) else a) s

/-- ROSTERS (R579 to R581): every roster is checked, and the plans that pass are loaded. -/
def State.rostersStage (s : State) : State :=
  let rs := recsOf s.imageBytes
  let rosters := (checkRosters rs s.cfg).1
  let s1 := rosters.foldl (fun (a : State) r =>
    if r.refusal = 0 then a.hbmWrite r.plan.base (recBytes rs 8 r.id 0)
    else a.event 0x0006 3 none (r.id % 2 ^ 16 + r.refusal * 2 ^ 16)) s
  { s1 with cfg := { s1.cfg with rosters := rosters } }

/-- The fuses to blow after a boot under key slot `k` with an SVN (R650 to R652). -/
def Otp.jobs (o : Otp) (k svn : Nat) : List FuseJob :=
  ((List.finRange 4).filter (fun j => decide (j.val < k) && o.programmed j.val && !bit1 o.revoke j.val)).map FuseJob.revoke
    ++ ((List.finRange 64).filter (fun j => decide (o.arbCount ≤ j.val) && decide (j.val < svn))).map FuseJob.arb

/-- The boot is complete (R577, R583, R619). -/
def State.completeBoot (s : State) (recordWriteOk : Bool) : State :=
  let x := s.rom.record
  let s1 := { s with boot := { s.boot with count := some 0, stage := 0xE, running := false, complete := true, completedAt := s.time, viaRestart := s.boot.viaRestart } }
  let s2 := if x.count = 0 ∧ x.lastGood = s.boot.slot then s1
    else s1.writeRecord recordWriteOk (fun r => { r with count := 0, lastGood := s.boot.slot, good := (r.good + 1) % 2 ^ 64 })
  let s3 := s2.event 0x0003 1 none s.boot.slot
  let s4 := { s3 with
    rom := { s3.rom with fuses := s3.rom.otp.jobs s3.rom.bootKey s3.rom.svn }
    power := { s3.power with mode := .running }
    tick := { s3.tick with heard := s.time, lastEdge := s.time } }
  if s4.power.shdnPin then s4.startShutdown true else s4

/-! Attempts. -/

/-- An attempt fails (R576): it is logged, its reason goes to the boot record, and the next attempt comes 10 ms later. A ROM stage
that fails with N = 2, or runs past its timeout with N = 3, leads into Plinth mode (R587); the count is then 3, as RESET_N and power
cycles are to find it (R593). -/
def State.failAttempt (s : State) (reason : Nat) (recordWriteOk : Bool) : State :=
  let s1 := { s with boot := { s.boot with reason := reason, running := false } }.event 0x0002 3 none reason
  if reason / 256 = 1 ∧ 2 ≤ s.boot.count.getD 0 ∧ s.boot.strap < 2 then
    ({ s1 with boot := { s1.boot with count := some 3 } }.writeRecord recordWriteOk
      (fun r => { r with count := 3, reasons := reason :: r.reasons.take 2 })).enterPlinth 1
  else
    let s3 := (s1.writeRecord recordWriteOk (fun r => { r with reasons := reason :: r.reasons.take 2 })).resetForAttempt
    { s3 with boot := { s3.boot with nextAt := some (s.time + 10 * unitsPerMs) } }

/-- The work of a stage. -/
def State.stageWork (s : State) (env : BootEnv) : Nat → State × StageEnd
  | 1 => s.romStage env
  | 2 => s.flashStage env
  | 3 => s.imageStage env
  | 4 => s.configStage
  | 5 => s.clocksStage env
  | 6 => s.pcieStage
  | 7 => s.hbmStage env
  | 8 => (s.storeStage env, .ok)
  | 9 => (s.spanStage, .ok)
  | 10 => (s.rostersStage, .ok)
  | _ => (s, .ok)

/-- A stage begins (R569). The outputs whose state in Table 19-2 lasts until it leave that state: those of the NAND only where
their rail is in range (R694, R707). -/
def State.enterStage (s : State) (env : BootEnv) (k : Nat) : State :=
  { s with boot := { s.boot with
      stage := k, running := true, stageSince := s.time, xspiOn := s.boot.xspiOn || k == 2, avsOn := s.boot.avsOn || k == 5
      nandOn := s.boot.nandOn || (k == 8 && nandRailOk s.cfg.nandDdr3 env.vccqNand), spanOn := s.boot.spanOn || k == 9 } }

/-- Run stages in order (R569). A stage whose work does not end keeps the attempt in it. -/
def State.runStages (env : BootEnv) : List Nat → State → State
  | [], s => s.completeBoot env.recordWriteOk
  | k :: ks, s =>
    let s1 := s.enterStage env k
    if k ≠ 9 ∧ env.hangs.map Fin.val = some k then s1
    else
      let r := s1.stageWork env k
      match r.2 with
      | .ok => State.runStages env ks r.1
      | .fail reason => r.1.failAttempt reason (env.recordWriteOk && env.flashAnswers)
      | .plinth why => r.1.enterPlinth why
      | .tamper => r.1.tamperReset

/-- The stages of Table 14-11. -/
def allStages : List Nat := [1, 2, 3, 4, 5, 6, 7, 8, 9, 10]

/-- The start of an attempt (R608, R632, R635): the event ring is emptied, a latched thermal trip is reported, and the start is
logged with what R573 and R574 give the attempt; where they give no slot, the slot reads 0 (log 23). The boot record is read here
where the flash answers, which makes the always-on count valid (R573). -/
def State.beginAttempt (s : State) (flashAnswers : Bool) : State :=
  let s1 := { s.clearLog with boot := { s.boot with
    due := false, nextAt := none, slot := 3, count := if flashAnswers then some (s.attemptCount true) else s.boot.count } }
  let s2 := if s.power.trippedFlag then { s1 with power := { s1.power with tripped := true } }.event 0x0604 4 none 0 else s1
  let n := s.attemptCount flashAnswers
  let slot := if 2 ≤ s.boot.strap ∨ 3 ≤ n then 0 else slotFor s.boot.strap n
  let good := if flashAnswers then s.rom.record.good else 0
  s2.event 0x0001 1 none (slot + n % 4 * 2 ^ 2 + good % 2 ^ 56 * 2 ^ 8)

/-- BOOT_ATTEMPT (R569, R616, R736): an attempt that is due runs its stages. -/
def execBootAttempt (env : BootEnv) (s : State) : Outcome State Fault Refusal :=
  if !s.boot.due || s.boot.inReset || s.power.failPin || s.power.gated || s.tap.halted || s.intrusive then .next s
  else .next ((s.beginAttempt env.flashAnswers).runStages env allStages)

/-- What the world answers to the stages that follow a STORE stage that timed out. -/
def quietEnv : BootEnv :=
  { otpOk := true, flashAnswers := true, sfdpOk := true, octalOk := true, recordWriteOk := true, pllLocks := true, avs := none
    hbmFails := none, vccqNand := 0, badCopies := [], badCodewords := [], targets := [], hangs := none }

/-- The timeouts of the boot stages, in ms (Table 14-11); SPAN isn't waited for. -/
def stageTimeout : List Nat := [0, 10, 100, 2000, 500, 100, 10, 3000, 30000, 0, 10000]

/-- BOOT_STAGE_TIMEOUT (R569, R570): a stage that runs past its timeout fails the attempt with detail 0xFF; the STORE stage
leaves the store unused. -/
def execBootStageTimeout (stage : Fin 11) (s : State) : Outcome State Fault Refusal :=
  let k := stage.val
  if !s.boot.running || decide (s.boot.stage ≠ k) || decide (s.time < s.boot.stageSince + stageTimeout.getD k 0 * unitsPerMs) then .next s
  else if k = 8 then .next ((s.storeOutcome 4).runStages quietEnv [9, 10])
  else .next (s.failAttempt (k * 256 + 0xFF) true)

/-- NEXT_ATTEMPT_START (R576): 10 ms after a failure the next attempt starts. -/
def execNextAttemptStart (s : State) : Outcome State Fault Refusal :=
  match s.boot.nextAt with
  | some t => if t ≤ s.time then .next { s with boot := { s.boot with nextAt := none, due := true } } else .next s
  | none => .next s

/-! Fuses. -/

/-- A fuse as its read-back shows it: blown unless it has failed. -/
def Otp.blow (o : Otp) : FuseJob → Otp
  | .revoke k => { o with revoke := o.revoke ||| BitVec.ofNat 4 (2 ^ k.val) }
  | .arb n => { o with arb := o.arb ||| BitVec.ofNat 64 (2 ^ n.val) }

/-- OTP_FUSE_PROGRAM (R650 to R652): the next fuse is blown and read back. A fuse that reads unblown waits for the next
completed boot; an anti-rollback fuse that does so ends the ascent. -/
def execOtpFuseProgram (failRevoke failArb : Bool) (s : State) : Outcome State Fault Refusal :=
  if !s.boot.complete || s.power.mode == .powerFail || s.power.gated then .next s
  else match s.rom.fuses with
    | [] => .next s
    | .revoke k :: rest =>
      .next { s with rom := { s.rom with fuses := rest, otp := if failRevoke then s.rom.otp else s.rom.otp.blow (.revoke k) } }
    | .arb n :: rest =>
      if failArb then .next { s with rom := { s.rom with fuses := [] } }
      else .next { s with rom := { s.rom with fuses := rest, otp := s.rom.otp.blow (.arb n) } }

end Sys2Proof.Machine
end

