-- ==== Sys2Proof/Machine/Calendar.lean ====
section
/-! DEFINITION. The ccyc of a link calendar: the entries that act in it (R310 to R321, R331, R332, R336). -/

namespace Sys2Proof.Machine

open Host (Outcome)

/-- CAL_ENTRY_ACT (R310 to R321, R331, R332, R336): every calendar entry of a partition whose cycle is the present one
acts; an edge that is due in that ccyc comes first, and ends the window (R311, R740). `corrected` words of scheduled data had a single-bit error; `broken` names the inputs whose data is
uncorrectable. -/
def execCalEntryAct (p : Fin 16) (upsets : List Upset) (corrected : Nat) (broken : List (Fin 4096 × Fin 4)) (s : State) :
    Outcome State Fault Refusal :=
  let s := s.dueEdge
  let x := s.part p.val
  if x.phase ≠ .run ∨ x.ccyc < x.calNext then .next s
  else
    let count := x.ccyc
    let (id, s0) := ((s.upset upsets).setPart p.val { x with calNext := count + 1 }).takeFree
    let view := (s0.corrupt p.val count id broken).takeArrivals p.val count
    let live := (s.planSpires p.val).filter (fun sp => !bit1 (s.spire sp).frozen 0 || decide ((s.spire sp).seqFrozenAt = count))
    let acts := live.map (fun sp => (sp, (s.spire sp).calActive.acting (s.spire sp).calFrom count))
    let s1 := acts.foldl (fun (a : State) q => q.2.foldl (fun b e => b.actEntry q.1 count id view e) a) view
    let s2 := s1.onCore (fun c => { c with
      arrivals := c.arrivals.filter (fun a => !view.arrived p.val count a)
      writeBacks := c.writeBacks.filter (fun w => decide (s.owner w.spire ≠ some p.val) || decide (w.at_ ≤ count) || !s.seqFrozen w.spire), mesh := { c.mesh with ce := sat32 c.mesh.ce corrected } })
    let s3 := acts.foldl (fun (a : State) q =>
      let tiles := (q.2.map (fun e => e.1.tile)).eraseDups
      let slips := tiles.foldl (fun n t => n + meetings (view.schedAccesses count t q.2)) 0
      let reads := ((q.2.filter (fun e => e.1.local_)).map (fun e => (e.1.tile, e.2, e.1.len))).eraseDups
      let used := tiles.flatMap (fun t => (view.schedAccesses count t q.2).map (fun x => (t, x.1, x.2)))
      ((a.onCtr q.1 (fun c => { c with bankSlip := sat32 c.bankSlip slips })).useBanks q.1 .schedRead used).noteReads q.1 reads) s2
    let came := broken.filter (fun b => view.core.arrivals.any (fun a => view.arrived p.val count a && decide (a.tile = b.1.val) && decide (a.port = b.2.val) && decide (a.at_ = count)))
    .next (came.foldl (fun (a : State) b =>
      let sp := spireOfTile b.1.val
      let addr := brokenAddr (acts.flatMap (·.2)) b.1.val b.2.val
      (a.onCore (fun c => { c with mesh := { c.mesh with ue := sat32 c.mesh.ue 1 } })).freeze sp 0 0x0A addr addr) s3)

end Sys2Proof.Machine
end

