-- ==== Sys2Proof/Machine/Mailbox.lean ====
section
/-! DEFINITION. The mailboxes (R510 to R517, R529): the requests, and the end of a window scrub (R360), which imports wait for. -/

namespace Sys2Proof.Machine

open Host (Outcome)

/-! Taking requests (R510 to R512). -/

/-- Whether requests are taken at all (R494, R586, R588, R612, R621). -/
def State.takesRequests (s : State) : Bool :=
  s.boot.complete && !s.host.d3hot && !s.rom.plinthOut && !s.power.gated
    && s.power.mode != .powerFail && s.power.mode != .shutdownDone

/-- The slot of the next request of a function, when one waits and its response has room. -/
def State.nextRequest (s : State) (fn : Nat) : Option (List Byte) :=
  let m := (s.fn fn).mbx
  if !s.takesRequests || m.reqCi == m.reqPi || m.full || !m.held.isEmpty then none
  else some (Tbl.getRun 0#8 m.req (m.reqCi.toNat % 8 * 256) 256)

/-- The TYPE of a request slot, 0 standing for one the function may not send (Table 12-8). -/
def requestType (fn : Nat) (b : List Byte) : Nat :=
  let t := numAt b 2 1
  if 1 ≤ t ∧ t ≤ 7 ∧ (fn = pfFn ∨ (t ≠ 5 ∧ t ≠ 6)) then t else 0

/-- Take the next request: its slot is free again. -/
def State.consume1 (s : State) (fn : Nat) : State := s.onMbx fn (fun m => { m with reqCi := m.reqCi + 1#16 })

/-- What a request of a TYPE that is reserved or not the function's is answered: BAD_TYPE, but NO_ROSTER where the VF has no
partition (R524), and RESETTING while its partition is in a reset (Table 13-7). -/
def State.badTypeStatus (s : State) (fn : Nat) : Nat :=
  if fn = pfFn then stBadType
  else if !(s.pcfg fn).defined then stNoRoster
  else if (s.part fn).resetting then stResetting
  else stBadType

/-- Answer leading requests of a TYPE that is reserved or not the function's. The first argument bounds them. -/
def State.skipBadTypes : Nat → Nat → State → State
  | 0, _, s => s
  | k + 1, fn, s => match s.nextRequest fn with
    | none => s
    | some b =>
      if requestType fn b = 0 then State.skipBadTypes k fn ((s.consume1 fn).respond fn (numAt b 0 2) (numAt b 2 1) (s.badTypeStatus fn)) else s

/-- A request's payload, completed with zeros; none when its header or a byte past `size` is out of range. -/
def requestPayload (b : List Byte) (size : Nat) (reserved : List Nat) : Option (List Byte) :=
  let len := numAt b 4 2
  let body := sliceOf b 16 len
  if numAt b 0 2 = 0xFFFF ∨ 240 < len ∨ !zeroAt b 3 1 ∨ !zeroAt b 6 10 ∨ !zeroAt body size 240
      ∨ reserved.any (fun i => body.getD i 0#8 != 0#8) then none
  else some (body ++ leBytes (240 - body.length) 0)

/-- The checks that come before a request's own: an MSG_ID in use, a VF without a partition (R524), a partition in a reset
(Table 13-7), and the fields (Table 12-9). -/
def State.checkRequest (s : State) (fn : Nat) (type : Nat) (b : List Byte) (size : Nat) (reserved : List Nat) : Nat ⊕ List Byte :=
  if (s.fn fn).mbx.pendingIds.contains (numAt b 0 2) then .inl stIdInUse
  else if fn ≠ pfFn ∧ !(s.pcfg fn).defined ∧ type ≠ 7 then .inl stNoRoster
  else if fn ≠ pfFn ∧ (s.part fn).resetting ∧ type ≠ 7 ∧ type ≠ 4 then .inl stResetting
  else match requestPayload b size reserved with
    | none => .inl stBadArg
    | some p => .inr p

/-- Take the next request of a function when it has a TYPE, and carry it out: `act` is given its slot and its payload. -/
def State.serve (s : State) (fn type size : Nat) (reserved : List Nat) (act : State → List Byte → List Byte → State) : State :=
  let s1 := State.skipBadTypes 8 fn s
  match s1.nextRequest fn with
  | none => s1
  | some b =>
    if requestType fn b ≠ type then s1
    else
      let s2 := s1.consume1 fn
      match s2.checkRequest fn type b size reserved with
      | .inl st => s2.respond fn (numAt b 0 2) type st
      | .inr p => act s2 b p

/-! The requests. -/

/-- A roster switch (R514, R515, R517). -/
def State.switchRoster (s : State) (fn msg : Nat) (b : List Byte) : State :=
  let part := numAt b 0 1
  let p := if fn = pfFn then part else fn
  let id := numAt b 2 2
  let at_ := numAt b 8 8
  let x := s.part p
  let early := s.cfg.pod && (decide (at_ = 0) || match s.tick.count with
    | some n => decide (at_ ≤ n)
    | none => false)
  let deny (st : Nat) : State := s.respond fn msg 1 st
  if (fn ≠ pfFn ∧ part ≠ 0) ∨ 15 < p ∨ !(s.pcfg p).defined ∨ id = 0xFFFF ∨ early then deny stBadArg
  else if x.resetting then deny stResetting
  else match s.cfg.roster p id with
    | none => deny stNoRoster
    | some r =>
      if x.roster = some id ∧ x.switch.isNone then s.respond fn msg 1 stOk (leBytes 8 x.rosterSince)
      else if s.unselectable r then deny stUnselectable
      else
        let s1 := match x.switch with
          | some v => s.finish v.fn v.msgId 1 stSuperseded
          | none => s
        (s1.onPart p (fun y => { y with switch := some ⟨fn, msg, id, at_, s.time⟩ })).pend fn msg 1

/-- ROSTER_SWITCH (R514). -/
def execRosterSwitch (fn : Fn) (s : State) : Outcome State Fault Refusal :=
  let s := s.dueEdge
  .next (s.serve fn.val 1 16 [1, 4, 5, 6, 7] (fun a r b => a.switchRoster fn.val (numAt r 0 2) b))

/-- The partition whose namespace a request names (R529): a VF's own, or the first that owns it. `none` stands for a
namespace the function may not name. -/
def State.ownerOfNs (s : State) (fn ns : Nat) : Option Nat :=
  if fn = pfFn then s.definedParts.find? (fun p => decide ((s.pcfg p).ns = ns))
  else if (s.pcfg fn).ns = ns then some fn else none

/-- Check the namespace and object ID of a request, and go on with the partition that owns it. A VF that names a foreign
namespace has its host window frozen (R529). While that partition is in a reset, every request but OBJECT_STATE is answered
RESETTING (Table 13-7). -/
def State.inNamespace (s : State) (fn msg type ns objId : Nat) (act : Nat → State) : State :=
  match s.ownerOfNs fn ns with
    | some p => if objId = 0 then s.respond fn msg type stBadArg
      else if (s.part p).resetting ∧ type ≠ 4 then s.respond fn msg type stResetting else act p
    | none => if fn = pfFn then s.respond fn msg type stBadArg else (s.freezeHost fn 3 false 0 ns msg).respond fn msg type stNamespace

/-- Where the import region of a request lies. -/
def State.importAddr (s : State) (b : List Byte) (p : Nat) : Nat := (s.cfg.window p (numAt b 3 1)).addr (numAt b 8 8)

/-- The import of a region (R413 to R416, R513): its block and its payload are read, and the import begins behind those under
way; without a store in use it is refused. DESIGN CHOICE (log 42): data that an uncorrectable burst keeps from being
delivered (R355) fails the check it is for, the AUTH or the digest of the payload. -/
def State.importRegion (s : State) (fn msg : Nat) (b : List Byte) (p : Nat) : State :=
  let a := s.importAddr b p
  let block := s.hbmRead a 256
  let q : ImportRun := {
    fn := fn, msg := msg, part := p, ns := numAt b 0 1, objId := numAt b 4 4, replicas := numAt b 1 1, prot := numAt b 2 1
    digest := block.take 48, auth := sliceOf block 48 96, payload := s.hbmRead (a + 256) (numAt b 16 8) }
  match s.badBurst a 256, s.badBurst (a + 256) (numAt b 16 8) with
  | some _, _ => (s.countUe (s.badIn a 256)).endImport q 1
  | none, some _ => (s.countUe (s.badIn (a + 256) (numAt b 16 8))).endImport q 2
  | none, none => if s.store.inUse then (s.onStore (fun t => { t with imports := t.imports ++ [q] })).runImports else s.endImport q 4

/-- Whether the import block of a request has a non-zero reserved byte (R513). -/
def State.badBlock (s : State) (b : List Byte) (p : Nat) : Bool :=
  (s.badBurst (s.importAddr b p) 256).isNone && !zeroAt (s.hbmRead (s.importAddr b p) 256) 0x90 112

/-- An import (R513): the region must lie in a host-writable window of the partition; under a scrub of it the import waits
(R360). `bursts` is what its reads met (R354). -/
def State.doImport (s : State) (fn msg : Nat) (b : List Byte) (bursts : List (Nat × BurstRec) := []) : State :=
  let replicas := numAt b 1 1
  let w := numAt b 3 1
  s.inNamespace fn msg 2 (numAt b 0 1) (numAt b 4 4) (fun p =>
    let c := s.cfg.window p w
    if !(replicas = 1 ∨ replicas = 2) ∨ 1 < numAt b 2 1 ∨ 7 < w ∨ !c.valid ∨ !c.hostWr ∨ c.bytes < numAt b 8 8 + 256 + numAt b 16 8 then
      s.respond fn msg 2 stBadArg
    else if s.underScrub p w then
      let s1 := s.pend fn msg 2
      { s1 with host := { s1.host with heldImports := s1.host.heldImports ++ [(fn, msg, b, p)] } }
    else if s.badBlock b p then s.respond fn msg 2 stBadArg
    else ((s.pend fn msg 2).countEach bursts).importRegion fn msg b p)

/-- The imports that wait for a scrub go on where their window is under scrub no more, oldest first. -/
def State.releaseImports (s : State) : State :=
  let held := s.host.heldImports
  let still (h : Nat × Nat × List Byte × Nat) : Bool := s.underScrub h.2.2.2 (numAt h.2.2.1 3 1)
  (held.filter (fun h => !still h)).foldl (fun (a : State) h =>
    if a.badBlock h.2.2.1 h.2.2.2 then a.finish h.1 h.2.1 2 stBadArg else a.importRegion h.1 h.2.1 h.2.2.1 h.2.2.2)
    { s with host := { s.host with heldImports := held.filter still } }

/-- WINDOW_SCRUB_DONE (R360, R545): the scrub of a window ends with every byte zero; what waited goes on, and the next
window's scrub or step 6 begins. The writes of a scrub enter a write queue only while it holds fewer than 16, so it does not
end while one holds more. -/
def execWindowScrubDone (p : Fin 16) (s : State) : Outcome State Fault Refusal :=
  let x := s.part p.val
  if x.reset ≠ .scrub ∨ !s.goesOn ∨ s.core.ctls.any (fun e => decide (16 ≤ e.2.writes)) then .next s
  else match x.scrubs with
    | [] => .next s
    | w :: rest =>
      let c := s.cfg.window p.val w
      let s1 := ((s.meetSoft (c.addr 0) c.bytes).hbmZero (c.addr 0) c.bytes).setPart p.val { x with scrubs := rest }
      let s2 := s1.releaseOwn p.val w
      let s3 := if rest.isEmpty then s2.beginRestage p.val else s2
      .next s3.releaseWaiting.releaseWrites.releaseImports

/-- IMPORT (R413 to R416, R513). -/
def execImport (fn : Fn) (s : State) (bursts : List (Nat × BurstRec) := []) : Outcome State Fault Refusal :=
  let s := s.dueEdge
  .next (s.serve fn.val 2 24 [] (fun a r b => a.doImport fn.val (numAt r 0 2) b bursts))

/-- A retirement (R417). -/
def State.doRetire (s : State) (fn msg : Nat) (b : List Byte) : State :=
  s.inNamespace fn msg 3 (numAt b 0 1) (numAt b 4 4) (fun _ =>
    let r := (s.pend fn msg 3).retireObject (numAt b 0 1) (numAt b 4 4)
    r.2.finish fn msg 3 (if r.1 then stOk else stRefused))

/-- RETIRE (R417). -/
def execRetire (fn : Fn) (s : State) : Outcome State Fault Refusal :=
  let s := s.dueEdge
  .next (s.serve fn.val 3 8 [1, 2, 3] (fun a r b => a.doRetire fn.val (numAt r 0 2) b))

/-- The state and staging of an object as OBJECT_STATE reports them (Table 12-8). -/
def State.reportObject (s : State) (ns objId : Nat) : Nat × Nat :=
  match s.cfg.objects.findIdx? (fun o => decide (o.objId = objId) && decide (o.ns = ns)) with
  | some i => ((s.obj i).state.code, (s.obj i).staging.code)
  | none =>
    let all := s.store.index.filter (fun x => decide (x.objId = objId) && decide (x.ns = ns))
    let whole := all.filter (fun x => !x.failed)
    (if !s.store.inUse || all.isEmpty then ObjState.absent.code
     else if whole.isEmpty then ObjState.lost.code
     else if all.any (fun x => decide (whole.length < x.replicas)) then ObjState.degraded.code
     else ObjState.valid.code, 3)

/-- OBJECT_STATE (R418, Table 12-8). -/
def execObjectState (fn : Fn) (s : State) : Outcome State Fault Refusal :=
  let s := s.dueEdge
  .next (s.serve fn.val 4 8 [1, 2, 3] (fun a r b =>
    a.inNamespace fn.val (numAt r 0 2) 4 (numAt b 0 1) (numAt b 4 4) (fun _ =>
      let o := a.reportObject (numAt b 0 1) (numAt b 4 4)
      a.respond fn.val (numAt r 0 2) 4 stOk (leBytes 1 o.1 ++ leBytes 1 o.2))))

/-- PARTITION_RESET (R543, R544). -/
def execPartitionReset (fn : Fn) (s : State) : Outcome State Fault Refusal :=
  let s := s.dueEdge
  .next (s.serve fn.val 5 1 [] (fun a r b =>
    let m := numAt r 0 2
    let p := numAt b 0 1
    if 15 < p ∨ !(a.pcfg p).defined then a.respond fn.val m 5 stBadArg
    else if (a.part p).reset ≠ .none then a.respond fn.val m 5 stResetting
    else (a.pend fn.val m 5).startReset p false (some m)))

/-- SHUTDOWN (R619). -/
def execShutdown (fn : Fn) (s : State) : Outcome State Fault Refusal :=
  let s := s.dueEdge
  .next (s.serve fn.val 6 0 [] (fun a r _ =>
    let m := numAt r 0 2
    let s1 := a.pend fn.val m 6
    { s1 with power := { s1.power with shutAsks := s1.power.shutAsks ++ [m] } }.startShutdown false))

/-- ECHO: the payload comes back (Table 12-8). -/
def execEcho (fn : Fn) (s : State) : Outcome State Fault Refusal :=
  let s := s.dueEdge
  .next (s.serve fn.val 7 240 [] (fun a r b => a.respond fn.val (numAt r 0 2) 7 stOk (b.take (numAt r 4 2))))

end Sys2Proof.Machine
end

