-- ==== Sys2Proof/Machine/Plinth.lean ====
section
/-! DEFINITION. The image buffer and the Plinth commands (R588 to R593). -/

namespace Sys2Proof.Machine

open Host (Outcome)

/-- A write to an RWP field outside Plinth mode: ignored and counted (R13). -/
def State.ignoreRwp (s : State) : State :=
  { s with host := { s.host with rwpIgnored := sat32 s.host.rwpIgnored 1 } }.answer .dropped

/-- IMAGE_BUFFER_WRITE (R588, R13): PF BAR2 takes bytes in Plinth mode only, and gives those it holds. DESIGN CHOICE (log 42):
outside Plinth mode a read gives what the buffer holds too. -/
def execImageBufferWrite (offset : Nat) (bytes : List Byte) (s : State) (read : Option Nat := none) : Outcome State Fault Refusal :=
  if 2 ^ 20 < offset + read.getD bytes.length then .fault .outsideBar
  else if !s.fnOn pfFn then .next (s.answer .unsupported)
  else if read.isSome then .next (s.answer (.bytes (Tbl.getRun 0#8 s.rom.image offset (read.getD 0))))
  else if !s.rom.plinthOut then .next s.ignoreRwp
  else .next ({ s with rom := { s.rom with image := Tbl.putRun 0#8 offset bytes s.rom.image } }.answer .ok)

/-! Starting a command (R589). -/

/-- RESULT codes of Table 14-18. -/
def badRange : Nat := 1
/-- BAD_ARG. -/
def badArg : Nat := 2
/-- FLASH_ERROR. -/
def flashError : Nat := 3
/-- CHECK_FAILED. -/
def checkFailed : Nat := 4

/-- A command ends with a result at once. -/
def State.plinthEnd (s : State) (result reason : Nat) : State :=
  { s with rom := { s.rom with run := none, result := result, reason := reason } }

/-- A command runs, with OFF and LEN as they stand. -/
def State.plinthRun (s : State) (c : PlinthRun) : State :=
  { s with rom := { s.rom with run := some c, runOff := s.rom.off.toNat, runLen := s.rom.len.toNat } }

/-- Whether a range breaks R590, or LEN Table 14-18. DESIGN CHOICE (log 43): LEN outside Table 14-18 gives BAD_RANGE for READ too, and
ERASE tells BAD_RANGE before BAD_ARG. -/
def Rom.rangeBad (r : Rom) (write : Bool) : Bool :=
  decide (r.len.toNat = 0) || decide (2 ^ 20 < r.len.toNat) || decide (r.flashSize < r.off.toNat + r.len.toNat)
    || (write && decide (r.off.toNat < 0x100000))

/-- RESTART (R589, R592, R593): both counts are cleared, and an attempt starts as after a failed one. -/
def State.plinthRestart (s : State) : State :=
  let s1 := { s with boot := { s.boot with count := some 0 } }.writeRecord true (fun r => { r with count := 0 })
  let s2 := s1.resetForAttempt
  { s2 with boot := { s2.boot with viaRestart := true, due := true } }

/-- Start the command of a CMD value (Table 14-19). -/
def State.startPlinth (s : State) (cmd : Nat) : State :=
  let r := s.rom
  if cmd = 1 then
    if r.rangeBad true then s.plinthEnd badRange 0
    else if r.off.toNat % 0x10000 ≠ 0 ∨ r.len.toNat % 0x10000 ≠ 0 then s.plinthEnd badArg 0
    else s.plinthRun .erase
  else if cmd = 2 then if r.rangeBad true then s.plinthEnd badRange 0 else s.plinthRun .program
  else if cmd = 3 then if r.rangeBad false then s.plinthEnd badRange 0 else s.plinthRun .read
  else if cmd = 4 then if 1 < r.off.toNat then s.plinthEnd badArg 0 else s.plinthRun .checkSlot
  else if cmd = 5 then s.plinthRestart
  else s.plinthEnd badArg 0

/-- A full write of PLINTH_CMD in Plinth mode: ignored and counted while BUSY (R589). It sets CMD (R13); no command starts once
PWR_FAIL_N counts as asserted (R612, R615). -/
def State.plinthWrite (s : State) (cmd : Nat) : State :=
  if s.rom.run.isSome then { s with rom := { s.rom with plinthBusy := sat32 s.rom.plinthBusy 1 } }.answer .dropped
  else
    let s1 := { s with rom := { s.rom with cmd := BitVec.ofNat 4 cmd } }
    (if s.power.failPin then s1 else s1.startPlinth cmd).answer .ok

/-- A full write of PLINTH_CMD by the host. -/
def State.plinthCommand (s : State) (cmd : Nat) : State :=
  if !s.fnOn pfFn then s.answer .unsupported else if !s.rom.plinthOut then s.ignoreRwp else s.plinthWrite cmd

/-- ERASE (R589): the host writes CMD 1. -/
def execErase (s : State) : Outcome State Fault Refusal := .next (s.plinthCommand 1)
/-- PROGRAM (R589, R591): the host writes CMD 2. -/
def execProgram (s : State) : Outcome State Fault Refusal := .next (s.plinthCommand 2)
/-- READ (R589): the host writes CMD 3. -/
def execRead (s : State) : Outcome State Fault Refusal := .next (s.plinthCommand 3)
/-- CHECK_SLOT (R589): the host writes CMD 4. -/
def execCheckSlot (s : State) : Outcome State Fault Refusal := .next (s.plinthCommand 4)
/-- RESTART (R592): the host writes CMD 5. -/
def execRestart (s : State) : Outcome State Fault Refusal := .next (s.plinthCommand 5)

/-! The end of a command. -/

/-- What a command has done when it ends (R589 to R591), `ok` telling that the flash reported no failure. -/
def State.plinthDone (s : State) (c : PlinthRun) (ok : Bool) : State :=
  let r := s.rom
  match c, ok with
  | .erase, true => { s with rom := r.erase r.runOff r.runLen }.plinthEnd 0 0
  | .program, true => { s with rom := r.program r.runOff (Tbl.getRun 0#8 r.image 0 r.runLen) }.plinthEnd 0 0
  | .read, true => { s with rom := { r with image := Tbl.putRun 0#8 0 (r.flashRead r.runOff r.runLen) r.image } }.plinthEnd 0 0
  | .checkSlot, true => let why := r.imageReason r.runOff; if why = 0 then s.plinthEnd 0 0 else s.plinthEnd checkFailed why
  | .erase, false => s.spoilFlash.plinthEnd flashError 0
  | .program, false => s.spoilFlash.plinthEnd flashError 0
  | .read, false => s.plinthEnd flashError 0
  | .checkSlot, false => s.plinthEnd flashError 0

/-- PLINTH_COMMAND_DONE (R590, R738): the running command ends; ERASE and PROGRAM wait while an intrusive instruction is current. -/
def execPlinthCommandDone (ok : Bool) (s : State) : Outcome State Fault Refusal :=
  match s.rom.run with
  | none => .next s
  | some c => if s.intrusive ∧ (c = .erase ∨ c = .program) then .next s else .next (s.plinthDone c ok)

end Sys2Proof.Machine
end

