-- ==== Sys2Proof/Machine/Registers.lean ====
section
/-! DEFINITION. The commands that read registers (R674 to R683), and the register writes that have no row of their own (R679 to
R690). -/

namespace Sys2Proof.Machine

open Host (Outcome)

/-- An access of BAR0 by a function that answers: `act` is its effect, given the offset of its first DW. DESIGN CHOICE (log
3): an offset names the DW it lies in, since byte enables and not the offset choose bytes; one past the BAR does not exist. -/
def State.bar0 (s : State) (fn o : Nat) (act : Nat → State) : Outcome State Fault Refusal :=
  if bar0Size fn ≤ o then .fault .outsideBar
  else .next (if s.fnOn fn then act (o / 4 * 4) else s.answer .unsupported)

/-- RC_REGISTER_READ (R674 to R678): a read of BAR0 of one DW or of more; a full one of a register by its own VF clears an RC
register. -/
def execRcRegisterRead (fn : Fn) (offset : Nat) (be : BitVec 4) (s : State) (more : Option (Nat × BitVec 4) := none) :
    Outcome State Fault Refusal :=
  s.bar0 fn.val offset (fun o => match more with
    | none => s.readInOrder fn.val o 1 be 0#4
    | some (n, last) => s.readInOrder fn.val o (n + 1) be last)

/-- COUNTER_PAIR_READ (R682): a read of a LO or HI register. -/
def execCounterPairRead (fn : Fn) (offset : Nat) (be : BitVec 4) (s : State) : Outcome State Fault Refusal :=
  s.bar0 fn.val offset (fun o => s.readInOrder fn.val o 1 be 0#4)

/-- COUNTER_PAIR_SNAPSHOT (R681, R683): a 64-bit read; not at a multiple of 8 it is a crossing access, but in a buffer
region. -/
def execCounterPairSnapshot (fn : Fn) (offset : Nat) (s : State) : Outcome State Fault Refusal :=
  s.bar0 fn.val offset (fun o => s.readInOrder fn.val o 2 0xF#4 0xF#4)

/-- CROSSING_ACCESS (R675, R686): a write takes no effect to wait for; a read completes in its turn. -/
def execCrossingAccess (fn : Fn) (write : Bool) (s : State) : Outcome State Fault Refusal :=
  .next (if !s.fnOn fn.val then s.answer .unsupported
    else if write then s.crossing fn.val true
    else s.holdBack fn.val (.cross fn.val) (s.crossing fn.val false))

/-! Writes. -/

/-- The value of a register after the enabled lanes of a write (R679). -/
def mergeLanes (be : BitVec 4) (old new : Nat) : Nat :=
  (List.range 4).foldl (fun a i => a + (if bit1 be i then new else old) / 2 ^ (8 * i) % 256 * 2 ^ (8 * i)) 0

/-- A write of PLINTH_OFF or PLINTH_LEN in Plinth mode (R13, R679). -/
def State.writePlinthArg (s : State) (o : Nat) (value : W32) (be : BitVec 4) : State :=
  (if o = 0x0040 then { s with rom := { s.rom with off := BitVec.ofNat 32 (mergeLanes be s.rom.off.toNat value.toNat) } }
   else { s with rom := { s.rom with len := BitVec.ofNat 21 (mergeLanes be s.rom.len.toNat value.toNat) } }).answer .ok

/-- The lanes of a Plinth register that hold RWP bits (Table 14-18). -/
def rwpLanes (o : Nat) : BitVec 4 := if o = 0x0040 then 0xF#4 else if o = 0x0044 then 0x7#4 else 0x1#4

/-- A write of a Plinth register (R13, R679, R680, R687). -/
def State.writePlinthReg (s : State) (o : Nat) (value : W32) (be : BitVec 4) : State :=
  if s.rom.plinthOut then
    if o = 0x0048 then (if be = 0xF#4 then s.plinthWrite (fld value 3 0) else s.ignoreWrite) else s.writePlinthArg o value be
  else if be &&& rwpLanes o ≠ 0#4 then s.ignoreRwp
  else if o = 0x0048 then s.ignoreWrite
  else s.answer .ok

/-- A write of bytes into a buffer region (R673, R676, R690): only a function's own request slots take them. -/
def State.regionWrite (s : State) (fn : Nat) (b : Block) (r : Region) (o : Nat) (bs : List Byte) : State :=
  match r, b with
  | .events, _ => s.answer .ok
  | _, .vf _ false => s.ignoreWrite
  | .responses _, _ => if s.rom.plinthOut then s.ignoreWrite else s.answer .ok
  | .requests _, _ => if s.rom.plinthOut then s.ignoreWrite
    else s.inOrder fn (.slots fn o bs) (s.takeSlots fn o bs)

/-- The request slots as they will be once the writes to them that wait have been made (R496). -/
def State.slotsAhead (s : State) : State :=
  s.host.waiting.foldl (fun a w => match w with
    | .slots k o bs => a.takeSlots k o bs
    | _ => a) s

/-- The bytes of a buffer region's DW after the enabled lanes of a write. -/
def State.lanesOver (s : State) (r : Region) (i : Nat) (value : W32) (be : BitVec 4) : List Byte :=
  ((s.slotsAhead.regionRead r i 4).zip (leBytes 4 value.toNat)).zipIdx.map (fun b => if bit1 be b.2 then b.1.2 else b.1.1)

/-- A write of one DW of BAR0 (R665, R670, R673, R679, R680, R685, R687, R690). -/
def State.writeWord (s : State) (fn o : Nat) (value : W32) (be : BitVec 4) : State :=
  let q := regPlace fn o
  if be = 0#4 then s.answer .ok
  else match q.1.region q.2 with
    | some (r, i) => s.regionWrite fn q.1 r i (s.lanesOver r i value be)
    | none =>
      if (s.named q.1 q.2).isNone then s.answer .ok
      else match q.1 with
        | .vf k true =>
          if q.2 = 0x2000 then s.writeIndex be (s.writeReqPi k value)
          else if q.2 = 0x200C then s.writeIndex be (s.writeRspCi k value)
          else if 0x1000 ≤ q.2 ∧ q.2 < 0x1200 ∧ q.2 % 0x20 = 0 then s.writeDb k ((q.2 - 0x1000) / 0x20) value be
          else s.answer .ok
        | .vf _ false => s.ignoreWrite
        | .device =>
          if q.2 = 0x0040 ∨ q.2 = 0x0044 ∨ q.2 = 0x0048 then s.writePlinthReg q.2 value be
          else if s.rom.plinthOut ∧ !keptReg q.2 then s.ignoreWrite
          else if q.2 = 0xC000 then s.writeIndex be (s.writeReqPi fn value)
          else if q.2 = 0xC00C then s.writeIndex be (s.writeRspCi fn value)
          else s.answer .ok
        | _ => if s.rom.plinthOut then s.ignoreWrite else s.answer .ok

/-- Whether an access of two DWs from an offset is no crossing access (R674, R676): it lies at a multiple of 8, or in a
buffer region. -/
def pairInside (fn o : Nat) : Bool :=
  match (regPlace fn o).1.region (regPlace fn o).2 with
  | some (r, i) => decide (i + 8 ≤ r.size)
  | none => o % 8 == 0

/-- The completion of a write of two DWs: what the second half says, unless the first was ignored and the second taken. -/
def State.bothHalves (s : State) (first : Completion) : State := if first = .dropped then s.answer .dropped else s

/-- A write of two DWs (R674 to R676, R684): in register regions two 32-bit writes, the lower offset first, where it lies at a
multiple of 8 with every byte enable set, else a crossing access; in a buffer region the bytes enabled. -/
def State.writePair (s : State) (fn o : Nat) (lo hi : W32) (beLo beHi : BitVec 4) : State :=
  let inRegion := ((regPlace fn o).1.region (regPlace fn o).2).isSome
  if pairInside fn o ∧ (inRegion ∨ (beLo = 0xF#4 ∧ beHi = 0xF#4)) then
    let s1 := s.writeWord fn o lo beLo
    (s1.writeWord fn (o + 4) hi beHi).bothHalves s1.host.completion
  else s.crossing fn true

/-- REGISTER_WRITE (R679, R684): a write of one or two DWs of BAR0. -/
def execRegisterWrite (fn : Fn) (offset : Nat) (value : W32) (be : BitVec 4) (s : State) (second : Option (W32 × BitVec 4) := none) :
    Outcome State Fault Refusal :=
  let s := s.dueEdge
  s.bar0 fn.val offset (fun o => match second with
    | none => s.writeWord fn.val o value be
    | some (v, b) => s.writePair fn.val o value v be b)

/-- A write of consecutive bytes that starts in a register region, as Table 18-10 takes it: one DW or a part of it, two DWs
at a multiple of 8, or a crossing access. -/
def State.writeBytes (s : State) (fn o : Nat) (bs : List Byte) : State :=
  let n := bs.length
  if n = 0 then s.answer .ok
  else if o % 4 + n ≤ 4 then
    s.writeWord fn (o / 4 * 4) (BitVec.ofNat 32 (leNat bs * 2 ^ (8 * (o % 4)))) (BitVec.ofNat 4 ((2 ^ n - 1) * 2 ^ (o % 4)))
  else if o % 8 = 0 ∧ n = 8 then s.writePair fn o (BitVec.ofNat 32 (leNat (bs.take 4))) (BitVec.ofNat 32 (leNat (bs.drop 4))) 0xF#4 0xF#4
  else s.crossing fn true

/-- BUFFER_WRITE (R676): a write of consecutive bytes into a buffer region; one that leaves the region is a crossing access,
and one that starts in a register region is a register write (R674). -/
def execBufferWrite (fn : Fn) (offset : Nat) (bytes : List Byte) (s : State) : Outcome State Fault Refusal :=
  let s := s.dueEdge
  let q := regPlace fn.val offset
  if bar0Size fn.val ≤ offset then .fault .outsideBar
  else if !s.fnOn fn.val then .next (s.answer .unsupported)
  else match q.1.region q.2 with
    | none => .next (s.writeBytes fn.val offset bytes)
    | some (r, i) =>
      if bytes.isEmpty then .next (s.answer .ok)
      else if r.size < i + bytes.length then .next (s.crossing fn.val true)
      else .next (s.regionWrite fn.val q.1 r i bytes)

end Sys2Proof.Machine
end

