-- ==== Sys2Proof/Machine/Cells.lean ====
section
/-! DEFINITION. The boundary register: its cells and their pins (R728, R729, Tables 20-3 to 20-5), what they drive (R730, R731), and
what they capture. -/

namespace Sys2Proof.Machine

/-- A signal of a NAND channel (Table 19-5). -/
inductive NandPin where
  | dq (n : Nat) | dqsT | dqsC | reT | reC | weN | ale | cle | wpN | ceN (n : Nat) | rbN (n : Nat)
  deriving DecidableEq, Repr

/-- A signal pin with boundary cells; a receive pair has a cell for each leg. -/
inductive Pin where
  | resetN | pwrFailN | thermTripN | shdnReqN | tickIn | bootSel (n : Nat) | clk25 | refclk156 | tickOut | plinthOut | alertN
  | avsClk | avsMdata | avsSdata
  | sck | csN | rstN | ds | io (n : Nat)
  | nand (channel : Nat) (pin : NandPin)
  | spanTx (port lane : Nat) | spanRx (port lane : Nat) (negative : Bool)
  | peTx (lane : Nat) | peRx (lane : Nat) (negative : Bool) | refclk100
  deriving DecidableEq, Repr

/-- A boundary cell: one that enables drivers, one that a pin is captured in, or one that drives a pin. -/
inductive Cell where
  | control | input (p : Pin) | output (p : Pin)
  deriving DecidableEq, Repr

/-- A bidirectional pin: its input cell, then its output cell (Table 20-3). -/
def bothCells (p : Pin) : List Cell := [.input p, .output p]

/-- The control group (Table 20-5). -/
def controlGroup : List Cell :=
  [.input .resetN, .input .pwrFailN, .input .thermTripN, .input .shdnReqN, .input .tickIn, .input (.bootSel 0), .input (.bootSel 1),
    .input .clk25, .input .refclk156, .control, .output .tickOut, .output .plinthOut, .output .alertN, .input .alertN]

/-- The AVSBus group. -/
def avsGroup : List Cell := [.control, .output .avsClk, .output .avsMdata, .input .avsSdata]

/-- The xSPI group. -/
def xspiGroup : List Cell :=
  [.control, .control, .output .sck, .output .csN, .output .rstN, .input .ds] ++ (List.range 8).flatMap (fun n => bothCells (.io n))

/-- The block of a NAND channel: two controls, then the lands of Table 19-5. -/
def nandBlock (c : Nat) : List Cell :=
  [.control, .control] ++ (List.range 4).flatMap (fun n => bothCells (.nand c (.dq n))) ++ bothCells (.nand c .dqsT) ++ bothCells (.nand c .dqsC)
    ++ (List.range 4).flatMap (fun n => bothCells (.nand c (.dq (4 + n))))
    ++ ([.reT, .reC, .weN, .ale, .cle, .wpN] : List NandPin).map (fun p => .output (.nand c p))
    ++ (List.range 8).map (fun n => .output (.nand c (.ceN n))) ++ (List.range 8).map (fun n => .input (.nand c (.rbN n)))

/-- The block of a Span port. -/
def spanBlock (p : Nat) : List Cell :=
  .control :: (List.range 24).map (fun n => .output (.spanTx p n))
    ++ (List.range 24).flatMap (fun n => [.input (.spanRx p n false), .input (.spanRx p n true)])

/-- The PCIe group. -/
def pcieGroup : List Cell :=
  .control :: (List.range 16).map (fun n => .output (.peTx n))
    ++ (List.range 16).flatMap (fun n => [.input (.peRx n false), .input (.peRx n true)]) ++ [.input .refclk100]

/-- Cell `i` of the register, counted from TDO (R729, Table 20-4). -/
def cellAt (i : Nat) : Option Cell :=
  if i < 14 then controlGroup[i]?
  else if i < 18 then avsGroup[i - 14]?
  else if i < 40 then xspiGroup[i - 18]?
  else if i < 392 then (nandBlock (15 - (i - 40) / 44))[(i - 40) % 44]?
  else if i < 684 then (spanBlock (3 - (i - 392) / 73))[(i - 392) % 73]?
  else if i < 1036 then (nandBlock ((i - 684) / 44))[(i - 684) % 44]?
  else if i < 1086 then pcieGroup[i - 1036]?
  else if i < 1378 then (spanBlock (4 + (i - 1086) / 73))[(i - 1086) % 73]?
  else none

/-- The control cell that governs an output cell (Table 20-5); none for an input, a control cell or an open drain. -/
def controlOf (i : Nat) : Option Nat :=
  match cellAt i with
  | some (.output p) => match p with
    | .tickOut | .plinthOut => some 9
    | .avsClk | .avsMdata => some 14
    | .io _ => some 18
    | .sck | .csN | .rstN => some 19
    | .nand c q =>
      let start := if 8 ≤ c then 40 + 44 * (15 - c) else 684 + 44 * c
      match q with
      | .dq _ | .dqsT | .dqsC => some start
      | _ => some (start + 1)
    | .spanTx q _ => some (if q < 4 then 392 + 73 * (3 - q) else 1086 + 73 * (q - 4))
    | .peTx _ => some 1036
    | _ => none
  | _ => none

/-- Whether a cell is the driver of a Span or PCIe transmit pair. -/
def transmitCell (i : Nat) : Bool :=
  match cellAt i with
  | some (.output (.spanTx _ _)) => true
  | some (.output (.peTx _)) => true
  | _ => false

/-- Whether the current instruction drives the pins from the cells. -/
def Tap.chained (t : Tap) : Bool := ([0x00, 0x04, 0x06, 0x07] : List Nat).contains t.instr

/-- What the chain drives on the pin of a cell under EXTEST, CLAMP and the AC tests; none is high impedance, or a released
ALERT_N. THERM_TRIP_N is never driven (R731). -/
def Tap.drive (t : Tap) (i : Nat) : Option Bool :=
  if !t.chained then none
  else if i = 12 then (if bit1 t.cells 12 then none else some false)
  else match controlOf i with
    | none => none
    | some c => if bit1 t.cells c then some (bit1 t.cells i != (transmitCell i && t.inverted)) else none

/-- What the device does with an output: `active` once its interface runs it. -/
inductive Drive where
  | low | high | released | highImpedance | idle | active
  deriving DecidableEq, Repr

/-- What the device drives on its own outputs (R694): the state of Table 19-2 until the event named there, and the levels of
TICK_OUT (R37), PLINTH_OUT (R587), ALERT_N (R610) and THERM_TRIP_N (R607); none for an input and for the outputs that the table does
not name. TDO stands in R721. -/
def State.drives (s : State) : Pin → Option Drive
  | .tickOut => some (if s.tick.tickOut then .high else .low)
  | .plinthOut => some (if s.rom.plinthOut then .high else .low)
  | .alertN => some (if s.alert then .low else .released)
  | .thermTripN => some (if s.power.trip then .low else .released)
  | .nand _ (.rbN _) => none
  | .nand _ q => some (if s.boot.nandOn then .active else match q with
    | .ceN _ | .weN | .reT => .high
    | .wpN => .low
    | _ => .highImpedance)
  | .csN => some (if s.boot.xspiOn then .active else .high)
  | .rstN => some (if s.boot.xspiOn then .active else .low)
  | .avsClk => some (if s.boot.avsOn then .active else .low)
  | .avsMdata => some (if s.boot.avsOn then .active else .high)
  | .spanTx _ _ => some (if s.boot.spanOn then .active else .idle)
  | .peTx _ => some (if s.boot.inReset then .idle else .active)
  | _ => none

/-- Whether the device itself pulls ALERT_N low: under HIGHZ and where the chain drives the pins it does not. -/
def State.pullsAlert (s : State) : Bool := s.drives .alertN == some .low && !s.tap.chained && s.tap.instr != 0x05

/-- What an input cell captures where the state says what its pin reads (Table 20-3): RESET_N, THERM_TRIP_N, an ALERT_N that is pulled
low, and a bidirectional pin that the chain drives. -/
def State.ownLevel (s : State) (i : Nat) : Option Bool :=
  match cellAt i with
  | some (.input .resetN) => some (!s.boot.inReset)
  | some (.input .thermTripN) => some (s.drives .thermTripN != some .low)
  | some (.input .alertN) => if s.pullsAlert || s.tap.drive 12 == some false then some false else none
  | some (.input (.io _)) => s.tap.drive (i + 1)
  | some (.input (.nand _ (.dq _))) => s.tap.drive (i + 1)
  | some (.input (.nand _ .dqsT)) => s.tap.drive (i + 1)
  | some (.input (.nand _ .dqsC)) => s.tap.drive (i + 1)
  | _ => none

/-- The cells whose level the state can say. -/
def ownCells : List Nat :=
  [0, 2, 13] ++ (List.range 8).map (fun n => 24 + 2 * n)
    ++ (List.range 16).flatMap (fun k => (List.range 10).map (fun n => (if k < 8 then 40 else 332) + 44 * k + 2 + 2 * n))

/-- One bit of a number, set or cleared. -/
def putBit (n i : Nat) (b : Bool) : Nat := n - b2n (n.testBit i) * 2 ^ i + b2n b * 2 ^ i

/-- What the boundary cells capture (R728): the pins as the board holds them, but for what the state says. -/
def State.pinBits (s : State) (pins : BitVec 1378) : Nat :=
  ownCells.foldl (fun n i => match s.ownLevel i with
    | some b => putBit n i b
    | none => n) pins.toNat

end Sys2Proof.Machine
end

