-- ==== Sys2Proof/Machine/Tap.lean ====
section
/-! DEFINITION. The test access port: its instructions, the scan of the boundary register and provisioning (R655 to R657, R721 to
R739). One command stands for an instruction that is current and one scan of its data register: Capture-DR, then
Update-DR. -/

namespace Sys2Proof.Machine

open Host (Outcome)

/-! The current instruction. -/

/-- What Capture-IR loads (R723). -/
def State.irBits (s : State) : BitVec 8 := BitVec.ofNat 8 (1 + b2n s.rom.plinthOut * 4 + b2n s.rom.otp.lock * 8)

/-- The halt of R657: the key registers are cleared, every Spire and transfer stops, and no tick edge follows. BOOT_STATUS
keeps its stage (R737). -/
def State.tapHalt (s : State) : State :=
  let s1 := s.stopSpires.haltTick.haltStaging.onStore (fun t => { t with key := [] })
  { s1 with
    rom := { s1.rom with keys := false }
    boot := { s1.boot with running := false, due := false, nextAt := none }
    tap := { s1.tap with halted := true } }

/-- Load an instruction. One that is intrusive takes the PE lanes (R738); one that becomes current outside Plinth mode after
RESET_N has deasserted halts the device (R737), after an edge that is due (R740), a factory-test opcode in Plinth mode too (R726). -/
def State.load (s : State) (op : Nat) (always : Bool) : State :=
  let t := { s with tap := { s.tap with instr := op, ir := s.irBits, inverted := false } }
  if s.tap.instr = op ∨ !t.intrusive ∨ s.boot.inReset then t
  else
    let u := t.dueEdge.linkDown
    if always ∨ !s.rom.plinthOut then u.tapHalt else u

/-- Put bits in the data register at Capture-DR. -/
def State.capture (s : State) (bits : Nat) : State := { s with tap := { s.tap with captured := bits } }

/-- Capture what chapter 20 does not describe. -/
def State.captureFree (s : State) : State := let f := s.takeFree; f.2.capture (Config.tapCapture f.1)

/-- Capture the pins in the boundary cells. -/
def State.capturePins (s : State) (pins : BitVec 1378) : State := s.capture (s.pinBits pins)

/-- Update the boundary cells. -/
def State.updateCells (s : State) (din : BitVec 1378) : State := { s with tap := { s.tap with cells := din } }

/-! Public instructions. -/

/-- TAP_RESET (R722): IDCODE is current. -/
def execTapReset (s : State) : Outcome State Fault Refusal :=
  .next { s with tap := { s.tap with instr := 3, inverted := false } }

/-- EXTEST (R728, R736 to R738). -/
def execExtest (din pins : BitVec 1378) (s : State) : Outcome State Fault Refusal :=
  .next (((s.load 0x00 false).capturePins pins).updateCells din)

/-- SAMPLE (R739). -/
def execSample (pins : BitVec 1378) (s : State) : Outcome State Fault Refusal :=
  .next ((s.load 0x01 false).capturePins pins)

/-- PRELOAD (R739). -/
def execPreload (din pins : BitVec 1378) (s : State) : Outcome State Fault Refusal :=
  .next (((s.load 0x02 false).capturePins pins).updateCells din)

/-- The identification register (R727). -/
def idcodeValue : Nat := 0x34096A5B

/-- IDCODE (R727). -/
def execIdcode (s : State) : Outcome State Fault Refusal := .next ((s.load 0x03 false).capture idcodeValue)

/-- CLAMP (R724): the outputs are driven from the cells, and the bypass register captures 0. -/
def execClamp (s : State) : Outcome State Fault Refusal := .next ((s.load 0x04 false).capture 0)

/-- HIGHZ (R724). -/
def execHighz (s : State) : Outcome State Fault Refusal := .next ((s.load 0x05 false).capture 0)

/-- EXTEST_PULSE (R730): the pairs are restored on leaving Run-Test/Idle for the scan, and inverted on the entry that follows it. -/
def execExtestPulse (din pins : BitVec 1378) (s : State) : Outcome State Fault Refusal :=
  let t := ((s.load 0x06 false).capturePins pins).updateCells din
  .next { t with tap := { t.tap with inverted := true } }

/-- EXTEST_TRAIN (R730): the pairs are inverted on each fall of TCK in Run-Test/Idle. Outside the limits of R730 nothing
is promised of them. -/
def execExtestTrain (din pins : BitVec 1378) (falls : Nat) (s : State) : Outcome State Fault Refusal :=
  let before := s.tap.inverted && s.tap.instr == 0x07
  let s1 := ((s.load 0x07 false).capturePins pins).updateCells din
  let f := s1.takeFree
  let after := if 2 ≤ falls ∧ falls ≤ 100 then before != (falls % 2 == 1) else Config.freeBit f.1 0
  .next { f.2 with tap := { f.2.tap with inverted := after } }

/-- The opcodes that Table 20-1 lists, but BYPASS. -/
def listedOpcode (op : Nat) : Bool := decide (op ≤ 7) || (decide (0x80 ≤ op) && decide (op ≤ 0x83)) || op / 8 == 0x18

/-- BYPASS takes the place of an instruction (R656, R724, R725). -/
def State.bypass (s : State) : State := (s.load 0xFF false).capture 0

/-- BYPASS (R724, R725): opcode 0xFF, every opcode that is not listed, and a private one once LOCK is blown. An opcode of
another row makes that instruction the current one; no data register is scanned. -/
def execBypass (op : BitVec 8) (s : State) : Outcome State Fault Refusal :=
  .next (if !listedOpcode op.toNat ∨ (s.rom.otp.lock ∧ lockedOpcode op.toNat) then s.bypass else s.load op.toNat (op.toNat / 8 == 0x18))

/-! Private instructions. -/

/-- FACTORY_TEST (R726): a halt, while LOCK is unblown. -/
def execFactoryTest (op : Fin 8) (s : State) : Outcome State Fault Refusal :=
  .next (if s.rom.otp.lock then s.bypass else (s.load (0xC0 + op.val) true).captureFree)

/-- Whether provisioning works (R655, R736): in Plinth mode, or held at the ROM stage by BOOT_SEL. A power failure starts no ROM
stage (R616), and between two attempts there is none. -/
def State.provisioning (s : State) : Bool :=
  !s.boot.inReset && (s.rom.plinthOut || (decide (s.boot.stage ≤ 1) && decide (2 ≤ s.boot.strap) && !s.tap.halted
    && !s.power.failPin && s.power.mode != .powerFail && s.boot.nextAt.isNone))

/-- RESULT of a provisioning command. -/
def State.provResult (s : State) (r : Nat) : State := { s with tap := { s.tap with result := r } }

/-- Start to blow fuses. -/
def State.provStart (s : State) (j : ProvJob) : State := { s with tap := { s.tap with job := some j } }

/-- Update-DR of PROV_SLOT (R732, R735). -/
def State.updateSlot (s : State) (din : BitVec 392) : State :=
  let k := Fin.ofNat 4 (fld din 385 384)
  if s.tap.job.isSome then s
  else if !s.provisioning then s.provResult 3
  else if fld din 391 386 ≠ 0 then s.provResult 5
  else if s.rom.otp.programmed k.val then s.provResult 2
  else s.provStart (.slot k (din.setWidth 384))

/-- PROV_SLOT (R732). -/
def execProvSlot (din : BitVec 392) (s : State) : Outcome State Fault Refusal :=
  .next (if s.rom.otp.lock then s.bypass else (s.load 0x80 false).captureFree.updateSlot din)

/-- Capture-DR of PROV_NSIK (R733): the import key of the latched namespace, derived for this capture alone. -/
def State.captureKey (s : State) : State :=
  match s.tap.ns with
  | some n => if s.provisioning then s.capture (leNat (s.rom.otp.importKey n.val) + n.val * 2 ^ 384) else s.captureFree
  | none => s.captureFree

/-- Update-DR of PROV_NSIK (R733, R735). -/
def State.updateNs (s : State) (din : BitVec 392) : State :=
  if s.tap.job.isSome then s
  else if !s.provisioning then s.provResult 3
  else { s with tap := { s.tap with ns := some (Fin.ofNat 16 (fld din 387 384)), result := 0 } }

/-- PROV_NSIK (R733). -/
def execProvNsik (din : BitVec 392) (s : State) : Outcome State Fault Refusal :=
  .next (if s.rom.otp.lock then s.bypass else (s.load 0x81 false).captureKey.updateNs din)

/-- Update-DR of PROV_LOCK (R734, R735). -/
def State.updateLock (s : State) (din : BitVec 32) : State :=
  if s.tap.job.isSome then s
  else if !s.provisioning then s.provResult 3
  else if din ≠ 0x4B434F4C#32 then s.provResult 5
  else s.provStart .lock

/-- PROV_LOCK (R734). -/
def execProvLock (din : BitVec 32) (s : State) : Outcome State Fault Refusal :=
  .next (if s.rom.otp.lock then s.bypass else (s.load 0x82 false).captureFree.updateLock din)

/-- PROV_STATUS (Table 20-6). -/
def State.provStatus (s : State) : Nat :=
  b2n s.tap.job.isSome + s.tap.result * 2 + (List.range 4).foldl (fun a k => a + b2n (s.rom.otp.programmed k) * 2 ^ k) 0 * 2 ^ 4
    + b2n s.rom.otp.lock * 2 ^ 8

/-- PROV_STATUS (R725). -/
def execProvStatus (s : State) : Outcome State Fault Refusal := .next ((s.load 0x83 false).capture s.provStatus)

/-- PROV_FUSES_DONE (R732): the fuses are blown and read back. -/
def execProvFusesDone (ok : Bool) (s : State) : Outcome State Fault Refusal :=
  match s.tap.job with
  | none => .next s
  | some j =>
    if ok then .next { s with rom := { s.rom with otp := s.rom.otp.provision j }, tap := { s.tap with job := none, result := 0 } }
    else .next (s.cutProvision.provResult 4)

end Sys2Proof.Machine
end

