-- ==== Sys2Proof/Machine/Dispatch.lean ====
section
/-! DEFINITION. One arm for each command: a direct call of its meaning. -/

namespace Sys2Proof.Machine

def exec (i : Instr) (s : State) : Host.Outcome State Fault Refusal :=
  match i with
  | .resetNAssert => Sys2Proof.Machine.execResetNAssert s
  | .resetNDeassert sel => Sys2Proof.Machine.execResetNDeassert sel s
  | .bootAttempt env => Sys2Proof.Machine.execBootAttempt env s
  | .bootStageTimeout stage => Sys2Proof.Machine.execBootStageTimeout stage s
  | .nextAttemptStart => Sys2Proof.Machine.execNextAttemptStart s
  | .otpFuseProgram failRevoke failArb => Sys2Proof.Machine.execOtpFuseProgram failRevoke failArb s
  | .bootDonePod => Sys2Proof.Machine.execBootDonePod s
  | .pwrFailAssert erasing => Sys2Proof.Machine.execPwrFailAssert s erasing
  | .powerFailLogPage ok => Sys2Proof.Machine.execPowerFailLogPage ok s
  | .shdnReqNAssert => Sys2Proof.Machine.execShdnReqNAssert s
  | .orderlyShutdown => Sys2Proof.Machine.execOrderlyShutdown s
  | .shutdownStopPersistHold => Sys2Proof.Machine.execShutdownStopPersistHold s
  | .thermTrip => Sys2Proof.Machine.execThermTrip s
  | .tamperDetection monitor => Sys2Proof.Machine.execTamperDetection s monitor
  | .corePllUnlock east => Sys2Proof.Machine.execCorePllUnlock east s
  | .spanPllUnlock port => Sys2Proof.Machine.execSpanPllUnlock port s
  | .avsLoopTick answer minSlack => Sys2Proof.Machine.execAvsLoopTick answer minSlack s
  | .avsbusRetry answer => Sys2Proof.Machine.execAvsbusRetry answer s
  | .avsRailTempRead temp alert => Sys2Proof.Machine.execAvsRailTempRead temp s alert
  | .tempSample readings => Sys2Proof.Machine.execTempSample readings s
  | .hbmTempRead temps => Sys2Proof.Machine.execHbmTempRead temps s
  | .hbmEcsRead counts soft => Sys2Proof.Machine.execHbmEcsRead counts s soft
  | .tickInEdge => Sys2Proof.Machine.execTickInEdge s
  | .tickInMissed => Sys2Proof.Machine.execTickInMissed s
  | .internalTimerExpiry => Sys2Proof.Machine.execInternalTimerExpiry s
  | .tickEdge => Sys2Proof.Machine.execTickEdge s
  | .tickOutFall => Sys2Proof.Machine.execTickOutFall s
  | .runWindowOpen => Sys2Proof.Machine.execRunWindowOpen s
  | .rosterLoadDone p cups bursts => Sys2Proof.Machine.execRosterLoadDone p s cups bursts
  | .lateDrainDone p => Sys2Proof.Machine.execLateDrainDone p s
  | .drainComplete p => Sys2Proof.Machine.execDrainComplete p s
  | .ptmExchange ok ptmNs phaseErr => Sys2Proof.Machine.execPtmExchange ok ptmNs phaseErr s
  | .ptmLost => Sys2Proof.Machine.execPtmLost s
  | .tickRootDecide => Sys2Proof.Machine.execTickRootDecide s
  | .podStall waiting => Sys2Proof.Machine.execPodStall waiting s
  | .podStallSentinel p => Sys2Proof.Machine.execPodStallSentinel p s
  | .beacon port rec => Sys2Proof.Machine.execBeacon port rec s
  | .done port rec => Sys2Proof.Machine.execDone port rec s
  | .hold port tick podId => Sys2Proof.Machine.execHold port tick podId s
  | .beaconLost => Sys2Proof.Machine.execBeaconLost s
  | .leftPod => Sys2Proof.Machine.execLeftPod s
  | .leave port dev podId => Sys2Proof.Machine.execLeave port dev podId s
  | .link port rec => Sys2Proof.Machine.execLink port rec s
  | .ping port pong sent arrived => Sys2Proof.Machine.execPing port pong sent arrived s
  | .credit port c0 c1 c2 => Sys2Proof.Machine.execCredit port c0 c1 c2 s
  | .spanTrainingDone port good => Sys2Proof.Machine.execSpanTrainingDone port good s
  | .spanTrainingTimeout port => Sys2Proof.Machine.execSpanTrainingTimeout port s
  | .laneGroupFail port group => Sys2Proof.Machine.execLaneGroupFail port group s
  | .spanFrame port frame => Sys2Proof.Machine.execSpanFrame port frame s
  | .replayTimeout port => Sys2Proof.Machine.execReplayTimeout port s
  | .spanSlot port => Sys2Proof.Machine.execSpanSlot port s
  | .rxActionComplete port => Sys2Proof.Machine.execRxActionComplete port s
  | .nop c => Sys2Proof.Machine.execNop c s
  | .loop c => Sys2Proof.Machine.execLoop c s
  | .loopEnd c => Sys2Proof.Machine.execLoopEnd c s
  | .dmaIssue c => Sys2Proof.Machine.execDmaIssue c s
  | .lanternIssue c => Sys2Proof.Machine.execLanternIssue c s
  | .calLoad c => Sys2Proof.Machine.execCalLoad c s
  | .calLoadComplete sp bad cups bursts => Sys2Proof.Machine.execCalLoadComplete sp bad s cups bursts
  | .calActivate p => Sys2Proof.Machine.execCalActivate p s
  | .calEntryAct p upsets corrected broken => Sys2Proof.Machine.execCalEntryAct p upsets corrected broken s
  | .hqTakeF c => Sys2Proof.Machine.execHqTakeF c s
  | .hqPutF c => Sys2Proof.Machine.execHqPutF c s
  | .mac c => Sys2Proof.Machine.execMac c s
  | .macSetFinal sp set => Sys2Proof.Machine.execMacSetFinal sp set s
  | .readout c => Sys2Proof.Machine.execReadout c s
  | .vop c => Sys2Proof.Machine.execVop c s
  | .vld c => Sys2Proof.Machine.execVld c s
  | .vst c => Sys2Proof.Machine.execVst c s
  | .setp c => Sys2Proof.Machine.execSetp c s
  | .seto c => Sys2Proof.Machine.execSeto c s
  | .hqTakeE c => Sys2Proof.Machine.execHqTakeE c s
  | .hqPutE c => Sys2Proof.Machine.execHqPutE c s
  | .barrier c => Sys2Proof.Machine.execBarrier c s
  | .barrierRelease sp bid => Sys2Proof.Machine.execBarrierRelease sp bid s
  | .anchor c => Sys2Proof.Machine.execAnchor c s
  | .yield c => Sys2Proof.Machine.execYield c s
  | .eot c => Sys2Proof.Machine.execEot c s
  | .contextSwitch sp => Sys2Proof.Machine.execContextSwitch sp s
  | .bankWindowStart sp => Sys2Proof.Machine.execBankWindowStart sp s
  | .descriptorReadDone sp unit id bad cup bursts => Sys2Proof.Machine.execDescriptorReadDone sp unit id bad s cup bursts
  | .dmaRequestIssue sp upsets cup => Sys2Proof.Machine.execDmaRequestIssue sp upsets s cup
  | .dmaRequestComplete sp unit xfer req => Sys2Proof.Machine.execDmaRequestComplete sp unit xfer req s
  | .transferComplete sp unit xfer => Sys2Proof.Machine.execTransferComplete sp unit xfer s
  | .drainRelease sp unit xfer => Sys2Proof.Machine.execDrainRelease sp unit xfer s
  | .remotePushArrive id => Sys2Proof.Machine.execRemotePushArrive id s
  | .lanternComplete sp xfer bad upsets bursts => Sys2Proof.Machine.execLanternComplete sp xfer bad upsets s bursts
  | .arbitratedPacket sp unit xfer req fault => Sys2Proof.Machine.execArbitratedPacket sp unit xfer req fault s
  | .landingBufferDrain tile errs => Sys2Proof.Machine.execLandingBufferDrain tile s errs
  | .mantleRetransmit => Sys2Proof.Machine.execMantleRetransmit s
  | .hbmWriteAccept sp unit xfer req bad bursts => Sys2Proof.Machine.execHbmWriteAccept sp unit xfer req bad s bursts
  | .hbmReadComplete sp unit xfer req bad bursts => Sys2Proof.Machine.execHbmReadComplete sp unit xfer req bad s bursts
  | .cupolaFillComplete east line bad bursts => Sys2Proof.Machine.execCupolaFillComplete east line bad s bursts
  | .windowScrubDone p => Sys2Proof.Machine.execWindowScrubDone p s
  | .stagingStart => Sys2Proof.Machine.execStagingStart s
  | .stagingComplete bad bursts => Sys2Proof.Machine.execStagingComplete bad s bursts
  | .codewordRead ch target block page slot ladder => Sys2Proof.Machine.execCodewordRead ch target block page slot ladder s
  | .nandProgramStatus ch target block failed => Sys2Proof.Machine.execNandProgramStatus ch target block failed s
  | .nandTimeout ch target op us => Sys2Proof.Machine.execNandTimeout ch target s op us
  | .zqCalibrationShort ch target temp => Sys2Proof.Machine.execZqCalibrationShort s ch target temp
  | .retentionPatrol ch target block needs => Sys2Proof.Machine.execRetentionPatrol ch target block needs s
  | .wearLevelMove ch target block dest => Sys2Proof.Machine.execWearLevelMove ch target block dest s
  | .freeSpaceRelocate ch target block dest => Sys2Proof.Machine.execFreeSpaceRelocate ch target block dest s
  | .ringBlockReclaim => Sys2Proof.Machine.execRingBlockReclaim s
  | .indexCheckpoint => Sys2Proof.Machine.execIndexCheckpoint s
  | .logFlush => Sys2Proof.Machine.execLogFlush s
  | .ingestDb vf ring value be => Sys2Proof.Machine.execIngestDb vf ring value be s
  | .mbxReqPi fn value be => Sys2Proof.Machine.execMbxReqPi fn value be s
  | .mbxRspCi fn value be => Sys2Proof.Machine.execMbxRspCi fn value be s
  | .rosterSwitch fn => Sys2Proof.Machine.execRosterSwitch fn s
  | .import_ fn bursts => Sys2Proof.Machine.execImport fn s bursts
  | .retire fn => Sys2Proof.Machine.execRetire fn s
  | .objectState fn => Sys2Proof.Machine.execObjectState fn s
  | .partitionReset fn => Sys2Proof.Machine.execPartitionReset fn s
  | .shutdown fn => Sys2Proof.Machine.execShutdown fn s
  | .echo fn => Sys2Proof.Machine.execEcho fn s
  | .resetQuiesced p => Sys2Proof.Machine.execResetQuiesced p s
  | .vfFlr vf => Sys2Proof.Machine.execVfFlr vf s
  | .pfFlr => Sys2Proof.Machine.execPfFlr s
  | .dlDown => Sys2Proof.Machine.execDlDown s
  | .pmStateChange d3 => Sys2Proof.Machine.execPmStateChange d3 s
  | .bar2Access vf offset op bursts => Sys2Proof.Machine.execBar2Access vf offset op s bursts
  | .pcieWriteDropped fn ecrc ep => Sys2Proof.Machine.execPcieWriteDropped fn ecrc ep s
  | .rcRegisterRead fn offset be more => Sys2Proof.Machine.execRcRegisterRead fn offset be s more
  | .counterPairRead fn offset be => Sys2Proof.Machine.execCounterPairRead fn offset be s
  | .counterPairSnapshot fn offset => Sys2Proof.Machine.execCounterPairSnapshot fn offset s
  | .crossingAccess fn write => Sys2Proof.Machine.execCrossingAccess fn write s
  | .registerWrite fn offset value be second => Sys2Proof.Machine.execRegisterWrite fn offset value be s second
  | .bufferWrite fn offset bytes => Sys2Proof.Machine.execBufferWrite fn offset bytes s
  | .erase => Sys2Proof.Machine.execErase s
  | .program => Sys2Proof.Machine.execProgram s
  | .read => Sys2Proof.Machine.execRead s
  | .checkSlot => Sys2Proof.Machine.execCheckSlot s
  | .restart => Sys2Proof.Machine.execRestart s
  | .plinthCommandDone ok => Sys2Proof.Machine.execPlinthCommandDone ok s
  | .tapReset => Sys2Proof.Machine.execTapReset s
  | .extest din pins => Sys2Proof.Machine.execExtest din pins s
  | .sample pins => Sys2Proof.Machine.execSample pins s
  | .preload din pins => Sys2Proof.Machine.execPreload din pins s
  | .idcode => Sys2Proof.Machine.execIdcode s
  | .clamp => Sys2Proof.Machine.execClamp s
  | .highz => Sys2Proof.Machine.execHighz s
  | .extestPulse din pins => Sys2Proof.Machine.execExtestPulse din pins s
  | .extestTrain din pins falls => Sys2Proof.Machine.execExtestTrain din pins falls s
  | .provSlot din => Sys2Proof.Machine.execProvSlot din s
  | .provNsik din => Sys2Proof.Machine.execProvNsik din s
  | .provLock din => Sys2Proof.Machine.execProvLock din s
  | .provStatus => Sys2Proof.Machine.execProvStatus s
  | .provFusesDone ok => Sys2Proof.Machine.execProvFusesDone ok s
  | .factoryTest op => Sys2Proof.Machine.execFactoryTest op s
  | .bypass op => Sys2Proof.Machine.execBypass op s
  | .alwaysOnPowerUp => Sys2Proof.Machine.execAlwaysOnPowerUp s
  | .pcieLinkTraining trained speed width => Sys2Proof.Machine.execPcieLinkTraining trained speed width s
  | .configurationRequest fn req => Sys2Proof.Machine.execConfigurationRequest fn req s
  | .imageBufferWrite offset bytes read => Sys2Proof.Machine.execImageBufferWrite offset bytes s read
  | .pcieCorrectableError fn kind => Sys2Proof.Machine.execPcieCorrectableError fn kind s
  | .remotePushAcknowledgement id => Sys2Proof.Machine.execRemotePushAcknowledgement id s

end Sys2Proof.Machine
end

