-- ==== Sys2Proof/Machine/Idle.lean ====
section
/-! DEFINITION. What one ccyc does when no command comes: the accesses of the vector unit reach the banks, writes reach the
SRAM, the counts move on, the sequencers do what the new ccyc allows, publish steps end, and the waits of Table 16-6 are
counted. -/

namespace Sys2Proof.Machine

/-- A Spire's wait counters after a ccyc in which its running context waits (Table 16-6). -/
def State.countWait (s : State) (p sp : Nat) : State :=
  let x := s.spire sp
  let ctx := if (s.part p).plan.pod then x.running else 0
  if bit1 x.frozen 0 ∨ x.stopped ∨ x.yielded ∨ 8 ≤ ctx ∨ (s.part p).ccyc < x.switchEnd then s
  else match s.ctxWait p sp ctx with
    | none => s
    | some w => s.onCtr sp fun c => match w with
      | .barrier _ _ => { c with waitBarrier := wrap48 c.waitBarrier 1 }
      | .handle _ _ => { c with waitHq := wrap48 c.waitHq 1 }
      | .fetch _ _ | .calLoad _ => { c with waitFetch := wrap48 c.waitFetch 1 }
      | .refill | .span _ => { c with waitRefill := wrap48 c.waitRefill 1 }

/-- The banks of a tile that scheduled traffic uses in the present ccyc (R149), its writes of that ccyc among them. -/
def State.schedBanks (s : State) (sp tile : Nat) : List Nat :=
  ((s.core.writeBacks.filter (fun w => decide (w.tile = tile) && decide (w.at_ = s.countOf sp))).flatMap (fun w => banksOf w.addr w.bytes.length)) ++
  (s.core.bankUse.filter (fun e => decide (e.1 = sp) && decide (e.2.1 = tile) && decide (e.2.2.2 = .schedRead))).map (·.2.2.1)

/-- A step of a VLD split by tiles: those whose reads proceed, and those that meet scheduled traffic in a bank (R149). -/
def State.splitLoad (s : State) (l : VLoad) : VLoad × VLoad :=
  let lost := ((s.loadSpans l).filter (fun a => (banksOf a.2.1 a.2.2).any (s.schedBanks l.cmd.sp.val a.1).contains)).map (·.1)
  ({ l with tiles := l.tiles.filter (fun t => !lost.contains t) }, { l with at_ := l.at_ + 1, tiles := l.tiles.filter lost.contains })

/-- Whether the write of a VST row meets scheduled traffic, or a vector-unit read that proceeds, in a bank (R149). -/
def State.writeSlips (s : State) (reads : List VLoad) (w : TWrite) : Bool :=
  let taken := s.schedBanks w.spire w.tile
    ++ ((reads.flatMap s.loadSpans).filter (fun a => decide (a.1 = w.tile))).flatMap (fun a => banksOf a.2.1 a.2.2)
  (banksOf w.addr w.bytes.length).any taken.contains

/-- The end of a ccyc in a Spire: the banks choose between the accesses of the present ccyc (R149), and its reads are made: a vector-unit access that meets
one higher in the list follows one ccyc later, and every tile of the Spire stalls for that ccyc: what the reads that proceed write
comes one ccyc later too, and nothing starts in it. -/
def State.arbitrate (s : State) (sp : Nat) : State :=
  let now := s.countOf sp
  let x := s.spire sp
  let split := (x.loads.filter (fun l => decide (l.at_ = now))).map s.splitLoad
  let reads := split.map Prod.fst
  let late := (split.map Prod.snd).filter (fun l => !l.tiles.isEmpty)
  let slips (w : TWrite) : Bool := decide (w.spire = sp) && decide (w.at_ = now) && decide (w.from_ = now) && s.writeSlips reads w
  if late.isEmpty ∧ !s.core.twrites.any slips then s.loadDue sp now
  else
    let s0 := (s.onSpire sp fun y => { y with loads := reads ++ y.loads.filter (fun l => decide (l.at_ ≠ now)) }).loadDue sp now
    let s1 := s0.onCore fun c => { c with twrites := c.twrites.map (fun w => if slips w then { w with from_ := now + 1, at_ := now + 1 } else
      if w.spire = sp then { w with from_ := later (now + 1) 1 w.from_, at_ := later (now + 1) 1 w.at_ } else w) }
    s1.onSpire sp fun y =>
      let z := y.stall (now + 1) 1
      { z with startFree := max (now + 2) z.startFree, loads := late ++ z.loads }

/-- The start of a ccyc in a Spire: what the one before wrote stands in the SRAM, Lantern transfers that may issue do, and stopped
transfers send their last messages. -/
def State.beginSpire (s : State) (sp : Nat) : State := ((s.settle sp (s.countOf sp)).issueLantern sp).flushStopped sp

/-- The end of a ccyc in a partition: waits are counted, the reads of the ccyc see what stood before it, scheduled writes
land, the count moves on (R206), and the sequencers do what the new ccyc allows. -/
def State.endCcyc (s : State) (p : Nat) : State :=
  let s1 := if (s.part p).phase = .run then (s.planSpires p).foldl (fun (a : State) sp => a.countWait p sp) s else s
  let s2 := ((s1.spiresOf p).foldl State.arbitrate s1).landScheduled p
  let s3 := (s2.onCore (fun c => { c with bankUse := c.bankUse.filter (fun e => !(s.spiresOf p).contains e.1) })).onPart p (fun x => { x with ccyc := min (x.ccyc + 1) (2 ^ 48 - 1) })
  let s4 := (s3.spiresOf p).foldl State.beginSpire s3
  (s4.planSpires p).foldl State.resume s4

/-- One ccyc of everything that counts in ccyc. -/
def State.tickCcyc (s : State) : State :=
  let s1 := (s.definedParts.foldl State.endCcyc s).serveWrites
  { s1 with ccyc := s.ccyc + 1#48, core := { s1.core with bankUse := [], ports := [] } }

/-- A step with no command: an edge that is due in this ccyc is made (R740), and time passes; an edge that falls in the ccyc that
begins is the first thing in it. -/
def State.idle (s : State) : State :=
  let s := s.dueEdge
  let s1 := if s.clocked then s.tickCcyc else s
  let s2 := { s1 with time := s.time + s.stepUnits }
  (s2.definedParts.foldl (fun (a : State) p => (a.endPublish a.time p).noteStall p) s2).dueEdge

end Sys2Proof.Machine
end

