-- ==== Sys2Proof/Safety.lean ====
section
/-! DEFINITION. What counts as a safe step and a safe run, in the terms that claims use: the canonical forms that every
memory of the state keeps, and fuses that only ever blow. -/

namespace Sys2Proof.Machine

/-- The state answers a next state: it neither faults nor refuses. -/
def State.completes (s : State) : Prop := ∃ t, step s = .next t

/-- The state after `n` steps, when every one of them completes. -/
def runs : Nat → State → Option State
  | 0, s => some s
  | n + 1, s => match step s with
    | .next t => runs n t
    | _ => none

/-! Canonical forms. -/

/-- Tile SRAM, the routers' input registers and HBM are in canonical form. -/
def Core.wf (c : Core) : Bool := Tbl.wf 0#8 c.sram && Tbl.wf 0#8 c.inputs && Tbl.wf 0#8 c.hbm
/-- The boot flash and the image buffer are in canonical form. -/
def Rom.wf (r : Rom) : Bool := Tbl.wf 0xFF#8 r.flash && Tbl.wf 0#8 r.image
/-- A slot store is in canonical form. -/
def Port.wf (x : Port) : Bool := Tbl.wf 0#8 x.store
/-- A mailbox's request and response slots are in canonical form. -/
def Mailbox.wf (m : Mailbox) : Bool := Tbl.wf 0#8 m.req && Tbl.wf 0#8 m.rsp

/-- Every byte memory of the state is in canonical form: tile SRAM, input registers, HBM, boot flash, image buffer, slot
stores and mailboxes. -/
def State.memoryWf (s : State) : Bool :=
  s.core.wf && s.rom.wf && s.ports.all (fun e => e.2.wf) && s.host.fns.all (fun e => e.2.mbx.wf)

/-! Fuses (R646). -/

/-- Every bit of `x` that is 1 is 1 in `y` too. -/
def blownIn {n : Nat} (x y : BitVec n) : Bool := x &&& y == x

/-- Every fuse that is blown in `o` is blown in `p`. -/
def Otp.within (o p : Otp) : Bool :=
  blownIn o.rootKey p.rootKey && blownIn o.uniqueId p.uniqueId && blownIn o.lid p.lid && blownIn o.pmMargin p.pmMargin
    && blownIn o.hash0 p.hash0 && blownIn o.hash1 p.hash1 && blownIn o.hash2 p.hash2 && blownIn o.hash3 p.hash3
    && blownIn o.revoke p.revoke && blownIn o.arb p.arb && (!o.lock || p.lock)

/-! Frames: what a step leaves as it was, read byte by byte. -/

/-- Every byte of tile SRAM reads as before. -/
def SameSram (s t : State) : Prop := ∀ tile a, t.sramByte tile a = s.sramByte tile a
/-- Every byte of HBM reads as before. -/
def SameHbm (s t : State) : Prop := ∀ a, t.hbmByte a = s.hbmByte a
/-- Every byte of the boot flash reads as before. -/
def SameFlash (s t : State) : Prop := ∀ a, Tbl.get 0xFF#8 a t.rom.flash = Tbl.get 0xFF#8 a s.rom.flash
/-- Every byte of the image buffer reads as before. -/
def SameImage (s t : State) : Prop := ∀ a, Tbl.get 0#8 a t.rom.image = Tbl.get 0#8 a s.rom.image
/-- Every byte of every slot store reads as before. -/
def SameSlots (s t : State) : Prop := ∀ i a, Tbl.get 0#8 a (t.port i).store = Tbl.get 0#8 a (s.port i).store
/-- Every byte of every mailbox reads as before. -/
def SameMailboxes (s t : State) : Prop :=
  ∀ f a, Tbl.get 0#8 a (t.fn f).mbx.req = Tbl.get 0#8 a (s.fn f).mbx.req ∧ Tbl.get 0#8 a (t.fn f).mbx.rsp = Tbl.get 0#8 a (s.fn f).mbx.rsp

/-- Every byte of every memory reads as before. -/
structure SameMemory (s t : State) : Prop where
  sram : SameSram s t
  hbm : SameHbm s t
  flash : SameFlash s t
  image : SameImage s t
  slots : SameSlots s t
  mailboxes : SameMailboxes s t

/-! Streams. -/

/-- A Spire's sequencer has nothing under way: no command read or waiting in any context, no push unanswered and no refill
awaited in the context, no write on its way to a register or a predicate, no load under way, and every slot and set free by
ccyc `n`. -/
structure Spire.Rested (x : Spire) (ctx n : Nat) : Prop where
  empty : ∀ k, k < 8 → (x.ctx k).backlog = [] ∧ (x.ctx k).queue = []
  push : (x.ctx ctx).pushF = none ∧ (x.ctx ctx).pushE = none ∧ (x.ctx ctx).refillAt = none
  free : x.startFree ≤ n ∧ x.macFree ≤ n ∧ x.vecFree ≤ n ∧ x.roFree ≤ n ∧ (x.ctx ctx).finished ≤ n
  sets : ∀ k, Tbl.get 0 k x.setFinal ≤ n ∧ Tbl.get 0 k x.setRead ≤ n
  written : x.vwrites = [] ∧ x.pwrites = [] ∧ x.spans = [] ∧ x.loads = []

/-- Partition `p` can take a valid command of its stream, and start it in the present ccyc: the run window is open, the Spire's
part is resident and holds the command, the fetch engine could read it 2 ccyc ago (R211), its context may run, its sequencer
rests, and no error stands in tile SRAM. -/
structure Ready (s : State) (p : Nat) (c : StreamCmd) : Prop where
  owner : s.owner c.sp.val = some p
  takes : s.streaming c.sp.val c.ctx.val = true
  resident : ∃ q, (s.part p).plan.partOf c.sp.val = some q ∧ q.resident = true ∧ ((s.spire c.sp.val).ctx c.ctx.val).pc + 16 ≤ q.len
  read : (s.spire c.sp.val).readFrom c.ctx.val c + 2 ≤ (s.part p).ccyc
  runs : (s.spire c.sp.val).mayRun (s.part p).plan.pod c.ctx.val (s.part p).ccyc = true
  rested : (s.spire c.sp.val).Rested c.ctx.val (s.part p).ccyc
  valid : cmdValid ⟨(s.part p).plan, c.sp.val, (s.pcfg p).spires,
    ((s.spire c.sp.val).ctx c.ctx.val).loops.map (fun l => (l.start, l.count)), ((s.spire c.sp.val).ctx c.ctx.val).pc⟩ c = true
  clean : c.upsets = [] ∧ s.core.sramCe = [] ∧ s.core.sramUe = [] ∧ s.core.twrites = []

/-- Nothing outside the core has changed, but for the numbers of free values taken. -/
def SameOutside (s t : State) : Prop := { t with core := s.core, free := s.free } = s

/-- What a command changes lies in one Spire, of its sequencer: every memory, every register of every tile and every other
Spire are as before, and so is everything outside the core. -/
structure OnlySpire (s t : State) (sp : Nat) : Prop where
  outside : { t with core := s.core } = s
  inside : { t.core with spires := s.core.spires } = s.core
  others : ∀ i, i ≠ sp → t.spire i = s.spire i

end Sys2Proof.Machine
end

