-- ==== Sys2Proof/WellFormed.lean ====
section
/-! DEFINITION. What the operands of a command spell when it is its row's: the opcode of a stream command, an offset that
names a DW of a BAR, an offset in a buffer region, an opcode that is not listed. The meanings run every other command too:
they go by what the operands spell (R203, R674, R724). -/

namespace Sys2Proof

/-- The opcode byte of a stream command (Table 6-4). -/
def opcodeOf (c : StreamCmd) : Nat := fld c.w0 7 0

/-- The row of Table 6-4 that a stream command stands in; none for the other commands. -/
def Instr.stream : Instr → Option (Nat × StreamCmd)
  | .nop c => some (0x00, c)
  | .loop c => some (0x01, c)
  | .loopEnd c => some (0x02, c)
  | .dmaIssue c => some (0x10, c)
  | .lanternIssue c => some (0x11, c)
  | .calLoad c => some (0x12, c)
  | .hqTakeF c => some (0x13, c)
  | .hqPutF c => some (0x14, c)
  | .mac c => some (0x20, c)
  | .readout c => some (0x21, c)
  | .vop c => some (0x22, c)
  | .vld c => some (0x23, c)
  | .vst c => some (0x24, c)
  | .setp c => some (0x25, c)
  | .seto c => some (0x26, c)
  | .hqTakeE c => some (0x30, c)
  | .hqPutE c => some (0x31, c)
  | .barrier c => some (0x32, c)
  | .anchor c => some (0x33, c)
  | .yield c => some (0x34, c)
  | .eot c => some (0x3F, c)
  | _ => none

/-- Whether an offset of a function's BAR0 lies in a buffer region (R664). -/
def inBuffer (fn : Fn) (o : Nat) : Bool :=
  let slots (b : Nat) : Bool := decide (0x4000 ≤ b) && decide (b < 0x5800)
  if fn.val = 16 then
    (decide (0xE000 ≤ o) && decide (o < 0xF800)) || (decide (0x40000 ≤ o) && decide (o < 0x80000))
      || (decide (0x1000000 ≤ o) && decide (o < 0x1100000) && slots (o % 0x10000))
  else slots o

/-- The opcodes of Table 20-1 but BYPASS. -/
def tapOpcode (op : Nat) : Bool := decide (op ≤ 7) || (decide (0x80 ≤ op) && decide (op ≤ 0x83)) || op / 8 == 0x18

/-- Whether a command is well formed. -/
def Instr.wf (i : Instr) : Bool :=
  match i.stream with
  | some (op, c) => opcodeOf c == op
  | none => match i with
    | .rcRegisterRead _ o _ _ => o % 4 == 0
    | .counterPairRead _ o _ => o % 4 == 0
    | .counterPairSnapshot _ o => o % 4 == 0
    | .registerWrite _ o _ _ _ => o % 4 == 0
    | .bufferWrite fn o _ => inBuffer fn o
    | .bypass op => !tapOpcode op.toNat
    | _ => true

end Sys2Proof
end

