-- ==== Sys2Proof/Certificates/Slice0/Obligations.lean ====
section
/-! DEFINITION. The statements for the provers: what each command does where it completes, what it leaves as it was, and what
holds of every step. Each docstring says what its statement says; OBLIGATIONS.json names the rules. -/

open Sys2Proof Sys2Proof.Machine

/-! The whole machine. -/

/-- A step takes the command at the front of the queue. -/
def Obligations.StepTakesFront : Prop :=
  ∀ (c : Instr) (rest : List Instr) (s : State), step { s with pending := c :: rest } = exec c { s with pending := rest }

/-- Every byte memory keeps its canonical form in every step: strictly rising addresses, and no entry equal to what an
unlisted address reads as. -/
def Obligations.StepKeepsMemory : Prop := ∀ s t : State, s.memoryWf = true → step s = .next t → t.memoryWf = true

/-- After reset every byte memory is in canonical form. -/
def Obligations.ResetMemoryWf : Prop := State.reset.memoryWf = true

/-- A fuse, once blown, is blown after every step. -/
def Obligations.FusesOnlyBlow : Prop := ∀ s t : State, step s = .next t → s.rom.otp.within t.rom.otp = true

/-- A step takes one command off the queue and adds none, time does not run backwards, and a step without a command
takes one ccyc while the core clock runs, and 40 ns while it does not. -/
def Obligations.StepsTakeTurns : Prop :=
  ∀ s t : State, step s = .next t → t.pending = s.pending.tail ∧ s.time ≤ t.time ∧
    (s.pending = [] → t.time = s.time + s.stepUnits ∧ t.ccyc = if s.clocked then s.ccyc + 1#48 else s.ccyc)

/-- Every command completes in every state; only a host access that names an address past the end of its BAR faults, and none
is refused. -/
def Obligations.EveryCommandRuns : Prop :=
  ∀ (i : Instr) (s : State), (∃ t, exec i s = .next t) ∨
    (exec i s = .fault .outsideBar ∧
      ((∃ (fn : Fn) (o : Nat), bar0Size fn.val ≤ o ∧
        ((∃ be more, i = .rcRegisterRead fn o be more) ∨ (∃ be, i = .counterPairRead fn o be) ∨ i = .counterPairSnapshot fn o ∨
          (∃ v be second, i = .registerWrite fn o v be second) ∨ ∃ bs, i = .bufferWrite fn o bs)) ∨
      (∃ o bs read, i = .imageBufferWrite o bs read ∧ 2 ^ 20 < o + read.getD bs.length) ∨
      (∃ k o op bursts, i = .bar2Access k o op bursts ∧ 8 * 2 ^ s.cfg.ap < o + bar2Len op)))

/-- Right after RESET_N the device is at BOOTING, STAGE RESET; no tick has come, no partition is defined, nothing is
logged, the mailboxes are empty, nothing is frozen, PCIe is down, and HBM and tile SRAM read 0. -/
def Obligations.ResetState : Prop :=
  let s := State.reset
  s.power.mode = .booting ∧ s.boot.stage = 0 ∧ s.boot.complete = false ∧ s.tick.count = none ∧ s.definedParts = [] ∧
  s.log.pos = 0 ∧ s.log.seq = 0 ∧ s.host.linkUp = false ∧ s.host.vfEnable = false ∧ s.rom.plinthOut = false ∧ s.tap.instr = 3 ∧
  (∀ f, (s.fn f).mbx.reqPi = 0#16 ∧ (s.fn f).mbx.rspPi = 0#16) ∧ (∀ sp, (s.spire sp).frozen = 0#6) ∧
  (∀ a, s.hbmByte a = 0#8) ∧ (∀ tile a, s.sramByte tile a = 0#8)

/-! The command stream (chapters 5 and 6). A command that is presented once its turn has come is read, and starts, in the
ccyc it is presented in; one that is presented before waits in its context (log 8). -/

namespace Sys2Proof.Machine

/-- Nothing changes but the Spires and the number that the next transfer or push gets. -/
structure OnlySpires (s t : State) (sp : Nat) : Prop where
  outside : { t with core := s.core } = s
  inside : { t.core with spires := s.core.spires, nextId := s.core.nextId } = s.core
  others : ∀ i, i ≠ sp → t.spire i = s.spire i

/-- A context of a Spire, by a command of its stream. -/
def ctxOf (s : State) (c : StreamCmd) : Ctx := (s.spire c.sp.val).ctx c.ctx.val

/-- The ccyc in which the fetch engine could have read a command first. -/
def readOf (s : State) (c : StreamCmd) : Nat := (s.spire c.sp.val).readFrom c.ctx.val c

end Sys2Proof.Machine

/-- A ready NOP does nothing but move its context on; a YIELD marks a pod-class Spire as yielded and does nothing in store
class; an ANCHOR waits for its ccyc T, passes in that ccyc, and passes at once when T has gone by, which counts and logs an
anchor miss. -/
def Obligations.StreamMarksPass : Prop :=
  ∀ (s : State) (p : Nat) (c : StreamCmd), Ready s p c →
    let sp := c.sp.val
    let n := (s.part p).ccyc
    (c.op = 0x00 → ∃ t, exec (.nop c) s = .next t ∧ OnlySpire s t sp ∧
      (ctxOf t c) = { ctxOf s c with pc := (ctxOf s c).pc + 16 }) ∧
    (c.op = 0x34 → ∃ t, exec (.yield c) s = .next t ∧ OnlySpire s t sp ∧ (t.spire sp).yielded = (s.part p).plan.pod ∧
      (ctxOf t c).pc = (ctxOf s c).pc + 16 ∧ (ctxOf t c).queue = []) ∧
    (c.op = 0x33 →
      let at_ := c.w1.toNat + fld c.w2 15 0 * 2 ^ 32
      (n < at_ → ∃ t, exec (.anchor c) s = .next t ∧ OnlySpire s t sp ∧ (ctxOf t c).queue = [⟨c, (ctxOf s c).pc, readOf s c⟩] ∧
        (t.spire sp).ctr.anchorMiss = (s.spire sp).ctr.anchorMiss) ∧
      (n = at_ → ∃ t, exec (.anchor c) s = .next t ∧ OnlySpire s t sp ∧ (ctxOf t c).queue = [] ∧
        (t.spire sp).ctr.anchorMiss = (s.spire sp).ctr.anchorMiss) ∧
      (at_ < n → ∃ t, exec (.anchor c) s = .next t ∧ SameMemory s t ∧ (ctxOf t c).queue = [] ∧
        (t.spire sp).ctr.anchorMiss = sat32 (s.spire sp).ctr.anchorMiss 1 ∧ (t.spire sp).anchorLogged = true ∧
        t.log.pos = s.log.pos + (if (s.spire sp).anchorLogged then 0 else 1)))

/-- A ready EOT closes its context, and nothing after it is read; when every other context of every Spire with a part has
closed, the run window ends and the drain begins. -/
def Obligations.EotClosesTheTick : Prop :=
  ∀ (s : State) (p : Nat) (c : StreamCmd), Ready s p c → c.op = 0x3F →
    let sp := c.sp.val
    ((∃ i ∈ s.planSpires p, i ≠ sp ∧ s.closed p i = false) → ∃ t, exec (.eot c) s = .next t ∧ OnlySpire s t sp ∧
      (ctxOf t c).eotRead = true ∧ (ctxOf t c).eotDone = true) ∧
    ((∀ i ∈ s.planSpires p, i ≠ sp → s.closed p i = true) →
      (∀ k, k < (s.part p).plan.contexts → k ≠ c.ctx.val → ((s.spire sp).ctx k).eotDone = true) →
      ∃ t, exec (.eot c) s = .next t ∧ (t.part p).phase = .drain ∧ SameSram s t)

/-- LOOP opens a loop at the command after it. LOOP_END goes back to the loop's first command while iterations are left,
and with ADV adds AMOUNT, modulo 2^18, to O[OSEL] of the tiles where p[PSEL] is 1; after the last iteration it closes the
loop and goes on. -/
def Obligations.LoopsRepeat : Prop :=
  ∀ (s : State) (p : Nat) (c : StreamCmd), Ready s p c →
    let sp := c.sp.val
    let k := ctxOf s c
    (c.op = 0x01 → ∃ t, exec (.loop c) s = .next t ∧ OnlySpire s t sp ∧
      ctxOf t c = { k with pc := k.pc + 16, loops := ⟨k.pc + 16, fld c.w1 15 0, 0⟩ :: k.loops }) ∧
    (c.op = 0x02 → ∀ l rest, k.loops = l :: rest →
      (l.count ≤ l.iter + 1 → ∃ t, exec (.loopEnd c) s = .next t ∧ OnlySpire s t sp ∧
        ctxOf t c = { k with pc := k.pc + 16, loops := rest }) ∧
      (l.iter + 1 < l.count → bit1 c.w0 18 = false → ∃ t, exec (.loopEnd c) s = .next t ∧ OnlySpire s t sp ∧
        ctxOf t c = { k with pc := l.start, loops := { l with iter := l.iter + 1 } :: rest }) ∧
      (l.iter + 1 < l.count → bit1 c.w0 18 = true → ∃ t, exec (.loopEnd c) s = .next t ∧
        (ctxOf t c).pc = l.start ∧ (ctxOf t c).loops = { l with iter := l.iter + 1 } :: rest ∧
        (∀ tile ctx i, ctx < 8 → i < 8 → t.off tile ctx i =
          if tile ∈ s.activeTiles c ∧ ctx = c.ctx.val ∧ i = c.osel then (s.off tile ctx i + fld c.w1 17 0) % 0x40000 else s.off tile ctx i) ∧
        SameOutside s t ∧ { t.core with spires := s.core.spires, offs := s.core.offs } = s.core))

/-- DMA_ISSUE hands descriptor DESC + DSTEP × i, i the iteration of the innermost open loop, and the handle HSRC names to
an engine that holds fewer than 6 transfers, LANTERN_ISSUE one to the Lantern path when it holds fewer than 8, and
CAL_LOAD starts a load into an empty shadow bank; where there is no room the command waits and the context stands still. -/
def Obligations.IssueCommandsHandOver : Prop :=
  ∀ (s : State) (p : Nat) (c : StreamCmd), Ready s p c →
    let sp := c.sp.val
    let x := s.spire sp
    let k := ctxOf s c
    let waits (t : State) : Prop := (ctxOf t c).pc = k.pc ∧ (ctxOf t c).backlog = [c] ∧ OnlySpires s t sp ∧
      (∀ u, (t.spire sp).unit u = x.unit u) ∧ (t.spire sp).calShadow = x.calShadow
    let given (index : Nat) : Xfer := { id := s.core.nextId, part := p, index := index, handle := hsrcHandle k (fld c.w1 22 20), sel := (s.part p).sel, order := x.orders }
    let takes (t : State) (u index : Nat) : Prop := (t.spire sp).unit u = x.unit u ++ [given index] ∧ (∀ v, v ≠ u → (t.spire sp).unit v = x.unit v) ∧
      (ctxOf t c).pc = k.pc + 16 ∧ OnlySpires s t sp
    (c.op = 0x10 →
      let u := fld c.w0 19 18
      let i := (k.loops.map Loop.iter).headD 0
      (¬bit1 x.frozen (u + 1) → (x.unit u).length < 6 → ∃ t, exec (.dmaIssue c) s = .next t ∧ takes t u (fld c.w1 19 0 + fld c.w2 19 0 * i)) ∧
      (bit1 x.frozen (u + 1) ∨ 6 ≤ (x.unit u).length → ∃ t, exec (.dmaIssue c) s = .next t ∧ waits t)) ∧
    (c.op = 0x11 →
      (¬bit1 x.frozen 5 → (x.unit 4).length < 8 → ∃ t, exec (.lanternIssue c) s = .next t ∧ takes t 4 (fld c.w1 19 0)) ∧
      (bit1 x.frozen 5 ∨ 8 ≤ (x.unit 4).length → ∃ t, exec (.lanternIssue c) s = .next t ∧ waits t)) ∧
    (c.op = 0x12 →
      (x.calShadow = none → ∃ t, exec (.calLoad c) s = .next t ∧ OnlySpires s t sp ∧ (ctxOf t c).pc = k.pc + 16 ∧
        (t.spire sp).calShadow = some { cal := fld c.w1 15 0, at_ := c.w2.toNat + fld c.w3 15 0 * 2 ^ 32 }) ∧
      (x.calShadow ≠ none → ∃ t, exec (.calLoad c) s = .next t ∧ waits t))

/-- HQ_TAKE_F and HQ_TAKE_E pop the oldest handle of a queue into FH or EH[HREG], and wait at an empty queue and at a handle
that was pushed in the same ccyc. HQ_PUT_F and HQ_PUT_E push FH or EH[HREG], or W1 when LIT is 1, onto a local queue with
room, discard and count a stale handle, and wait at a full queue; a remote one sends a push and holds its context until the
push is acknowledged. -/
def Obligations.HandleCommandsMove : Prop :=
  ∀ (s : State) (p : Nat) (c : StreamCmd), Ready s p c → s.core.pushes = [] →
    let sp := c.sp.val
    let x := s.spire sp
    let k := ctxOf s c
    let n := (s.part p).ccyc
    let q := fld c.w0 21 18
    let r := fld c.w0 23 22
    let others (t : State) : Prop := ∀ j, j ≠ q → (t.spire sp).queue j = x.queue j
    let frame (t : State) : Prop := { t with core := s.core } = s ∧ SameSram s t ∧ SameHbm s t ∧ ∀ i, i ≠ sp → t.spire i = s.spire i
    let held (t : State) : Prop := frame t ∧ (t.spire sp).queue q = x.queue q ∧ others t
    (∀ h rest, x.queue q = h :: rest → h.at_ < n →
      (c.op = 0x13 → ∃ t, exec (.hqTakeF c) s = .next t ∧ frame t ∧ (t.spire sp).queue q = rest ∧ others t ∧
        (ctxOf t c).fh = Tbl.put 0#32 r h.handle k.fh ∧ (ctxOf t c).eh = k.eh ∧ (ctxOf t c).pc = k.pc + 16) ∧
      (c.op = 0x30 → ∃ t, exec (.hqTakeE c) s = .next t ∧ frame t ∧ (t.spire sp).queue q = rest ∧ others t ∧
        (ctxOf t c).eh = Tbl.put 0#32 r h.handle k.eh ∧ (ctxOf t c).fh = k.fh ∧ (ctxOf t c).queue = [])) ∧
    ((∀ h ∈ (x.queue q).head?, n ≤ h.at_) →
      (c.op = 0x13 → ∃ t, exec (.hqTakeF c) s = .next t ∧ held t ∧ (ctxOf t c).backlog = [c] ∧ (ctxOf t c).fh = k.fh) ∧
      (c.op = 0x30 → ∃ t, exec (.hqTakeE c) s = .next t ∧ held t ∧ (ctxOf t c).queue = [⟨c, k.pc, readOf s c⟩] ∧ (ctxOf t c).eh = k.eh)) ∧
    (bit1 c.w0 25 = false → (x.queue q).length < 32 →
      (c.op = 0x14 → ∃ t, exec (.hqPutF c) s = .next t ∧ frame t ∧ others t ∧ (ctxOf t c).pc = k.pc + 16 ∧
        (if s.staleFor sp q (putHandle c k.fh) then (t.spire sp).queue q = x.queue q ∧ (t.spire sp).ctr.staleHandle = sat32 x.ctr.staleHandle 1
         else (t.spire sp).queue q = x.queue q ++ [⟨putHandle c k.fh, n⟩])) ∧
      (c.op = 0x31 → ∃ t, exec (.hqPutE c) s = .next t ∧ frame t ∧ others t ∧ (ctxOf t c).queue = [] ∧
        (if s.staleFor sp q (putHandle c k.eh) then (t.spire sp).queue q = x.queue q ∧ (t.spire sp).ctr.staleHandle = sat32 x.ctr.staleHandle 1
         else (t.spire sp).queue q = x.queue q ++ [⟨putHandle c k.eh, n⟩]))) ∧
    (bit1 c.w0 25 = false → 32 ≤ (x.queue q).length →
      (c.op = 0x14 → s.staleFor sp q (putHandle c k.fh) = false → ∃ t, exec (.hqPutF c) s = .next t ∧ held t ∧ (ctxOf t c).backlog = [c]) ∧
      (c.op = 0x31 → s.staleFor sp q (putHandle c k.eh) = false → ∃ t, exec (.hqPutE c) s = .next t ∧ held t ∧
        (ctxOf t c).queue = [⟨c, k.pc, readOf s c⟩])) ∧
    (bit1 c.w0 25 = true →
      (c.op = 0x14 → ∃ t, exec (.hqPutF c) s = .next t ∧ held t ∧ (ctxOf t c).pushF = some s.core.nextId ∧ (ctxOf t c).pc = k.pc ∧
        t.core.pushes = [⟨s.core.nextId, sp, p, .fetch c.ctx.val, fld c.w0 29 26, q, putHandle c k.fh, .flying, 0⟩]) ∧
      (c.op = 0x31 → ∃ t, exec (.hqPutE c) s = .next t ∧ held t ∧ (ctxOf t c).pushE = some s.core.nextId ∧
        t.core.pushes = [⟨s.core.nextId, sp, p, .execute c.ctx.val, fld c.w0 29 26, q, putHandle c k.eh, .flying, 0⟩]))

/-- A ready MAC accumulates: in every tile whose named predicate is 1, the 16 × 16 block of the two operands at their
addresses is added to the set, or replaces it, and a replacing command sets the set's tag; every other accumulator, every
register and every byte of SRAM stays. Its set is final n + 7 ccyc after it starts, and the next MAC command may start
after n ccyc, bank slips apart. A set that another context wrote last is read as garbage. -/
def Obligations.MacAccumulates : Prop :=
  ∀ (s : State) (p : Nat) (c : StreamCmd) (a w : Store), Ready s p c → c.op = 0x20 → c.macOp.stores = some (a, w) → s.macTagOk c = true →
    let sp := c.sp.val
    let m := c.macOp
    let start := (s.part p).ccyc
    let cyc := macCycles m a w
    let from_ (on : Bool) (x tile : Nat) : Nat := if on then s.addr c tile x else x
    ∃ t, exec (.mac c) s = .next t ∧
      (∀ tile set, set < 8 → t.accSet tile set =
        if tile ∈ s.activeTiles c ∧ set = m.set then
          (macBlock (s.sramByte tile) m a w (from_ m.aOff m.aAddr tile) (from_ m.wOff m.wAddr tile) (s.setSeen s.free c.ctx.val tile set)).1
        else s.accSet tile set) ∧
      (∀ tile set, set < 8 → t.tag tile set = if tile ∈ s.activeTiles c ∧ set = m.set ∧ m.repl = true then macIsInt a w else s.tag tile set) ∧
      Tbl.get 0 m.set (t.spire sp).setFinal = start + cyc + 7 + c.slips ∧ (t.spire sp).macFree = later (start + 1) c.slips (start + cyc) ∧
      (∀ i, i ≠ sp → t.spire i = s.spire i) ∧ SameOutside s t ∧
      { t.core with spires := s.core.spires, acc := s.core.acc, tags := s.core.tags, setOwner := s.core.setOwner } = s.core

namespace Sys2Proof.Machine

/-- A lane of a vector register as it is held. -/
def State.reg (s : State) (tile r l : Nat) : W32 := Tbl.get 0#32 ((tile * 16 + r) * 32 + l) s.core.vreg

/-- A lane of a vector register as a command finds it: garbage in a register that another context wrote last (R188). -/
def State.regSeen (s : State) (c : StreamCmd) (tile r l : Nat) : W32 :=
  let owner := Tbl.get 0 (tile * 16 + r) s.core.regOwner
  if owner = 0 ∨ owner = c.ctx.val + 1 then s.reg tile r l else Config.hazardWord s.free ((tile * 16 + r) * 32 + l)

/-- The lane that step r of a VOP computes (Table 6-10, R746). -/
def vopValue (s : State) (c : StreamCmd) (tile r l : Nat) : W32 :=
  let o := c.vopOp
  let b (j : Nat) : W32 := if o.imm then c.w2 else s.regSeen c tile (if o.bFix then o.vb else o.vb + r) j
  let d (j : Nat) : W32 := s.regSeen c tile (if o.cFix then o.vc else o.vc + r) j
  let all := (List.range 32).map (fun j => s.regSeen c tile (o.va + r) j)
  if o.f = 0x18 then (if l = 0 then treeReduce fadd all else 0#32)
  else if o.f = 0x19 then (if l = 0 then treeReduce (fMinMax true) all else 0#32)
  else vopLane o.f (s.regSeen c tile (o.va + r) l) (b l) (d l)

end Sys2Proof.Machine

/-- A ready VOP writes its results to VD + r for every step r, in every tile whose named predicate is 1, and nothing else:
they are seen once its issue cycles and its latency have passed. PANY and PALL write a predicate instead. -/
def Obligations.VopComputes : Prop :=
  ∀ (s : State) (p : Nat) (c : StreamCmd), Ready s p c → c.op = 0x22 →
    let sp := c.sp.val
    let o := c.vopOp
    let start := (s.part p).ccyc
    ∃ t, exec (.vop c) s = .next t ∧ SameOutside s t ∧ { t.core with spires := s.core.spires } = s.core ∧ (∀ i, i ≠ sp → t.spire i = s.spire i) ∧
      (vopToPred o.f = false → (t.spire sp).pwrites = [] ∧
        ∀ u tile r l, start + o.rep * (32 / (vopRate o.f).1) + (vopRate o.f).2 + c.slips ≤ u → r < 16 → l < 32 →
          t.lane s.free c.ctx.val sp u tile r l =
            if tile ∈ s.activeTiles c ∧ o.vd ≤ r ∧ r < o.vd + o.rep then vopValue s c tile (r - o.vd) l else s.regSeen c tile r l) ∧
      (vopToPred o.f = true → (t.spire sp).vwrites = [] ∧
        (t.spire sp).pwrites = (s.activeTiles c).map (fun tile =>
          let lanes := (List.range o.rep).flatMap (fun r => (List.range 32).map (fun l => s.regSeen c tile (o.va + r) l))
          ⟨start + o.rep + 1 + c.slips, (tile * 8 + c.ctx.val) * 8 + o.pdst, if o.f = 0x0C then lanes.any laneNonZero else lanes.all laneNonZero⟩))

/-- A ready VLD issues one step for each register, one a ccyc. A step gives register VD + r the 32 elements at
ADDR + r × PITCH, or consecutive elements of the stored row when PITCH is 0, each as an FP32 value, three ccyc after its own,
in every tile whose named predicate is 1, and nothing else. A VLD whose first read meets a bank that a transfer or a drain has used
in the ccyc waits in its context (log 8: the model's choice). -/
def Obligations.VldLoads : Prop :=
  ∀ (s : State) (p : Nat) (c : StreamCmd) (f : Form) (e : Elem), Ready s p c → c.op = 0x23 →
    Form.ofCode (fld c.w1 20 18) = some f → Elem.ofCode (fld c.w1 23 21) = some e →
    let sp := c.sp.val
    let n := (s.part p).ccyc
    let pitch := fld c.w2 10 0 * 8
    let row (tile r : Nat) : List Val :=
      let base := s.addr c tile (fld c.w1 17 0)
      if pitch = 0 then (rowVals (s.sramByte tile) f e base (32 * (r + 1))).drop (32 * r) else rowVals (s.sramByte tile) f e (base + r * pitch) 32
    (s.loadMeets c n = true → ∃ t, exec (.vld c) s = .next t ∧ OnlySpire s t sp ∧ (ctxOf t c).queue = [⟨c, (ctxOf s c).pc, readOf s c⟩] ∧
      (t.spire sp).loads = []) ∧
    (s.loadMeets c n = false → ∃ t, exec (.vld c) s = .next t ∧ SameOutside s t ∧ { t.core with spires := s.core.spires } = s.core ∧ (∀ i, i ≠ sp → t.spire i = s.spire i) ∧
      (t.spire sp).loads = (List.range (fld c.w0 31 28 + 1)).map (fun r => ⟨later (n + 1) c.slips (n + r), c, r, s.activeTiles c⟩)) ∧
    (∀ (u : State) (l : VLoad), { u with core := { u.core with spires := s.core.spires } } = s → (u.spire sp).vwrites = [] → (u.spire sp).loads = [l] → l.cmd = c →
      ((u.loadDue sp l.at_).spire sp).vwrites =
        l.tiles.map (fun tile => ⟨l.at_ + 3, tile, fld c.w0 27 24 + l.step, 0, (row tile l.step).map (fun v => (vldConv v).1), c.ctx.val⟩) ∧
      ((u.loadDue sp l.at_).spire sp).loads = [] ∧ SameOutside u (u.loadDue sp l.at_))

namespace Sys2Proof.Machine

/-- What a timed write of tile SRAM says, but for its number. -/
def TWrite.what (w : TWrite) : Nat × Nat × Nat × Nat × Nat × List Byte := (w.from_, w.at_, w.spire, w.tile, w.addr, w.bytes)
/-- Where and when a timed write of tile SRAM falls. -/
def TWrite.place (w : TWrite) : Nat × Nat × Nat × Nat × Nat × Nat := (w.from_, w.at_, w.spire, w.tile, w.addr, w.bytes.length)

end Sys2Proof.Machine

/-- A ready VST writes the 32 lanes of register VS + r as dense elements at ADDR + r × PITCH, three ccyc after step r
issues; a READOUT writes the 16 rows of the set, converted, over its 8 ccyc: in every tile whose named predicate is 1.
Nothing is written elsewhere, and no register, accumulator, predicate or offset changes. Where a READOUT's pitch lets its own
rows overlap, its rows lie at the same places, and what their common bytes hold is left open. -/
def Obligations.StoresWriteRows : Prop :=
  ∀ (s : State) (p : Nat) (c : StreamCmd), Ready s p c →
    let sp := c.sp.val
    let start := (s.part p).ccyc
    let frame (t : State) : Prop := SameOutside s t ∧
      { t.core with spires := s.core.spires, twrites := s.core.twrites } = s.core ∧ ∀ i, i ≠ sp → t.spire i = s.spire i
    (c.op = 0x24 → ∀ e, Elem.ofCode (fld c.w1 23 21) = some e →
      let code (tile r l : Nat) : Nat := if e = .fp32 then (s.regSeen c tile r l).toNat else (e.convert (fp32Val (s.regSeen c tile r l))).code
      ∃ t, exec (.vst c) s = .next t ∧ frame t ∧
        t.core.twrites.map TWrite.what = (s.activeTiles c).flatMap (fun tile => (List.range (fld c.w0 31 28 + 1)).map (fun r =>
          (start + r + 3 + c.slips, start + r + 3 + c.slips, sp, tile, (s.addr c tile (fld c.w1 17 0) + r * pitchOf (fld c.w2 10 0) (denseBytes e 32)) % 0x40000,
            packCodes e ((List.range 32).map (code tile (fld c.w0 27 24 + r))))))) ∧
    (c.op = 0x21 → s.readoutTagOk c = true → ∀ e, Elem.ofCode (fld c.w2 2 0) = some e →
      let set := fld c.w0 20 18
      let code (tile i : Nat) : Nat := (readoutVal (s.tag tile set) e c.roQ ((s.setSeen s.free c.ctx.val tile set).getD i 0#32)).code
      let pitch := pitchOf (fld c.w1 28 18) (2 * e.width)
      let rows (tile r : Nat) : Nat × Nat × Nat × Nat × Nat × List Byte :=
        (start, start + 7 + c.slips, sp, tile, (s.addr c tile (fld c.w1 17 0) + r * pitch) % 0x40000, packCodes e ((List.range 16).map (fun j => code tile (16 * r + j))))
      let all := (s.activeTiles c).flatMap (fun tile => (List.range 16).map (rows tile))
      ∃ t, exec (.readout c) s = .next t ∧ frame t ∧ Tbl.get 0 set (t.spire sp).setRead = start + 8 + c.slips ∧
        t.core.twrites.map TWrite.place = all.map (fun w => (w.1, w.2.1, w.2.2.1, w.2.2.2.1, w.2.2.2.2.1, w.2.2.2.2.2.length)) ∧
        (2 * e.width ≤ pitch → t.core.twrites.map TWrite.what = all))

namespace Sys2Proof.Machine

/-- The comparison of SETP in a tile. -/
def setpCompare (c : StreamCmd) (tile : Nat) : Prop :=
  let x := coord tile (fld c.w1 2 0)
  let imm := fld c.w2 11 0
  match fld c.w1 5 3 with
  | 0 => x < imm
  | 1 => imm ≤ x
  | 2 => x = imm
  | 3 => x ≠ imm
  | _ => x &&& fld c.w2 27 16 = imm

/-- What SETO writes in a tile, before it is taken modulo 2^18. -/
def setoValue (s : State) (c : StreamCmd) (tile : Nat) : Int :=
  let cst : Int := fld c.w2 17 0
  let b := if bit1 c.w0 25 then 1 - s.selOf c.sp.val else s.selOf c.sp.val
  match fld c.w0 22 21 with
  | 0 => signedOf 16 (fld c.w1 15 0) * (tile % 16 : Nat) + signedOf 16 (fld c.w1 31 16) * (tile / 64 % 16 : Nat) + cst
  | 1 => cst + (fld (Tbl.get 0#32 (fld c.w0 24 23) (ctxOf s c).eh) 19 0 * fld c.w3 17 0 : Nat)
  | 2 => (s.off tile c.ctx.val (fld c.w0 20 18) : Nat) + cst
  | _ => cst + (b * (s.planOf c.sp.val).csOffset : Nat)

end Sys2Proof.Machine

/-- A ready SETP writes the comparison of its coordinate, inverted when INV is 1 and ANDed with p[PSRC] when COMB is 1, to
p[PDST], and a SETO writes O[ODST] modulo 2^18 as its MODE says: in every tile whose named predicate is 1, and nothing else. -/
def Obligations.TileRegistersSet : Prop :=
  ∀ (s : State) (p : Nat) (c : StreamCmd), Ready s p c →
    (c.op = 0x25 → ∃ t, exec (.setp c) s = .next t ∧
      (∀ tile ctx i, ctx < 8 → i < 8 →
        (tile ∈ s.activeTiles c ∧ ctx = c.ctx.val ∧ i = fld c.w0 20 18 →
          (t.pred tile ctx i = true ↔ (setpCompare c tile ↔ bit1 c.w0 25 = false) ∧ (bit1 c.w0 24 = true → s.pred tile ctx (fld c.w0 23 21) = true))) ∧
        (¬(tile ∈ s.activeTiles c ∧ ctx = c.ctx.val ∧ i = fld c.w0 20 18) → t.pred tile ctx i = s.pred tile ctx i)) ∧
      SameOutside s t ∧ { t.core with spires := s.core.spires, preds := s.core.preds } = s.core) ∧
    (c.op = 0x26 → ∃ t, exec (.seto c) s = .next t ∧
      (∀ tile ctx i, ctx < 8 → i < 8 → t.off tile ctx i =
        if tile ∈ s.activeTiles c ∧ ctx = c.ctx.val ∧ i = fld c.w0 20 18 then (setoValue s c tile % 0x40000).toNat else s.off tile ctx i) ∧
      SameOutside s t ∧ { t.core with spires := s.core.spires, offs := s.core.offs } = s.core)

namespace Sys2Proof.Machine

/-- Every context of a Spire has nothing to do but the barrier it waits at, which is released by the present ccyc. -/
def OnlyWaits (s : State) (bid sp : Nat) : Prop :=
  ∀ k, k < 8 → ((s.spire sp).ctx k).backlog = [] ∧
    (((s.spire sp).ctx k).barrier = none → ((s.spire sp).ctx k).queue = []) ∧
    (∀ b j mask, ((s.spire sp).ctx k).barrier = some (b, j, mask) →
      b = bid ∧ (∃ r, s.releaseAt bid j mask = some r ∧ r ≤ s.countOf sp) ∧ ∃ q, ((s.spire sp).ctx k).queue = [q])

end Sys2Proof.Machine

/-- A ready BARRIER arrives: the arrival is the next of its number in the Spire, and the context waits. A release passes every
waiting context of every Spire of the mask, once 48 ccyc have gone by since the last matching arrival, and before that nothing
is released. A MAC_SET_FINAL takes the oldest report of its set off the list, once the set is final. A CONTEXT_SWITCH that is due
takes 2 ccyc: context 0 runs when it is ready, else the first ready one in circular order after the one that ran last, and none
where none is ready; one that yields is not ready until the switch has completed. -/
def Obligations.SequencersJoin : Prop :=
  ∀ (s : State),
    (∀ (p : Nat) (c : StreamCmd), Ready s p c → c.op = 0x32 → (ctxOf s c).barrier = none →
      let sp := c.sp.val
      let bid := fld c.w0 20 18
      let old := Tbl.get [] bid (s.spire sp).arrivals
      ∃ t, exec (.barrier c) s = .next t ∧ OnlySpire s t sp ∧ (ctxOf t c).barrier = some (bid, old.length, fld c.w1 15 0) ∧
        (ctxOf t c).queue = [⟨c, (ctxOf s c).pc, readOf s c⟩] ∧ Tbl.get [] bid (t.spire sp).arrivals = old ++ [(s.part p).ccyc] ∧
        (∀ b, b ≠ bid → Tbl.get [] b (t.spire sp).arrivals = Tbl.get [] b (s.spire sp).arrivals)) ∧
    (∀ (sp : Fin 16) (bid : Fin 8) (k j mask r : Nat), k < 8 → ((s.spire sp.val).ctx k).barrier = some (bid.val, j, mask) →
      (∀ k' j' mask', k' < 8 → ((s.spire sp.val).ctx k').barrier = some (bid.val, j', mask') → mask' = mask) →
      s.releaseAt bid.val j mask = some r →
      (r ≤ s.countOf sp.val → (∀ i, i < 16 → bitOf mask i = true → OnlyWaits s bid.val i ∧ s.seqFrozen i = false ∧ (s.spire i).stopped = false) →
        ∃ t, exec (.barrierRelease sp bid) s = .next t ∧ SameSram s t ∧
          ∀ i, i < 16 → bitOf mask i = true → ∀ k', k' < 8 → ((t.spire i).ctx k').barrier = none ∧ ((t.spire i).ctx k').queue = []) ∧
      (s.countOf sp.val < r → (∀ k' j' mask', k' < 8 → k' ≠ k → ((s.spire sp.val).ctx k').barrier ≠ some (bid.val, j', mask')) →
        exec (.barrierRelease sp bid) s = .next s)) ∧
    (∀ (sp : Fin 16), (∀ k, k < 8 → ((s.spire sp.val).ctx k).backlog = [] ∧ ((s.spire sp.val).ctx k).queue = []) →
      (∀ (set : Fin 8) f, (s.spire sp.val).finals.find? (fun f => decide (f.1 = set.val) && decide (f.2 ≤ s.countOf sp.val)) = some f →
        ∃ t, exec (.macSetFinal sp set) s = .next t ∧ SameSram s t ∧ (∀ i, i ≠ sp.val → t.spire i = s.spire i) ∧
          (t.spire sp.val).finals = (s.spire sp.val).finals.erase f) ∧
      (
        let x := s.spire sp.val
        (s.planOf sp.val).pod = true → x.running < 8 → s.seqFrozen sp.val = false → x.switchEnd ≤ s.countOf sp.val →
        (x.ctx x.running).issueEnd ≤ s.countOf sp.val →
        ∃ t, exec (.contextSwitch sp) s = .next t ∧ SameSram s t ∧ (∀ i, i ≠ sp.val → t.spire i = s.spire i) ∧ t.parts = s.parts ∧
          (t.spire sp.val).running = 8 ∧ (t.spire sp.val).yielded = false ∧ (t.spire sp.val).switchEnd = s.countOf sp.val + 2)) ∧
    (∀ (sp : Fin 16) (c : Nat), s.switchDue sp.val = true → s.seqFrozen sp.val = false → (∀ k, k < 8 → ((s.spire sp.val).ctx k).backlog = []) →
      let x := s.spire sp.val
      let may (d : Nat) : Prop := s.ctxReady sp.val d = true ∧ ¬(x.yielded = true ∧ d = x.running)
      let after (d : Nat) : Nat := (d + 7 - x.running) % 8
      x.running < 8 → c < 8 → may c → (c = 0 ∨ (¬may 0 ∧ ∀ d, d < 8 → may d → after c ≤ after d)) →
      ∃ t, exec (.contextSwitch sp) s = .next t ∧ SameSram s t ∧ (∀ i, i ≠ sp.val → t.spire i = s.spire i) ∧ t.parts = s.parts ∧
        (t.spire sp.val).running = c ∧ (t.spire sp.val).ranLast = x.running ∧ (t.spire sp.val).yielded = false ∧
        (t.spire sp.val).switchEnd = s.countOf sp.val + 2 ∧ ∀ k, k < 8 → ((t.spire sp.val).ctx k).queue = (x.ctx k).queue)

/-! Calendars, transfers, packets and memory (chapters 7 to 9). -/

namespace Sys2Proof.Machine

/-- No context of a Spire has anything presented or queued. -/
def Quiet (s : State) (sp : Nat) : Prop := ∀ k, k < 8 → ((s.spire sp).ctx k).backlog = [] ∧ ((s.spire sp).ctx k).queue = []

/-- Nothing changes but a Spire and, where its command buffer goes on to load its part, the Cupolas. -/
structure SpireAndCupolas (s t : State) (sp : Nat) : Prop where
  outside : { t with core := s.core } = s
  inside : { t.core with spires := s.core.spires, cupolas := s.core.cupolas } = s.core
  others : ∀ i, i ≠ sp → t.spire i = s.spire i

/-- The state in which the entries of a partition's present ccyc act: the next count noted, and what has arrived taken. -/
def State.calView (s : State) (p : Nat) : State :=
  ((s.setPart p { s.part p with calNext := (s.part p).ccyc + 1 }).takeFree.2).takeArrivals p (s.part p).ccyc

/-- The entries of a partition that act in the present ccyc, with their Spires: those of a Spire frozen in this very ccyc
still do (R343). -/
def State.calActs (s : State) (p : Nat) : List (Nat × CalEntry × Nat) :=
  ((s.planSpires p).filter (fun sp => !bit1 (s.spire sp).frozen 0 || decide ((s.spire sp).seqFrozenAt = (s.part p).ccyc))).flatMap
    (fun sp => ((s.spire sp).calActive.acting (s.spire sp).calFrom (s.part p).ccyc).map (fun e => (sp, e)))

end Sys2Proof.Machine

/-- A calendar load that completes by its count waits for it in the shadow bank; a late one becomes active at once and is
counted; while a line of the set waits on a fill it has not completed. A loaded set becomes active at its count. An edge that is
due comes before the entries of its ccyc. Each entry whose cycle is the present one drives its data, which its neighbour can name
one ccyc later, or three over the Seam, whose wire carries the first 32 bytes, or writes it back; a new window of 64 ccyc renews
the shares. -/
def Obligations.CalendarsRun : Prop :=
  ∀ (s : State) (p : Fin 16), (s.part p.val).phase = .run →
    let n := (s.part p.val).ccyc
    let plan := (s.part p.val).plan
    (∀ (sp : Fin 16) (l : CalLoad) (cups : List CupolaUpset) (bursts : List (Nat × BurstRec)), s.owner sp.val = some p.val → Quiet s sp.val → (s.spire sp.val).calShadow = some l →
      l.set = none → bit1 (s.spire sp.val).frozen 0 = false → s.core.hbmBad = [] →
      let head := plan.base + (s.calPlace plan l.cal).1
      let read := s.calSetOf plan sp.val l.cal
      let s1 := s.strike cups
      let waits : Prop := s1.belfryWaits (halfOf sp.val) head 144 = true ∨ (read.2.2 ≠ 0 ∧ s1.belfryWaits (halfOf sp.val) read.2.1 read.2.2 = true)
      (waits → exec (.calLoadComplete sp none cups bursts) s = .next s) ∧
      (¬waits → n ≤ l.at_ → ∃ t, exec (.calLoadComplete sp none cups bursts) s = .next t ∧ SpireAndCupolas (s.countEach bursts) t sp.val ∧
        (t.spire sp.val).calShadow = some { l with set := some read.1 } ∧ (t.spire sp.val).calActive = (s.spire sp.val).calActive) ∧
      (¬waits → l.at_ < n → ∃ t, exec (.calLoadComplete sp none cups bursts) s = .next t ∧ SameMemory s t ∧ (t.spire sp.val).calShadow = none ∧
        (t.spire sp.val).calActive = read.1 ∧ (t.spire sp.val).calFrom = n ∧
        (t.spire sp.val).ctr.calLate = sat32 (s.spire sp.val).ctr.calLate 1 ∧
        t.log.pos = s.log.pos + (if (s.spire sp.val).calLateLogged then 0 else 1))) ∧
    ((∀ sp, sp < 16 → Quiet s sp) → (∀ sp ∈ s.planSpires p.val, sp < 16) → s.core.hbmBad = [] →
      ∃ t, exec (.calActivate p) s = .next t ∧ { t with core := s.core } = s ∧
      { t.core with spires := s.core.spires, cupolas := s.core.cupolas } = s.core ∧
      ∀ sp, (sp ∉ s.planSpires p.val → t.spire sp = s.spire sp) ∧
        (sp ∈ s.planSpires p.val → s.owner sp = some p.val → ∀ cal at_ set, (s.spire sp).calShadow = some ⟨cal, at_, some set⟩ →
          bit1 (s.spire sp).frozen 0 = false →
          (n < at_ → t.spire sp = s.spire sp) ∧
          (at_ ≤ n → (t.spire sp).calActive = set ∧ (t.spire sp).calFrom = at_ ∧ (t.spire sp).calShadow = none))) ∧
    (∀ u, s.dueEdge = u → ((u.part p.val).phase ≠ .run ∨ (u.part p.val).ccyc < (u.part p.val).calNext) → exec (.calEntryAct p [] 0 []) s = .next u) ∧
    (∀ u, s.dueEdge = u → (u.part p.val).phase = .run → (u.part p.val).calNext ≤ (u.part p.val).ccyc → u.core.sramCe = [] → u.core.sramUe = [] →
      let m := (u.part p.val).ccyc
      let view := u.calView p.val
      ∃ t, exec (.calEntryAct p [] 0 []) s = .next t ∧ (t.part p.val).calNext = m + 1 ∧ SameSram u t ∧ SameHbm u t ∧
        t.core.inputs = view.core.inputs ∧
        t.core.arrivals = u.core.arrivals.filter (fun a => !u.arrived p.val m a) ++ ((u.calActs p.val).filter (fun e => decide (e.2.1.port ≠ 4))).map (fun e =>
          let bs := view.entryBytes m u.free e.2
          let seam := onSeam e.2.1.tile e.2.1.port
          ⟨(neighbour e.2.1.tile e.2.1.port).1, (neighbour e.2.1.tile e.2.1.port).2, if seam then m + 3 else m + 1, if seam then bs.take 32 else bs⟩) ∧
        t.core.writeBacks = (u.core.writeBacks ++ ((u.calActs p.val).filter (fun e => decide (e.2.1.port = 4))).map (fun e =>
          (⟨e.1, e.2.1.tile, e.2.2, if e.2.1.local_ then m + 1 else m, view.entryBytes m u.free e.2⟩ : WriteBack))).filter
            (fun w => decide (u.owner w.spire ≠ some p.val) || decide (w.at_ ≤ m) || !u.seqFrozen w.spire)) ∧
    (∀ sp : Fin 16, s.owner sp.val = some p.val → (s.spire sp.val).shareWindow ≠ n / 64 →
      exec (.bankWindowStart sp) s = .next (s.setSpire sp.val { s.spire sp.val with shareWindow := n / 64, usedRead := 0, usedWrite := 0, usedRemote := 0 }))

namespace Sys2Proof.Machine

/-- A transfer of an engine may issue its next request in the present ccyc, and no error stands in the SRAM that it may read. -/
structure HasTurn (s : State) (sp p u : Nat) (c : ReqClass) (x : Xfer) : Prop where
  owner : s.owner sp = some p
  held : (s.spire sp).xfer u x.id = some x
  free : (s.spire sp).issueFree ≤ (s.part p).ccyc
  turn : s.nextTurn sp p = some (c, u, x)
  clean : Desc.dir x.desc = true → s.core.sramCe = [] ∧ s.core.sramUe = []

/-- A transfer has issued a request: the transfer is as given, and its Spire issues nothing more in this ccyc. -/
structure Issued (s t : State) (sp p u : Nat) (x : Xfer) : Prop where
  sram : SameSram s t
  hbm : SameHbm s t
  free : (t.spire sp).issueFree = (s.part p).ccyc + 1
  held : (t.spire sp).xfer u x.id = some x

/-- A request that its window does not permit is not issued: no request is added to its engine or to a controller, and the
engine is frozen. -/
structure Refused (s t : State) (sp u : Nat) : Prop where
  memory : SameMemory s t
  frozen : bit1 (t.spire sp).frozen (u + 1) = true
  ctls : t.core.ctls = s.core.ctls ∧ t.core.cupolas = s.core.cupolas
  turn : (t.spire sp).issueFree = (s.spire sp).issueFree
  reqs : ∀ y ∈ (t.spire sp).unit u, ∃ z ∈ (s.spire sp).unit u, y.id = z.id ∧ y.reqs = z.reqs

/-- A request as it enters the mesh. -/
def State.sentOf (s : State) (r : Req) : Req := { r with phase := .mesh, sent := s.core.nextId + 1, landed := 0 }

end Sys2Proof.Machine

/-- A descriptor read gives a transfer its descriptor, and its first request may follow 4 ccyc later; while its line waits on
a fill it has not completed; an uncorrectable burst, a stale handle of a checked pool, or a tile side past the tile memory,
freezes the engine. The transfer whose turn it is issues its next request, at most one in a ccyc: a read of a window enters its
controller's queue, or is a hit of its Cupola, joins a pending fill or allocates one; a block of a list enters its controller's
queue; REMOTE, SPAN and write requests take their bytes from the tiles, or from the slot store, and enter the mesh, a write when
its transfer moves to the next block or ends. A request that its window does not permit is not issued, and freezes its engine.
One whose banks are in use waits (log 8: the model's choice). HOLD is the one form left out here. A request with its bytes
complete leaves its transfer; a DRAIN transfer is released when every earlier transfer has left; and a transfer with every
byte complete makes its completion push, onto a queue of its own Spire or as a remote push, and leaves its engine, and counts
its gate up, once the push is made. A request's end waits for earlier acknowledgements of its gateway. A push waits at a full
queue, and at a frozen Spire, and is made and dropped at a queue in unused mode (log 42: the model's choices). -/
def Obligations.TransfersRun : Prop :=
  (∀ (s : State) (sp : Fin 16) (p : Nat) (u : Fin 5) (x : Xfer) (cup : CupolaErr) (bursts : BurstRec), s.owner sp.val = some p → (s.spire sp.val).xfer u.val x.id = some x →
    x.read = false → x.stopped = false → s.core.hbmBad = [] → (s.part p).reset = .none → bit1 (s.spire sp.val).frozen (u.val + 1) = false →
    let a := (s.part p).plan.base + (s.part p).plan.descTable + 128 * x.index
    let d : Desc := s.hbmRead a 128
    let waits := (s.cupolaMeets (halfOf sp.val) (a / 256) cup).belfryWaits (halfOf sp.val) a 128
    let bad : Prop := (Desc.hchk d = true ∧ s.staleInPool sp.val p (Desc.hpool d) x.handle = true) ∨ Desc.tileRangeOk d (fld x.handle 19 0) = false
    (waits = true → exec (.descriptorReadDone sp u x.id false cup bursts) s = .next s) ∧
    (waits = false → ∃ t, exec (.descriptorReadDone sp u x.id false cup bursts) s = .next t ∧ SameSram s t ∧ SameHbm s t ∧ t.parts = s.parts ∧
      (¬bad → (t.spire sp.val).xfer u.val x.id = some { x with desc := d, read := true, readyAt := s.countOf sp.val + 4 } ∧
        (t.spire sp.val).frozen = (s.spire sp.val).frozen) ∧
      (bad → bit1 (t.spire sp.val).frozen (u.val + 1) = true)) ∧
    (s.belfryWaits (halfOf sp.val) a 128 = false → (s.cupola (halfOf sp.val)).holds (a / 256) = false →
      ∃ t, exec (.descriptorReadDone sp u x.id true .none bursts) s = .next t ∧ SameSram s t ∧ SameHbm s t ∧ bit1 (t.spire sp.val).frozen (u.val + 1) = true)) ∧
  (∀ (s : State) (sp : Fin 16) (u : Fin 4) (x : Xfer), (s.spire sp.val).xfer u.val x.id = some x →
    (∀ p c, HasTurn s sp.val p u.val c x →
      let w := s.cfg.window p (Desc.window x.desc)
      let kind := Desc.dataKind x.desc
      let refused : Prop := ∃ t, exec (.dmaRequestIssue sp [] .none) s = .next t ∧ Refused s t sp.val u.val
      let queued (t : State) (r : Req) : Prop := (s.ctl (pseudoOf r.far)).reads.length < 64 → (t.ctl (pseudoOf r.far)).reads =
        (s.ctl (pseudoOf r.far)).reads ++ [⟨sp.val, u.val, x.id, r.id, r.far, r.len, s.hbmRead r.far r.len, 0⟩]
      let with_ (y : Xfer) (r : Req) : Xfer := { y with reqs := x.reqs ++ [r], issued := x.issued + 1 }
      let sends (y : Xfer) (r : Req) : Prop := ∃ t, exec (.dmaRequestIssue sp [] .none) s = .next t ∧ Issued s t sp.val p u.val (with_ y (s.sentOf r))
      (s.listTurn sp.val p x = true →
        let base := Desc.listBase x.desc x.sel
        let off := (base / 256 + x.listAsked) * 256
        let lo := max off base
        let r : Req := { id := s.core.nextId, kind := .list, cls := .read, far := w.addr off, len := 256, tiles := [], pieces := [], bytes := [], phase := .far }
        (windowPasses w false lo (off + 256 - lo) = true → ∃ t, exec (.dmaRequestIssue sp [] .none) s = .next t ∧
          Issued s t sp.val p u.val (with_ { x with listAsked := x.listAsked + 1 } r) ∧ queued t r) ∧
        (windowPasses w false lo (off + 256 - lo) = false → (s.part p).reset = .none → refused)) ∧
      (s.listTurn sp.val p x = false → s.issueFits sp.val p x = false → ∀ cup, exec (.dmaRequestIssue sp [] cup) s = .next s) ∧
      (s.listTurn sp.val p x = false → s.issueFits sp.val p x = true → x.holds = false →
        (∀ g, s.stepOf sp.val p x = some g → x.gathered = none →
          (s.stepPasses p x g = false → (s.part p).reset = .none → refused) ∧
          (∀ r, s.stepPasses p x g = true → s.gatherStep p x c s.core.nextId g = some r →
            let y := x.advance g
            let last : Prop := ∀ h, s.stepOf sp.val p y = some h → s.stepPasses p x h = false ∨ y.listOpen h = true
            (kind = .read → Desc.cupola x.desc = false → ∀ cup, ∃ t, exec (.dmaRequestIssue sp [] cup) s = .next t ∧
              Issued s t sp.val p u.val (with_ y r) ∧ queued t r) ∧
            (kind = .read → Desc.cupola x.desc = true →
              let half := halfOf sp.val
              let line := r.far / 256
              let cu := (s.cupola half).look line
              (cu.holds line = true → sends y { r with bytes := s.hbmRead r.far r.len }) ∧
              (cu.holds line = false → ∃ t, exec (.dmaRequestIssue sp [] .none) s = .next t ∧ Issued s t sp.val p u.val (with_ y { r with phase := .fill }) ∧
                (∀ f, cu.fills = [f] → f.line = line → (t.cupola half).fills = [{ f with waiters := f.waiters ++ [(sp.val, u.val, x.id, r.id)] }]) ∧
                (cu.fills.any (fun f => decide (f.line = line)) = false →
                  (cu.fills.length < 512 → (t.cupola half).fills = cu.fills ++ [⟨line, false, [(sp.val, u.val, x.id, r.id)]⟩] ∧
                    (t.cupola half).misses = wrap48 cu.misses 1) ∧
                  (512 ≤ cu.fills.length → (t.cupola half).fills = cu.fills ∧ (t.cupola half).queued = cu.queued ++ [(line, sp.val, u.val, x.id, r.id)])))) ∧
            (kind = .remote ∨ kind = .spanOut → sends y r) ∧
            (kind = .spanIn → sends y { r with bytes := s.slotRead x.part (Desc.port x.desc) r.far r.len }) ∧
            (kind = .write → last → sends y r) ∧
            (kind = .write → ∀ h, s.stepOf sp.val p y = some h → s.stepPasses p x h = true → y.listOpen h = false →
              sends { y.advance h with gathered := s.gatherStep p x c 0 h } r) ∧
            (Desc.dir x.desc = true → Desc.pack x.desc = false → Desc.kind x.desc ≠ 2 →
              r.bytes = r.pieces.flatMap (fun q => s.readBefore (s.countOf sp.val + 1) r.source q.taddr q.len)))) ∧
        (∀ r, x.gathered = some r → r.kind = .write →
          ((∀ g, s.stepOf sp.val p x = some g → s.stepPasses p x g = false) → sends { x with gathered := none } { r with id := s.core.nextId }) ∧
          (∀ g, s.stepOf sp.val p x = some g → s.stepPasses p x g = true →
            sends { x.advance g with gathered := s.gatherStep p x c 0 g } { r with id := s.core.nextId })))) ∧
    (∀ r, x.req r.id = some r → r.phase = .done → s.acksAhead sp.val u.val r = true → exec (.dmaRequestComplete sp u x.id r.id) s = .next s) ∧
    (∀ r, x.req r.id = some r → r.phase = .done → s.acksAhead sp.val u.val r = false → x.stopped = false →
      ∃ t, exec (.dmaRequestComplete sp u x.id r.id) s = .next t ∧ { t with core := s.core } = s ∧
        { t.core with spires := s.core.spires, ctls := s.core.ctls } = s.core ∧ (∀ i, i ≠ sp.val → t.spire i = s.spire i) ∧
        (t.spire sp.val).xfer u.val x.id = some { x with reqs := x.reqs.filter (fun q => decide (q.id ≠ r.id)) }) ∧
    (x.read = true → Desc.drain x.desc = true → (s.spire sp.val).drained x.order = true →
      ∃ t, exec (.drainRelease sp u x.id) s = .next t ∧ OnlySpire s t sp.val ∧ (t.spire sp.val).xfer u.val x.id = some { x with released := true }) ∧
    (x.complete = true → x.push = .none → Quiet s sp.val → s.core.hbmBad = [] →
      let d := x.desc
      let q := Desc.cqueue d
      let h := if Desc.cmode d = 2 then Desc.literal d else x.handle
      let y := s.spire sp.val
      let left (t : State) : Prop := (t.spire sp.val).unit u.val = (y.unit u.val).filter (fun z => decide (z.id ≠ x.id)) ∧ SpireAndCupolas (s.gateUp x) t sp.val
      (Desc.cmode d = 0 → ∃ t, exec (.transferComplete sp u x.id) s = .next t ∧ left t ∧ ∀ j, (t.spire sp.val).queue j = y.queue j) ∧
      (Desc.cmode d ≠ 0 → Desc.cremote d = false →
        (s.staleFor sp.val q h = true → ∃ t, exec (.transferComplete sp u x.id) s = .next t ∧ left t ∧
          (∀ j, (t.spire sp.val).queue j = y.queue j) ∧ (t.spire sp.val).ctr.staleHandle = sat32 y.ctr.staleHandle 1) ∧
        (s.staleFor sp.val q h = false → s.unusedQueue sp.val q = true → ∃ t, exec (.transferComplete sp u x.id) s = .next t ∧ left t ∧
          ∀ j, (t.spire sp.val).queue j = y.queue j) ∧
        (s.staleFor sp.val q h = false → s.unusedQueue sp.val q = false → s.seqFrozen sp.val = false → (y.queue q).length < 32 → ∃ t, exec (.transferComplete sp u x.id) s = .next t ∧ left t ∧
          (t.spire sp.val).queue q = y.queue q ++ [⟨h, s.countOf sp.val⟩]) ∧
        (s.staleFor sp.val q h = false → s.unusedQueue sp.val q = false → s.seqFrozen sp.val = true ∨ 32 ≤ (y.queue q).length → ∃ t, exec (.transferComplete sp u x.id) s = .next t ∧
          OnlySpire s t sp.val ∧ (t.spire sp.val).queue q = y.queue q ∧ (t.spire sp.val).xfer u.val x.id = some { x with push := .waiting })) ∧
      (Desc.cmode d ≠ 0 → Desc.cremote d = true →
        ∃ t, exec (.transferComplete sp u x.id) s = .next t ∧ (t.spire sp.val).xfer u.val x.id = some { x with push := .sent } ∧
          SameSram s t ∧ SameHbm s t ∧ (∀ i, i ≠ sp.val → t.spire i = s.spire i) ∧
          t.core.pushes = s.core.pushes ++ [⟨s.core.nextId, sp.val, (s.owner sp.val).getD 16, .transfer u.val x.id, Desc.cspire d, q, h, .flying, 0⟩])))

/-- The next 128 B flit of a read request's packet lands in the landing buffer of each of its tiles, single-bit errors counted,
where each has room for it and has taken no other flit nor scheduled data in the ccyc; else it waits. Or the packet is discarded: its engine is frozen as a delivery violation or as
uncorrectable data, every Spire of its partition where the engine field is uncorrectable, and nothing where the tag is. A
landing buffer drains into SRAM up to the end of a 64 B line in a ccyc in which no other access uses its banks, and an
uncorrectable word met there freezes the tile's Spire; what a stopped transfer has read leaves it unwritten (as it would drain:
log 42, the model's choice). A message of the Mantle that is sent again is counted. -/
def Obligations.PacketsDeliver : Prop :=
  ∀ (s : State) (sp : Fin 16) (u : Fin 5) (x : Xfer) (r : Req),
    (s.findReq sp.val u.val x.id r.id = some (x, r) → r.phase = .mesh → r.kind = .read → x.stopped = false →
      (s.overtakes sp.val u.val r = true → ∃ t, exec (.arbitratedPacket sp u x.id r.id .none) s = .next t ∧ t.core = s.core) ∧
      (s.overtakes sp.val u.val r = false →
        let data := r.landing sp.val u.val x.id
        let len := data.foldl (fun a l => a + l.bytes.length) 0
        let upto := min len (r.landed + 128)
        let lands (t : State) : Prop := SameSram s t ∧ SameHbm s t ∧ t.core.ports = r.tiles ++ s.core.ports ∧
          (∀ tile, Tbl.get [] tile t.core.landing = Tbl.get [] tile s.core.landing ++ (if tile ∈ r.tiles then cutItems data r.landed upto else [])) ∧
          (t.findReq sp.val u.val x.id r.id).map Prod.snd =
            some (if upto < len then { r with landed := upto } else { r with landed := upto, phase := .landing, left := r.tiles })
        ((∀ tile ∈ r.tiles, s.owner (spireOfTile tile) = some x.part) → r.tiles.Nodup → r.landed < len →
          ((∀ tile ∈ r.tiles, s.landed tile + 128 ≤ 4096 ∧ tile ∉ s.core.ports ∧ s.portReserved tile = false) →
            (∃ t, exec (.arbitratedPacket sp u x.id r.id .none) s = .next t ∧ lands t ∧ t.core.mesh = s.core.mesh) ∧
            (∀ words, ∃ t, exec (.arbitratedPacket sp u x.id r.id (.corrected words)) s = .next t ∧ lands t ∧
              t.core.mesh = { s.core.mesh with ce := sat32 s.core.mesh.ce words })) ∧
          ((∃ tile ∈ r.tiles, 4096 < s.landed tile + 128 ∨ tile ∈ s.core.ports ∨ s.portReserved tile = true) →
            ∃ t, exec (.arbitratedPacket sp u x.id r.id .none) s = .next t ∧ t.core = s.core)) ∧
        (∀ p, s.owner sp.val = some p → (s.part p).reset = .none → bit1 (s.spire sp.val).frozen (u.val + 1) = false →
          (∃ tile ∈ r.tiles, s.owner (spireOfTile tile) ≠ some x.part) →
          ∃ t, exec (.arbitratedPacket sp u x.id r.id .none) s = .next t ∧ SameSram s t ∧ SameHbm s t ∧
            t.core.mesh.delivery = sat32 s.core.mesh.delivery 1 ∧ bit1 (t.spire sp.val).frozen (u.val + 1) = true)) ∧
      (∀ p, s.owner sp.val = some p → (s.part p).reset = .none → bit1 (s.spire sp.val).frozen (u.val + 1) = false →
        ∃ t, exec (.arbitratedPacket sp u x.id r.id .data) s = .next t ∧ SameSram s t ∧ SameHbm s t ∧
          t.core.mesh.ue = sat32 s.core.mesh.ue 1 ∧ bit1 (t.spire sp.val).frozen (u.val + 1) = true) ∧
      (∃ t, exec (.arbitratedPacket sp u x.id r.id .engine) s = .next t ∧ SameSram s t ∧ SameHbm s t ∧ t.core.mesh.ue = sat32 s.core.mesh.ue 1 ∧
        ∀ i ∈ s.spiresOf x.part, ∀ p, s.owner i = some p → (s.part p).reset = .none → bit1 (t.spire i).frozen 0 = true) ∧
      (∀ router, ∃ t, exec (.arbitratedPacket sp u x.id r.id (.tag router)) s = .next t ∧ SameSram s t ∧ SameHbm s t ∧
        t.core.mesh.ue = sat32 s.core.mesh.ue 1 ∧ t.log.pos = s.log.pos + 1 ∧ (∀ i, (t.spire i).frozen = (s.spire i).frozen) ∧
        (t.findReq sp.val u.val x.id r.id).map Prod.snd = some { r with phase := .lost })) ∧
    (∀ (tile : Fin 4096) (l : Landed) (rest : List Landed), Tbl.get [] tile.val s.core.landing = l :: rest →
      let n := min l.bytes.length (64 - l.taddr % 64)
      let y := spireOfTile tile.val
      let leaves (t : State) : Prop := ∀ k, Tbl.get [] k t.core.landing = if k = tile.val then
        (if n < l.bytes.length then { l with taddr := l.taddr + n, bytes := l.bytes.drop n } :: rest else rest) else Tbl.get [] k s.core.landing
      (s.dropsLanded l = true → ∀ errs, ∃ t, exec (.landingBufferDrain tile errs) s = .next t ∧ SameSram s t ∧ SameHbm s t ∧ leaves t) ∧
      (s.dropsLanded l = false → (∃ b ∈ banksOf l.taddr n, b ∈ s.banksUsed y tile.val) → ∀ errs, exec (.landingBufferDrain tile errs) s = .next s) ∧
      (s.dropsLanded l = false → (∀ b ∈ banksOf l.taddr n, b ∉ s.banksUsed y tile.val) →
        (∃ t, exec (.landingBufferDrain tile ⟨[], []⟩) s = .next t ∧ SameHbm s t ∧
          (∀ k a, t.sramByte k a = if k = tile.val ∧ (a % 0x40000 + 0x40000 - l.taddr % 0x40000) % 0x40000 < n
            then l.bytes.getD ((a % 0x40000 + 0x40000 - l.taddr % 0x40000) % 0x40000) 0#8 else s.sramByte k a) ∧ leaves t) ∧
        (∀ (k : Fin 8) p, s.owner y = some p → (s.part p).reset = .none →
          l.taddr < l.taddr - l.taddr % 64 + 8 * k.val + 8 → l.taddr - l.taddr % 64 + 8 * k.val < l.taddr + n →
          ∃ t, exec (.landingBufferDrain tile ⟨[], [k]⟩) s = .next t ∧ SameHbm s t ∧
            (t.spire y).ctr.sramUe = sat32 (s.spire y).ctr.sramUe 1 ∧ bit1 (t.spire y).frozen 0 = true))) ∧
    exec .mantleRetransmit s = .next (s.onCore (fun c => { c with mesh := { c.mesh with mantleRetry := sat32 c.mesh.mantleRetry 1 } }))

/-- A remote push that reaches a queue of its own partition is pushed in the ccyc it is accepted in, waits where the queue is
full, is discarded and counted where its handle is stale, and is dropped uncounted at a queue in unused mode (log 42: the model's
choice); one that reaches another partition is discarded as a delivery
violation, and freezes the one master that sent it: the engine or Lantern path whose completion push it is, else the Lantern
path. Its acknowledgement, which overtakes no earlier one of the same way, lets the HQ_PUT that waits pass, unless its Spire is
frozen, or the transfer whose completion push it is leave. A Lantern transfer whose turn it is, and which finds the banks it reads
and writes free (log 8: the model's choice), moves its bytes from tile to tile, from a tile to a window whose controller has room,
or from a window to a tile; a push and a Lantern transfer wait at a frozen Spire (log 42: the model's choice). One to a Spire of
another partition, frozen or not, is discarded as a delivery violation, and one that its window refuses is not issued: either
freezes the Lantern path, and moves no byte. -/
def Obligations.PushesAndLanternComplete : Prop :=
  ∀ (s : State), s.core.hbmBad = [] →
    (∀ w : RemotePush, s.core.pushes.find? (fun v => decide (v.id = w.id)) = some w →
      let y := s.spire w.dst
      let now (f : RemotePush → RemotePush) : List RemotePush := s.core.pushes.map (fun v => if v.id = w.id then f v else v)
      let taken (v : RemotePush) : RemotePush := { v with phase := .taken, ack := s.core.nextId }
      let gone : List RemotePush := s.core.pushes.filter (fun v => decide (v.id ≠ w.id))
      let frame (t : State) : Prop := SameSram s t ∧ SameHbm s t ∧ { t with core := s.core } = s
      (w.phase = .flying → s.lanternAhead w.src w.dst w.id = true → exec (.remotePushArrive w.id) s = .next s) ∧
      (w.phase = .flying → s.lanternAhead w.src w.dst w.id = false →
        (s.owner w.dst = some w.part → Quiet s w.dst →
          (s.staleFor w.dst w.queue w.handle = false → s.unusedQueue w.dst w.queue = true →
            ∃ t, exec (.remotePushArrive w.id) s = .next t ∧ t.core.pushes = now taken ∧ frame t ∧ ∀ i q, (t.spire i).queue q = (s.spire i).queue q) ∧
          (s.staleFor w.dst w.queue w.handle = false → s.unusedQueue w.dst w.queue = false → s.seqFrozen w.dst = false → (y.queue w.queue).length < 32 →
            ∃ t, exec (.remotePushArrive w.id) s = .next t ∧ (t.spire w.dst).queue w.queue = y.queue w.queue ++ [⟨w.handle, s.countOf w.dst⟩] ∧
              t.core.pushes = now taken ∧ frame t ∧ ∀ i, i ≠ w.dst → t.spire i = s.spire i) ∧
          (s.staleFor w.dst w.queue w.handle = false → s.unusedQueue w.dst w.queue = false → s.seqFrozen w.dst = true ∨ 32 ≤ (y.queue w.queue).length →
            ∃ t, exec (.remotePushArrive w.id) s = .next t ∧ t.core.pushes = now (fun v => { v with phase := .waiting }) ∧ frame t ∧ t.core.spires = s.core.spires) ∧
          (s.staleFor w.dst w.queue w.handle = true →
            ∃ t, exec (.remotePushArrive w.id) s = .next t ∧ t.core.pushes = now taken ∧ frame t ∧
              (∀ q, (t.spire w.dst).queue q = y.queue q) ∧ (t.spire w.dst).ctr.staleHandle = sat32 y.ctr.staleHandle 1)) ∧
        (∀ p, s.owner w.dst ≠ some w.part → s.owner w.src = some p → (s.part p).reset = .none →
          let master := match w.origin with
            | .transfer u _ => u + 1
            | _ => 5
          master < 6 → ∃ t, exec (.remotePushArrive w.id) s = .next t ∧ SameSram s t ∧ SameHbm s t ∧ t.core.pushes = gone ∧
            t.core.mesh.delivery = sat32 s.core.mesh.delivery 1 ∧ bit1 (t.spire w.src).frozen master = true)) ∧
      (w.phase = .taken → s.ackAhead w = true → exec (.remotePushAcknowledgement w.id) s = .next s) ∧
      (w.phase = .taken → s.ackAhead w = false →
        let z := s.spire w.src
        let still (c : Nat) : Prop := ∀ k, k < 8 → k ≠ c → (z.ctx k).backlog = [] ∧ (z.ctx k).queue = []
        (∀ c q, w.origin = .fetch c → s.seqFrozen w.src = false → c < 8 → (z.ctx c).pushF = some w.id → (z.ctx c).backlog = [q] → (z.ctx c).queue = [] → still c →
          ∃ t, exec (.remotePushAcknowledgement w.id) s = .next t ∧ ((t.spire w.src).ctx c).pushF = none ∧
            ((t.spire w.src).ctx c).pc = (z.ctx c).pc + 16 ∧ ((t.spire w.src).ctx c).backlog = [] ∧ t.core.pushes = gone ∧ frame t) ∧
        (∀ c q, w.origin = .execute c → s.seqFrozen w.src = false → c < 8 → (z.ctx c).pushE = some w.id → (z.ctx c).backlog = [] → (z.ctx c).queue = [q] → still c →
          ∃ t, exec (.remotePushAcknowledgement w.id) s = .next t ∧ ((t.spire w.src).ctx c).pushE = none ∧
            ((t.spire w.src).ctx c).queue = [] ∧ t.core.pushes = gone ∧ frame t) ∧
        (∀ u xid, w.origin = .transfer u xid → Quiet s w.src →
          ∃ t, exec (.remotePushAcknowledgement w.id) s = .next t ∧ t.core.pushes = gone ∧ SameSram s t ∧ SameHbm s t ∧
            { t with core := s.core } = (z.xfer u xid).elim s s.gateUp ∧ (t.spire w.src).unit u = (z.unit u).filter (fun x => decide (x.id ≠ xid))) ∧
        (w.origin = .spanRx ∨ (s.seqFrozen w.src = true ∧ ∃ c, w.origin = .fetch c ∨ w.origin = .execute c) →
          ∃ t, exec (.remotePushAcknowledgement w.id) s = .next t ∧ frame t ∧ { t.core with pushes := s.core.pushes } = s.core ∧
            t.core.pushes = gone))) ∧
    (∀ (sp : Fin 16) (x : Xfer) (r : Req) (p : Nat) (b : BurstRec), s.owner sp.val = some p → Quiet s sp.val → s.core.sramCe = [] → s.core.sramUe = [] →
      let s1 := s.issueLantern sp.val
      let unit := (s1.spire sp.val).unit 4
      let d := x.desc
      let h := fld x.handle 19 0 * Desc.hstride d
      let n := Desc.lanternLen d
      let dst := tileOf (Desc.lanternSpire d) (le d 0x53 1)
      let src (add : Nat) : List Byte := s.readBefore (s.countOf sp.val + 1) (tileOf sp.val (le d 0x51 1)) (le d 0x54 4 + add) n
      let w := s.cfg.window x.part (Desc.window d)
      let off := Desc.farBase d + Desc.csFarTerm d x.sel
      let frozen : Prop := s.seqFrozen (Desc.lanternSpire d) = true ∧ (s.part x.part).reset = .none
      let foreign : Prop := Desc.lmode d ≠ 1 ∧ s.owner (Desc.lanternSpire d) ≠ some x.part
      let ahead : Prop := Desc.lmode d = 0 ∧ s1.lanternAhead sp.val (Desc.lanternSpire d) r.id = true
      let left (t : State) : Prop := (t.spire sp.val).unit 4 = unit.filter (fun y => decide (y.id ≠ x.id))
      (s1.spire sp.val).xfer 4 x.id = some x → x.push = .none → x.reqs = [r] → x.stopped = false → (∀ y ∈ unit, x.order ≤ y.order) →
      Desc.cmode d = 0 →
      (ahead → exec (.lanternComplete sp x.id false [] b) s = .next s1) ∧
      (Desc.lmode d ≠ 1 → frozen → ¬foreign → exec (.lanternComplete sp x.id false [] b) s = .next s1) ∧
      (¬foreign → s1.lanternFits sp.val x = false → exec (.lanternComplete sp x.id false [] b) s = .next s1) ∧
      (foreign → ¬ahead → (s.part p).reset = .none → bit1 (s1.spire sp.val).frozen 5 = false →
        ∃ t, exec (.lanternComplete sp x.id false [] b) s = .next t ∧ SameSram s t ∧ SameHbm s t ∧ bit1 (t.spire sp.val).frozen 5 = true ∧
          t.core.mesh.delivery = sat32 s.core.mesh.delivery 1 ∧ ∀ y, (t.spire sp.val).xfer 4 x.id = some y → y.stopped = true) ∧
      (Desc.lmode d = 0 → ¬frozen → ¬foreign → ¬ahead → s1.lanternFits sp.val x = true →
        ∃ t, exec (.lanternComplete sp x.id false [] b) s = .next t ∧ SameHbm s t ∧ left t ∧
          t.core.sram = putSram s.core.sram dst (le d 0x58 4) (src h)) ∧
      (Desc.lmode d = 1 → s.core.hbmMode = .running → (s.ctl (pseudoOf (w.addr off))).writes < 64 → windowPasses w true off n = true →
        s1.lanternFits sp.val x = true → ∃ t, exec (.lanternComplete sp x.id false [] b) s = .next t ∧ SameSram s t ∧ left t ∧ t.core.hbm = putHbm s.core.hbm (w.addr off) (src h)) ∧
      (Desc.lmode d = 2 → ¬frozen → ¬foreign → windowPasses w false off n = true → s1.lanternFits sp.val x = true →
        ∃ t, exec (.lanternComplete sp x.id false [] b) s = .next t ∧ SameHbm s t ∧ left t ∧
          t.core.sram = putSram s.core.sram dst (le d 0x58 4 + h) (s.hbmRead (w.addr off) n))) ∧
    (∀ (sp : Fin 16) (x : Xfer) (p : Nat) (bad : Bool) (ups : List Upset) (b : BurstRec), s.owner sp.val = some p → (s.part p).reset = .none →
      (s.spire sp.val).unit 4 = [x] → x.read = true → x.stopped = false → x.issued = 0 → x.readyAt ≤ s.countOf sp.val → x.busy = false →
      (Desc.drain x.desc = true → (s.spire sp.val).drained x.order = true) → bit1 (s.spire sp.val).frozen 5 = false → s.lanternPasses x = false →
      ∃ t, exec (.lanternComplete sp x.id bad ups b) s = .next t ∧ SameSram s t ∧ SameHbm s t ∧ (t.spire sp.val).unit 4 = [] ∧
        bit1 (t.spire sp.val).frozen 5 = true)

/-- An accepted write puts each of its pieces, in their order, into HBM and writes nothing else; a write queue that is full does not accept,
and an uncorrectable burst that the write fills only in part keeps it from being performed and freezes its engine. A read
that its controller serves next returns the bytes of its place as they were when it was accepted, or freezes its engine when
it meets an uncorrectable burst; a Cupola fill delivers the line to the read that waits and holds it, unless a write to it
was accepted meanwhile. A scrub zeroes its whole window at WINDOW_SCRUB_DONE, and none ends while a write queue holds 16 or more
(the model's reading of R360, log 22). -/
def Obligations.MemoryAnswers : Prop :=
  ∀ (s : State), s.core.hbmBad = [] →
    (∀ (sp : Fin 16) (u : Fin 4) (x : Xfer) (r : Req) (b : BurstRec), s.findReq sp.val u.val x.id r.id = some (x, r) → r.phase = .far →
      let ctl := s.ctl (pseudoOf r.far)
      (r.kind = .write → s.core.hbmMode = .running →
        (64 ≤ ctl.writes → ∀ bad, exec (.hbmWriteAccept sp u x.id r.id bad b) s = .next s) ∧
        (ctl.writes < 64 → ∃ t, exec (.hbmWriteAccept sp u x.id r.id false b) s = .next t ∧ SameSram s t ∧
          (t.findReq sp.val u.val x.id r.id).map Prod.snd = some { r with phase := .done, sent := s.core.nextId } ∧
          (∀ a, (∀ q ∈ r.pieces, ¬(r.far + q.far ≤ a ∧ a < r.far + q.far + q.len)) → t.hbmByte a = s.hbmByte a) ∧
          (∀ pre q post, r.pieces = pre ++ q :: post → r.bytes.length = (r.pieces.map (fun y => y.len)).sum →
            ∀ i, i < q.len → (∀ y ∈ post, ¬(y.far ≤ q.far + i ∧ q.far + i < y.far + y.len)) →
              t.hbmByte (r.far + q.far + i) = r.bytes.getD ((pre.map (fun y => y.len)).sum + i) 0#8)) ∧
        (∀ p, ctl.writes < 64 → s.owner sp.val = some p → (s.part p).reset = .none → bit1 (s.spire sp.val).frozen (u.val + 1) = false →
          r.covers (r.far / 32) = false →
          (∃ q ∈ r.pieces, r.far / 32 * 32 < r.far + q.far + q.len ∧ r.far + q.far < r.far / 32 * 32 + 32) →
          ∃ t, exec (.hbmWriteAccept sp u x.id r.id true b) s = .next t ∧ SameSram s t ∧ SameHbm s t ∧
            bit1 (t.spire sp.val).frozen (u.val + 1) = true)) ∧
      (r.kind = .read → ∀ q, ctl.reads.find? (fun q => decide (q.sp = sp.val ∧ q.unit = u.val ∧ q.xfer = x.id ∧ q.req = r.id)) = some q →
        (ctl.mayServe q = false → ∀ bad, exec (.hbmReadComplete sp u x.id r.id bad b) s = .next s) ∧
        (ctl.mayServe q = true → x.stopped = false → ∃ t, exec (.hbmReadComplete sp u x.id r.id none b) s = .next t ∧ SameSram s t ∧ SameHbm s t ∧
          { t with core := s.core } = s ∧ (∀ i, i ≠ sp.val → t.spire i = s.spire i) ∧
          (t.findReq sp.val u.val x.id r.id).map Prod.snd = some { r with bytes := q.bytes, phase := .mesh, sent := s.core.nextId, landed := 0 }) ∧
        (∀ p a, ctl.mayServe q = true → s.owner sp.val = some p → (s.part p).reset = .none → bit1 (s.spire sp.val).frozen (u.val + 1) = false →
          r.far ≤ a → a < r.far + r.len → ∃ t, exec (.hbmReadComplete sp u x.id r.id (some a) b) s = .next t ∧ SameSram s t ∧ SameHbm s t ∧
            bit1 (t.spire sp.val).frozen (u.val + 1) = true))) ∧
    (∀ (east : Bool) (line sp u : Nat) (x : Xfer) (r : Req) (f : Fill) (q : QRead) (b : BurstRec),
      let c := s.cupola (b2n east)
      c.fills.find? (fun f => decide (f.line = line)) = some f → c.queued = [] →
      (s.ctl (pseudoOf (line * 256))).reads.find? (fun q => decide (q.sp = 16 + b2n east ∧ q.unit = 0 ∧ q.xfer = line ∧ q.req = 0)) = some q →
      (s.ctl (pseudoOf (line * 256))).mayServe q = true →
      f.waiters = [(sp, u, x.id, r.id)] → s.findReq sp u x.id r.id = some (x, r) → x.stopped = false →
      ∃ t, exec (.cupolaFillComplete east line none b) s = .next t ∧ SameSram s t ∧ SameHbm s t ∧
        (t.findReq sp u x.id r.id).map Prod.snd = some { r with bytes := s.hbmRead r.far r.len, phase := .mesh, sent := s.core.nextId, landed := 0 } ∧
        (f.stale = false → (t.cupola (b2n east)).holds line = true) ∧
        (t.cupola (b2n east)).fills = c.fills.filter (fun g => decide (g.line ≠ line))) ∧
    (∀ (p : Fin 16) (w : Nat) (rest : List Nat), (s.part p.val).reset = .scrub → (s.part p.val).scrubs = w :: rest → s.goesOn = true →
      ((∃ e ∈ s.core.ctls, 16 ≤ e.2.writes) → exec (.windowScrubDone p) s = .next s) ∧
      ((∀ e ∈ s.core.ctls, e.2.writes < 16) → s.host.waiting = [] → s.host.heldImports = [] → (s.part p.val).heldWrites = [] →
        (∀ i, i < 8 → (s.port i).heldWrites = []) →
        let c := s.cfg.window p.val w
        ∃ t, exec (.windowScrubDone p) s = .next t ∧ SameSram s t ∧ (t.part p.val).scrubs = rest ∧
          (rest ≠ [] → (t.part p.val).reset = .scrub) ∧ (rest = [] → (t.part p.val).reset = .restage ∨ (t.part p.val).reset = .restart) ∧
          ∀ a, t.hbmByte a = if c.addr 0 ≤ a ∧ a < c.addr 0 + c.bytes then 0#8 else s.hbmByte a))

/-! The model store (chapter 10). -/

/-- In the state `s` after the tick edge that is due, if one is (R740): a staging that starts takes the next object in staging order, from its first whole replica. One that completes with the
digest it should have, undamaged frames and a well-formed body writes the body to its destination, where it is resident; a
damaged body makes its object malformed, and a wrong digest, or a unit that cannot be read, fails the replica it was read
from. -/
def Obligations.StagingPlacesObjects : Prop :=
  ∀ (s0 s : State), s0.dueEdge = s → s.storeRuns = true →
    (∀ (i : Nat) (o : ObjCfg) (x : Replica), s.store.staging = none → s.stagingOrder.find? s.mayStage = some i → s.cfg.objects[i]? = some o →
      s.store.index.find? (fun y => y.serves o && !y.failed) = some x →
      ∃ t, exec .stagingStart s0 = .next t ∧ t.store.staging = some ⟨i, x.replica⟩ ∧ (t.obj i).staging = .staging ∧ (t.obj i).state = (s.obj i).state ∧
        (∀ j, j ≠ i → t.obj j = s.obj j) ∧ t.core = s.core ∧ t.rom = s.rom ∧
        ((∀ p, (s.part p).switch = none) → t.parts = s.parts)) ∧
    (∀ (r : StageRun) (bursts : List (Nat × BurstRec)) (o : ObjCfg) (x : Replica), s.store.staging = some r → s.cfg.objects[r.obj]? = some o →
      s.store.index.find? (fun y => y.serves o && decide (y.replica = r.replica)) = some x →
      let fails (t : State) : Prop := s.store.failing = [] → t.store.index = s.store.index.map (fun y => if y = x then { x with failed := true } else y)
      (s.store.replicaUnits x = none → ∀ bad, ∃ t, exec (.stagingComplete bad bursts) s0 = .next t ∧ fails t ∧ SameSram s t ∧ SameHbm s t ∧ SameFlash s t) ∧
      (∀ us, s.store.replicaUnits x = some us → s.core.hbmBad = [] →
        let plain := s.openUnits x us
        let body := (skeinPrefix plain.length plain).1
        let whole := (skeinPrefix plain.length plain).2 = true ∧ bodyOk body o.bodyLen = true
        let dest := (s.cfg.window o.part o.window).addr o.destOff
        ∃ t, exec (.stagingComplete none bursts) s0 = .next t ∧ SameSram s t ∧ SameFlash s t ∧
          (∀ a, (a < dest ∨ dest + o.bodyLen ≤ a) → t.hbmByte a = s.hbmByte a) ∧
          (∀ i, i < o.bodyLen → i < body.length → t.hbmByte (dest + i) = body.getD i 0#8) ∧
          (sha384 plain = x.digest → t.store.staging = none ∧ t.store.index = s.store.index ∧
            (whole → (t.obj r.obj).staging = .resident ∧ (t.obj r.obj).state = (s.obj r.obj).state) ∧
            (¬whole → (t.obj r.obj).staging = .notStaged ∧ (t.obj r.obj).state = .malformed)) ∧
          (sha384 plain ≠ x.digest → fails t)))

/-- A codeword read is counted at the step of the ladder that ends it, and one that passes for erased at none; a unit that took
step 3, or retry level 4 or higher, marks its block for refresh. A read of a codeword is a read of its block, and so is each
further read of the ladder (log 24, the model's reading of R426). A successful
status is that of one page program (DEDUCED, log 24): it ends the wait of an import for one program of the block; a failed program or erase of a block with nothing live retires the block. An operation past the longest time of its target plus 25 % resets the target, and the third reset of a boot takes it out of use;
the operation has failed. A short ZQ calibration reaches a target 100 ms after its latest one, or when its temperature has
moved by more than 10 °C. -/
def Obligations.NandEventsAct : Prop :=
  ∀ (s : State) (ch : Fin 16) (g : Fin 8), s.nandUp = true →
    let k := 8 * ch.val + g.val
    let y := s.store.tg k
    let bare (b : Nat) : Prop := b ∉ s.store.bad ∧ s.store.held.find? (fun e => decide (e.2 = b + 1)) = none ∧ b ∉ s.store.logList ∧
      s.store.index.any (fun x => !x.failed && x.extents.any (Extent.inBlock b)) = false ∧ s.store.failing = []
    (∀ (block page slot : Nat) (l : LadderRec), s.store.reaches k block = true → slot < 4 →
      let b := blockAt ch.val g.val block
      let a := codewordAt b page slot
      let step := ladderStep y.retry l (s.store.written a)
      let counted (t : State) (n : Nat) : Prop := { t with store := s.store } = s ∧ t.store.index = s.store.index ∧
        Tbl.get 0 b t.store.reads = Tbl.get 0 b s.store.reads + n
      (s.store.readsErased a l.zeros = true → ∃ t, exec (.codewordRead ch g block page slot l) s = .next t ∧ counted t 1 ∧ t.store.ctr = s.store.ctr) ∧
      (s.store.readsErased a l.zeros = false →
        (step.1 ≠ 4 → ∃ t, exec (.codewordRead ch g block page slot l) s = .next t ∧ counted t (1 + ladderReads y.retry step) ∧
          (s.store.isUnit a = true → ((step.1 = 2 ∧ 4 ≤ step.2) ∨ step.1 = 3) → blockOf a ∈ t.store.refresh) ∧
          Tbl.get {} ch.val t.store.ctr = (Tbl.get {} ch.val s.store.ctr).count step) ∧
        (step.1 = 4 → s.store.imports = [] → ∃ t, exec (.codewordRead ch g block page slot l) s = .next t ∧ SameHbm s t ∧ SameSram s t ∧
          (Tbl.get {} ch.val t.store.ctr).ue = sat32 (Tbl.get {} ch.val s.store.ctr).ue 1))) ∧
    (∀ block, s.store.reaches k block = true →
      let b := blockAt ch.val g.val block
      (s.store.imports = [] → bare b →
        ∃ t, exec (.nandProgramStatus ch g block true) s = .next t ∧ t.store.bad = s.store.bad ++ [b] ∧ SameHbm s t ∧ SameSram s t) ∧
      (∀ q pre a rest, s.store.failing = [] → s.store.imports = [q] → q.abandoned = false → q.wait = pre ++ a :: rest → blockOf a = b →
        (∀ x ∈ pre, blockOf x ≠ b) → pre ++ rest ≠ [] →
        ∃ t, exec (.nandProgramStatus ch g block false) s = .next t ∧ t.store.imports = [{ q with wait := pre ++ rest }] ∧
          t.store.index = s.store.index ∧ SameHbm s t ∧ SameSram s t)) ∧
    (∀ (op : NandOp) (us : Nat), s.store.reaches k (opBlock op) = true →
      let n := y.resets + 1
      let b := blockAt ch.val g.val (opBlock op)
      (4 * us ≤ 5 * y.longest op → exec (.nandTimeout ch g op us) s = .next s) ∧
      (5 * y.longest op < 4 * us → s.store.imports = [] →
        (∀ page, op = .read (opBlock op) page → (∀ i, i < 4 → s.store.written (codewordAt b page i) = false) →
          s.store.failing = [] → s.store.wear s.cfg.tlcRated s.cfg.pslcRated < 80 →
          ∃ t, exec (.nandTimeout ch g op us) s = .next t ∧ t.store.tg k = { (s.store.touch b).tg k with resets := n, out := decide (3 ≤ n) } ∧
            t.log.pos = s.log.pos + (if 3 ≤ n then 1 else 0) ∧ t.store.index = s.store.index ∧ SameHbm s t ∧ SameSram s t) ∧
        (op = .program (opBlock op) ∨ op = .erase (opBlock op) → bare b →
          ∃ t, exec (.nandTimeout ch g op us) s = .next t ∧ (t.store.tg k).resets = n ∧ (t.store.tg k).out = decide (3 ≤ n) ∧
            t.store.bad = s.store.bad ++ [b] ∧ SameHbm s t ∧ SameSram s t))) ∧
    (∀ temp : Int, k ∈ s.store.targets → y.out = false → s.store.busy k = false →
      let due : Prop := y.zqAt + 100000 * unitsPerUs ≤ s.time ∨ ∃ was, y.zqTemp = some was ∧ (10 < temp - was ∨ 10 < was - temp)
      (due → exec (.zqCalibrationShort ch g temp) s =
        .next { s with store := s.store.onTg k (fun z => { z with zqAt := s.time, zqTemp := some temp, zqs := z.zqs + 1 }) }) ∧
      (¬due → exec (.zqCalibrationShort ch g temp) s = .next s))

/-- Patrol reads a block, which is counted, and refreshes one that is due for it; a wear-level move and a relocation for free
space move what is live in a block to the block named; a reclaimed ring block stands erased, and a checkpoint with it starts the
count of records again, as a checkpoint on its own does; a log flush writes every pending entry, and none where no log block takes
writes. What patrol counts as reads, the blocks that the commands name, the checkpoint that goes with a reclaim and the entries
that stay pending are readings and choices of log 24. -/
def Obligations.StoreMaintains : Prop :=
  ∀ (s : State), (s.nandWorks = true → s.store.logUp = false → exec .logFlush s = .next s) ∧
    (s.nandWorks = true → s.store.logUp = true → s.store.failing = [] → s.log.lostSince = 0 → s.log.lastFlushTick + 256 ≤ s.tick.count.getD 0 →
      ∃ t, exec .logFlush s = .next t ∧ t.store.logPages = (StoreSt.writeGroups s.pendingLog [] s.store).logPages ∧
        t.log.flushed = s.log.pos ∧ t.log.lastFlush = s.time ∧ SameHbm s t ∧ SameSram s t) ∧
    (s.storeRuns = true →
    (∀ (ch : Fin 16) (g : Fin 8) (block dest : Nat), let b := blockAt ch.val g.val block
      let k := 8 * ch.val + g.val
      let d := s.store.dataBlocks
      (∀ reads, s.store.reaches k block = true → s.stagingReads k = false → s.store.busy k = false → s.store.live b = true →
        s.store.held.find? (fun e => decide (e.2 = b + 1)) = none → s.store.broken = [] → s.store.failing = [] →
        (s.store.patrol b reads).1 = [] →
        let v := (s.store.patrol b reads).2.settled
        ∃ t, exec (.retentionPatrol ch g block reads) s = .next t ∧ SameHbm s t ∧ SameSram s t ∧
          (v.refreshDue b = false → t.store.index = s.store.index ∧
            Tbl.get 0 b t.store.reads = Tbl.get 0 b s.store.reads + s.store.pagesIn b +
              ((s.store.patrolSteps b reads).map (fun q => ladderReads (s.store.tg k).retry q.2)).sum) ∧
          (v.refreshDue b = true → t.store.index = (v.refreshData b).index)) ∧
      (b ∈ d → s.store.live b = true → s.store.failing = [] →
        let moves (t : State) : Prop := t.store.index = (s.store.vacate b (some dest)).index ∧ t.store.cells = (s.store.vacate b (some dest)).cells ∧
          SameHbm s t ∧ SameSram s t
        (s.store.mayMove b dest = true → s.store.erased b < s.store.erased dest → (∀ x ∈ d, s.store.erased b ≤ s.store.erased x) → (∃ x ∈ d, s.store.erased b + 200 < s.store.erased x) →
          ∃ t, exec (.wearLevelMove ch g block dest) s = .next t ∧ moves t) ∧
        ((∀ x ∈ d, s.store.erased x ≤ s.store.erased b + 200) → exec (.wearLevelMove ch g block dest) s = .next s) ∧
        (s.store.mayGather b dest = true → s.store.relocating = true → (let live (x : Nat) : Nat := (s.store.index.flatMap (fun r => (r.extents.filter (Extent.inBlock x)).map (·.pages))).sum
          ∀ x ∈ d, s.store.mayGather x dest = true → live b ≤ live x) →
          ∃ t, exec (.freeSpaceRelocate ch g block dest) s = .next t ∧ moves t))) ∧
    (∀ seq b, s.store.oldest = some (seq, b) → seq ≠ s.store.headSeq → s.store.reclaimNeed (b - 1) ≤ s.store.ringFree →
      b - 1 ∉ s.store.cutErases → s.store.failing = [] →
      ∃ t, exec .ringBlockReclaim s = .next t ∧ (∀ a, blockOf a = b - 1 → t.store.cell a = none) ∧ Tbl.get 0 seq t.store.held = 0 ∧
        t.store.erased (b - 1) = s.store.erased (b - 1) + 1 ∧ t.store.sinceCheckpoint = 0 ∧ SameHbm s t ∧ SameSram s t) ∧
    (256 ≤ s.store.sinceCheckpoint → ∃ t, exec .indexCheckpoint s = .next t ∧ t.store.sinceCheckpoint = 0 ∧ SameHbm s t ∧ SameSram s t ∧
      (s.store.failing = [] → s.store.warned80 = true → s.store.warned95 = true → { t with store := s.store } = s) ∧
      (s.store.failing = [] → s.store.opensRing true (s.store.checkpointRec.words + 1) = false → t.store.index = s.store.index)))

/-! The host interface (chapters 12 and 13). A command of the host, and an edge of a pin, makes the tick edge that is due in
its ccyc first (R740); the statements speak of the state `u` after that. -/

/-- A full doorbell write of a VF publishes one frame on a ring with room, with its source number and the moment; on a ring
whose frames fill its slots it publishes nothing and is counted in REFUSED. Nothing else of the device changes but the answer
to the host. -/
def Obligations.DoorbellPublishes : Prop :=
  ∀ (s u : State) (k r : Fin 16) (v : W32), s.dueEdge = u → u.vfOn k.val = true → u.host.d3hot = false → u.rom.plinthOut = false →
    r.val < (u.pcfg k.val).rings.length → u.host.waiting.any (fun w => decide (w.vf = k.val)) = false → (u.part k.val).reset ≠ .quiesce →
    let ring := (u.part k.val).ring r.val
    let held := (ring.pi + 2 ^ 32 - ring.ci) % 2 ^ 32
    let slots := ((u.pcfg k.val).rings.getD r.val {}).slots
    let frame (t : State) : Prop := (∀ j, j ≠ r.val → (t.part k.val).ring j = (u.part k.val).ring j) ∧
      (∀ q, q ≠ k.val → t.part q = u.part q) ∧ { t.part k.val with rings := (u.part k.val).rings } = u.part k.val ∧
      { t with parts := u.parts, host := { t.host with completion := u.host.completion } } = u
    (held < slots → ∃ t, exec (.ingestDb k r v 0xF#4) s = .next t ∧ frame t ∧
      (t.part k.val).ring r.val = { ring with pi := (ring.pi + 1) % 2 ^ 32, frames := ring.frames ++ [⟨ring.pi, fld v 15 0, u.time⟩] }) ∧
    (slots ≤ held → ∃ t, exec (.ingestDb k r v 0xF#4) s = .next t ∧ frame t ∧
      (t.part k.val).ring r.val = { ring with refused := sat32 ring.refused 1 })

/-- Offset x of VF BAR2 reaches window x div 2^AP at offset x mod 2^AP: a permitted read returns the HBM bytes of that place
and changes nothing else but the counts of what its bursts met; a permitted write that meets no uncorrectable burst puts its bytes there and nowhere else. -/
def Obligations.Bar2ReachesWindows : Prop :=
  ∀ (s u : State) (k : Fin 16) (x n : Nat) (bs : List Byte) (bursts : BurstRec), s.dueEdge = u → u.vfOn k.val = true → u.bar2Closed k.val = false →
    bit1 (u.part k.val).frzHost 0 = false → u.bar2Waits k.val x = false →
    let w := u.cfg.window k.val (x / 2 ^ u.cfg.ap)
    let a := w.base * 2097152 + x % 2 ^ u.cfg.ap
    w.valid = true →
    (w.hostRd = true → x % 2 ^ u.cfg.ap + n ≤ w.size * 2097152 → x + n ≤ 8 * 2 ^ u.cfg.ap → u.badBurst a n = none →
      exec (.bar2Access k x (.read n) bursts) s = .next (((u.countBursts a bursts).meetSoft a n).answer (.bytes ((List.range n).map (fun i => u.hbmByte (a + i)))))) ∧
    (w.hostWr = true → x % 2 ^ u.cfg.ap + bs.length ≤ w.size * 2097152 → x + bs.length ≤ 8 * 2 ^ u.cfg.ap →
      u.badPartial a bs.length = none →
      ∃ t, exec (.bar2Access k x (.write bs) bursts) s = .next t ∧ t.host.completion = .ok ∧
        (∀ b, t.hbmByte b = if a ≤ b ∧ b < a + bs.length then bs.getD (b - a) 0#8 else u.hbmByte b) ∧
        SameSram u t ∧ SameFlash u t ∧ SameSlots u t ∧ SameMailboxes u t ∧ t.parts = u.parts)

/-- A BAR2 access that its window does not permit is a host window violation: it completes with Unsupported Request, the
VF's host window is frozen with reason 2 and the offset recorded, the freeze is logged, and no byte of memory changes. In a
reset of the partition no freeze is recorded. -/
def Obligations.HostWindowViolationFreezes : Prop :=
  ∀ (s u : State) (k : Fin 16) (x : Nat) (op : Bar2Op) (bursts : BurstRec), s.dueEdge = u → u.vfOn k.val = true → u.bar2Closed k.val = false →
    bit1 (u.part k.val).frzHost 0 = false → u.bar2Waits k.val x = false → x + bar2Len op ≤ 8 * 2 ^ u.cfg.ap →
    u.bar2Permits k.val x (bar2Len op) (bar2Writes op) = false →
    ∃ t, exec (.bar2Access k x op bursts) s = .next t ∧ t.host.completion = (if bar2Writes op then .dropped else .unsupported) ∧ SameMemory u t ∧
      ((u.part k.val).reset = .none → bit1 (t.part k.val).frzHost 0 = true ∧ fld (t.part k.val).frzHost 15 8 = 2 ∧
        (t.part k.val).frzHostLo = BitVec.ofNat 32 (x % 2 ^ 32) ∧ (t.part k.val).frzHostHi = BitVec.ofNat 32 (x / 2 ^ 32 % 32) ∧
        t.log.pos = u.log.pos + 2) ∧
      ((u.part k.val).reset ≠ .none → t.parts = u.parts ∧ t.log = u.log)

/-- A VF FLR clears the function's Bus Master Enable, its MSI-X enable and its REQ_PI, keeps its counts of refused BAR2 accesses
and of ignored index writes, and starts a reset of its partition; a PF FLR and the loss of the link clear Bus Master Enable and VF Enable and reset no partition. The link
trains to no more than the personality's speed, and an attempt that fails is logged; the PF goes to D3hot and back; configuration
requests set VF Enable with NumVFs (in Plinth mode it is not set), Bus Master Enable, PTM Enable, the MSI-X enable and the two
sizes, read the identity of the PF, and are retried, as a change of the power state is, before the PCIE stage has completed; a Bad
TLP is recorded and counted; a write that ECRC or poisoning condemns is dropped and counted. PRESUMED (log 41): the sizes are held
to those that Table 12-1 lists, and the speed to at least 2.5 GT/s. -/
def Obligations.FunctionsConfigured : Prop :=
  (∀ (s u : State) (k : Fin 16), s.dueEdge = u →
    (u.host.vfEnable = true → k.val < u.host.numVfs → ∃ t, exec (.vfFlr k) s = .next t ∧
      (t.fn k.val).busMaster = false ∧ (t.fn k.val).msix.enable = false ∧ (t.fn k.val).bar2Ur = (u.fn k.val).bar2Ur ∧
      (t.fn k.val).mbx.ignored = (u.fn k.val).mbx.ignored ∧ (t.fn k.val).mbx.reqPi = 0#16 ∧
      ((u.pcfg k.val).defined = true → u.boot.complete = true → (u.part k.val).reset = .none → u.takesResets = true →
        (t.part k.val).reset = .quiesce ∧ (t.part k.val).resetByFlr = true)) ∧
    (s.host.pcieReady = true → ∃ t, exec .pfFlr s = .next t ∧ (t.fn 16).busMaster = false ∧ t.host.vfEnable = false ∧
      { t with host := u.host } = u) ∧
    (∀ d3, u.host.linkUp = true → u.host.pcieReady = false → exec (.pmStateChange d3) s = .next (u.answer .retry)) ∧
    (∀ d3, u.host.linkUp = true → u.host.pcieReady = true → u.host.d3hot ≠ d3 → ∃ t, exec (.pmStateChange d3) s = .next t ∧ t.host.d3hot = d3 ∧ { t with host := u.host } = u)) ∧
  (∀ (s u : State), s.dueEdge = u → u.host.linkUp = true → ∃ t, exec .dlDown s = .next t ∧ t.host.linkUp = false ∧ t.host.vfEnable = false ∧
      (∀ f, f < 17 → (t.fn f).busMaster = false) ∧ t.parts = u.parts ∧ t.core = u.core ∧ t.store = u.store ∧ t.log.pos = u.log.pos + 1) ∧
  (∀ (s : State) (speed width : Nat),
    (s.host.linkUp = false → s.boot.inReset = false → s.intrusive = false →
      (∃ t, exec (.pcieLinkTraining true speed width) s = .next t ∧ t.host.linkUp = true ∧
        (width ∈ [1, 2, 4, 8, 16] → t.host.linkWidth = width) ∧ t.host.linkSpeed = max 1 (min speed (if s.cfg.maxSpeed = 0 then 6 else s.cfg.maxSpeed)) ∧
        { t with host := s.host } = s) ∧
      (∃ t, exec (.pcieLinkTraining false speed width) s = .next t ∧ t.host.linkUp = false ∧ t.log.pos = s.log.pos + 1 ∧ SameMemory s t))) ∧
  (∀ (s u : State) (n m : Nat) (on : Bool), s.dueEdge = u → u.host.linkUp = true →
    (u.host.pcieReady = false → ∀ req, exec (.configurationRequest 16 req) s = .next (u.answer .retry)) ∧
    (u.host.pcieReady = true →
      exec (.configurationRequest 16 (.vfEnable n on)) s = .next (if u.rom.plinthOut then u.answer .ok
        else { u with host := { u.host with vfEnable := on, numVfs := min n 16 } }.answer .ok) ∧
      exec (.configurationRequest 16 (.ptmEnable on)) s = .next ({ u with host := { u.host with ptmEnable := on } }.answer .ok) ∧
      exec (.configurationRequest 16 (.read 0)) s = .next (u.answer (.data (0x1D7A + 0xC409 * 2 ^ 16))) ∧
      (∀ fn : Fn, (fn.val ≠ 16 → u.host.vfEnable = true ∧ fn.val < u.host.numVfs) →
        (∃ t, exec (.configurationRequest fn (.busMaster on)) s = .next t ∧ (t.fn fn.val).busMaster = on ∧ { t with host := u.host } = u) ∧
        (∃ t, exec (.configurationRequest fn (.msixEnable on)) s = .next t ∧ (t.fn fn.val).msix.enable = on ∧ { t with host := u.host } = u) ∧
        (∃ t, exec (.configurationRequest fn (.sizes n m)) s = .next t ∧ (t.fn fn.val).maxPayload = min n 2 ∧ (t.fn fn.val).maxRead = min m 5 ∧
          { t with host := u.host } = u)))) ∧
  (∀ (s : State) (fn : Fn),
    (∃ t, exec (.pcieCorrectableError fn .badTlp) s = .next t ∧ { t with host := s.host } = s ∧
      (t.fn fn.val).aer.badTlp = true ∧ t.host.pcieCe = sat32 s.host.pcieCe 1) ∧
    (∀ ecrc ep, ecrc = true ∨ ep = true → ∃ t, exec (.pcieWriteDropped fn ecrc ep) s = .next t ∧ t.host.completion = .dropped ∧
      (ecrc = true → (t.fn fn.val).aer.ecrc = true) ∧ (ep = true → (t.fn fn.val).aer.poisoned = true) ∧
      t.host.pcieUe = sat32 s.host.pcieUe 1 ∧ t.log.pos = s.log.pos + 1 ∧ SameMemory s t))

/-! Mailboxes and requests (chapter 12). -/

namespace Sys2Proof.Machine

/-- A request with TYPE `type` is the next one of a function, and passes the checks of every request: its payload is `p`. -/
structure Asks (s : State) (fn type size : Nat) (reserved : List Nat) (b p : List Byte) : Prop where
  waits : s.nextRequest fn = some b
  named : requestType fn b = type
  checked : s.checkRequest fn type b size reserved = .inr p

/-- The request has been taken and its answer stands in the next response slot: the message, 256 B long. -/
structure Answered (s t : State) (fn : Nat) (bs : List Byte) : Prop where
  taken : (t.fn fn).mbx.reqCi = (s.fn fn).mbx.reqCi + 1#16
  given : (t.fn fn).mbx.rspPi = (s.fn fn).mbx.rspPi + 1#16
  slot : ∀ i, i < 256 → Tbl.get 0#8 ((s.fn fn).mbx.rspPi.toNat % 16 * 256 + i) (t.fn fn).mbx.rsp = bs.getD i 0#8

/-- The request has been taken, and two answers stand in the next two response slots: PENDING, then the final one. -/
structure AnsweredTwice (s t : State) (fn msg type : Nat) (final : List Byte) : Prop where
  taken : (t.fn fn).mbx.reqCi = (s.fn fn).mbx.reqCi + 1#16
  given : (t.fn fn).mbx.rspPi = (s.fn fn).mbx.rspPi + 2#16
  pending : ∀ i, i < 256 → Tbl.get 0#8 ((s.fn fn).mbx.rspPi.toNat % 16 * 256 + i) (t.fn fn).mbx.rsp = (message msg type stPending []).getD i 0#8
  last : ∀ i, i < 256 → Tbl.get 0#8 (((s.fn fn).mbx.rspPi + 1#16).toNat % 16 * 256 + i) (t.fn fn).mbx.rsp = final.getD i 0#8

end Sys2Proof.Machine

/-- ECHO answers OK with the payload that came, and OBJECT_STATE answers OK with the object's state and staging state, for a
namespace the function may name. The core, the store and the partitions stay as they were. A ROSTER_SWITCH for an accepted
roster that can be selected answers PENDING, its MSG_ID is pending, and the switch waits in its partition, with the moment
it was accepted; nothing of the core or the store changes. -/
def Obligations.RequestsAnswered : Prop :=
  ∀ (s u : State) (fn : Fn) (b p : List Byte), s.dueEdge = u →
    (Asks u fn.val 7 240 [] b p → ∃ t, exec (.echo fn) s = .next t ∧
      Answered u t fn.val (message (numAt b 0 2) 7 0 (p.take (numAt b 4 2))) ∧ t.core = u.core ∧ t.store = u.store ∧ t.parts = u.parts) ∧
    (Asks u fn.val 4 8 [1, 2, 3] b p → numAt p 4 4 ≠ 0 → (u.ownerOfNs fn.val (numAt p 0 1)).isSome →
      ∃ t, exec (.objectState fn) s = .next t ∧
        Answered u t fn.val (message (numAt b 0 2) 4 0 (leBytes 1 (u.reportObject (numAt p 0 1) (numAt p 4 4)).1
          ++ leBytes 1 (u.reportObject (numAt p 0 1) (numAt p 4 4)).2)) ∧
        t.core = u.core ∧ t.store = u.store ∧ t.parts = u.parts) ∧
    (∀ (k : Nat) (r : RosterCfg), Asks u fn.val 1 16 [1, 4, 5, 6, 7] b p →
      (if fn.val = 16 then k = numAt p 0 1 ∧ k ≤ 15 else k = fn.val ∧ numAt p 0 1 = 0) →
      (u.cfg.pod = true → numAt p 8 8 ≠ 0 ∧ ∀ n, u.tick.count = some n → n < numAt p 8 8) →
      (u.pcfg k).defined = true → numAt p 2 2 ≠ 0xFFFF → (u.part k).resetting = false →
      u.cfg.roster k (numAt p 2 2) = some r → u.unselectable r = false → (u.part k).roster ≠ some (numAt p 2 2) → (u.part k).switch = none →
      ∃ t, exec (.rosterSwitch fn) s = .next t ∧ Answered u t fn.val (message (numAt b 0 2) 1 1 []) ∧
        (t.fn fn.val).mbx.pendingIds = (u.fn fn.val).mbx.pendingIds ++ [numAt b 0 2] ∧
        t.part k = { u.part k with switch := some ⟨fn.val, numAt b 0 2, numAt p 2 2, numAt p 8 8, u.time⟩ } ∧
        t.core = u.core ∧ t.store = u.store)

/-- A PARTITION_RESET of a defined partition that is in a reset answers RESETTING. Of one that is in none, step 1 happens: the
partition's reset is in progress, the engines of its Spires have stopped and no switch waits; the answer is PENDING, alone where
the reset ends no switch, import or staging that is answered or told with it. Where the partition's tick was published before, no
HBM, SRAM, flash, image-buffer or slot-store byte changes; a tick in progress that was not is published RESET, in the status ring
alone; a device that has left its pod publishes none. A SHUTDOWN answers PENDING and the orderly shutdown begins. -/
def Obligations.ResetAndShutdownBegin : Prop :=
  ∀ (s u : State) (b p : List Byte), s.dueEdge = u →
    (Asks u 16 5 1 [] b p → numAt p 0 1 ≤ 15 → (u.pcfg (numAt p 0 1)).defined = true →
      ((u.part (numAt p 0 1)).reset ≠ .none → ∃ t, exec (.partitionReset 16) s = .next t ∧
        Answered u t 16 (message (numAt b 0 2) 5 stResetting []) ∧ t.core = u.core ∧ t.store = u.store ∧ t.parts = u.parts) ∧
      ((u.part (numAt p 0 1)).reset = .none →
        let k := numAt p 0 1
        let x := u.part k
        let open_ : Prop := x.published = false ∧ u.tick.count.isSome = true ∧ u.tick.left = false
        let c := u.pcfg k
        let place := (u.cfg.window k c.statusWindow).addr (c.statusOff + 64 * (if c.statusSlots = 0 then 0 else u.tickWord % c.statusSlots))
        ∃ t, exec (.partitionReset 16) s = .next t ∧
          (t.part k).reset = .quiesce ∧ (t.part k).resetMsg = some (numAt b 0 2) ∧ (t.part k).phase = .idle ∧
          (t.part k).switch = none ∧ (∀ sp ∈ u.spiresOf k, (t.spire sp).stopped = true) ∧
          (t.fn 16).mbx.reqCi = (u.fn 16).mbx.reqCi + 1#16 ∧ SameSram u t ∧ SameFlash u t ∧ SameImage u t ∧ SameSlots u t ∧
          (x.switch = none → x.answers = none → u.store.imports = [] → u.store.staging = none →
            Answered u t 16 (message (numAt b 0 2) 5 1 [])) ∧
          (open_ → (t.part k).published = true ∧ (t.part k).last = some .reset ∧ (t.part k).statusPi = (x.statusPi + 1) % 2 ^ 32 ∧
            ∀ a, ¬(place ≤ a ∧ a < place + 64) → t.hbmByte a = u.hbmByte a) ∧
          (¬open_ → (t.part k).last = x.last ∧ (t.part k).statusPi = x.statusPi ∧ SameHbm u t))) ∧
    (Asks u 16 6 0 [] b p → u.power.mode = .running →
      ∃ t, exec (.shutdown 16) s = .next t ∧ Answered u t 16 (message (numAt b 0 2) 6 1 []) ∧
        t.power.mode = .shuttingDown ∧ numAt b 0 2 ∈ t.power.shutAsks)

namespace Sys2Proof.Machine

/-- The import a request names (R513): the block and the payload are read in the partition's window. -/
def importOf (s : State) (fn part : Nat) (b p : List Byte) : ImportRun :=
  let a := (s.cfg.window part (numAt p 3 1)).addr (numAt p 8 8)
  { fn := fn, msg := numAt b 0 2, part := part, ns := numAt p 0 1, objId := numAt p 4 4, replicas := numAt p 1 1, prot := numAt p 2 1
    digest := (s.hbmRead a 256).take 48, auth := sliceOf (s.hbmRead a 256) 48 96, payload := s.hbmRead (a + 256) (numAt p 16 8) }

end Sys2Proof.Machine

/-- An IMPORT with good fields, from a host-writable window with an import block whose other bytes are 0, begins: behind an
there with an equal DIGEST, both behind PENDING where there is room for two answers, or writes the units of its first
replica and waits for the status of every page program of them: one import writes at a time, and writes its units first (DEDUCED
and DESIGN CHOICE, log 24). The index stays as it was, and no HBM, SRAM or flash byte
changes. A RETIRE of an object that the model-object list does not name drops every replica of it from the index, and its final
answer is OK. While the
partition that owns the namespace is in a reset, a request of the PF for either is answered RESETTING. -/
def Obligations.ImportAndRetireAct : Prop :=
  ∀ (s u : State) (fn : Fn) (b p : List Byte) (part : Nat) (bursts : List (Nat × BurstRec)), s.dueEdge = u →
    let room : Prop := ((u.fn fn.val).mbx.rspPi - (u.fn fn.val).mbx.rspCi).toNat < 15
    (numAt p 4 4 ≠ 0 → u.ownerOfNs fn.val (numAt p 0 1) = some part → (u.part part).resetting = true →
      (Asks u fn.val 2 24 [] b p → ∃ t, exec (.import_ fn bursts) s = .next t ∧
        Answered u t fn.val (message (numAt b 0 2) 2 stResetting []) ∧ t.store = u.store ∧ t.core = u.core) ∧
      (Asks u fn.val 3 8 [1, 2, 3] b p → ∃ t, exec (.retire fn) s = .next t ∧
        Answered u t fn.val (message (numAt b 0 2) 3 stResetting []) ∧ t.store = u.store ∧ t.core = u.core)) ∧
    (Asks u fn.val 2 24 [] b p → numAt p 4 4 ≠ 0 → u.ownerOfNs fn.val (numAt p 0 1) = some part → (u.part part).resetting = false →
      (numAt p 1 1 = 1 ∨ numAt p 1 1 = 2) → numAt p 2 1 ≤ 1 → numAt p 3 1 ≤ 7 →
      (u.cfg.window part (numAt p 3 1)).valid = true → (u.cfg.window part (numAt p 3 1)).hostWr = true →
      numAt p 8 8 + 256 + numAt p 16 8 ≤ (u.cfg.window part (numAt p 3 1)).bytes → u.underScrub part (numAt p 3 1) = false →
      (∀ i, i < 112 → u.hbmByte ((u.cfg.window part (numAt p 3 1)).addr (numAt p 8 8) + 0x90 + i) = 0#8) → u.storeRuns = true →
      u.badBurst ((u.cfg.window part (numAt p 3 1)).addr (numAt p 8 8)) 256 = none →
      u.badBurst ((u.cfg.window part (numAt p 3 1)).addr (numAt p 8 8) + 256) (numAt p 16 8) = none →
      let q := importOf u fn.val part b p
      let begun := { u with store := { u.store with imports := [q] } }
      let still : Prop := u.store.failing = []
      let frame (t : State) : Prop := (still → t.store.index = u.store.index) ∧ t.core = (u.countEach bursts).core ∧ t.rom = u.rom ∧
        (t.fn fn.val).mbx.reqCi = (u.fn fn.val).mbx.reqCi + 1#16
      let pending (t : State) : Prop := Answered u t fn.val (message (numAt b 0 2) 2 stPending [])
      (∀ q0, u.store.active = some q0 → q0.wait ≠ [] → ∃ t, exec (.import_ fn bursts) s = .next t ∧ t.store.imports = u.store.imports ++ [q] ∧ frame t ∧ pending t) ∧
      (u.store.imports = [] →
        (∀ r, begun.importVerdict q = some r → ∃ t, exec (.import_ fn bursts) s = .next t ∧ t.store.imports = [] ∧ (still → t.store.cells = u.store.cells) ∧ frame t ∧
          (room → AnsweredTwice u t fn.val (numAt b 0 2) 2 (message (numAt b 0 2) 2 (if r = 0 then stOk else stRefused) (leBytes 1 r)))) ∧
        (∀ es st, begun.importVerdict q = none → begun.store.placeReplica (begun.sealUnits q) 0 = some (es, st) → programsOf es ≠ [] →
          ∃ t, exec (.import_ fn bursts) s = .next t ∧ (still → t.store.cells = st.cells) ∧ frame t ∧ pending t ∧
            t.store.imports = [{ q with phase := .units, extents := es, wait := programsOf es }]))) ∧
    (Asks u fn.val 3 8 [1, 2, 3] b p → numAt p 4 4 ≠ 0 → u.ownerOfNs fn.val (numAt p 0 1) = some part → (u.part part).resetting = false →
      u.store.inUse = true → u.rom.keys = true → u.cfg.objects.all (fun o => !(decide (o.objId = numAt p 4 4) && decide (o.ns = numAt p 0 1))) = true →
      ∃ t, exec (.retire fn) s = .next t ∧
        (∀ x ∈ t.store.index, ¬(x.objId = numAt p 4 4 ∧ x.ns = numAt p 0 1)) ∧
        (u.store.failing = [] → u.store.opensRing false 1 = false →
          t.store.index = u.store.index.filter (fun x => !(decide (x.objId = numAt p 4 4) && decide (x.ns = numAt p 0 1)))) ∧
        (t.fn fn.val).mbx.reqCi = (u.fn fn.val).mbx.reqCi + 1#16 ∧ t.core = u.core ∧ t.rom = u.rom ∧
        (room → AnsweredTwice u t fn.val (numAt b 0 2) 3 (message (numAt b 0 2) 3 stOk [])))

/-- A full write of MBX_REQ_PI that leaves at most 8 requests waiting publishes them; one that puts it more than 8 ahead of
MBX_REQ_CI is ignored and counted. A full write of MBX_RSP_CI to a value between the old one and MBX_RSP_PI moves it, with
nothing held; another one is ignored and counted. Behind earlier accesses of the same VF that wait, a write waits too. -/
def Obligations.MailboxIndicesMove : Prop :=
  ∀ (s u : State) (fn : Fn) (v : W32), s.dueEdge = u → u.fnOn fn.val = true → u.rom.plinthOut = false →
    let m := (u.fn fn.val).mbx
    let new := BitVec.ofNat 16 v.toNat
    let frame (t : State) : Prop := (∀ f, f ≠ fn.val → t.fn f = u.fn f) ∧ { t with host := u.host } = u
    let behind (w : WaitOp) : State := { u with host := { u.host with waiting := u.host.waiting ++ [w] } }.answer .ok
    (u.host.waiting.any (fun w => decide (w.vf = fn.val)) = true →
      exec (.mbxReqPi fn v 0xF#4) s = .next (behind (.reqPi fn.val v)) ∧ exec (.mbxRspCi fn v 0xF#4) s = .next (behind (.rspCi fn.val v))) ∧
    (u.host.waiting.any (fun w => decide (w.vf = fn.val)) = false →
    ((new - m.reqCi).toNat ≤ 8 → (new - m.reqPi).toNat ≤ 8 - (m.reqPi - m.reqCi).toNat → ∃ t, exec (.mbxReqPi fn v 0xF#4) s = .next t ∧
      (t.fn fn.val).mbx = { m with reqPi := new } ∧ frame t) ∧
    (8 < (new - m.reqCi).toNat → ∃ t, exec (.mbxReqPi fn v 0xF#4) s = .next t ∧
      (t.fn fn.val).mbx = { m with ignored := sat32 m.ignored 1 } ∧ frame t) ∧
    (m.held = [] → (m.rspPi - new).toNat ≤ (m.rspPi - m.rspCi).toNat → ∃ t, exec (.mbxRspCi fn v 0xF#4) s = .next t ∧
      (t.fn fn.val).mbx = { m with rspCi := new } ∧ frame t) ∧
    ((m.rspPi - m.rspCi).toNat < (m.rspPi - new).toNat →
      exec (.mbxRspCi fn v 0xF#4) s = .next ({ u with rom := { u.rom with regIgnored := sat32 u.rom.regIgnored 1 } }.answer .dropped)))

/-! Registers (chapter 18). -/

/-- A full read of an RC register (REFUSED or DISCARD of an ingest ring) by its own VF returns the register and clears it; a
narrower read, and a read in the PF's view, return it and clear nothing. A read of the LO register of a counter pair copies
the pair's HI into the function's shadow; a read of the HI register returns a fresh shadow and makes it stale, and returns
the counter's own half where the shadow is stale. A 64-bit read at a multiple of 8 returns both halves of one moment and
changes nothing but the answer. A read behind an access of its function that waits waits too. -/
def Obligations.CountersAreRead : Prop :=
  (∀ (s : State) (fn : Fn) (o : Nat) (be : BitVec 4), s.fnOn fn.val = true → o % 4 = 0 → o < bar0Size fn.val →
    s.host.waiting.any (fun w => decide (w.vf = fn.val)) = true →
    let behind (w : WaitOp) : State := { s with host := { s.host with waiting := s.host.waiting ++ [w] } }.answer .waiting
    exec (.rcRegisterRead fn o be) s = .next (behind (.read fn.val o 1 be 0#4)) ∧
    exec (.counterPairRead fn o be) s = .next (behind (.read fn.val o 1 be 0#4)) ∧
    exec (.counterPairSnapshot fn o) s = .next (behind (.read fn.val o 2 0xF#4 0xF#4))) ∧
  (∀ (s : State) (k : Fin 16) (r : Fin 16) (be : BitVec 4), s.rom.plinthOut = false → r.val < (s.pcfg k.val).rings.length →
    let now (f : Nat) : Prop := s.host.waiting.any (fun w => decide (w.vf = f)) = false
    let ring := (s.part k.val).ring r.val
    let vf : Fn := ⟨k.val, by omega⟩
    let own := 0x100C + 0x20 * r.val
    (s.fnOn k.val = true → now k.val →
      (∃ t, exec (.rcRegisterRead vf own 0xF#4) s = .next t ∧ t.host.completion = .data (ring.refused % 2 ^ 32) ∧
        (t.part k.val).ring r.val = { ring with refused := 0 } ∧ SameMemory s t) ∧
      (∃ t, exec (.rcRegisterRead vf (own + 4) 0xF#4) s = .next t ∧ t.host.completion = .data (ring.discard % 2 ^ 32) ∧
        (t.part k.val).ring r.val = { ring with discard := 0 } ∧ SameMemory s t) ∧
      (be ≠ 0xF#4 → be ≠ 0#4 → exec (.rcRegisterRead vf own be) s = .next (s.answer (.data (laneValue be ring.refused))))) ∧
    (s.fnOn pfFn = true → now 16 →
      exec (.rcRegisterRead 16 (0x1000000 + 0x10000 * k.val + own) 0xF#4) s = .next (s.answer (.data (ring.refused % 2 ^ 32))))) ∧
  (∀ (s : State) (fn : Fn) (o : Nat), s.fnOn fn.val = true → o % 8 = 0 → o + 4 < bar0Size fn.val →
    s.host.waiting.any (fun w => decide (w.vf = fn.val)) = false →
    (regPlace fn.val o).1.region (regPlace fn.val o).2 = none → (regPlace fn.val (o + 4)).1.region (regPlace fn.val (o + 4)).2 = none →
    regPlace fn.val (o + 4) = ((regPlace fn.val o).1, (regPlace fn.val o).2 + 4) →
    pairAt (regPlace fn.val o).1 (regPlace fn.val o).2 = true →
    let lo := s.regValue (regPlace fn.val o).1 (regPlace fn.val o).2
    let hi := s.regValue (regPlace fn.val o).1 ((regPlace fn.val o).2 + 4)
    (∃ t, exec (.counterPairRead fn o 0xF#4) s = .next t ∧ t.host.completion = .data (lo % 2 ^ 32) ∧
      Tbl.get 0 o (t.fn fn.val).shadows = hi + 1 ∧ SameMemory s t) ∧
    (∀ v, Tbl.get 0 o (s.fn fn.val).shadows = v + 1 → pairAt (regPlace fn.val o).1 ((regPlace fn.val o).2 + 4) = false →
      ∃ t, exec (.counterPairRead fn (o + 4) 0xF#4) s = .next t ∧
        t.host.completion = .data (v % 2 ^ 32) ∧ Tbl.get 0 o (t.fn fn.val).shadows = 0 ∧ SameMemory s t) ∧
    (Tbl.get 0 o (s.fn fn.val).shadows = 0 → pairAt (regPlace fn.val o).1 ((regPlace fn.val o).2 + 4) = false →
      exec (.counterPairRead fn (o + 4) 0xF#4) s = .next (s.answer (.data (hi % 2 ^ 32)))) ∧
    exec (.counterPairSnapshot fn o) s = .next (s.answer (.data (lo + hi * 2 ^ 32))))

/-- A crossing access completes with Unsupported Request (a write reports it through AER), is counted, and has no other
effect; a read of that kind behind an access of its function that waits waits too (R686). Where nothing of its function waits, so completes a 64-bit read off its multiple of 8 outside the buffer regions, and a longer
read that leaves its buffer region; one that lies in it gives its bytes. A write into the request slots of a
function's own mailbox puts its bytes there and nowhere else, or waits behind earlier accesses of its VF that wait; one that leaves
the region is a crossing access. -/
def Obligations.HostAccessesTaken : Prop :=
  (∀ (s : State) (fn : Fn) (o : Nat), s.fnOn fn.val = true →
    let now : Prop := s.host.waiting.any (fun w => decide (w.vf = fn.val)) = false
    let counted := { s with host := { s.host with regUr := sat32 s.host.regUr 1 } }
    (now → exec (.crossingAccess fn false) s = .next (counted.answer .unsupported)) ∧
    (¬now → exec (.crossingAccess fn false) s =
      .next ({ s with host := { s.host with waiting := s.host.waiting ++ [WaitOp.cross fn.val] } }.answer .waiting)) ∧
    (∃ t, exec (.crossingAccess fn true) s = .next t ∧ t.host.completion = .dropped ∧ t.host.regUr = sat32 s.host.regUr 1 ∧
      (t.fn fn.val).aer.unsupported = true ∧ SameMemory s t ∧ { t with host := s.host } = s) ∧
    (∀ n first last r i, now → o % 4 = 0 → o < bar0Size fn.val → 1 ≤ n → (regPlace fn.val o).1.region (regPlace fn.val o).2 = some (r, i) →
      (i + 4 * (n + 1) ≤ r.size → exec (.rcRegisterRead fn o first (some (n, last))) s = .next (s.answer (.bytes (s.regionRead r i (4 * (n + 1)))))) ∧
      (r.size < i + 4 * (n + 1) → exec (.rcRegisterRead fn o first (some (n, last))) s = .next (counted.answer .unsupported))) ∧
    (now → o % 4 = 0 → o % 8 ≠ 0 → o < bar0Size fn.val → (regPlace fn.val o).1.region (regPlace fn.val o).2 = none →
      exec (.counterPairSnapshot fn o) s = .next (counted.answer .unsupported))) ∧
  (∀ (s u : State) (k : Fin 16) (i : Nat) (bs : List Byte), s.dueEdge = u → u.fnOn k.val = true → u.rom.plinthOut = false → bs ≠ [] → i < 0x800 →
    let vf : Fn := ⟨k.val, by omega⟩
    let ahead := u.host.waiting.any (fun w => decide (w.vf = k.val))
    (i + bs.length ≤ 0x800 → ahead = true → exec (.bufferWrite vf (0x4000 + i) bs) s =
      .next ({ u with host := { u.host with waiting := u.host.waiting ++ [WaitOp.slots k.val i bs] } }.answer .ok)) ∧
    (i + bs.length ≤ 0x800 → ahead = false → ∃ t, exec (.bufferWrite vf (0x4000 + i) bs) s = .next t ∧ t.host.completion = .ok ∧
      SameSram u t ∧ SameHbm u t ∧ SameFlash u t ∧ SameSlots u t ∧
      ∀ f a, Tbl.get 0#8 a (t.fn f).mbx.rsp = Tbl.get 0#8 a (u.fn f).mbx.rsp ∧
        Tbl.get 0#8 a (t.fn f).mbx.req = if f = k.val ∧ i ≤ a ∧ a < i + bs.length then bs.getD (a - i) 0#8 else Tbl.get 0#8 a (u.fn f).mbx.req) ∧
    (0x800 < i + bs.length → ∃ t, exec (.bufferWrite vf (0x4000 + i) bs) s = .next t ∧ t.host.regUr = sat32 u.host.regUr 1 ∧
      (t.fn k.val).aer.unsupported = true ∧ SameMemory u t))

/-! Plinth mode (chapter 14). -/

namespace Sys2Proof.Machine

/-- Plinth mode with no command running, reached by the host's PF. -/
structure PlinthIdle (s : State) : Prop where
  answers : s.fnOn pfFn = true
  plinth : s.rom.plinthOut = true
  idle : s.rom.run = none
  power : s.power.failPin = false

/-- A Plinth command has ended with a result: nothing runs. -/
def EndedWith (t : State) (result : Nat) : Prop := t.rom.run = none ∧ t.rom.result = result

/-- A Plinth command runs, with OFF and LEN as the registers held them. -/
def RunsWith (s t : State) (c : PlinthRun) : Prop := t.rom.run = some c ∧ t.rom.runOff = s.rom.off.toNat ∧ t.rom.runLen = s.rom.len.toNat

end Sys2Proof.Machine

/-- Starting ERASE, PROGRAM, READ and CHECK_SLOT, with a LEN of Table 14-18, 1 to 1 MiB: a range past the end of the flash, or for
ERASE and PROGRAM one that reaches below 0x0010_0000, ends with BAD_RANGE; another range of an ERASE, off its 64 KiB multiples, and
a slot but A and B end with BAD_ARG; else the command runs. With any LEN, CMD holds the command, and no byte of any memory
changes. -/
def Obligations.PlinthCommandsStart : Prop :=
  ∀ s : State, PlinthIdle s →
    let off := s.rom.off.toNat
    let len := s.rom.len.toNat
    let fits : Prop := 1 ≤ len ∧ len ≤ 2 ^ 20
    let bad (write : Prop) : Prop := s.rom.flashSize < off + len ∨ (write ∧ off < 0x100000)
    (∃ t, exec .erase s = .next t ∧ t.rom.cmd = 1#4 ∧ SameMemory s t ∧ t.rom.otp = s.rom.otp ∧
      (fits → bad True → EndedWith t 1) ∧
      (fits → ¬bad True → off % 0x10000 ≠ 0 ∨ len % 0x10000 ≠ 0 → EndedWith t 2) ∧
      (fits → ¬bad True → off % 0x10000 = 0 → len % 0x10000 = 0 → RunsWith s t .erase)) ∧
    (∃ t, exec .program s = .next t ∧ t.rom.cmd = 2#4 ∧ SameMemory s t ∧ t.rom.otp = s.rom.otp ∧
      (fits → bad True → EndedWith t 1) ∧ (fits → ¬bad True → RunsWith s t .program)) ∧
    (∃ t, exec .read s = .next t ∧ t.rom.cmd = 3#4 ∧ SameMemory s t ∧ t.rom.otp = s.rom.otp ∧
      (fits → bad False → EndedWith t 1) ∧ (fits → ¬bad False → RunsWith s t .read)) ∧
    (∃ t, exec .checkSlot s = .next t ∧ t.rom.cmd = 4#4 ∧ SameMemory s t ∧ t.rom.otp = s.rom.otp ∧
      (1 < off → EndedWith t 2) ∧ (off ≤ 1 → RunsWith s t .checkSlot))

/-- The end of a Plinth command: an erased byte reads 0xFF, a programmed byte keeps the bits that were 0, READ copies flash
bytes into the image buffer from byte 0, CHECK_SLOT reports the checks' reason; every byte outside the command's range
reads as before. A flash failure ends the command with FLASH_ERROR. -/
def Obligations.PlinthCommandsEnd : Prop :=
  ∀ (s : State), s.intrusive = false →
    let flash (t : State) (a : Nat) : Byte := Tbl.get 0xFF#8 a t.rom.flash
    let image (t : State) (a : Nat) : Byte := Tbl.get 0#8 a t.rom.image
    let inside (a : Nat) : Prop := s.rom.runOff ≤ a ∧ a < s.rom.runOff + s.rom.runLen
    (s.rom.run = some .erase → ∃ t, exec (.plinthCommandDone true) s = .next t ∧ EndedWith t 0 ∧ SameImage s t ∧
      ∀ a, (inside a → flash t a = 0xFF#8) ∧ (¬inside a → flash t a = flash s a)) ∧
    (s.rom.run = some .program → ∃ t, exec (.plinthCommandDone true) s = .next t ∧ EndedWith t 0 ∧ SameImage s t ∧
      ∀ a, (inside a → flash t a = flash s a &&& image s (a - s.rom.runOff)) ∧ (¬inside a → flash t a = flash s a)) ∧
    (s.rom.run = some .read → ∃ t, exec (.plinthCommandDone true) s = .next t ∧ EndedWith t 0 ∧ SameFlash s t ∧
      ∀ a, (a < s.rom.runLen → image t a = flash s (s.rom.runOff + a)) ∧ (s.rom.runLen ≤ a → image t a = image s a)) ∧
    (s.rom.run = some .checkSlot → ∃ t, exec (.plinthCommandDone true) s = .next t ∧ SameFlash s t ∧ SameImage s t ∧
      (s.rom.imageReason s.rom.runOff = 0 → EndedWith t 0) ∧
      (s.rom.imageReason s.rom.runOff ≠ 0 → EndedWith t 4 ∧ t.rom.reason = s.rom.imageReason s.rom.runOff)) ∧
    (s.rom.run ≠ none → ∃ t, exec (.plinthCommandDone false) s = .next t ∧ EndedWith t 3 ∧ SameImage s t ∧
      ∀ a, ¬inside a → flash t a = flash s a)

/-- A write to PLINTH_CMD while BUSY is 1 is ignored and counted, and outside Plinth mode it is ignored and counted as a
write to a Plinth register. RESTART clears the always-on count and COUNT, and an attempt starts as after a failed one: the
device leaves Plinth mode, and the strap is not sampled again. -/
def Obligations.PlinthGuards : Prop :=
  (∀ (s : State) (i : Instr), i ∈ [Instr.erase, .program, .read, .checkSlot, .restart] → s.fnOn pfFn = true →
    (s.rom.plinthOut = true → s.rom.run ≠ none →
      exec i s = .next ({ s with rom := { s.rom with plinthBusy := sat32 s.rom.plinthBusy 1 } }.answer .dropped)) ∧
    (s.rom.plinthOut = false → exec i s = .next ({ s with host := { s.host with rwpIgnored := sat32 s.host.rwpIgnored 1 } }.answer .dropped))) ∧
  (∀ s : State, PlinthIdle s → ∃ t, exec .restart s = .next t ∧
    t.boot.count = some 0 ∧ t.boot.due = true ∧ t.boot.viaRestart = true ∧ t.boot.sel = s.boot.sel ∧ t.rom.plinthOut = false ∧
    t.rom.flash = (s.rom.append { s.rom.record with seq := (s.rom.record.seq + 1) % 2 ^ 32, count := 0 }).flash ∧
    t.rom.otp = s.rom.otp)

/-- A DW write in Plinth mode merges its enabled lanes into PLINTH_OFF and into the 21 bits of PLINTH_LEN; a 64-bit write of
both is two such writes; outside Plinth mode a write of any of their RWP lanes is ignored and counted, and one of the reserved lane
of PLINTH_LEN alone is not counted. A write of a read-only
register changes nothing. The image buffer takes the bytes written to PF BAR2 in Plinth mode, each at its offset; outside
Plinth mode the write is ignored and counted. A read of it gives the bytes it holds (outside Plinth mode as the model's choice,
log 42). -/
def Obligations.PlinthBytesTaken : Prop :=
  (∀ (s u : State) (v w : W32) (be : BitVec 4), s.dueEdge = u → u.fnOn pfFn = true → be ≠ 0#4 →
    let off := BitVec.ofNat 32 (mergeLanes be u.rom.off.toNat v.toNat)
    (u.rom.plinthOut = true →
      exec (.registerWrite 16 0x40 v be none) s = .next ({ u with rom := { u.rom with off := off } }.answer .ok) ∧
      exec (.registerWrite 16 0x44 w be none) s =
        .next ({ u with rom := { u.rom with len := BitVec.ofNat 21 (mergeLanes be u.rom.len.toNat w.toNat) } }.answer .ok) ∧
      (be = 0xF#4 → exec (.registerWrite 16 0x40 v be (some (w, be))) s =
        .next ({ u with rom := { u.rom with off := off, len := BitVec.ofNat 21 (mergeLanes be u.rom.len.toNat w.toNat) } }.answer .ok))) ∧
    (u.rom.plinthOut = false →
      let ignored := { u with host := { u.host with rwpIgnored := sat32 u.host.rwpIgnored 1 } }.answer .dropped
      exec (.registerWrite 16 0x40 v be none) s = .next ignored ∧
      (be &&& 0x7#4 ≠ 0#4 → exec (.registerWrite 16 0x44 w be none) s = .next ignored) ∧
      (be = 0x8#4 → exec (.registerWrite 16 0x44 w be none) s = .next (u.answer .ok))) ∧
    exec (.registerWrite 16 0x20 v be none) s = .next (u.answer .ok)) ∧
  (∀ (s : State) (o : Nat) (bs : List Byte), o + bs.length ≤ 2 ^ 20 → s.fnOn pfFn = true →
    ∃ t, exec (.imageBufferWrite o bs) s = .next t ∧ SameFlash s t ∧ t.core = s.core ∧ t.rom.otp = s.rom.otp ∧
      (s.rom.plinthOut = true → t.host.completion = .ok ∧ ∀ a, Tbl.get 0#8 a t.rom.image =
        if o ≤ a ∧ a < o + bs.length then bs.getD (a - o) 0#8 else Tbl.get 0#8 a s.rom.image) ∧
      (s.rom.plinthOut = false → t.rom = s.rom ∧ t.host.rwpIgnored = sat32 s.host.rwpIgnored 1)) ∧
  (∀ (s : State) (o n : Nat) (bs : List Byte), o + n ≤ 2 ^ 20 → s.fnOn pfFn = true →
    exec (.imageBufferWrite o bs (some n)) s = .next (s.answer (.bytes (Tbl.getRun 0#8 s.rom.image o n))))

/-! Resets, boot attempts and fuses (chapters 14, 17 and 19). -/

namespace Sys2Proof.Machine

/-- What a reset of every domain but the always-on one leaves: tile SRAM reads 0, no boot is under way, and what the flash,
the fuses and the NAND hold stays. -/
structure ColdStart (s t : State) : Prop where
  sram : ∀ tile a, t.sramByte tile a = 0#8
  flash : SameFlash s t
  otp : t.rom.otp = s.rom.otp
  boot : t.boot.stage = 0 ∧ t.boot.complete = false ∧ t.boot.running = false ∧ t.boot.nextAt = none
  nand : t.store.inUse = false ∧ t.store.cells = s.store.cells ∧ t.store.logPages = s.store.logPages ∧ t.store.superList = s.store.superList ∧
    t.store.erases = s.store.erases ∧ t.store.factoryBad = s.store.factoryBad
  plinth : t.rom.plinthOut = false ∧ t.rom.keys = false
  sequence : t.pending = s.pending ∧ t.time = s.time

/-- An attempt may start, and the world answers every stage up to FLASH as it should. -/
structure AttemptReady (s : State) (env : BootEnv) : Prop where
  due : s.boot.due = true ∧ s.boot.inReset = false
  power : s.power.failPin = false ∧ s.power.gated = false
  tap : s.tap.halted = false ∧ s.intrusive = false
  env : env.otpOk = true ∧ env.flashAnswers = true ∧ env.sfdpOk = true ∧ env.octalOk = true ∧ env.recordWriteOk = true ∧ env.hangs = none ∧
    env.signaturesAgree = true
  flash : s.rom.densityOk = true

/-- The stages that pass, in order, up to the one given last. -/
def State.passStages (env : BootEnv) : List Nat → State → Option State
  | [], s => some s
  | k :: ks, s =>
    match (s.enterStage env k).stageWork env k with
    | (t, .ok) => State.passStages env ks t
    | _ => none

/-- An attempt fails with a reason: COUNT and the flash's record have been dealt with, and the next one comes 10 ms later. -/
def FailedWith (s t : State) (reason : Nat) : Prop :=
  t.boot.reason = reason ∧ t.boot.nextAt = some (s.time + 10 * unitsPerMs) ∧ t.boot.running = false ∧ t.boot.due = false ∧ t.boot.complete = false ∧
    t.rom.otp = s.rom.otp

/-- The device is in Plinth mode, for a reason of Table 14-15. -/
def InPlinth (t : State) (why : Nat) : Prop :=
  t.boot.stage = 0xD ∧ t.boot.plinthWhy = why ∧ t.rom.plinthOut = true ∧ t.rom.keys = false ∧ t.host.pcieReady = true ∧ t.boot.running = false

end Sys2Proof.Machine

/-- A boot attempt goes through its stages in order. With TAMPER at 64, with the strap at 2 or 3 or with three failed
attempts it ends in Plinth mode, whatever the OTP reads; with an OTP that does not load it fails otherwise, the third time into
Plinth mode with the count at 3 (DEDUCED, log 42). Past the FLASH stage the attempt count and a new boot record are one
higher; an image that does not verify fails the attempt, which adds its reason to the record, and one whose two signature checks
disagree is a tamper detection. A later stage that fails gives the attempt its reason; when every stage passes, the boot is complete. -/
def Obligations.BootAttempts : Prop :=
  ∀ (s : State) (env : BootEnv), AttemptReady s env →
    let strap := s.boot.strap
    let n := s.attemptCount true
    let many := 64 ≤ s.rom.tamper ∨ (strap < 2 ∧ 3 ≤ n)
    let plinth (t : State) : Prop := (many → InPlinth t 1) ∧ (¬many → 2 ≤ strap → InPlinth t 2)
    let noted (r : Rom) (reason : Nat) : BootRec := { r.record with reasons := reason :: r.record.reasons.take 2, seq := (r.record.seq + 1) % 2 ^ 32 }
    (2 ≤ strap ∨ many → ∃ t, exec (.bootAttempt env) s = .next t ∧ plinth t ∧ SameFlash s t ∧ t.rom.otp = s.rom.otp) ∧
    (∃ t, exec (.bootAttempt { env with otpOk := false }) s = .next t ∧
      (2 ≤ strap ∨ many → plinth t ∧ SameFlash s t) ∧
      (strap < 2 → ¬many → n ≠ 2 → FailedWith s t 0x0101 ∧ t.boot.count = some n ∧
        t.rom.flash = (s.rom.append (noted s.rom 0x0101)).flash) ∧
      (strap < 2 → ¬many → n = 2 → InPlinth t 1 ∧ t.boot.count = some 3 ∧
        t.rom.flash = (s.rom.append { noted s.rom 0x0101 with count := 3 }).flash)) ∧
    (strap < 2 → ¬many →
      let m : Rom := s.rom.append { s.rom.record with count := n + 1, seq := (s.rom.record.seq + 1) % 2 ^ 32 }
      let reason := m.imageReason (slotFor strap n)
      (reason ≠ 0 → ∃ t, exec (.bootAttempt env) s = .next t ∧ FailedWith s t reason ∧ t.boot.count = some (n + 1) ∧
        t.rom.flash = (m.append (noted m reason)).flash) ∧
      (reason = 0 ∨ 0x0306 ≤ reason → ∃ t, exec (.bootAttempt { env with signaturesAgree := false }) s = .next t ∧
        t.rom.tamper = min 127 (s.rom.tamper + 1) ∧ t.boot.due = true ∧ t.boot.complete = false ∧ t.boot.count = some (n + 1))) ∧
    (∀ n u, n ≤ 10 → (s.beginAttempt env.flashAnswers).passStages env (allStages.take n) = some u →
      (∀ v reason, n < 10 → reason / 256 ≠ 1 → (u.enterStage env (n + 1)).stageWork env (n + 1) = (v, .fail reason) →
        ∃ t, exec (.bootAttempt env) s = .next t ∧ FailedWith v t reason) ∧
      (n = 10 → ∃ t, exec (.bootAttempt env) s = .next t ∧
        t.boot.stage = 0xE ∧ t.boot.complete = true ∧ t.boot.count = some 0 ∧ t.boot.slot = u.boot.slot ∧ SameHbm u t ∧ SameSram u t ∧ t.cfg = u.cfg ∧
        t.rom.otp = u.rom.otp ∧ t.rom.fuses = u.rom.otp.jobs u.rom.bootKey u.rom.svn))

/-- RESET_N resets every domain but the always-on one, which keeps the attempt count, the TRIPPED flag and TAMPER, and
releases the thermal trip latch; its end samples the strap and lets an attempt start, unless PWR_FAIL_N is asserted. A
tamper detection of a monitor that is armed resets as RESET_N does, counts in TAMPER up to 127 and keeps the thermal latch; under
RESET_N it only counts, and one of a monitor that is not armed does nothing. The always-on domain comes up with nothing kept but
flash, fuses and NAND; the queue and the time of the model outlast every reset (log 31). A stage that runs past its timeout fails
the attempt with detail 0xFF, a ROM stage of the third attempt into Plinth mode with the count at 3 (DEDUCED, log 42); the STORE stage leaves the store out and the boot goes on, and completes. The next attempt
starts once its time has come. After a boot the fuses of R650 to R652 are blown one after the other; a fuse that reads
unblown is left, and an anti-rollback fuse that does so ends the ascent. -/
def Obligations.ResetsAndBoots : Prop :=
  (∀ (s : State) (sel : BitVec 2), s.rom.run = none → s.tap.job = none →
    (s.boot.inReset = false → ∃ t, exec .resetNAssert s = .next t ∧ ColdStart s t ∧ t.boot.inReset = true ∧ t.boot.due = false ∧
      t.boot.count = s.boot.count ∧ t.power.trippedFlag = s.power.trippedFlag ∧ t.rom.tamper = s.rom.tamper ∧
      t.power.trip = false ∧ t.power.gated = false) ∧
    (s.boot.inReset = true → ∃ t, exec (.resetNDeassert sel) s = .next t ∧ t.boot.inReset = false ∧ t.boot.sel = sel.toNat ∧ t.resetAt = s.time ∧
      t.boot.count = s.boot.count ∧ (t.boot.due = true ↔ s.power.failPin = false) ∧ (s.power.failPin = true → t.power.mode = .powerFail) ∧
      t.rom = s.rom ∧ t.core = s.core ∧ t.store = s.store) ∧
    (∀ m : Monitor, (m = .coreRail ∨ m = .references) → s.power.failPin = true ∨ s.rom.plinthOut = true → exec (.tamperDetection m) s = .next s) ∧
    (∀ m : Monitor, (m = .coreRail ∨ m = .references → s.power.failPin = false ∧ s.rom.plinthOut = false) →
      (s.boot.inReset = false → ∃ t, exec (.tamperDetection m) s = .next t ∧ ColdStart s t ∧ t.rom.tamper = min 127 (s.rom.tamper + 1) ∧
      t.boot.inReset = false ∧ t.resetAt = s.time ∧ (t.boot.due = true ↔ s.power.failPin = false) ∧ t.boot.count = s.boot.count ∧
      t.power.trip = s.power.trip ∧ t.power.gated = s.power.gated) ∧
      (s.boot.inReset = true → exec (.tamperDetection m) s = .next { s with rom := { s.rom with tamper := min 127 (s.rom.tamper + 1) } })) ∧
    (∃ t, exec .alwaysOnPowerUp s = .next t ∧ ColdStart s t ∧ t.boot.inReset = true ∧ t.boot.count = none ∧ t.rom.tamper = 0 ∧
      t.power.trippedFlag = false ∧ t.tap = {})) ∧
  (∀ (s : State),
    (∀ k : Fin 11, k.val ∈ [1, 2, 3, 4, 5, 6, 7, 10] → s.boot.running = true → s.boot.stage = k.val →
      s.boot.stageSince + stageTimeout.getD k.val 0 * unitsPerMs ≤ s.time →
      ∃ t, exec (.bootStageTimeout k) s = .next t ∧
        (k.val ≠ 1 ∨ s.boot.count.getD 0 < 2 ∨ 2 ≤ s.boot.strap → FailedWith s t (k.val * 256 + 0xFF) ∧ t.boot.count = s.boot.count) ∧
        (k.val = 1 → 2 ≤ s.boot.count.getD 0 → s.boot.strap < 2 → InPlinth t 1 ∧ t.boot.count = some 3)) ∧
    (s.boot.running = true → s.boot.stage = 8 → s.boot.stageSince + 30000 * unitsPerMs ≤ s.time →
      ∃ t, exec (.bootStageTimeout 8) s = .next t ∧ t.boot.stage = 0xE ∧ t.boot.complete = true ∧
      t.boot.running = false ∧ t.boot.count = some 0 ∧ (s.store.inUse = false → t.store.inUse = false) ∧ SameSram s t ∧ t.rom.otp = s.rom.otp ∧
      (∀ i, i < 8 → (s.cfg.port i).enabled = true → (t.port i).phase = .training)) ∧
    (∀ a, s.boot.nextAt = some a → a ≤ s.time →
      exec .nextAttemptStart s = .next { s with boot := { s.boot with nextAt := none, due := true } }) ∧
    (∀ rest, s.boot.complete = true → s.power.mode ≠ .powerFail → s.power.gated = false →
      let otp (f : Otp → Otp) : State := { s with rom := { s.rom with fuses := rest, otp := f s.rom.otp } }
      (∀ k fail, s.rom.fuses = .revoke k :: rest →
        exec (.otpFuseProgram false fail) s = .next (otp (fun o => { o with revoke := o.revoke ||| BitVec.ofNat 4 (2 ^ k.val) })) ∧
        exec (.otpFuseProgram true fail) s = .next (otp id)) ∧
      (∀ n fail, s.rom.fuses = .arb n :: rest →
        exec (.otpFuseProgram fail false) s = .next (otp (fun o => { o with arb := o.arb ||| BitVec.ofNat 64 (2 ^ n.val) })) ∧
        exec (.otpFuseProgram fail true) s = .next { s with rom := { s.rom with fuses := [] } })))

/-! Power, voltage and temperature (chapter 15). -/

namespace Sys2Proof.Machine

/-- No tick edge comes any more, and every Spire is stopped. -/
structure Stilled (t : State) : Prop where
  tick : t.tick.halted = true ∧ t.tick.due = none ∧ t.tick.tickOut = false
  spires : ∀ sp, sp < 16 → (t.spire sp).stopped = true
  boot : t.boot.running = false ∧ t.boot.nextAt = none

/-- Every port that trains or is trained has a LEAVE record queued, and no other port has. -/
def LeaveSent (s t : State) : Prop :=
  ∀ i, i < 8 → (t.port i).ctrl = (s.port i).ctrl ++ (if (s.port i).lives = true then [⟨s.leaveRecord, none⟩] else [])

end Sys2Proof.Machine

/-- PWR_FAIL_N stops the device, sends LEAVE ahead of what waits and sets HBM aside; the blocks whose erase it aborts are noted,
and imports stay only as far as their started programs (the first of each target: log 24); the log page of R614 ends with the power-fail event. SHDN_REQ_N starts an
orderly shutdown of a booted device, is kept before that, and is ignored in Plinth mode. A shutdown closes the tick, then stops; it
persists once every started program has completed, and until then an import whose commit record is being programmed stays; after a
thermal trip it does nothing. Its memories keep their bytes. THERM_TRIP_N gates every clock, so that nothing is
under way any more and no port is trained (DEDUCED, log 30); power failure shows over clock fault (DEDUCED, log 42); a core PLL that unlocks stops the device in clock fault, with every partition published and idle; a Span
PLL that unlocks brings its port down. The memories keep their bytes. -/
def Obligations.PowerAndFaultsStop : Prop :=
  let cut (q : ImportRun) : ImportRun := { q with abandoned := true, extents := [], maps := [], wait := startedOf q.wait }
  (∀ (s u : State), s.dueEdge = u →
    (∀ erasing, u.power.failPin = false → u.boot.inReset = false → u.rom.run = none → ∃ t, exec (.pwrFailAssert erasing) s = .next t ∧ Stilled t ∧
      (∀ i, i < 8 → (t.port i).ctrl = (if (u.port i).lives = true then [⟨u.leaveRecord, none⟩] else []) ++ (u.port i).ctrl) ∧
      t.power.mode = .powerFail ∧ t.power.failPin = true ∧ t.power.shut = .none ∧
      t.core.hbmMode = (if u.core.hbmMode = .running then .powerFail else u.core.hbmMode) ∧
      t.store.staging = none ∧ t.store.imports = (u.store.imports.filter (fun q => !q.wait.isEmpty)).map cut ∧
      (∀ b ∈ erasing, u.store.good b = true → b ∈ t.store.cutErases) ∧ SameSram u t ∧ SameHbm u t ∧
      SameFlash u t ∧ SameImage u t ∧ t.rom.otp = u.rom.otp ∧ (u.host.waiting = [] → t.rom = u.rom)) ∧
    (∀ erasing, u.power.failPin = false → u.boot.inReset = true → exec (.pwrFailAssert erasing) s = .next { u with power := { u.power with failPin := true } }) ∧
    (u.rom.plinthOut = true → exec .shdnReqNAssert s = .next u) ∧
    (u.rom.plinthOut = false → u.boot.complete = false → exec .shdnReqNAssert s = .next { u with power := { u.power with shdnPin := true } }) ∧
    (u.rom.plinthOut = false → u.boot.complete = true → u.power.mode = .running → u.power.gated = false →
      ∃ t, exec .shdnReqNAssert s = .next t ∧ t.power = { u.power with shdnPin := true, mode := .shuttingDown, shut := .close, shutAt := u.time } ∧
        t.log.pos = u.log.pos + 1 ∧ { t with power := u.power, log := u.log } = u)) ∧
  (∀ (s : State),
    (s.power.mode = .powerFail → s.power.pageDone = false → s.power.gated = false →
      (∀ ok, s.store.inUse = false → exec (.powerFailLogPage ok) s = .next { s with power := { s.power with pageDone := true } }) ∧
      (s.store.inUse = true → s.store.busy (targetOf s.store.logNext) = true → ∀ ok, exec (.powerFailLogPage ok) s = .next s) ∧
      (s.store.inUse = true → s.store.busy (targetOf s.store.logNext) = false → ∀ ok, ∃ t, exec (.powerFailLogPage ok) s = .next t ∧ t.power = { s.power with pageDone := true } ∧
        t.log.pos = s.log.pos + 1 ∧ t.core = s.core ∧ (ok = false → t.store = s.store) ∧
        (ok = true → s.store.logUp = true → ∃ page : LogPage, t.store.logPages.getLast? = some page ∧ page.slots.length = s.store.logRoom ∧
          page.at_ = t.store.logAt ∧
          ∃ (before : List LogSlot) (e : EventEntry) (n : Nat), page.slots = before ++ .entry e :: List.replicate n .empty ∧ e.code = 0x0605#16))) ∧
    (s.power.mode = .shuttingDown → s.power.shut = .close → s.tickClosed = true →
      ∃ t, exec .orderlyShutdown s = .next t ∧ t.power = { s.power with shut := .stop } ∧ t.tick.halted = true ∧ t.tick.due = none ∧
        t.core = s.core ∧ t.rom = s.rom ∧ t.store = s.store ∧ t.host = s.host ∧
        (s.cfg.pod = true → LeaveSent s t ∧ ∀ p ∈ s.definedParts, (t.part p).published = true) ∧
        (s.cfg.pod = false → t.ports = s.ports ∧ t.parts = s.parts)) ∧
    (s.power.mode = .shuttingDown → s.power.shut = .stop → s.power.gated = true → exec .shutdownStopPersistHold s = .next s) ∧
    (s.power.mode = .shuttingDown → s.power.shut = .stop → s.power.gated = false → (∃ q ∈ s.store.imports, q.wait ≠ []) →
      ∃ t, exec .shutdownStopPersistHold s = .next t ∧ t.power = s.power ∧ t.store.staging = none ∧
        t.store.imports = (s.store.imports.filter (fun q => !q.wait.isEmpty)).map (fun q => if q.committing then q else cut q) ∧
        (∀ sp, sp < 16 → (t.spire sp).stopped = true) ∧ SameSram s t ∧ SameHbm s t ∧ t.rom = s.rom) ∧
    (s.power.mode = .shuttingDown → s.power.shut = .stop → s.power.gated = false → (∀ q ∈ s.store.imports, q.wait = []) →
      ∃ t, exec .shutdownStopPersistHold s = .next t ∧ t.power.mode = .shutdownDone ∧ t.power.shut = .none ∧ t.power.shutAsks = [] ∧
        t.core.hbmMode = .selfRefresh ∧ t.store.staging = none ∧ t.store.imports = [] ∧ (∀ sp, sp < 16 → (t.spire sp).stopped = true) ∧
        (s.store.inUse = true → s.store.failing = [] → t.store.sinceCheckpoint = 0) ∧ SameSram s t ∧ SameHbm s t ∧
        SameFlash s t ∧ SameImage s t ∧ t.rom.otp = s.rom.otp ∧ (s.host.waiting = [] → t.rom = s.rom)) ∧
    (∀ u, s.dueEdge = u → u.rom.run = none → ∃ t, exec .thermTrip s = .next t ∧ t.power = { u.power with trip := true, trippedFlag := true, gated := true } ∧
      t.tick.halted = true ∧ t.tick.due = none ∧ (∀ sp e, (t.spire sp).unit e = []) ∧ t.core.pushes = [] ∧ t.core.twrites = [] ∧
      (∀ i, (t.port i).trained = false) ∧ t.store.staging = none ∧ t.store.imports = [] ∧ SameSram u t ∧ SameHbm u t ∧ t.rom = u.rom) ∧
    (∀ east u, s.dueEdge = u → u.boot.inReset = false → u.power.target ≠ 0 → u.rom.plinthOut = false → u.power.gated = false →
      u.power.mode ∉ [.powerFail, .shutdownDone, .clockFault] →
      ∃ t, exec (.corePllUnlock east) s = .next t ∧ Stilled t ∧ t.power.mode = .clockFault ∧
        (∀ p, p < 16 → (t.part p).published = true ∧ (t.part p).phase = .idle) ∧
        (u.store.inUse = false → t.log.pos = u.log.pos + 1) ∧ SameSram u t ∧ SameHbm u t ∧ t.rom = u.rom) ∧
    (∀ port : Fin 8, (s.port port.val).phase ∉ [.off, .down] →
      ∃ t, exec (.spanPllUnlock port) s = .next t ∧ (t.port port.val).phase = .down ∧ (t.port port.val).width = 0 ∧
        (∀ j, j ≠ port.val → t.port j = s.port j) ∧ t.log.pos = s.log.pos + (if (s.port port.val).width = 0 then 1 else 2) ∧
        SameMemory s t ∧ t.core = s.core ∧ t.parts = s.parts ∧ t.power = s.power))

/-- The voltage loop follows the smallest slack: up 5 mV below the margin, down 2.5 mV after 100 readings of half as much
again, within the profile's range, whether the bus answers or not; ten transactions in a row without an answer (a tick of the loop
is two reads, and a write where the target changes; a read of the rail temperature is one, log 31), or ten read-backs more than 30 mV off, are a fault, which stops the loop until a read-back at a retry
is good. The rail temperature is kept. Every 72 sensors give Tj as their highest reading, and one below -25 °C is a tamper
detection; every six stacks Th and the refresh
rate of each, and a highest reading that does not lie below its unshed threshold is noted with its moment; error counts of the stacks add up. -/
def Obligations.SupervisionReads : Prop :=
  ∀ (s : State),
    (s.voltLoop = true → s.power.avsFault = false →
      let faults (t : State) (target : Nat) : Prop := t.power.avsFault = true ∧ t.power.avsRetryAt = s.time + 100 * unitsPerMs ∧
        t.power.target = target ∧ t.log.pos = s.log.pos + 1 ∧ t.core = s.core ∧ t.tick = s.tick
      (∀ slack, s.power.avsMissed < 8 → s.power.avsOff < 10 →
        let q := s.power.adjust s.cfg.profile s.rom.otp.pmMargin.toNat slack
        let n := s.power.avsMissed + (if q.target = s.power.target then 2 else 3)
        (n < 10 → exec (.avsLoopTick none slack) s = .next { s with power := { q with avsMissed := n } }) ∧
        (10 ≤ n → ∃ t, exec (.avsLoopTick none slack) s = .next t ∧ faults t q.target)) ∧
      (∀ slack, 8 ≤ s.power.avsMissed → ∃ t, exec (.avsLoopTick none slack) s = .next t ∧ faults t s.power.target) ∧
      (s.power.avsMissed < 9 → s.power.avsOff < 10 →
        exec (.avsRailTempRead none) s = .next { s with power := { s.power with avsMissed := s.power.avsMissed + 1 } }) ∧
      (9 ≤ s.power.avsMissed → ∃ t, exec (.avsRailTempRead none) s = .next t ∧ faults t s.power.target) ∧
      (∀ n, s.power.avsMissed < 10 → s.power.avsOff < 10 →
        exec (.avsRailTempRead (some n)) s = .next { s with power := { s.power with railTemp := some n, avsMissed := 0 } } ∧
        ∀ v, exec (.avsRailTempRead (some n) (some (some v))) s =
          .next { s with power := { s.power with railTemp := some n, avsMissed := 0, avsStatus := some v } }) ∧
      (∀ a slack, a.noVolt = false → 60 < s.power.voltError a.mv → s.power.avsOff = 9 →
        ∃ t, exec (.avsLoopTick (some a) slack) s = .next t ∧ faults t s.power.target ∧ t.power.mv = a.mv) ∧
      (∀ a slack, a.noVolt = false → a.noAmp = false → a.noWrite = false → a.alert ≠ some none → s.power.avsMissed < 10 →
        s.power.voltError a.mv ≤ 60 →
        let margin : Int := s.rom.otp.pmMargin.toNat
        ∃ t, exec (.avsLoopTick (some a) slack) s = .next t ∧ { t with power := s.power } = s ∧
          t.power.mv = a.mv ∧ t.power.ma = a.ma ∧ t.power.avsMissed = 0 ∧ t.power.avsOff = 0 ∧ t.power.avsFault = false ∧
          (∀ v, a.alert = some (some v) → t.power.avsStatus = some v) ∧ (a.alert = none → t.power.avsStatus = s.power.avsStatus) ∧
          (slack < margin → t.power.target = min (s.power.target + 10) s.cfg.profile.voltRange.2 ∧ t.power.slackRun = 0) ∧
          (¬slack < margin → 3 * margin ≤ 2 * slack → s.power.slackRun = 99 →
            t.power.target = max (s.power.target - 5) s.cfg.profile.voltRange.1 ∧ t.power.slackRun = 0) ∧
          (¬slack < margin → 3 * margin ≤ 2 * slack → s.power.slackRun ≠ 99 → t.power.target = s.power.target ∧ t.power.slackRun = s.power.slackRun + 1) ∧
          (¬slack < margin → ¬3 * margin ≤ 2 * slack → t.power.target = s.power.target ∧ t.power.slackRun = 0))) ∧
    (s.voltLoop = true → s.power.avsFault = true → s.power.avsRetryAt ≤ s.time →
      exec (.avsbusRetry none) s = .next { s with power := { s.power with avsRetryAt := s.time + 100 * unitsPerMs } } ∧
      ∀ a, ∃ t, exec (.avsbusRetry (some a)) s = .next t ∧ t.power.mv = a.mv ∧ t.power.target = s.power.target ∧ t.core = s.core ∧
        (t.power.avsFault = false ↔ s.power.voltError a.mv ≤ 60) ∧ t.log.pos = s.log.pos + (if s.power.voltError a.mv ≤ 60 then 1 else 0)) ∧
    (∀ n, s.voltLoop = true → s.power.avsFault = true →
      exec (.avsRailTempRead (some n)) s = .next { s with power := { s.power with railTemp := some n } }) ∧
    (∀ (rs : List Int) u, s.dueEdge = u → u.boot.inReset = false → rs.length = 72 →
      ((∀ r ∈ rs, -25 ≤ r) → ∃ t, exec (.tempSample rs) s = .next t ∧
        t.power.tj ∈ rs ∧ (∀ r ∈ rs, r ≤ t.power.tj) ∧ { t with power := u.power, tick := u.tick } = u ∧ t.power = { u.power with tj := t.power.tj } ∧
        t.tick = { u.tick with warmAt := if t.power.tj < u.cfg.profile.dieShed.2 then u.tick.warmAt else some u.time }) ∧
      ((∃ r ∈ rs, r < -25) → ∃ t, exec (.tempSample rs) s = .next t ∧ t.rom.tamper = min 127 (u.rom.tamper + 1) ∧ t.resetAt = u.time ∧
        (u.rom.run = none → u.tap.job = none → ColdStart u t))) ∧
    (∀ (rs : List Int) u, s.dueEdge = u → u.core.hbmMode ≠ .held → rs.length = 6 → ∃ t top, exec (.hbmTempRead rs) s = .next t ∧
      t.power = { u.power with th := some top } ∧ top ∈ rs ∧ (∀ r ∈ rs, r ≤ top) ∧ SameMemory u t ∧ t.parts = u.parts ∧
      t.tick = { u.tick with warmAt := if top < hbmShed.2 then u.tick.warmAt else some u.time } ∧
      ∀ i r, rs[i]? = some r → Tbl.get {} i t.core.hbmStacks = { Tbl.get {} i u.core.hbmStacks with temp := r, doubleRefresh := decide (85 < r) }) ∧
    (∀ (ns : List Nat) (soft : List (Nat × BurstRec)), s.core.hbmMode ≠ .held → ns.length = 6 → ∃ t, exec (.hbmEcsRead ns soft) s = .next t ∧ { t with core := s.core } = s ∧
      SameSram s t ∧ SameHbm s t ∧ t.core.spires = s.core.spires ∧ t.core.hbmBad = s.core.hbmBad ∧
      ∀ i n, ns[i]? = some n → (Tbl.get {} i t.core.hbmStacks).ce = sat32 (Tbl.get {} i s.core.hbmStacks).ce n)

/-! The tick (chapter 2). -/

namespace Sys2Proof.Machine

/-- An edge has been decided at a moment that has come: in a tick root it is due BEACON_DELAY later and every downstream port
has the beacon queued, in any other device it is due at that moment. -/
structure EdgeDecided (s t : State) (cause : EdgeCause) (idle : Bool) (t0 : Nat) : Prop where
  root : s.cfg.isRoot = true → t.tick.due = some (cause, t0 + s.cfg.beaconDelay * unitsPerNs, idle) ∧
    ∀ i ∈ portsOf s.cfg.beaconDown, (t.port i).ctrl =
      (s.port i).ctrl ++ [⟨beaconRecord 0 idle s.cfg.rootId 0 s.nextTick s.cfg.podId, some t0⟩]
  alone : s.cfg.isRoot = false → t.tick.due = some (cause, t0, idle) ∧ t.ports = s.ports
  noted : t.tick.decided = t0 ∧ t.tick.periodDone = false ∧ t.tick.count = s.tick.count
  others : t.core = s.core ∧ t.parts = s.parts ∧ t.rom = s.rom ∧ t.store = s.store

end Sys2Proof.Machine

/-- Sources of edges. A TICK_IN edge that comes before 99.5 % of the period is counted and makes none; else, in store class,
it makes an edge, and ends a run of missed ones. From 100.5 % on an edge is made without it, counted and logged. A timer that
has completed its period makes one: the internal one at the first count of the reference from then on, the PTM-disciplined
one within 200 ppm of the period. Periods run from the decision of the latest edge, and a pod root's source waits for the barrier
(DEDUCED, log 36); the PTM correction is spread over the period (DESIGN CHOICE, log 15), and the internal timer makes edge 0 at its
first count (DEDUCED, log 35). In pod class the end of the source's period waits until every device has published, and then
makes the edge; edge 0 waits for the boot DONE records, and for the phase of the PTM-disciplined timer where that is the source. -/
def Obligations.TickSources : Prop :=
  ∀ (s : State), s.ticking = true → s.cfg.follows = false →
    let down := portsOf s.cfg.beaconDown
    let idle := s.tick.idleAsked || s.tick.idleReq
    (s.cfg.tickSource = .tickIn → ∀ n, s.tick.count = some n → s.time - s.tick.decided < s.periodPart 995 →
      exec .tickInEdge s = .next { s with tick := { s.tick with early := sat32 s.tick.early 1 } }) ∧
    (s.tick.due = none → s.tick.periodDone = false →
      (s.cfg.tickSource = .tickIn → (s.tick.count = none ∨ s.periodPart 995 ≤ s.time - s.tick.decided) →
        (s.cfg.pod = false → ∃ t, exec .tickInEdge s = .next t ∧ EdgeDecided s t .tickIn false s.time ∧ t.tick.missedRun = 0 ∧
          t.tick.early = s.tick.early ∧ t.log.pos = s.log.pos + (if s.tick.missedRun = 0 then 0 else 1)) ∧
        (s.cfg.pod = true → s.tick.missedRun = 0 → ∀ n, s.tick.count = some n →
          (s.barrierClosed = true → ∃ t, exec .tickInEdge s = .next t ∧ EdgeDecided s t .root idle s.time) ∧
          (s.barrierClosed = false → exec .tickInEdge s = .next { s with tick := { s.tick with periodDone := true } }))) ∧
      (s.cfg.tickSource = .tickIn → s.cfg.pod = false → ∀ n, s.tick.count = some n →
        let t0 := s.tick.decided + s.periodPart 1005
        (s.reached t0 = true → ∃ t, exec .tickInMissed s = .next t ∧ EdgeDecided s t .missed false t0 ∧ t.tick.missed = sat32 s.tick.missed 1 ∧
          t.tick.missedRun = s.tick.missedRun + 1 ∧ t.log.pos = s.log.pos + 1) ∧
        (s.reached t0 = false → exec .tickInMissed s = .next s)) ∧
      (s.cfg.pod = false → ∀ t0, s.timerMoment = some t0 →
        (s.reached t0 = true → ∃ t, exec .internalTimerExpiry s = .next t ∧ EdgeDecided s t .timer false t0 ∧ t.log = s.log) ∧
        (s.reached t0 = false → exec .internalTimerExpiry s = .next s) ∧
        (∀ n, s.tick.count = some n → s.resetAt ≤ s.tick.decided →
          (s.cfg.tickSource = .internal → s.tick.decided + s.periodUnits ≤ t0 ∧ t0 < s.tick.decided + s.periodUnits + refUnits) ∧
          (s.cfg.tickSource = .ptm → s.tick.ptmLostLogged = false →
            s.tick.decided + s.periodUnits ≤ t0 + s.periodUnits * 200 / 1000000 ∧ t0 ≤ s.tick.decided + s.periodUnits + s.periodUnits * 200 / 1000000)))) ∧
    (s.cfg.pod = true → s.tick.due = none → (s.cfg.tickSource = .ptm → s.tick.ptmLock = true) →
      (s.tick.count = none → (∀ i ∈ down, bit1 s.tick.bootDone i = true) →
        let t0 := s.phaseMoment
        (s.cfg.tickSource ≠ .ptm → t0 = s.time) ∧
        (s.cfg.tickSource = .ptm → 0 < s.cfg.periodUs → s.resetAt ≤ s.time → s.cfg.follows = false → 0 ≤ s.tick.ptmOffset →
          s.time ≤ t0 ∧ s.cfg.periodUs * 1000 ∣ s.nsAt t0 + (s.cfg.periodUs * 1000 - s.cfg.ptmPhaseNs % (s.cfg.periodUs * 1000))) ∧
        (s.reached t0 = true → ∃ t, exec .tickRootDecide s = .next t ∧ EdgeDecided s t .root false t0) ∧
        (s.reached t0 = false → exec .tickRootDecide s = .next s)) ∧
      (∀ n, s.tick.count = some n → s.tick.periodDone = true → s.tick.ownDone = true →
        (∀ i ∈ down, bit1 s.tick.doneFrom i = true) → s.power.shut = .none →
        ∃ t, exec .tickRootDecide s = .next t ∧ EdgeDecided s t .root idle s.time) ∧
      ((∃ i ∈ down, bit1 s.tick.doneFrom i = false ∧ bit1 s.tick.bootDone i = false) → exec .tickRootDecide s = .next s))

/-- A tick edge that is due is made in the ccyc it falls in: the counter moves on, or takes the beacon's number; TICK_OUT rises,
and the ingest freeze lasts 4 µs from the edge. Every defined partition begins the tick, unpublished, and in an idle period with the status SHED due (log 37). In an orderly shutdown of store class the edge counts and takes its timestamp too, only closes the tick in progress, and is the last. TICK_OUT falls 1 µs later. -/
def Obligations.TickEdgeBegins : Prop :=
  ∀ (s : State),
    (∀ cause a idle, s.tick.due = some (cause, a, idle) → s.ticking = true → s.reached a = true →
      ∃ t, exec .tickEdge s = .next t ∧ t.tick.due = none ∧ SameSram s t ∧ t.rom = s.rom ∧
        let n := match cause with
          | .beacon k => k
          | _ => s.nextTick
        t.tick.count = some n ∧ t.tick.stamp = s.nsAt a ∧ t.tick.lastEdge = a ∧
        (s.power.shut = .close → t.tick.halted = true ∧ t.tick.tickOut = s.tick.tickOut) ∧
        (s.power.shut ≠ .close → t.tick.tickOut = true ∧ t.tick.idle = idle ∧
          t.tick.frozenUntil = some (a + 4 * unitsPerUs) ∧ t.boot.stage = 0xF ∧
          (s.cfg.pod = false ∨ s.definedParts ≠ [] → t.tick.ownDone = false ∧ t.tick.doneSent = false) ∧
          (s.cfg.pod = true → s.definedParts = [] → t.tick.ownDone = true) ∧
          ∀ p ∈ s.definedParts, s.cfg.pod = false ∨ (s.part p).published = true →
            (t.part p).tickNo = n ∧ (t.part p).published = false ∧ (t.part p).phase ∈ [.idle, .unfit, .waiting] ∧
            ((t.part p).due.isSome = true → (t.part p).phase = .idle) ∧ (idle = true → (t.part p).due = some .shed))) ∧
    (∀ cause a idle, s.tick.due = some (cause, a, idle) → s.reached a = false → exec .tickEdge s = .next s) ∧
    (s.tick.tickOut = true → s.tick.lastEdge + unitsPerUs ≤ s.time →
      exec .tickOutFall s = .next { s with tick := { s.tick with tickOut := false } })

/-- When the ingest freeze ends, a partition with a status due publishes it, in its status ring where it is the only one, and
one that waits, with its roster loaded and no drain going on, opens its run window at count 0. A roster whose load is complete
starts: its plan and its Span programs are in force and its fill frames read 0; once the ingest freeze is over, a partition that waits
opens its run window then. -/
def Obligations.RunWindowsOpen : Prop :=
  ∀ (s : State), s.ticking = true →
    (∀ a, s.tick.frozenUntil = some a → a ≤ s.time → ∃ t, exec .runWindowOpen s = .next t ∧ t.tick.frozenUntil = none ∧ t.rom = s.rom ∧
      ∀ p ∈ s.definedParts,
        (∀ st, (s.part p).due = some st → s.underScrub p (s.pcfg p).statusWindow = false → (t.part p).published = true ∧ (t.part p).last = some st ∧ (t.part p).due = none ∧
          (t.part p).statusPi = ((s.part p).statusPi + 1) % 2 ^ 32 ∧
          (s.definedParts = [p] →
            let c := s.pcfg p
            let slot := if c.statusSlots = 0 then 0 else s.tickWord % c.statusSlots
            t.hbmRead ((s.cfg.window p c.statusWindow).addr (c.statusOff + 64 * slot)) 64 = s.statusRecord p st (s.part p).dueRun 0)) ∧
        ((s.part p).due = none → (s.part p).phase = .waiting → (s.part p).loading = false → (s.part p).draining = false →
          (t.part p).phase ∈ [.run, .drain] ∧ (t.part p).ccyc = 0)) ∧
    (∀ (p : Fin 16) (r : RosterCfg) (cups : List CupolaUpset) (bursts : List (Nat × BurstRec)), (s.part p.val).loading = true → (s.part p.val).draining = false →
      s.activeRoster p.val = some r → s.core.hbmBad = [] → s.goesOn = true →
      ∃ t, exec (.rosterLoadDone p cups bursts) s = .next t ∧ t.rom = s.rom ∧
        (∀ a, s.tick.frozenUntil = some a → SameSram s t ∧ t.log.pos = s.log.pos + 1 ∧
          t.part p.val = { s.part p.val with plan := r.plan, loading := false, answers := none, lateRun := 0 }) ∧
        (s.tick.frozenUntil = none → (s.part p.val).phase = .waiting → (s.part p.val).due = none →
          (t.part p.val).phase ∈ [.run, .drain] ∧ (t.part p.val).ccyc = 0 ∧ (t.part p.val).windowTick = (s.part p.val).tickNo ∧
          (t.part p.val).plan = r.plan ∧ (t.part p.val).loading = false ∧ (t.part p.val).answers = none ∧ (t.part p.val).lateRun = 0) ∧
        (∀ i, i < 8 → ((t.port i).lane p.val).program = r.programs.find? (fun g => decide (g.port = i))) ∧
        let fill (c : RingCfg) (b : Nat) : Prop :=
          (s.cfg.window p.val c.window).addr c.fillOff ≤ b ∧ b < (s.cfg.window p.val c.window).addr c.fillOff + c.chunks * c.chunk
        (∀ c ∈ (s.pcfg p.val).rings, ∀ b, fill c b → t.hbmByte b = 0#8) ∧
        (∀ b, (∀ c ∈ (s.pcfg p.val).rings, ¬fill c b) → t.hbmByte b = s.hbmByte b))

/-- A drain that completes begins the publish step of 3 µs; the drain of a late tick passes over that tick's frames, and
once the ingest freeze is over, a partition that waits with its roster loaded opens its run window then. A reset
whose partition is quiet clears its tiles, its slot-store regions, its freezes and its carried state, passes over the frames
published so far, and goes on to scrub its windows. -/
def Obligations.DrainsAndResetsEnd : Prop :=
  ∀ (s : State) (p : Fin 16),
    let x := s.part p.val
    let rings := (s.pcfg p.val).rings.length
    (x.phase = .drain → s.drainDone p.val = true →
      exec (.drainComplete p) s = .next (s.setPart p.val { x with phase := .publish, publishEnd := s.time + 3 * unitsPerUs })) ∧
    (x.draining = true → s.stopDrained p.val = true →
      ∃ t, exec (.lateDrainDone p) s = .next t ∧ (t.part p.val).draining = false ∧ t.tick = s.tick ∧
        (∀ a, s.tick.frozenUntil = some a → (t.part p.val).phase = x.phase ∧ SameMemory s t ∧ t.core = s.core) ∧
        (s.tick.frozenUntil = none → s.tick.halted = false → x.phase = .waiting → x.loading = false → x.due = none →
          (t.part p.val).phase ∈ [.run, .drain] ∧ (t.part p.val).ccyc = 0 ∧ (t.part p.val).windowTick = x.tickNo) ∧
        ∀ i, i < rings → ((t.part p.val).ring i).ci = (x.ring i).lateTo.getD (x.ring i).ci ∧ ((t.part p.val).ring i).lateTo = none) ∧
    (x.reset = .quiesce → s.quiesced p.val = true → s.goesOn = true → s.scrubWindows p.val ≠ [] →
      let mine (k : Nat) : Prop := k ∈ s.spiresOf p.val
      ∃ t, exec (.resetQuiesced p) s = .next t ∧ (t.part p.val).reset = .scrub ∧ (t.part p.val).scrubs = s.scrubWindows p.val ∧
        (∀ tile a, (mine (spireOfTile tile) → t.sramByte tile a = 0#8) ∧ (¬mine (spireOfTile tile) → t.sramByte tile a = s.sramByte tile a)) ∧
        (∀ sp, mine sp → (t.spire sp).frozen = 0#6 ∧ (t.spire sp).queues = [] ∧ (t.spire sp).stopped = true) ∧ (∀ sp, ¬mine sp → t.spire sp = s.spire sp) ∧
        (∀ i b, i < 8 → let l := s.cfg.lane p.val i
          Tbl.get 0#8 b (t.port i).store = if l.base ≤ b ∧ b < l.base + l.size then 0#8 else Tbl.get 0#8 b (s.port i).store) ∧
        (t.part p.val).sel = false ∧ (t.part p.val).lateRun = 0 ∧ (t.part p.val).parked = false ∧ (t.part p.val).slotsFrozen = 0#8 ∧
        (t.part p.val).frzHost = 0#32 ∧ SameHbm s t ∧ t.rom = s.rom ∧ t.log.pos = s.log.pos + 1 ∧
        ∀ i, i < rings → ((t.part p.val).ring i).ci = (x.ring i).pi ∧ ((t.part p.val).ring i).frames = [] ∧
          ((t.part p.val).ring i).discard = sat32 (x.ring i).discard (x.ring i).frames.length)

/-- A device runs a PTM exchange when 10 ms have passed since its latest one, and none before; a successful one gives the PTM time and
ends a loss; 1 s without one is logged. A device that takes its edges from
beacons ignores both. A pod stall is logged for each device that has not published. The stall sentinel logs the blocked Spires
of a partition stalled for a period, and freezes every Spire of one stalled for three. -/
def Obligations.PtmAndStalls : Prop :=
  ∀ (s : State),
    (s.cfg.tickSource = .ptm → s.cfg.follows = false → s.boot.complete = true → s.host.ptmEnable = true → ∀ ns err,
      (s.ptmDue = false → ∀ ok, exec (.ptmExchange ok ns err) s = .next s) ∧
      (s.ptmDue = true → exec (.ptmExchange false ns err) s = .next { s with tick := { s.tick with ptmRunAt := some s.time } }) ∧
      (s.ptmDue = true → ∃ t, exec (.ptmExchange true ns err) s = .next t ∧ t.tick.ptmLock = true ∧ t.tick.ptmAt = s.time ∧ t.tick.ptmLostLogged = false ∧
        t.nowNs = ns.toNat ∧ t.core = s.core ∧ t.parts = s.parts ∧
        t.log.pos = s.log.pos + (if s.tick.ptmLostLogged = true then 1 else 0))) ∧
    (s.cfg.follows = true → (∀ ok ns err, exec (.ptmExchange ok ns err) s = .next s) ∧ exec .ptmLost s = .next s) ∧
    (s.cfg.tickSource = .ptm → s.cfg.follows = false → s.tick.ptmLock = true → s.tick.ptmLostLogged = false →
      s.tick.ptmAt + 1000000 * unitsPerUs ≤ s.time →
      ∃ t, exec .ptmLost s = .next t ∧ t.tick = { s.tick with ptmLostLogged := true } ∧ t.log.pos = s.log.pos + 1 ∧ t.core = s.core ∧ t.parts = s.parts) ∧
    (∀ waiting n, s.ticking = true → s.cfg.pod = true → s.cfg.follows = false → s.tick.count = some n → s.tick.due = none →
      s.tick.decided + s.periodUnits + (s.tick.stalls + 1) * s.stretchUnits < s.time →
      let m := (if s.unpublished = 0 then 0 else 1) + (waiting.filter (fun d => decide (d.1.toNat ≠ s.cfg.deviceId))).length
      (m = 0 → exec (.podStall waiting) s = .next s) ∧
      (m ≠ 0 → ∃ t, exec (.podStall waiting) s = .next t ∧ t.tick = { s.tick with stalls := s.tick.stalls + 1 } ∧
        t.log.pos = s.log.pos + m ∧ t.core = s.core ∧ t.parts = s.parts)) ∧
    (∀ p : Fin 16, let x := s.part p.val
      (s.cfg.pod = false ∨ x.phase ≠ .run ∨ s.stalled p.val = false →
        exec (.podStallSentinel p) s = .next (s.setPart p.val { x with stalledSince := none, stalledFor := 0 })) ∧
      (s.cfg.pod = true → x.phase = .run → s.stalled p.val = true → s.periodUnits ≠ 0 →
        (x.stalledSince = none → exec (.podStallSentinel p) s = .next (s.setPart p.val { x with stalledSince := some s.time, stalledFor := 0 })) ∧
        (∀ a, x.stalledSince = some a → x.stalledFor = 0 → s.periodUnits ≤ s.time - a → s.time - a < 3 * s.periodUnits →
          ∃ t, exec (.podStallSentinel p) s = .next t ∧ t.part p.val = { x with stalledFor := 1 } ∧ t.core = s.core ∧
            t.log.pos = s.log.pos + 2 * ((s.planSpires p.val).filter (s.blocked p.val)).length) ∧
        (∀ a, x.stalledSince = some a → 3 * s.periodUnits ≤ s.time - a → x.reset = .none → (∀ sp ∈ s.spiresOf p.val, s.owner sp = some p.val) →
          ∃ t, exec (.podStallSentinel p) s = .next t ∧ (∀ sp ∈ s.spiresOf p.val, bit1 (t.spire sp).frozen 0 = true) ∧ SameMemory s t)))

/-! The pod (chapter 11). -/

namespace Sys2Proof.Machine

/-- Nothing but the tick, the ports, the log and the host's interrupts has changed. -/
def PodOnly (s t : State) : Prop := { t with tick := s.tick, ports := s.ports, log := s.log, host := s.host } = s

/-- A control record waits on every downstream port. -/
def SentDown (s t : State) (r : CtrlOut) : Prop :=
  ∀ i, (t.port i).ctrl = (s.port i).ctrl ++ (if i ∈ portsOf s.cfg.beaconDown then [r] else [])

end Sys2Proof.Machine

/-- A beacon on the upstream port places this device's edge BEACON_DELAY after the root's decision, goes out downstream with
one more hop and the delay so far, and ends a beacon loss. One that comes too late for that makes the edge at once, and is
counted and logged once in 256 ticks, a run of them beginning at a multiple of 256 (DEDUCED, log 26). A device in its pod whose edges
have stopped goes on forwarding it. HOLD goes downstream and counts as heard. -/
def Obligations.BeaconsPlaceEdges : Prop :=
  (∀ (s : State) (port : Fin 8) (rec : BeaconRec), s.boot.complete = true → s.tick.left = false → s.tick.halted = true → s.cfg.follows = true →
    port.val = s.cfg.beaconUp → (s.port port.val).trained = true → rec.podId.toNat = s.cfg.podId →
    let idle := s.cfg.pod && rec.idle
    ∃ t, exec (.beacon port rec) s = .next t ∧ PodOnly s t ∧ t.tick = { s.tick with heard := s.time, lostAt := none } ∧
      SentDown s t ⟨beaconRecord (rec.hops.toNat + 1) idle rec.rootId.toNat (rec.delay.toNat + 16 * (s.port port.val).linkNs.getD 0) rec.tick.toNat rec.podId.toNat, some s.time⟩) ∧
  ∀ (s : State) (port : Fin 8) (rec : BeaconRec), s.ticking = true →
    (s.cfg.follows = true → port.val = s.cfg.beaconUp → (s.port port.val).trained = true → rec.podId.toNat = s.cfg.podId →
      let link := (s.port port.val).linkNs.getD 0
      let delay := rec.delay.toNat * unitsPerNs / 16 + link * unitsPerNs
      let idle := s.cfg.pod && rec.idle
      ∃ t, exec (.beacon port rec) s = .next t ∧ PodOnly s t ∧
        SentDown s t ⟨beaconRecord (rec.hops.toNat + 1) idle rec.rootId.toNat (rec.delay.toNat + 16 * link) rec.tick.toNat rec.podId.toNat, some s.time⟩ ∧
        t.tick.heard = s.time ∧ t.tick.lostAt = none ∧ t.tick.count = s.tick.count ∧
        (delay ≤ s.cfg.beaconDelay * unitsPerNs →
          t.tick.due = some (.beacon rec.tick.toNat, s.time + s.cfg.beaconDelay * unitsPerNs - delay, idle) ∧ t.tick.beaconLate = s.tick.beaconLate ∧ t.log = s.log) ∧
        (s.cfg.beaconDelay * unitsPerNs < delay →
          t.tick.due = some (.beacon rec.tick.toNat, s.time, idle) ∧ t.tick.beaconLate = sat32 s.tick.beaconLate 1 ∧
          t.log.pos = s.log.pos + (if s.tick.beaconLateRun = some (rec.tick.toNat / 256) then 0 else 1))) ∧
    (s.cfg.isRoot = true → s.tick.heard + 100 * unitsPerUs ≤ s.time → ∀ tick podId,
      ∃ t, exec (.hold none tick podId) s = .next t ∧ PodOnly s t ∧ t.tick = { s.tick with heard := s.time } ∧
        SentDown s t ⟨holdRecord s.tickWord s.cfg.podId, none⟩) ∧
    (∀ tick podId, s.cfg.follows = true → port.val = s.cfg.beaconUp → (s.port port.val).trained = true → podId.toNat = s.cfg.podId →
      ∃ t, exec (.hold (some port) tick podId) s = .next t ∧ PodOnly s t ∧ t.tick = { s.tick with heard := s.time } ∧
        SentDown s t ⟨holdRecord tick.toNat s.cfg.podId, none⟩)

/-- A DONE from below is noted once for the tick in progress, or for the boot. When this device has published and every port
below has reported, it reports upstream, with the devices counted. A device whose boot and whose children's boots are
complete reports its boot upstream. 1 ms without BEACON and HOLD is a beacon loss, which is logged. When it has lasted too
long the device leaves its pod: LEAVE goes out on every port that trains or is trained, no edge is made any more, and status records
that wait for a scrub are dropped. A neighbour's LEAVE is
noted on its port and logged. -/
def Obligations.PodReportsAndLeaves : Prop :=
  (∀ (s : State) (port : Fin 8) (rec : DoneRec), s.cfg.pod = true →
    (bitOf s.cfg.beaconDown port.val = true → (s.port port.val).trained = true → rec.podId.toNat = s.cfg.podId →
      let i := port.val
      let bit := BitVec.ofNat 8 (2 ^ i)
      let n := s.tick.doneDevices + rec.devices.toNat
      (rec.tick.toNat = 2 ^ 64 - 1 → bit1 s.tick.bootDone i = false →
        exec (.done port rec) s = .next { s with tick := { s.tick with bootDone := s.tick.bootDone ||| bit, doneDevices := n } }) ∧
      (rec.tick.toNat ≠ 2 ^ 64 - 1 → some rec.tick.toNat ≠ s.tick.count → exec (.done port rec) s = .next s) ∧
      (rec.tick.toNat ≠ 2 ^ 64 - 1 → some rec.tick.toNat = s.tick.count → bit1 s.tick.doneFrom i = false →
        let noted := { s.tick with doneFrom := s.tick.doneFrom ||| bit, idleReq := s.tick.idleReq || rec.idleReq, doneDevices := n }
        (s.tick.ownDone = false → exec (.done port rec) s = .next { s with tick := noted }) ∧
        (s.tick.ownDone = true → s.tick.doneSent = false → s.cfg.follows = true →
          (∀ j ∈ portsOf s.cfg.beaconDown, bit1 noted.doneFrom j = true) →
          ∃ t, exec (.done port rec) s = .next t ∧ PodOnly s t ∧ t.tick = { noted with doneSent := true } ∧
            (t.port s.cfg.beaconUp).ctrl = (s.port s.cfg.beaconUp).ctrl ++
              [⟨doneRecord (noted.idleReq || s.tick.idleAsked) (n + 1) rec.tick.toNat s.cfg.podId, none⟩]))) ∧
    (s.boot.complete = true → s.cfg.follows = true → s.tick.bootDoneSent = false →
      (∀ j ∈ portsOf s.cfg.beaconDown, bit1 s.tick.bootDone j = true) →
      ∃ t, exec .bootDonePod s = .next t ∧ PodOnly s t ∧ t.tick = { s.tick with bootDoneSent := true } ∧
        (t.port s.cfg.beaconUp).ctrl = (s.port s.cfg.beaconUp).ctrl ++
          [⟨doneRecord false (s.tick.doneDevices + 1) (2 ^ 64 - 1) s.cfg.podId, none⟩])) ∧
  (∀ (s : State),
    (s.cfg.follows = true → s.ticking = true → s.tick.lostAt = none → s.tick.heard + unitsPerMs ≤ s.time →
      ∃ t, exec .beaconLost s = .next t ∧ PodOnly s t ∧ t.tick = { s.tick with lostAt := some s.time } ∧ t.ports = s.ports ∧ t.log.pos = s.log.pos + 1) ∧
    (s.cfg.follows = true → s.ticking = true → s.mustLeave = true →
      ∃ t, exec .leftPod s = .next t ∧ PodOnly { s with parts := t.parts } t ∧
        (∀ p, t.part p = { s.part p with heldWrites := if p ∈ s.definedParts then (s.part p).heldWrites.filter (fun h => h.2.2.2.isNone)
          else (s.part p).heldWrites }) ∧ t.tick = { s.tick with left := true, due := none } ∧ LeaveSent s t ∧ t.ticking = false ∧
        t.log.pos = s.log.pos + 1) ∧
    (s.cfg.follows = true → s.ticking = true → s.mustLeave = false → exec .leftPod s = .next s) ∧
    (∀ (port : Fin 8) dev (podId : W32), (s.port port.val).trained = true → (s.port port.val).partnerLeft = false → podId.toNat = s.cfg.podId →
      ∃ t, exec (.leave port dev podId) s = .next t ∧ PodOnly s t ∧ t.tick = s.tick ∧ t.port port.val = { s.port port.val with partnerLeft := true } ∧
        (∀ j, j ≠ port.val → t.port j = s.port j) ∧ t.mayCarry port.val = false ∧ t.log.pos = s.log.pos + 1))

/-! Span ports (chapter 11). -/

namespace Sys2Proof.Machine

/-- Nothing but one port, the log and the host's interrupts has changed, and its slot store keeps its bytes. -/
structure PortOnly (s t : State) (i : Nat) : Prop where
  outside : { t with ports := s.ports, log := s.log, host := s.host } = s
  others : ∀ j, j ≠ i → t.port j = s.port j
  store : ∀ a, Tbl.get 0#8 a (t.port i).store = Tbl.get 0#8 a (s.port i).store

/-- A port has gone down, and lost its width. -/
def WentDown (s t : State) (i : Nat) : Prop :=
  PortOnly s t i ∧ (t.port i).phase = .down ∧ (t.port i).width = 0 ∧ t.log.pos = s.log.pos + (if (s.port i).width = 0 then 1 else 2)

/-- Retrains of a port in the latest second. -/
def State.recentRetrains (s : State) (i : Nat) : Nat :=
  ((s.port i).retrainTimes.filter (fun t => decide (s.time - t ≤ 1000 * unitsPerMs))).length

end Sys2Proof.Machine

/-- The two ends of a port meet: a partner whose LINK record matches, and a measured LINK_NS, bring a port into use; a record
or a LINK_NS, half the round trip rounded down (DEDUCED, log 26), that doesn't fit refuses the partner. A PING is answered by a PONG with the time. Credits come back. -/
def Obligations.PortsMeet : Prop :=
  ∀ (s : State) (port : Fin 8), let i := port.val
    let x := s.port i
    x.trained = true →
    (∀ rec : LinkRec, 
      (s.linkDiffers i rec = none → ∃ t, exec (.link port rec) s = .next t ∧ PortOnly s t i ∧ t.log = s.log ∧
        t.port i = { x with partner := some rec, phase := if x.phase = .ctrl ∧ x.mismatch = false ∧ x.linkNs.isSome then .up else x.phase }) ∧
      (∀ f, s.linkDiffers i rec = some f → x.mismatch = false → ∃ t, exec (.link port rec) s = .next t ∧ PortOnly s t i ∧
        t.log.pos = s.log.pos + 1 ∧ t.port i = { x with partner := some rec, mismatch := true, phase := .ctrl })) ∧
    (∀ sent arrived : W64, ∃ t, exec (.ping port false sent arrived) s = .next t ∧ PortOnly s t i ∧
      t.port i = { x with ctrl := x.ctrl ++ [⟨leBytes 1 7 ++ leBytes 15 0 ++ leBytes 8 s.nsSinceReset, none⟩] }) ∧
    (∀ (sent arrived : W64) (a : Nat), x.pingAt = some a →
      let ns := ((s.nsSinceReset - a) - (sent.toNat - arrived.toNat)) / 2
      (ns ≤ (s.cfg.port i).maxLinkNs → ∃ t, exec (.ping port true sent arrived) s = .next t ∧ PortOnly s t i ∧ t.log = s.log ∧
        t.port i = { x with pingAt := none, linkNs := some ns, phase := if x.phase = .ctrl ∧ x.partner.isSome ∧ x.mismatch = false then .up else x.phase }) ∧
      ((s.cfg.port i).maxLinkNs < ns → x.mismatch = false → ∃ t, exec (.ping port true sent arrived) s = .next t ∧ PortOnly s t i ∧
        t.log.pos = s.log.pos + 1 ∧ t.port i = { x with pingAt := none, linkNs := some ns, mismatch := true, phase := .ctrl })) ∧
    (∀ c0 c1 c2, ∃ t, exec (.credit port c0 c1 c2) s = .next t ∧ PortOnly s t i ∧ t.log = s.log ∧
      ∀ k, Tbl.get 64 k (t.port i).credits = Tbl.get 64 k x.credits +
        (if k = 0 then c0.toNat else if k = 1 then c1.toNat else if k = 2 then c2.toNat else 0))

/-- Training that completes in its time, with two good lane groups or more of those that have not failed meanwhile, gives the port
its width, sends LINK and PING, and replays what is unacknowledged, which is counted; with fewer, or past its time, the port is down.
A lane group that fails takes the port into a retrain, or down where fewer than two are left; one that fails in training is left
out of it. -/
def Obligations.PortsTrain : Prop :=
  ∀ (s : State) (port : Fin 8), let i := port.val
    let x := s.port i
    (x.phase = .training → ∀ good : BitVec 6,
      let late : Prop := x.since + (if x.retraining = true then 5 else 500) * unitsPerMs < s.time
      let g := (if x.retraining = true then good &&& x.good else good) &&& ~~~x.failed
      let w := widthFor (goodCount g) (if x.width = 0 then (s.cfg.port i).planWidth else min x.width (s.cfg.port i).planWidth)
      let old := if x.retraining = true then x.width else (s.cfg.port i).planWidth
      (late → ∃ t, exec (.spanTrainingDone port good) s = .next t ∧ WentDown s t i) ∧
      (¬late → 2 ≤ goodCount g → w ≠ 0 → ∃ t, exec (.spanTrainingDone port good) s = .next t ∧ PortOnly s t i ∧ (t.port i).phase = .ctrl ∧
        (t.port i).width = w ∧ (t.port i).good = g ∧ (t.port i).frames = 0 ∧ (t.port i).resend = x.unacked.length ∧ (t.port i).linkNs = none ∧
        (t.port i).ctr = { x.ctr with replays := sat32 x.ctr.replays (if x.unacked = [] then 0 else 1) } ∧
        (t.port i).ctrl = x.ctrl ++ [⟨t.linkRecord i, none⟩, ⟨leBytes 1 6 ++ leBytes 23 0, none⟩] ∧
        t.log.pos = s.log.pos + (if w = old then 0 else 1)) ∧
      (¬late → goodCount g < 2 ∨ w = 0 → ∃ t, exec (.spanTrainingDone port good) s = .next t ∧ WentDown s t i)) ∧
    (x.phase = .training →
      (x.since + (if x.retraining = true then 5 else 500) * unitsPerMs ≤ s.time → ∃ t, exec (.spanTrainingTimeout port) s = .next t ∧ WentDown s t i) ∧
      (s.time < x.since + (if x.retraining = true then 5 else 500) * unitsPerMs → exec (.spanTrainingTimeout port) s = .next s)) ∧
    (∀ group : Fin 6,
      let bit := BitVec.ofNat 6 (2 ^ group.val)
      x.phase = .training → exec (.laneGroupFail port group) s = .next (s.setPort i { x with good := x.good &&& ~~~bit, failed := x.failed ||| bit })) ∧
    (∀ group : Fin 6, bit1 x.good group.val = true →
      let good := x.good &&& ~~~(BitVec.ofNat 6 (2 ^ group.val))
      (x.trained = true → goodCount good < 2 → ∃ t, exec (.laneGroupFail port group) s = .next t ∧ WentDown s t i) ∧
      (x.trained = true → 2 ≤ goodCount good → s.recentRetrains i < 2 → ∃ t, exec (.laneGroupFail port group) s = .next t ∧ PortOnly s t i ∧
        t.log = s.log ∧ (t.port i).phase = .training ∧ (t.port i).retraining = true ∧ (t.port i).since = s.time ∧ (t.port i).good = good ∧
        (t.port i).ctr.retrains = sat32 x.ctr.retrains 1))

namespace Sys2Proof.Machine

/-- A flit with a header word, a body and their CRC. -/
def flitOf (h : Nat) (body : List Byte) : FlitRec := ⟨BitVec.ofNat 64 h, body, BitVec.ofNat 64 (crc64 (leBytes 8 h ++ body))⟩

/-- A flit of a port has departed in its slot; every tenth one has opened a frame. -/
structure Departed (s t : State) (i : Nat) (f : FlitRec) : Prop where
  sent : (t.port i).sent = some f
  slot : (t.port i).slot = (s.port i).slot + 1 ∧ (t.port i).frames = (s.port i).frames + 1
  nak : (t.port i).nak = false
  head : (t.port i).head = if (s.port i).frames % 10 = 0 then (s.port i).frameHeader else (s.port i).head
  only : PortOnly s t i

end Sys2Proof.Machine

/-- What departs in a slot: control records in every 25th slot, at most ten; the TX entry that is due, with the tick and its
number in the program; a bulk flit under way where none is due; else IDLE. -/
def Obligations.SlotsDepart : Prop :=
  ∀ (s : State) (port : Fin 8), let i := port.val
    let x := s.port i
    let link := x.rxSeq * 2 ^ 16 + b2n x.nak * 2 ^ 28
    x.trained = true →
    (x.slot % 25 = 24 → x.owed.all (fun e => decide (e.2 = 0)) = true →
      let body := ((x.ctrl.take 10).map s.departing).flatMap (fun r => r.take 24 ++ leBytes (24 - r.length) 0)
      ∃ t, exec (.spanSlot port) s = .next t ∧ Departed s t i (flitOf (3 + link) (body ++ leBytes (240 - body.length) 0)) ∧
        (t.port i).ctrl = x.ctrl.drop 10 ∧ (t.port i).unacked = x.unacked) ∧
    (x.slot % 25 ≠ 24 → s.mayCarry i = false →
      ∃ t, exec (.spanSlot port) s = .next t ∧ Departed s t i (flitOf link (leBytes 240 0)) ∧ (t.port i).unacked = x.unacked) ∧
    (x.slot % 25 ≠ 24 → s.mayCarry i = true → x.resend = 0 →
      (∀ p e, s.dueEntry i = some (p, e, 0) →
        let l := x.lane p
        let f := flitOf (1 + x.txSeq * 16 + link + p * 2 ^ 32 + (s.part p).tickNo % 256 * 2 ^ 36 + l.txAt % 65536 * 2 ^ 44) (s.slotRead p i e.addr 240)
        ∃ t, exec (.spanSlot port) s = .next t ∧ Departed s t i f ∧ (t.port i).unacked = x.unacked ++ [f] ∧
          (t.port i).txSeq = (x.txSeq + 1) % 4096 ∧ (t.port i).lane p = { l with txAt := l.txAt + 1 }) ∧
      (∀ m b rest, s.dueEntry i = none → Tbl.get none 1 x.out = some m → m.vc = 1 → m.bodies = b :: rest → m.back = none → x.creditFor m ≠ 0 →
        x.unacked.length < 1024 →
        let f := flitOf (2 + x.txSeq * 16 + link + b2n (!m.opened) * 2 ^ 29 + b2n rest.isEmpty * 2 ^ 30 + m.part * 2 ^ 32 + 2 ^ 44 + m.sub * 2 ^ 46) b
        ∃ t, exec (.spanSlot port) s = .next t ∧ Departed s t i f ∧ (t.port i).unacked = x.unacked ++ [f] ∧
          Tbl.get 64 2 (t.port i).credits = Tbl.get 64 2 x.credits - 1 ∧
          Tbl.get none 1 (t.port i).out = if rest = [] then none else some { m with opened := true, bodies := rest }) ∧
      (s.dueEntry i = none → s.nextMessage i 1 = none → s.nextMessage i 0 = none →
        ∃ t, exec (.spanSlot port) s = .next t ∧ Departed s t i (flitOf link (leBytes 240 0)) ∧ (t.port i).unacked = x.unacked))

namespace Sys2Proof.Machine

/-- An IDLE flit that arrives whole and asks for no replay (Table 11-4). -/
def idles (f : FlitRec) : Bool := decide (f.type = 0) && f.good && !bit1 f.header 28

end Sys2Proof.Machine

/-- What arrives, a frame in the state `u` after the tick edge that is due, if one is (R740): a frame that doesn't decode loses its flits and is
counted, its SCHED flits in SCHED_DISCARD too, and a lane group fails when a lane of it has had
more than 1 symbol in 10^4 corrected in the latest 1 ms before the frame's arrival (DEDUCED, log 26); a scheduled flit in its turn,
for a partition that runs this tick, does the RX action its program has next; one with a wrong CRC is discarded, counted in
SCHED_DISCARD too (DEDUCED, log 26), and asks for a replay. Flits
that stay unacknowledged for 2 µs are sent again, and the port retrains after 8 replays in a row. An accepted RX action is
complete 20 ns later, and makes its push. -/
def Obligations.FlitsArrive : Prop :=
  ∀ (s : State) (port : Fin 8), let i := port.val
    (∀ (u : State) (frame : FrameRec), s.dueEdge = u → let x := u.port i
      let one (f : FlitRec) : Prop := ∃ pre post, frame.flits = pre ++ f :: post ∧ ∀ g ∈ pre ++ post, idles g = true
      x.trained = true → crc16 (frame.header.take 8) = le frame.header 8 2 →
      let fixes := (x.fixes.filter (fun q => decide (u.time - q.1 ≤ 1000 * unitsPerMs)))
        ++ ((frame.corrected.zipIdx.filter (fun q => decide (q.1 ≠ 0))).map (fun q => (u.time, q.2, q.1)))
      let noisy := ({ x with fixes := fixes } : Port).noisyGroups u.time
      (∀ g, frame.decoded = false → noisy = [g] → bit1 x.good g = true →
        let good := x.good &&& ~~~(BitVec.ofNat 6 (2 ^ g))
        (goodCount good < 2 → ∃ t, exec (.spanFrame port frame) s = .next t ∧ PortOnly u t i ∧ (t.port i).phase = .down) ∧
        (2 ≤ goodCount good → u.recentRetrains i < 2 → ∃ t, exec (.spanFrame port frame) s = .next t ∧ PortOnly u t i ∧
          (t.port i).phase = .training ∧ (t.port i).retraining = true ∧ (t.port i).good = good)) ∧
      (frame.decoded = false → noisy = [] → ∃ t, exec (.spanFrame port frame) s = .next t ∧ PortOnly u t i ∧ t.log = u.log ∧
        (t.port i).ctr.uncorr = sat32 x.ctr.uncorr 1 ∧
        (x.ctr.schedDiscard < 2 ^ 32 → (t.port i).ctr.schedDiscard = sat32 x.ctr.schedDiscard (frame.flits.filter (fun f => decide (f.type = 1))).length) ∧ (t.port i).rxSeq = x.rxSeq ∧ (t.port i).badHeads = 0) ∧
      (∀ f, frame.decoded = true → noisy = [] → one f → f.type = 1 → f.good = false → ∃ t, exec (.spanFrame port frame) s = .next t ∧ PortOnly u t i ∧
        (t.port i).rxSeq = x.rxSeq ∧ (t.port i).ctr.flitCrc = sat32 x.ctr.flitCrc 1 ∧ (t.port i).ctr.schedDiscard = sat32 x.ctr.schedDiscard 1 ∧ (x.discarding = false → (t.port i).nak = true)) ∧
      (∀ f e, frame.decoded = true → noisy = [] → one f → x.phase = .up → f.type = 1 → f.good = true → f.seq = (x.rxSeq + 1) % 4096 →
        bit1 f.header 28 = false → x.unacked = [] →
        let p := fld f.header 35 32
        let l := u.cfg.lane p i
        bit1 (u.part p).slotsFrozen i = false → u.plays p = true → fld f.header 43 36 = (u.part p).tickNo % 256 →
        (x.lane p).program.bind (fun g => g.rx[(x.lane p).rxAt]?) = some e → fld f.header 59 44 = (x.lane p).rxAt % 65536 → e.addr + 240 ≤ l.size →
        f.body.length = 240 → e.action ≤ 2 →
        ∃ t, exec (.spanFrame port frame) s = .next t ∧ t.core = u.core ∧ t.parts = u.parts ∧ (∀ j, j ≠ i → t.port j = u.port j) ∧
          (t.port i).rxSeq = f.seq ∧ ((t.port i).lane p).rxAt = (x.lane p).rxAt + 1 ∧
          (t.port i).pendingRx = x.pendingRx ++ [⟨p, u.time + 20 * unitsPerNs, if e.push then some (e.spire, e.queue, e.literal) else none⟩] ∧
          t.slotRead p i e.addr 240 = rxBytes e.action (u.slotRead p i e.addr 240) f.body ∧
          ∀ a, (a < l.base + e.addr ∨ l.base + e.addr + 240 ≤ a) → Tbl.get 0#8 a (t.port i).store = Tbl.get 0#8 a x.store)) ∧
    let x := s.port i
    (x.phase = .up → x.unacked ≠ [] → x.ackAt + 2 * unitsPerUs ≤ s.time →
      (x.replaysInRow < 8 → exec (.replayTimeout port) s = .next (s.setPort i { x with
        resend := x.unacked.length, replaysInRow := x.replaysInRow + 1, ackAt := s.time, ctr := { x.ctr with replays := sat32 x.ctr.replays 1 } })) ∧
      (8 ≤ x.replaysInRow → 2 ≤ goodCount x.good → s.recentRetrains i < 2 → ∃ t, exec (.replayTimeout port) s = .next t ∧ PortOnly s t i ∧
        (t.port i).phase = .training ∧ (t.port i).retraining = true ∧ (t.port i).ctr.retrains = sat32 x.ctr.retrains 1)) ∧
    (∀ r rest, x.pendingRx = r :: rest → r.at_ ≤ s.time →
      (r.push = none → exec (.rxActionComplete port) s = .next (s.setPort i { x with pendingRx := rest })) ∧
      (∀ sp q h, r.push = some (sp, q, h) → ∃ t, exec (.rxActionComplete port) s = .next t ∧ (t.port i).pendingRx = rest ∧ SameMemory s t ∧
        t.core.pushes = s.core.pushes ++ [⟨s.core.nextId, sp, (s.owner sp).getD 16, .spanRx, sp, q, h, .flying, 0⟩]))

/-! The test access port (chapter 20). -/

namespace Sys2Proof.Machine

/-- The state with the data register loaded by Capture-DR under an instruction, which is current. -/
def State.tapScan (s : State) (op bits : Nat) : State :=
  { s with tap := { s.tap with instr := op, ir := s.irBits, inverted := false, captured := bits } }

/-- The same with the pins captured, those whose level the state says (R728) as it says them. -/
def State.tapPins (s : State) (op : Nat) (pins : BitVec 1378) : State := s.tapScan op ((s.tapScan op 0).pinBits pins)
/-- The state in which an instruction that becomes current acts: an edge that is due has been made (R740). -/
def State.tapEdge (s : State) (op : Nat) : State := (s.tapScan op s.tap.captured).dueEdge

/-- The intrusive public instructions by opcode (Table 20-1). -/
def intrusive (din pins : BitVec 1378) (falls : Nat) : List (Nat × Instr) :=
  [(0x00, .extest din pins), (0x04, .clamp), (0x05, .highz), (0x06, .extestPulse din pins), (0x07, .extestTrain din pins falls)]

/-- The device is halted as R657 states, and has kept its boot stage: every key register is cleared, every Spire and
every transfer is stopped, and no further tick edge comes. -/
structure Halted (s t : State) : Prop where
  keys : t.rom.keys = false
  spires : ∀ sp, sp < 16 → (t.spire sp).stopped = true
  transfers : ∀ sp u x, sp < 16 → u < 5 → x ∈ (t.spire sp).unit u → x.stopped = true
  tick : t.tick.halted = true ∧ t.tick.due = none
  stage : t.boot.stage = s.boot.stage
  flag : t.tap.halted = true

end Sys2Proof.Machine

/-- An intrusive instruction that becomes current outside RESET_N and outside Plinth mode halts the device, once an edge that is
due in its ccyc has been made. -/
def Obligations.TapIntrusiveHalts : Prop :=
  ∀ (s : State) (din pins : BitVec 1378) (falls op : Nat) (i : Instr), (op, i) ∈ intrusive din pins falls →
    s.tap.instr ≠ op → s.boot.inReset = false → s.rom.plinthOut = false →
    let u := s.tapEdge op
    ∃ t, exec i s = .next t ∧ Halted u t ∧ t.tap.instr = op ∧ t.host.linkUp = false ∧
      SameSram u t ∧ SameHbm u t ∧ SameFlash u t ∧ t.rom.otp = s.rom.otp

/-- TAP_RESET, SAMPLE, PRELOAD, IDCODE and BYPASS touch nothing but the TAP's own registers, in any state: the opcode of
BYPASS and every one not listed, or private once LOCK is blown, is BYPASS; another listed one that is not intrusive becomes
current (DEDUCED, log 3). While RESET_N is asserted, an intrusive instruction touches nothing but the TAP's own registers: CLAMP
and HIGHZ capture 0 through the bypass register, the others the pins, and they update the boundary cells; EXTEST_PULSE leaves the
pairs inverted. One command is one whole scan, which ends in Run-Test/Idle (DESIGN CHOICE, log 18). -/
def Obligations.TapInstructionsScan : Prop :=
  ∀ (s : State) (din pins : BitVec 1378),
    exec .tapReset s = .next { s with tap := { s.tap with instr := 3, inverted := false } } ∧
    let updated (t : State) : State := { t with tap := { t.tap with cells := din } }
    exec (.sample pins) s = .next (s.tapPins 0x01 pins) ∧
    exec (.preload din pins) s = .next (updated (s.tapPins 0x02 pins)) ∧
    exec .idcode s = .next (s.tapScan 0x03 0x34096A5B) ∧
    (∀ op : BitVec 8,
      (listedOpcode op.toNat = false ∨ (s.rom.otp.lock = true ∧ lockedOpcode op.toNat = true) → exec (.bypass op) s = .next (s.tapScan 0xFF 0)) ∧
      (op.toNat ∈ [0x01, 0x02, 0x03, 0x83] →
        exec (.bypass op) s = .next { s with tap := { s.tap with instr := op.toNat, ir := s.irBits, inverted := false } })) ∧
    (∀ falls : Nat, s.boot.inReset = true → 2 ≤ falls → falls ≤ 100 →
      exec .clamp s = .next (s.tapScan 0x04 0) ∧
      exec .highz s = .next (s.tapScan 0x05 0) ∧
      exec (.extest din pins) s = .next (updated (s.tapPins 0x00 pins)) ∧
      exec (.extestPulse din pins) s = .next { updated (s.tapPins 0x06 pins) with tap := { (updated (s.tapPins 0x06 pins)).tap with inverted := true } } ∧
      ∃ t, exec (.extestTrain din pins falls) s = .next t ∧ t.tap.cells = din ∧ t.tap.captured = (s.tapPins 0x07 pins).tap.captured ∧
        t.tap.inverted = ((s.tap.inverted && s.tap.instr == 0x07) != (falls % 2 == 1)) ∧ { t with tap := s.tap, free := s.free } = s)

/-- With LOCK blown every private instruction but PROV_STATUS acts as BYPASS; with LOCK unblown a factory-test opcode that
becomes current halts the device in Plinth mode too, once an edge that is due has been made. -/
def Obligations.TapPrivateOpcodes : Prop :=
  ∀ (s : State) (din : BitVec 392) (w : BitVec 32) (op : Fin 8),
    (s.rom.otp.lock = true →
      exec (.provSlot din) s = .next (s.tapScan 0xFF 0) ∧ exec (.provNsik din) s = .next (s.tapScan 0xFF 0) ∧
      exec (.provLock w) s = .next (s.tapScan 0xFF 0) ∧ exec (.factoryTest op) s = .next (s.tapScan 0xFF 0)) ∧
    (s.rom.otp.lock = false → s.tap.instr ≠ 0xC0 + op.val → s.boot.inReset = false →
      ∃ t, exec (.factoryTest op) s = .next t ∧ Halted (s.tapEdge (0xC0 + op.val)) t ∧ t.tap.instr = 0xC0 + op.val) ∧
    exec .provStatus s = .next (s.tapScan 0x83 s.provStatus)

/-- Where provisioning does not work, PROV_SLOT, PROV_NSIK and PROV_LOCK end with RESULT 3 and blow nothing; while fuses
are being blown an Update-DR is ignored and RESULT keeps its value. -/
def Obligations.TapProvisioningRefused : Prop :=
  ∀ (s : State) (din : BitVec 392) (w : BitVec 32), s.rom.otp.lock = false →
    ∀ i, i ∈ [Instr.provSlot din, .provNsik din, .provLock w] → ∃ t, exec i s = .next t ∧ t.rom = s.rom ∧
      (s.tap.job = none → s.provisioning = false → t.tap.job = none ∧ t.tap.result = 3) ∧
      (∀ j, s.tap.job = some j → t.tap.job = some j ∧ t.tap.result = s.tap.result ∧ t.tap.ns = s.tap.ns)

/-- Provisioning where it works (R655): PROV_SLOT starts to blow a hash into an empty slot, PROV_NSIK latches a namespace
and captures the import key of the one latched before, PROV_LOCK starts to blow LOCK for its one key word and ends with
RESULT 5 for any other; nothing outside the TAP changes. When the fuses have blown, the hash of PROV_SLOT stands in its slot
over what was blown there, or LOCK is blown, RESULT is OK, and nothing else changes; where they have not, RESULT is 4 and no
blown fuse is unblown. -/
def Obligations.TapProvisioningWorks : Prop :=
  (∀ (s : State) (din : BitVec 392) (w : BitVec 32), s.rom.otp.lock = false → s.provisioning = true → s.tap.job = none →
    (fld din 391 386 = 0 → s.rom.otp.programmed (fld din 385 384) = false →
      ∃ t, exec (.provSlot din) s = .next t ∧ t.tap.job = some (.slot (Fin.ofNat 4 (fld din 385 384)) (din.setWidth 384)) ∧
        { t with tap := s.tap, free := s.free } = s) ∧
    (∃ t, exec (.provNsik din) s = .next t ∧ t.tap.ns = some (Fin.ofNat 16 (fld din 387 384)) ∧ t.tap.result = 0 ∧
      (∀ n, s.tap.ns = some n → t.tap.captured = leNat (s.rom.otp.importKey n.val) + n.val * 2 ^ 384) ∧
      { t with tap := s.tap, free := s.free } = s) ∧
    (∃ t, exec (.provLock w) s = .next t ∧ { t with tap := s.tap, free := s.free } = s ∧
      (w = 0x4B434F4C#32 → t.tap.job = some .lock) ∧ (w ≠ 0x4B434F4C#32 → t.tap.job = none ∧ t.tap.result = 5))) ∧
  (∀ (s : State) (k : Fin 4) (h : BitVec 384) (j : ProvJob),
    (s.tap.job = some (.slot k h) → exec (.provFusesDone true) s = .next { s with
      rom := { s.rom with otp := match k with
        | 0 => { s.rom.otp with hash0 := s.rom.otp.hash0 ||| h }
        | 1 => { s.rom.otp with hash1 := s.rom.otp.hash1 ||| h }
        | 2 => { s.rom.otp with hash2 := s.rom.otp.hash2 ||| h }
        | 3 => { s.rom.otp with hash3 := s.rom.otp.hash3 ||| h } }
      tap := { s.tap with job := none, result := 0 } }) ∧
    (s.tap.job = some .lock → exec (.provFusesDone true) s = .next { s with
      rom := { s.rom with otp := { s.rom.otp with lock := true } }, tap := { s.tap with job := none, result := 0 } }) ∧
    (s.tap.job = some j → ∃ t, exec (.provFusesDone false) s = .next t ∧ t.tap.job = none ∧ t.tap.result = 4 ∧
      s.rom.otp.within t.rom.otp = true ∧ { t with tap := s.tap, free := s.free, rom := s.rom } = s))
end

