-- ==== Sys2Proof/Laws/Table.lean ====
section
/-! SUPPORT. Laws of tables: what a write changes, and that every operation keeps the canonical form. -/

namespace Sys2Proof

theorem strictlyRising_iff (l : List Nat) : strictlyRising l = true ↔ l.Pairwise (· < ·) := by
  induction l with
  | nil => simp [strictlyRising]
  | cons a t ih =>
    cases t with
    | nil => simp [strictlyRising]
    | cons b u =>
      simp only [strictlyRising, Bool.and_eq_true, decide_eq_true_eq, ih, List.pairwise_cons]
      constructor
      · rintro ⟨hab, hb, hu⟩
        refine ⟨fun x hx => ?_, hb, hu⟩
        rcases List.mem_cons.1 hx with rfl | hx
        · exact hab
        · exact lt_trans hab (hb x hx)
      · rintro ⟨ha, hb, hu⟩
        exact ⟨ha b (by simp), hb, hu⟩

namespace Machine.Tbl

variable {α : Type}

/-- The canonical form in terms of `Pairwise`. -/
theorem wf_iff [DecidableEq α] (d : α) (t : Tbl α) :
    wf d t = true ↔ (t.map Prod.fst).Pairwise (· < ·) ∧ ∀ e ∈ t, e.2 ≠ d := by
  simp [wf, strictlyRising_iff]

@[simp] theorem wf_nil [DecidableEq α] (d : α) : wf d ([] : Tbl α) = true := rfl

/-- Every part of a canonical table is canonical. -/
theorem wf_sublist [DecidableEq α] {d : α} {t u : Tbl α} (hs : List.Sublist u t) (h : wf d t = true) : wf d u = true := by
  rw [wf_iff] at *
  exact ⟨h.1.sublist (hs.map _), fun e he => h.2 e (hs.subset he)⟩

/-- Filtering keeps the canonical form. -/
theorem wf_filter [DecidableEq α] {d : α} {t : Tbl α} (p : Nat × α → Bool) (h : wf d t = true) :
    wf d (List.filter p t) = true := wf_sublist List.filter_sublist h

/-- Dropping a range keeps the canonical form. -/
theorem wf_clear [DecidableEq α] {d : α} {t : Tbl α} (lo n : Nat) (h : wf d t = true) : wf d (clear lo n t) = true :=
  wf_filter _ h

theorem erase_sublist (k : Nat) (t : Tbl α) : List.Sublist (erase k t) t := by
  induction t with
  | nil => simp [erase]
  | cons e t ih =>
    obtain ⟨j, w⟩ := e
    simp only [erase]
    split
    · exact ih.cons _
    · exact ih.cons_cons _

/-- Removing a key keeps the canonical form. -/
theorem wf_erase [DecidableEq α] {d : α} {t : Tbl α} (k : Nat) (h : wf d t = true) : wf d (erase k t) = true :=
  wf_sublist (erase_sublist k t) h

theorem mem_insert {k : Nat} {v : α} {t : Tbl α} {e : Nat × α} (h : e ∈ insert k v t) : e = (k, v) ∨ e ∈ t := by
  induction t with
  | nil => simpa [insert] using h
  | cons f t ih =>
    obtain ⟨j, w⟩ := f
    simp only [insert] at h
    split at h
    · simpa using h
    · split at h
      · rcases List.mem_cons.1 h with h | h
        · exact .inl h
        · exact .inr (by simp [h])
      · rcases List.mem_cons.1 h with h | h
        · exact .inr (by simp [h])
        · rcases ih h with h | h
          · exact .inl h
          · exact .inr (by simp [h])

/-- Putting an entry keeps the canonical form. -/
theorem wf_insert [DecidableEq α] {d : α} {t : Tbl α} {k : Nat} {v : α} (hv : v ≠ d) (h : wf d t = true) :
    wf d (insert k v t) = true := by
  rw [wf_iff] at *
  obtain ⟨hr, hd⟩ := h
  refine ⟨?_, fun e he => (mem_insert he).elim (fun q => q ▸ hv) (hd e)⟩
  clear hd
  induction t with
  | nil => simp [insert]
  | cons f t ih =>
    obtain ⟨j, w⟩ := f
    simp only [List.map_cons, List.pairwise_cons] at hr
    simp only [insert]
    split
    · rename_i hk
      simp only [List.map_cons, List.pairwise_cons]
      refine ⟨fun x hx => ?_, hr⟩
      rcases List.mem_cons.1 hx with rfl | hx
      · exact hk
      · exact lt_trans hk (hr.1 x hx)
    · split
      · rename_i hk
        simpa [List.pairwise_cons, hk] using hr
      · rename_i h1 h2
        simp only [List.map_cons, List.pairwise_cons]
        refine ⟨fun x hx => ?_, ih hr.2⟩
        obtain ⟨e, he, rfl⟩ := List.mem_map.1 hx
        rcases mem_insert he with rfl | he
        · show j < k
          omega
        · exact hr.1 _ (List.mem_map_of_mem he)

/-- A write keeps the canonical form. -/
theorem wf_put [DecidableEq α] {d : α} {t : Tbl α} (k : Nat) (v : α) (h : wf d t = true) : wf d (put d k v t) = true := by
  unfold put
  split
  · exact wf_erase k h
  · rename_i hv
    exact wf_insert hv h

/-- A run of writes keeps the canonical form. -/
theorem wf_putRun [DecidableEq α] {d : α} (vs : List α) : ∀ (k : Nat) (t : Tbl α), wf d t = true → wf d (putRun d k vs t) = true := by
  induction vs with
  | nil => exact fun _ _ h => h
  | cons v vs ih => exact fun k t h => ih _ _ (wf_put k v h)

/-! Reads after writes. -/

theorem get_erase (d : α) (k j : Nat) (t : Tbl α) : get d j (erase k t) = if j = k then d else get d j t := by
  induction t with
  | nil => simp [erase, get]
  | cons e t ih =>
    obtain ⟨i, w⟩ := e
    by_cases hi : i = k
    · subst hi
      by_cases hj : j = i
      · subst hj; simpa [erase, get] using ih
      · have : ¬ i = j := fun q => hj q.symm
        simpa [erase, get, this, hj] using ih
    · by_cases hj : i = j
      · subst hj; simp [erase, get, hi]
      · simpa [erase, get, hi, hj] using ih

theorem get_insert (d : α) (k j : Nat) (v : α) (t : Tbl α) : get d j (insert k v t) = if j = k then v else get d j t := by
  induction t with
  | nil =>
    by_cases h : k = j
    · simp [insert, get, h]
    · have : ¬ j = k := fun q => h q.symm
      simp [insert, get, h, this]
  | cons e t ih =>
    obtain ⟨i, w⟩ := e
    simp only [insert]
    by_cases hj : k = j
    · subst hj
      split
      · simp [get]
      · split
        · simp [get]
        · rename_i h1 h2
          have : ¬ i = k := fun q => h2 q.symm
          simpa [get, this] using ih
    · have hj' : ¬ j = k := fun q => hj q.symm
      split
      · simp [get, hj]
      · split
        · rename_i h2
          subst h2
          simp [get, hj]
        · simp only [get, hj', if_false] at ih ⊢
          split
          · rfl
          · exact ih

/-- A read after a write: the value written at its key, the old value at every other key. -/
theorem get_put [DecidableEq α] (d : α) (k j : Nat) (v : α) (t : Tbl α) :
    get d j (put d k v t) = if j = k then v else get d j t := by
  unfold put
  split
  · rename_i h
    rw [get_erase, h]
  · exact get_insert d k j v t

@[simp] theorem get_put_same [DecidableEq α] (d : α) (k : Nat) (v : α) (t : Tbl α) : get d k (put d k v t) = v := by
  simp [get_put]

theorem get_put_other [DecidableEq α] (d : α) {k j : Nat} (v : α) (t : Tbl α) (h : j ≠ k) :
    get d j (put d k v t) = get d j t := by simp [get_put, h]

/-- A read after a run of writes. -/
theorem get_putRun [DecidableEq α] (d : α) (vs : List α) : ∀ (k j : Nat) (t : Tbl α),
    get d j (putRun d k vs t) = if k ≤ j ∧ j < k + vs.length then vs.getD (j - k) d else get d j t := by
  induction vs with
  | nil => intro k j t; simp [putRun]
  | cons v vs ih =>
    intro k j t
    rw [putRun, ih, get_put]
    simp only [List.length_cons]
    by_cases h1 : j = k
    · subst h1; simp
    · by_cases h2 : k + 1 ≤ j ∧ j < k + 1 + vs.length
      · have h3 : k ≤ j ∧ j < k + (vs.length + 1) := by omega
        have h4 : j - k = (j - (k + 1)) + 1 := by omega
        rw [if_pos h2, if_pos h3, h4, List.getD_cons_succ]
      · have h3 : ¬ (k ≤ j ∧ j < k + (vs.length + 1)) := by omega
        rw [if_neg h2, if_neg h3, if_neg h1]

/-- A read after a range has been dropped. -/
theorem get_clear (d : α) (lo n j : Nat) (t : Tbl α) :
    get d j (clear lo n t) = if lo ≤ j ∧ j < lo + n then d else get d j t := by
  unfold clear
  induction t with
  | nil => simp [get]
  | cons e t ih =>
    obtain ⟨i, w⟩ := e
    by_cases hi : lo ≤ i ∧ i < lo + n
    · rw [List.filter_cons_of_neg (by simp [hi]), ih]
      by_cases hj : i = j
      · subst hj; simp [get, hi]
      · simp [get, hj]
    · rw [List.filter_cons_of_pos (by simp; omega)]
      by_cases hj : i = j
      · subst hj; simp [get, hi]
      · simp only [get, hj, if_false]
        exact ih

end Machine.Tbl

end Sys2Proof
end

