-- ==== Sys2Proof/Laws/State.lean ====
section
/-! SUPPORT. The fields of the state after each of its own updates, so that no later proof unfolds a record update; and
what a part reads as after an update of it or of another. -/

namespace Sys2Proof.Machine

/-! Fields of the state. -/

@[simp] theorem State.setPart_pending (s : State) (p : Nat) (x : Part) : (s.setPart p x).pending = s.pending := rfl
@[simp] theorem State.setPart_time (s : State) (p : Nat) (x : Part) : (s.setPart p x).time = s.time := rfl
@[simp] theorem State.setPart_resetAt (s : State) (p : Nat) (x : Part) : (s.setPart p x).resetAt = s.resetAt := rfl
@[simp] theorem State.setPart_ccyc (s : State) (p : Nat) (x : Part) : (s.setPart p x).ccyc = s.ccyc := rfl
@[simp] theorem State.setPart_free (s : State) (p : Nat) (x : Part) : (s.setPart p x).free = s.free := rfl
@[simp] theorem State.setPart_cfg (s : State) (p : Nat) (x : Part) : (s.setPart p x).cfg = s.cfg := rfl
@[simp] theorem State.setPart_core (s : State) (p : Nat) (x : Part) : (s.setPart p x).core = s.core := rfl
@[simp] theorem State.setPart_tick (s : State) (p : Nat) (x : Part) : (s.setPart p x).tick = s.tick := rfl
@[simp] theorem State.setPart_host (s : State) (p : Nat) (x : Part) : (s.setPart p x).host = s.host := rfl
@[simp] theorem State.setPart_log (s : State) (p : Nat) (x : Part) : (s.setPart p x).log = s.log := rfl
@[simp] theorem State.setPart_ports (s : State) (p : Nat) (x : Part) : (s.setPart p x).ports = s.ports := rfl
@[simp] theorem State.setPart_power (s : State) (p : Nat) (x : Part) : (s.setPart p x).power = s.power := rfl
@[simp] theorem State.setPart_boot (s : State) (p : Nat) (x : Part) : (s.setPart p x).boot = s.boot := rfl
@[simp] theorem State.setPart_store (s : State) (p : Nat) (x : Part) : (s.setPart p x).store = s.store := rfl
@[simp] theorem State.setPart_rom (s : State) (p : Nat) (x : Part) : (s.setPart p x).rom = s.rom := rfl
@[simp] theorem State.setPart_tap (s : State) (p : Nat) (x : Part) : (s.setPart p x).tap = s.tap := rfl

@[simp] theorem State.onPart_pending (s : State) (p : Nat) (f : Part → Part) : (s.onPart p f).pending = s.pending := rfl
@[simp] theorem State.onPart_time (s : State) (p : Nat) (f : Part → Part) : (s.onPart p f).time = s.time := rfl
@[simp] theorem State.onPart_resetAt (s : State) (p : Nat) (f : Part → Part) : (s.onPart p f).resetAt = s.resetAt := rfl
@[simp] theorem State.onPart_ccyc (s : State) (p : Nat) (f : Part → Part) : (s.onPart p f).ccyc = s.ccyc := rfl
@[simp] theorem State.onPart_free (s : State) (p : Nat) (f : Part → Part) : (s.onPart p f).free = s.free := rfl
@[simp] theorem State.onPart_cfg (s : State) (p : Nat) (f : Part → Part) : (s.onPart p f).cfg = s.cfg := rfl
@[simp] theorem State.onPart_core (s : State) (p : Nat) (f : Part → Part) : (s.onPart p f).core = s.core := rfl
@[simp] theorem State.onPart_tick (s : State) (p : Nat) (f : Part → Part) : (s.onPart p f).tick = s.tick := rfl
@[simp] theorem State.onPart_host (s : State) (p : Nat) (f : Part → Part) : (s.onPart p f).host = s.host := rfl
@[simp] theorem State.onPart_log (s : State) (p : Nat) (f : Part → Part) : (s.onPart p f).log = s.log := rfl
@[simp] theorem State.onPart_ports (s : State) (p : Nat) (f : Part → Part) : (s.onPart p f).ports = s.ports := rfl
@[simp] theorem State.onPart_power (s : State) (p : Nat) (f : Part → Part) : (s.onPart p f).power = s.power := rfl
@[simp] theorem State.onPart_boot (s : State) (p : Nat) (f : Part → Part) : (s.onPart p f).boot = s.boot := rfl
@[simp] theorem State.onPart_store (s : State) (p : Nat) (f : Part → Part) : (s.onPart p f).store = s.store := rfl
@[simp] theorem State.onPart_rom (s : State) (p : Nat) (f : Part → Part) : (s.onPart p f).rom = s.rom := rfl
@[simp] theorem State.onPart_tap (s : State) (p : Nat) (f : Part → Part) : (s.onPart p f).tap = s.tap := rfl

@[simp] theorem State.setSpire_pending (s : State) (k : Nat) (x : Spire) : (s.setSpire k x).pending = s.pending := rfl
@[simp] theorem State.setSpire_time (s : State) (k : Nat) (x : Spire) : (s.setSpire k x).time = s.time := rfl
@[simp] theorem State.setSpire_resetAt (s : State) (k : Nat) (x : Spire) : (s.setSpire k x).resetAt = s.resetAt := rfl
@[simp] theorem State.setSpire_ccyc (s : State) (k : Nat) (x : Spire) : (s.setSpire k x).ccyc = s.ccyc := rfl
@[simp] theorem State.setSpire_free (s : State) (k : Nat) (x : Spire) : (s.setSpire k x).free = s.free := rfl
@[simp] theorem State.setSpire_cfg (s : State) (k : Nat) (x : Spire) : (s.setSpire k x).cfg = s.cfg := rfl
@[simp] theorem State.setSpire_parts (s : State) (k : Nat) (x : Spire) : (s.setSpire k x).parts = s.parts := rfl
@[simp] theorem State.setSpire_tick (s : State) (k : Nat) (x : Spire) : (s.setSpire k x).tick = s.tick := rfl
@[simp] theorem State.setSpire_host (s : State) (k : Nat) (x : Spire) : (s.setSpire k x).host = s.host := rfl
@[simp] theorem State.setSpire_log (s : State) (k : Nat) (x : Spire) : (s.setSpire k x).log = s.log := rfl
@[simp] theorem State.setSpire_ports (s : State) (k : Nat) (x : Spire) : (s.setSpire k x).ports = s.ports := rfl
@[simp] theorem State.setSpire_power (s : State) (k : Nat) (x : Spire) : (s.setSpire k x).power = s.power := rfl
@[simp] theorem State.setSpire_boot (s : State) (k : Nat) (x : Spire) : (s.setSpire k x).boot = s.boot := rfl
@[simp] theorem State.setSpire_store (s : State) (k : Nat) (x : Spire) : (s.setSpire k x).store = s.store := rfl
@[simp] theorem State.setSpire_rom (s : State) (k : Nat) (x : Spire) : (s.setSpire k x).rom = s.rom := rfl
@[simp] theorem State.setSpire_tap (s : State) (k : Nat) (x : Spire) : (s.setSpire k x).tap = s.tap := rfl

@[simp] theorem State.onSpire_pending (s : State) (k : Nat) (f : Spire → Spire) : (s.onSpire k f).pending = s.pending := rfl
@[simp] theorem State.onSpire_time (s : State) (k : Nat) (f : Spire → Spire) : (s.onSpire k f).time = s.time := rfl
@[simp] theorem State.onSpire_resetAt (s : State) (k : Nat) (f : Spire → Spire) : (s.onSpire k f).resetAt = s.resetAt := rfl
@[simp] theorem State.onSpire_ccyc (s : State) (k : Nat) (f : Spire → Spire) : (s.onSpire k f).ccyc = s.ccyc := rfl
@[simp] theorem State.onSpire_free (s : State) (k : Nat) (f : Spire → Spire) : (s.onSpire k f).free = s.free := rfl
@[simp] theorem State.onSpire_cfg (s : State) (k : Nat) (f : Spire → Spire) : (s.onSpire k f).cfg = s.cfg := rfl
@[simp] theorem State.onSpire_parts (s : State) (k : Nat) (f : Spire → Spire) : (s.onSpire k f).parts = s.parts := rfl
@[simp] theorem State.onSpire_tick (s : State) (k : Nat) (f : Spire → Spire) : (s.onSpire k f).tick = s.tick := rfl
@[simp] theorem State.onSpire_host (s : State) (k : Nat) (f : Spire → Spire) : (s.onSpire k f).host = s.host := rfl
@[simp] theorem State.onSpire_log (s : State) (k : Nat) (f : Spire → Spire) : (s.onSpire k f).log = s.log := rfl
@[simp] theorem State.onSpire_ports (s : State) (k : Nat) (f : Spire → Spire) : (s.onSpire k f).ports = s.ports := rfl
@[simp] theorem State.onSpire_power (s : State) (k : Nat) (f : Spire → Spire) : (s.onSpire k f).power = s.power := rfl
@[simp] theorem State.onSpire_boot (s : State) (k : Nat) (f : Spire → Spire) : (s.onSpire k f).boot = s.boot := rfl
@[simp] theorem State.onSpire_store (s : State) (k : Nat) (f : Spire → Spire) : (s.onSpire k f).store = s.store := rfl
@[simp] theorem State.onSpire_rom (s : State) (k : Nat) (f : Spire → Spire) : (s.onSpire k f).rom = s.rom := rfl
@[simp] theorem State.onSpire_tap (s : State) (k : Nat) (f : Spire → Spire) : (s.onSpire k f).tap = s.tap := rfl

@[simp] theorem State.onCtr_pending (s : State) (k : Nat) (f : SpireCtr → SpireCtr) : (s.onCtr k f).pending = s.pending := rfl
@[simp] theorem State.onCtr_time (s : State) (k : Nat) (f : SpireCtr → SpireCtr) : (s.onCtr k f).time = s.time := rfl
@[simp] theorem State.onCtr_resetAt (s : State) (k : Nat) (f : SpireCtr → SpireCtr) : (s.onCtr k f).resetAt = s.resetAt := rfl
@[simp] theorem State.onCtr_ccyc (s : State) (k : Nat) (f : SpireCtr → SpireCtr) : (s.onCtr k f).ccyc = s.ccyc := rfl
@[simp] theorem State.onCtr_free (s : State) (k : Nat) (f : SpireCtr → SpireCtr) : (s.onCtr k f).free = s.free := rfl
@[simp] theorem State.onCtr_cfg (s : State) (k : Nat) (f : SpireCtr → SpireCtr) : (s.onCtr k f).cfg = s.cfg := rfl
@[simp] theorem State.onCtr_parts (s : State) (k : Nat) (f : SpireCtr → SpireCtr) : (s.onCtr k f).parts = s.parts := rfl
@[simp] theorem State.onCtr_tick (s : State) (k : Nat) (f : SpireCtr → SpireCtr) : (s.onCtr k f).tick = s.tick := rfl
@[simp] theorem State.onCtr_host (s : State) (k : Nat) (f : SpireCtr → SpireCtr) : (s.onCtr k f).host = s.host := rfl
@[simp] theorem State.onCtr_log (s : State) (k : Nat) (f : SpireCtr → SpireCtr) : (s.onCtr k f).log = s.log := rfl
@[simp] theorem State.onCtr_ports (s : State) (k : Nat) (f : SpireCtr → SpireCtr) : (s.onCtr k f).ports = s.ports := rfl
@[simp] theorem State.onCtr_power (s : State) (k : Nat) (f : SpireCtr → SpireCtr) : (s.onCtr k f).power = s.power := rfl
@[simp] theorem State.onCtr_boot (s : State) (k : Nat) (f : SpireCtr → SpireCtr) : (s.onCtr k f).boot = s.boot := rfl
@[simp] theorem State.onCtr_store (s : State) (k : Nat) (f : SpireCtr → SpireCtr) : (s.onCtr k f).store = s.store := rfl
@[simp] theorem State.onCtr_rom (s : State) (k : Nat) (f : SpireCtr → SpireCtr) : (s.onCtr k f).rom = s.rom := rfl
@[simp] theorem State.onCtr_tap (s : State) (k : Nat) (f : SpireCtr → SpireCtr) : (s.onCtr k f).tap = s.tap := rfl

@[simp] theorem State.onFn_pending (s : State) (k : Nat) (g : Func → Func) : (s.onFn k g).pending = s.pending := rfl
@[simp] theorem State.onFn_time (s : State) (k : Nat) (g : Func → Func) : (s.onFn k g).time = s.time := rfl
@[simp] theorem State.onFn_resetAt (s : State) (k : Nat) (g : Func → Func) : (s.onFn k g).resetAt = s.resetAt := rfl
@[simp] theorem State.onFn_ccyc (s : State) (k : Nat) (g : Func → Func) : (s.onFn k g).ccyc = s.ccyc := rfl
@[simp] theorem State.onFn_free (s : State) (k : Nat) (g : Func → Func) : (s.onFn k g).free = s.free := rfl
@[simp] theorem State.onFn_cfg (s : State) (k : Nat) (g : Func → Func) : (s.onFn k g).cfg = s.cfg := rfl
@[simp] theorem State.onFn_core (s : State) (k : Nat) (g : Func → Func) : (s.onFn k g).core = s.core := rfl
@[simp] theorem State.onFn_parts (s : State) (k : Nat) (g : Func → Func) : (s.onFn k g).parts = s.parts := rfl
@[simp] theorem State.onFn_tick (s : State) (k : Nat) (g : Func → Func) : (s.onFn k g).tick = s.tick := rfl
@[simp] theorem State.onFn_log (s : State) (k : Nat) (g : Func → Func) : (s.onFn k g).log = s.log := rfl
@[simp] theorem State.onFn_ports (s : State) (k : Nat) (g : Func → Func) : (s.onFn k g).ports = s.ports := rfl
@[simp] theorem State.onFn_power (s : State) (k : Nat) (g : Func → Func) : (s.onFn k g).power = s.power := rfl
@[simp] theorem State.onFn_boot (s : State) (k : Nat) (g : Func → Func) : (s.onFn k g).boot = s.boot := rfl
@[simp] theorem State.onFn_store (s : State) (k : Nat) (g : Func → Func) : (s.onFn k g).store = s.store := rfl
@[simp] theorem State.onFn_rom (s : State) (k : Nat) (g : Func → Func) : (s.onFn k g).rom = s.rom := rfl
@[simp] theorem State.onFn_tap (s : State) (k : Nat) (g : Func → Func) : (s.onFn k g).tap = s.tap := rfl

@[simp] theorem State.onCore_pending (s : State) (f : Core → Core) : (s.onCore f).pending = s.pending := rfl
@[simp] theorem State.onCore_time (s : State) (f : Core → Core) : (s.onCore f).time = s.time := rfl
@[simp] theorem State.onCore_resetAt (s : State) (f : Core → Core) : (s.onCore f).resetAt = s.resetAt := rfl
@[simp] theorem State.onCore_ccyc (s : State) (f : Core → Core) : (s.onCore f).ccyc = s.ccyc := rfl
@[simp] theorem State.onCore_free (s : State) (f : Core → Core) : (s.onCore f).free = s.free := rfl
@[simp] theorem State.onCore_cfg (s : State) (f : Core → Core) : (s.onCore f).cfg = s.cfg := rfl
@[simp] theorem State.onCore_parts (s : State) (f : Core → Core) : (s.onCore f).parts = s.parts := rfl
@[simp] theorem State.onCore_tick (s : State) (f : Core → Core) : (s.onCore f).tick = s.tick := rfl
@[simp] theorem State.onCore_host (s : State) (f : Core → Core) : (s.onCore f).host = s.host := rfl
@[simp] theorem State.onCore_log (s : State) (f : Core → Core) : (s.onCore f).log = s.log := rfl
@[simp] theorem State.onCore_ports (s : State) (f : Core → Core) : (s.onCore f).ports = s.ports := rfl
@[simp] theorem State.onCore_power (s : State) (f : Core → Core) : (s.onCore f).power = s.power := rfl
@[simp] theorem State.onCore_boot (s : State) (f : Core → Core) : (s.onCore f).boot = s.boot := rfl
@[simp] theorem State.onCore_store (s : State) (f : Core → Core) : (s.onCore f).store = s.store := rfl
@[simp] theorem State.onCore_rom (s : State) (f : Core → Core) : (s.onCore f).rom = s.rom := rfl
@[simp] theorem State.onCore_tap (s : State) (f : Core → Core) : (s.onCore f).tap = s.tap := rfl

@[simp] theorem State.answer_pending (s : State) (c : Completion) : (s.answer c).pending = s.pending := rfl
@[simp] theorem State.answer_time (s : State) (c : Completion) : (s.answer c).time = s.time := rfl
@[simp] theorem State.answer_resetAt (s : State) (c : Completion) : (s.answer c).resetAt = s.resetAt := rfl
@[simp] theorem State.answer_ccyc (s : State) (c : Completion) : (s.answer c).ccyc = s.ccyc := rfl
@[simp] theorem State.answer_free (s : State) (c : Completion) : (s.answer c).free = s.free := rfl
@[simp] theorem State.answer_cfg (s : State) (c : Completion) : (s.answer c).cfg = s.cfg := rfl
@[simp] theorem State.answer_core (s : State) (c : Completion) : (s.answer c).core = s.core := rfl
@[simp] theorem State.answer_parts (s : State) (c : Completion) : (s.answer c).parts = s.parts := rfl
@[simp] theorem State.answer_tick (s : State) (c : Completion) : (s.answer c).tick = s.tick := rfl
@[simp] theorem State.answer_log (s : State) (c : Completion) : (s.answer c).log = s.log := rfl
@[simp] theorem State.answer_ports (s : State) (c : Completion) : (s.answer c).ports = s.ports := rfl
@[simp] theorem State.answer_power (s : State) (c : Completion) : (s.answer c).power = s.power := rfl
@[simp] theorem State.answer_boot (s : State) (c : Completion) : (s.answer c).boot = s.boot := rfl
@[simp] theorem State.answer_store (s : State) (c : Completion) : (s.answer c).store = s.store := rfl
@[simp] theorem State.answer_rom (s : State) (c : Completion) : (s.answer c).rom = s.rom := rfl
@[simp] theorem State.answer_tap (s : State) (c : Completion) : (s.answer c).tap = s.tap := rfl

@[simp] theorem State.onStore_pending (s : State) (f : StoreSt → StoreSt) : (s.onStore f).pending = s.pending := rfl
@[simp] theorem State.onStore_time (s : State) (f : StoreSt → StoreSt) : (s.onStore f).time = s.time := rfl
@[simp] theorem State.onStore_resetAt (s : State) (f : StoreSt → StoreSt) : (s.onStore f).resetAt = s.resetAt := rfl
@[simp] theorem State.onStore_ccyc (s : State) (f : StoreSt → StoreSt) : (s.onStore f).ccyc = s.ccyc := rfl
@[simp] theorem State.onStore_free (s : State) (f : StoreSt → StoreSt) : (s.onStore f).free = s.free := rfl
@[simp] theorem State.onStore_cfg (s : State) (f : StoreSt → StoreSt) : (s.onStore f).cfg = s.cfg := rfl
@[simp] theorem State.onStore_core (s : State) (f : StoreSt → StoreSt) : (s.onStore f).core = s.core := rfl
@[simp] theorem State.onStore_parts (s : State) (f : StoreSt → StoreSt) : (s.onStore f).parts = s.parts := rfl
@[simp] theorem State.onStore_tick (s : State) (f : StoreSt → StoreSt) : (s.onStore f).tick = s.tick := rfl
@[simp] theorem State.onStore_host (s : State) (f : StoreSt → StoreSt) : (s.onStore f).host = s.host := rfl
@[simp] theorem State.onStore_log (s : State) (f : StoreSt → StoreSt) : (s.onStore f).log = s.log := rfl
@[simp] theorem State.onStore_ports (s : State) (f : StoreSt → StoreSt) : (s.onStore f).ports = s.ports := rfl
@[simp] theorem State.onStore_power (s : State) (f : StoreSt → StoreSt) : (s.onStore f).power = s.power := rfl
@[simp] theorem State.onStore_boot (s : State) (f : StoreSt → StoreSt) : (s.onStore f).boot = s.boot := rfl
@[simp] theorem State.onStore_rom (s : State) (f : StoreSt → StoreSt) : (s.onStore f).rom = s.rom := rfl
@[simp] theorem State.onStore_tap (s : State) (f : StoreSt → StoreSt) : (s.onStore f).tap = s.tap := rfl

@[simp] theorem State.setPort_pending (s : State) (i : Nat) (x : Port) : (s.setPort i x).pending = s.pending := rfl
@[simp] theorem State.setPort_time (s : State) (i : Nat) (x : Port) : (s.setPort i x).time = s.time := rfl
@[simp] theorem State.setPort_resetAt (s : State) (i : Nat) (x : Port) : (s.setPort i x).resetAt = s.resetAt := rfl
@[simp] theorem State.setPort_ccyc (s : State) (i : Nat) (x : Port) : (s.setPort i x).ccyc = s.ccyc := rfl
@[simp] theorem State.setPort_free (s : State) (i : Nat) (x : Port) : (s.setPort i x).free = s.free := rfl
@[simp] theorem State.setPort_cfg (s : State) (i : Nat) (x : Port) : (s.setPort i x).cfg = s.cfg := rfl
@[simp] theorem State.setPort_core (s : State) (i : Nat) (x : Port) : (s.setPort i x).core = s.core := rfl
@[simp] theorem State.setPort_parts (s : State) (i : Nat) (x : Port) : (s.setPort i x).parts = s.parts := rfl
@[simp] theorem State.setPort_tick (s : State) (i : Nat) (x : Port) : (s.setPort i x).tick = s.tick := rfl
@[simp] theorem State.setPort_host (s : State) (i : Nat) (x : Port) : (s.setPort i x).host = s.host := rfl
@[simp] theorem State.setPort_log (s : State) (i : Nat) (x : Port) : (s.setPort i x).log = s.log := rfl
@[simp] theorem State.setPort_power (s : State) (i : Nat) (x : Port) : (s.setPort i x).power = s.power := rfl
@[simp] theorem State.setPort_boot (s : State) (i : Nat) (x : Port) : (s.setPort i x).boot = s.boot := rfl
@[simp] theorem State.setPort_store (s : State) (i : Nat) (x : Port) : (s.setPort i x).store = s.store := rfl
@[simp] theorem State.setPort_rom (s : State) (i : Nat) (x : Port) : (s.setPort i x).rom = s.rom := rfl
@[simp] theorem State.setPort_tap (s : State) (i : Nat) (x : Port) : (s.setPort i x).tap = s.tap := rfl

@[simp] theorem State.onPort_pending (s : State) (i : Nat) (f : Port → Port) : (s.onPort i f).pending = s.pending := rfl
@[simp] theorem State.onPort_time (s : State) (i : Nat) (f : Port → Port) : (s.onPort i f).time = s.time := rfl
@[simp] theorem State.onPort_resetAt (s : State) (i : Nat) (f : Port → Port) : (s.onPort i f).resetAt = s.resetAt := rfl
@[simp] theorem State.onPort_ccyc (s : State) (i : Nat) (f : Port → Port) : (s.onPort i f).ccyc = s.ccyc := rfl
@[simp] theorem State.onPort_free (s : State) (i : Nat) (f : Port → Port) : (s.onPort i f).free = s.free := rfl
@[simp] theorem State.onPort_cfg (s : State) (i : Nat) (f : Port → Port) : (s.onPort i f).cfg = s.cfg := rfl
@[simp] theorem State.onPort_core (s : State) (i : Nat) (f : Port → Port) : (s.onPort i f).core = s.core := rfl
@[simp] theorem State.onPort_parts (s : State) (i : Nat) (f : Port → Port) : (s.onPort i f).parts = s.parts := rfl
@[simp] theorem State.onPort_tick (s : State) (i : Nat) (f : Port → Port) : (s.onPort i f).tick = s.tick := rfl
@[simp] theorem State.onPort_host (s : State) (i : Nat) (f : Port → Port) : (s.onPort i f).host = s.host := rfl
@[simp] theorem State.onPort_log (s : State) (i : Nat) (f : Port → Port) : (s.onPort i f).log = s.log := rfl
@[simp] theorem State.onPort_power (s : State) (i : Nat) (f : Port → Port) : (s.onPort i f).power = s.power := rfl
@[simp] theorem State.onPort_boot (s : State) (i : Nat) (f : Port → Port) : (s.onPort i f).boot = s.boot := rfl
@[simp] theorem State.onPort_store (s : State) (i : Nat) (f : Port → Port) : (s.onPort i f).store = s.store := rfl
@[simp] theorem State.onPort_rom (s : State) (i : Nat) (f : Port → Port) : (s.onPort i f).rom = s.rom := rfl
@[simp] theorem State.onPort_tap (s : State) (i : Nat) (f : Port → Port) : (s.onPort i f).tap = s.tap := rfl

@[simp] theorem State.signal_pending (s : State) (k v : Nat) : (s.signal k v).pending = s.pending := by
  unfold State.signal
  split <;> rfl
@[simp] theorem State.signal_time (s : State) (k v : Nat) : (s.signal k v).time = s.time := by
  unfold State.signal
  split <;> rfl
@[simp] theorem State.signal_resetAt (s : State) (k v : Nat) : (s.signal k v).resetAt = s.resetAt := by
  unfold State.signal
  split <;> rfl
@[simp] theorem State.signal_ccyc (s : State) (k v : Nat) : (s.signal k v).ccyc = s.ccyc := by
  unfold State.signal
  split <;> rfl
@[simp] theorem State.signal_free (s : State) (k v : Nat) : (s.signal k v).free = s.free := by
  unfold State.signal
  split <;> rfl
@[simp] theorem State.signal_cfg (s : State) (k v : Nat) : (s.signal k v).cfg = s.cfg := by
  unfold State.signal
  split <;> rfl
@[simp] theorem State.signal_core (s : State) (k v : Nat) : (s.signal k v).core = s.core := by
  unfold State.signal
  split <;> rfl
@[simp] theorem State.signal_parts (s : State) (k v : Nat) : (s.signal k v).parts = s.parts := by
  unfold State.signal
  split <;> rfl
@[simp] theorem State.signal_tick (s : State) (k v : Nat) : (s.signal k v).tick = s.tick := by
  unfold State.signal
  split <;> rfl
@[simp] theorem State.signal_log (s : State) (k v : Nat) : (s.signal k v).log = s.log := by
  unfold State.signal
  split <;> rfl
@[simp] theorem State.signal_ports (s : State) (k v : Nat) : (s.signal k v).ports = s.ports := by
  unfold State.signal
  split <;> rfl
@[simp] theorem State.signal_power (s : State) (k v : Nat) : (s.signal k v).power = s.power := by
  unfold State.signal
  split <;> rfl
@[simp] theorem State.signal_boot (s : State) (k v : Nat) : (s.signal k v).boot = s.boot := by
  unfold State.signal
  split <;> rfl
@[simp] theorem State.signal_store (s : State) (k v : Nat) : (s.signal k v).store = s.store := by
  unfold State.signal
  split <;> rfl
@[simp] theorem State.signal_rom (s : State) (k v : Nat) : (s.signal k v).rom = s.rom := by
  unfold State.signal
  split <;> rfl
@[simp] theorem State.signal_tap (s : State) (k v : Nat) : (s.signal k v).tap = s.tap := by
  unfold State.signal
  split <;> rfl

@[simp] theorem State.logSlot_pending (s : State) (x : LogSlot) : (s.logSlot x).pending = s.pending := rfl
@[simp] theorem State.logSlot_time (s : State) (x : LogSlot) : (s.logSlot x).time = s.time := rfl
@[simp] theorem State.logSlot_resetAt (s : State) (x : LogSlot) : (s.logSlot x).resetAt = s.resetAt := rfl
@[simp] theorem State.logSlot_ccyc (s : State) (x : LogSlot) : (s.logSlot x).ccyc = s.ccyc := rfl
@[simp] theorem State.logSlot_free (s : State) (x : LogSlot) : (s.logSlot x).free = s.free := rfl
@[simp] theorem State.logSlot_cfg (s : State) (x : LogSlot) : (s.logSlot x).cfg = s.cfg := rfl
@[simp] theorem State.logSlot_core (s : State) (x : LogSlot) : (s.logSlot x).core = s.core := rfl
@[simp] theorem State.logSlot_parts (s : State) (x : LogSlot) : (s.logSlot x).parts = s.parts := rfl
@[simp] theorem State.logSlot_tick (s : State) (x : LogSlot) : (s.logSlot x).tick = s.tick := rfl
@[simp] theorem State.logSlot_host (s : State) (x : LogSlot) : (s.logSlot x).host = s.host := rfl
@[simp] theorem State.logSlot_ports (s : State) (x : LogSlot) : (s.logSlot x).ports = s.ports := rfl
@[simp] theorem State.logSlot_power (s : State) (x : LogSlot) : (s.logSlot x).power = s.power := rfl
@[simp] theorem State.logSlot_boot (s : State) (x : LogSlot) : (s.logSlot x).boot = s.boot := rfl
@[simp] theorem State.logSlot_store (s : State) (x : LogSlot) : (s.logSlot x).store = s.store := rfl
@[simp] theorem State.logSlot_rom (s : State) (x : LogSlot) : (s.logSlot x).rom = s.rom := rfl
@[simp] theorem State.logSlot_tap (s : State) (x : LogSlot) : (s.logSlot x).tap = s.tap := rfl

@[simp] theorem State.event_pending (s : State) (code sev : Nat) (part : Option Nat) (detail : Nat) (ext : Option (List Byte)) : (s.event code sev part detail ext).pending = s.pending := by
  unfold State.event
  cases ext <;> dsimp only <;> split <;> first | exact State.signal_pending _ _ _ | rfl
@[simp] theorem State.event_time (s : State) (code sev : Nat) (part : Option Nat) (detail : Nat) (ext : Option (List Byte)) : (s.event code sev part detail ext).time = s.time := by
  unfold State.event
  cases ext <;> dsimp only <;> split <;> first | exact State.signal_time _ _ _ | rfl
@[simp] theorem State.event_resetAt (s : State) (code sev : Nat) (part : Option Nat) (detail : Nat) (ext : Option (List Byte)) : (s.event code sev part detail ext).resetAt = s.resetAt := by
  unfold State.event
  cases ext <;> dsimp only <;> split <;> first | exact State.signal_resetAt _ _ _ | rfl
@[simp] theorem State.event_ccyc (s : State) (code sev : Nat) (part : Option Nat) (detail : Nat) (ext : Option (List Byte)) : (s.event code sev part detail ext).ccyc = s.ccyc := by
  unfold State.event
  cases ext <;> dsimp only <;> split <;> first | exact State.signal_ccyc _ _ _ | rfl
@[simp] theorem State.event_free (s : State) (code sev : Nat) (part : Option Nat) (detail : Nat) (ext : Option (List Byte)) : (s.event code sev part detail ext).free = s.free := by
  unfold State.event
  cases ext <;> dsimp only <;> split <;> first | exact State.signal_free _ _ _ | rfl
@[simp] theorem State.event_cfg (s : State) (code sev : Nat) (part : Option Nat) (detail : Nat) (ext : Option (List Byte)) : (s.event code sev part detail ext).cfg = s.cfg := by
  unfold State.event
  cases ext <;> dsimp only <;> split <;> first | exact State.signal_cfg _ _ _ | rfl
@[simp] theorem State.event_core (s : State) (code sev : Nat) (part : Option Nat) (detail : Nat) (ext : Option (List Byte)) : (s.event code sev part detail ext).core = s.core := by
  unfold State.event
  cases ext <;> dsimp only <;> split <;> first | exact State.signal_core _ _ _ | rfl
@[simp] theorem State.event_parts (s : State) (code sev : Nat) (part : Option Nat) (detail : Nat) (ext : Option (List Byte)) : (s.event code sev part detail ext).parts = s.parts := by
  unfold State.event
  cases ext <;> dsimp only <;> split <;> first | exact State.signal_parts _ _ _ | rfl
@[simp] theorem State.event_tick (s : State) (code sev : Nat) (part : Option Nat) (detail : Nat) (ext : Option (List Byte)) : (s.event code sev part detail ext).tick = s.tick := by
  unfold State.event
  cases ext <;> dsimp only <;> split <;> first | exact State.signal_tick _ _ _ | rfl
@[simp] theorem State.event_ports (s : State) (code sev : Nat) (part : Option Nat) (detail : Nat) (ext : Option (List Byte)) : (s.event code sev part detail ext).ports = s.ports := by
  unfold State.event
  cases ext <;> dsimp only <;> split <;> first | exact State.signal_ports _ _ _ | rfl
@[simp] theorem State.event_power (s : State) (code sev : Nat) (part : Option Nat) (detail : Nat) (ext : Option (List Byte)) : (s.event code sev part detail ext).power = s.power := by
  unfold State.event
  cases ext <;> dsimp only <;> split <;> first | exact State.signal_power _ _ _ | rfl
@[simp] theorem State.event_boot (s : State) (code sev : Nat) (part : Option Nat) (detail : Nat) (ext : Option (List Byte)) : (s.event code sev part detail ext).boot = s.boot := by
  unfold State.event
  cases ext <;> dsimp only <;> split <;> first | exact State.signal_boot _ _ _ | rfl
@[simp] theorem State.event_store (s : State) (code sev : Nat) (part : Option Nat) (detail : Nat) (ext : Option (List Byte)) : (s.event code sev part detail ext).store = s.store := by
  unfold State.event
  cases ext <;> dsimp only <;> split <;> first | exact State.signal_store _ _ _ | rfl
@[simp] theorem State.event_rom (s : State) (code sev : Nat) (part : Option Nat) (detail : Nat) (ext : Option (List Byte)) : (s.event code sev part detail ext).rom = s.rom := by
  unfold State.event
  cases ext <;> dsimp only <;> split <;> first | exact State.signal_rom _ _ _ | rfl
@[simp] theorem State.event_tap (s : State) (code sev : Nat) (part : Option Nat) (detail : Nat) (ext : Option (List Byte)) : (s.event code sev part detail ext).tap = s.tap := by
  unfold State.event
  cases ext <;> dsimp only <;> split <;> first | exact State.signal_tap _ _ _ | rfl

@[simp] theorem State.capture_pending (s : State) (n : Nat) : (s.capture n).pending = s.pending := rfl
@[simp] theorem State.capture_time (s : State) (n : Nat) : (s.capture n).time = s.time := rfl
@[simp] theorem State.capture_resetAt (s : State) (n : Nat) : (s.capture n).resetAt = s.resetAt := rfl
@[simp] theorem State.capture_ccyc (s : State) (n : Nat) : (s.capture n).ccyc = s.ccyc := rfl
@[simp] theorem State.capture_free (s : State) (n : Nat) : (s.capture n).free = s.free := rfl
@[simp] theorem State.capture_cfg (s : State) (n : Nat) : (s.capture n).cfg = s.cfg := rfl
@[simp] theorem State.capture_core (s : State) (n : Nat) : (s.capture n).core = s.core := rfl
@[simp] theorem State.capture_parts (s : State) (n : Nat) : (s.capture n).parts = s.parts := rfl
@[simp] theorem State.capture_tick (s : State) (n : Nat) : (s.capture n).tick = s.tick := rfl
@[simp] theorem State.capture_host (s : State) (n : Nat) : (s.capture n).host = s.host := rfl
@[simp] theorem State.capture_log (s : State) (n : Nat) : (s.capture n).log = s.log := rfl
@[simp] theorem State.capture_ports (s : State) (n : Nat) : (s.capture n).ports = s.ports := rfl
@[simp] theorem State.capture_power (s : State) (n : Nat) : (s.capture n).power = s.power := rfl
@[simp] theorem State.capture_boot (s : State) (n : Nat) : (s.capture n).boot = s.boot := rfl
@[simp] theorem State.capture_store (s : State) (n : Nat) : (s.capture n).store = s.store := rfl
@[simp] theorem State.capture_rom (s : State) (n : Nat) : (s.capture n).rom = s.rom := rfl

@[simp] theorem State.takeFree_fst (s : State) : s.takeFree.1 = s.free := rfl
@[simp] theorem State.takeFree_pending (s : State) : s.takeFree.2.pending = s.pending := rfl
@[simp] theorem State.takeFree_time (s : State) : s.takeFree.2.time = s.time := rfl
@[simp] theorem State.takeFree_resetAt (s : State) : s.takeFree.2.resetAt = s.resetAt := rfl
@[simp] theorem State.takeFree_ccyc (s : State) : s.takeFree.2.ccyc = s.ccyc := rfl
@[simp] theorem State.takeFree_cfg (s : State) : s.takeFree.2.cfg = s.cfg := rfl
@[simp] theorem State.takeFree_core (s : State) : s.takeFree.2.core = s.core := rfl
@[simp] theorem State.takeFree_parts (s : State) : s.takeFree.2.parts = s.parts := rfl
@[simp] theorem State.takeFree_tick (s : State) : s.takeFree.2.tick = s.tick := rfl
@[simp] theorem State.takeFree_host (s : State) : s.takeFree.2.host = s.host := rfl
@[simp] theorem State.takeFree_log (s : State) : s.takeFree.2.log = s.log := rfl
@[simp] theorem State.takeFree_ports (s : State) : s.takeFree.2.ports = s.ports := rfl
@[simp] theorem State.takeFree_power (s : State) : s.takeFree.2.power = s.power := rfl
@[simp] theorem State.takeFree_boot (s : State) : s.takeFree.2.boot = s.boot := rfl
@[simp] theorem State.takeFree_store (s : State) : s.takeFree.2.store = s.store := rfl
@[simp] theorem State.takeFree_rom (s : State) : s.takeFree.2.rom = s.rom := rfl
@[simp] theorem State.takeFree_tap (s : State) : s.takeFree.2.tap = s.tap := rfl

@[simp] theorem State.freshId_fst (s : State) : s.freshId.1 = s.core.nextId := rfl
@[simp] theorem State.freshId_pending (s : State) : s.freshId.2.pending = s.pending := rfl
@[simp] theorem State.freshId_time (s : State) : s.freshId.2.time = s.time := rfl
@[simp] theorem State.freshId_resetAt (s : State) : s.freshId.2.resetAt = s.resetAt := rfl
@[simp] theorem State.freshId_ccyc (s : State) : s.freshId.2.ccyc = s.ccyc := rfl
@[simp] theorem State.freshId_free (s : State) : s.freshId.2.free = s.free := rfl
@[simp] theorem State.freshId_cfg (s : State) : s.freshId.2.cfg = s.cfg := rfl
@[simp] theorem State.freshId_parts (s : State) : s.freshId.2.parts = s.parts := rfl
@[simp] theorem State.freshId_tick (s : State) : s.freshId.2.tick = s.tick := rfl
@[simp] theorem State.freshId_host (s : State) : s.freshId.2.host = s.host := rfl
@[simp] theorem State.freshId_log (s : State) : s.freshId.2.log = s.log := rfl
@[simp] theorem State.freshId_ports (s : State) : s.freshId.2.ports = s.ports := rfl
@[simp] theorem State.freshId_power (s : State) : s.freshId.2.power = s.power := rfl
@[simp] theorem State.freshId_boot (s : State) : s.freshId.2.boot = s.boot := rfl
@[simp] theorem State.freshId_store (s : State) : s.freshId.2.store = s.store := rfl
@[simp] theorem State.freshId_rom (s : State) : s.freshId.2.rom = s.rom := rfl
@[simp] theorem State.freshId_tap (s : State) : s.freshId.2.tap = s.tap := rfl

/-! Fields of the core after an update of a Spire. -/

@[simp] theorem State.setSpire_core_sram (s : State) (k : Nat) (x : Spire) : (s.setSpire k x).core.sram = s.core.sram := rfl
@[simp] theorem State.setSpire_core_sramCe (s : State) (k : Nat) (x : Spire) : (s.setSpire k x).core.sramCe = s.core.sramCe := rfl
@[simp] theorem State.setSpire_core_sramUe (s : State) (k : Nat) (x : Spire) : (s.setSpire k x).core.sramUe = s.core.sramUe := rfl
@[simp] theorem State.setSpire_core_acc (s : State) (k : Nat) (x : Spire) : (s.setSpire k x).core.acc = s.core.acc := rfl
@[simp] theorem State.setSpire_core_tags (s : State) (k : Nat) (x : Spire) : (s.setSpire k x).core.tags = s.core.tags := rfl
@[simp] theorem State.setSpire_core_vreg (s : State) (k : Nat) (x : Spire) : (s.setSpire k x).core.vreg = s.core.vreg := rfl
@[simp] theorem State.setSpire_core_preds (s : State) (k : Nat) (x : Spire) : (s.setSpire k x).core.preds = s.core.preds := rfl
@[simp] theorem State.setSpire_core_offs (s : State) (k : Nat) (x : Spire) : (s.setSpire k x).core.offs = s.core.offs := rfl
@[simp] theorem State.setSpire_core_landing (s : State) (k : Nat) (x : Spire) : (s.setSpire k x).core.landing = s.core.landing := rfl
@[simp] theorem State.setSpire_core_inputs (s : State) (k : Nat) (x : Spire) : (s.setSpire k x).core.inputs = s.core.inputs := rfl
@[simp] theorem State.setSpire_core_twrites (s : State) (k : Nat) (x : Spire) : (s.setSpire k x).core.twrites = s.core.twrites := rfl
@[simp] theorem State.setSpire_core_arrivals (s : State) (k : Nat) (x : Spire) : (s.setSpire k x).core.arrivals = s.core.arrivals := rfl
@[simp] theorem State.setSpire_core_writeBacks (s : State) (k : Nat) (x : Spire) : (s.setSpire k x).core.writeBacks = s.core.writeBacks := rfl
@[simp] theorem State.setSpire_core_pushes (s : State) (k : Nat) (x : Spire) : (s.setSpire k x).core.pushes = s.core.pushes := rfl
@[simp] theorem State.setSpire_core_hbm (s : State) (k : Nat) (x : Spire) : (s.setSpire k x).core.hbm = s.core.hbm := rfl
@[simp] theorem State.setSpire_core_hbmBad (s : State) (k : Nat) (x : Spire) : (s.setSpire k x).core.hbmBad = s.core.hbmBad := rfl
@[simp] theorem State.setSpire_core_hbmSoft (s : State) (k : Nat) (x : Spire) : (s.setSpire k x).core.hbmSoft = s.core.hbmSoft := rfl
@[simp] theorem State.setSpire_core_hbmMode (s : State) (k : Nat) (x : Spire) : (s.setSpire k x).core.hbmMode = s.core.hbmMode := rfl
@[simp] theorem State.setSpire_core_hbmStacks (s : State) (k : Nat) (x : Spire) : (s.setSpire k x).core.hbmStacks = s.core.hbmStacks := rfl
@[simp] theorem State.setSpire_core_cupolas (s : State) (k : Nat) (x : Spire) : (s.setSpire k x).core.cupolas = s.core.cupolas := rfl
@[simp] theorem State.setSpire_core_mesh (s : State) (k : Nat) (x : Spire) : (s.setSpire k x).core.mesh = s.core.mesh := rfl
@[simp] theorem State.setSpire_core_nextId (s : State) (k : Nat) (x : Spire) : (s.setSpire k x).core.nextId = s.core.nextId := rfl

@[simp] theorem State.onSpire_core_sram (s : State) (k : Nat) (f : Spire → Spire) : (s.onSpire k f).core.sram = s.core.sram := rfl
@[simp] theorem State.onSpire_core_sramCe (s : State) (k : Nat) (f : Spire → Spire) : (s.onSpire k f).core.sramCe = s.core.sramCe := rfl
@[simp] theorem State.onSpire_core_sramUe (s : State) (k : Nat) (f : Spire → Spire) : (s.onSpire k f).core.sramUe = s.core.sramUe := rfl
@[simp] theorem State.onSpire_core_acc (s : State) (k : Nat) (f : Spire → Spire) : (s.onSpire k f).core.acc = s.core.acc := rfl
@[simp] theorem State.onSpire_core_tags (s : State) (k : Nat) (f : Spire → Spire) : (s.onSpire k f).core.tags = s.core.tags := rfl
@[simp] theorem State.onSpire_core_vreg (s : State) (k : Nat) (f : Spire → Spire) : (s.onSpire k f).core.vreg = s.core.vreg := rfl
@[simp] theorem State.onSpire_core_preds (s : State) (k : Nat) (f : Spire → Spire) : (s.onSpire k f).core.preds = s.core.preds := rfl
@[simp] theorem State.onSpire_core_offs (s : State) (k : Nat) (f : Spire → Spire) : (s.onSpire k f).core.offs = s.core.offs := rfl
@[simp] theorem State.onSpire_core_landing (s : State) (k : Nat) (f : Spire → Spire) : (s.onSpire k f).core.landing = s.core.landing := rfl
@[simp] theorem State.onSpire_core_inputs (s : State) (k : Nat) (f : Spire → Spire) : (s.onSpire k f).core.inputs = s.core.inputs := rfl
@[simp] theorem State.onSpire_core_twrites (s : State) (k : Nat) (f : Spire → Spire) : (s.onSpire k f).core.twrites = s.core.twrites := rfl
@[simp] theorem State.onSpire_core_arrivals (s : State) (k : Nat) (f : Spire → Spire) : (s.onSpire k f).core.arrivals = s.core.arrivals := rfl
@[simp] theorem State.onSpire_core_writeBacks (s : State) (k : Nat) (f : Spire → Spire) : (s.onSpire k f).core.writeBacks = s.core.writeBacks := rfl
@[simp] theorem State.onSpire_core_pushes (s : State) (k : Nat) (f : Spire → Spire) : (s.onSpire k f).core.pushes = s.core.pushes := rfl
@[simp] theorem State.onSpire_core_hbm (s : State) (k : Nat) (f : Spire → Spire) : (s.onSpire k f).core.hbm = s.core.hbm := rfl
@[simp] theorem State.onSpire_core_hbmBad (s : State) (k : Nat) (f : Spire → Spire) : (s.onSpire k f).core.hbmBad = s.core.hbmBad := rfl
@[simp] theorem State.onSpire_core_hbmSoft (s : State) (k : Nat) (f : Spire → Spire) : (s.onSpire k f).core.hbmSoft = s.core.hbmSoft := rfl
@[simp] theorem State.onSpire_core_hbmMode (s : State) (k : Nat) (f : Spire → Spire) : (s.onSpire k f).core.hbmMode = s.core.hbmMode := rfl
@[simp] theorem State.onSpire_core_hbmStacks (s : State) (k : Nat) (f : Spire → Spire) : (s.onSpire k f).core.hbmStacks = s.core.hbmStacks := rfl
@[simp] theorem State.onSpire_core_cupolas (s : State) (k : Nat) (f : Spire → Spire) : (s.onSpire k f).core.cupolas = s.core.cupolas := rfl
@[simp] theorem State.onSpire_core_mesh (s : State) (k : Nat) (f : Spire → Spire) : (s.onSpire k f).core.mesh = s.core.mesh := rfl
@[simp] theorem State.onSpire_core_nextId (s : State) (k : Nat) (f : Spire → Spire) : (s.onSpire k f).core.nextId = s.core.nextId := rfl

@[simp] theorem State.onCtr_core_sram (s : State) (k : Nat) (f : SpireCtr → SpireCtr) : (s.onCtr k f).core.sram = s.core.sram := rfl
@[simp] theorem State.onCtr_core_sramCe (s : State) (k : Nat) (f : SpireCtr → SpireCtr) : (s.onCtr k f).core.sramCe = s.core.sramCe := rfl
@[simp] theorem State.onCtr_core_sramUe (s : State) (k : Nat) (f : SpireCtr → SpireCtr) : (s.onCtr k f).core.sramUe = s.core.sramUe := rfl
@[simp] theorem State.onCtr_core_acc (s : State) (k : Nat) (f : SpireCtr → SpireCtr) : (s.onCtr k f).core.acc = s.core.acc := rfl
@[simp] theorem State.onCtr_core_tags (s : State) (k : Nat) (f : SpireCtr → SpireCtr) : (s.onCtr k f).core.tags = s.core.tags := rfl
@[simp] theorem State.onCtr_core_vreg (s : State) (k : Nat) (f : SpireCtr → SpireCtr) : (s.onCtr k f).core.vreg = s.core.vreg := rfl
@[simp] theorem State.onCtr_core_preds (s : State) (k : Nat) (f : SpireCtr → SpireCtr) : (s.onCtr k f).core.preds = s.core.preds := rfl
@[simp] theorem State.onCtr_core_offs (s : State) (k : Nat) (f : SpireCtr → SpireCtr) : (s.onCtr k f).core.offs = s.core.offs := rfl
@[simp] theorem State.onCtr_core_landing (s : State) (k : Nat) (f : SpireCtr → SpireCtr) : (s.onCtr k f).core.landing = s.core.landing := rfl
@[simp] theorem State.onCtr_core_inputs (s : State) (k : Nat) (f : SpireCtr → SpireCtr) : (s.onCtr k f).core.inputs = s.core.inputs := rfl
@[simp] theorem State.onCtr_core_twrites (s : State) (k : Nat) (f : SpireCtr → SpireCtr) : (s.onCtr k f).core.twrites = s.core.twrites := rfl
@[simp] theorem State.onCtr_core_arrivals (s : State) (k : Nat) (f : SpireCtr → SpireCtr) : (s.onCtr k f).core.arrivals = s.core.arrivals := rfl
@[simp] theorem State.onCtr_core_writeBacks (s : State) (k : Nat) (f : SpireCtr → SpireCtr) : (s.onCtr k f).core.writeBacks = s.core.writeBacks := rfl
@[simp] theorem State.onCtr_core_pushes (s : State) (k : Nat) (f : SpireCtr → SpireCtr) : (s.onCtr k f).core.pushes = s.core.pushes := rfl
@[simp] theorem State.onCtr_core_hbm (s : State) (k : Nat) (f : SpireCtr → SpireCtr) : (s.onCtr k f).core.hbm = s.core.hbm := rfl
@[simp] theorem State.onCtr_core_hbmBad (s : State) (k : Nat) (f : SpireCtr → SpireCtr) : (s.onCtr k f).core.hbmBad = s.core.hbmBad := rfl
@[simp] theorem State.onCtr_core_hbmSoft (s : State) (k : Nat) (f : SpireCtr → SpireCtr) : (s.onCtr k f).core.hbmSoft = s.core.hbmSoft := rfl
@[simp] theorem State.onCtr_core_hbmMode (s : State) (k : Nat) (f : SpireCtr → SpireCtr) : (s.onCtr k f).core.hbmMode = s.core.hbmMode := rfl
@[simp] theorem State.onCtr_core_hbmStacks (s : State) (k : Nat) (f : SpireCtr → SpireCtr) : (s.onCtr k f).core.hbmStacks = s.core.hbmStacks := rfl
@[simp] theorem State.onCtr_core_cupolas (s : State) (k : Nat) (f : SpireCtr → SpireCtr) : (s.onCtr k f).core.cupolas = s.core.cupolas := rfl
@[simp] theorem State.onCtr_core_mesh (s : State) (k : Nat) (f : SpireCtr → SpireCtr) : (s.onCtr k f).core.mesh = s.core.mesh := rfl
@[simp] theorem State.onCtr_core_nextId (s : State) (k : Nat) (f : SpireCtr → SpireCtr) : (s.onCtr k f).core.nextId = s.core.nextId := rfl

/-! Parts by number. -/

@[simp] theorem State.part_setPart (s : State) (p : Nat) (x : Part) : (s.setPart p x).part p = x := Tbl.get_put_same _ _ _ _
theorem State.part_setPart_ne (s : State) (x : Part) {p q : Nat} (h : q ≠ p) : (s.setPart p x).part q = s.part q := Tbl.get_put_other _ _ _ h
@[simp] theorem State.part_onPart (s : State) (p : Nat) (f : Part → Part) : (s.onPart p f).part p = f (s.part p) := Tbl.get_put_same _ _ _ _
theorem State.part_onPart_ne (s : State) (f : Part → Part) {p q : Nat} (h : q ≠ p) : (s.onPart p f).part q = s.part q := Tbl.get_put_other _ _ _ h
@[simp] theorem State.spire_setSpire (s : State) (k : Nat) (x : Spire) : (s.setSpire k x).spire k = x := Tbl.get_put_same _ _ _ _
theorem State.spire_setSpire_ne (s : State) (x : Spire) {k j : Nat} (h : j ≠ k) : (s.setSpire k x).spire j = s.spire j := Tbl.get_put_other _ _ _ h
@[simp] theorem State.spire_onSpire (s : State) (k : Nat) (f : Spire → Spire) : (s.onSpire k f).spire k = f (s.spire k) := Tbl.get_put_same _ _ _ _
theorem State.spire_onSpire_ne (s : State) (f : Spire → Spire) {k j : Nat} (h : j ≠ k) : (s.onSpire k f).spire j = s.spire j := Tbl.get_put_other _ _ _ h
@[simp] theorem State.fn_onFn (s : State) (k : Nat) (g : Func → Func) : (s.onFn k g).fn k = g (s.fn k) := Tbl.get_put_same _ _ _ _
theorem State.fn_onFn_ne (s : State) (g : Func → Func) {k j : Nat} (h : j ≠ k) : (s.onFn k g).fn j = s.fn j := Tbl.get_put_other _ _ _ h
@[simp] theorem State.port_setPort (s : State) (i : Nat) (x : Port) : (s.setPort i x).port i = x := Tbl.get_put_same _ _ _ _
theorem State.port_setPort_ne (s : State) (x : Port) {i j : Nat} (h : j ≠ i) : (s.setPort i x).port j = s.port j := Tbl.get_put_other _ _ _ h
@[simp] theorem State.port_onPort (s : State) (i : Nat) (f : Port → Port) : (s.onPort i f).port i = f (s.port i) := Tbl.get_put_same _ _ _ _
theorem State.port_onPort_ne (s : State) (f : Port → Port) {i j : Nat} (h : j ≠ i) : (s.onPort i f).port j = s.port j := Tbl.get_put_other _ _ _ h
@[simp] theorem Spire.ctx_onCtx (x : Spire) (c : Nat) (f : Ctx → Ctx) : (x.onCtx c f).ctx c = f (x.ctx c) := Tbl.get_put_same _ _ _ _
theorem Spire.ctx_onCtx_ne (x : Spire) (f : Ctx → Ctx) {c d : Nat} (h : d ≠ c) : (x.onCtx c f).ctx d = x.ctx d := Tbl.get_put_other _ _ _ h
@[simp] theorem Spire.unit_setUnit (x : Spire) (u : Nat) (l : List Xfer) : (x.setUnit u l).unit u = l := Tbl.get_put_same _ _ _ _
theorem Spire.unit_setUnit_ne (x : Spire) (l : List Xfer) {u v : Nat} (h : v ≠ u) : (x.setUnit u l).unit v = x.unit v := Tbl.get_put_other _ _ _ h

/-- The check of a burst fails exactly where the burst is uncorrectable. -/
theorem State.codeFails_eq (s : State) (b : Nat) : s.codeFails b = s.core.hbmBad.contains b := by
  unfold State.codeFails State.codeHeld
  cases s.core.hbmBad.contains b <;> simp

end Sys2Proof.Machine
end

