-- ==== Sys2Proof/Laws/Notify.lean ====
section
/-! SUPPORT. The fields of the state after a message, an answer or a change of an object: only the functions, the event log
and, for an object, the store and the pending switches are touched. -/

namespace Sys2Proof.Machine

@[simp] theorem State.post_pending (s : State) (fn : Nat) (bs : List Byte) : (s.post fn bs).pending = s.pending := by
  unfold State.post
  dsimp only
  split
  · rfl
  · rw [State.signal_pending, State.onFn_pending]
@[simp] theorem State.respond_pending (s : State) (fn m ty st : Nat) (b : List Byte) : (s.respond fn m ty st b).pending = s.pending := State.post_pending _ _ _
@[simp] theorem State.finish_pending (s : State) (fn m ty st : Nat) (b : List Byte) : (s.finish fn m ty st b).pending = s.pending := State.respond_pending _ _ _ _ _ _
@[simp] theorem State.pend_pending (s : State) (fn m ty : Nat) : (s.pend fn m ty).pending = s.pending := State.respond_pending _ _ _ _ _ _
@[simp] theorem State.post_time (s : State) (fn : Nat) (bs : List Byte) : (s.post fn bs).time = s.time := by
  unfold State.post
  dsimp only
  split
  · rfl
  · rw [State.signal_time, State.onFn_time]
@[simp] theorem State.respond_time (s : State) (fn m ty st : Nat) (b : List Byte) : (s.respond fn m ty st b).time = s.time := State.post_time _ _ _
@[simp] theorem State.finish_time (s : State) (fn m ty st : Nat) (b : List Byte) : (s.finish fn m ty st b).time = s.time := State.respond_time _ _ _ _ _ _
@[simp] theorem State.pend_time (s : State) (fn m ty : Nat) : (s.pend fn m ty).time = s.time := State.respond_time _ _ _ _ _ _
@[simp] theorem State.post_resetAt (s : State) (fn : Nat) (bs : List Byte) : (s.post fn bs).resetAt = s.resetAt := by
  unfold State.post
  dsimp only
  split
  · rfl
  · rw [State.signal_resetAt, State.onFn_resetAt]
@[simp] theorem State.respond_resetAt (s : State) (fn m ty st : Nat) (b : List Byte) : (s.respond fn m ty st b).resetAt = s.resetAt := State.post_resetAt _ _ _
@[simp] theorem State.finish_resetAt (s : State) (fn m ty st : Nat) (b : List Byte) : (s.finish fn m ty st b).resetAt = s.resetAt := State.respond_resetAt _ _ _ _ _ _
@[simp] theorem State.pend_resetAt (s : State) (fn m ty : Nat) : (s.pend fn m ty).resetAt = s.resetAt := State.respond_resetAt _ _ _ _ _ _
@[simp] theorem State.post_ccyc (s : State) (fn : Nat) (bs : List Byte) : (s.post fn bs).ccyc = s.ccyc := by
  unfold State.post
  dsimp only
  split
  · rfl
  · rw [State.signal_ccyc, State.onFn_ccyc]
@[simp] theorem State.respond_ccyc (s : State) (fn m ty st : Nat) (b : List Byte) : (s.respond fn m ty st b).ccyc = s.ccyc := State.post_ccyc _ _ _
@[simp] theorem State.finish_ccyc (s : State) (fn m ty st : Nat) (b : List Byte) : (s.finish fn m ty st b).ccyc = s.ccyc := State.respond_ccyc _ _ _ _ _ _
@[simp] theorem State.pend_ccyc (s : State) (fn m ty : Nat) : (s.pend fn m ty).ccyc = s.ccyc := State.respond_ccyc _ _ _ _ _ _
@[simp] theorem State.post_free (s : State) (fn : Nat) (bs : List Byte) : (s.post fn bs).free = s.free := by
  unfold State.post
  dsimp only
  split
  · rfl
  · rw [State.signal_free, State.onFn_free]
@[simp] theorem State.respond_free (s : State) (fn m ty st : Nat) (b : List Byte) : (s.respond fn m ty st b).free = s.free := State.post_free _ _ _
@[simp] theorem State.finish_free (s : State) (fn m ty st : Nat) (b : List Byte) : (s.finish fn m ty st b).free = s.free := State.respond_free _ _ _ _ _ _
@[simp] theorem State.pend_free (s : State) (fn m ty : Nat) : (s.pend fn m ty).free = s.free := State.respond_free _ _ _ _ _ _
@[simp] theorem State.post_cfg (s : State) (fn : Nat) (bs : List Byte) : (s.post fn bs).cfg = s.cfg := by
  unfold State.post
  dsimp only
  split
  · rfl
  · rw [State.signal_cfg, State.onFn_cfg]
@[simp] theorem State.respond_cfg (s : State) (fn m ty st : Nat) (b : List Byte) : (s.respond fn m ty st b).cfg = s.cfg := State.post_cfg _ _ _
@[simp] theorem State.finish_cfg (s : State) (fn m ty st : Nat) (b : List Byte) : (s.finish fn m ty st b).cfg = s.cfg := State.respond_cfg _ _ _ _ _ _
@[simp] theorem State.pend_cfg (s : State) (fn m ty : Nat) : (s.pend fn m ty).cfg = s.cfg := State.respond_cfg _ _ _ _ _ _
@[simp] theorem State.post_core (s : State) (fn : Nat) (bs : List Byte) : (s.post fn bs).core = s.core := by
  unfold State.post
  dsimp only
  split
  · rfl
  · rw [State.signal_core, State.onFn_core]
@[simp] theorem State.respond_core (s : State) (fn m ty st : Nat) (b : List Byte) : (s.respond fn m ty st b).core = s.core := State.post_core _ _ _
@[simp] theorem State.finish_core (s : State) (fn m ty st : Nat) (b : List Byte) : (s.finish fn m ty st b).core = s.core := State.respond_core _ _ _ _ _ _
@[simp] theorem State.pend_core (s : State) (fn m ty : Nat) : (s.pend fn m ty).core = s.core := State.respond_core _ _ _ _ _ _
@[simp] theorem State.post_parts (s : State) (fn : Nat) (bs : List Byte) : (s.post fn bs).parts = s.parts := by
  unfold State.post
  dsimp only
  split
  · rfl
  · rw [State.signal_parts, State.onFn_parts]
@[simp] theorem State.respond_parts (s : State) (fn m ty st : Nat) (b : List Byte) : (s.respond fn m ty st b).parts = s.parts := State.post_parts _ _ _
@[simp] theorem State.finish_parts (s : State) (fn m ty st : Nat) (b : List Byte) : (s.finish fn m ty st b).parts = s.parts := State.respond_parts _ _ _ _ _ _
@[simp] theorem State.pend_parts (s : State) (fn m ty : Nat) : (s.pend fn m ty).parts = s.parts := State.respond_parts _ _ _ _ _ _
@[simp] theorem State.post_tick (s : State) (fn : Nat) (bs : List Byte) : (s.post fn bs).tick = s.tick := by
  unfold State.post
  dsimp only
  split
  · rfl
  · rw [State.signal_tick, State.onFn_tick]
@[simp] theorem State.respond_tick (s : State) (fn m ty st : Nat) (b : List Byte) : (s.respond fn m ty st b).tick = s.tick := State.post_tick _ _ _
@[simp] theorem State.finish_tick (s : State) (fn m ty st : Nat) (b : List Byte) : (s.finish fn m ty st b).tick = s.tick := State.respond_tick _ _ _ _ _ _
@[simp] theorem State.pend_tick (s : State) (fn m ty : Nat) : (s.pend fn m ty).tick = s.tick := State.respond_tick _ _ _ _ _ _
@[simp] theorem State.post_log (s : State) (fn : Nat) (bs : List Byte) : (s.post fn bs).log = s.log := by
  unfold State.post
  dsimp only
  split
  · rfl
  · rw [State.signal_log, State.onFn_log]
@[simp] theorem State.respond_log (s : State) (fn m ty st : Nat) (b : List Byte) : (s.respond fn m ty st b).log = s.log := State.post_log _ _ _
@[simp] theorem State.finish_log (s : State) (fn m ty st : Nat) (b : List Byte) : (s.finish fn m ty st b).log = s.log := State.respond_log _ _ _ _ _ _
@[simp] theorem State.pend_log (s : State) (fn m ty : Nat) : (s.pend fn m ty).log = s.log := State.respond_log _ _ _ _ _ _
@[simp] theorem State.post_ports (s : State) (fn : Nat) (bs : List Byte) : (s.post fn bs).ports = s.ports := by
  unfold State.post
  dsimp only
  split
  · rfl
  · rw [State.signal_ports, State.onFn_ports]
@[simp] theorem State.respond_ports (s : State) (fn m ty st : Nat) (b : List Byte) : (s.respond fn m ty st b).ports = s.ports := State.post_ports _ _ _
@[simp] theorem State.finish_ports (s : State) (fn m ty st : Nat) (b : List Byte) : (s.finish fn m ty st b).ports = s.ports := State.respond_ports _ _ _ _ _ _
@[simp] theorem State.pend_ports (s : State) (fn m ty : Nat) : (s.pend fn m ty).ports = s.ports := State.respond_ports _ _ _ _ _ _
@[simp] theorem State.post_power (s : State) (fn : Nat) (bs : List Byte) : (s.post fn bs).power = s.power := by
  unfold State.post
  dsimp only
  split
  · rfl
  · rw [State.signal_power, State.onFn_power]
@[simp] theorem State.respond_power (s : State) (fn m ty st : Nat) (b : List Byte) : (s.respond fn m ty st b).power = s.power := State.post_power _ _ _
@[simp] theorem State.finish_power (s : State) (fn m ty st : Nat) (b : List Byte) : (s.finish fn m ty st b).power = s.power := State.respond_power _ _ _ _ _ _
@[simp] theorem State.pend_power (s : State) (fn m ty : Nat) : (s.pend fn m ty).power = s.power := State.respond_power _ _ _ _ _ _
@[simp] theorem State.post_boot (s : State) (fn : Nat) (bs : List Byte) : (s.post fn bs).boot = s.boot := by
  unfold State.post
  dsimp only
  split
  · rfl
  · rw [State.signal_boot, State.onFn_boot]
@[simp] theorem State.respond_boot (s : State) (fn m ty st : Nat) (b : List Byte) : (s.respond fn m ty st b).boot = s.boot := State.post_boot _ _ _
@[simp] theorem State.finish_boot (s : State) (fn m ty st : Nat) (b : List Byte) : (s.finish fn m ty st b).boot = s.boot := State.respond_boot _ _ _ _ _ _
@[simp] theorem State.pend_boot (s : State) (fn m ty : Nat) : (s.pend fn m ty).boot = s.boot := State.respond_boot _ _ _ _ _ _
@[simp] theorem State.post_store (s : State) (fn : Nat) (bs : List Byte) : (s.post fn bs).store = s.store := by
  unfold State.post
  dsimp only
  split
  · rfl
  · rw [State.signal_store, State.onFn_store]
@[simp] theorem State.respond_store (s : State) (fn m ty st : Nat) (b : List Byte) : (s.respond fn m ty st b).store = s.store := State.post_store _ _ _
@[simp] theorem State.finish_store (s : State) (fn m ty st : Nat) (b : List Byte) : (s.finish fn m ty st b).store = s.store := State.respond_store _ _ _ _ _ _
@[simp] theorem State.pend_store (s : State) (fn m ty : Nat) : (s.pend fn m ty).store = s.store := State.respond_store _ _ _ _ _ _
@[simp] theorem State.post_rom (s : State) (fn : Nat) (bs : List Byte) : (s.post fn bs).rom = s.rom := by
  unfold State.post
  dsimp only
  split
  · rfl
  · rw [State.signal_rom, State.onFn_rom]
@[simp] theorem State.respond_rom (s : State) (fn m ty st : Nat) (b : List Byte) : (s.respond fn m ty st b).rom = s.rom := State.post_rom _ _ _
@[simp] theorem State.finish_rom (s : State) (fn m ty st : Nat) (b : List Byte) : (s.finish fn m ty st b).rom = s.rom := State.respond_rom _ _ _ _ _ _
@[simp] theorem State.pend_rom (s : State) (fn m ty : Nat) : (s.pend fn m ty).rom = s.rom := State.respond_rom _ _ _ _ _ _
@[simp] theorem State.post_tap (s : State) (fn : Nat) (bs : List Byte) : (s.post fn bs).tap = s.tap := by
  unfold State.post
  dsimp only
  split
  · rfl
  · rw [State.signal_tap, State.onFn_tap]
@[simp] theorem State.respond_tap (s : State) (fn m ty st : Nat) (b : List Byte) : (s.respond fn m ty st b).tap = s.tap := State.post_tap _ _ _
@[simp] theorem State.finish_tap (s : State) (fn m ty st : Nat) (b : List Byte) : (s.finish fn m ty st b).tap = s.tap := State.respond_tap _ _ _ _ _ _
@[simp] theorem State.pend_tap (s : State) (fn m ty : Nat) : (s.pend fn m ty).tap = s.tap := State.respond_tap _ _ _ _ _ _
@[simp] theorem State.endUnselectable_pending (s : State) (p : Nat) : (s.endUnselectable p).pending = s.pending := by
  unfold State.endUnselectable
  split
  · rfl
  · split
    · rw [State.finish_pending, State.onPart_pending]
    · rfl
@[simp] theorem endUnselectables_pending (l : List Nat) (s : State) : (l.foldl State.endUnselectable s).pending = s.pending := by
  induction l generalizing s with
  | nil => rfl
  | cons a l ih => rw [List.foldl_cons, ih, State.endUnselectable_pending]
@[simp] theorem State.setObj_pending (s : State) (i : Nat) (x : ObjSt) : (s.setObj i x).pending = s.pending := by
  unfold State.setObj
  dsimp only
  split
  · rfl
  · split
    · rfl
    · split
      · rw [State.post_pending, State.post_pending, State.event_pending]
      · rw [endUnselectables_pending, State.post_pending, State.post_pending, State.event_pending]
@[simp] theorem State.haltStaging_pending (s : State) : s.haltStaging.pending = s.pending := by
  unfold State.haltStaging
  split
  · rfl
  · rw [State.setObj_pending, State.onStore_pending]
@[simp] theorem State.endUnselectable_time (s : State) (p : Nat) : (s.endUnselectable p).time = s.time := by
  unfold State.endUnselectable
  split
  · rfl
  · split
    · rw [State.finish_time, State.onPart_time]
    · rfl
@[simp] theorem endUnselectables_time (l : List Nat) (s : State) : (l.foldl State.endUnselectable s).time = s.time := by
  induction l generalizing s with
  | nil => rfl
  | cons a l ih => rw [List.foldl_cons, ih, State.endUnselectable_time]
@[simp] theorem State.setObj_time (s : State) (i : Nat) (x : ObjSt) : (s.setObj i x).time = s.time := by
  unfold State.setObj
  dsimp only
  split
  · rfl
  · split
    · rfl
    · split
      · rw [State.post_time, State.post_time, State.event_time]
      · rw [endUnselectables_time, State.post_time, State.post_time, State.event_time]
@[simp] theorem State.haltStaging_time (s : State) : s.haltStaging.time = s.time := by
  unfold State.haltStaging
  split
  · rfl
  · rw [State.setObj_time, State.onStore_time]
@[simp] theorem State.endUnselectable_resetAt (s : State) (p : Nat) : (s.endUnselectable p).resetAt = s.resetAt := by
  unfold State.endUnselectable
  split
  · rfl
  · split
    · rw [State.finish_resetAt, State.onPart_resetAt]
    · rfl
@[simp] theorem endUnselectables_resetAt (l : List Nat) (s : State) : (l.foldl State.endUnselectable s).resetAt = s.resetAt := by
  induction l generalizing s with
  | nil => rfl
  | cons a l ih => rw [List.foldl_cons, ih, State.endUnselectable_resetAt]
@[simp] theorem State.setObj_resetAt (s : State) (i : Nat) (x : ObjSt) : (s.setObj i x).resetAt = s.resetAt := by
  unfold State.setObj
  dsimp only
  split
  · rfl
  · split
    · rfl
    · split
      · rw [State.post_resetAt, State.post_resetAt, State.event_resetAt]
      · rw [endUnselectables_resetAt, State.post_resetAt, State.post_resetAt, State.event_resetAt]
@[simp] theorem State.haltStaging_resetAt (s : State) : s.haltStaging.resetAt = s.resetAt := by
  unfold State.haltStaging
  split
  · rfl
  · rw [State.setObj_resetAt, State.onStore_resetAt]
@[simp] theorem State.endUnselectable_ccyc (s : State) (p : Nat) : (s.endUnselectable p).ccyc = s.ccyc := by
  unfold State.endUnselectable
  split
  · rfl
  · split
    · rw [State.finish_ccyc, State.onPart_ccyc]
    · rfl
@[simp] theorem endUnselectables_ccyc (l : List Nat) (s : State) : (l.foldl State.endUnselectable s).ccyc = s.ccyc := by
  induction l generalizing s with
  | nil => rfl
  | cons a l ih => rw [List.foldl_cons, ih, State.endUnselectable_ccyc]
@[simp] theorem State.setObj_ccyc (s : State) (i : Nat) (x : ObjSt) : (s.setObj i x).ccyc = s.ccyc := by
  unfold State.setObj
  dsimp only
  split
  · rfl
  · split
    · rfl
    · split
      · rw [State.post_ccyc, State.post_ccyc, State.event_ccyc]
      · rw [endUnselectables_ccyc, State.post_ccyc, State.post_ccyc, State.event_ccyc]
@[simp] theorem State.haltStaging_ccyc (s : State) : s.haltStaging.ccyc = s.ccyc := by
  unfold State.haltStaging
  split
  · rfl
  · rw [State.setObj_ccyc, State.onStore_ccyc]
@[simp] theorem State.endUnselectable_free (s : State) (p : Nat) : (s.endUnselectable p).free = s.free := by
  unfold State.endUnselectable
  split
  · rfl
  · split
    · rw [State.finish_free, State.onPart_free]
    · rfl
@[simp] theorem endUnselectables_free (l : List Nat) (s : State) : (l.foldl State.endUnselectable s).free = s.free := by
  induction l generalizing s with
  | nil => rfl
  | cons a l ih => rw [List.foldl_cons, ih, State.endUnselectable_free]
@[simp] theorem State.setObj_free (s : State) (i : Nat) (x : ObjSt) : (s.setObj i x).free = s.free := by
  unfold State.setObj
  dsimp only
  split
  · rfl
  · split
    · rfl
    · split
      · rw [State.post_free, State.post_free, State.event_free]
      · rw [endUnselectables_free, State.post_free, State.post_free, State.event_free]
@[simp] theorem State.haltStaging_free (s : State) : s.haltStaging.free = s.free := by
  unfold State.haltStaging
  split
  · rfl
  · rw [State.setObj_free, State.onStore_free]
@[simp] theorem State.endUnselectable_cfg (s : State) (p : Nat) : (s.endUnselectable p).cfg = s.cfg := by
  unfold State.endUnselectable
  split
  · rfl
  · split
    · rw [State.finish_cfg, State.onPart_cfg]
    · rfl
@[simp] theorem endUnselectables_cfg (l : List Nat) (s : State) : (l.foldl State.endUnselectable s).cfg = s.cfg := by
  induction l generalizing s with
  | nil => rfl
  | cons a l ih => rw [List.foldl_cons, ih, State.endUnselectable_cfg]
@[simp] theorem State.setObj_cfg (s : State) (i : Nat) (x : ObjSt) : (s.setObj i x).cfg = s.cfg := by
  unfold State.setObj
  dsimp only
  split
  · rfl
  · split
    · rfl
    · split
      · rw [State.post_cfg, State.post_cfg, State.event_cfg]
      · rw [endUnselectables_cfg, State.post_cfg, State.post_cfg, State.event_cfg]
@[simp] theorem State.haltStaging_cfg (s : State) : s.haltStaging.cfg = s.cfg := by
  unfold State.haltStaging
  split
  · rfl
  · rw [State.setObj_cfg, State.onStore_cfg]
@[simp] theorem State.endUnselectable_core (s : State) (p : Nat) : (s.endUnselectable p).core = s.core := by
  unfold State.endUnselectable
  split
  · rfl
  · split
    · rw [State.finish_core, State.onPart_core]
    · rfl
@[simp] theorem endUnselectables_core (l : List Nat) (s : State) : (l.foldl State.endUnselectable s).core = s.core := by
  induction l generalizing s with
  | nil => rfl
  | cons a l ih => rw [List.foldl_cons, ih, State.endUnselectable_core]
@[simp] theorem State.setObj_core (s : State) (i : Nat) (x : ObjSt) : (s.setObj i x).core = s.core := by
  unfold State.setObj
  dsimp only
  split
  · rfl
  · split
    · rfl
    · split
      · rw [State.post_core, State.post_core, State.event_core]
      · rw [endUnselectables_core, State.post_core, State.post_core, State.event_core]
@[simp] theorem State.haltStaging_core (s : State) : s.haltStaging.core = s.core := by
  unfold State.haltStaging
  split
  · rfl
  · rw [State.setObj_core, State.onStore_core]
@[simp] theorem State.endUnselectable_tick (s : State) (p : Nat) : (s.endUnselectable p).tick = s.tick := by
  unfold State.endUnselectable
  split
  · rfl
  · split
    · rw [State.finish_tick, State.onPart_tick]
    · rfl
@[simp] theorem endUnselectables_tick (l : List Nat) (s : State) : (l.foldl State.endUnselectable s).tick = s.tick := by
  induction l generalizing s with
  | nil => rfl
  | cons a l ih => rw [List.foldl_cons, ih, State.endUnselectable_tick]
@[simp] theorem State.setObj_tick (s : State) (i : Nat) (x : ObjSt) : (s.setObj i x).tick = s.tick := by
  unfold State.setObj
  dsimp only
  split
  · rfl
  · split
    · rfl
    · split
      · rw [State.post_tick, State.post_tick, State.event_tick]
      · rw [endUnselectables_tick, State.post_tick, State.post_tick, State.event_tick]
@[simp] theorem State.haltStaging_tick (s : State) : s.haltStaging.tick = s.tick := by
  unfold State.haltStaging
  split
  · rfl
  · rw [State.setObj_tick, State.onStore_tick]
@[simp] theorem State.endUnselectable_ports (s : State) (p : Nat) : (s.endUnselectable p).ports = s.ports := by
  unfold State.endUnselectable
  split
  · rfl
  · split
    · rw [State.finish_ports, State.onPart_ports]
    · rfl
@[simp] theorem endUnselectables_ports (l : List Nat) (s : State) : (l.foldl State.endUnselectable s).ports = s.ports := by
  induction l generalizing s with
  | nil => rfl
  | cons a l ih => rw [List.foldl_cons, ih, State.endUnselectable_ports]
@[simp] theorem State.setObj_ports (s : State) (i : Nat) (x : ObjSt) : (s.setObj i x).ports = s.ports := by
  unfold State.setObj
  dsimp only
  split
  · rfl
  · split
    · rfl
    · split
      · rw [State.post_ports, State.post_ports, State.event_ports]
      · rw [endUnselectables_ports, State.post_ports, State.post_ports, State.event_ports]
@[simp] theorem State.haltStaging_ports (s : State) : s.haltStaging.ports = s.ports := by
  unfold State.haltStaging
  split
  · rfl
  · rw [State.setObj_ports, State.onStore_ports]
@[simp] theorem State.endUnselectable_power (s : State) (p : Nat) : (s.endUnselectable p).power = s.power := by
  unfold State.endUnselectable
  split
  · rfl
  · split
    · rw [State.finish_power, State.onPart_power]
    · rfl
@[simp] theorem endUnselectables_power (l : List Nat) (s : State) : (l.foldl State.endUnselectable s).power = s.power := by
  induction l generalizing s with
  | nil => rfl
  | cons a l ih => rw [List.foldl_cons, ih, State.endUnselectable_power]
@[simp] theorem State.setObj_power (s : State) (i : Nat) (x : ObjSt) : (s.setObj i x).power = s.power := by
  unfold State.setObj
  dsimp only
  split
  · rfl
  · split
    · rfl
    · split
      · rw [State.post_power, State.post_power, State.event_power]
      · rw [endUnselectables_power, State.post_power, State.post_power, State.event_power]
@[simp] theorem State.haltStaging_power (s : State) : s.haltStaging.power = s.power := by
  unfold State.haltStaging
  split
  · rfl
  · rw [State.setObj_power, State.onStore_power]
@[simp] theorem State.endUnselectable_boot (s : State) (p : Nat) : (s.endUnselectable p).boot = s.boot := by
  unfold State.endUnselectable
  split
  · rfl
  · split
    · rw [State.finish_boot, State.onPart_boot]
    · rfl
@[simp] theorem endUnselectables_boot (l : List Nat) (s : State) : (l.foldl State.endUnselectable s).boot = s.boot := by
  induction l generalizing s with
  | nil => rfl
  | cons a l ih => rw [List.foldl_cons, ih, State.endUnselectable_boot]
@[simp] theorem State.setObj_boot (s : State) (i : Nat) (x : ObjSt) : (s.setObj i x).boot = s.boot := by
  unfold State.setObj
  dsimp only
  split
  · rfl
  · split
    · rfl
    · split
      · rw [State.post_boot, State.post_boot, State.event_boot]
      · rw [endUnselectables_boot, State.post_boot, State.post_boot, State.event_boot]
@[simp] theorem State.haltStaging_boot (s : State) : s.haltStaging.boot = s.boot := by
  unfold State.haltStaging
  split
  · rfl
  · rw [State.setObj_boot, State.onStore_boot]
@[simp] theorem State.endUnselectable_rom (s : State) (p : Nat) : (s.endUnselectable p).rom = s.rom := by
  unfold State.endUnselectable
  split
  · rfl
  · split
    · rw [State.finish_rom, State.onPart_rom]
    · rfl
@[simp] theorem endUnselectables_rom (l : List Nat) (s : State) : (l.foldl State.endUnselectable s).rom = s.rom := by
  induction l generalizing s with
  | nil => rfl
  | cons a l ih => rw [List.foldl_cons, ih, State.endUnselectable_rom]
@[simp] theorem State.setObj_rom (s : State) (i : Nat) (x : ObjSt) : (s.setObj i x).rom = s.rom := by
  unfold State.setObj
  dsimp only
  split
  · rfl
  · split
    · rfl
    · split
      · rw [State.post_rom, State.post_rom, State.event_rom]
      · rw [endUnselectables_rom, State.post_rom, State.post_rom, State.event_rom]
@[simp] theorem State.haltStaging_rom (s : State) : s.haltStaging.rom = s.rom := by
  unfold State.haltStaging
  split
  · rfl
  · rw [State.setObj_rom, State.onStore_rom]
@[simp] theorem State.endUnselectable_tap (s : State) (p : Nat) : (s.endUnselectable p).tap = s.tap := by
  unfold State.endUnselectable
  split
  · rfl
  · split
    · rw [State.finish_tap, State.onPart_tap]
    · rfl
@[simp] theorem endUnselectables_tap (l : List Nat) (s : State) : (l.foldl State.endUnselectable s).tap = s.tap := by
  induction l generalizing s with
  | nil => rfl
  | cons a l ih => rw [List.foldl_cons, ih, State.endUnselectable_tap]
@[simp] theorem State.setObj_tap (s : State) (i : Nat) (x : ObjSt) : (s.setObj i x).tap = s.tap := by
  unfold State.setObj
  dsimp only
  split
  · rfl
  · split
    · rfl
    · split
      · rw [State.post_tap, State.post_tap, State.event_tap]
      · rw [endUnselectables_tap, State.post_tap, State.post_tap, State.event_tap]
@[simp] theorem State.haltStaging_tap (s : State) : s.haltStaging.tap = s.tap := by
  unfold State.haltStaging
  split
  · rfl
  · rw [State.setObj_tap, State.onStore_tap]

end Sys2Proof.Machine
end

