-- ==== Sys2Proof/Laws/Flash.lean ====
section
/-! SUPPORT. What reading, programming and erasing do, byte by byte. -/

namespace Sys2Proof.Machine

@[simp] theorem Tbl.length_getRun {α : Type} (d : α) (t : Tbl α) (k n : Nat) : (Tbl.getRun d t k n).length = n := by
  induction n generalizing k with
  | zero => rfl
  | succ n ih => simp [Tbl.getRun, ih]

/-- A run of values, one by one. -/
theorem Tbl.getD_getRun {α : Type} (d e : α) (t : Tbl α) (k n i : Nat) (h : i < n) :
    (Tbl.getRun d t k n).getD i e = Tbl.get d (k + i) t := by
  induction n generalizing k i with
  | zero => omega
  | succ n ih =>
    cases i with
    | zero => simp [Tbl.getRun]
    | succ i =>
      have := ih (k + 1) i (by omega)
      simp only [Tbl.getRun, List.getD_cons_succ, this]
      congr 1
      omega

/-- A programmed byte keeps its zeros; every other byte stays. -/
theorem get_programBytes (bs : List Byte) : ∀ (a b : Nat) (m : Bytes),
    Tbl.get 0xFF#8 b (programBytes m a bs) =
      if a ≤ b ∧ b < a + bs.length then Tbl.get 0xFF#8 b m &&& bs.getD (b - a) 0#8 else Tbl.get 0xFF#8 b m := by
  induction bs with
  | nil => intro a b m; simp [programBytes]
  | cons x bs ih =>
    intro a b m
    simp only [programBytes, ih, Tbl.get_put, List.length_cons]
    by_cases hb : b = a
    · subst hb
      simp
    · simp only [hb, if_false]
      by_cases h : a + 1 ≤ b ∧ b < a + 1 + bs.length
      · have h2 : a ≤ b ∧ b < a + (bs.length + 1) := by omega
        have h3 : b - a = b - (a + 1) + 1 := by omega
        rw [if_pos h, if_pos h2, h3, List.getD_cons_succ]
      · have h2 : ¬(a ≤ b ∧ b < a + (bs.length + 1)) := by omega
        rw [if_neg h, if_neg h2]

end Sys2Proof.Machine
end

