-- ==== Sys2Proof/Laws/Keeps.lean ====
section
/-! SUPPORT. What every operation on the state keeps: the queue, the canonical form of each memory, and every blown fuse;
and time does not run backwards. Each operation has one lemma, named after it, that carries the relation through it. -/

namespace Sys2Proof.Machine

/-- Every slot store is in canonical form. -/
def portsWf (t : Tbl Port) : Bool := t.all (fun e => e.2.wf)
/-- Every mailbox is in canonical form. -/
def fnsWf (t : Tbl Func) : Bool := t.all (fun e => e.2.mbx.wf)

/-- What no operation on the state changes for the worse. -/
structure Keeps (s t : State) : Prop where
  pending : t.pending = s.pending
  time : s.time ≤ t.time
  fuses : s.rom.otp.within t.rom.otp = true
  core : s.core.wf = true → t.core.wf = true
  rom : s.rom.wf = true → t.rom.wf = true
  ports : portsWf s.ports = true → portsWf t.ports = true
  fns : fnsWf s.host.fns = true → fnsWf t.host.fns = true

theorem blownIn_refl {n : Nat} (x : BitVec n) : blownIn x x = true := by simp [blownIn]

theorem blownIn_trans {n : Nat} {x y z : BitVec n} (h : blownIn x y = true) (k : blownIn y z = true) : blownIn x z = true := by
  simp only [blownIn, beq_iff_eq] at *
  rw [← h, BitVec.and_assoc, k]

theorem blownIn_or {n : Nat} (x y : BitVec n) : blownIn x (x ||| y) = true := by
  simp only [blownIn, beq_iff_eq]
  ext i hi
  simp only [BitVec.getElem_and, BitVec.getElem_or]
  cases x[i] <;> simp

theorem Otp.within_refl (o : Otp) : o.within o = true := by simp [Otp.within, blownIn_refl]

theorem Otp.within_trans {o p q : Otp} (h : o.within p = true) (k : p.within q = true) : o.within q = true := by
  simp only [Otp.within, Bool.and_eq_true, Bool.or_eq_true, Bool.not_eq_true'] at *
  obtain ⟨⟨⟨⟨⟨⟨⟨⟨⟨⟨h1, h2⟩, h3⟩, h4⟩, h5⟩, h6⟩, h7⟩, h8⟩, h9⟩, h10⟩, h11⟩ := h
  obtain ⟨⟨⟨⟨⟨⟨⟨⟨⟨⟨k1, k2⟩, k3⟩, k4⟩, k5⟩, k6⟩, k7⟩, k8⟩, k9⟩, k10⟩, k11⟩ := k
  refine ⟨⟨⟨⟨⟨⟨⟨⟨⟨⟨blownIn_trans h1 k1, blownIn_trans h2 k2⟩, blownIn_trans h3 k3⟩, blownIn_trans h4 k4⟩, blownIn_trans h5 k5⟩,
    blownIn_trans h6 k6⟩, blownIn_trans h7 k7⟩, blownIn_trans h8 k8⟩, blownIn_trans h9 k9⟩, blownIn_trans h10 k10⟩, ?_⟩
  rcases h11 with h | h
  · exact .inl h
  · rcases k11 with k | k
    · simp [h] at k
    · exact .inr k

theorem Keeps.refl (s : State) : Keeps s s := ⟨rfl, Nat.le_refl _, Otp.within_refl _, id, id, id, id⟩

theorem Keeps.trans {s t u : State} (h : Keeps s t) (k : Keeps t u) : Keeps s u :=
  ⟨k.pending.trans h.pending, Nat.le_trans h.time k.time, Otp.within_trans h.fuses k.fuses,
    fun x => k.core (h.core x), fun x => k.rom (h.rom x), fun x => k.ports (h.ports x), fun x => k.fns (h.fns x)⟩

/-- The canonical forms of all memories together. -/
theorem Keeps.memory {s t : State} (h : Keeps s t) (w : s.memoryWf = true) : t.memoryWf = true := by
  simp only [State.memoryWf, Bool.and_eq_true] at *
  exact ⟨⟨⟨h.core w.1.1.1, h.rom w.1.1.2⟩, h.ports w.1.2⟩, h.fns w.2⟩

/-- An update that leaves the parts concerned as they are, but for what it proves of them. -/
theorem Keeps.to {s a t : State} (h : Keeps s a) (hp : t.pending = a.pending) (ht : t.time = a.time)
    (hc : a.core.wf = true → t.core.wf = true) (hr : t.rom.otp = a.rom.otp) (hm : a.rom.wf = true → t.rom.wf = true)
    (ho : portsWf a.ports = true → portsWf t.ports = true) (hf : fnsWf a.host.fns = true → fnsWf t.host.fns = true) : Keeps s t :=
  h.trans ⟨hp, Nat.le_of_eq ht.symm, hr ▸ Otp.within_refl _, hc, hm, ho, hf⟩

/-- An update of the fields of a state, given by what it proves of the four parts that `Keeps` speaks of. -/
theorem Keeps.upd {s a : State} {resetAt free : Nat} {ccyc : BitVec 48} {cfg : Cfg} {core : Core} {parts : Tbl Part} {tick : Tick}
    {host : HostSt} {log : Log} {ports : Tbl Port} {power : Power} {boot : Boot} {store : StoreSt} {rom : Rom} {tap : Tap}
    (h : Keeps s a) (hc : a.core.wf = true → core.wf = true) (hr : rom.otp = a.rom.otp) (hm : a.rom.wf = true → rom.wf = true)
    (ho : portsWf a.ports = true → portsWf ports = true) (hf : fnsWf a.host.fns = true → fnsWf host.fns = true) :
    Keeps s ⟨a.pending, a.time, resetAt, ccyc, free, cfg, core, parts, tick, host, log, ports, power, boot, store, rom, tap⟩ :=
  h.to rfl rfl hc hr hm ho hf

theorem Keeps.ite {s a b : State} {c : Prop} [Decidable c] (h : Keeps s a) (k : Keeps s b) : Keeps s (if c then a else b) := by
  split
  · exact h
  · exact k

theorem Keeps.foldl {β : Type} {s a : State} {f : State → β → State} {l : List β} (h : Keeps s a)
    (hf : ∀ b x, Keeps s b → Keeps s (f b x)) : Keeps s (l.foldl f a) := by
  induction l generalizing a with
  | nil => exact h
  | cons x l ih => exact ih (hf _ _ h)

theorem Keeps.foldlFst {β γ : Type} {s : State} {f : State × γ → β → State × γ} {l : List β} {a : State × γ} (h : Keeps s a.1)
    (hf : ∀ b x, Keeps s b.1 → Keeps s (f b x).1) : Keeps s (l.foldl f a).1 := by
  induction l generalizing a with
  | nil => exact h
  | cons x l ih => exact ih (hf _ _ h)

theorem Keeps.foldlSnd {β γ : Type} {s : State} {f : γ × State → β → γ × State} {l : List β} {a : γ × State} (h : Keeps s a.2)
    (hf : ∀ b x, Keeps s b.2 → Keeps s (f b x).2) : Keeps s (l.foldl f a).2 := by
  induction l generalizing a with
  | nil => exact h
  | cons x l ih => exact ih (hf _ _ h)

/-- What the state of an answer keeps. -/
theorem Keeps.some {s a t : State} (h : Keeps s a) (e : Option.some a = Option.some t) : Keeps s t := Option.some.inj e ▸ h

/-! Tables of parts. -/

theorem all_erase {α : Type} (p : Nat × α → Bool) (k : Nat) (t : Tbl α) (h : t.all p = true) : (Tbl.erase k t).all p = true := by
  rw [List.all_eq_true] at *
  exact fun e he => h e ((Tbl.erase_sublist k t).subset he)

theorem all_put {α : Type} [DecidableEq α] (p : Nat × α → Bool) (d : α) (k : Nat) (v : α) (t : Tbl α) (h : t.all p = true)
    (hv : p (k, v) = true) : (Tbl.put d k v t).all p = true := by
  unfold Tbl.put
  split
  · exact all_erase p k t h
  · rw [List.all_eq_true] at *
    intro e he
    rcases Tbl.mem_insert he with rfl | he
    · exact hv
    · exact h e he

theorem all_get {α : Type} (p : α → Bool) (d : α) (k : Nat) (t : Tbl α) (h : t.all (fun e => p e.2) = true) (hd : p d = true) :
    p (Tbl.get d k t) = true := by
  induction t with
  | nil => simpa [Tbl.get] using hd
  | cons e t ih =>
    simp only [List.all_cons, Bool.and_eq_true] at h
    simp only [Tbl.get]
    split
    · exact h.1
    · exact ih h.2

/-! The state's own parts. -/

theorem State.onCore_keeps {s a : State} (f : Core → Core) (h : Keeps s a) (hf : ∀ c, c.wf = true → (f c).wf = true) :
    Keeps s (a.onCore f) := h.to rfl rfl (hf _) rfl id id id

theorem State.setPart_keeps {s a : State} (p : Nat) (x : Part) (h : Keeps s a) : Keeps s (a.setPart p x) := h.to rfl rfl id rfl id id id
theorem State.onPart_keeps {s a : State} (p : Nat) (f : Part → Part) (h : Keeps s a) : Keeps s (a.onPart p f) := h.to rfl rfl id rfl id id id
theorem State.setSpire_keeps {s a : State} (sp : Nat) (x : Spire) (h : Keeps s a) : Keeps s (a.setSpire sp x) := h.to rfl rfl id rfl id id id
theorem State.onSpire_keeps {s a : State} (sp : Nat) (f : Spire → Spire) (h : Keeps s a) : Keeps s (a.onSpire sp f) := h.to rfl rfl id rfl id id id
theorem State.onCtr_keeps {s a : State} (sp : Nat) (f : SpireCtr → SpireCtr) (h : Keeps s a) : Keeps s (a.onCtr sp f) := h.to rfl rfl id rfl id id id
theorem State.answer_keeps {s a : State} (c : Completion) (h : Keeps s a) : Keeps s (a.answer c) := h.to rfl rfl id rfl id id id
theorem State.freshId_keeps {s a : State} (h : Keeps s a) : Keeps s a.freshId.2 := h.to rfl rfl id rfl id id id
theorem State.takeFree_keeps {s a : State} (h : Keeps s a) : Keeps s a.takeFree.2 := h.to rfl rfl id rfl id id id
theorem State.onStore_keeps {s a : State} (f : StoreSt → StoreSt) (h : Keeps s a) : Keeps s (a.onStore f) := h.to rfl rfl id rfl id id id

theorem State.onFn_keeps {s a : State} (k : Nat) (g : Func → Func) (h : Keeps s a)
    (hg : ∀ f : Func, f.mbx.wf = true → (g f).mbx.wf = true) : Keeps s (a.onFn k g) :=
  h.to rfl rfl id rfl id id (fun w => all_put _ _ _ _ _ w (hg _ (all_get (fun f : Func => f.mbx.wf) _ _ _ w rfl)))

theorem State.fn_wf {a : State} (k : Nat) (w : fnsWf a.host.fns = true) : (a.fn k).mbx.wf = true :=
  all_get (fun f : Func => f.mbx.wf) _ _ _ w rfl

/-- The same where the new function is made from what the state holds. -/
theorem State.onFn_keeps' {s a : State} (k : Nat) (g : Func → Func) (h : Keeps s a)
    (hg : fnsWf a.host.fns = true → (g (a.fn k)).mbx.wf = true) : Keeps s (a.onFn k g) :=
  h.to rfl rfl id rfl id id (fun w => all_put _ _ _ _ _ w (hg w))

theorem State.onPort_keeps {s a : State} (i : Nat) (f : Port → Port) (h : Keeps s a)
    (hf : ∀ x : Port, Tbl.wf 0#8 x.store = true → Tbl.wf 0#8 (f x).store = true) : Keeps s (a.onPort i f) :=
  h.to rfl rfl id rfl id (fun w => all_put _ _ _ _ _ w (hf _ (all_get Port.wf _ _ _ w rfl))) id

theorem State.port_wf {a : State} {i : Nat} (w : portsWf a.ports = true) : Tbl.wf 0#8 (a.port i).store = true :=
  all_get Port.wf _ _ _ w rfl

theorem State.setPort_keeps {s a : State} (i : Nat) (x : Port) (h : Keeps s a)
    (hx : portsWf a.ports = true → Tbl.wf 0#8 x.store = true) : Keeps s (a.setPort i x) :=
  h.to rfl rfl id rfl id (fun w => all_put _ _ _ _ _ w (hx w)) id

@[simp] theorem Port.onLane_store (x : Port) (p : Nat) (f : Lane → Lane) : (x.onLane p f).store = x.store := rfl

end Sys2Proof.Machine
end

