-- ==== Sys2Proof/Laws/KeepsOps.lean ====
section
/-! SUPPORT. What the operations of these families keep (see Keeps): Ops, Flash, Cupola, Hbm, Operands, Compute. -/

set_option linter.unusedTactic false
set_option linter.unreachableTactic false
set_option linter.unusedVariables false

namespace Sys2Proof.Machine

/-- What the state of a pair keeps. -/
theorem Keeps.fst {γ : Type} {s t : State} {p : State × γ} {x : γ} (h : Keeps s p.1) (e : p = (t, x)) : Keeps s t := by
  subst e; exact h
theorem Keeps.snd {γ : Type} {s t : State} {p : γ × State} {x : γ} (h : Keeps s p.2) (e : p = (x, t)) : Keeps s t := by
  subst e; exact h

theorem putSram_wf (tile : Nat) (bs : List Byte) : ∀ (a : Nat) (m : Bytes), Tbl.wf 0#8 m = true → Tbl.wf 0#8 (putSram m tile a bs) = true := by
  induction bs with
  | nil => exact fun _ _ h => h
  | cons b bs ih => exact fun a m h => ih _ _ (Tbl.wf_put _ _ h)

theorem Core.wf_iff (c : Core) : c.wf = true ↔ Tbl.wf 0#8 c.sram = true ∧ Tbl.wf 0#8 c.inputs = true ∧ Tbl.wf 0#8 c.hbm = true := by
  simp [Core.wf, and_assoc]

theorem Rom.wf_iff (r : Rom) : r.wf = true ↔ Tbl.wf 0xFF#8 r.flash = true ∧ Tbl.wf 0#8 r.image = true := by simp [Rom.wf]

theorem Mailbox.wf_iff (m : Mailbox) : m.wf = true ↔ Tbl.wf 0#8 m.req = true ∧ Tbl.wf 0#8 m.rsp = true := by simp [Mailbox.wf]

theorem State.signal_keeps {s a : State} (fn : Nat) (vec : Nat) (h : Keeps s a) : Keeps s (State.signal a fn vec) := by
  unfold State.signal
  all_goals try dsimp only [State.takeFree, State.freshId]
  repeat' first
    | with_reducible assumption
    | (with_reducible apply State.onFn_keeps)
    | (with_reducible refine Keeps.foldl ?_ ?_)
    | (with_reducible refine Keeps.foldlFst ?_ ?_)
    | (with_reducible refine Keeps.foldlSnd ?_ ?_)
    | (intro b x hb; try dsimp only [State.takeFree, State.freshId])
    | split
    | (apply Keeps.upd)
    | exact fun _ w => w
    | (intro b w; try dsimp only; (repeat' split) <;> first | exact w | (rw [Core.wf_iff] at *; exact w))

theorem State.logSlot_keeps {s a : State} (x : Sys2Proof.Machine.LogSlot) (h : Keeps s a) : Keeps s (State.logSlot a x) := by
  unfold State.logSlot
  all_goals try dsimp only [State.takeFree, State.freshId]
  repeat' first
    | with_reducible assumption
    | (with_reducible refine Keeps.foldl ?_ ?_)
    | (with_reducible refine Keeps.foldlFst ?_ ?_)
    | (with_reducible refine Keeps.foldlSnd ?_ ?_)
    | (intro b x hb; try dsimp only [State.takeFree, State.freshId])
    | split
    | (apply Keeps.upd)
    | exact fun _ w => w
    | (intro b w; try dsimp only; (repeat' split) <;> first | exact w | (rw [Core.wf_iff] at *; exact w))
    | exact fun w => w
    | exact rfl

theorem State.event_keeps {s a : State} (code : ℕ) (sev : ℕ) (part : Option ℕ) (detail : ℕ) (ext : optParam (Option (List Sys2Proof.Byte)) none) (h : Keeps s a) : Keeps s (State.event a code sev part detail ext) := by
  unfold State.event
  all_goals try dsimp only [State.takeFree, State.freshId]
  repeat' first
    | with_reducible assumption
    | (with_reducible apply State.logSlot_keeps)
    | (with_reducible apply State.signal_keeps)
    | (with_reducible refine Keeps.foldl ?_ ?_)
    | (with_reducible refine Keeps.foldlFst ?_ ?_)
    | (with_reducible refine Keeps.foldlSnd ?_ ?_)
    | (intro b x hb; try dsimp only [State.takeFree, State.freshId])
    | split
    | (apply Keeps.upd)
    | exact fun _ w => w
    | (intro b w; try dsimp only; (repeat' split) <;> first | exact w | (rw [Core.wf_iff] at *; exact w))
    | exact fun w => w
    | exact rfl

theorem State.frozenEvent_keeps {s a : State} (p : ℕ) (reason : ℕ) (spire : ℕ) (master : ℕ) (detail : ℕ) (ctx : ℕ) (port : ℕ) (addr : ℕ) (window : ℕ) (ns : ℕ) (msgId : ℕ) (h : Keeps s a) : Keeps s (State.frozenEvent a p reason spire master detail ctx port addr window ns msgId) := by
  unfold State.frozenEvent
  all_goals try dsimp only [State.takeFree, State.freshId]
  repeat' first
    | with_reducible assumption
    | (with_reducible apply State.signal_keeps)
    | (with_reducible apply State.event_keeps)
    | (with_reducible refine Keeps.foldl ?_ ?_)
    | (with_reducible refine Keeps.foldlFst ?_ ?_)
    | (with_reducible refine Keeps.foldlSnd ?_ ?_)
    | (intro b x hb; try dsimp only [State.takeFree, State.freshId])
    | split

theorem State.freeze_keeps {s a : State} (sp : ℕ) (master : ℕ) (reason : ℕ) (detail : ℕ) (addr : ℕ) (ctx : optParam ℕ 0) (window : optParam ℕ 255) (h : Keeps s a) : Keeps s (State.freeze a sp master reason detail addr ctx window) := by
  unfold State.freeze
  all_goals try dsimp only [State.takeFree, State.freshId]
  repeat' first
    | with_reducible assumption
    | (with_reducible apply State.onCore_keeps)
    | (with_reducible apply State.setSpire_keeps)
    | (with_reducible apply State.frozenEvent_keeps)
    | (with_reducible refine Keeps.foldl ?_ ?_)
    | (with_reducible refine Keeps.foldlFst ?_ ?_)
    | (with_reducible refine Keeps.foldlSnd ?_ ?_)
    | (intro b x hb; try dsimp only [State.takeFree, State.freshId])
    | split
    | (apply Keeps.upd)
    | exact fun _ w => w
    | (intro b w; try dsimp only; (repeat' split) <;> first | exact w | (rw [Core.wf_iff] at *; exact w))
    | exact fun w => w
    | exact rfl

theorem State.freezeAll_keeps {s a : State} (p : ℕ) (reason : ℕ) (detail : ℕ) (addr : ℕ) (h : Keeps s a) : Keeps s (State.freezeAll a p reason detail addr) := by
  unfold State.freezeAll
  all_goals try dsimp only [State.takeFree, State.freshId]
  repeat' first
    | with_reducible assumption
    | (with_reducible apply State.freeze_keeps)
    | (with_reducible refine Keeps.foldl ?_ ?_)
    | (with_reducible refine Keeps.foldlFst ?_ ?_)
    | (with_reducible refine Keeps.foldlSnd ?_ ?_)
    | (intro b x hb; try dsimp only [State.takeFree, State.freshId])
    | split

theorem State.freezeHost_keeps {s a : State} (p : ℕ) (reason : ℕ) (write : Bool) (off : ℕ) (ns : ℕ) (msgId : ℕ) (h : Keeps s a) : Keeps s (State.freezeHost a p reason write off ns msgId) := by
  unfold State.freezeHost
  all_goals try dsimp only [State.takeFree, State.freshId]
  repeat' first
    | with_reducible assumption
    | (with_reducible apply State.frozenEvent_keeps)
    | (with_reducible apply State.setPart_keeps)
    | (with_reducible refine Keeps.foldl ?_ ?_)
    | (with_reducible refine Keeps.foldlFst ?_ ?_)
    | (with_reducible refine Keeps.foldlSnd ?_ ?_)
    | (intro b x hb; try dsimp only [State.takeFree, State.freshId])
    | split

theorem State.freezeSlots_keeps {s a : State} (p : ℕ) (port : ℕ) (h : Keeps s a) : Keeps s (State.freezeSlots a p port) := by
  unfold State.freezeSlots
  all_goals try dsimp only [State.takeFree, State.freshId]
  repeat' first
    | with_reducible assumption
    | (with_reducible apply State.frozenEvent_keeps)
    | (with_reducible apply State.setPart_keeps)
    | (with_reducible refine Keeps.foldl ?_ ?_)
    | (with_reducible refine Keeps.foldlFst ?_ ?_)
    | (with_reducible refine Keeps.foldlSnd ?_ ?_)
    | (intro b x hb; try dsimp only [State.takeFree, State.freshId])
    | split

theorem State.sramWrite_keeps {s a : State} (tile : Nat) (a0 : Nat) (bs : List Byte) (h : Keeps s a) : Keeps s (State.sramWrite a tile a0 bs) := by
  unfold State.sramWrite
  refine State.onCore_keeps _ h (fun c w => ?_)
  rw [Core.wf_iff] at *
  exact ⟨putSram_wf _ _ _ _ w.1, w.2⟩

theorem State.upset_keeps {s a : State} (us : List Upset) (h : Keeps s a) : Keeps s (State.upset a us) := by
  unfold State.upset
  refine Keeps.foldl h (fun b x hb => ?_)
  dsimp only
  split
  · refine State.onCore_keeps _ (State.takeFree_keeps hb) (fun c w => ?_)
    rw [Core.wf_iff] at *
    exact ⟨putSram_wf _ _ _ _ w.1, w.2⟩
  · split
    · exact hb
    · exact State.onCore_keeps _ hb (fun _ w => w)

theorem State.noteReads_keeps {s a : State} (sp : ℕ) (reads : List (ℕ × ℕ × ℕ)) (ctx : optParam ℕ 0) (h : Keeps s a) : Keeps s (State.noteReads a sp reads ctx) := by
  unfold State.noteReads
  all_goals try dsimp only [State.takeFree, State.freshId]
  repeat' first
    | with_reducible assumption
    | (with_reducible apply State.onCtr_keeps)
    | (with_reducible apply State.freeze_keeps)
    | (with_reducible refine Keeps.foldl ?_ ?_)
    | (with_reducible refine Keeps.foldlFst ?_ ?_)
    | (with_reducible refine Keeps.foldlSnd ?_ ?_)
    | (intro b x hb; try dsimp only [State.takeFree, State.freshId])
    | split

theorem State.hbmWrite_keeps {s a : State} (a0 : Nat) (bs : List Byte) (h : Keeps s a) : Keeps s (State.hbmWrite a a0 bs) := by
  unfold State.hbmWrite
  refine State.onCore_keeps _ h (fun c w => ?_)
  rw [Core.wf_iff] at *
  exact ⟨w.1, w.2.1, Tbl.wf_putRun _ _ _ w.2.2⟩

theorem State.hbmZero_keeps {s a : State} (a0 : Nat) (n : Nat) (h : Keeps s a) : Keeps s (State.hbmZero a a0 n) := by
  unfold State.hbmZero
  refine State.onCore_keeps _ h (fun c w => ?_)
  rw [Core.wf_iff] at *
  exact ⟨w.1, w.2.1, Tbl.wf_clear _ _ w.2.2⟩

theorem State.hbmSpoil_keeps {s a : State} (bad : Option ℕ) (h : Keeps s a) : Keeps s (State.hbmSpoil a bad) := by
  unfold State.hbmSpoil
  all_goals try dsimp only [State.takeFree, State.freshId]
  repeat' first
    | with_reducible assumption
    | (with_reducible apply State.onCore_keeps)
    | (with_reducible refine Keeps.foldl ?_ ?_)
    | (with_reducible refine Keeps.foldlFst ?_ ?_)
    | (with_reducible refine Keeps.foldlSnd ?_ ?_)
    | (intro b x hb; try dsimp only [State.takeFree, State.freshId])
    | split
    | (apply Keeps.upd)
    | exact fun _ w => w
    | (intro b w; try dsimp only; (repeat' split) <;> first | exact w | (rw [Core.wf_iff] at *; exact w))
    | exact fun w => w
    | exact rfl

theorem State.countUe_keeps {s a : State} (bursts : List Nat) (h : Keeps s a) : Keeps s (State.countUe a bursts) :=
  Keeps.foldl h (fun _ _ hb => State.onCore_keeps _ hb (fun _ w => w))

theorem State.spoilFlash_keeps {s a : State}  (h : Keeps s a) : Keeps s (State.spoilFlash a) := by
  unfold State.spoilFlash
  refine h.to rfl rfl id rfl (fun w => ?_) id id
  rw [Rom.wf_iff] at w ⊢
  exact ⟨Tbl.wf_putRun _ _ _ w.1, w.2⟩

theorem State.cutPlinth_keeps {s a : State} (h : Keeps s a) : Keeps s (State.cutPlinth a) := by
  unfold State.cutPlinth
  all_goals try dsimp only [State.takeFree, State.freshId]
  repeat' first
    | with_reducible assumption
    | (with_reducible apply State.spoilFlash_keeps)
    | (with_reducible refine Keeps.foldl ?_ ?_)
    | (with_reducible refine Keeps.foldlFst ?_ ?_)
    | (with_reducible refine Keeps.foldlSnd ?_ ?_)
    | (intro b x hb; try dsimp only [State.takeFree, State.freshId])
    | split
    | (apply Keeps.upd)
    | exact fun _ w => w
    | (intro b w; try dsimp only; (repeat' split) <;> first | exact w | (rw [Core.wf_iff] at *; exact w))
    | exact fun w => w
    | exact rfl

theorem Otp.within_setHash (o : Otp) (k : Nat) (v : BitVec 384) : o.within (o.setHash k v) = true := by
  unfold Otp.setHash
  split
  · simp [Otp.within, blownIn_refl, blownIn_or]
  · simp [Otp.within, blownIn_refl, blownIn_or]
  · simp [Otp.within, blownIn_refl, blownIn_or]
  · simp [Otp.within, blownIn_refl, blownIn_or]

theorem Otp.within_provision (o : Otp) (j : ProvJob) : o.within (o.provision j) = true := by
  cases j with
  | slot k v => exact Otp.within_setHash o k.val v
  | lock => simp [Otp.provision, Otp.within, blownIn_refl]

theorem Otp.within_provisionPart (o : Otp) (n : Nat) (j : ProvJob) : o.within (o.provisionPart n j) = true := by
  cases j with
  | slot k v => exact Otp.within_setHash o k.val _
  | lock =>
    cases hl : o.lock <;> simp [Otp.provisionPart, Otp.within, blownIn_refl, hl]

theorem State.cutProvision_keeps {s a : State}  (h : Keeps s a) : Keeps s (State.cutProvision a) := by
  unfold State.cutProvision
  split
  · exact h
  · exact h.trans ⟨rfl, Nat.le_refl _, Otp.within_provisionPart _ _ _, id, id, id, id⟩

theorem State.setCupola_keeps {s a : State} (h1 : ℕ) (c : Sys2Proof.Machine.Cupola) (h : Keeps s a) : Keeps s (State.setCupola a h1 c) := by
  unfold State.setCupola
  all_goals try dsimp only [State.takeFree, State.freshId]
  repeat' first
    | with_reducible assumption
    | (with_reducible apply State.onCore_keeps)
    | (with_reducible refine Keeps.foldl ?_ ?_)
    | (with_reducible refine Keeps.foldlFst ?_ ?_)
    | (with_reducible refine Keeps.foldlSnd ?_ ?_)
    | (intro b x hb; try dsimp only [State.takeFree, State.freshId])
    | split
    | (apply Keeps.upd)
    | exact fun _ w => w
    | (intro b w; try dsimp only; (repeat' split) <;> first | exact w | (rw [Core.wf_iff] at *; exact w))
    | exact fun w => w
    | exact rfl

theorem State.belfryRead_keeps {s a : State} (h1 : ℕ) (a2 : ℕ) (n : ℕ) (h : Keeps s a) : Keeps s (State.belfryRead a h1 a2 n).2 := by
  unfold State.belfryRead
  all_goals try dsimp only [State.takeFree, State.freshId]
  repeat' first
    | with_reducible assumption
    | (with_reducible apply State.setCupola_keeps)
    | (with_reducible apply State.countUe_keeps)
    | (with_reducible refine Keeps.foldl ?_ ?_)
    | (with_reducible refine Keeps.foldlFst ?_ ?_)
    | (with_reducible refine Keeps.foldlSnd ?_ ?_)
    | (intro b x hb; try dsimp only [State.takeFree, State.freshId])
    | split

theorem State.setCtl_keeps {s a : State} (pc : ℕ) (x : Sys2Proof.Machine.Ctl) (h : Keeps s a) : Keeps s (State.setCtl a pc x) := by
  unfold State.setCtl
  all_goals try dsimp only [State.takeFree, State.freshId]
  repeat' first
    | with_reducible assumption
    | (with_reducible apply State.onCore_keeps)
    | (with_reducible refine Keeps.foldl ?_ ?_)
    | (with_reducible refine Keeps.foldlFst ?_ ?_)
    | (with_reducible refine Keeps.foldlSnd ?_ ?_)
    | (intro b x hb; try dsimp only [State.takeFree, State.freshId])
    | split
    | (apply Keeps.upd)
    | exact fun _ w => w
    | (intro b w; try dsimp only; (repeat' split) <;> first | exact w | (rw [Core.wf_iff] at *; exact w))
    | exact fun w => w
    | exact rfl

theorem State.enterRead_keeps {s a : State} (q : Sys2Proof.Machine.QRead) (h : Keeps s a) : Keeps s (State.enterRead a q) := by
  unfold State.enterRead
  all_goals try dsimp only [State.takeFree, State.freshId]
  repeat' first
    | with_reducible assumption
    | (with_reducible apply State.setCtl_keeps)
    | (with_reducible refine Keeps.foldl ?_ ?_)
    | (with_reducible refine Keeps.foldlFst ?_ ?_)
    | (with_reducible refine Keeps.foldlSnd ?_ ?_)
    | (intro b x hb; try dsimp only [State.takeFree, State.freshId])
    | split

theorem State.admit_keeps {s a : State} (pc : ℕ) (h : Keeps s a) : Keeps s (State.admitReads a pc) := by
  unfold State.admitReads
  all_goals try dsimp only [State.takeFree, State.freshId]
  repeat' first
    | with_reducible assumption
    | (with_reducible apply State.setCtl_keeps)
    | (with_reducible refine Keeps.foldl ?_ ?_)
    | (with_reducible refine Keeps.foldlFst ?_ ?_)
    | (with_reducible refine Keeps.foldlSnd ?_ ?_)
    | (intro b x hb; try dsimp only [State.takeFree, State.freshId])
    | split

theorem State.admitAll_keeps {s a : State} (h : Keeps s a) : Keeps s (State.admitAll a) := by
  unfold State.admitAll
  all_goals try dsimp only [State.takeFree, State.freshId]
  repeat' first
    | with_reducible assumption
    | (with_reducible apply State.admit_keeps)
    | (with_reducible refine Keeps.foldl ?_ ?_)
    | (with_reducible refine Keeps.foldlFst ?_ ?_)
    | (with_reducible refine Keeps.foldlSnd ?_ ?_)
    | (intro b x hb; try dsimp only [State.takeFree, State.freshId])
    | split

theorem State.serveRead_keeps {s a t : State} {q : _} {a1 : ℕ} {sp : ℕ} {unit : ℕ} {xfer : ℕ} {req : ℕ} (h : Keeps s a) (e : State.serveRead a a1 sp unit xfer req = some (q, t)) : Keeps s t := by
  unfold State.serveRead at e
  try dsimp only at e
  repeat' split at e
  all_goals first | (cases e; done) | (cases e) | (injection e with e; injection e; subst_vars) | (obtain ⟨_, _, e⟩ := Option.map_eq_some_iff.1 e; subst e) | skip
  all_goals try dsimp only [State.takeFree, State.freshId]
  repeat' first
    | with_reducible assumption
    | (with_reducible apply State.admit_keeps)
    | (with_reducible apply State.setCtl_keeps)
    | (with_reducible refine Keeps.foldl ?_ ?_)
    | (with_reducible refine Keeps.foldlFst ?_ ?_)
    | (with_reducible refine Keeps.foldlSnd ?_ ?_)
    | (intro b x hb; try dsimp only [State.takeFree, State.freshId])
    | split

theorem State.forgetRead_keeps {s a : State} (sp : ℕ) (unit : ℕ) (xfer : ℕ) (req : ℕ) (h : Keeps s a) : Keeps s (State.forgetRead a sp unit xfer req) := by
  unfold State.forgetRead
  all_goals try dsimp only [State.takeFree, State.freshId]
  repeat' first
    | with_reducible assumption
    | (with_reducible apply State.admitAll_keeps)
    | (with_reducible apply State.onCore_keeps)
    | (with_reducible refine Keeps.foldl ?_ ?_)
    | (with_reducible refine Keeps.foldlFst ?_ ?_)
    | (with_reducible refine Keeps.foldlSnd ?_ ?_)
    | (intro b x hb; try dsimp only [State.takeFree, State.freshId])
    | split
    | (apply Keeps.upd)
    | exact fun _ w => w
    | (intro b w; try dsimp only; (repeat' split) <;> first | exact w | (rw [Core.wf_iff] at *; exact w))
    | exact fun w => w
    | exact rfl

theorem State.enterWrite_keeps {s a t : State} {a1 : ℕ} (h : Keeps s a) (e : State.enterWrite a a1 = some t) : Keeps s t := by
  unfold State.enterWrite at e
  try dsimp only at e
  repeat' split at e
  all_goals first | (cases e; done) | (cases e) | (injection e with e; injection e; subst_vars) | (obtain ⟨_, _, e⟩ := Option.map_eq_some_iff.1 e; subst e) | skip
  all_goals try dsimp only [State.takeFree, State.freshId]
  repeat' first
    | with_reducible assumption
    | (with_reducible apply State.setCtl_keeps)
    | (with_reducible refine Keeps.foldl ?_ ?_)
    | (with_reducible refine Keeps.foldlFst ?_ ?_)
    | (with_reducible refine Keeps.foldlSnd ?_ ?_)
    | (intro b x hb; try dsimp only [State.takeFree, State.freshId])
    | split

theorem State.serveWrites_keeps {s a : State} (h : Keeps s a) : Keeps s (State.serveWrites a) := by
  unfold State.serveWrites
  all_goals try dsimp only [State.takeFree, State.freshId]
  repeat' first
    | with_reducible assumption
    | (with_reducible apply State.onCore_keeps)
    | (with_reducible refine Keeps.foldl ?_ ?_)
    | (with_reducible refine Keeps.foldlFst ?_ ?_)
    | (with_reducible refine Keeps.foldlSnd ?_ ?_)
    | (intro b x hb; try dsimp only [State.takeFree, State.freshId])
    | split
    | (apply Keeps.upd)
    | exact fun _ w => w
    | (intro b w; try dsimp only; (repeat' split) <;> first | exact w | (rw [Core.wf_iff] at *; exact w))
    | exact fun w => w
    | exact rfl

theorem State.countBursts_keeps {s a : State} (a1 : ℕ) (b : Sys2Proof.BurstRec) (h : Keeps s a) : Keeps s (State.countBursts a a1 b) := by
  unfold State.countBursts
  all_goals try dsimp only [State.takeFree, State.freshId]
  repeat' first
    | with_reducible assumption
    | (with_reducible apply State.onCore_keeps)
    | (with_reducible refine Keeps.foldl ?_ ?_)
    | (with_reducible refine Keeps.foldlFst ?_ ?_)
    | (with_reducible refine Keeps.foldlSnd ?_ ?_)
    | (intro b x hb; try dsimp only [State.takeFree, State.freshId])
    | split
    | (apply Keeps.upd)
    | exact fun _ w => w
    | (intro b w; try dsimp only; (repeat' split) <;> first | exact w | (rw [Core.wf_iff] at *; exact w))
    | exact fun w => w
    | exact rfl

theorem State.writePieces_keeps {s a : State} (r : Sys2Proof.Machine.Req) (h : Keeps s a) : Keeps s (State.writePieces a r) := by
  unfold State.writePieces
  all_goals try dsimp only [State.takeFree, State.freshId]
  repeat' first
    | with_reducible assumption
    | (with_reducible apply State.hbmWrite_keeps)
    | (with_reducible apply State.onCore_keeps)
    | (with_reducible refine Keeps.foldl ?_ ?_)
    | (with_reducible refine Keeps.foldlFst ?_ ?_)
    | (with_reducible refine Keeps.foldlSnd ?_ ?_)
    | (intro b x hb; try dsimp only [State.takeFree, State.freshId])
    | split
    | (apply Keeps.upd)
    | exact fun _ w => w
    | (intro b w; try dsimp only; (repeat' split) <;> first | exact w | (rw [Core.wf_iff] at *; exact w))
    | exact fun w => w
    | exact rfl

theorem State.cupolaMeets_keeps {s a : State} (h1 : ℕ) (line : ℕ) (e3 : Sys2Proof.CupolaErr) (h : Keeps s a) : Keeps s (State.cupolaMeets a h1 line e3) := by
  unfold State.cupolaMeets
  all_goals try dsimp only [State.takeFree, State.freshId]
  repeat' first
    | with_reducible assumption
    | (with_reducible apply State.setCupola_keeps)
    | (with_reducible refine Keeps.foldl ?_ ?_)
    | (with_reducible refine Keeps.foldlFst ?_ ?_)
    | (with_reducible refine Keeps.foldlSnd ?_ ?_)
    | (intro b x hb; try dsimp only [State.takeFree, State.freshId])
    | split

theorem State.strike_keeps {s a : State} (l : List CupolaUpset) (h : Keeps s a) : Keeps s (State.strike a l) := by
  unfold State.strike
  all_goals try dsimp only [State.takeFree, State.freshId]
  repeat' first
    | with_reducible assumption
    | (with_reducible apply State.setCupola_keeps)
    | (with_reducible refine Keeps.foldl ?_ ?_)
    | (with_reducible refine Keeps.foldlFst ?_ ?_)
    | (with_reducible refine Keeps.foldlSnd ?_ ?_)
    | (intro b x hb; try dsimp only [State.takeFree, State.freshId])
    | split

theorem State.countEach_keeps {s a : State} (l : List (ℕ × BurstRec)) (h : Keeps s a) : Keeps s (State.countEach a l) := by
  unfold State.countEach
  all_goals try dsimp only [State.takeFree, State.freshId]
  repeat' first
    | with_reducible assumption
    | (with_reducible apply State.countBursts_keeps)
    | (with_reducible refine Keeps.foldl ?_ ?_)
    | (with_reducible refine Keeps.foldlFst ?_ ?_)
    | (with_reducible refine Keeps.foldlSnd ?_ ?_)
    | (intro b x hb; try dsimp only [State.takeFree, State.freshId])
    | split

theorem State.meetSoft_keeps {s a : State} (k n : Nat) (h : Keeps s a) : Keeps s (State.meetSoft a k n) := by
  unfold State.meetSoft
  exact Keeps.ite h (State.onCore_keeps _ (State.countEach_keeps _ h) (fun _ w => w))

theorem State.ownWrite_keeps {s : State} : ∀ (n : Nat) {a : State} (k : Nat) (bs : List Byte), Keeps s a → Keeps s (State.ownWrite n a k bs)
  | 0, _, k, bs, h => State.hbmWrite_keeps k bs (State.meetSoft_keeps _ _ h)
  | n + 1, _, k, bs, h => by
    unfold State.ownWrite
    split
    · exact h
    · split
      · exact State.hbmWrite_keeps k bs (State.meetSoft_keeps _ _ h)
      · exact State.ownWrite_keeps n _ _ (State.ownWrite_keeps n _ _ (State.countUe_keeps _ h))

theorem State.breakSpans_keeps {s a : State} (sp : ℕ) (id : ℕ) (tile : ℕ) (a4 : ℕ) (n : ℕ) (from_ : ℕ) (h : Keeps s a) : Keeps s (State.breakSpans a sp id tile a4 n from_) := by
  unfold State.breakSpans
  all_goals try dsimp only [State.takeFree, State.freshId]
  repeat' first
    | with_reducible assumption
    | (with_reducible apply State.onCore_keeps)
    | (with_reducible refine Keeps.foldl ?_ ?_)
    | (with_reducible refine Keeps.foldlFst ?_ ?_)
    | (with_reducible refine Keeps.foldlSnd ?_ ?_)
    | (intro b x hb; try dsimp only [State.takeFree, State.freshId])
    | split
    | (apply Keeps.upd)
    | exact fun _ w => w
    | (intro b w; try dsimp only; (repeat' split) <;> first | exact w | (rw [Core.wf_iff] at *; exact w))
    | exact fun w => w
    | exact rfl

theorem State.tileWrite_keeps {s a : State} (tile a0 : Nat) (bs : List Byte) (h : Keeps s a) : Keeps s (State.tileWrite a tile a0 bs) := by
  unfold State.tileWrite
  dsimp only [State.takeFree]
  exact State.sramWrite_keeps _ _ _ (State.breakSpans_keeps _ _ _ _ _ _ (State.takeFree_keeps h))

theorem State.timedWrite_keeps {s a : State} (sp : ℕ) (tile : ℕ) (a3 : ℕ) (from_ : ℕ) (at_ : ℕ) (bs : List Sys2Proof.Byte) (h : Keeps s a) : Keeps s (State.timedWrite a sp tile a3 from_ at_ bs) := by
  unfold State.timedWrite
  all_goals try dsimp only [State.takeFree, State.freshId]
  repeat' first
    | with_reducible assumption
    | (with_reducible apply State.takeFree_keeps)
    | (with_reducible refine Keeps.snd (State.takeFree_keeps (h := ?_) ..) (by with_reducible assumption))
    | (with_reducible apply State.onCore_keeps)
    | (with_reducible apply State.breakSpans_keeps)
    | (with_reducible refine Keeps.foldl ?_ ?_)
    | (with_reducible refine Keeps.foldlFst ?_ ?_)
    | (with_reducible refine Keeps.foldlSnd ?_ ?_)
    | (intro b x hb; try dsimp only [State.takeFree, State.freshId])
    | split
    | (apply Keeps.upd)
    | exact fun _ w => w
    | (intro b w; try dsimp only; (repeat' split) <;> first | exact w | (rw [Core.wf_iff] at *; exact w))
    | exact fun w => w
    | exact rfl

theorem State.settle_keeps {s a : State} (sp : ℕ) (t2 : ℕ) (h : Keeps s a) : Keeps s (State.settle a sp t2) := by
  unfold State.settle
  all_goals try dsimp only [State.takeFree, State.freshId]
  repeat' first
    | with_reducible assumption
    | (with_reducible apply State.onCore_keeps)
    | (with_reducible apply State.sramWrite_keeps)
    | (with_reducible refine Keeps.foldl ?_ ?_)
    | (with_reducible refine Keeps.foldlFst ?_ ?_)
    | (with_reducible refine Keeps.foldlSnd ?_ ?_)
    | (intro b x hb; try dsimp only [State.takeFree, State.freshId])
    | split
    | (apply Keeps.upd)
    | exact fun _ w => w
    | (intro b w; try dsimp only; (repeat' split) <;> first | exact w | (rw [Core.wf_iff] at *; exact w))
    | exact fun w => w
    | exact rfl

theorem State.useBanks_keeps {s a : State} (sp : ℕ) (k : Sys2Proof.Machine.BankAccess) (l : List (ℕ × ℕ × ℕ)) (h : Keeps s a) : Keeps s (State.useBanks a sp k l) := by
  unfold State.useBanks
  all_goals try dsimp only [State.takeFree, State.freshId]
  repeat' first
    | with_reducible assumption
    | (with_reducible apply State.onCore_keeps)
    | (with_reducible refine Keeps.foldl ?_ ?_)
    | (with_reducible refine Keeps.foldlFst ?_ ?_)
    | (with_reducible refine Keeps.foldlSnd ?_ ?_)
    | (intro b x hb; try dsimp only [State.takeFree, State.freshId])
    | split
    | (apply Keeps.upd)
    | exact fun _ w => w
    | (intro b w; try dsimp only; (repeat' split) <;> first | exact w | (rw [Core.wf_iff] at *; exact w))
    | exact fun w => w
    | exact rfl

theorem State.stall_keeps {s a : State} (sp : ℕ) (t2 : ℕ) (n : ℕ) (h : Keeps s a) : Keeps s (State.stall a sp t2 n) := by
  unfold State.stall
  all_goals try dsimp only [State.takeFree, State.freshId]
  repeat' first
    | with_reducible assumption
    | (with_reducible apply State.onCore_keeps)
    | (with_reducible apply State.onSpire_keeps)
    | (with_reducible refine Keeps.foldl ?_ ?_)
    | (with_reducible refine Keeps.foldlFst ?_ ?_)
    | (with_reducible refine Keeps.foldlSnd ?_ ?_)
    | (intro b x hb; try dsimp only [State.takeFree, State.freshId])
    | split
    | (apply Keeps.upd)
    | exact fun _ w => w
    | (intro b w; try dsimp only; (repeat' split) <;> first | exact w | (rw [Core.wf_iff] at *; exact w))
    | exact fun w => w
    | exact rfl

theorem macTile_keeps {s a : State} (c : Sys2Proof.StreamCmd) (m : Sys2Proof.Machine.MacOp) (a2 : Sys2Proof.Machine.Store) (w : Sys2Proof.Machine.Store) (t4 : ℕ) (id : ℕ) (tile : ℕ) (h : Keeps s a) : Keeps s (macTile c m a2 w t4 id a tile) := by
  unfold macTile
  all_goals try dsimp only [State.takeFree, State.freshId]
  repeat' first
    | with_reducible assumption
    | (with_reducible apply State.onCore_keeps)
    | (with_reducible apply State.onSpire_keeps)
    | (with_reducible apply State.noteReads_keeps)
    | (with_reducible refine Keeps.foldl ?_ ?_)
    | (with_reducible refine Keeps.foldlFst ?_ ?_)
    | (with_reducible refine Keeps.foldlSnd ?_ ?_)
    | (intro b x hb; try dsimp only [State.takeFree, State.freshId])
    | split
    | (apply Keeps.upd)
    | exact fun _ w => w
    | (intro b w; try dsimp only; (repeat' split) <;> first | exact w | (rw [Core.wf_iff] at *; exact w))
    | exact fun w => w
    | exact rfl

theorem State.doMac_keeps {s a : State} (c : Sys2Proof.StreamCmd) (t2 : ℕ) (id : ℕ) (h : Keeps s a) : Keeps s (State.doMac a c t2 id) := by
  unfold State.doMac
  all_goals try dsimp only [State.takeFree, State.freshId]
  repeat' first
    | with_reducible assumption
    | (with_reducible apply macTile_keeps)
    | (with_reducible refine Keeps.foldl ?_ ?_)
    | (with_reducible refine Keeps.foldlFst ?_ ?_)
    | (with_reducible refine Keeps.foldlSnd ?_ ?_)
    | (intro b x hb; try dsimp only [State.takeFree, State.freshId])
    | split

theorem readoutTile_keeps {s a : State} (c : Sys2Proof.StreamCmd) (target : Sys2Proof.Machine.Elem) (t2 : ℕ) (id : ℕ) (tile : ℕ) (h : Keeps s a) : Keeps s (readoutTile c target t2 id a tile) := by
  unfold readoutTile
  all_goals try dsimp only [State.takeFree, State.freshId]
  repeat' first
    | with_reducible assumption
    | (with_reducible apply State.timedWrite_keeps)
    | (with_reducible apply State.noteReads_keeps)
    | (with_reducible apply State.onCtr_keeps)
    | (with_reducible refine Keeps.foldl ?_ ?_)
    | (with_reducible refine Keeps.foldlFst ?_ ?_)
    | (with_reducible refine Keeps.foldlSnd ?_ ?_)
    | (intro b x hb; try dsimp only [State.takeFree, State.freshId])
    | split

theorem State.doReadout_keeps {s a : State} (c : Sys2Proof.StreamCmd) (t2 : ℕ) (id : ℕ) (h : Keeps s a) : Keeps s (State.doReadout a c t2 id) := by
  unfold State.doReadout
  all_goals try dsimp only [State.takeFree, State.freshId]
  repeat' first
    | with_reducible assumption
    | (with_reducible apply readoutTile_keeps)
    | (with_reducible refine Keeps.foldl ?_ ?_)
    | (with_reducible refine Keeps.foldlFst ?_ ?_)
    | (with_reducible refine Keeps.foldlSnd ?_ ?_)
    | (intro b x hb; try dsimp only [State.takeFree, State.freshId])
    | split

theorem State.settleRegs_keeps {s a : State} (sp : ℕ) (t2 : ℕ) (h : Keeps s a) : Keeps s (State.settleRegs a sp t2) := by
  unfold State.settleRegs
  all_goals try dsimp only [State.takeFree, State.freshId]
  repeat' first
    | with_reducible assumption
    | (with_reducible apply State.onCore_keeps)
    | (with_reducible apply State.setSpire_keeps)
    | (with_reducible refine Keeps.foldl ?_ ?_)
    | (with_reducible refine Keeps.foldlFst ?_ ?_)
    | (with_reducible refine Keeps.foldlSnd ?_ ?_)
    | (intro b x hb; try dsimp only [State.takeFree, State.freshId])
    | split
    | (apply Keeps.upd)
    | exact fun _ w => w
    | (intro b w; try dsimp only; (repeat' split) <;> first | exact w | (rw [Core.wf_iff] at *; exact w))
    | exact fun w => w
    | exact rfl

theorem vopTile_keeps {s a : State} (c : Sys2Proof.StreamCmd) (o : Sys2Proof.Machine.VopOp) (t2 : ℕ) (id : ℕ) (tile : ℕ) (h : Keeps s a) : Keeps s (vopTile c o t2 id a tile) := by
  unfold vopTile
  all_goals try dsimp only [State.takeFree, State.freshId]
  repeat' first
    | with_reducible assumption
    | (with_reducible apply State.onSpire_keeps)
    | (with_reducible refine Keeps.foldl ?_ ?_)
    | (with_reducible refine Keeps.foldlFst ?_ ?_)
    | (with_reducible refine Keeps.foldlSnd ?_ ?_)
    | (intro b x hb; try dsimp only [State.takeFree, State.freshId])
    | split

theorem State.doVop_keeps {s a : State} (c : Sys2Proof.StreamCmd) (t2 : ℕ) (id : ℕ) (h : Keeps s a) : Keeps s (State.doVop a c t2 id) := by
  unfold State.doVop
  all_goals try dsimp only [State.takeFree, State.freshId]
  repeat' first
    | with_reducible assumption
    | (with_reducible apply vopTile_keeps)
    | (with_reducible refine Keeps.foldl ?_ ?_)
    | (with_reducible refine Keeps.foldlFst ?_ ?_)
    | (with_reducible refine Keeps.foldlSnd ?_ ?_)
    | (intro b x hb; try dsimp only [State.takeFree, State.freshId])
    | split

theorem loadTile_keeps {s a : State} (l : Sys2Proof.Machine.VLoad) (f : Sys2Proof.Machine.Form) (e2 : Sys2Proof.Machine.Elem) (tile : ℕ) (h : Keeps s a) : Keeps s (loadTile l f e2 a tile) := by
  unfold loadTile
  all_goals try dsimp only [State.takeFree, State.freshId]
  repeat' first
    | with_reducible assumption
    | (with_reducible apply State.onSpire_keeps)
    | (with_reducible apply State.noteReads_keeps)
    | (with_reducible refine Keeps.foldl ?_ ?_)
    | (with_reducible refine Keeps.foldlFst ?_ ?_)
    | (with_reducible refine Keeps.foldlSnd ?_ ?_)
    | (intro b x hb; try dsimp only [State.takeFree, State.freshId])
    | split

theorem State.loadStep_keeps {s a : State} (l : Sys2Proof.Machine.VLoad) (h : Keeps s a) : Keeps s (State.loadStep a l) := by
  unfold State.loadStep
  all_goals try dsimp only [State.takeFree, State.freshId]
  repeat' first
    | with_reducible assumption
    | (with_reducible apply loadTile_keeps)
    | (with_reducible refine Keeps.foldl ?_ ?_)
    | (with_reducible refine Keeps.foldlFst ?_ ?_)
    | (with_reducible refine Keeps.foldlSnd ?_ ?_)
    | (intro b x hb; try dsimp only [State.takeFree, State.freshId])
    | split

theorem State.loadDue_keeps {s a : State} (sp : ℕ) (t2 : ℕ) (h : Keeps s a) : Keeps s (State.loadDue a sp t2) := by
  unfold State.loadDue
  all_goals try dsimp only [State.takeFree, State.freshId]
  repeat' first
    | with_reducible assumption
    | (with_reducible apply State.loadStep_keeps)
    | (with_reducible apply State.setSpire_keeps)
    | (with_reducible refine Keeps.foldl ?_ ?_)
    | (with_reducible refine Keeps.foldlFst ?_ ?_)
    | (with_reducible refine Keeps.foldlSnd ?_ ?_)
    | (intro b x hb; try dsimp only [State.takeFree, State.freshId])
    | split

theorem State.doVld_keeps {s a : State} (c : Sys2Proof.StreamCmd) (t2 : ℕ) (h : Keeps s a) : Keeps s (State.doVld a c t2) := by
  unfold State.doVld
  all_goals try dsimp only [State.takeFree, State.freshId]
  repeat' first
    | with_reducible assumption
    | (with_reducible apply State.onSpire_keeps)
    | (with_reducible refine Keeps.foldl ?_ ?_)
    | (with_reducible refine Keeps.foldlFst ?_ ?_)
    | (with_reducible refine Keeps.foldlSnd ?_ ?_)
    | (intro b x hb; try dsimp only [State.takeFree, State.freshId])
    | split

theorem vstTile_keeps {s a : State} (c : Sys2Proof.StreamCmd) (e1 : Sys2Proof.Machine.Elem) (t2 : ℕ) (id : ℕ) (tile : ℕ) (h : Keeps s a) : Keeps s (vstTile c e1 t2 id a tile) := by
  unfold vstTile
  all_goals try dsimp only [State.takeFree, State.freshId]
  repeat' first
    | with_reducible assumption
    | (with_reducible apply State.onCtr_keeps)
    | (with_reducible apply State.timedWrite_keeps)
    | (with_reducible refine Keeps.foldl ?_ ?_)
    | (with_reducible refine Keeps.foldlFst ?_ ?_)
    | (with_reducible refine Keeps.foldlSnd ?_ ?_)
    | (intro b x hb; try dsimp only [State.takeFree, State.freshId])
    | split

theorem State.doVst_keeps {s a : State} (c : Sys2Proof.StreamCmd) (t2 : ℕ) (id : ℕ) (h : Keeps s a) : Keeps s (State.doVst a c t2 id) := by
  unfold State.doVst
  all_goals try dsimp only [State.takeFree, State.freshId]
  repeat' first
    | with_reducible assumption
    | (with_reducible apply vstTile_keeps)
    | (with_reducible refine Keeps.foldl ?_ ?_)
    | (with_reducible refine Keeps.foldlFst ?_ ?_)
    | (with_reducible refine Keeps.foldlSnd ?_ ?_)
    | (intro b x hb; try dsimp only [State.takeFree, State.freshId])
    | split

theorem setpTile_keeps {s a : State} (c : Sys2Proof.StreamCmd) (tile : ℕ) (h : Keeps s a) : Keeps s (setpTile c a tile) := by
  unfold setpTile
  all_goals try dsimp only [State.takeFree, State.freshId]
  repeat' first
    | with_reducible assumption
    | (with_reducible apply State.onCore_keeps)
    | (with_reducible refine Keeps.foldl ?_ ?_)
    | (with_reducible refine Keeps.foldlFst ?_ ?_)
    | (with_reducible refine Keeps.foldlSnd ?_ ?_)
    | (intro b x hb; try dsimp only [State.takeFree, State.freshId])
    | split
    | (apply Keeps.upd)
    | exact fun _ w => w
    | (intro b w; try dsimp only; (repeat' split) <;> first | exact w | (rw [Core.wf_iff] at *; exact w))
    | exact fun w => w
    | exact rfl

theorem State.doSetp_keeps {s a : State} (c : Sys2Proof.StreamCmd) (h : Keeps s a) : Keeps s (State.doSetp a c) := by
  unfold State.doSetp
  all_goals try dsimp only [State.takeFree, State.freshId]
  repeat' first
    | with_reducible assumption
    | (with_reducible apply setpTile_keeps)
    | (with_reducible refine Keeps.foldl ?_ ?_)
    | (with_reducible refine Keeps.foldlFst ?_ ?_)
    | (with_reducible refine Keeps.foldlSnd ?_ ?_)
    | (intro b x hb; try dsimp only [State.takeFree, State.freshId])
    | split

theorem setoTile_keeps {s a : State} (c : Sys2Proof.StreamCmd) (tile : ℕ) (h : Keeps s a) : Keeps s (setoTile c a tile) := by
  unfold setoTile
  all_goals try dsimp only [State.takeFree, State.freshId]
  repeat' first
    | with_reducible assumption
    | (with_reducible apply State.onCore_keeps)
    | (with_reducible refine Keeps.foldl ?_ ?_)
    | (with_reducible refine Keeps.foldlFst ?_ ?_)
    | (with_reducible refine Keeps.foldlSnd ?_ ?_)
    | (intro b x hb; try dsimp only [State.takeFree, State.freshId])
    | split
    | (apply Keeps.upd)
    | exact fun _ w => w
    | (intro b w; try dsimp only; (repeat' split) <;> first | exact w | (rw [Core.wf_iff] at *; exact w))
    | exact fun w => w
    | exact rfl

theorem State.doSeto_keeps {s a : State} (c : Sys2Proof.StreamCmd) (h : Keeps s a) : Keeps s (State.doSeto a c) := by
  unfold State.doSeto
  all_goals try dsimp only [State.takeFree, State.freshId]
  repeat' first
    | with_reducible assumption
    | (with_reducible apply setoTile_keeps)
    | (with_reducible refine Keeps.foldl ?_ ?_)
    | (with_reducible refine Keeps.foldlFst ?_ ?_)
    | (with_reducible refine Keeps.foldlSnd ?_ ?_)
    | (intro b x hb; try dsimp only [State.takeFree, State.freshId])
    | split

end Sys2Proof.Machine
end

