-- ==== Sys2Proof/Laws/KeepsStream.lean ====
section
/-! SUPPORT. What the operations of these families keep (see Keeps): Stream. -/

set_option linter.unusedTactic false
set_option linter.unreachableTactic false
set_option linter.unusedVariables false

namespace Sys2Proof.Machine

theorem State.pushLocal_keeps {s a t : State} {sp : ℕ} {q : ℕ} {h3 : Sys2Proof.W32} {t4 : ℕ} (h : Keeps s a) (e : State.pushLocal a sp q h3 t4 = some t) : Keeps s t := by
  unfold State.pushLocal at e
  try dsimp only at e
  repeat' split at e
  all_goals first | (cases e; done) | (cases e) | (injection e with e; injection e; subst_vars) | (obtain ⟨_, _, e⟩ := Option.map_eq_some_iff.1 e; subst e) | skip
  all_goals try dsimp only [State.takeFree, State.freshId]
  repeat' first
    | with_reducible assumption
    | (with_reducible apply State.onCtr_keeps)
    | (with_reducible apply State.setSpire_keeps)
    | (with_reducible refine Keeps.foldl ?_ ?_)
    | (with_reducible refine Keeps.foldlFst ?_ ?_)
    | (with_reducible refine Keeps.foldlSnd ?_ ?_)
    | (intro b x hb; try dsimp only [State.takeFree, State.freshId])
    | split

theorem State.sendPush_keeps {s a : State} (src : ℕ) (origin : Sys2Proof.Machine.PushFrom) (dst : ℕ) (q : ℕ) (h5 : Sys2Proof.W32) (h : Keeps s a) : Keeps s (State.sendPush a src origin dst q h5).2 := by
  unfold State.sendPush
  all_goals try dsimp only [State.takeFree, State.freshId]
  repeat' first
    | with_reducible assumption
    | (with_reducible apply State.freshId_keeps)
    | (with_reducible refine Keeps.snd (State.freshId_keeps (h := ?_) ..) (by with_reducible assumption))
    | (with_reducible apply State.onCore_keeps)
    | (with_reducible refine Keeps.foldl ?_ ?_)
    | (with_reducible refine Keeps.foldlFst ?_ ?_)
    | (with_reducible refine Keeps.foldlSnd ?_ ?_)
    | (intro b x hb; try dsimp only [State.takeFree, State.freshId])
    | split
    | (apply Keeps.upd)
    | exact fun _ w => w
    | (intro b w; try dsimp only; (repeat' split) <;> first | exact w | (rw [Core.wf_iff] at *; exact w))
    | exact fun w => w
    | exact rfl

theorem State.takePush_keeps {s a : State} (id : ℕ) (h : Keeps s a) : Keeps s (State.takePush a id) := by
  unfold State.takePush
  all_goals try dsimp only [State.takeFree, State.freshId]
  repeat' first
    | with_reducible assumption
    | (with_reducible apply State.freshId_keeps)
    | (with_reducible refine Keeps.snd (State.freshId_keeps (h := ?_) ..) (by with_reducible assumption))
    | (with_reducible apply State.onCore_keeps)
    | (with_reducible refine Keeps.foldl ?_ ?_)
    | (with_reducible refine Keeps.foldlFst ?_ ?_)
    | (with_reducible refine Keeps.foldlSnd ?_ ?_)
    | (intro b x hb; try dsimp only [State.takeFree, State.freshId])
    | split
    | (apply Keeps.upd)
    | exact fun _ w => w
    | (intro b w; try dsimp only; (repeat' split) <;> first | exact w | (rw [Core.wf_iff] at *; exact w))
    | exact fun w => w
    | exact rfl

theorem State.takeWaiting_keeps {s a : State} (sp : Nat) (h : Keeps s a) : Keeps s (State.takeWaiting a sp) := by
  unfold State.takeWaiting
  refine Keeps.foldl h (fun b w hb => ?_)
  split
  · split
    · rename_i t ht
      exact State.takePush_keeps _ (State.pushLocal_keeps hb ht)
    · exact hb
  · exact hb

theorem State.loadPiece_keeps {s a : State} (part : Sys2Proof.Machine.PlanPart) (base : ℕ) (q : ℕ) (h : Keeps s a) : Keeps s (State.loadPiece part base a q) := by
  unfold State.loadPiece
  all_goals try dsimp only [State.takeFree, State.freshId]
  repeat' first
    | with_reducible assumption
    | (with_reducible apply State.belfryRead_keeps)
    | (with_reducible refine Keeps.snd (State.belfryRead_keeps (h := ?_) ..) (by with_reducible assumption))
    | (with_reducible apply State.freeze_keeps)
    | (with_reducible apply State.onSpire_keeps)
    | (with_reducible refine Keeps.foldl ?_ ?_)
    | (with_reducible refine Keeps.foldlFst ?_ ?_)
    | (with_reducible refine Keeps.foldlSnd ?_ ?_)
    | (intro b x hb; try dsimp only [State.takeFree, State.freshId])
    | split

theorem State.moveRing_keeps {s a : State} (part : Sys2Proof.Machine.PlanPart) (base : ℕ) (lo : ℕ) (h : Keeps s a) : Keeps s (State.moveRing a part base lo) := by
  unfold State.moveRing
  all_goals try dsimp only [State.takeFree, State.freshId]
  repeat' first
    | with_reducible assumption
    | (with_reducible apply State.loadPiece_keeps)
    | (with_reducible apply State.setSpire_keeps)
    | (with_reducible refine Keeps.foldl ?_ ?_)
    | (with_reducible refine Keeps.foldlFst ?_ ?_)
    | (with_reducible refine Keeps.foldlSnd ?_ ?_)
    | (intro b x hb; try dsimp only [State.takeFree, State.freshId])
    | split

theorem State.refill_keeps {s a : State} (p : ℕ) (sp : ℕ) (h : Keeps s a) : Keeps s (State.refill a p sp) := by
  unfold State.refill
  all_goals try dsimp only [State.takeFree, State.freshId]
  repeat' first
    | with_reducible assumption
    | (with_reducible apply State.moveRing_keeps)
    | (with_reducible refine Keeps.foldl ?_ ?_)
    | (with_reducible refine Keeps.foldlFst ?_ ?_)
    | (with_reducible refine Keeps.foldlSnd ?_ ?_)
    | (intro b x hb; try dsimp only [State.takeFree, State.freshId])
    | split

theorem State.reload_keeps {s a : State} (p : ℕ) (h : Keeps s a) : Keeps s (State.reload a p) := by
  unfold State.reload
  all_goals try dsimp only [State.takeFree, State.freshId]
  repeat' first
    | with_reducible assumption
    | (with_reducible apply State.moveRing_keeps)
    | (with_reducible apply State.onSpire_keeps)
    | (with_reducible refine Keeps.foldl ?_ ?_)
    | (with_reducible refine Keeps.foldlFst ?_ ?_)
    | (with_reducible refine Keeps.foldlSnd ?_ ?_)
    | (intro b x hb; try dsimp only [State.takeFree, State.freshId])
    | split

theorem State.stopCalendars_keeps {s a : State} (p : ℕ) (h : Keeps s a) : Keeps s (State.stopCalendars a p) := by
  unfold State.stopCalendars
  all_goals try dsimp only [State.takeFree, State.freshId]
  repeat' first
    | with_reducible assumption
    | (with_reducible apply State.onCore_keeps)
    | (with_reducible refine Keeps.foldl ?_ ?_)
    | (with_reducible refine Keeps.foldlFst ?_ ?_)
    | (with_reducible refine Keeps.foldlSnd ?_ ?_)
    | (intro b x hb; try dsimp only [State.takeFree, State.freshId])
    | split
    | (apply Keeps.upd)
    | exact fun _ w => w
    | (intro b w; try dsimp only; (repeat' split) <;> first | exact w | (rw [Core.wf_iff] at *; exact w))
    | exact fun w => w
    | exact rfl

theorem State.endWindow_keeps {s a : State} (p : ℕ) (h : Keeps s a) : Keeps s (State.endWindow a p) := by
  unfold State.endWindow
  all_goals try dsimp only [State.takeFree, State.freshId]
  repeat' first
    | with_reducible assumption
    | (with_reducible apply State.reload_keeps)
    | (with_reducible apply State.stopCalendars_keeps)
    | (with_reducible apply State.setPart_keeps)
    | (with_reducible refine Keeps.foldl ?_ ?_)
    | (with_reducible refine Keeps.foldlFst ?_ ?_)
    | (with_reducible refine Keeps.foldlSnd ?_ ?_)
    | (intro b x hb; try dsimp only [State.takeFree, State.freshId])
    | split

theorem State.badCommand_keeps {s a : State} (c : Sys2Proof.StreamCmd) (off : ℕ) (h : Keeps s a) : Keeps s (State.badCommand a c off) := by
  unfold State.badCommand
  all_goals try dsimp only [State.takeFree, State.freshId]
  repeat' first
    | with_reducible assumption
    | (with_reducible apply State.freeze_keeps)
    | (with_reducible refine Keeps.foldl ?_ ?_)
    | (with_reducible refine Keeps.foldlFst ?_ ?_)
    | (with_reducible refine Keeps.foldlSnd ?_ ?_)
    | (intro b x hb; try dsimp only [State.takeFree, State.freshId])
    | split

theorem State.doSlot_keeps {s a : State} (c : Sys2Proof.StreamCmd) (t2 : ℕ) (id : ℕ) (h : Keeps s a) : Keeps s (State.doSlot a c t2 id) := by
  unfold State.doSlot
  all_goals try dsimp only [State.takeFree, State.freshId]
  repeat' first
    | with_reducible assumption
    | (with_reducible apply State.doMac_keeps)
    | (with_reducible apply State.doReadout_keeps)
    | (with_reducible apply State.doVop_keeps)
    | (with_reducible apply State.doVld_keeps)
    | (with_reducible apply State.doVst_keeps)
    | (with_reducible apply State.doSetp_keeps)
    | (with_reducible apply State.doSeto_keeps)
    | (with_reducible refine Keeps.foldl ?_ ?_)
    | (with_reducible refine Keeps.foldlFst ?_ ?_)
    | (with_reducible refine Keeps.foldlSnd ?_ ?_)
    | (intro b x hb; try dsimp only [State.takeFree, State.freshId])
    | split

theorem State.startSlot_keeps {s a : State} (c : StreamCmd) (pod : Bool) (t : Nat) (off : Nat) (h : Keeps s a) : Keeps s (State.startSlot a c pod t off) := by
  unfold State.startSlot
  dsimp only [State.takeFree]
  have k := State.takeFree_keeps (State.settleRegs_keeps c.sp.val t h)
  split
  · exact State.badCommand_keeps _ _ k
  · exact State.stall_keeps _ _ _ (State.doSlot_keeps _ _ _ (State.onSpire_keeps _ _ k))

theorem State.anchorMissed_keeps {s a : State} (p : ℕ) (sp : ℕ) (ctx : ℕ) (t4 : ℕ) (h : Keeps s a) : Keeps s (State.anchorMissed a p sp ctx t4) := by
  unfold State.anchorMissed
  all_goals try dsimp only [State.takeFree, State.freshId]
  repeat' first
    | with_reducible assumption
    | (with_reducible apply State.onSpire_keeps)
    | (with_reducible apply State.event_keeps)
    | (with_reducible refine Keeps.foldl ?_ ?_)
    | (with_reducible refine Keeps.foldlFst ?_ ?_)
    | (with_reducible refine Keeps.foldlSnd ?_ ?_)
    | (intro b x hb; try dsimp only [State.takeFree, State.freshId])
    | split

theorem State.passControl_keeps {s a t : State} {c : Sys2Proof.StreamCmd} {p : ℕ} {pod : Bool} {t4 : ℕ} (h : Keeps s a) (e : State.passControl a c p pod t4 = some t) : Keeps s t := by
  unfold State.passControl at e
  try dsimp only at e
  repeat' split at e
  all_goals first | (cases e; done) | (cases e) | (injection e with e; injection e; subst_vars) | (obtain ⟨_, _, e⟩ := Option.map_eq_some_iff.1 e; subst e) | skip
  all_goals try dsimp only [State.takeFree, State.freshId]
  repeat' first
    | with_reducible assumption
    | (with_reducible apply State.takeWaiting_keeps)
    | (with_reducible apply State.setSpire_keeps)
    | (with_reducible apply State.sendPush_keeps)
    | (with_reducible refine Keeps.snd (State.sendPush_keeps (h := ?_) ..) (by with_reducible assumption))
    | (with_reducible apply State.onSpire_keeps)
    | (with_reducible refine State.pushLocal_keeps (h := ?_) (e := by with_reducible assumption) ..)
    | (with_reducible apply State.anchorMissed_keeps)
    | (with_reducible apply State.endWindow_keeps)
    | (with_reducible refine Keeps.foldl ?_ ?_)
    | (with_reducible refine Keeps.foldlFst ?_ ?_)
    | (with_reducible refine Keeps.foldlSnd ?_ ?_)
    | (intro b x hb; try dsimp only [State.takeFree, State.freshId])
    | split

theorem State.pickUp_keeps {s a t : State} {sp : ℕ} (h : Keeps s a) (e : State.pickUp a sp = some t) : Keeps s t := by
  unfold State.pickUp at e
  try dsimp only at e
  repeat' split at e
  all_goals first | (cases e; done) | (cases e) | (injection e with e; injection e; subst_vars) | (obtain ⟨_, _, e⟩ := Option.map_eq_some_iff.1 e; subst e) | skip
  all_goals try dsimp only [State.takeFree, State.freshId]
  repeat' first
    | with_reducible assumption
    | (with_reducible apply State.setSpire_keeps)
    | (with_reducible refine Keeps.foldl ?_ ?_)
    | (with_reducible refine Keeps.foldlFst ?_ ?_)
    | (with_reducible refine Keeps.foldlSnd ?_ ?_)
    | (intro b x hb; try dsimp only [State.takeFree, State.freshId])
    | split

theorem State.startNext_keeps {s a t : State} {p : ℕ} {sp : ℕ} {ctx : ℕ} (h : Keeps s a) (e : State.startNext a p sp ctx = some t) : Keeps s t := by
  unfold State.startNext at e
  try dsimp only at e
  repeat' split at e
  all_goals first | (cases e; done) | (cases e) | (injection e with e; injection e; subst_vars) | (obtain ⟨_, _, e⟩ := Option.map_eq_some_iff.1 e; subst e) | skip
  all_goals try dsimp only [State.takeFree, State.freshId]
  repeat' first
    | with_reducible assumption
    | (with_reducible apply State.setSpire_keeps)
    | (with_reducible refine State.passControl_keeps (h := ?_) (e := by with_reducible assumption) ..)
    | (with_reducible apply State.startSlot_keeps)
    | (with_reducible refine Keeps.foldl ?_ ?_)
    | (with_reducible refine Keeps.foldlFst ?_ ?_)
    | (with_reducible refine Keeps.foldlSnd ?_ ?_)
    | (intro b x hb; try dsimp only [State.takeFree, State.freshId])
    | split

theorem State.acceptXfer_keeps {s a t : State} {p : Nat} {sp : Nat} {u : Nat} {index : Nat} {h5 : W32} (h : Keeps s a) (e : State.acceptXfer a p sp u index h5 = some t) : Keeps s t := by
  unfold State.acceptXfer at e
  dsimp only at e
  by_cases hc : ((a.spire sp).unit u).length < (if u = 4 then 8 else 6) ∧ ¬bit1 (a.spire sp).frozen (u + 1)
  · rw [if_pos hc] at e
    cases e
    exact State.onSpire_keeps _ _ (State.freshId_keeps h)
  · rw [if_neg hc] at e
    cases e

theorem State.fetchSide_keeps {s a t : State} {c : Sys2Proof.StreamCmd} {p : ℕ} {t3 : ℕ} (h : Keeps s a) (e : State.fetchSide a c p t3 = some t) : Keeps s t := by
  unfold State.fetchSide at e
  try dsimp only at e
  repeat' split at e
  all_goals first | (cases e; done) | (cases e) | (injection e with e; injection e; subst_vars) | (obtain ⟨_, _, e⟩ := Option.map_eq_some_iff.1 e; subst e) | skip
  all_goals try dsimp only [State.takeFree, State.freshId]
  repeat' first
    | with_reducible assumption
    | (with_reducible refine State.acceptXfer_keeps (h := ?_) (e := by with_reducible assumption) ..)
    | (with_reducible apply State.setSpire_keeps)
    | (with_reducible apply State.takeWaiting_keeps)
    | (with_reducible apply State.sendPush_keeps)
    | (with_reducible refine Keeps.snd (State.sendPush_keeps (h := ?_) ..) (by with_reducible assumption))
    | (with_reducible apply State.onSpire_keeps)
    | (with_reducible refine State.pushLocal_keeps (h := ?_) (e := by with_reducible assumption) ..)
    | (with_reducible refine Keeps.foldl ?_ ?_)
    | (with_reducible refine Keeps.foldlFst ?_ ?_)
    | (with_reducible refine Keeps.foldlSnd ?_ ?_)
    | (intro b x hb; try dsimp only [State.takeFree, State.freshId])
    | split

theorem State.readCommand_keeps {s a t : State} {place : Sys2Proof.Machine.CmdPlace} {c : Sys2Proof.StreamCmd} {p : ℕ} {sp : ℕ} {ctx : ℕ} {t6 : ℕ} {now : ℕ} (h : Keeps s a) (e : State.readCommand a place c p sp ctx t6 now = some t) : Keeps s t := by
  unfold State.readCommand at e
  try dsimp only at e
  repeat' split at e
  all_goals first | (cases e; done) | (cases e) | (injection e with e; injection e; subst_vars) | (obtain ⟨_, _, e⟩ := Option.map_eq_some_iff.1 e; subst e) | skip
  all_goals try dsimp only [State.takeFree, State.freshId]
  repeat' first
    | with_reducible assumption
    | (with_reducible apply State.setSpire_keeps)
    | (with_reducible apply State.badCommand_keeps)
    | (with_reducible refine State.fetchSide_keeps (h := ?_) (e := by with_reducible assumption) ..)
    | (with_reducible apply State.onSpire_keeps)
    | (with_reducible refine Keeps.foldl ?_ ?_)
    | (with_reducible refine Keeps.foldlFst ?_ ?_)
    | (with_reducible refine Keeps.foldlSnd ?_ ?_)
    | (intro b x hb; try dsimp only [State.takeFree, State.freshId])
    | split

theorem State.readNext_keeps {s a t : State} {p : ℕ} {sp : ℕ} {ctx : ℕ} (h : Keeps s a) (e : State.readNext a p sp ctx = some t) : Keeps s t := by
  unfold State.readNext at e
  try dsimp only at e
  repeat' split at e
  all_goals first | (cases e; done) | (cases e) | (injection e with e; injection e; subst_vars) | (obtain ⟨_, _, e⟩ := Option.map_eq_some_iff.1 e; subst e) | skip
  all_goals try dsimp only [State.takeFree, State.freshId]
  repeat' first
    | with_reducible assumption
    | (with_reducible refine State.readCommand_keeps (h := ?_) (e := by with_reducible assumption) ..)
    | (with_reducible apply State.onSpire_keeps)
    | (with_reducible refine Keeps.foldl ?_ ?_)
    | (with_reducible refine Keeps.foldlFst ?_ ?_)
    | (with_reducible refine Keeps.foldlSnd ?_ ?_)
    | (intro b x hb; try dsimp only [State.takeFree, State.freshId])
    | split

theorem State.move_keeps {s a t : State} (p : Nat) (sp : Nat) (h : Keeps s a) (e : State.move a p sp = some t) : Keeps s t := by
  unfold State.move at e
  split at e
  · rename_i s1 h1
    obtain ⟨c, -, hc⟩ := List.exists_of_findSome?_eq_some h1
    cases e
    exact State.startNext_keeps h hc
  · split at e
    · rename_i s1 h1
      cases e
      exact State.pickUp_keeps h h1
    · rcases h1 : (circularAfter 8 (a.spire sp).lastRead).findSome? (a.readNext p sp) with _ | s1
      · simp [h1] at e
      · obtain ⟨c, -, hc⟩ := List.exists_of_findSome?_eq_some h1
        simp only [h1, Option.map_some] at e
        cases e
        exact State.refill_keeps _ _ (State.readNext_keeps h hc)

theorem State.pump_keeps {s : State} (p sp : Nat) : ∀ (f : Nat) (a : State), Keeps s a → Keeps s (State.pump f p sp a) := by
  intro f
  induction f with
  | zero => exact fun _ h => h
  | succ f ih =>
    intro a h
    unfold State.pump
    split
    · exact h
    · rename_i s1 h1
      exact ih _ (State.move_keeps _ _ h h1)

theorem State.resume_keeps {s a : State} (sp : Nat) (h : Keeps s a) : Keeps s (State.resume a sp) := by
  unfold State.resume
  split
  · exact h
  · split
    · exact State.pump_keeps _ _ _ _ (State.refill_keeps _ _ h)
    · exact h

theorem State.refillMeets_keeps {s a : State} (c : Sys2Proof.StreamCmd) (h : Keeps s a) : Keeps s (State.refillMeets a c) := by
  unfold State.refillMeets
  all_goals try dsimp only [State.takeFree, State.freshId]
  repeat' first
    | with_reducible assumption
    | (with_reducible apply State.strike_keeps)
    | (with_reducible apply State.countEach_keeps)
    | (with_reducible apply State.cupolaMeets_keeps)
    | (with_reducible refine Keeps.foldl ?_ ?_)
    | (with_reducible refine Keeps.foldlFst ?_ ?_)
    | (with_reducible refine Keeps.foldlSnd ?_ ?_)
    | (intro b x hb; try dsimp only [State.takeFree, State.freshId])
    | split

theorem State.feed_keeps {s a : State} (c : Sys2Proof.StreamCmd) (h : Keeps s a) : Keeps s (State.feed a c) := by
  unfold State.feed
  all_goals try dsimp only [State.takeFree, State.freshId]
  repeat' first
    | with_reducible assumption
    | (with_reducible apply State.refillMeets_keeps)
    | (with_reducible apply State.upset_keeps)
    | (with_reducible apply State.resume_keeps)
    | (with_reducible apply State.onSpire_keeps)
    | (with_reducible refine Keeps.foldl ?_ ?_)
    | (with_reducible refine Keeps.foldlFst ?_ ?_)
    | (with_reducible refine Keeps.foldlSnd ?_ ?_)
    | (intro b x hb; try dsimp only [State.takeFree, State.freshId])
    | split

theorem State.releaseSpire_keeps {s a : State} (bid : ℕ) (sp : ℕ) (h : Keeps s a) : Keeps s (State.releaseSpire a bid sp) := by
  unfold State.releaseSpire
  all_goals try dsimp only [State.takeFree, State.freshId]
  repeat' first
    | with_reducible assumption
    | (with_reducible apply State.resume_keeps)
    | (with_reducible apply State.onSpire_keeps)
    | (with_reducible refine Keeps.foldl ?_ ?_)
    | (with_reducible refine Keeps.foldlFst ?_ ?_)
    | (with_reducible refine Keeps.foldlSnd ?_ ?_)
    | (intro b x hb; try dsimp only [State.takeFree, State.freshId])
    | split

end Sys2Proof.Machine
end

