-- ==== Sys2Proof/Laws/KeepsDma.lean ====
section
/-! SUPPORT. What the operations of these families keep (see Keeps): Desc, Bulk, Dma, Mesh, Messages. -/

set_option linter.unusedTactic false
set_option linter.unreachableTactic false
set_option linter.unusedVariables false

namespace Sys2Proof.Machine

theorem State.sendCtrl_keeps {s a : State} (port : ℕ) (bytes : List Sys2Proof.Byte) (since : optParam (Option ℕ) none) (h : Keeps s a) : Keeps s (State.sendCtrl a port bytes since) := by
  unfold State.sendCtrl
  all_goals try dsimp only [State.takeFree, State.freshId]
  repeat' first
    | with_reducible assumption
    | (with_reducible apply State.onPort_keeps)
    | (with_reducible refine Keeps.foldl ?_ ?_)
    | (with_reducible refine Keeps.foldlFst ?_ ?_)
    | (with_reducible refine Keeps.foldlSnd ?_ ?_)
    | (intro b x hb; try dsimp only [State.takeFree, State.freshId])
    | split
    | (apply Keeps.upd)
    | exact fun _ w => w
    | (intro b w; try dsimp only; (repeat' split) <;> first | exact w | (rw [Core.wf_iff] at *; exact w) | (simp only [Port.onLane_store, Port.discard_store, Port.acked_store]; exact w))
    | exact fun w => w
    | exact rfl
    | exact fun w => State.port_wf w
    | (intro w; simp only [Port.onLane_store, Port.discard_store, Port.acked_store]; exact State.port_wf w)

theorem State.slotWrite_keeps {s a : State} (p : Nat) (port : Nat) (off : Nat) (bs : List Byte) (h : Keeps s a) : Keeps s (State.slotWrite a p port off bs) := by
  unfold State.slotWrite
  exact State.onPort_keeps _ _ h (fun x w => Tbl.wf_putRun _ _ _ w)

theorem State.sendBulk_keeps {s a : State} (part : ℕ) (vc : ℕ) (sub : ℕ) (dst : ℕ) (own : Bool) (bs : List Sys2Proof.Byte) (back : optParam (Option (ℕ × ℕ)) none) (h : Keeps s a) : Keeps s (State.sendBulk a part vc sub dst own bs back) := by
  unfold State.sendBulk
  all_goals try dsimp only [State.takeFree, State.freshId]
  repeat' first
    | with_reducible assumption
    | (with_reducible apply State.onPort_keeps)
    | (with_reducible refine Keeps.foldl ?_ ?_)
    | (with_reducible refine Keeps.foldlFst ?_ ?_)
    | (with_reducible refine Keeps.foldlSnd ?_ ?_)
    | (intro b x hb; try dsimp only [State.takeFree, State.freshId])
    | split
    | (apply Keeps.upd)
    | exact fun _ w => w
    | (intro b w; try dsimp only; (repeat' split) <;> first | exact w | (rw [Core.wf_iff] at *; exact w) | (simp only [Port.onLane_store, Port.discard_store, Port.acked_store]; exact w))
    | exact fun w => w
    | exact rfl
    | exact fun w => State.port_wf w
    | (intro w; simp only [Port.onLane_store, Port.discard_store, Port.acked_store]; exact State.port_wf w)

theorem State.sendOwn_keeps {s a : State} (sp : ℕ) (u : ℕ) (x : Sys2Proof.Machine.Xfer) (mtype : ℕ) (target : ℕ) (data : List Sys2Proof.Byte) (h : Keeps s a) : Keeps s (State.sendOwn a sp u x mtype target data) := by
  unfold State.sendOwn
  all_goals try dsimp only [State.takeFree, State.freshId]
  repeat' first
    | with_reducible assumption
    | (with_reducible apply State.takeFree_keeps)
    | (with_reducible refine Keeps.snd (State.takeFree_keeps (h := ?_) ..) (by with_reducible assumption))
    | (with_reducible apply State.onPort_keeps)
    | (with_reducible apply State.sendBulk_keeps)
    | (with_reducible refine Keeps.foldl ?_ ?_)
    | (with_reducible refine Keeps.foldlFst ?_ ?_)
    | (with_reducible refine Keeps.foldlSnd ?_ ?_)
    | (intro b x hb; try dsimp only [State.takeFree, State.freshId])
    | split
    | (apply Keeps.upd)
    | exact fun _ w => w
    | (intro b w; try dsimp only; (repeat' split) <;> first | exact w | (rw [Core.wf_iff] at *; exact w) | (simp only [Port.onLane_store, Port.discard_store, Port.acked_store]; exact w))
    | exact fun w => w
    | exact rfl
    | exact fun w => State.port_wf w
    | (intro w; simp only [Port.onLane_store, Port.discard_store, Port.acked_store]; exact State.port_wf w)

theorem State.flushBulk_keeps {s a : State} (sp : ℕ) (u : ℕ) (id : ℕ) (h : Keeps s a) : Keeps s (State.flushBulk a sp u id) := by
  unfold State.flushBulk
  all_goals try dsimp only [State.takeFree, State.freshId]
  repeat' first
    | with_reducible assumption
    | (with_reducible apply State.sendOwn_keeps)
    | (with_reducible apply State.onSpire_keeps)
    | (with_reducible refine Keeps.foldl ?_ ?_)
    | (with_reducible refine Keeps.foldlFst ?_ ?_)
    | (with_reducible refine Keeps.foldlSnd ?_ ?_)
    | (intro b x hb; try dsimp only [State.takeFree, State.freshId])
    | split

theorem State.bulkBytesIn_keeps {s a : State} (sp : ℕ) (u : ℕ) (id : ℕ) (off : ℕ) (bs : List Sys2Proof.Byte) (h : Keeps s a) : Keeps s (State.bulkBytesIn a sp u id off bs) := by
  unfold State.bulkBytesIn
  all_goals try dsimp only [State.takeFree, State.freshId]
  repeat' first
    | with_reducible assumption
    | (with_reducible apply State.flushBulk_keeps)
    | (with_reducible apply State.onSpire_keeps)
    | (with_reducible refine Keeps.foldl ?_ ?_)
    | (with_reducible refine Keeps.foldlFst ?_ ?_)
    | (with_reducible refine Keeps.foldlSnd ?_ ?_)
    | (intro b x hb; try dsimp only [State.takeFree, State.freshId])
    | split

theorem State.sendSignal_keeps {s a : State} (sp : ℕ) (u : ℕ) (x : Sys2Proof.Machine.Xfer) (h : Keeps s a) : Keeps s (State.sendSignal a sp u x) := by
  unfold State.sendSignal
  all_goals try dsimp only [State.takeFree, State.freshId]
  repeat' first
    | with_reducible assumption
    | (with_reducible apply State.sendOwn_keeps)
    | (with_reducible apply State.onSpire_keeps)
    | (with_reducible refine Keeps.foldl ?_ ?_)
    | (with_reducible refine Keeps.foldlFst ?_ ?_)
    | (with_reducible refine Keeps.foldlSnd ?_ ?_)
    | (intro b x hb; try dsimp only [State.takeFree, State.freshId])
    | split

theorem State.onReq_keeps {s a : State} (sp : ℕ) (u : ℕ) (xid : ℕ) (rid : ℕ) (f : Sys2Proof.Machine.Req → Sys2Proof.Machine.Req) (h : Keeps s a) : Keeps s (State.onReq a sp u xid rid f) := by
  unfold State.onReq
  all_goals try dsimp only [State.takeFree, State.freshId]
  repeat' first
    | with_reducible assumption
    | (with_reducible apply State.onSpire_keeps)
    | (with_reducible refine Keeps.foldl ?_ ?_)
    | (with_reducible refine Keeps.foldlFst ?_ ?_)
    | (with_reducible refine Keeps.foldlSnd ?_ ?_)
    | (intro b x hb; try dsimp only [State.takeFree, State.freshId])
    | split

theorem State.endReq_keeps {s a : State} (sp : ℕ) (u : ℕ) (xid : ℕ) (rid : ℕ) (h : Keeps s a) : Keeps s (State.endReq a sp u xid rid) := by
  unfold State.endReq
  all_goals try dsimp only [State.takeFree, State.freshId]
  repeat' first
    | with_reducible assumption
    | (with_reducible apply State.onSpire_keeps)
    | (with_reducible apply State.forgetRead_keeps)
    | (with_reducible refine Keeps.foldl ?_ ?_)
    | (with_reducible refine Keeps.foldlFst ?_ ?_)
    | (with_reducible refine Keeps.foldlSnd ?_ ?_)
    | (intro b x hb; try dsimp only [State.takeFree, State.freshId])
    | split

theorem State.sendPacket_keeps {s a : State} (r : Sys2Proof.Machine.Req) (h : Keeps s a) : Keeps s (State.sendPacket a r).1 := by
  unfold State.sendPacket
  all_goals try dsimp only [State.takeFree, State.freshId]
  repeat' first
    | with_reducible assumption
    | (with_reducible apply State.freshId_keeps)
    | (with_reducible refine Keeps.snd (State.freshId_keeps (h := ?_) ..) (by with_reducible assumption))
    | (with_reducible refine Keeps.foldl ?_ ?_)
    | (with_reducible refine Keeps.foldlFst ?_ ?_)
    | (with_reducible refine Keeps.foldlSnd ?_ ?_)
    | (intro b x hb; try dsimp only [State.takeFree, State.freshId])
    | split
    | (apply Keeps.upd)
    | exact fun _ w => w
    | (intro b w; try dsimp only; (repeat' split) <;> first | exact w | (rw [Core.wf_iff] at *; exact w))
    | exact fun w => w
    | exact rfl

theorem State.sendReq_keeps {s a : State} (sp : ℕ) (u : ℕ) (xid : ℕ) (rid : ℕ) (h : Keeps s a) : Keeps s (State.sendReq a sp u xid rid) := by
  unfold State.sendReq
  all_goals try dsimp only [State.takeFree, State.freshId]
  repeat' first
    | with_reducible assumption
    | (with_reducible apply State.freshId_keeps)
    | (with_reducible refine Keeps.snd (State.freshId_keeps (h := ?_) ..) (by with_reducible assumption))
    | (with_reducible apply State.onReq_keeps)
    | (with_reducible refine Keeps.foldl ?_ ?_)
    | (with_reducible refine Keeps.foldlFst ?_ ?_)
    | (with_reducible refine Keeps.foldlSnd ?_ ?_)
    | (intro b x hb; try dsimp only [State.takeFree, State.freshId])
    | split
    | (apply Keeps.upd)
    | exact fun _ w => w
    | (intro b w; try dsimp only; (repeat' split) <;> first | exact w | (rw [Core.wf_iff] at *; exact w))
    | exact fun w => w
    | exact rfl

theorem State.startFill_keeps {s a : State} (h1 : ℕ) (line : ℕ) (h : Keeps s a) : Keeps s (State.startFill a h1 line) := by
  unfold State.startFill
  all_goals try dsimp only [State.takeFree, State.freshId]
  repeat' first
    | with_reducible assumption
    | (with_reducible apply State.enterRead_keeps)
    | (with_reducible refine Keeps.foldl ?_ ?_)
    | (with_reducible refine Keeps.foldlFst ?_ ?_)
    | (with_reducible refine Keeps.foldlSnd ?_ ?_)
    | (intro b x hb; try dsimp only [State.takeFree, State.freshId])
    | split

theorem State.cupolaRead_keeps {s a : State} (sp : ℕ) (u : ℕ) (xid : ℕ) (r : Sys2Proof.Machine.Req) (h : Keeps s a) : Keeps s (State.cupolaRead a sp u xid r).1 := by
  unfold State.cupolaRead
  all_goals try dsimp only [State.takeFree, State.freshId]
  repeat' first
    | with_reducible assumption
    | (with_reducible apply State.sendPacket_keeps)
    | (with_reducible refine Keeps.fst (State.sendPacket_keeps (h := ?_) ..) (by with_reducible assumption))
    | (with_reducible apply State.setCupola_keeps)
    | (with_reducible apply State.startFill_keeps)
    | (with_reducible refine Keeps.foldl ?_ ?_)
    | (with_reducible refine Keeps.foldlFst ?_ ?_)
    | (with_reducible refine Keeps.foldlSnd ?_ ?_)
    | (intro b x hb; try dsimp only [State.takeFree, State.freshId])
    | split

theorem State.launch_keeps {s a : State} (sp : ℕ) (e2 : ℕ) (x : Sys2Proof.Machine.Xfer) (r : Sys2Proof.Machine.Req) (h : Keeps s a) : Keeps s (State.launch a sp e2 x r) := by
  unfold State.launch
  all_goals try dsimp only [State.takeFree, State.freshId]
  repeat' first
    | with_reducible assumption
    | (with_reducible apply State.cupolaRead_keeps)
    | (with_reducible refine Keeps.fst (State.cupolaRead_keeps (h := ?_) ..) (by with_reducible assumption))
    | (with_reducible apply State.enterRead_keeps)
    | (with_reducible apply State.sendPacket_keeps)
    | (with_reducible refine Keeps.fst (State.sendPacket_keeps (h := ?_) ..) (by with_reducible assumption))
    | (with_reducible apply State.onSpire_keeps)
    | (with_reducible refine Keeps.foldl ?_ ?_)
    | (with_reducible refine Keeps.foldlFst ?_ ?_)
    | (with_reducible refine Keeps.foldlSnd ?_ ?_)
    | (intro b x hb; try dsimp only [State.takeFree, State.freshId])
    | split

theorem State.windowViolation_keeps {s a : State} (sp : ℕ) (e2 : ℕ) (x : Sys2Proof.Machine.Xfer) (off : ℤ) (h : Keeps s a) : Keeps s (State.windowViolation a sp e2 x off) := by
  unfold State.windowViolation
  all_goals try dsimp only [State.takeFree, State.freshId]
  repeat' first
    | with_reducible assumption
    | (with_reducible apply State.freeze_keeps)
    | (with_reducible refine Keeps.foldl ?_ ?_)
    | (with_reducible refine Keeps.foldlFst ?_ ?_)
    | (with_reducible refine Keeps.foldlSnd ?_ ?_)
    | (intro b x hb; try dsimp only [State.takeFree, State.freshId])
    | split

theorem State.issueList_keeps {s a : State} (sp : ℕ) (p : ℕ) (e3 : ℕ) (x : Sys2Proof.Machine.Xfer) (h : Keeps s a) : Keeps s (State.issueList a sp p e3 x) := by
  unfold State.issueList
  all_goals try dsimp only [State.takeFree, State.freshId]
  repeat' first
    | with_reducible assumption
    | (with_reducible apply State.windowViolation_keeps)
    | (with_reducible apply State.freshId_keeps)
    | (with_reducible refine Keeps.snd (State.freshId_keeps (h := ?_) ..) (by with_reducible assumption))
    | (with_reducible apply State.onSpire_keeps)
    | (with_reducible apply State.launch_keeps)
    | (with_reducible refine Keeps.foldl ?_ ?_)
    | (with_reducible refine Keeps.foldlFst ?_ ?_)
    | (with_reducible refine Keeps.foldlSnd ?_ ?_)
    | (intro b x hb; try dsimp only [State.takeFree, State.freshId])
    | split
    | (apply Keeps.upd)
    | exact fun _ w => w
    | (intro b w; try dsimp only; (repeat' split) <;> first | exact w | (rw [Core.wf_iff] at *; exact w))
    | exact fun w => w
    | exact rfl

theorem State.sendAccepted_keeps {s a : State} (sp u xid rid : Nat) (h : Keeps s a) : Keeps s (State.sendAccepted a sp u xid rid) := by
  unfold State.sendAccepted
  all_goals try dsimp only [State.takeFree, State.freshId]
  repeat' first
    | with_reducible assumption
    | (with_reducible apply State.onReq_keeps)
    | (with_reducible apply State.freshId_keeps)
    | (with_reducible refine Keeps.foldl ?_ ?_)
    | (with_reducible refine Keeps.foldlFst ?_ ?_)
    | (with_reducible refine Keeps.foldlSnd ?_ ?_)
    | (intro b x hb; try dsimp only [State.takeFree, State.freshId])
    | split
    | (apply Keeps.upd)
    | exact fun _ w => w
    | (intro b w; try dsimp only; (repeat' split) <;> first | exact w | (rw [Core.wf_iff] at *; exact w))
    | exact fun w => w
    | exact rfl

theorem State.readTiles_keeps {s a : State} (sp : Nat) (reads : List (Nat × Nat × Nat)) (h : Keeps s a) : Keeps s (State.readTiles a sp reads) := by
  unfold State.readTiles
  all_goals try dsimp only [State.takeFree, State.freshId]
  repeat' first
    | with_reducible assumption
    | (with_reducible apply State.noteReads_keeps)
    | (with_reducible apply State.useBanks_keeps)
    | (with_reducible refine Keeps.foldl ?_ ?_)
    | (with_reducible refine Keeps.foldlFst ?_ ?_)
    | (with_reducible refine Keeps.foldlSnd ?_ ?_)
    | (intro b x hb; try dsimp only [State.takeFree, State.freshId])
    | split
    | (apply Keeps.upd)
    | exact fun _ w => w
    | (intro b w; try dsimp only; (repeat' split) <;> first | exact w | (rw [Core.wf_iff] at *; exact w))
    | exact fun w => w
    | exact rfl

theorem State.flushStopped_keeps {s a : State} (sp : Nat) (h : Keeps s a) : Keeps s (State.flushStopped a sp) := by
  unfold State.flushStopped
  all_goals try dsimp only [State.takeFree, State.freshId]
  repeat' first
    | with_reducible assumption
    | (with_reducible apply State.flushBulk_keeps)
    | (with_reducible refine Keeps.foldl ?_ ?_)
    | (with_reducible refine Keeps.foldlFst ?_ ?_)
    | (with_reducible refine Keeps.foldlSnd ?_ ?_)
    | (intro b x hb; try dsimp only [State.takeFree, State.freshId])
    | split

theorem State.noteStep_keeps {s a : State} (sp : ℕ) (x : Sys2Proof.Machine.Xfer) (g : Sys2Proof.Machine.Step) (h : Keeps s a) : Keeps s (State.noteStep a sp x g) := by
  unfold State.noteStep
  all_goals try dsimp only [State.takeFree, State.freshId]
  repeat' first
    | with_reducible assumption
    | (with_reducible apply State.readTiles_keeps)
    | (with_reducible apply State.onCtr_keeps)
    | (with_reducible apply State.noteReads_keeps)
    | (with_reducible refine Keeps.foldl ?_ ?_)
    | (with_reducible refine Keeps.foldlFst ?_ ?_)
    | (with_reducible refine Keeps.foldlSnd ?_ ?_)
    | (intro b x hb; try dsimp only [State.takeFree, State.freshId])
    | split

theorem State.storeXfer_keeps {s a : State} (sp : ℕ) (e2 : ℕ) (x1 : Sys2Proof.Machine.Xfer) (h : Keeps s a) : Keeps s (State.storeXfer a sp e2 x1) := by
  unfold State.storeXfer
  all_goals try dsimp only [State.takeFree, State.freshId]
  repeat' first
    | with_reducible assumption
    | (with_reducible apply State.onSpire_keeps)
    | (with_reducible refine Keeps.foldl ?_ ?_)
    | (with_reducible refine Keeps.foldlFst ?_ ?_)
    | (with_reducible refine Keeps.foldlSnd ?_ ?_)
    | (intro b x hb; try dsimp only [State.takeFree, State.freshId])
    | split

theorem State.issueHold_keeps {s a : State} (sp : ℕ) (p : ℕ) (e3 : ℕ) (x : Sys2Proof.Machine.Xfer) (g : Sys2Proof.Machine.Step) (lo : ℤ) (hi : ℤ) (h : Keeps s a) : Keeps s (State.issueHold a sp p e3 x g lo hi) := by
  unfold State.issueHold
  all_goals try dsimp only [State.takeFree, State.freshId]
  repeat' first
    | with_reducible assumption
    | (with_reducible apply State.freshId_keeps)
    | (with_reducible refine Keeps.snd (State.freshId_keeps (h := ?_) ..) (by with_reducible assumption))
    | (with_reducible apply State.onSpire_keeps)
    | (with_reducible apply State.launch_keeps)
    | (with_reducible refine Keeps.foldl ?_ ?_)
    | (with_reducible refine Keeps.foldlFst ?_ ?_)
    | (with_reducible refine Keeps.foldlSnd ?_ ?_)
    | (intro b x hb; try dsimp only [State.takeFree, State.freshId])
    | split
    | (apply Keeps.upd)
    | exact fun _ w => w
    | (intro b w; try dsimp only; (repeat' split) <;> first | exact w | (rw [Core.wf_iff] at *; exact w))
    | exact fun w => w
    | exact rfl

theorem State.issueData_keeps {s a : State} (sp : ℕ) (p : ℕ) (e3 : ℕ) (x : Sys2Proof.Machine.Xfer) (c : Sys2Proof.Machine.ReqClass) (h : Keeps s a) : Keeps s (State.issueData a sp p e3 x c) := by
  unfold State.issueData
  all_goals try dsimp only [State.takeFree, State.freshId]
  repeat' first
    | with_reducible assumption
    | (with_reducible apply State.onSpire_keeps)
    | (with_reducible apply State.freshId_keeps)
    | (with_reducible refine Keeps.snd (State.freshId_keeps (h := ?_) ..) (by with_reducible assumption))
    | (with_reducible apply State.windowViolation_keeps)
    | (with_reducible apply State.launch_keeps)
    | (with_reducible apply State.storeXfer_keeps)
    | (with_reducible apply State.issueHold_keeps)
    | (with_reducible apply State.noteStep_keeps)
    | (with_reducible refine Keeps.foldl ?_ ?_)
    | (with_reducible refine Keeps.foldlFst ?_ ?_)
    | (with_reducible refine Keeps.foldlSnd ?_ ?_)
    | (intro b x hb; try dsimp only [State.takeFree, State.freshId])
    | split
    | (apply Keeps.upd)
    | exact fun _ w => w
    | (intro b w; try dsimp only; (repeat' split) <;> first | exact w | (rw [Core.wf_iff] at *; exact w))
    | exact fun w => w
    | exact rfl

theorem State.dequeue_keeps {s a : State} (f k : Nat) (h : Keeps s a) : Keeps s (State.dequeue f k a) := by
  induction f generalizing a with
  | zero => exact h
  | succ f ih =>
    unfold State.dequeue
    dsimp only
    split
    · exact h
    · split
      · exact ih (State.setCupola_keeps _ _ h)
      · split
        · exact ih (State.startFill_keeps _ _ (State.setCupola_keeps _ _ h))
        · exact h

theorem State.spanPacket_keeps {s a : State} (sp : ℕ) (u : ℕ) (x : Sys2Proof.Machine.Xfer) (r : Sys2Proof.Machine.Req) (h : Keeps s a) : Keeps s (State.spanPacket a sp u x r) := by
  unfold State.spanPacket
  all_goals try dsimp only [State.takeFree, State.freshId]
  repeat' first
    | with_reducible assumption
    | (with_reducible apply State.sendAccepted_keeps)
    | (with_reducible apply State.bulkBytesIn_keeps)
    | (with_reducible apply State.slotWrite_keeps)
    | (with_reducible apply State.onReq_keeps)
    | (with_reducible apply State.flushBulk_keeps)
    | (with_reducible refine Keeps.foldl ?_ ?_)
    | (with_reducible refine Keeps.foldlFst ?_ ?_)
    | (with_reducible refine Keeps.foldlSnd ?_ ?_)
    | (intro b x hb; try dsimp only [State.takeFree, State.freshId])
    | split

theorem State.landPacket_keeps {s a : State} (sp : ℕ) (u : ℕ) (x : Sys2Proof.Machine.Xfer) (r : Sys2Proof.Machine.Req) (h : Keeps s a) : Keeps s (State.landPacket a sp u x r) := by
  unfold State.landPacket
  all_goals try dsimp only [State.takeFree, State.freshId]
  repeat' first
    | with_reducible assumption
    | (with_reducible apply State.sendAccepted_keeps)
    | (with_reducible apply State.onCore_keeps)
    | (with_reducible apply State.onReq_keeps)
    | (with_reducible refine Keeps.foldl ?_ ?_)
    | (with_reducible refine Keeps.foldlFst ?_ ?_)
    | (with_reducible refine Keeps.foldlSnd ?_ ?_)
    | (intro b x hb; try dsimp only [State.takeFree, State.freshId])
    | split
    | (apply Keeps.upd)
    | exact fun _ w => w
    | (intro b w; try dsimp only; (repeat' split) <;> first | exact w | (rw [Core.wf_iff] at *; exact w))
    | exact fun w => w
    | exact rfl

theorem State.engineData_keeps {s a : State} (sp : ℕ) (u : ℕ) (x : Sys2Proof.Machine.Xfer) (r : Sys2Proof.Machine.Req) (h : Keeps s a) : Keeps s (State.engineData a sp u x r) := by
  unfold State.engineData
  all_goals try dsimp only [State.takeFree, State.freshId]
  repeat' first
    | with_reducible assumption
    | (with_reducible apply State.sendAccepted_keeps)
    | (with_reducible apply State.onReq_keeps)
    | (with_reducible apply State.onSpire_keeps)
    | (with_reducible apply State.freeze_keeps)
    | (with_reducible refine Keeps.foldl ?_ ?_)
    | (with_reducible refine Keeps.foldlFst ?_ ?_)
    | (with_reducible refine Keeps.foldlSnd ?_ ?_)
    | (intro b x hb; try dsimp only [State.takeFree, State.freshId])
    | split

theorem State.deliver_keeps {s a : State} (sp : ℕ) (u : ℕ) (x : Sys2Proof.Machine.Xfer) (r : Sys2Proof.Machine.Req) (h : Keeps s a) : Keeps s (State.deliver a sp u x r) := by
  unfold State.deliver
  all_goals try dsimp only [State.takeFree, State.freshId]
  repeat' first
    | with_reducible assumption
    | (with_reducible apply State.sendAccepted_keeps)
    | (with_reducible apply State.readTiles_keeps)
    | (with_reducible apply State.onReq_keeps)
    | (with_reducible apply State.spanPacket_keeps)
    | (with_reducible apply State.freeze_keeps)
    | (with_reducible apply State.endReq_keeps)
    | (with_reducible apply State.onCore_keeps)
    | (with_reducible apply State.engineData_keeps)
    | (with_reducible apply State.noteReads_keeps)
    | (with_reducible apply State.landPacket_keeps)
    | (with_reducible refine Keeps.foldl ?_ ?_)
    | (with_reducible refine Keeps.foldlFst ?_ ?_)
    | (with_reducible refine Keeps.foldlSnd ?_ ?_)
    | (intro b x hb; try dsimp only [State.takeFree, State.freshId])
    | split
    | (apply Keeps.upd)
    | exact fun _ w => w
    | (intro b w; try dsimp only; (repeat' split) <;> first | exact w | (rw [Core.wf_iff] at *; exact w))
    | exact fun w => w
    | exact rfl

theorem State.landingErrors_keeps {s a : State} (tile : ℕ) (a2 : ℕ) (n : ℕ) (bs : List Sys2Proof.Byte) (e5 : Sys2Proof.LineErr) (h : Keeps s a) : Keeps s (State.landingErrors a tile a2 n bs e5).1 := by
  unfold State.landingErrors
  all_goals try dsimp only [State.takeFree, State.freshId]
  repeat' first
    | with_reducible assumption
    | (with_reducible apply State.onCtr_keeps)
    | (with_reducible apply State.takeFree_keeps)
    | (with_reducible refine Keeps.snd (State.takeFree_keeps (h := ?_) ..) (by with_reducible assumption))
    | (with_reducible apply State.freeze_keeps)
    | (with_reducible refine Keeps.foldl ?_ ?_)
    | (with_reducible refine Keeps.foldlFst ?_ ?_)
    | (with_reducible refine Keeps.foldlSnd ?_ ?_)
    | (intro b x hb; try dsimp only [State.takeFree, State.freshId])
    | split
    | (apply Keeps.upd)
    | exact fun _ w => w
    | (intro b w; try dsimp only; (repeat' split) <;> first | exact w | (rw [Core.wf_iff] at *; exact w))
    | exact fun w => w
    | exact rfl

theorem State.gateUp_keeps {s a : State} (x : Sys2Proof.Machine.Xfer) (h : Keeps s a) : Keeps s (State.gateUp a x) := by
  unfold State.gateUp
  all_goals try dsimp only [State.takeFree, State.freshId]
  repeat' first
    | with_reducible assumption
    | (with_reducible apply State.onPort_keeps)
    | (with_reducible refine Keeps.foldl ?_ ?_)
    | (with_reducible refine Keeps.foldlFst ?_ ?_)
    | (with_reducible refine Keeps.foldlSnd ?_ ?_)
    | (intro b x hb; try dsimp only [State.takeFree, State.freshId])
    | split
    | (apply Keeps.upd)
    | exact fun _ w => w
    | (intro b w; try dsimp only; (repeat' split) <;> first | exact w | (rw [Core.wf_iff] at *; exact w) | (simp only [Port.onLane_store, Port.discard_store, Port.acked_store]; exact w))
    | exact fun w => w
    | exact rfl
    | exact fun w => State.port_wf w
    | (intro w; simp only [Port.onLane_store, Port.discard_store, Port.acked_store]; exact State.port_wf w)

theorem State.completionPush_keeps {s a : State} (sp : ℕ) (u : ℕ) (x : Sys2Proof.Machine.Xfer) (h : Keeps s a) : Keeps s (State.completionPush a sp u x) := by
  unfold State.completionPush
  all_goals try dsimp only [State.takeFree, State.freshId]
  repeat' first
    | with_reducible assumption
    | (with_reducible apply State.resume_keeps)
    | (with_reducible apply State.onSpire_keeps)
    | (with_reducible apply State.gateUp_keeps)
    | (with_reducible apply State.sendPush_keeps)
    | (with_reducible refine Keeps.snd (State.sendPush_keeps (h := ?_) ..) (by with_reducible assumption))
    | (with_reducible refine State.pushLocal_keeps (h := ?_) (e := by with_reducible assumption) ..)
    | (with_reducible refine Keeps.foldl ?_ ?_)
    | (with_reducible refine Keeps.foldlFst ?_ ?_)
    | (with_reducible refine Keeps.foldlSnd ?_ ?_)
    | (intro b x hb; try dsimp only [State.takeFree, State.freshId])
    | split

theorem State.setPushPhase_keeps {s a : State} (id : ℕ) (ph : Sys2Proof.Machine.PushPhase) (h : Keeps s a) : Keeps s (State.setPushPhase a id ph) := by
  unfold State.setPushPhase
  all_goals try dsimp only [State.takeFree, State.freshId]
  repeat' first
    | with_reducible assumption
    | (with_reducible apply State.onCore_keeps)
    | (with_reducible refine Keeps.foldl ?_ ?_)
    | (with_reducible refine Keeps.foldlFst ?_ ?_)
    | (with_reducible refine Keeps.foldlSnd ?_ ?_)
    | (intro b x hb; try dsimp only [State.takeFree, State.freshId])
    | split
    | (apply Keeps.upd)
    | exact fun _ w => w
    | (intro b w; try dsimp only; (repeat' split) <;> first | exact w | (rw [Core.wf_iff] at *; exact w))
    | exact fun w => w
    | exact rfl

theorem State.freezePusher_keeps {s a : State} (w : Sys2Proof.Machine.RemotePush) (h : Keeps s a) : Keeps s (State.freezePusher a w) := by
  unfold State.freezePusher
  all_goals try dsimp only [State.takeFree, State.freshId]
  repeat' first
    | with_reducible assumption
    | (with_reducible apply State.freeze_keeps)
    | (with_reducible refine Keeps.foldl ?_ ?_)
    | (with_reducible refine Keeps.foldlFst ?_ ?_)
    | (with_reducible refine Keeps.foldlSnd ?_ ?_)
    | (intro b x hb; try dsimp only [State.takeFree, State.freshId])
    | split

theorem State.lanternMove_keeps {s a : State} (sp : ℕ) (x : Sys2Proof.Machine.Xfer) (bad : Bool) (h : Keeps s a) : Keeps s (State.lanternMove a sp x bad).1 := by
  unfold State.lanternMove
  all_goals try dsimp only [State.takeFree, State.freshId]
  repeat' first
    | with_reducible assumption
    | (with_reducible apply State.onCore_keeps)
    | (with_reducible apply State.readTiles_keeps)
    | (with_reducible apply State.useBanks_keeps)
    | (with_reducible apply State.freeze_keeps)
    | (with_reducible apply State.tileWrite_keeps)
    | (with_reducible apply State.noteReads_keeps)
    | (with_reducible apply State.windowViolation_keeps)
    | (with_reducible apply State.hbmSpoil_keeps)
    | (with_reducible apply State.countUe_keeps)
    | (with_reducible apply State.hbmWrite_keeps)
    | (with_reducible apply State.meetSoft_keeps)
    | (with_reducible refine Keeps.foldl ?_ ?_)
    | (with_reducible refine Keeps.foldlFst ?_ ?_)
    | (with_reducible refine Keeps.foldlSnd ?_ ?_)
    | (intro b x hb; try dsimp only [State.takeFree, State.freshId])
    | split
    | (apply Keeps.upd)
    | exact fun _ w => w
    | (intro b w; try dsimp only; (repeat' split) <;> first | exact w | (rw [Core.wf_iff] at *; exact w))
    | exact fun w => w
    | exact rfl

theorem State.issueLantern_keeps {s a : State} (sp : ℕ) (h : Keeps s a) : Keeps s (State.issueLantern a sp) := by
  unfold State.issueLantern
  all_goals try dsimp only [State.takeFree, State.freshId]
  repeat' first
    | with_reducible assumption
    | (with_reducible apply State.windowViolation_keeps)
    | (with_reducible apply State.freshId_keeps)
    | (with_reducible refine Keeps.snd (State.freshId_keeps (h := ?_) ..) (by with_reducible assumption))
    | (with_reducible apply State.onSpire_keeps)
    | (with_reducible refine Keeps.foldl ?_ ?_)
    | (with_reducible refine Keeps.foldlFst ?_ ?_)
    | (with_reducible refine Keeps.foldlSnd ?_ ?_)
    | (intro b x hb; try dsimp only [State.takeFree, State.freshId])
    | split
    | (apply Keeps.upd)
    | exact fun _ w => w
    | (intro b w; try dsimp only; (repeat' split) <;> first | exact w | (rw [Core.wf_iff] at *; exact w))
    | exact fun w => w
    | exact rfl

theorem State.lanternEnter_keeps {s a t : State} {x : Sys2Proof.Machine.Xfer} (h : Keeps s a) (e : State.lanternEnter a x = some t) : Keeps s t := by
  unfold State.lanternEnter at e
  try dsimp only at e
  repeat' split at e
  all_goals first | (cases e; done) | (cases e) | (injection e with e; injection e; subst_vars) | (obtain ⟨_, _, e⟩ := Option.map_eq_some_iff.1 e; subst e) | skip
  all_goals try dsimp only [State.takeFree, State.freshId]
  repeat' first
    | with_reducible assumption
    | (with_reducible refine State.enterWrite_keeps (h := ?_) (e := by with_reducible assumption) ..)
    | (with_reducible refine Keeps.foldl ?_ ?_)
    | (with_reducible refine Keeps.foldlFst ?_ ?_)
    | (with_reducible refine Keeps.foldlSnd ?_ ?_)
    | (intro b x hb; try dsimp only [State.takeFree, State.freshId])
    | split

theorem State.calFetch_keeps {s a : State} (h0 : Nat) (head : Nat) (at_ : Nat) (len : Nat) (h : Keeps s a) : Keeps s (State.calFetch a h0 head at_ len).2 := by
  unfold State.calFetch
  have k := State.belfryRead_keeps h0 head 144 h
  dsimp only
  split
  · exact k
  · exact State.belfryRead_keeps _ _ _ k

theorem State.calLoaded_keeps {s a : State} (p : ℕ) (sp : ℕ) (l : Sys2Proof.Machine.CalLoad) (set : Sys2Proof.Machine.CalSet) (h : Keeps s a) : Keeps s (State.calLoaded a p sp l set) := by
  unfold State.calLoaded
  all_goals try dsimp only [State.takeFree, State.freshId]
  repeat' first
    | with_reducible assumption
    | (with_reducible apply State.onSpire_keeps)
    | (with_reducible apply State.resume_keeps)
    | (with_reducible apply State.event_keeps)
    | (with_reducible refine Keeps.foldl ?_ ?_)
    | (with_reducible refine Keeps.foldlFst ?_ ?_)
    | (with_reducible refine Keeps.foldlSnd ?_ ?_)
    | (intro b x hb; try dsimp only [State.takeFree, State.freshId])
    | split

theorem State.corrupt_keeps {s a : State} (p : ℕ) (count : ℕ) (id : ℕ) (broken : List (Fin 4096 × Fin 4)) (h : Keeps s a) : Keeps s (State.corrupt a p count id broken) := by
  unfold State.corrupt
  all_goals try dsimp only [State.takeFree, State.freshId]
  repeat' first
    | with_reducible assumption
    | (with_reducible apply State.onCore_keeps)
    | (with_reducible refine Keeps.foldl ?_ ?_)
    | (with_reducible refine Keeps.foldlFst ?_ ?_)
    | (with_reducible refine Keeps.foldlSnd ?_ ?_)
    | (intro b x hb; try dsimp only [State.takeFree, State.freshId])
    | split
    | (apply Keeps.upd)
    | exact fun _ w => w
    | (intro b w; try dsimp only; (repeat' split) <;> first | exact w | (rw [Core.wf_iff] at *; exact w))
    | exact fun w => w
    | exact rfl

theorem State.takeArrivals_keeps {s a : State} (p : Nat) (count : Nat) (h : Keeps s a) : Keeps s (State.takeArrivals a p count) := by
  unfold State.takeArrivals
  refine State.onCore_keeps _ h (fun c w => ?_)
  rw [Core.wf_iff] at w ⊢
  refine ⟨w.1, ?_, w.2.2⟩
  have key : ∀ (l : List Arrival) (m : Bytes), Tbl.wf 0#8 m = true →
      Tbl.wf 0#8 (l.foldl (fun m a => Tbl.putRun 0#8 (inputKey a.tile a.port) a.bytes m) m) = true := by
    intro l
    induction l with
    | nil => exact fun _ h => h
    | cons a l ih => exact fun m hm => ih _ (Tbl.wf_putRun _ _ _ hm)
  exact key _ _ w.2.1

theorem State.actEntry_keeps {s a : State} (sp count id : Nat) (view : State) (x : CalEntry × Nat) (h : Keeps s a) :
    Keeps s (a.actEntry sp count id view x) := by
  unfold State.actEntry
  refine State.onCore_keeps _ h (fun c w => ?_)
  split <;> (rw [Core.wf_iff] at *; exact w)

theorem State.schedWrite_keeps {s a : State} (earlier : List Sys2Proof.Machine.WriteBack) (w : Sys2Proof.Machine.WriteBack) (h : Keeps s a) : Keeps s (State.schedWrite a earlier w) := by
  unfold State.schedWrite
  all_goals try dsimp only [State.takeFree, State.freshId]
  repeat' first
    | with_reducible assumption
    | (with_reducible apply State.takeFree_keeps)
    | (with_reducible refine Keeps.snd (State.takeFree_keeps (h := ?_) ..) (by with_reducible assumption))
    | (with_reducible apply State.tileWrite_keeps)
    | (with_reducible refine Keeps.foldl ?_ ?_)
    | (with_reducible refine Keeps.foldlFst ?_ ?_)
    | (with_reducible refine Keeps.foldlSnd ?_ ?_)
    | (intro b x hb; try dsimp only [State.takeFree, State.freshId])
    | split
    | (apply Keeps.upd)
    | exact fun _ w => w
    | (intro b w; try dsimp only; (repeat' split) <;> first | exact w | (rw [Core.wf_iff] at *; exact w))
    | exact fun w => w
    | exact rfl

theorem State.landScheduled_keeps {s a : State} (p : ℕ) (h : Keeps s a) : Keeps s (State.landScheduled a p) := by
  unfold State.landScheduled
  all_goals try dsimp only [State.takeFree, State.freshId]
  repeat' first
    | with_reducible assumption
    | (with_reducible apply State.onCore_keeps)
    | (with_reducible apply State.schedWrite_keeps)
    | (with_reducible refine Keeps.foldl ?_ ?_)
    | (with_reducible refine Keeps.foldlFst ?_ ?_)
    | (with_reducible refine Keeps.foldlSnd ?_ ?_)
    | (intro b x hb; try dsimp only [State.takeFree, State.freshId])
    | split
    | (apply Keeps.upd)
    | exact fun _ w => w
    | (intro b w; try dsimp only; (repeat' split) <;> first | exact w | (rw [Core.wf_iff] at *; exact w))
    | exact fun w => w
    | exact rfl

theorem Mailbox.write_wf {m : Mailbox} (bs : List Byte) (h : m.wf = true) : (m.write bs).wf = true := by
  rw [Mailbox.wf_iff] at h ⊢
  exact ⟨h.1, Tbl.wf_putRun _ _ _ h.2⟩

theorem State.post_keeps {s a : State} (fn : Nat) (bs : List Byte) (h : Keeps s a) : Keeps s (State.post a fn bs) := by
  unfold State.post
  dsimp only
  split
  · refine State.onFn_keeps' _ _ h (fun w => ?_)
    have := State.fn_wf fn w
    rw [Mailbox.wf_iff] at this ⊢
    exact this
  · exact State.signal_keeps _ _ (State.onFn_keeps' _ _ h (fun w => Mailbox.write_wf _ (State.fn_wf fn w)))

theorem State.respond_keeps {s a : State} (fn : ℕ) (msgId : ℕ) (type : ℕ) (status : ℕ) (payload : optParam (List Sys2Proof.Byte) []) (h : Keeps s a) : Keeps s (State.respond a fn msgId type status payload) := by
  unfold State.respond
  all_goals try dsimp only [State.takeFree, State.freshId]
  repeat' first
    | with_reducible assumption
    | (with_reducible apply State.post_keeps)
    | (with_reducible refine Keeps.foldl ?_ ?_)
    | (with_reducible refine Keeps.foldlFst ?_ ?_)
    | (with_reducible refine Keeps.foldlSnd ?_ ?_)
    | (intro b x hb; try dsimp only [State.takeFree, State.freshId])
    | split

theorem State.finish_keeps {s a : State} (fn : ℕ) (msgId : ℕ) (type : ℕ) (status : ℕ) (payload : optParam (List Sys2Proof.Byte) []) (h : Keeps s a) : Keeps s (State.finish a fn msgId type status payload) := by
  unfold State.finish
  all_goals try dsimp only [State.takeFree, State.freshId]
  repeat' first
    | with_reducible assumption
    | (with_reducible apply State.respond_keeps)
    | (with_reducible apply State.onFn_keeps)
    | (with_reducible refine Keeps.foldl ?_ ?_)
    | (with_reducible refine Keeps.foldlFst ?_ ?_)
    | (with_reducible refine Keeps.foldlSnd ?_ ?_)
    | (intro b x hb; try dsimp only [State.takeFree, State.freshId])
    | split
    | (apply Keeps.upd)
    | exact fun _ w => w
    | (intro b w; try dsimp only; (repeat' split) <;> first | exact w | (rw [Core.wf_iff] at *; exact w))
    | exact fun w => w
    | exact rfl

theorem State.pend_keeps {s a : State} (fn : ℕ) (msgId : ℕ) (type : ℕ) (h : Keeps s a) : Keeps s (State.pend a fn msgId type) := by
  unfold State.pend
  all_goals try dsimp only [State.takeFree, State.freshId]
  repeat' first
    | with_reducible assumption
    | (with_reducible apply State.onFn_keeps)
    | (with_reducible apply State.respond_keeps)
    | (with_reducible refine Keeps.foldl ?_ ?_)
    | (with_reducible refine Keeps.foldlFst ?_ ?_)
    | (with_reducible refine Keeps.foldlSnd ?_ ?_)
    | (intro b x hb; try dsimp only [State.takeFree, State.freshId])
    | split
    | (apply Keeps.upd)
    | exact fun _ w => w
    | (intro b w; try dsimp only; (repeat' split) <;> first | exact w | (rw [Core.wf_iff] at *; exact w))
    | exact fun w => w
    | exact rfl

theorem State.releaseHeld_keeps {s : State} (fn : Nat) : ∀ (k : Nat) (a : State), Keeps s a → Keeps s (State.releaseHeld k fn a) := by
  intro k
  induction k with
  | zero => exact fun _ h => h
  | succ k ih =>
    intro a h
    unfold State.releaseHeld
    dsimp only
    split
    · exact h
    · split
      · exact h
      · refine ih _ (State.signal_keeps _ _ (State.onFn_keeps' _ _ h (fun w => Mailbox.write_wf _ ?_)))
        have := State.fn_wf fn w
        rw [Mailbox.wf_iff] at this ⊢
        exact this

theorem State.endUnselectable_keeps {s a : State} (p : Nat) (h : Keeps s a) : Keeps s (State.endUnselectable a p) := by
  unfold State.endUnselectable
  all_goals try dsimp only [State.takeFree, State.freshId]
  repeat' first
    | with_reducible assumption
    | (with_reducible apply State.finish_keeps)
    | (with_reducible apply State.onPart_keeps)
    | (with_reducible refine Keeps.foldl ?_ ?_)
    | (with_reducible refine Keeps.foldlFst ?_ ?_)
    | (with_reducible refine Keeps.foldlSnd ?_ ?_)
    | (intro b x hb; try dsimp only [State.takeFree, State.freshId])
    | split
    | (apply Keeps.upd)
    | exact fun _ w => w
    | (intro b w; try dsimp only; (repeat' split) <;> first | exact w | (rw [Core.wf_iff] at *; exact w))
    | exact fun w => w
    | exact rfl

theorem State.setObj_keeps {s a : State} (i : ℕ) (x : Sys2Proof.Machine.ObjSt) (h : Keeps s a) : Keeps s (State.setObj a i x) := by
  have h1 : Keeps s { a with store := { a.store with objs := Tbl.put {} i x a.store.objs } } := by
    apply Keeps.upd <;> first | exact h | exact fun w => w | exact rfl
  unfold State.setObj
  dsimp only
  split
  · exact h1
  · split
    · exact h1
    · split
      · exact State.post_keeps _ _ (State.post_keeps _ _ (State.event_keeps _ _ _ _ _ h1))
      · exact Keeps.foldl (State.post_keeps _ _ (State.post_keeps _ _ (State.event_keeps _ _ _ _ _ h1)))
          (fun _ _ hb => State.endUnselectable_keeps _ hb)

end Sys2Proof.Machine
end

