-- ==== Sys2Proof/Laws/KeepsTick.lean ====
section
/-! SUPPORT. What the operations of these families keep (see Keeps): Publish, Tick. -/

set_option linter.unusedTactic false
set_option linter.unreachableTactic false
set_option linter.unusedVariables false

namespace Sys2Proof.Machine

theorem State.noteSample_keeps {s a : State} (below : Bool) (h : Keeps s a) : Keeps s (State.noteSample a below) := by
  unfold State.noteSample
  all_goals try dsimp only [State.takeFree, State.freshId]
  repeat' first
    | with_reducible assumption
    | (with_reducible refine Keeps.foldl ?_ ?_)
    | (with_reducible refine Keeps.foldlFst ?_ ?_)
    | (with_reducible refine Keeps.foldlSnd ?_ ?_)
    | (intro b x hb; try dsimp only [State.takeFree, State.freshId])
    | split
    | (apply Keeps.upd)
    | exact fun _ w => w
    | (intro b w; try dsimp only; (repeat' split) <;> first | exact w | (rw [Core.wf_iff] at *; exact w) | (simp only [Port.onLane_store, Port.discard_store, Port.acked_store]; exact w))
    | exact fun w => w
    | exact rfl
    | exact fun w => State.port_wf w
    | (intro w; simp only [Port.onLane_store, Port.discard_store, Port.acked_store]; exact State.port_wf w)

theorem State.restretch_keeps {s a : State} (ns : ℕ) (p : ℕ) (h : Keeps s a) : Keeps s (State.restretch a ns p) := by
  unfold State.restretch
  all_goals try dsimp only [State.takeFree, State.freshId]
  repeat' first
    | with_reducible assumption
    | (with_reducible apply State.onPart_keeps)
    | (with_reducible apply State.hbmWrite_keeps)
    | (with_reducible apply State.meetSoft_keeps)
    | (with_reducible refine Keeps.foldl ?_ ?_)
    | (with_reducible refine Keeps.foldlFst ?_ ?_)
    | (with_reducible refine Keeps.foldlSnd ?_ ?_)
    | (intro b x hb; try dsimp only [State.takeFree, State.freshId])
    | split

theorem State.sendDone_keeps {s a : State} (h : Keeps s a) : Keeps s (State.sendDone a) := by
  unfold State.sendDone
  all_goals try dsimp only [State.takeFree, State.freshId]
  repeat' first
    | with_reducible assumption
    | (with_reducible apply State.sendCtrl_keeps)
    | (with_reducible refine Keeps.foldl ?_ ?_)
    | (with_reducible refine Keeps.foldlFst ?_ ?_)
    | (with_reducible refine Keeps.foldlSnd ?_ ?_)
    | (intro b x hb; try dsimp only [State.takeFree, State.freshId])
    | split
    | (apply Keeps.upd)
    | exact fun _ w => w
    | (intro b w; try dsimp only; (repeat' split) <;> first | exact w | (rw [Core.wf_iff] at *; exact w) | (simp only [Port.onLane_store, Port.discard_store, Port.acked_store]; exact w))
    | exact fun w => w
    | exact rfl
    | exact fun w => State.port_wf w
    | (intro w; simp only [Port.onLane_store, Port.discard_store, Port.acked_store]; exact State.port_wf w)

theorem State.closeOwn_keeps {s a : State} (h : Keeps s a) : Keeps s (State.closeOwn a) := by
  unfold State.closeOwn
  all_goals try dsimp only [State.takeFree, State.freshId]
  repeat' first
    | with_reducible assumption
    | (with_reducible apply State.signal_keeps)
    | (with_reducible apply State.event_keeps)
    | (with_reducible apply State.sendDone_keeps)
    | (with_reducible refine Keeps.foldl ?_ ?_)
    | (with_reducible refine Keeps.foldlFst ?_ ?_)
    | (with_reducible refine Keeps.foldlSnd ?_ ?_)
    | (intro b x hb; try dsimp only [State.takeFree, State.freshId])
    | split
    | (apply Keeps.upd)
    | exact fun _ w => w
    | (intro b w; try dsimp only; (repeat' split) <;> first | exact w | (rw [Core.wf_iff] at *; exact w) | (simp only [Port.onLane_store, Port.discard_store, Port.acked_store]; exact w))
    | exact fun w => w
    | exact rfl
    | exact fun w => State.port_wf w
    | (intro w; simp only [Port.onLane_store, Port.discard_store, Port.acked_store]; exact State.port_wf w)

theorem State.putRecord_keeps {s a : State} (p : ℕ) (a2 : ℕ) (record : List Sys2Proof.Byte) (st : Sys2Proof.Machine.TickStatus) (h : Keeps s a) : Keeps s (State.putRecord a p a2 record st) := by
  unfold State.putRecord
  all_goals try dsimp only [State.takeFree, State.freshId]
  repeat' first
    | with_reducible assumption
    | (with_reducible apply State.onPart_keeps)
    | (with_reducible apply State.hbmWrite_keeps)
    | (with_reducible apply State.meetSoft_keeps)
    | (with_reducible apply State.closeOwn_keeps)
    | (with_reducible apply State.signal_keeps)
    | (with_reducible refine Keeps.foldl ?_ ?_)
    | (with_reducible refine Keeps.foldlFst ?_ ?_)
    | (with_reducible refine Keeps.foldlSnd ?_ ?_)
    | (intro b x hb; try dsimp only [State.takeFree, State.freshId])
    | split

theorem State.publish_keeps {s a : State} (p : ℕ) (st : Sys2Proof.Machine.TickStatus) (run : ℕ) (slackUs : ℕ) (h : Keeps s a) : Keeps s (State.publish a p st run slackUs) := by
  unfold State.publish
  all_goals try dsimp only [State.takeFree, State.freshId]
  repeat' first
    | with_reducible assumption
    | (with_reducible apply State.onPart_keeps)
    | (with_reducible apply State.putRecord_keeps)
    | (with_reducible refine Keeps.foldl ?_ ?_)
    | (with_reducible refine Keeps.foldlFst ?_ ?_)
    | (with_reducible refine Keeps.foldlSnd ?_ ?_)
    | (intro b x hb; try dsimp only [State.takeFree, State.freshId])
    | split

theorem State.onRings_keeps {s a : State} (p : ℕ) (f : Sys2Proof.Machine.Ring → Sys2Proof.Machine.Ring) (h : Keeps s a) : Keeps s (State.onRings a p f) := by
  unfold State.onRings
  all_goals try dsimp only [State.takeFree, State.freshId]
  repeat' first
    | with_reducible assumption
    | (with_reducible apply State.onPart_keeps)
    | (with_reducible refine Keeps.foldl ?_ ?_)
    | (with_reducible refine Keeps.foldlFst ?_ ?_)
    | (with_reducible refine Keeps.foldlSnd ?_ ?_)
    | (intro b x hb; try dsimp only [State.takeFree, State.freshId])
    | split

theorem State.consume_keeps {s a : State} (p : ℕ) (upTo : Sys2Proof.Machine.Ring → ℕ) (h : Keeps s a) : Keeps s (State.consume a p upTo) := by
  unfold State.consume
  all_goals try dsimp only [State.takeFree, State.freshId]
  repeat' first
    | with_reducible assumption
    | (with_reducible apply State.onRings_keeps)
    | (with_reducible apply State.signal_keeps)
    | (with_reducible refine Keeps.foldl ?_ ?_)
    | (with_reducible refine Keeps.foldlFst ?_ ?_)
    | (with_reducible refine Keeps.foldlSnd ?_ ?_)
    | (intro b x hb; try dsimp only [State.takeFree, State.freshId])
    | split

theorem State.ingestRing_keeps {s a : State} (p : Nat) (roster : Option RosterCfg) (i : Nat) (c : RingCfg) (h : Keeps s a) :
    Keeps s (State.ingestRing a p roster i c) := by
  unfold State.ingestRing
  dsimp only
  split
  · split
    · exact State.onPart_keeps _ _ (State.setPart_keeps _ _ h)
    · exact State.ownWrite_keeps _ _ _ (State.setPart_keeps _ _ h)
  · exact State.setPart_keeps _ _ h

theorem State.ingest_keeps {s a : State} (p : ℕ) (roster : Option Sys2Proof.Machine.RosterCfg) (h : Keeps s a) : Keeps s (State.ingest a p roster) := by
  unfold State.ingest
  all_goals try dsimp only [State.takeFree, State.freshId]
  repeat' first
    | with_reducible assumption
    | (with_reducible apply State.onPart_keeps)
    | (with_reducible apply State.onRings_keeps)
    | (with_reducible apply State.ingestRing_keeps)
    | (with_reducible refine Keeps.foldl ?_ ?_)
    | (with_reducible refine Keeps.foldlFst ?_ ?_)
    | (with_reducible refine Keeps.foldlSnd ?_ ?_)
    | (intro b x hb; try dsimp only [State.takeFree, State.freshId])
    | split

theorem Core.opened_wf {c : Core} (mine : Nat → Bool) (h : c.wf = true) : (c.opened mine).wf = true := by
  rw [Core.wf_iff] at h ⊢
  exact ⟨h.1, Tbl.wf_filter _ h.2.1, h.2.2⟩

theorem State.openWindow_keeps {s a : State} (p : Nat) (h : Keeps s a) : Keeps s (State.openWindow a p) := by
  unfold State.openWindow
  dsimp only
  refine State.endWindow_keeps _ (Keeps.foldl (State.onCore_keeps _ (State.setPart_keeps _ _ (Keeps.foldl (State.onCore_keeps _ (Keeps.foldl
    (Keeps.foldl (Keeps.foldl h ?_) ?_) ?_) ?_) ?_)) ?_) ?_)
  · exact fun b x hb => State.onSpire_keeps _ _ hb
  · exact fun b x hb => State.settleRegs_keeps _ _ (State.settle_keeps _ _ (State.loadDue_keeps _ _ hb))
  · exact fun b x hb => State.onSpire_keeps _ _ hb
  · exact fun c w => Core.opened_wf _ w
  · refine fun b x hb => State.onPort_keeps _ _ hb (fun y w => ?_)
    split
    · exact w
    · exact w
  · exact fun c w => w
  · exact fun b x hb => State.takeWaiting_keeps _ hb

theorem State.tryOpen_keeps {s a : State} (p : ℕ) (h : Keeps s a) : Keeps s (State.tryOpen a p) := by
  unfold State.tryOpen
  all_goals try dsimp only [State.takeFree, State.freshId]
  repeat' first
    | with_reducible assumption
    | (with_reducible apply State.openWindow_keeps)
    | (with_reducible refine Keeps.foldl ?_ ?_)
    | (with_reducible refine Keeps.foldlFst ?_ ?_)
    | (with_reducible refine Keeps.foldlSnd ?_ ?_)
    | (intro b x hb; try dsimp only [State.takeFree, State.freshId])
    | split

theorem State.stopEngines_keeps {s a : State} (p : ℕ) (h : Keeps s a) : Keeps s (State.stopEngines a p) := by
  unfold State.stopEngines
  all_goals try dsimp only [State.takeFree, State.freshId]
  repeat' first
    | with_reducible assumption
    | (with_reducible apply State.stopCalendars_keeps)
    | (with_reducible apply State.onSpire_keeps)
    | (with_reducible refine Keeps.foldl ?_ ?_)
    | (with_reducible refine Keeps.foldlFst ?_ ?_)
    | (with_reducible refine Keeps.foldlSnd ?_ ?_)
    | (intro b x hb; try dsimp only [State.takeFree, State.freshId])
    | split

theorem State.noteStall_keeps {s a : State} (p : ℕ) (h : Keeps s a) : Keeps s (State.noteStall a p) := by
  unfold State.noteStall
  all_goals try dsimp only [State.takeFree, State.freshId]
  repeat' first
    | with_reducible assumption
    | (with_reducible apply State.setPart_keeps)
    | (with_reducible refine Keeps.foldl ?_ ?_)
    | (with_reducible refine Keeps.foldlFst ?_ ?_)
    | (with_reducible refine Keeps.foldlSnd ?_ ?_)
    | (intro b x hb; try dsimp only [State.takeFree, State.freshId])
    | split

theorem State.logStalls_keeps {s a : State} (p : ℕ) (h : Keeps s a) : Keeps s (State.logStalls a p) := by
  unfold State.logStalls
  all_goals try dsimp only [State.takeFree, State.freshId]
  repeat' first
    | with_reducible assumption
    | (with_reducible apply State.event_keeps)
    | (with_reducible refine Keeps.foldl ?_ ?_)
    | (with_reducible refine Keeps.foldlFst ?_ ?_)
    | (with_reducible refine Keeps.foldlSnd ?_ ?_)
    | (intro b x hb; try dsimp only [State.takeFree, State.freshId])
    | split

theorem State.decideEdge_keeps {s a : State} (cause : Sys2Proof.Machine.EdgeCause) (idle : Bool) (t0 : ℕ) (h : Keeps s a) : Keeps s (State.decideEdge a cause idle t0) := by
  unfold State.decideEdge
  all_goals try dsimp only [State.takeFree, State.freshId]
  repeat' first
    | with_reducible assumption
    | (with_reducible apply State.sendCtrl_keeps)
    | (with_reducible refine Keeps.foldl ?_ ?_)
    | (with_reducible refine Keeps.foldlFst ?_ ?_)
    | (with_reducible refine Keeps.foldlSnd ?_ ?_)
    | (intro b x hb; try dsimp only [State.takeFree, State.freshId])
    | split
    | (apply Keeps.upd)
    | exact fun _ w => w
    | (intro b w; try dsimp only; (repeat' split) <;> first | exact w | (rw [Core.wf_iff] at *; exact w) | (simp only [Port.onLane_store, Port.discard_store, Port.acked_store]; exact w))
    | exact fun w => w
    | exact rfl
    | exact fun w => State.port_wf w
    | (intro w; simp only [Port.onLane_store, Port.discard_store, Port.acked_store]; exact State.port_wf w)

theorem State.sourceEdge_keeps {s a : State} (cause : Sys2Proof.Machine.EdgeCause) (t0 : ℕ) (h : Keeps s a) : Keeps s (State.sourceEdge a cause t0) := by
  unfold State.sourceEdge
  all_goals try dsimp only [State.takeFree, State.freshId]
  repeat' first
    | with_reducible assumption
    | (with_reducible apply State.decideEdge_keeps)
    | (with_reducible refine Keeps.foldl ?_ ?_)
    | (with_reducible refine Keeps.foldlFst ?_ ?_)
    | (with_reducible refine Keeps.foldlSnd ?_ ?_)
    | (intro b x hb; try dsimp only [State.takeFree, State.freshId])
    | split
    | (apply Keeps.upd)
    | exact fun _ w => w
    | (intro b w; try dsimp only; (repeat' split) <;> first | exact w | (rw [Core.wf_iff] at *; exact w) | (simp only [Port.onLane_store, Port.discard_store, Port.acked_store]; exact w))
    | exact fun w => w
    | exact rfl
    | exact fun w => State.port_wf w
    | (intro w; simp only [Port.onLane_store, Port.discard_store, Port.acked_store]; exact State.port_wf w)

theorem State.latePolicy_keeps {s a : State} (p : ℕ) (h : Keeps s a) : Keeps s (State.latePolicy a p) := by
  unfold State.latePolicy
  all_goals try dsimp only [State.takeFree, State.freshId]
  repeat' first
    | with_reducible assumption
    | (with_reducible apply State.setPart_keeps)
    | (with_reducible apply State.signal_keeps)
    | (with_reducible apply State.event_keeps)
    | (with_reducible refine Keeps.foldl ?_ ?_)
    | (with_reducible refine Keeps.foldlFst ?_ ?_)
    | (with_reducible refine Keeps.foldlSnd ?_ ?_)
    | (intro b x hb; try dsimp only [State.takeFree, State.freshId])
    | split

theorem State.lateTick_keeps {s a : State} (p : ℕ) (h : Keeps s a) : Keeps s (State.lateTick a p) := by
  unfold State.lateTick
  all_goals try dsimp only [State.takeFree, State.freshId]
  repeat' first
    | with_reducible assumption
    | (with_reducible apply State.setPart_keeps)
    | (with_reducible apply State.latePolicy_keeps)
    | (with_reducible apply State.publish_keeps)
    | (with_reducible apply State.logStalls_keeps)
    | (with_reducible apply State.reload_keeps)
    | (with_reducible apply State.stopEngines_keeps)
    | (with_reducible apply State.onPart_keeps)
    | (with_reducible apply State.onRings_keeps)
    | (with_reducible apply State.consume_keeps)
    | (with_reducible apply State.freezeAll_keeps)
    | (with_reducible refine Keeps.foldl ?_ ?_)
    | (with_reducible refine Keeps.foldlFst ?_ ?_)
    | (with_reducible refine Keeps.foldlSnd ?_ ?_)
    | (intro b x hb; try dsimp only [State.takeFree, State.freshId])
    | split

theorem State.closePart_keeps {s a : State} (edge : ℕ) (p : ℕ) (h : Keeps s a) : Keeps s (State.closePart a edge p) := by
  unfold State.closePart
  all_goals try dsimp only [State.takeFree, State.freshId]
  repeat' first
    | with_reducible assumption
    | (with_reducible apply State.lateTick_keeps)
    | (with_reducible apply State.setPart_keeps)
    | (with_reducible refine Keeps.foldl ?_ ?_)
    | (with_reducible refine Keeps.foldlFst ?_ ?_)
    | (with_reducible refine Keeps.foldlSnd ?_ ?_)
    | (intro b x hb; try dsimp only [State.takeFree, State.freshId])
    | split

theorem State.endRun_keeps {s a : State} (p : ℕ) (h : Keeps s a) : Keeps s (State.endRun a p) := by
  unfold State.endRun
  all_goals try dsimp only [State.takeFree, State.freshId]
  repeat' first
    | with_reducible assumption
    | (with_reducible apply State.onPart_keeps)
    | (with_reducible refine Keeps.foldl ?_ ?_)
    | (with_reducible refine Keeps.foldlFst ?_ ?_)
    | (with_reducible refine Keeps.foldlSnd ?_ ?_)
    | (intro b x hb; try dsimp only [State.takeFree, State.freshId])
    | split

theorem State.closeStretch_keeps {s a : State} (edge : ℕ) (h : Keeps s a) : Keeps s (State.closeStretch a edge) := by
  unfold State.closeStretch
  all_goals try dsimp only [State.takeFree, State.freshId]
  repeat' first
    | with_reducible assumption
    | (with_reducible apply State.event_keeps)
    | (with_reducible apply State.restretch_keeps)
    | (with_reducible refine Keeps.foldl ?_ ?_)
    | (with_reducible refine Keeps.foldlFst ?_ ?_)
    | (with_reducible refine Keeps.foldlSnd ?_ ?_)
    | (intro b x hb; try dsimp only [State.takeFree, State.freshId])
    | split
    | (apply Keeps.upd)
    | exact fun _ w => w
    | (intro b w; try dsimp only; (repeat' split) <;> first | exact w | (rw [Core.wf_iff] at *; exact w) | (simp only [Port.onLane_store, Port.discard_store, Port.acked_store]; exact w))
    | exact fun w => w
    | exact rfl
    | exact fun w => State.port_wf w
    | (intro w; simp only [Port.onLane_store, Port.discard_store, Port.acked_store]; exact State.port_wf w)

theorem State.closeTick_keeps {s a : State} (edge : ℕ) (h : Keeps s a) : Keeps s (State.closeTick a edge) := by
  unfold State.closeTick
  all_goals try dsimp only [State.takeFree, State.freshId]
  repeat' first
    | with_reducible assumption
    | (with_reducible apply State.closePart_keeps)
    | (with_reducible apply State.closeStretch_keeps)
    | (with_reducible refine Keeps.foldl ?_ ?_)
    | (with_reducible refine Keeps.foldlFst ?_ ?_)
    | (with_reducible refine Keeps.foldlSnd ?_ ?_)
    | (intro b x hb; try dsimp only [State.takeFree, State.freshId])
    | split

theorem State.closeRun_keeps {s a : State} (n : ℕ) (h : Keeps s a) : Keeps s (State.closeRun a n) := by
  unfold State.closeRun
  all_goals try dsimp only [State.takeFree, State.freshId]
  repeat' first
    | with_reducible assumption
    | (with_reducible apply State.event_keeps)
    | (with_reducible apply State.endRun_keeps)
    | (with_reducible refine Keeps.foldl ?_ ?_)
    | (with_reducible refine Keeps.foldlFst ?_ ?_)
    | (with_reducible refine Keeps.foldlSnd ?_ ?_)
    | (intro b x hb; try dsimp only [State.takeFree, State.freshId])
    | split
    | (apply Keeps.upd)
    | exact fun _ w => w
    | (intro b w; try dsimp only; (repeat' split) <;> first | exact w | (rw [Core.wf_iff] at *; exact w) | (simp only [Port.onLane_store, Port.discard_store, Port.acked_store]; exact w))
    | exact fun w => w
    | exact rfl
    | exact fun w => State.port_wf w
    | (intro w; simp only [Port.onLane_store, Port.discard_store, Port.acked_store]; exact State.port_wf w)

theorem State.shedStep_keeps {s a : State} (h : Keeps s a) : Keeps s (State.shedStep a) := by
  unfold State.shedStep
  all_goals try dsimp only [State.takeFree, State.freshId]
  repeat' first
    | with_reducible assumption
    | (with_reducible apply State.signal_keeps)
    | (with_reducible apply State.event_keeps)
    | (with_reducible refine Keeps.foldl ?_ ?_)
    | (with_reducible refine Keeps.foldlFst ?_ ?_)
    | (with_reducible refine Keeps.foldlSnd ?_ ?_)
    | (intro b x hb; try dsimp only [State.takeFree, State.freshId])
    | split
    | (apply Keeps.upd)
    | exact fun _ w => w
    | (intro b w; try dsimp only; (repeat' split) <;> first | exact w | (rw [Core.wf_iff] at *; exact w) | (simp only [Port.onLane_store, Port.discard_store, Port.acked_store]; exact w))
    | exact fun w => w
    | exact rfl
    | exact fun w => State.port_wf w
    | (intro w; simp only [Port.onLane_store, Port.discard_store, Port.acked_store]; exact State.port_wf w)

theorem State.endSwitch_keeps {s a : State} (p : ℕ) (status : ℕ) (h : Keeps s a) : Keeps s (State.endSwitch a p status) := by
  unfold State.endSwitch
  all_goals try dsimp only [State.takeFree, State.freshId]
  repeat' first
    | with_reducible assumption
    | (with_reducible apply State.finish_keeps)
    | (with_reducible apply State.onPart_keeps)
    | (with_reducible refine Keeps.foldl ?_ ?_)
    | (with_reducible refine Keeps.foldlFst ?_ ?_)
    | (with_reducible refine Keeps.foldlSnd ?_ ?_)
    | (intro b x hb; try dsimp only [State.takeFree, State.freshId])
    | split

theorem State.takeRoster_keeps {s a : State} (n : ℕ) (p : ℕ) (id : ℕ) (w : Option Sys2Proof.Machine.Switch) (h : Keeps s a) : Keeps s (State.takeRoster a n p id w) := by
  unfold State.takeRoster
  all_goals try dsimp only [State.takeFree, State.freshId]
  repeat' first
    | with_reducible assumption
    | (with_reducible apply State.finish_keeps)
    | (with_reducible apply State.onPart_keeps)
    | (with_reducible refine Keeps.foldl ?_ ?_)
    | (with_reducible refine Keeps.foldlFst ?_ ?_)
    | (with_reducible refine Keeps.foldlSnd ?_ ?_)
    | (intro b x hb; try dsimp only [State.takeFree, State.freshId])
    | split

theorem State.pickRoster_keeps {s a : State} (p : ℕ) (n : ℕ) (h : Keeps s a) : Keeps s (State.pickRoster a p n) := by
  unfold State.pickRoster
  all_goals try dsimp only [State.takeFree, State.freshId]
  repeat' first
    | with_reducible assumption
    | (with_reducible apply State.endSwitch_keeps)
    | (with_reducible apply State.takeRoster_keeps)
    | (with_reducible refine Keeps.foldl ?_ ?_)
    | (with_reducible refine Keeps.foldlFst ?_ ?_)
    | (with_reducible refine Keeps.foldlSnd ?_ ?_)
    | (intro b x hb; try dsimp only [State.takeFree, State.freshId])
    | split

theorem State.openPart_keeps {s a : State} (n : ℕ) (idle : Bool) (p : ℕ) (h : Keeps s a) : Keeps s (State.openPart a n idle p) := by
  unfold State.openPart
  all_goals try dsimp only [State.takeFree, State.freshId]
  repeat' first
    | with_reducible assumption
    | (with_reducible apply State.pickRoster_keeps)
    | (with_reducible apply State.onPart_keeps)
    | (with_reducible apply State.ingest_keeps)
    | (with_reducible refine Keeps.foldl ?_ ?_)
    | (with_reducible refine Keeps.foldlFst ?_ ?_)
    | (with_reducible refine Keeps.foldlSnd ?_ ?_)
    | (intro b x hb; try dsimp only [State.takeFree, State.freshId])
    | split

theorem State.numberTick_keeps {s a : State} (cause : Sys2Proof.Machine.EdgeCause) (h : Keeps s a) : Keeps s (State.numberTick a cause).2 := by
  unfold State.numberTick
  all_goals try dsimp only [State.takeFree, State.freshId]
  repeat' first
    | with_reducible assumption
    | (with_reducible apply State.event_keeps)
    | (with_reducible refine Keeps.foldl ?_ ?_)
    | (with_reducible refine Keeps.foldlFst ?_ ?_)
    | (with_reducible refine Keeps.foldlSnd ?_ ?_)
    | (intro b x hb; try dsimp only [State.takeFree, State.freshId])
    | split

theorem State.edge_keeps {s a : State} (cause : Sys2Proof.Machine.EdgeCause) (at_ : ℕ) (idle : Bool) (h : Keeps s a) : Keeps s (State.edge a cause at_ idle) := by
  unfold State.edge
  all_goals try dsimp only [State.takeFree, State.freshId]
  repeat' first
    | with_reducible assumption
    | (with_reducible apply State.closeTick_keeps)
    | (with_reducible apply State.shedStep_keeps)
    | (with_reducible apply State.numberTick_keeps)
    | (with_reducible refine Keeps.snd (State.numberTick_keeps (h := ?_) ..) (by with_reducible assumption))
    | (with_reducible apply State.closeRun_keeps)
    | (with_reducible apply State.closeOwn_keeps)
    | (with_reducible apply State.openPart_keeps)
    | (with_reducible refine Keeps.foldl ?_ ?_)
    | (with_reducible refine Keeps.foldlFst ?_ ?_)
    | (with_reducible refine Keeps.foldlSnd ?_ ?_)
    | (intro b x hb; try dsimp only [State.takeFree, State.freshId])
    | split
    | (apply Keeps.upd)
    | exact fun _ w => w
    | (intro b w; try dsimp only; (repeat' split) <;> first | exact w | (rw [Core.wf_iff] at *; exact w) | (simp only [Port.onLane_store, Port.discard_store, Port.acked_store]; exact w))
    | exact fun w => w
    | exact rfl
    | exact fun w => State.port_wf w
    | (intro w; simp only [Port.onLane_store, Port.discard_store, Port.acked_store]; exact State.port_wf w)

theorem State.dueEdge_keeps {s a : State} (h : Keeps s a) : Keeps s (State.dueEdge a) := by
  unfold State.dueEdge
  all_goals try dsimp only [State.takeFree, State.freshId]
  repeat' first
    | with_reducible assumption
    | (with_reducible apply State.edge_keeps)
    | (with_reducible refine Keeps.foldl ?_ ?_)
    | (with_reducible refine Keeps.foldlFst ?_ ?_)
    | (with_reducible refine Keeps.foldlSnd ?_ ?_)
    | (intro b x hb; try dsimp only [State.takeFree, State.freshId])
    | split

theorem State.endFreeze_keeps {s a : State} (p : ℕ) (h : Keeps s a) : Keeps s (State.endFreeze a p) := by
  unfold State.endFreeze
  all_goals try dsimp only [State.takeFree, State.freshId]
  repeat' first
    | with_reducible assumption
    | (with_reducible apply State.consume_keeps)
    | (with_reducible apply State.publish_keeps)
    | (with_reducible apply State.setPart_keeps)
    | (with_reducible apply State.tryOpen_keeps)
    | (with_reducible refine Keeps.foldl ?_ ?_)
    | (with_reducible refine Keeps.foldlFst ?_ ?_)
    | (with_reducible refine Keeps.foldlSnd ?_ ?_)
    | (intro b x hb; try dsimp only [State.takeFree, State.freshId])
    | split

theorem State.endPublish_keeps {s a : State} (horizon : ℕ) (p : ℕ) (h : Keeps s a) : Keeps s (State.endPublish a horizon p) := by
  unfold State.endPublish
  all_goals try dsimp only [State.takeFree, State.freshId]
  repeat' first
    | with_reducible assumption
    | (with_reducible apply State.setPart_keeps)
    | (with_reducible apply State.consume_keeps)
    | (with_reducible apply State.publish_keeps)
    | (with_reducible refine Keeps.foldl ?_ ?_)
    | (with_reducible refine Keeps.foldlFst ?_ ?_)
    | (with_reducible refine Keeps.foldlSnd ?_ ?_)
    | (intro b x hb; try dsimp only [State.takeFree, State.freshId])
    | split

theorem State.loadPrograms_keeps {s a : State} (p : Nat) (r : RosterCfg) (h : Keeps s a) : Keeps s (State.loadPrograms a p r) := by
  unfold State.loadPrograms
  refine Keeps.foldl h (fun b x hb => State.onPort_keeps _ _ hb (fun y w => ?_))
  split
  · exact w
  · exact w

theorem State.loadFixed_keeps {s a : State} (plan : Sys2Proof.Machine.Plan) (sp : ℕ) (head : ℕ) (at_ : ℕ) (len : ℕ) (h : Keeps s a) : Keeps s (State.loadFixed a plan sp head at_ len) := by
  unfold State.loadFixed
  all_goals try dsimp only [State.takeFree, State.freshId]
  repeat' first
    | with_reducible assumption
    | (with_reducible apply State.calFetch_keeps)
    | (with_reducible refine Keeps.snd (State.calFetch_keeps (h := ?_) ..) (by with_reducible assumption))
    | (with_reducible apply State.freeze_keeps)
    | (with_reducible apply State.belfryRead_keeps)
    | (with_reducible refine Keeps.snd (State.belfryRead_keeps (h := ?_) ..) (by with_reducible assumption))
    | (with_reducible refine Keeps.foldl ?_ ?_)
    | (with_reducible refine Keeps.foldlFst ?_ ?_)
    | (with_reducible refine Keeps.foldlSnd ?_ ?_)
    | (intro b x hb; try dsimp only [State.takeFree, State.freshId])
    | split

theorem State.startRoster_keeps {s a : State} (p : ℕ) (r : Sys2Proof.Machine.RosterCfg) (h : Keeps s a) : Keeps s (State.startRoster a p r) := by
  unfold State.startRoster
  all_goals try dsimp only [State.takeFree, State.freshId]
  repeat' first
    | with_reducible assumption
    | (with_reducible apply State.setPart_keeps)
    | (with_reducible apply State.onSpire_keeps)
    | (with_reducible apply State.loadFixed_keeps)
    | (with_reducible apply State.loadPrograms_keeps)
    | (with_reducible apply State.hbmZero_keeps)
    | (with_reducible apply State.meetSoft_keeps)
    | (with_reducible apply State.reload_keeps)
    | (with_reducible apply State.event_keeps)
    | (with_reducible apply State.respond_keeps)
    | (with_reducible apply State.finish_keeps)
    | (with_reducible apply State.tryOpen_keeps)
    | (with_reducible refine Keeps.foldl ?_ ?_)
    | (with_reducible refine Keeps.foldlFst ?_ ?_)
    | (with_reducible refine Keeps.foldlSnd ?_ ?_)
    | (intro b x hb; try dsimp only [State.takeFree, State.freshId])
    | split

end Sys2Proof.Machine
end

