-- ==== Sys2Proof/Laws/KeepsSpan.lean ====
section
/-! SUPPORT. What the operations of these families keep (see Keeps): Span. -/

set_option linter.unusedTactic false
set_option linter.unreachableTactic false
set_option linter.unusedVariables false

namespace Sys2Proof.Machine

@[simp] theorem Port.discard_store (x : Port) : x.discard.store = x.store := by
  unfold Port.discard
  split
  · rfl
  · rfl

@[simp] theorem Port.acked_store (x : Port) (ack now : Nat) : (x.acked ack now).store = x.store := by
  unfold Port.acked
  split
  · rfl
  · rfl

theorem State.degraded_keeps {s a : State} (i : Nat) (old : Nat) (new : Nat) (good : BitVec 6) (h : Keeps s a) : Keeps s (State.degraded a i old new good) := by
  unfold State.degraded
  repeat' first
    | with_reducible assumption
    | (with_reducible apply State.event_keeps)

theorem State.portDown_keeps {s a : State} (i : ℕ) (good : BitVec 6) (h : Keeps s a) : Keeps s (State.portDown a i good) := by
  unfold State.portDown
  all_goals try dsimp only [State.takeFree, State.freshId]
  repeat' first
    | with_reducible assumption
    | (with_reducible apply State.setPort_keeps)
    | (with_reducible apply State.degraded_keeps)
    | (with_reducible apply State.event_keeps)
    | (with_reducible refine Keeps.foldl ?_ ?_)
    | (with_reducible refine Keeps.foldlFst ?_ ?_)
    | (with_reducible refine Keeps.foldlSnd ?_ ?_)
    | (intro b x hb; try dsimp only [State.takeFree, State.freshId])
    | split
    | (apply Keeps.upd)
    | exact fun _ w => w
    | (intro b w; try dsimp only; (repeat' split) <;> first | exact w | (rw [Core.wf_iff] at *; exact w) | (simp only [Port.onLane_store, Port.discard_store, Port.acked_store]; exact w))
    | exact fun w => w
    | exact rfl
    | exact fun w => State.port_wf w
    | (intro w; simp only [Port.onLane_store, Port.discard_store, Port.acked_store]; exact State.port_wf w)

theorem State.retrain_keeps {s a : State} (i : ℕ) (good : BitVec 6) (h : Keeps s a) : Keeps s (State.retrain a i good) := by
  unfold State.retrain
  all_goals try dsimp only [State.takeFree, State.freshId]
  repeat' first
    | with_reducible assumption
    | (with_reducible apply State.setPort_keeps)
    | (with_reducible apply State.portDown_keeps)
    | (with_reducible refine Keeps.foldl ?_ ?_)
    | (with_reducible refine Keeps.foldlFst ?_ ?_)
    | (with_reducible refine Keeps.foldlSnd ?_ ?_)
    | (intro b x hb; try dsimp only [State.takeFree, State.freshId])
    | split
    | (apply Keeps.upd)
    | exact fun _ w => w
    | (intro b w; try dsimp only; (repeat' split) <;> first | exact w | (rw [Core.wf_iff] at *; exact w) | (simp only [Port.onLane_store, Port.discard_store, Port.acked_store]; exact w))
    | exact fun w => w
    | exact rfl
    | exact fun w => State.port_wf w
    | (intro w; simp only [Port.onLane_store, Port.discard_store, Port.acked_store]; exact State.port_wf w)

theorem State.failGroup_keeps {s a : State} (i : ℕ) (group : ℕ) (h : Keeps s a) : Keeps s (State.failGroup a i group) := by
  unfold State.failGroup
  all_goals try dsimp only [State.takeFree, State.freshId]
  repeat' first
    | with_reducible assumption
    | (with_reducible apply State.setPort_keeps)
    | (with_reducible apply State.portDown_keeps)
    | (with_reducible apply State.retrain_keeps)
    | (with_reducible refine Keeps.foldl ?_ ?_)
    | (with_reducible refine Keeps.foldlFst ?_ ?_)
    | (with_reducible refine Keeps.foldlSnd ?_ ?_)
    | (intro b x hb; try dsimp only [State.takeFree, State.freshId])
    | split
    | (apply Keeps.upd)
    | exact fun _ w => w
    | (intro b w; try dsimp only; (repeat' split) <;> first | exact w | (rw [Core.wf_iff] at *; exact w) | (simp only [Port.onLane_store, Port.discard_store, Port.acked_store]; exact w))
    | exact fun w => w
    | exact rfl
    | exact fun w => State.port_wf w
    | (intro w; simp only [Port.onLane_store, Port.discard_store, Port.acked_store]; exact State.port_wf w)

theorem State.mismatch_keeps {s a : State} (i : ℕ) (field : ℕ) (h : Keeps s a) : Keeps s (State.mismatch a i field) := by
  unfold State.mismatch
  all_goals try dsimp only [State.takeFree, State.freshId]
  repeat' first
    | with_reducible assumption
    | (with_reducible apply State.event_keeps)
    | (with_reducible apply State.onPort_keeps)
    | (with_reducible refine Keeps.foldl ?_ ?_)
    | (with_reducible refine Keeps.foldlFst ?_ ?_)
    | (with_reducible refine Keeps.foldlSnd ?_ ?_)
    | (intro b x hb; try dsimp only [State.takeFree, State.freshId])
    | split
    | (apply Keeps.upd)
    | exact fun _ w => w
    | (intro b w; try dsimp only; (repeat' split) <;> first | exact w | (rw [Core.wf_iff] at *; exact w) | (simp only [Port.onLane_store, Port.discard_store, Port.acked_store]; exact w))
    | exact fun w => w
    | exact rfl
    | exact fun w => State.port_wf w
    | (intro w; simp only [Port.onLane_store, Port.discard_store, Port.acked_store]; exact State.port_wf w)

theorem State.tryUp_keeps {s a : State} (i : ℕ) (h : Keeps s a) : Keeps s (State.tryUp a i) := by
  unfold State.tryUp
  all_goals try dsimp only [State.takeFree, State.freshId]
  repeat' first
    | with_reducible assumption
    | (with_reducible apply State.onPort_keeps)
    | (with_reducible refine Keeps.foldl ?_ ?_)
    | (with_reducible refine Keeps.foldlFst ?_ ?_)
    | (with_reducible refine Keeps.foldlSnd ?_ ?_)
    | (intro b x hb; try dsimp only [State.takeFree, State.freshId])
    | split
    | (apply Keeps.upd)
    | exact fun _ w => w
    | (intro b w; try dsimp only; (repeat' split) <;> first | exact w | (rw [Core.wf_iff] at *; exact w) | (simp only [Port.onLane_store, Port.discard_store, Port.acked_store]; exact w))
    | exact fun w => w
    | exact rfl
    | exact fun w => State.port_wf w
    | (intro w; simp only [Port.onLane_store, Port.discard_store, Port.acked_store]; exact State.port_wf w)

theorem State.startReplay_keeps {s a : State} (i : ℕ) (h : Keeps s a) : Keeps s (State.startReplay a i) := by
  unfold State.startReplay
  all_goals try dsimp only [State.takeFree, State.freshId]
  repeat' first
    | with_reducible assumption
    | (with_reducible apply State.retrain_keeps)
    | (with_reducible apply State.setPort_keeps)
    | (with_reducible refine Keeps.foldl ?_ ?_)
    | (with_reducible refine Keeps.foldlFst ?_ ?_)
    | (with_reducible refine Keeps.foldlSnd ?_ ?_)
    | (intro b x hb; try dsimp only [State.takeFree, State.freshId])
    | split
    | (apply Keeps.upd)
    | exact fun _ w => w
    | (intro b w; try dsimp only; (repeat' split) <;> first | exact w | (rw [Core.wf_iff] at *; exact w) | (simp only [Port.onLane_store, Port.discard_store, Port.acked_store]; exact w))
    | exact fun w => w
    | exact rfl
    | exact fun w => State.port_wf w
    | (intro w; simp only [Port.onLane_store, Port.discard_store, Port.acked_store]; exact State.port_wf w)

theorem State.schedDiscard_keeps {s a : State} (i : ℕ) (h : Keeps s a) : Keeps s (State.schedDiscard a i) := by
  unfold State.schedDiscard
  all_goals try dsimp only [State.takeFree, State.freshId]
  repeat' first
    | with_reducible assumption
    | (with_reducible apply State.onPort_keeps)
    | (with_reducible refine Keeps.foldl ?_ ?_)
    | (with_reducible refine Keeps.foldlFst ?_ ?_)
    | (with_reducible refine Keeps.foldlSnd ?_ ?_)
    | (intro b x hb; try dsimp only [State.takeFree, State.freshId])
    | split
    | (apply Keeps.upd)
    | exact fun _ w => w
    | (intro b w; try dsimp only; (repeat' split) <;> first | exact w | (rw [Core.wf_iff] at *; exact w) | (simp only [Port.onLane_store, Port.discard_store, Port.acked_store]; exact w))
    | exact fun w => w
    | exact rfl
    | exact fun w => State.port_wf w
    | (intro w; simp only [Port.onLane_store, Port.discard_store, Port.acked_store]; exact State.port_wf w)

theorem State.takeSched_keeps {s a : State} (i : ℕ) (f : Sys2Proof.FlitRec) (h : Keeps s a) : Keeps s (State.takeSched a i f) := by
  unfold State.takeSched
  all_goals try dsimp only [State.takeFree, State.freshId]
  repeat' first
    | with_reducible assumption
    | (with_reducible apply State.event_keeps)
    | (with_reducible apply State.schedDiscard_keeps)
    | (with_reducible apply State.slotWrite_keeps)
    | (with_reducible apply State.onPort_keeps)
    | (with_reducible apply State.freezeSlots_keeps)
    | (with_reducible refine Keeps.foldl ?_ ?_)
    | (with_reducible refine Keeps.foldlFst ?_ ?_)
    | (with_reducible refine Keeps.foldlSnd ?_ ?_)
    | (intro b x hb; try dsimp only [State.takeFree, State.freshId])
    | split
    | (apply Keeps.upd)
    | exact fun _ w => w
    | (intro b w; try dsimp only; (repeat' split) <;> first | exact w | (rw [Core.wf_iff] at *; exact w) | (simp only [Port.onLane_store, Port.discard_store, Port.acked_store]; exact w))
    | exact fun w => w
    | exact rfl
    | exact fun w => State.port_wf w
    | (intro w; simp only [Port.onLane_store, Port.discard_store, Port.acked_store]; exact State.port_wf w)

theorem State.sendAck_keeps {s a : State} (dst : ℕ) (part : ℕ) (msgId : ℕ) (status : ℕ) (h : Keeps s a) : Keeps s (State.sendAck a dst part msgId status) := by
  unfold State.sendAck
  all_goals try dsimp only [State.takeFree, State.freshId]
  repeat' first
    | with_reducible assumption
    | (with_reducible apply State.sendBulk_keeps)
    | (with_reducible refine Keeps.foldl ?_ ?_)
    | (with_reducible refine Keeps.foldlFst ?_ ?_)
    | (with_reducible refine Keeps.foldlSnd ?_ ?_)
    | (intro b x hb; try dsimp only [State.takeFree, State.freshId])
    | split

theorem State.takeWrite_keeps {s a : State} (i : ℕ) (src : ℕ) (part : ℕ) (msgId : ℕ) (w : ℕ) (off : ℕ) (raw : Option (List Sys2Proof.Byte)) (h : Keeps s a) : Keeps s (State.takeWrite a i src part msgId w off raw) := by
  unfold State.takeWrite
  all_goals try dsimp only [State.takeFree, State.freshId]
  repeat' first
    | with_reducible assumption
    | (with_reducible apply State.sendAck_keeps)
    | (with_reducible apply State.onPort_keeps)
    | (with_reducible apply State.countUe_keeps)
    | (with_reducible apply State.hbmWrite_keeps)
    | (with_reducible apply State.meetSoft_keeps)
    | (with_reducible refine Keeps.foldl ?_ ?_)
    | (with_reducible refine Keeps.foldlFst ?_ ?_)
    | (with_reducible refine Keeps.foldlSnd ?_ ?_)
    | (intro b x hb; try dsimp only [State.takeFree, State.freshId])
    | split
    | (apply Keeps.upd)
    | exact fun _ w => w
    | (intro b w; try dsimp only; (repeat' split) <;> first | exact w | (rw [Core.wf_iff] at *; exact w) | (simp only [Port.onLane_store, Port.discard_store, Port.acked_store]; exact w))
    | exact fun w => w
    | exact rfl
    | exact fun w => State.port_wf w
    | (intro w; simp only [Port.onLane_store, Port.discard_store, Port.acked_store]; exact State.port_wf w)

theorem State.takeSignal_keeps {s a : State} (src : ℕ) (part : ℕ) (msgId : ℕ) (sp : ℕ) (q : ℕ) (h6 : Sys2Proof.W32) (h : Keeps s a) : Keeps s (State.takeSignal a src part msgId sp q h6) := by
  unfold State.takeSignal
  all_goals try dsimp only [State.takeFree, State.freshId]
  repeat' first
    | with_reducible assumption
    | (with_reducible apply State.sendAck_keeps)
    | (with_reducible apply State.sendPush_keeps)
    | (with_reducible refine Keeps.snd (State.sendPush_keeps (h := ?_) ..) (by with_reducible assumption))
    | (with_reducible refine Keeps.foldl ?_ ?_)
    | (with_reducible refine Keeps.foldlFst ?_ ?_)
    | (with_reducible refine Keeps.foldlSnd ?_ ?_)
    | (intro b x hb; try dsimp only [State.takeFree, State.freshId])
    | split

theorem State.takeAck_keeps {s a : State} (src : ℕ) (part : ℕ) (msgId : ℕ) (status : ℕ) (h : Keeps s a) : Keeps s (State.takeAck a src part msgId status) := by
  unfold State.takeAck
  all_goals try dsimp only [State.takeFree, State.freshId]
  repeat' first
    | with_reducible assumption
    | (with_reducible apply State.onPort_keeps)
    | (with_reducible apply State.freeze_keeps)
    | (with_reducible apply State.onSpire_keeps)
    | (with_reducible apply State.sendSignal_keeps)
    | (with_reducible refine Keeps.foldl ?_ ?_)
    | (with_reducible refine Keeps.foldlFst ?_ ?_)
    | (with_reducible refine Keeps.foldlSnd ?_ ?_)
    | (intro b x hb; try dsimp only [State.takeFree, State.freshId])
    | split
    | (apply Keeps.upd)
    | exact fun _ w => w
    | (intro b w; try dsimp only; (repeat' split) <;> first | exact w | (rw [Core.wf_iff] at *; exact w) | (simp only [Port.onLane_store, Port.discard_store, Port.acked_store]; exact w))
    | exact fun w => w
    | exact rfl
    | exact fun w => State.port_wf w
    | (intro w; simp only [Port.onLane_store, Port.discard_store, Port.acked_store]; exact State.port_wf w)

theorem State.owe_keeps {s a : State} (i : ℕ) (ch : ℕ) (n : ℕ) (h : Keeps s a) : Keeps s (State.owe a i ch n) := by
  unfold State.owe
  all_goals try dsimp only [State.takeFree, State.freshId]
  repeat' first
    | with_reducible assumption
    | (with_reducible apply State.onPort_keeps)
    | (with_reducible refine Keeps.foldl ?_ ?_)
    | (with_reducible refine Keeps.foldlFst ?_ ?_)
    | (with_reducible refine Keeps.foldlSnd ?_ ?_)
    | (intro b x hb; try dsimp only [State.takeFree, State.freshId])
    | split
    | (apply Keeps.upd)
    | exact fun _ w => w
    | (intro b w; try dsimp only; (repeat' split) <;> first | exact w | (rw [Core.wf_iff] at *; exact w) | (simp only [Port.onLane_store, Port.discard_store, Port.acked_store]; exact w))
    | exact fun w => w
    | exact rfl
    | exact fun w => State.port_wf w
    | (intro w; simp only [Port.onLane_store, Port.discard_store, Port.acked_store]; exact State.port_wf w)

theorem State.takeMessage_keeps {s a : State} (i : ℕ) (ch : ℕ) (bs : List Sys2Proof.Byte) (h : Keeps s a) : Keeps s (State.takeMessage a i ch bs) := by
  unfold State.takeMessage
  all_goals try dsimp only [State.takeFree, State.freshId]
  repeat' first
    | with_reducible assumption
    | (with_reducible apply State.sendBulk_keeps)
    | (with_reducible apply State.takeWrite_keeps)
    | (with_reducible apply State.takeAck_keeps)
    | (with_reducible apply State.takeSignal_keeps)
    | (with_reducible refine Keeps.foldl ?_ ?_)
    | (with_reducible refine Keeps.foldlFst ?_ ?_)
    | (with_reducible refine Keeps.foldlSnd ?_ ?_)
    | (intro b x hb; try dsimp only [State.takeFree, State.freshId])
    | split

theorem State.takeBulk_keeps {s a : State} (i : ℕ) (ch : ℕ) (f : Sys2Proof.FlitRec) (h : Keeps s a) : Keeps s (State.takeBulk a i ch f) := by
  unfold State.takeBulk
  all_goals try dsimp only [State.takeFree, State.freshId]
  repeat' first
    | with_reducible assumption
    | (with_reducible apply State.setPort_keeps)
    | (with_reducible apply State.owe_keeps)
    | (with_reducible apply State.takeMessage_keeps)
    | (with_reducible refine Keeps.foldl ?_ ?_)
    | (with_reducible refine Keeps.foldlFst ?_ ?_)
    | (with_reducible refine Keeps.foldlSnd ?_ ?_)
    | (intro b x hb; try dsimp only [State.takeFree, State.freshId])
    | split
    | (apply Keeps.upd)
    | exact fun _ w => w
    | (intro b w; try dsimp only; (repeat' split) <;> first | exact w | (rw [Core.wf_iff] at *; exact w) | (simp only [Port.onLane_store, Port.discard_store, Port.acked_store]; exact w))
    | exact fun w => w
    | exact rfl
    | exact fun w => State.port_wf w
    | (intro w; simp only [Port.onLane_store, Port.discard_store, Port.acked_store]; exact State.port_wf w)

theorem State.dropFlit_keeps {s a : State} (i : ℕ) (f : Sys2Proof.FlitRec) (h : Keeps s a) : Keeps s (State.dropFlit a i f) := by
  unfold State.dropFlit
  all_goals try dsimp only [State.takeFree, State.freshId]
  repeat' first
    | with_reducible assumption
    | (with_reducible apply State.schedDiscard_keeps)
    | (with_reducible refine Keeps.foldl ?_ ?_)
    | (with_reducible refine Keeps.foldlFst ?_ ?_)
    | (with_reducible refine Keeps.foldlSnd ?_ ?_)
    | (intro b x hb; try dsimp only [State.takeFree, State.freshId])
    | split

theorem State.acceptFlit_keeps {s a : State} (i : ℕ) (f : Sys2Proof.FlitRec) (h : Keeps s a) : Keeps s (State.acceptFlit a i f) := by
  unfold State.acceptFlit
  all_goals try dsimp only [State.takeFree, State.freshId]
  repeat' first
    | with_reducible assumption
    | (with_reducible apply State.dropFlit_keeps)
    | (with_reducible apply State.setPort_keeps)
    | (with_reducible apply State.takeSched_keeps)
    | (with_reducible apply State.takeBulk_keeps)
    | (with_reducible refine Keeps.foldl ?_ ?_)
    | (with_reducible refine Keeps.foldlFst ?_ ?_)
    | (with_reducible refine Keeps.foldlSnd ?_ ?_)
    | (intro b x hb; try dsimp only [State.takeFree, State.freshId])
    | split
    | (apply Keeps.upd)
    | exact fun _ w => w
    | (intro b w; try dsimp only; (repeat' split) <;> first | exact w | (rw [Core.wf_iff] at *; exact w) | (simp only [Port.onLane_store, Port.discard_store, Port.acked_store]; exact w))
    | exact fun w => w
    | exact rfl
    | exact fun w => State.port_wf w
    | (intro w; simp only [Port.onLane_store, Port.discard_store, Port.acked_store]; exact State.port_wf w)

theorem State.takeFlit_keeps {s a : State} (i : Nat) (f : FlitRec) (h : Keeps s a) : Keeps s (State.takeFlit a i f) := by
  unfold State.takeFlit
  dsimp only
  have k : ∀ y : Port, y.store = (a.port i).store → Keeps s (a.setPort i y) := fun y hy =>
    State.setPort_keeps _ _ h (fun w => by rw [hy]; exact State.port_wf w)
  split
  · exact State.dropFlit_keeps _ _ h
  · split
    · exact k _ (Port.discard_store _)
    · split
      · refine State.dropFlit_keeps _ _ (k _ ?_)
        split
        · exact Port.discard_store _
        · rfl
      · refine State.acceptFlit_keeps _ _ ?_
        split
        · exact State.startReplay_keeps _ (k _ (Port.acked_store _ _ _))
        · exact k _ (Port.acked_store _ _ _)

theorem State.sendFlit_keeps {s a : State} (i : ℕ) (f : Sys2Proof.FlitRec) (h : Keeps s a) : Keeps s (State.sendFlit a i f) := by
  unfold State.sendFlit
  all_goals try dsimp only [State.takeFree, State.freshId]
  repeat' first
    | with_reducible assumption
    | (with_reducible apply State.onPort_keeps)
    | (with_reducible refine Keeps.foldl ?_ ?_)
    | (with_reducible refine Keeps.foldlFst ?_ ?_)
    | (with_reducible refine Keeps.foldlSnd ?_ ?_)
    | (intro b x hb; try dsimp only [State.takeFree, State.freshId])
    | split
    | (apply Keeps.upd)
    | exact fun _ w => w
    | (intro b w; try dsimp only; (repeat' split) <;> first | exact w | (rw [Core.wf_iff] at *; exact w) | (simp only [Port.onLane_store, Port.discard_store, Port.acked_store]; exact w))
    | exact fun w => w
    | exact rfl
    | exact fun w => State.port_wf w
    | (intro w; simp only [Port.onLane_store, Port.discard_store, Port.acked_store]; exact State.port_wf w)

theorem State.sendSequenced_keeps {s a : State} (i : ℕ) (fields : ℕ) (body : List Sys2Proof.Byte) (h : Keeps s a) : Keeps s (State.sendSequenced a i fields body) := by
  unfold State.sendSequenced
  all_goals try dsimp only [State.takeFree, State.freshId]
  repeat' first
    | with_reducible assumption
    | (with_reducible apply State.sendFlit_keeps)
    | (with_reducible apply State.setPort_keeps)
    | (with_reducible refine Keeps.foldl ?_ ?_)
    | (with_reducible refine Keeps.foldlFst ?_ ?_)
    | (with_reducible refine Keeps.foldlSnd ?_ ?_)
    | (intro b x hb; try dsimp only [State.takeFree, State.freshId])
    | split
    | (apply Keeps.upd)
    | exact fun _ w => w
    | (intro b w; try dsimp only; (repeat' split) <;> first | exact w | (rw [Core.wf_iff] at *; exact w) | (simp only [Port.onLane_store, Port.discard_store, Port.acked_store]; exact w))
    | exact fun w => w
    | exact rfl
    | exact fun w => State.port_wf w
    | (intro w; simp only [Port.onLane_store, Port.discard_store, Port.acked_store]; exact State.port_wf w)

theorem State.sendReplay_keeps {s a : State} (i : ℕ) (h : Keeps s a) : Keeps s (State.sendReplay a i) := by
  unfold State.sendReplay
  all_goals try dsimp only [State.takeFree, State.freshId]
  repeat' first
    | with_reducible assumption
    | (with_reducible apply State.sendFlit_keeps)
    | (with_reducible apply State.setPort_keeps)
    | (with_reducible refine Keeps.foldl ?_ ?_)
    | (with_reducible refine Keeps.foldlFst ?_ ?_)
    | (with_reducible refine Keeps.foldlSnd ?_ ?_)
    | (intro b x hb; try dsimp only [State.takeFree, State.freshId])
    | split
    | (apply Keeps.upd)
    | exact fun _ w => w
    | (intro b w; try dsimp only; (repeat' split) <;> first | exact w | (rw [Core.wf_iff] at *; exact w) | (simp only [Port.onLane_store, Port.discard_store, Port.acked_store]; exact w))
    | exact fun w => w
    | exact rfl
    | exact fun w => State.port_wf w
    | (intro w; simp only [Port.onLane_store, Port.discard_store, Port.acked_store]; exact State.port_wf w)

theorem State.sendControl_keeps {s a : State} (i : ℕ) (h : Keeps s a) : Keeps s (State.sendControl a i) := by
  unfold State.sendControl
  all_goals try dsimp only [State.takeFree, State.freshId]
  repeat' first
    | with_reducible assumption
    | (with_reducible apply State.sendFlit_keeps)
    | (with_reducible apply State.setPort_keeps)
    | (with_reducible refine Keeps.foldl ?_ ?_)
    | (with_reducible refine Keeps.foldlFst ?_ ?_)
    | (with_reducible refine Keeps.foldlSnd ?_ ?_)
    | (intro b x hb; try dsimp only [State.takeFree, State.freshId])
    | split
    | (apply Keeps.upd)
    | exact fun _ w => w
    | (intro b w; try dsimp only; (repeat' split) <;> first | exact w | (rw [Core.wf_iff] at *; exact w) | (simp only [Port.onLane_store, Port.discard_store, Port.acked_store]; exact w))
    | exact fun w => w
    | exact rfl
    | exact fun w => State.port_wf w
    | (intro w; simp only [Port.onLane_store, Port.discard_store, Port.acked_store]; exact State.port_wf w)

theorem State.sendEntry_keeps {s a : State} (i : ℕ) (p : ℕ) (e3 : Sys2Proof.Machine.TxEntry) (grow : ℕ) (h : Keeps s a) : Keeps s (State.sendEntry a i p e3 grow) := by
  unfold State.sendEntry
  all_goals try dsimp only [State.takeFree, State.freshId]
  repeat' first
    | with_reducible assumption
    | (with_reducible apply State.onPort_keeps)
    | (with_reducible apply State.sendSequenced_keeps)
    | (with_reducible apply State.event_keeps)
    | (with_reducible refine Keeps.foldl ?_ ?_)
    | (with_reducible refine Keeps.foldlFst ?_ ?_)
    | (with_reducible refine Keeps.foldlSnd ?_ ?_)
    | (intro b x hb; try dsimp only [State.takeFree, State.freshId])
    | split
    | (apply Keeps.upd)
    | exact fun _ w => w
    | (intro b w; try dsimp only; (repeat' split) <;> first | exact w | (rw [Core.wf_iff] at *; exact w) | (simp only [Port.onLane_store, Port.discard_store, Port.acked_store]; exact w))
    | exact fun w => w
    | exact rfl
    | exact fun w => State.port_wf w
    | (intro w; simp only [Port.onLane_store, Port.discard_store, Port.acked_store]; exact State.port_wf w)

theorem State.nextMessage_store {a : State} {i vc : Nat} {m : BulkOut} {x : Port} (e : a.nextMessage i vc = some (m, x)) :
    x.store = (a.port i).store := by
  unfold State.nextMessage at e
  dsimp only at e
  split at e
  · cases e
    rfl
  · split at e
    · cases e
    · split at e
      · cases e
      · cases e
        rfl

theorem State.sendBulkFlit_keeps {s a t : State} (i : Nat) (vc : Nat) (h : Keeps s a) (e : State.sendBulkFlit a i vc = some t) : Keeps s t := by
  unfold State.sendBulkFlit at e
  dsimp only at e
  split at e
  · cases e
  · rename_i m x hx
    split at e
    · cases e
    · split at e
      · cases e
      · injection e with e
        subst e
        have k : ∀ y : Port, y.store = x.store → Keeps s (a.setPort i y) := fun y hy =>
          State.setPort_keeps _ _ h (fun w => by rw [hy, State.nextMessage_store hx]; exact State.port_wf w)
        split
        · exact State.owe_keeps _ _ _ (State.sendSequenced_keeps _ _ _ (k _ rfl))
        · exact State.sendSequenced_keeps _ _ _ (k _ rfl)

end Sys2Proof.Machine
end

