-- ==== Sys2Proof/Laws/KeepsStore.lean ====
section
/-! SUPPORT. What the operations of these families keep (see Keeps): NandRec, NandMap, NandLog, Store, Logs, Power. -/

set_option linter.unusedTactic false
set_option linter.unreachableTactic false
set_option linter.unusedVariables false

namespace Sys2Proof.Machine

theorem State.refreshObjects_keeps {s a : State} (h : Keeps s a) : Keeps s (State.refreshObjects a) := by
  unfold State.refreshObjects
  all_goals try dsimp only [State.takeFree, State.freshId]
  repeat' first
    | with_reducible assumption
    | (with_reducible apply State.setObj_keeps)
    | (with_reducible refine Keeps.foldl ?_ ?_)
    | (with_reducible refine Keeps.foldlFst ?_ ?_)
    | (with_reducible refine Keeps.foldlSnd ?_ ?_)
    | (intro b x hb; try dsimp only [State.takeFree, State.freshId])
    | split

theorem State.noteRestage_keeps {s a : State} (h : Keeps s a) : Keeps s (State.noteRestage a) := by
  unfold State.noteRestage
  all_goals try dsimp only [State.takeFree, State.freshId]
  repeat' first
    | with_reducible assumption
    | (with_reducible apply State.setPart_keeps)
    | (with_reducible refine Keeps.foldl ?_ ?_)
    | (with_reducible refine Keeps.foldlFst ?_ ?_)
    | (with_reducible refine Keeps.foldlSnd ?_ ?_)
    | (intro b x hb; try dsimp only [State.takeFree, State.freshId])
    | split

theorem State.logWear_keeps {s a : State} (h : Keeps s a) : Keeps s (State.logWear a) := by
  unfold State.logWear
  all_goals try dsimp only [State.takeFree, State.freshId]
  repeat' first
    | with_reducible assumption
    | (with_reducible apply State.event_keeps)
    | (with_reducible apply State.onStore_keeps)
    | (with_reducible refine Keeps.foldl ?_ ?_)
    | (with_reducible refine Keeps.foldlFst ?_ ?_)
    | (with_reducible refine Keeps.foldlSnd ?_ ?_)
    | (intro b x hb; try dsimp only [State.takeFree, State.freshId])
    | split

theorem State.restage_keeps {s a : State} (h : Keeps s a) : Keeps s (State.restage a) := by
  unfold State.restage
  all_goals try dsimp only [State.takeFree, State.freshId]
  repeat' first
    | with_reducible assumption
    | (with_reducible apply State.onStore_keeps)
    | (with_reducible apply State.setObj_keeps)
    | (with_reducible refine Keeps.foldl ?_ ?_)
    | (with_reducible refine Keeps.foldlFst ?_ ?_)
    | (with_reducible refine Keeps.foldlSnd ?_ ?_)
    | (intro b x hb; try dsimp only [State.takeFree, State.freshId])
    | split

theorem State.failReplica_keeps {s a : State} (x : Sys2Proof.Machine.Replica) (h : Keeps s a) : Keeps s (State.failReplica a x) := by
  unfold State.failReplica
  all_goals try dsimp only [State.takeFree, State.freshId]
  repeat' first
    | with_reducible assumption
    | (with_reducible apply State.noteRestage_keeps)
    | (with_reducible apply State.restage_keeps)
    | (with_reducible apply State.refreshObjects_keeps)
    | (with_reducible apply State.onStore_keeps)
    | (with_reducible refine Keeps.foldl ?_ ?_)
    | (with_reducible refine Keeps.foldlFst ?_ ?_)
    | (with_reducible refine Keeps.foldlSnd ?_ ?_)
    | (intro b x hb; try dsimp only [State.takeFree, State.freshId])
    | split

theorem State.checkWorn_keeps {s a : State} (k : ℕ) (h : Keeps s a) : Keeps s (State.checkWorn a k) := by
  unfold State.checkWorn
  all_goals try dsimp only [State.takeFree, State.freshId]
  repeat' first
    | with_reducible assumption
    | (with_reducible apply State.event_keeps)
    | (with_reducible apply State.onStore_keeps)
    | (with_reducible refine Keeps.foldl ?_ ?_)
    | (with_reducible refine Keeps.foldlFst ?_ ?_)
    | (with_reducible refine Keeps.foldlSnd ?_ ?_)
    | (intro b x hb; try dsimp only [State.takeFree, State.freshId])
    | split

theorem State.retireBlock_keeps {s a : State} (b : ℕ) (byStatus : Bool) (h : Keeps s a) : Keeps s (State.retireBlock a b byStatus) := by
  unfold State.retireBlock
  all_goals try dsimp only [State.takeFree, State.freshId]
  repeat' first
    | with_reducible assumption
    | (with_reducible apply State.checkWorn_keeps)
    | (with_reducible apply State.event_keeps)
    | (with_reducible apply State.onStore_keeps)
    | (with_reducible refine Keeps.foldl ?_ ?_)
    | (with_reducible refine Keeps.foldlFst ?_ ?_)
    | (with_reducible refine Keeps.foldlSnd ?_ ?_)
    | (intro b x hb; try dsimp only [State.takeFree, State.freshId])
    | split

theorem State.noteWear_keeps {s a : State} (h : Keeps s a) : Keeps s (State.noteWear a) := by
  unfold State.noteWear
  all_goals try dsimp only [State.takeFree, State.freshId]
  repeat' first
    | with_reducible assumption
    | (with_reducible apply State.logWear_keeps)
    | (with_reducible apply State.retireBlock_keeps)
    | (with_reducible refine Keeps.foldl ?_ ?_)
    | (with_reducible refine Keeps.foldlFst ?_ ?_)
    | (with_reducible refine Keeps.foldlSnd ?_ ?_)
    | (intro b x hb; try dsimp only [State.takeFree, State.freshId])
    | split

theorem State.endImport_keeps {s a : State} (q : Sys2Proof.Machine.ImportRun) (reason : ℕ) (h : Keeps s a) : Keeps s (State.endImport a q reason) := by
  unfold State.endImport
  all_goals try dsimp only [State.takeFree, State.freshId]
  repeat' first
    | with_reducible assumption
    | (with_reducible apply State.finish_keeps)
    | (with_reducible apply State.onStore_keeps)
    | (with_reducible refine Keeps.foldl ?_ ?_)
    | (with_reducible refine Keeps.foldlFst ?_ ?_)
    | (with_reducible refine Keeps.foldlSnd ?_ ?_)
    | (intro b x hb; try dsimp only [State.takeFree, State.freshId])
    | split

theorem State.importUnits_keeps {s a : State} (q : Sys2Proof.Machine.ImportRun) (r : Nat) (h : Keeps s a) : Keeps s (State.importUnits a q r) := by
  unfold State.importUnits
  all_goals try dsimp only [State.takeFree, State.freshId]
  repeat' first
    | with_reducible assumption
    | (with_reducible apply State.endImport_keeps)
    | (with_reducible refine Keeps.foldl ?_ ?_)
    | (with_reducible refine Keeps.foldlFst ?_ ?_)
    | (with_reducible refine Keeps.foldlSnd ?_ ?_)
    | (intro b x hb; try dsimp only [State.takeFree, State.freshId])
    | split
    | (apply Keeps.upd)
    | exact fun _ w => w
    | (intro b w; try dsimp only; (repeat' split) <;> first | exact w | (rw [Core.wf_iff] at *; exact w) | (simp only [Port.onLane_store, Port.discard_store, Port.acked_store]; exact w))
    | exact fun w => w
    | exact rfl
    | exact fun w => State.port_wf w
    | (intro w; simp only [Port.onLane_store, Port.discard_store, Port.acked_store]; exact State.port_wf w)

theorem State.advanceImports_keeps {s a : State} (n : Nat) (h : Keeps s a) : Keeps s (State.advanceImports n a) := by
  induction n generalizing a with
  | zero => exact h
  | succ n ih =>
    unfold State.advanceImports
    repeat' split
    · exact h
    · exact h
    · exact ih (State.endImport_keeps _ _ h)
    · exact ih (State.importUnits_keeps _ _ h)
    · exact ih (State.onStore_keeps _ h)
    · exact ih (State.refreshObjects_keeps (State.onStore_keeps _ h))
    · exact ih (State.importUnits_keeps _ _ h)
    · exact ih (State.endImport_keeps _ _ h)

theorem State.runImports_keeps {s a : State} (h : Keeps s a) : Keeps s a.runImports := by
  unfold State.runImports
  split
  · exact State.noteWear_keeps (State.advanceImports_keeps _ h)
  · exact h

theorem State.rescueImports_keeps {s a : State} (b : ℕ) (h : Keeps s a) : Keeps s (State.rescueImports a b) := by
  unfold State.rescueImports
  all_goals try dsimp only [State.takeFree, State.freshId]
  repeat' first
    | with_reducible assumption
    | (with_reducible apply State.endImport_keeps)
    | (with_reducible refine Keeps.foldl ?_ ?_)
    | (with_reducible refine Keeps.foldlFst ?_ ?_)
    | (with_reducible refine Keeps.foldlSnd ?_ ?_)
    | (intro b x hb; try dsimp only [State.takeFree, State.freshId])
    | split
    | (apply Keeps.upd)
    | exact fun _ w => w
    | (intro b w; try dsimp only; (repeat' split) <;> first | exact w | (rw [Core.wf_iff] at *; exact w) | (simp only [Port.onLane_store, Port.discard_store, Port.acked_store]; exact w))
    | exact fun w => w
    | exact rfl
    | exact fun w => State.port_wf w
    | (intro w; simp only [Port.onLane_store, Port.discard_store, Port.acked_store]; exact State.port_wf w)

theorem State.giveUpBlock_keeps {s a : State} (b : ℕ) (byStatus : Bool) (h : Keeps s a) : Keeps s (State.giveUpBlock a b byStatus) := by
  unfold State.giveUpBlock
  all_goals try dsimp only [State.takeFree, State.freshId]
  repeat' first
    | with_reducible assumption
    | (with_reducible apply State.onStore_keeps)
    | (with_reducible apply State.rescueImports_keeps)
    | (with_reducible apply State.noteRestage_keeps)
    | (with_reducible apply State.restage_keeps)
    | (with_reducible apply State.refreshObjects_keeps)
    | (with_reducible apply State.retireBlock_keeps)
    | (with_reducible refine Keeps.foldl ?_ ?_)
    | (with_reducible refine Keeps.foldlFst ?_ ?_)
    | (with_reducible refine Keeps.foldlSnd ?_ ?_)
    | (intro b x hb; try dsimp only [State.takeFree, State.freshId])
    | split

theorem State.retireObject_keeps {s a : State} (ns objId : Nat) (h : Keeps s a) : Keeps s (State.retireObject a ns objId).2 := by
  unfold State.retireObject
  split
  · exact h
  · exact State.noteWear_keeps (State.onStore_keeps _ h)

theorem State.endStaging_keeps {s a : State} (i : ℕ) (x : Sys2Proof.Machine.ObjSt) (h : Keeps s a) : Keeps s (State.endStaging a i x) := by
  unfold State.endStaging
  all_goals try dsimp only [State.takeFree, State.freshId]
  repeat' first
    | with_reducible assumption
    | (with_reducible apply State.noteRestage_keeps)
    | (with_reducible apply State.setObj_keeps)
    | (with_reducible apply State.onStore_keeps)
    | (with_reducible refine Keeps.foldl ?_ ?_)
    | (with_reducible refine Keeps.foldlFst ?_ ?_)
    | (with_reducible refine Keeps.foldlSnd ?_ ?_)
    | (intro b x hb; try dsimp only [State.takeFree, State.freshId])
    | split

theorem State.stageBytes_keeps {s a : State} (i : ℕ) (o : Sys2Proof.Machine.ObjCfg) (x : Sys2Proof.Machine.Replica) (plain : List Sys2Proof.Byte) (bad : Option ℕ) (h : Keeps s a) : Keeps s (State.stageBytes a i o x plain bad) := by
  unfold State.stageBytes
  all_goals try dsimp only [State.takeFree, State.freshId]
  repeat' first
    | with_reducible assumption
    | (with_reducible apply State.noteWear_keeps)
    | (with_reducible apply State.ownWrite_keeps)
    | (with_reducible apply State.failReplica_keeps)
    | (with_reducible apply State.endStaging_keeps)
    | (with_reducible apply State.hbmSpoil_keeps)
    | (with_reducible apply State.countUe_keeps)
    | (with_reducible apply State.setObj_keeps)
    | (with_reducible apply State.event_keeps)
    | (with_reducible refine Keeps.foldl ?_ ?_)
    | (with_reducible refine Keeps.foldlFst ?_ ?_)
    | (with_reducible refine Keeps.foldlSnd ?_ ?_)
    | (intro b x hb; try dsimp only [State.takeFree, State.freshId])
    | split

theorem State.failCodeword_keeps {s a : State} (a1 : ℕ) (h : Keeps s a) : Keeps s (State.failCodeword a a1) := by
  unfold State.failCodeword
  all_goals try dsimp only [State.takeFree, State.freshId]
  repeat' first
    | with_reducible assumption
    | (with_reducible apply State.failReplica_keeps)
    | (with_reducible apply State.noteRestage_keeps)
    | (with_reducible apply State.restage_keeps)
    | (with_reducible apply State.refreshObjects_keeps)
    | (with_reducible apply State.onStore_keeps)
    | (with_reducible refine Keeps.foldl ?_ ?_)
    | (with_reducible refine Keeps.foldlFst ?_ ?_)
    | (with_reducible refine Keeps.foldlSnd ?_ ?_)
    | (intro b x hb; try dsimp only [State.takeFree, State.freshId])
    | split

theorem State.lostCodewords_keeps {s a : State} (l : List Nat) (h : Keeps s a) : Keeps s (State.lostCodewords a l) := by
  unfold State.lostCodewords
  exact Keeps.foldl (Keeps.foldl h (fun _ _ hb => State.failCodeword_keeps _ hb)) (fun _ _ hb => State.giveUpBlock_keeps _ _ hb)

theorem State.timedOut_keeps {s a : State} (k : ℕ) (op : Sys2Proof.NandOp) (h : Keeps s a) : Keeps s (State.timedOut a k op) := by
  unfold State.timedOut
  all_goals try dsimp only [State.takeFree, State.freshId]
  repeat' first
    | with_reducible assumption
    | (with_reducible apply State.lostCodewords_keeps)
    | (with_reducible apply State.onStore_keeps)
    | (with_reducible apply State.giveUpBlock_keeps)
    | (with_reducible refine Keeps.foldl ?_ ?_)
    | (with_reducible refine Keeps.foldlFst ?_ ?_)
    | (with_reducible refine Keeps.foldlSnd ?_ ?_)
    | (intro b x hb; try dsimp only [State.takeFree, State.freshId])
    | split

theorem State.flushLog_keeps {s a : State} (h : Keeps s a) : Keeps s (State.flushLog a) := by
  unfold State.flushLog
  all_goals try dsimp only [State.takeFree, State.freshId]
  repeat' first
    | with_reducible assumption
    | (with_reducible apply State.event_keeps)
    | (with_reducible apply State.noteWear_keeps)
    | (with_reducible apply State.onStore_keeps)
    | (with_reducible refine Keeps.foldl ?_ ?_)
    | (with_reducible refine Keeps.foldlFst ?_ ?_)
    | (with_reducible refine Keeps.foldlSnd ?_ ?_)
    | (intro b x hb; try dsimp only [State.takeFree, State.freshId])
    | split
    | (apply Keeps.upd)
    | exact fun _ w => w
    | (intro b w; try dsimp only; (repeat' split) <;> first | exact w | (rw [Core.wf_iff] at *; exact w) | (simp only [Port.onLane_store, Port.discard_store, Port.acked_store]; exact w))
    | exact fun w => w
    | exact rfl
    | exact fun w => State.port_wf w
    | (intro w; simp only [Port.onLane_store, Port.discard_store, Port.acked_store]; exact State.port_wf w)

theorem State.clearLog_keeps {s a : State} (h : Keeps s a) : Keeps s (State.clearLog a) := by
  unfold State.clearLog
  all_goals try dsimp only [State.takeFree, State.freshId]
  repeat' first
    | with_reducible assumption
    | (with_reducible refine Keeps.foldl ?_ ?_)
    | (with_reducible refine Keeps.foldlFst ?_ ?_)
    | (with_reducible refine Keeps.foldlSnd ?_ ?_)
    | (intro b x hb; try dsimp only [State.takeFree, State.freshId])
    | split
    | (apply Keeps.upd)
    | exact fun _ w => w
    | (intro b w; try dsimp only; (repeat' split) <;> first | exact w | (rw [Core.wf_iff] at *; exact w) | (simp only [Port.onLane_store, Port.discard_store, Port.acked_store]; exact w))
    | exact fun w => w
    | exact rfl
    | exact fun w => State.port_wf w
    | (intro w; simp only [Port.onLane_store, Port.discard_store, Port.acked_store]; exact State.port_wf w)

theorem State.resumeLog_keeps {s a : State} (bad : List ℕ) (h : Keeps s a) : Keeps s (State.resumeLog a bad) := by
  unfold State.resumeLog
  all_goals try dsimp only [State.takeFree, State.freshId]
  repeat' first
    | with_reducible assumption
    | (with_reducible apply State.onStore_keeps)
    | (with_reducible apply State.logSlot_keeps)
    | (with_reducible apply State.event_keeps)
    | (with_reducible refine Keeps.foldl ?_ ?_)
    | (with_reducible refine Keeps.foldlFst ?_ ?_)
    | (with_reducible refine Keeps.foldlSnd ?_ ?_)
    | (intro b x hb; try dsimp only [State.takeFree, State.freshId])
    | split

theorem State.avsCheck_keeps {s a t : State} {p : Sys2Proof.Machine.Power} (h : Keeps s a) (e : State.avsCheck a p = some t) : Keeps s t := by
  unfold State.avsCheck at e
  try dsimp only at e
  repeat' split at e
  all_goals first | (cases e; done) | (cases e) | (injection e with e; injection e; subst_vars) | (obtain ⟨_, _, e⟩ := Option.map_eq_some_iff.1 e; subst e) | skip
  all_goals try dsimp only [State.takeFree, State.freshId]
  repeat' first
    | with_reducible assumption
    | (with_reducible apply State.event_keeps)
    | (with_reducible refine Keeps.foldl ?_ ?_)
    | (with_reducible refine Keeps.foldlFst ?_ ?_)
    | (with_reducible refine Keeps.foldlSnd ?_ ?_)
    | (intro b x hb; try dsimp only [State.takeFree, State.freshId])
    | split
    | (apply Keeps.upd)
    | exact fun _ w => w
    | (intro b w; try dsimp only; (repeat' split) <;> first | exact w | (rw [Core.wf_iff] at *; exact w) | (simp only [Port.onLane_store, Port.discard_store, Port.acked_store]; exact w))
    | exact fun w => w
    | exact rfl
    | exact fun w => State.port_wf w
    | (intro w; simp only [Port.onLane_store, Port.discard_store, Port.acked_store]; exact State.port_wf w)

theorem State.stopSpires_keeps {s a : State} (h : Keeps s a) : Keeps s (State.stopSpires a) := by
  unfold State.stopSpires
  all_goals try dsimp only [State.takeFree, State.freshId]
  repeat' first
    | with_reducible assumption
    | (with_reducible apply State.onSpire_keeps)
    | (with_reducible refine Keeps.foldl ?_ ?_)
    | (with_reducible refine Keeps.foldlFst ?_ ?_)
    | (with_reducible refine Keeps.foldlSnd ?_ ?_)
    | (intro b x hb; try dsimp only [State.takeFree, State.freshId])
    | split

theorem State.haltTick_keeps {s a : State} (h : Keeps s a) : Keeps s (State.haltTick a) := by
  unfold State.haltTick
  all_goals try dsimp only [State.takeFree, State.freshId]
  repeat' first
    | with_reducible assumption
    | (with_reducible refine Keeps.foldl ?_ ?_)
    | (with_reducible refine Keeps.foldlFst ?_ ?_)
    | (with_reducible refine Keeps.foldlSnd ?_ ?_)
    | (intro b x hb; try dsimp only [State.takeFree, State.freshId])
    | split
    | (apply Keeps.upd)
    | exact fun _ w => w
    | (intro b w; try dsimp only; (repeat' split) <;> first | exact w | (rw [Core.wf_iff] at *; exact w) | (simp only [Port.onLane_store, Port.discard_store, Port.acked_store]; exact w))
    | exact fun w => w
    | exact rfl
    | exact fun w => State.port_wf w
    | (intro w; simp only [Port.onLane_store, Port.discard_store, Port.acked_store]; exact State.port_wf w)

theorem State.haltStaging_keeps {s a : State} (h : Keeps s a) : Keeps s (State.haltStaging a) := by
  unfold State.haltStaging
  all_goals try dsimp only [State.takeFree, State.freshId]
  repeat' first
    | with_reducible assumption
    | (with_reducible apply State.setObj_keeps)
    | (with_reducible apply State.onStore_keeps)
    | (with_reducible refine Keeps.foldl ?_ ?_)
    | (with_reducible refine Keeps.foldlFst ?_ ?_)
    | (with_reducible refine Keeps.foldlSnd ?_ ?_)
    | (intro b x hb; try dsimp only [State.takeFree, State.freshId])
    | split

theorem State.haltImports_keeps {s a : State} (h : Keeps s a) : Keeps s (State.haltImports a) := by
  unfold State.haltImports
  all_goals try dsimp only [State.takeFree, State.freshId]
  repeat' first
    | with_reducible assumption
    | (with_reducible apply State.onStore_keeps)
    | (with_reducible refine Keeps.foldl ?_ ?_)
    | (with_reducible refine Keeps.foldlFst ?_ ?_)
    | (with_reducible refine Keeps.foldlSnd ?_ ?_)
    | (intro b x hb; try dsimp only [State.takeFree, State.freshId])
    | split

theorem State.closeImports_keeps {s a : State} (h : Keeps s a) : Keeps s (State.closeImports a) := by
  unfold State.closeImports
  all_goals try dsimp only [State.takeFree, State.freshId]
  repeat' first
    | with_reducible assumption
    | (with_reducible apply State.endImport_keeps)
    | (with_reducible apply State.onStore_keeps)
    | (with_reducible refine Keeps.foldl ?_ ?_)
    | (with_reducible refine Keeps.foldlFst ?_ ?_)
    | (with_reducible refine Keeps.foldlSnd ?_ ?_)
    | (intro b x hb; try dsimp only [State.takeFree, State.freshId])
    | split

theorem State.leavePorts_keeps {s a : State} (first : Bool) (h : Keeps s a) : Keeps s (State.leavePorts a first) := by
  unfold State.leavePorts
  all_goals try dsimp only [State.takeFree, State.freshId]
  repeat' first
    | with_reducible assumption
    | (with_reducible apply State.onPort_keeps)
    | (with_reducible refine Keeps.foldl ?_ ?_)
    | (with_reducible refine Keeps.foldlFst ?_ ?_)
    | (with_reducible refine Keeps.foldlSnd ?_ ?_)
    | (intro b x hb; try dsimp only [State.takeFree, State.freshId])
    | split
    | (apply Keeps.upd)
    | exact fun _ w => w
    | (intro b w; try dsimp only; (repeat' split) <;> first | exact w | (rw [Core.wf_iff] at *; exact w) | (simp only [Port.onLane_store, Port.discard_store, Port.acked_store]; exact w))
    | exact fun w => w
    | exact rfl
    | exact fun w => State.port_wf w
    | (intro w; simp only [Port.onLane_store, Port.discard_store, Port.acked_store]; exact State.port_wf w)

theorem State.cutPrograms_keeps {s a : State} (h : Keeps s a) : Keeps s (State.cutPrograms a) := by
  unfold State.cutPrograms
  all_goals try dsimp only [State.takeFree, State.freshId]
  repeat' first
    | with_reducible assumption
    | (with_reducible apply State.onStore_keeps)
    | (with_reducible apply State.takeFree_keeps)
    | (with_reducible refine Keeps.snd (State.takeFree_keeps (h := ?_) ..) (by with_reducible assumption))
    | (with_reducible refine Keeps.foldl ?_ ?_)
    | (with_reducible refine Keeps.foldlFst ?_ ?_)
    | (with_reducible refine Keeps.foldlSnd ?_ ?_)
    | (intro b x hb; try dsimp only [State.takeFree, State.freshId])
    | split
    | (apply Keeps.upd)
    | exact fun _ w => w
    | (intro b w; try dsimp only; (repeat' split) <;> first | exact w | (rw [Core.wf_iff] at *; exact w))
    | exact fun w => w
    | exact rfl

theorem State.startShutdown_keeps {s a : State} (byPin : Bool) (h : Keeps s a) : Keeps s (State.startShutdown a byPin) := by
  unfold State.startShutdown
  all_goals try dsimp only [State.takeFree, State.freshId]
  repeat' first
    | with_reducible assumption
    | (with_reducible apply State.event_keeps)
    | (with_reducible refine Keeps.foldl ?_ ?_)
    | (with_reducible refine Keeps.foldlFst ?_ ?_)
    | (with_reducible refine Keeps.foldlSnd ?_ ?_)
    | (intro b x hb; try dsimp only [State.takeFree, State.freshId])
    | split
    | (apply Keeps.upd)
    | exact fun _ w => w
    | (intro b w; try dsimp only; (repeat' split) <;> first | exact w | (rw [Core.wf_iff] at *; exact w) | (simp only [Port.onLane_store, Port.discard_store, Port.acked_store]; exact w))
    | exact fun w => w
    | exact rfl
    | exact fun w => State.port_wf w
    | (intro w; simp only [Port.onLane_store, Port.discard_store, Port.acked_store]; exact State.port_wf w)

theorem State.endRequests_keeps {s a : State} (h : Keeps s a) : Keeps s (State.endRequests a) := by
  unfold State.endRequests
  all_goals try dsimp only [State.takeFree, State.freshId]
  repeat' first
    | with_reducible assumption
    | (with_reducible apply State.onFn_keeps)
    | (with_reducible apply State.onPart_keeps)
    | (with_reducible apply State.signal_keeps)
    | (with_reducible apply State.finish_keeps)
    | (with_reducible refine Keeps.foldl ?_ ?_)
    | (with_reducible refine Keeps.foldlFst ?_ ?_)
    | (with_reducible refine Keeps.foldlSnd ?_ ?_)
    | (intro b x hb; try dsimp only [State.takeFree, State.freshId])
    | split
    | (apply Keeps.upd)
    | exact fun _ w => w
    | (intro b w; try dsimp only; (repeat' split) <;> first | exact w | (rw [Core.wf_iff] at *; exact w) | (simp only [Port.onLane_store, Port.discard_store, Port.acked_store]; exact w))
    | exact fun w => w
    | exact rfl
    | exact fun w => State.port_wf w
    | (intro w; simp only [Port.onLane_store, Port.discard_store, Port.acked_store]; exact State.port_wf w)

end Sys2Proof.Machine
end

