-- ==== Sys2Proof/Laws/KeepsHost.lean ====
section
/-! SUPPORT. What the operations of these families keep (see Keeps): Partition, Host, Mailbox. -/

set_option linter.unusedTactic false
set_option linter.unreachableTactic false
set_option linter.unusedVariables false

namespace Sys2Proof.Machine

theorem State.dropSwitches_keeps {s a : State} (p : ℕ) (h : Keeps s a) : Keeps s (State.dropSwitches a p) := by
  unfold State.dropSwitches
  all_goals try dsimp only [State.takeFree, State.freshId]
  repeat' first
    | with_reducible assumption
    | (with_reducible apply State.finish_keeps)
    | (with_reducible apply State.setPart_keeps)
    | (with_reducible refine Keeps.foldl ?_ ?_)
    | (with_reducible refine Keeps.foldlFst ?_ ?_)
    | (with_reducible refine Keeps.foldlSnd ?_ ?_)
    | (intro b x hb; try dsimp only [State.takeFree, State.freshId])
    | split

theorem State.dropBulk_keeps {s a : State} (p : ℕ) (h : Keeps s a) : Keeps s (State.dropBulk a p) := by
  unfold State.dropBulk
  all_goals try dsimp only [State.takeFree, State.freshId]
  repeat' first
    | with_reducible assumption
    | (with_reducible apply State.onPort_keeps)
    | (with_reducible refine Keeps.foldl ?_ ?_)
    | (with_reducible refine Keeps.foldlFst ?_ ?_)
    | (with_reducible refine Keeps.foldlSnd ?_ ?_)
    | (intro b x hb; try dsimp only [State.takeFree, State.freshId])
    | split
    | (apply Keeps.upd)
    | exact fun _ w => w
    | (intro b w; try dsimp only; (repeat' split) <;> first | exact w | (rw [Core.wf_iff] at *; exact w) | (simp only [Port.onLane_store, Port.discard_store, Port.acked_store]; exact w))
    | exact fun w => w
    | exact rfl
    | exact fun w => State.port_wf w
    | (intro w; simp only [Port.onLane_store, Port.discard_store, Port.acked_store]; exact State.port_wf w)

theorem State.dropStaging_keeps {s a : State} (p : ℕ) (h : Keeps s a) : Keeps s (State.dropStaging a p) := by
  unfold State.dropStaging
  all_goals try dsimp only [State.takeFree, State.freshId]
  repeat' first
    | with_reducible assumption
    | (with_reducible apply State.setObj_keeps)
    | (with_reducible refine Keeps.foldl ?_ ?_)
    | (with_reducible refine Keeps.foldlFst ?_ ?_)
    | (with_reducible refine Keeps.foldlSnd ?_ ?_)
    | (intro b x hb; try dsimp only [State.takeFree, State.freshId])
    | split
    | (apply Keeps.upd)
    | exact fun _ w => w
    | (intro b w; try dsimp only; (repeat' split) <;> first | exact w | (rw [Core.wf_iff] at *; exact w) | (simp only [Port.onLane_store, Port.discard_store, Port.acked_store]; exact w))
    | exact fun w => w
    | exact rfl
    | exact fun w => State.port_wf w
    | (intro w; simp only [Port.onLane_store, Port.discard_store, Port.acked_store]; exact State.port_wf w)

theorem State.abandonImports_keeps {s a : State} (p : ℕ) (h : Keeps s a) : Keeps s (State.abandonImports a p) := by
  unfold State.abandonImports
  all_goals try dsimp only [State.takeFree, State.freshId]
  repeat' first
    | with_reducible assumption
    | (with_reducible apply State.runImports_keeps)
    | (with_reducible apply State.onStore_keeps)
    | (with_reducible refine Keeps.foldl ?_ ?_)
    | (with_reducible refine Keeps.foldlFst ?_ ?_)
    | (with_reducible refine Keeps.foldlSnd ?_ ?_)
    | (intro b x hb; try dsimp only [State.takeFree, State.freshId])
    | split

theorem State.endAbandoned_keeps {s a : State} (p : ℕ) (h : Keeps s a) : Keeps s (State.endAbandoned a p) := by
  unfold State.endAbandoned
  all_goals try dsimp only [State.takeFree, State.freshId]
  repeat' first
    | with_reducible assumption
    | (with_reducible apply State.finish_keeps)
    | (with_reducible apply State.onStore_keeps)
    | (with_reducible refine Keeps.foldl ?_ ?_)
    | (with_reducible refine Keeps.foldlFst ?_ ?_)
    | (with_reducible refine Keeps.foldlSnd ?_ ?_)
    | (intro b x hb; try dsimp only [State.takeFree, State.freshId])
    | split

theorem State.dropReads_keeps {s a : State} (p : ℕ) (h : Keeps s a) : Keeps s (State.dropReads a p) := by
  unfold State.dropReads
  all_goals try dsimp only [State.takeFree, State.freshId]
  repeat' first
    | with_reducible assumption
    | (with_reducible apply State.endReq_keeps)
    | (with_reducible refine Keeps.foldl ?_ ?_)
    | (with_reducible refine Keeps.foldlFst ?_ ?_)
    | (with_reducible refine Keeps.foldlSnd ?_ ?_)
    | (intro b x hb; try dsimp only [State.takeFree, State.freshId])
    | split

theorem State.startReset_keeps {s a : State} (p : ℕ) (byFlr : Bool) (msg : Option ℕ) (h : Keeps s a) : Keeps s (State.startReset a p byFlr msg) := by
  unfold State.startReset
  all_goals try dsimp only [State.takeFree, State.freshId]
  repeat' first
    | with_reducible assumption
    | (with_reducible apply State.onPart_keeps)
    | (with_reducible apply State.publish_keeps)
    | (with_reducible apply State.stopEngines_keeps)
    | (with_reducible apply State.abandonImports_keeps)
    | (with_reducible apply State.dropStaging_keeps)
    | (with_reducible apply State.dropBulk_keeps)
    | (with_reducible apply State.dropSwitches_keeps)
    | (with_reducible apply State.dropReads_keeps)
    | (with_reducible refine Keeps.foldl ?_ ?_)
    | (with_reducible refine Keeps.foldlFst ?_ ?_)
    | (with_reducible refine Keeps.foldlSnd ?_ ?_)
    | (intro b x hb; try dsimp only [State.takeFree, State.freshId])
    | split

theorem Core.cleared_wf {c : Core} (mine : Nat → Bool) (p : Nat) (h : c.wf = true) : (c.cleared mine p).wf = true := by
  rw [Core.wf_iff] at h ⊢
  exact ⟨Tbl.wf_filter _ h.1, h.2⟩

theorem State.clearPart_keeps {s a : State} (p : Nat) (h : Keeps s a) : Keeps s (State.clearPart a p) := by
  unfold State.clearPart
  dsimp only
  refine State.onPart_keeps _ _ (Keeps.foldl (Keeps.foldl (State.admitAll_keeps (State.onCore_keeps _ h ?_)) ?_) ?_)
  · exact fun c w => Core.cleared_wf _ _ w
  · exact fun b x hb => State.onSpire_keeps _ _ hb
  · refine fun b x hb => State.onPort_keeps _ _ hb (fun y w => ?_)
    split
    · exact w
    · exact Tbl.wf_clear _ _ w

theorem State.beginRestage_keeps {s a : State} (p : ℕ) (h : Keeps s a) : Keeps s (State.beginRestage a p) := by
  unfold State.beginRestage
  all_goals try dsimp only [State.takeFree, State.freshId]
  repeat' first
    | with_reducible assumption
    | (with_reducible apply State.setObj_keeps)
    | (with_reducible apply State.onPart_keeps)
    | (with_reducible refine Keeps.foldl ?_ ?_)
    | (with_reducible refine Keeps.foldlFst ?_ ?_)
    | (with_reducible refine Keeps.foldlSnd ?_ ?_)
    | (intro b x hb; try dsimp only [State.takeFree, State.freshId])
    | split

theorem State.completeReset_keeps {s a : State} (p : ℕ) (h : Keeps s a) : Keeps s (State.completeReset a p) := by
  unfold State.completeReset
  all_goals try dsimp only [State.takeFree, State.freshId]
  repeat' first
    | with_reducible assumption
    | (with_reducible apply State.onPart_keeps)
    | (with_reducible apply State.onRings_keeps)
    | (with_reducible apply State.event_keeps)
    | (with_reducible apply State.finish_keeps)
    | (with_reducible apply State.signal_keeps)
    | (with_reducible apply State.endAbandoned_keeps)
    | (with_reducible apply State.beginRestage_keeps)
    | (with_reducible refine Keeps.foldl ?_ ?_)
    | (with_reducible refine Keeps.foldlFst ?_ ?_)
    | (with_reducible refine Keeps.foldlSnd ?_ ?_)
    | (intro b x hb; try dsimp only [State.takeFree, State.freshId])
    | split

theorem State.resetPf_keeps {s a : State}  (h : Keeps s a) : Keeps s (State.resetPf a) := by
  unfold State.resetPf
  exact Keeps.upd (State.onFn_keeps _ _ h (fun f _ => rfl)) id rfl id id id

theorem Func.flr_wf (f : Func) : f.flr.mbx.wf = true := rfl

theorem State.linkDown_keeps {s a : State}  (h : Keeps s a) : Keeps s (State.linkDown a) := by
  unfold State.linkDown
  split
  · exact h
  · have k : Keeps s (((List.range 16).foldl (fun (a : State) k => a.onFn k Func.flr) a).resetPf) :=
      State.resetPf_keeps (Keeps.foldl h (fun b x hb => State.onFn_keeps _ _ hb (fun f _ => Func.flr_wf f)))
    generalize State.resetPf _ = q at k ⊢
    exact State.event_keeps _ _ _ _ _ (k.to rfl rfl id rfl id id id)

theorem State.flushPending_keeps {s a : State} (fn : ℕ) (h : Keeps s a) : Keeps s (State.flushPending a fn) := by
  unfold State.flushPending
  all_goals try dsimp only [State.takeFree, State.freshId]
  repeat' first
    | with_reducible assumption
    | (with_reducible apply State.onFn_keeps)
    | (with_reducible refine Keeps.foldl ?_ ?_)
    | (with_reducible refine Keeps.foldlFst ?_ ?_)
    | (with_reducible refine Keeps.foldlSnd ?_ ?_)
    | (intro b x hb; try dsimp only [State.takeFree, State.freshId])
    | split
    | (apply Keeps.upd)
    | exact fun _ w => w
    | (intro b w; try dsimp only; (repeat' split) <;> first | exact w | (rw [Core.wf_iff] at *; exact w))
    | exact fun w => w
    | exact rfl

theorem State.refuse_keeps {s a : State} (fn : ℕ) (write : Bool) (h : Keeps s a) : Keeps s (State.refuse a fn write) := by
  unfold State.refuse
  all_goals try dsimp only [State.takeFree, State.freshId]
  repeat' first
    | with_reducible assumption
    | (with_reducible apply State.answer_keeps)
    | (with_reducible apply State.onFn_keeps)
    | (with_reducible refine Keeps.foldl ?_ ?_)
    | (with_reducible refine Keeps.foldlFst ?_ ?_)
    | (with_reducible refine Keeps.foldlSnd ?_ ?_)
    | (intro b x hb; try dsimp only [State.takeFree, State.freshId])
    | split
    | (apply Keeps.upd)
    | exact fun _ w => w
    | (intro b w; try dsimp only; (repeat' split) <;> first | exact w | (rw [Core.wf_iff] at *; exact w))
    | exact fun w => w
    | exact rfl

theorem State.bar2Do_keeps {s a : State} (k : ℕ) (off : ℕ) (op : Sys2Proof.Bar2Op) (bursts : Sys2Proof.BurstRec) (h : Keeps s a) : Keeps s (State.bar2Do a k off op bursts) := by
  unfold State.bar2Do
  all_goals try dsimp only [State.takeFree, State.freshId]
  repeat' first
    | with_reducible assumption
    | (with_reducible apply State.countBursts_keeps)
    | (with_reducible apply State.onFn_keeps)
    | (with_reducible apply State.countUe_keeps)
    | (with_reducible apply State.answer_keeps)
    | (with_reducible apply State.event_keeps)
    | (with_reducible apply State.hbmWrite_keeps)
    | (with_reducible apply State.meetSoft_keeps)
    | (with_reducible refine Keeps.foldl ?_ ?_)
    | (with_reducible refine Keeps.foldlFst ?_ ?_)
    | (with_reducible refine Keeps.foldlSnd ?_ ?_)
    | (intro b x hb; try dsimp only [State.takeFree, State.freshId])
    | split
    | (apply Keeps.upd)
    | exact fun _ w => w
    | (intro b w; try dsimp only; (repeat' split) <;> first | exact w | (rw [Core.wf_iff] at *; exact w))
    | exact fun w => w
    | exact rfl

theorem State.bar2Now_keeps {s a : State} (k : ℕ) (off : ℕ) (op : Sys2Proof.Bar2Op) (bursts : Sys2Proof.BurstRec) (h : Keeps s a) : Keeps s (State.bar2Now a k off op bursts) := by
  unfold State.bar2Now
  all_goals try dsimp only [State.takeFree, State.freshId]
  repeat' first
    | with_reducible assumption
    | (with_reducible apply State.onFn_keeps)
    | (with_reducible apply State.refuse_keeps)
    | (with_reducible apply State.freezeHost_keeps)
    | (with_reducible apply State.bar2Do_keeps)
    | (with_reducible refine Keeps.foldl ?_ ?_)
    | (with_reducible refine Keeps.foldlFst ?_ ?_)
    | (with_reducible refine Keeps.foldlSnd ?_ ?_)
    | (intro b x hb; try dsimp only [State.takeFree, State.freshId])
    | split
    | (apply Keeps.upd)
    | exact fun _ w => w
    | (intro b w; try dsimp only; (repeat' split) <;> first | exact w | (rw [Core.wf_iff] at *; exact w))
    | exact fun w => w
    | exact rfl

theorem State.doorbell_keeps {s a : State} (k : ℕ) (r : ℕ) (src : ℕ) (h : Keeps s a) : Keeps s (State.doorbell a k r src) := by
  unfold State.doorbell
  all_goals try dsimp only [State.takeFree, State.freshId]
  repeat' first
    | with_reducible assumption
    | (with_reducible apply State.setPart_keeps)
    | (with_reducible refine Keeps.foldl ?_ ?_)
    | (with_reducible refine Keeps.foldlFst ?_ ?_)
    | (with_reducible refine Keeps.foldlSnd ?_ ?_)
    | (intro b x hb; try dsimp only [State.takeFree, State.freshId])
    | split

theorem State.writeDb_keeps {s a : State} (k : ℕ) (r : ℕ) (value : Sys2Proof.W32) (be : BitVec 4) (h : Keeps s a) : Keeps s (State.writeDb a k r value be) := by
  unfold State.writeDb
  all_goals try dsimp only [State.takeFree, State.freshId]
  repeat' first
    | with_reducible assumption
    | (with_reducible apply State.answer_keeps)
    | (with_reducible apply State.doorbell_keeps)
    | (with_reducible refine Keeps.foldl ?_ ?_)
    | (with_reducible refine Keeps.foldlFst ?_ ?_)
    | (with_reducible refine Keeps.foldlSnd ?_ ?_)
    | (intro b x hb; try dsimp only [State.takeFree, State.freshId])
    | split
    | (apply Keeps.upd)
    | exact fun _ w => w
    | (intro b w; try dsimp only; (repeat' split) <;> first | exact w | (rw [Core.wf_iff] at *; exact w) | (simp only [Port.onLane_store, Port.discard_store, Port.acked_store]; exact w))
    | exact fun w => w
    | exact rfl
    | exact fun w => State.port_wf w
    | (intro w; simp only [Port.onLane_store, Port.discard_store, Port.acked_store]; exact State.port_wf w)

theorem State.releaseWrites_keeps {s a : State} (h : Keeps s a) : Keeps s (State.releaseWrites a) := by
  unfold State.releaseWrites
  all_goals try dsimp only [State.takeFree, State.freshId]
  repeat' first
    | with_reducible assumption
    | (with_reducible apply State.takeWrite_keeps)
    | (with_reducible apply State.onPort_keeps)
    | (with_reducible refine Keeps.foldl ?_ ?_)
    | (with_reducible refine Keeps.foldlFst ?_ ?_)
    | (with_reducible refine Keeps.foldlSnd ?_ ?_)
    | (intro b x hb; try dsimp only [State.takeFree, State.freshId])
    | split
    | (apply Keeps.upd)
    | exact fun _ w => w
    | (intro b w; try dsimp only; (repeat' split) <;> first | exact w | (rw [Core.wf_iff] at *; exact w) | (simp only [Port.onLane_store, Port.discard_store, Port.acked_store]; exact w))
    | exact fun w => w
    | exact rfl
    | exact fun w => State.port_wf w
    | (intro w; simp only [Port.onLane_store, Port.discard_store, Port.acked_store]; exact State.port_wf w)

theorem State.releaseOwn_keeps {s a : State} (p : ℕ) (w : ℕ) (h : Keeps s a) : Keeps s (State.releaseOwn a p w) := by
  unfold State.releaseOwn
  all_goals try dsimp only [State.takeFree, State.freshId]
  repeat' first
    | with_reducible assumption
    | (with_reducible apply State.putRecord_keeps)
    | (with_reducible apply State.ownWrite_keeps)
    | (with_reducible apply State.onPart_keeps)
    | (with_reducible refine Keeps.foldl ?_ ?_)
    | (with_reducible refine Keeps.foldlFst ?_ ?_)
    | (with_reducible refine Keeps.foldlSnd ?_ ?_)
    | (intro b x hb; try dsimp only [State.takeFree, State.freshId])
    | split

theorem State.ignoreWrite_keeps {s a : State} (h : Keeps s a) : Keeps s (State.ignoreWrite a) := by
  unfold State.ignoreWrite
  all_goals try dsimp only [State.takeFree, State.freshId]
  repeat' first
    | with_reducible assumption
    | (with_reducible apply State.answer_keeps)
    | (with_reducible refine Keeps.foldl ?_ ?_)
    | (with_reducible refine Keeps.foldlFst ?_ ?_)
    | (with_reducible refine Keeps.foldlSnd ?_ ?_)
    | (intro b x hb; try dsimp only [State.takeFree, State.freshId])
    | split
    | (apply Keeps.upd)
    | exact fun _ w => w
    | (intro b w; try dsimp only; (repeat' split) <;> first | exact w | (rw [Core.wf_iff] at *; exact w) | (simp only [Port.onLane_store, Port.discard_store, Port.acked_store]; exact w))
    | exact fun w => w
    | exact rfl
    | exact fun w => State.port_wf w
    | (intro w; simp only [Port.onLane_store, Port.discard_store, Port.acked_store]; exact State.port_wf w)

theorem State.onMbx_keeps {s a : State} (fn : Nat) (g : Mailbox → Mailbox) (h : Keeps s a)
    (hg : ∀ m : Mailbox, m.wf = true → (g m).wf = true) : Keeps s (a.onMbx fn g) :=
  State.onFn_keeps _ _ h (fun _ w => hg _ w)

theorem State.inOrder_keeps {s a b : State} (fn : Nat) (w : WaitOp) (h : Keeps s a) (hb : Keeps s b) : Keeps s (State.inOrder a fn w b) := by
  unfold State.inOrder
  split
  · exact State.answer_keeps _ (h.to rfl rfl id rfl id id id)
  · exact hb

theorem State.takeReqPi_keeps {s a : State} (fn : Nat) (value : W32) (h : Keeps s a) : Keeps s (State.takeReqPi a fn value) := by
  unfold State.takeReqPi
  dsimp only
  split <;> exact State.answer_keeps _ (State.onMbx_keeps _ _ h (fun _ w => w))

theorem State.takeRspCi_keeps {s a : State} (fn : Nat) (value : W32) (h : Keeps s a) : Keeps s (State.takeRspCi a fn value) := by
  unfold State.takeRspCi
  dsimp only
  split
  · exact State.ignoreWrite_keeps h
  · exact State.releaseHeld_keeps _ _ _ (State.answer_keeps _ (State.onMbx_keeps _ _ h (fun _ w => w)))

theorem State.takeSlots_keeps {s a : State} (fn o : Nat) (bs : List Byte) (h : Keeps s a) : Keeps s (State.takeSlots a fn o bs) := by
  unfold State.takeSlots
  refine State.answer_keeps _ (State.onMbx_keeps _ _ h (fun m w => ?_))
  rw [Mailbox.wf_iff] at w ⊢
  exact ⟨Tbl.wf_putRun _ _ _ w.1, w.2⟩

theorem State.writeReqPi_keeps {s a : State} (fn : Nat) (value : W32) (h : Keeps s a) : Keeps s (State.writeReqPi a fn value) :=
  State.inOrder_keeps _ _ h (State.takeReqPi_keeps _ _ h)

theorem State.writeRspCi_keeps {s a : State} (fn : Nat) (value : W32) (h : Keeps s a) : Keeps s (State.writeRspCi a fn value) :=
  State.inOrder_keeps _ _ h (State.takeRspCi_keeps _ _ h)

theorem State.clearRc_keeps {s a : State} (k : ℕ) (o : ℕ) (h : Keeps s a) : Keeps s (State.clearRc a k o) := by
  unfold State.clearRc
  all_goals try dsimp only [State.takeFree, State.freshId]
  repeat' first
    | with_reducible assumption
    | (with_reducible apply State.onPart_keeps)
    | (with_reducible refine Keeps.foldl ?_ ?_)
    | (with_reducible refine Keeps.foldlFst ?_ ?_)
    | (with_reducible refine Keeps.foldlSnd ?_ ?_)
    | (intro b x hb; try dsimp only [State.takeFree, State.freshId])
    | split

theorem State.readReg_keeps {s a : State} (fn : ℕ) (o : ℕ) (be : BitVec 4) (h : Keeps s a) : Keeps s (State.readReg a fn o be).2 := by
  unfold State.readReg
  all_goals try dsimp only [State.takeFree, State.freshId]
  repeat' first
    | with_reducible assumption
    | (with_reducible apply State.onFn_keeps)
    | (with_reducible apply State.clearRc_keeps)
    | (with_reducible refine Keeps.foldl ?_ ?_)
    | (with_reducible refine Keeps.foldlFst ?_ ?_)
    | (with_reducible refine Keeps.foldlSnd ?_ ?_)
    | (intro b x hb; try dsimp only [State.takeFree, State.freshId])
    | split
    | (apply Keeps.upd)
    | exact fun _ w => w
    | (intro b w; try dsimp only; (repeat' split) <;> first | exact w | (rw [Core.wf_iff] at *; exact w))
    | exact fun w => w
    | exact rfl

theorem State.readWord_keeps {s a : State} (fn : ℕ) (o : ℕ) (be : BitVec 4) (h : Keeps s a) : Keeps s (State.readWord a fn o be) := by
  unfold State.readWord
  all_goals try dsimp only [State.takeFree, State.freshId]
  repeat' first
    | with_reducible assumption
    | (with_reducible apply State.answer_keeps)
    | (with_reducible apply State.readReg_keeps)
    | (with_reducible refine Keeps.snd (State.readReg_keeps (h := ?_) ..) (by with_reducible assumption))
    | (with_reducible refine Keeps.foldl ?_ ?_)
    | (with_reducible refine Keeps.foldlFst ?_ ?_)
    | (with_reducible refine Keeps.foldlSnd ?_ ?_)
    | (intro b x hb; try dsimp only [State.takeFree, State.freshId])
    | split

theorem State.crossing_keeps {s a : State} (fn : ℕ) (write : Bool) (h : Keeps s a) : Keeps s (State.crossing a fn write) := by
  unfold State.crossing
  all_goals try dsimp only [State.takeFree, State.freshId]
  repeat' first
    | with_reducible assumption
    | (with_reducible apply State.refuse_keeps)
    | (with_reducible refine Keeps.foldl ?_ ?_)
    | (with_reducible refine Keeps.foldlFst ?_ ?_)
    | (with_reducible refine Keeps.foldlSnd ?_ ?_)
    | (intro b x hb; try dsimp only [State.takeFree, State.freshId])
    | split
    | (apply Keeps.upd)
    | exact fun _ w => w
    | (intro b w; try dsimp only; (repeat' split) <;> first | exact w | (rw [Core.wf_iff] at *; exact w) | (simp only [Port.onLane_store, Port.discard_store, Port.acked_store]; exact w))
    | exact fun w => w
    | exact rfl
    | exact fun w => State.port_wf w
    | (intro w; simp only [Port.onLane_store, Port.discard_store, Port.acked_store]; exact State.port_wf w)

theorem State.readPair_keeps {s a : State} (fn : ℕ) (o : ℕ) (h : Keeps s a) : Keeps s (State.readPair a fn o) := by
  unfold State.readPair
  all_goals try dsimp only [State.takeFree, State.freshId]
  repeat' first
    | with_reducible assumption
    | (with_reducible apply State.answer_keeps)
    | (with_reducible apply State.readReg_keeps)
    | (with_reducible refine Keeps.snd (State.readReg_keeps (h := ?_) ..) (by with_reducible assumption))
    | (with_reducible refine Keeps.foldl ?_ ?_)
    | (with_reducible refine Keeps.foldlFst ?_ ?_)
    | (with_reducible refine Keeps.foldlSnd ?_ ?_)
    | (intro b x hb; try dsimp only [State.takeFree, State.freshId])
    | split

theorem State.readDws_keeps {s a : State} (fn o n : Nat) (first last : BitVec 4) (h : Keeps s a) : Keeps s (State.readDws a fn o n first last) := by
  unfold State.readDws
  refine Keeps.ite (State.readWord_keeps _ _ _ h) ?_
  split
  · exact Keeps.ite (State.answer_keeps _ h) (State.crossing_keeps _ _ h)
  · exact Keeps.ite (State.readPair_keeps _ _ h) (State.crossing_keeps _ _ h)

theorem State.holdBack_keeps {s a now : State} (fn : Nat) (w : WaitOp) (h : Keeps s a) (k : Keeps s now) :
    Keeps s (State.holdBack a fn w now) := by
  unfold State.holdBack
  exact Keeps.ite (State.answer_keeps _ (h.to rfl rfl id rfl id id id)) k

theorem State.readInOrder_keeps {s a : State} (fn o n : Nat) (first last : BitVec 4) (h : Keeps s a) :
    Keeps s (State.readInOrder a fn o n first last) :=
  State.holdBack_keeps _ _ h (State.readDws_keeps _ _ _ _ _ h)

theorem State.goOn_keeps {s a : State} (w : WaitOp) (h : Keeps s a) : Keeps s (State.goOn a w) := by
  unfold State.goOn
  have k : Keeps s { a with host := { a.host with waiting := a.host.waiting ++ [w] } } := h.to rfl rfl id rfl id id id
  refine Keeps.ite k ?_
  cases w with
  | bar2 => exact Keeps.ite k (State.bar2Now_keeps _ _ _ _ h)
  | doorbell => exact State.doorbell_keeps _ _ _ h
  | reqPi => exact State.takeReqPi_keeps _ _ h
  | rspCi => exact State.takeRspCi_keeps _ _ h
  | slots => exact State.takeSlots_keeps _ _ _ h
  | read => exact State.readDws_keeps _ _ _ _ _ h
  | cross => exact State.crossing_keeps _ _ h

theorem State.releaseWaiting_keeps {s a : State} (h : Keeps s a) : Keeps s (State.releaseWaiting a) := by
  unfold State.releaseWaiting
  all_goals try dsimp only [State.takeFree, State.freshId]
  repeat' first
    | with_reducible assumption
    | (with_reducible apply State.goOn_keeps)
    | (with_reducible refine Keeps.foldl ?_ ?_)
    | (with_reducible refine Keeps.foldlFst ?_ ?_)
    | (with_reducible refine Keeps.foldlSnd ?_ ?_)
    | (intro b x hb; try dsimp only [State.takeFree, State.freshId])
    | split
    | (apply Keeps.upd)
    | exact fun _ w => w
    | (intro b w; try dsimp only; (repeat' split) <;> first | exact w | (rw [Core.wf_iff] at *; exact w) | (simp only [Port.onLane_store, Port.discard_store, Port.acked_store]; exact w))
    | exact fun w => w
    | exact rfl
    | exact fun w => State.port_wf w
    | (intro w; simp only [Port.onLane_store, Port.discard_store, Port.acked_store]; exact State.port_wf w)

theorem State.persistAndHold_keeps {s a : State} (h : Keeps s a) : Keeps s (State.persistAndHold a) := by
  unfold State.persistAndHold
  dsimp only
  have k : Keeps s (if a.flushLog.store.inUse then (a.flushLog.onStore StoreSt.checkpoint).noteWear else a.flushLog) :=
    Keeps.ite (State.noteWear_keeps (State.onStore_keeps _ (State.flushLog_keeps h))) (State.flushLog_keeps h)
  generalize (if a.flushLog.store.inUse then (a.flushLog.onStore StoreSt.checkpoint).noteWear else a.flushLog) = q at k ⊢
  exact State.releaseWaiting_keeps (State.event_keeps _ _ _ _ _ (State.endRequests_keeps (k.to rfl rfl id rfl id id id)))

theorem State.writeIndex_keeps {s a full : State} (be : BitVec 4) (h : Keeps s a) (k : Keeps s full) :
    Keeps s (a.writeIndex be full) := by
  unfold State.writeIndex
  split
  · exact State.answer_keeps _ h
  · split
    · exact State.ignoreWrite_keeps h
    · exact k

theorem State.consume1_keeps {s a : State} (fn : Nat) (h : Keeps s a) : Keeps s (State.consume1 a fn) :=
  State.onMbx_keeps _ _ h (fun _ w => w)

theorem State.skipBadTypes_keeps {s : State} (fn : Nat) : ∀ (k : Nat) (a : State), Keeps s a → Keeps s (State.skipBadTypes k fn a) := by
  intro k
  induction k with
  | zero => exact fun _ h => h
  | succ k ih =>
    intro a h
    unfold State.skipBadTypes
    split
    · exact h
    · split
      · exact ih _ (State.respond_keeps _ _ _ _ _ (State.consume1_keeps _ h))
      · exact h

theorem State.serve_keeps {s a : State} (fn type size : Nat) (reserved : List Nat) (act : State → List Byte → List Byte → State)
    (h : Keeps s a) (ha : ∀ b r p, Keeps s b → Keeps s (act b r p)) : Keeps s (a.serve fn type size reserved act) := by
  unfold State.serve
  dsimp only
  have k := State.skipBadTypes_keeps fn 8 a h
  generalize State.skipBadTypes 8 fn a = q at k ⊢
  split
  · exact k
  · split
    · exact k
    · split
      · exact State.respond_keeps _ _ _ _ _ (State.consume1_keeps _ k)
      · exact ha _ _ _ (State.consume1_keeps _ k)

theorem State.switchRoster_keeps {s a : State} (fn : ℕ) (msg : ℕ) (b : List Sys2Proof.Byte) (h : Keeps s a) : Keeps s (State.switchRoster a fn msg b) := by
  unfold State.switchRoster
  all_goals try dsimp only [State.takeFree, State.freshId]
  repeat' first
    | with_reducible assumption
    | (with_reducible apply State.respond_keeps)
    | (with_reducible apply State.finish_keeps)
    | (with_reducible apply State.pend_keeps)
    | (with_reducible apply State.onPart_keeps)
    | (with_reducible refine Keeps.foldl ?_ ?_)
    | (with_reducible refine Keeps.foldlFst ?_ ?_)
    | (with_reducible refine Keeps.foldlSnd ?_ ?_)
    | (intro b x hb; try dsimp only [State.takeFree, State.freshId])
    | split

theorem State.inNamespace_keeps {s a : State} (fn msg type ns objId : Nat) (act : Nat → State) (h : Keeps s a)
    (ha : ∀ p, Keeps s (act p)) : Keeps s (a.inNamespace fn msg type ns objId act) := by
  unfold State.inNamespace
  split
  · exact Keeps.ite (State.respond_keeps _ _ _ _ _ h) (Keeps.ite (State.respond_keeps _ _ _ _ _ h) (ha _))
  · exact Keeps.ite (State.respond_keeps _ _ _ _ _ h) (State.respond_keeps _ _ _ _ _ (State.freezeHost_keeps _ _ _ _ _ _ h))

theorem State.importRegion_keeps {s a : State} (fn : ℕ) (msg : ℕ) (b : List Sys2Proof.Byte) (p : ℕ) (h : Keeps s a) : Keeps s (State.importRegion a fn msg b p) := by
  unfold State.importRegion
  all_goals try dsimp only [State.takeFree, State.freshId]
  repeat' first
    | with_reducible assumption
    | (with_reducible apply State.endImport_keeps)
    | (with_reducible apply State.countUe_keeps)
    | (with_reducible apply State.runImports_keeps)
    | (with_reducible apply State.onStore_keeps)
    | (with_reducible refine Keeps.foldl ?_ ?_)
    | (with_reducible refine Keeps.foldlFst ?_ ?_)
    | (with_reducible refine Keeps.foldlSnd ?_ ?_)
    | (intro b x hb; try dsimp only [State.takeFree, State.freshId])
    | split

theorem State.doImport_keeps {s a : State} (fn msg : Nat) (b : List Byte) (bursts : List (Nat × BurstRec)) (h : Keeps s a) : Keeps s (State.doImport a fn msg b bursts) := by
  unfold State.doImport
  refine State.inNamespace_keeps _ _ _ _ _ _ h (fun p => ?_)
  dsimp only
  have k := State.pend_keeps fn msg 2 h
  split
  · exact State.respond_keeps _ _ _ _ _ h
  · split
    · generalize a.pend fn msg 2 = q at k ⊢
      exact k.to rfl rfl id rfl id id id
    · split
      · exact State.respond_keeps _ _ _ _ _ h
      · exact State.importRegion_keeps _ _ _ _ (State.countEach_keeps _ k)

theorem State.releaseImports_keeps {s a : State} (h : Keeps s a) : Keeps s (State.releaseImports a) := by
  unfold State.releaseImports
  all_goals try dsimp only [State.takeFree, State.freshId]
  repeat' first
    | with_reducible assumption
    | (with_reducible apply State.finish_keeps)
    | (with_reducible apply State.importRegion_keeps)
    | (with_reducible refine Keeps.foldl ?_ ?_)
    | (with_reducible refine Keeps.foldlFst ?_ ?_)
    | (with_reducible refine Keeps.foldlSnd ?_ ?_)
    | (intro b x hb; try dsimp only [State.takeFree, State.freshId])
    | split
    | (apply Keeps.upd)
    | exact fun _ w => w
    | (intro b w; try dsimp only; (repeat' split) <;> first | exact w | (rw [Core.wf_iff] at *; exact w) | (simp only [Port.onLane_store, Port.discard_store, Port.acked_store]; exact w))
    | exact fun w => w
    | exact rfl
    | exact fun w => State.port_wf w
    | (intro w; simp only [Port.onLane_store, Port.discard_store, Port.acked_store]; exact State.port_wf w)

theorem State.doRetire_keeps {s a : State} (fn : Nat) (msg : Nat) (b : List Byte) (h : Keeps s a) : Keeps s (State.doRetire a fn msg b) := by
  unfold State.doRetire
  exact State.inNamespace_keeps _ _ _ _ _ _ h (fun _ =>
    State.finish_keeps _ _ _ _ _ (State.retireObject_keeps _ _ (State.pend_keeps _ _ _ h)))

end Sys2Proof.Machine
end

