-- ==== Sys2Proof/Laws/KeepsBoot.lean ====
section
/-! SUPPORT. What the operations of these families keep (see Keeps): Image, Rosters, Boot, Plinth, Registers, Tap, Idle. -/

set_option linter.unusedTactic false
set_option linter.unreachableTactic false
set_option linter.unusedVariables false

namespace Sys2Proof.Machine

theorem programBytes_wf (bs : List Byte) : ∀ (a : Nat) (m : Bytes), Tbl.wf 0xFF#8 m = true → Tbl.wf 0xFF#8 (programBytes m a bs) = true := by
  induction bs with
  | nil => exact fun _ _ h => h
  | cons b bs ih => exact fun a m h => ih _ _ (Tbl.wf_put _ _ h)

theorem Rom.program_wf {r : Rom} (a : Nat) (bs : List Byte) (h : r.wf = true) : (r.program a bs).wf = true := by
  rw [Rom.wf_iff] at h ⊢
  exact ⟨programBytes_wf _ _ _ h.1, h.2⟩

theorem Rom.erase_wf {r : Rom} (a n : Nat) (h : r.wf = true) : (r.erase a n).wf = true := by
  rw [Rom.wf_iff] at h ⊢
  exact ⟨Tbl.wf_clear _ _ h.1, h.2⟩

theorem Rom.append_wf {r : Rom} (x : BootRec) (h : r.wf = true) : (r.append x).wf = true := by
  unfold Rom.append
  dsimp only
  split
  · exact Rom.program_wf _ _ h
  · exact Rom.program_wf _ _ (Rom.erase_wf _ _ h)

theorem Rom.append_otp (r : Rom) (x : BootRec) : (r.append x).otp = r.otp := by
  unfold Rom.append
  dsimp only
  split
  · rfl
  · rfl

theorem State.writeRecord_keeps {s a : State} (ok : Bool) (f : BootRec → BootRec) (h : Keeps s a) : Keeps s (State.writeRecord a ok f) := by
  unfold State.writeRecord
  dsimp only
  have k : ∀ r : Rom, r.otp = a.rom.otp → (a.rom.wf = true → r.wf = true) → Keeps s { a with rom := r } :=
    fun r h1 h2 => h.to rfl rfl id h1 h2 id id
  split
  · exact k _ (Rom.append_otp _ _) (Rom.append_wf _)
  · exact State.event_keeps _ _ _ _ _ h

theorem State.resetDomains_keeps {s a : State}  (h : Keeps s a) : Keeps s (State.resetDomains a) := by
  unfold State.resetDomains
  refine h.to rfl rfl (fun _ => rfl) rfl (fun w => ?_) (fun _ => rfl) (fun _ => rfl)
  rw [Rom.wf_iff] at w ⊢
  exact ⟨w.1, rfl⟩

theorem State.keepCounters_keeps {s a : State} (old : State) (h : Keeps s a) : Keeps s (State.keepCounters a old) := by
  unfold State.keepCounters
  refine h.to rfl rfl id rfl id (fun _ => ?_) (fun _ => ?_)
  · refine List.all_eq_true.2 (fun e he => ?_)
    obtain ⟨y, -, rfl⟩ := List.mem_map.1 (List.mem_filter.1 he).1
    rfl
  · refine List.all_eq_true.2 (fun e he => ?_)
    obtain ⟨y, -, rfl⟩ := List.mem_map.1 (List.mem_filter.1 he).1
    rfl

theorem State.resetForAttempt_keeps {s a : State} (h : Keeps s a) : Keeps s (State.resetForAttempt a) := by
  unfold State.resetForAttempt
  all_goals try dsimp only [State.takeFree, State.freshId]
  repeat' first
    | with_reducible assumption
    | (with_reducible apply State.keepCounters_keeps)
    | (with_reducible apply State.resetDomains_keeps)
    | (with_reducible refine Keeps.foldl ?_ ?_)
    | (with_reducible refine Keeps.foldlFst ?_ ?_)
    | (with_reducible refine Keeps.foldlSnd ?_ ?_)
    | (intro b x hb; try dsimp only [State.takeFree, State.freshId])
    | split
    | (apply Keeps.upd)
    | exact fun _ w => w
    | (intro b w; try dsimp only; (repeat' split) <;> first | exact w | (rw [Core.wf_iff] at *; exact w) | (simp only [Port.onLane_store, Port.discard_store, Port.acked_store]; exact w))
    | exact fun w => w
    | exact rfl
    | exact fun w => State.port_wf w
    | (intro w; simp only [Port.onLane_store, Port.discard_store, Port.acked_store]; exact State.port_wf w)

theorem State.armBoot_keeps {s a : State} (h : Keeps s a) : Keeps s (State.armBoot a) := by
  unfold State.armBoot
  all_goals try dsimp only [State.takeFree, State.freshId]
  repeat' first
    | with_reducible assumption
    | (with_reducible refine Keeps.foldl ?_ ?_)
    | (with_reducible refine Keeps.foldlFst ?_ ?_)
    | (with_reducible refine Keeps.foldlSnd ?_ ?_)
    | (intro b x hb; try dsimp only [State.takeFree, State.freshId])
    | split
    | (apply Keeps.upd)
    | exact fun _ w => w
    | (intro b w; try dsimp only; (repeat' split) <;> first | exact w | (rw [Core.wf_iff] at *; exact w) | (simp only [Port.onLane_store, Port.discard_store, Port.acked_store]; exact w))
    | exact fun w => w
    | exact rfl
    | exact fun w => State.port_wf w
    | (intro w; simp only [Port.onLane_store, Port.discard_store, Port.acked_store]; exact State.port_wf w)

theorem State.tamperReset_keeps {s a : State} (h : Keeps s a) : Keeps s (State.tamperReset a) := by
  unfold State.tamperReset
  all_goals try dsimp only [State.takeFree, State.freshId]
  repeat' first
    | with_reducible assumption
    | (with_reducible apply State.resetDomains_keeps)
    | (with_reducible apply State.cutProvision_keeps)
    | (with_reducible apply State.cutPlinth_keeps)
    | (with_reducible apply State.armBoot_keeps)
    | (with_reducible refine Keeps.foldl ?_ ?_)
    | (with_reducible refine Keeps.foldlFst ?_ ?_)
    | (with_reducible refine Keeps.foldlSnd ?_ ?_)
    | (intro b x hb; try dsimp only [State.takeFree, State.freshId])
    | split
    | (apply Keeps.upd)
    | exact fun _ w => w
    | (intro b w; try dsimp only; (repeat' split) <;> first | exact w | (rw [Core.wf_iff] at *; exact w) | (simp only [Port.onLane_store, Port.discard_store, Port.acked_store]; exact w))
    | exact fun w => w
    | exact rfl
    | exact fun w => State.port_wf w
    | (intro w; simp only [Port.onLane_store, Port.discard_store, Port.acked_store]; exact State.port_wf w)

theorem State.enterPlinth_keeps {s a : State} (why : ℕ) (h : Keeps s a) : Keeps s (State.enterPlinth a why) := by
  unfold State.enterPlinth
  all_goals try dsimp only [State.takeFree, State.freshId]
  repeat' first
    | with_reducible assumption
    | (with_reducible apply State.event_keeps)
    | (with_reducible refine Keeps.foldl ?_ ?_)
    | (with_reducible refine Keeps.foldlFst ?_ ?_)
    | (with_reducible refine Keeps.foldlSnd ?_ ?_)
    | (intro b x hb; try dsimp only [State.takeFree, State.freshId])
    | split
    | (apply Keeps.upd)
    | exact fun _ w => w
    | (intro b w; try dsimp only; (repeat' split) <;> first | exact w | (rw [Core.wf_iff] at *; exact w) | (simp only [Port.onLane_store, Port.discard_store, Port.acked_store]; exact w))
    | exact fun w => w
    | exact rfl
    | exact fun w => State.port_wf w
    | (intro w; simp only [Port.onLane_store, Port.discard_store, Port.acked_store]; exact State.port_wf w)

theorem State.romStage_keeps {s a : State} (env : Sys2Proof.BootEnv) (h : Keeps s a) : Keeps s (State.romStage a env).1 := by
  unfold State.romStage
  all_goals try dsimp only [State.takeFree, State.freshId]
  repeat' first
    | with_reducible assumption
    | (with_reducible refine Keeps.foldl ?_ ?_)
    | (with_reducible refine Keeps.foldlFst ?_ ?_)
    | (with_reducible refine Keeps.foldlSnd ?_ ?_)
    | (intro b x hb; try dsimp only [State.takeFree, State.freshId])
    | split
    | (apply Keeps.upd)
    | exact fun _ w => w
    | (intro b w; try dsimp only; (repeat' split) <;> first | exact w | (rw [Core.wf_iff] at *; exact w) | (simp only [Port.onLane_store, Port.discard_store, Port.acked_store]; exact w))
    | exact fun w => w
    | exact rfl
    | exact fun w => State.port_wf w
    | (intro w; simp only [Port.onLane_store, Port.discard_store, Port.acked_store]; exact State.port_wf w)

theorem State.flashStage_keeps {s a : State} (env : Sys2Proof.BootEnv) (h : Keeps s a) : Keeps s (State.flashStage a env).1 := by
  unfold State.flashStage
  all_goals try dsimp only [State.takeFree, State.freshId]
  repeat' first
    | with_reducible assumption
    | (with_reducible apply State.writeRecord_keeps)
    | (with_reducible refine Keeps.foldl ?_ ?_)
    | (with_reducible refine Keeps.foldlFst ?_ ?_)
    | (with_reducible refine Keeps.foldlSnd ?_ ?_)
    | (intro b x hb; try dsimp only [State.takeFree, State.freshId])
    | split
    | (apply Keeps.upd)
    | exact fun _ w => w
    | (intro b w; try dsimp only; (repeat' split) <;> first | exact w | (rw [Core.wf_iff] at *; exact w) | (simp only [Port.onLane_store, Port.discard_store, Port.acked_store]; exact w))
    | exact fun w => w
    | exact rfl
    | exact fun w => State.port_wf w
    | (intro w; simp only [Port.onLane_store, Port.discard_store, Port.acked_store]; exact State.port_wf w)

theorem State.imageStage_keeps {s a : State} (env : Sys2Proof.BootEnv) (h : Keeps s a) : Keeps s (State.imageStage a env).1 := by
  unfold State.imageStage
  all_goals try dsimp only [State.takeFree, State.freshId]
  repeat' first
    | with_reducible assumption
    | (with_reducible refine Keeps.foldl ?_ ?_)
    | (with_reducible refine Keeps.foldlFst ?_ ?_)
    | (with_reducible refine Keeps.foldlSnd ?_ ?_)
    | (intro b x hb; try dsimp only [State.takeFree, State.freshId])
    | split
    | (apply Keeps.upd)
    | exact fun _ w => w
    | (intro b w; try dsimp only; (repeat' split) <;> first | exact w | (rw [Core.wf_iff] at *; exact w) | (simp only [Port.onLane_store, Port.discard_store, Port.acked_store]; exact w))
    | exact fun w => w
    | exact rfl
    | exact fun w => State.port_wf w
    | (intro w; simp only [Port.onLane_store, Port.discard_store, Port.acked_store]; exact State.port_wf w)

theorem State.configStage_keeps {s a : State} (h : Keeps s a) : Keeps s (State.configStage a).1 := by
  unfold State.configStage
  all_goals try dsimp only [State.takeFree, State.freshId]
  repeat' first
    | with_reducible assumption
    | (with_reducible refine Keeps.foldl ?_ ?_)
    | (with_reducible refine Keeps.foldlFst ?_ ?_)
    | (with_reducible refine Keeps.foldlSnd ?_ ?_)
    | (intro b x hb; try dsimp only [State.takeFree, State.freshId])
    | split
    | (apply Keeps.upd)
    | exact fun _ w => w
    | (intro b w; try dsimp only; (repeat' split) <;> first | exact w | (rw [Core.wf_iff] at *; exact w) | (simp only [Port.onLane_store, Port.discard_store, Port.acked_store]; exact w))
    | exact fun w => w
    | exact rfl
    | exact fun w => State.port_wf w
    | (intro w; simp only [Port.onLane_store, Port.discard_store, Port.acked_store]; exact State.port_wf w)

theorem State.clocksStage_keeps {s a : State} (env : Sys2Proof.BootEnv) (h : Keeps s a) : Keeps s (State.clocksStage a env).1 := by
  unfold State.clocksStage
  all_goals try dsimp only [State.takeFree, State.freshId]
  repeat' first
    | with_reducible assumption
    | (with_reducible refine Keeps.foldl ?_ ?_)
    | (with_reducible refine Keeps.foldlFst ?_ ?_)
    | (with_reducible refine Keeps.foldlSnd ?_ ?_)
    | (intro b x hb; try dsimp only [State.takeFree, State.freshId])
    | split
    | (apply Keeps.upd)
    | exact fun _ w => w
    | (intro b w; try dsimp only; (repeat' split) <;> first | exact w | (rw [Core.wf_iff] at *; exact w) | (simp only [Port.onLane_store, Port.discard_store, Port.acked_store]; exact w))
    | exact fun w => w
    | exact rfl
    | exact fun w => State.port_wf w
    | (intro w; simp only [Port.onLane_store, Port.discard_store, Port.acked_store]; exact State.port_wf w)

theorem State.pcieStage_keeps {s a : State} (h : Keeps s a) : Keeps s (State.pcieStage a).1 := by
  unfold State.pcieStage
  all_goals try dsimp only [State.takeFree, State.freshId]
  repeat' first
    | with_reducible assumption
    | (with_reducible refine Keeps.foldl ?_ ?_)
    | (with_reducible refine Keeps.foldlFst ?_ ?_)
    | (with_reducible refine Keeps.foldlSnd ?_ ?_)
    | (intro b x hb; try dsimp only [State.takeFree, State.freshId])
    | split
    | (apply Keeps.upd)
    | exact fun _ w => w
    | (intro b w; try dsimp only; (repeat' split) <;> first | exact w | (rw [Core.wf_iff] at *; exact w) | (simp only [Port.onLane_store, Port.discard_store, Port.acked_store]; exact w))
    | exact fun w => w
    | exact rfl
    | exact fun w => State.port_wf w
    | (intro w; simp only [Port.onLane_store, Port.discard_store, Port.acked_store]; exact State.port_wf w)

theorem State.hbmStage_keeps {s a : State} (env : Sys2Proof.BootEnv) (h : Keeps s a) : Keeps s (State.hbmStage a env).1 := by
  unfold State.hbmStage
  all_goals try dsimp only [State.takeFree, State.freshId]
  repeat' first
    | with_reducible assumption
    | (with_reducible apply State.onCore_keeps)
    | (with_reducible apply State.hbmZero_keeps)
    | (with_reducible apply State.meetSoft_keeps)
    | (with_reducible refine Keeps.foldl ?_ ?_)
    | (with_reducible refine Keeps.foldlFst ?_ ?_)
    | (with_reducible refine Keeps.foldlSnd ?_ ?_)
    | (intro b x hb; try dsimp only [State.takeFree, State.freshId])
    | split
    | (apply Keeps.upd)
    | exact fun _ w => w
    | (intro b w; try dsimp only; (repeat' split) <;> first | exact w | (rw [Core.wf_iff] at *; exact w))
    | exact fun w => w
    | exact rfl

theorem State.storeOutcome_keeps {s a : State} (n : ℕ) (h : Keeps s a) : Keeps s (State.storeOutcome a n) := by
  unfold State.storeOutcome
  all_goals try dsimp only [State.takeFree, State.freshId]
  repeat' first
    | with_reducible assumption
    | (with_reducible apply State.event_keeps)
    | (with_reducible refine Keeps.foldl ?_ ?_)
    | (with_reducible refine Keeps.foldlFst ?_ ?_)
    | (with_reducible refine Keeps.foldlSnd ?_ ?_)
    | (intro b x hb; try dsimp only [State.takeFree, State.freshId])
    | split

theorem State.useStore_keeps {s a : State} (outcome : ℕ) (h : Keeps s a) : Keeps s (State.useStore a outcome) := by
  unfold State.useStore
  all_goals try dsimp only [State.takeFree, State.freshId]
  repeat' first
    | with_reducible assumption
    | (with_reducible apply State.resumeLog_keeps)
    | (with_reducible apply State.noteWear_keeps)
    | (with_reducible apply State.refreshObjects_keeps)
    | (with_reducible apply State.storeOutcome_keeps)
    | (with_reducible apply State.onStore_keeps)
    | (with_reducible refine Keeps.foldl ?_ ?_)
    | (with_reducible refine Keeps.foldlFst ?_ ?_)
    | (with_reducible refine Keeps.foldlSnd ?_ ?_)
    | (intro b x hb; try dsimp only [State.takeFree, State.freshId])
    | split

theorem State.logTargets_keeps {s a : State} (bad : List (Sys2Proof.NandTarget × ℕ)) (h : Keeps s a) : Keeps s (State.logTargets a bad) := by
  unfold State.logTargets
  all_goals try dsimp only [State.takeFree, State.freshId]
  repeat' first
    | with_reducible assumption
    | (with_reducible apply State.event_keeps)
    | (with_reducible refine Keeps.foldl ?_ ?_)
    | (with_reducible refine Keeps.foldlFst ?_ ?_)
    | (with_reducible refine Keeps.foldlSnd ?_ ?_)
    | (intro b x hb; try dsimp only [State.takeFree, State.freshId])
    | split

theorem State.takeTargets_keeps {s a : State} (good : List NandTarget) (first : NandTarget) (rate : Nat) (h : Keeps s a) : Keeps s (State.takeTargets a good first rate) := by
  unfold State.takeTargets
  exact State.onStore_keeps _ (Keeps.ite (State.event_keeps _ _ _ _ _ h) h)

theorem State.formatted_keeps {s a : State} (o : Option StoreSt) (h : Keeps s a) : Keeps s (State.formatted a o) := by
  unfold State.formatted
  split
  · exact State.resumeLog_keeps _ (State.noteWear_keeps (State.useStore_keeps _ (Keeps.foldl (h.to rfl rfl id rfl id id id)
      (fun _ _ hb => State.event_keeps _ _ _ _ _ hb))))
  · exact State.storeOutcome_keeps _ h

theorem State.formatStore_keeps {s a : State} (good : List NandTarget) (grown : List Nat) (h : Keeps s a) :
    Keeps s (State.formatStore a good grown) := by
  unfold State.formatStore
  exact State.formatted_keeps _ (State.takeFree_keeps h)

theorem State.loseMeta_keeps {s a : State} (bad : List ℕ) (h : Keeps s a) : Keeps s (State.loseMeta a bad) := by
  unfold State.loseMeta
  all_goals try dsimp only [State.takeFree, State.freshId]
  repeat' first
    | with_reducible assumption
    | (with_reducible apply State.lostCodewords_keeps)
    | (with_reducible refine Keeps.foldl ?_ ?_)
    | (with_reducible refine Keeps.foldlFst ?_ ?_)
    | (with_reducible refine Keeps.foldlSnd ?_ ?_)
    | (intro b x hb; try dsimp only [State.takeFree, State.freshId])
    | split

theorem State.loseLog_keeps {s a : State} (bad : List ℕ) (h : Keeps s a) : Keeps s (State.loseLog a bad) := by
  unfold State.loseLog
  exact State.lostCodewords_keeps _ h

theorem State.mountStore_keeps {s a : State} (r : Sys2Proof.Machine.SuperRec) (copies : List (ℕ × Sys2Proof.Machine.SuperRec)) (bad : List ℕ) (h : Keeps s a) : Keeps s (State.mountStore a r copies bad) := by
  unfold State.mountStore
  exact State.loseLog_keeps _ (State.resumeLog_keeps _ (State.noteWear_keeps (State.loseMeta_keeps _ (State.useStore_keeps _ (Keeps.foldl
    (Keeps.foldl (h.to rfl rfl id rfl id id id) (fun _ _ hb => State.checkWorn_keeps _ hb)) (fun _ _ hb => State.event_keeps _ _ _ _ _ hb))))))

theorem State.openStore_keeps {s a : State} (badCopies : List (Fin 16)) (bad : List Nat) (good : List NandTarget) (h : Keeps s a) :
    Keeps s (State.openStore a badCopies bad good) := by
  have k : ∀ f, Keeps s (a.onStore f) := fun f => State.onStore_keeps f h
  unfold State.openStore
  dsimp only
  split
  · exact State.mountStore_keeps _ _ _ (k _)
  · exact Keeps.ite (State.storeOutcome_keeps _ (k _)) (State.formatStore_keeps _ _ (State.onStore_keeps _ (k _)))

theorem State.storeStage_keeps {s a : State} (env : BootEnv) (h : Keeps s a) : Keeps s (State.storeStage a env) := by
  unfold State.storeStage
  have k : ∀ l, Keeps s (State.logTargets a l) := fun l => State.logTargets_keeps l h
  dsimp only
  split
  · exact State.storeOutcome_keeps _ h
  · split
    · exact State.openStore_keeps _ _ _ (State.takeTargets_keeps _ _ _ (k _))
    · exact State.storeOutcome_keeps _ (k _)

theorem State.spanStage_keeps {s a : State} (h : Keeps s a) : Keeps s (State.spanStage a) := by
  unfold State.spanStage
  all_goals try dsimp only [State.takeFree, State.freshId]
  repeat' first
    | with_reducible assumption
    | (with_reducible apply State.onPort_keeps)
    | (with_reducible refine Keeps.foldl ?_ ?_)
    | (with_reducible refine Keeps.foldlFst ?_ ?_)
    | (with_reducible refine Keeps.foldlSnd ?_ ?_)
    | (intro b x hb; try dsimp only [State.takeFree, State.freshId])
    | split
    | (apply Keeps.upd)
    | exact fun _ w => w
    | (intro b w; try dsimp only; (repeat' split) <;> first | exact w | (rw [Core.wf_iff] at *; exact w) | (simp only [Port.onLane_store, Port.discard_store, Port.acked_store]; exact w))
    | exact fun w => w
    | exact rfl
    | exact fun w => State.port_wf w
    | (intro w; simp only [Port.onLane_store, Port.discard_store, Port.acked_store]; exact State.port_wf w)

theorem State.rostersStage_keeps {s a : State} (h : Keeps s a) : Keeps s (State.rostersStage a) := by
  unfold State.rostersStage
  all_goals try dsimp only [State.takeFree, State.freshId]
  repeat' first
    | with_reducible assumption
    | (with_reducible apply State.hbmWrite_keeps)
    | (with_reducible apply State.meetSoft_keeps)
    | (with_reducible apply State.event_keeps)
    | (with_reducible refine Keeps.foldl ?_ ?_)
    | (with_reducible refine Keeps.foldlFst ?_ ?_)
    | (with_reducible refine Keeps.foldlSnd ?_ ?_)
    | (intro b x hb; try dsimp only [State.takeFree, State.freshId])
    | split
    | (apply Keeps.upd)
    | exact fun _ w => w
    | (intro b w; try dsimp only; (repeat' split) <;> first | exact w | (rw [Core.wf_iff] at *; exact w) | (simp only [Port.onLane_store, Port.discard_store, Port.acked_store]; exact w))
    | exact fun w => w
    | exact rfl
    | exact fun w => State.port_wf w
    | (intro w; simp only [Port.onLane_store, Port.discard_store, Port.acked_store]; exact State.port_wf w)

theorem State.completeBoot_keeps {s a : State} (recordWriteOk : Bool) (h : Keeps s a) : Keeps s (State.completeBoot a recordWriteOk) := by
  unfold State.completeBoot
  all_goals try dsimp only [State.takeFree, State.freshId]
  repeat' first
    | with_reducible assumption
    | (with_reducible apply State.writeRecord_keeps)
    | (with_reducible apply State.event_keeps)
    | (with_reducible apply State.startShutdown_keeps)
    | (with_reducible refine Keeps.foldl ?_ ?_)
    | (with_reducible refine Keeps.foldlFst ?_ ?_)
    | (with_reducible refine Keeps.foldlSnd ?_ ?_)
    | (intro b x hb; try dsimp only [State.takeFree, State.freshId])
    | split
    | (apply Keeps.upd)
    | exact fun _ w => w
    | (intro b w; try dsimp only; (repeat' split) <;> first | exact w | (rw [Core.wf_iff] at *; exact w) | (simp only [Port.onLane_store, Port.discard_store, Port.acked_store]; exact w))
    | exact fun w => w
    | exact rfl
    | exact fun w => State.port_wf w
    | (intro w; simp only [Port.onLane_store, Port.discard_store, Port.acked_store]; exact State.port_wf w)

theorem State.failAttempt_keeps {s a : State} (reason : ℕ) (recordWriteOk : Bool) (h : Keeps s a) : Keeps s (State.failAttempt a reason recordWriteOk) := by
  unfold State.failAttempt
  all_goals try dsimp only [State.takeFree, State.freshId]
  repeat' first
    | with_reducible assumption
    | (with_reducible apply State.event_keeps)
    | (with_reducible apply State.enterPlinth_keeps)
    | (with_reducible apply State.writeRecord_keeps)
    | (with_reducible apply State.resetForAttempt_keeps)
    | (with_reducible refine Keeps.foldl ?_ ?_)
    | (with_reducible refine Keeps.foldlFst ?_ ?_)
    | (with_reducible refine Keeps.foldlSnd ?_ ?_)
    | (intro b x hb; try dsimp only [State.takeFree, State.freshId])
    | split
    | (apply Keeps.upd)
    | exact fun _ w => w
    | (intro b w; try dsimp only; (repeat' split) <;> first | exact w | (rw [Core.wf_iff] at *; exact w) | (simp only [Port.onLane_store, Port.discard_store, Port.acked_store]; exact w))
    | exact fun w => w
    | exact rfl
    | exact fun w => State.port_wf w
    | (intro w; simp only [Port.onLane_store, Port.discard_store, Port.acked_store]; exact State.port_wf w)

theorem State.stageWork_keeps {s a : State} (env : BootEnv) (k : Nat) (h : Keeps s a) : Keeps s (a.stageWork env k).1 := by
  unfold State.stageWork
  split
  · exact State.romStage_keeps _ h
  · exact State.flashStage_keeps _ h
  · exact State.imageStage_keeps _ h
  · exact State.configStage_keeps h
  · exact State.clocksStage_keeps _ h
  · exact State.pcieStage_keeps h
  · exact State.hbmStage_keeps _ h
  · dsimp only
    exact State.storeStage_keeps _ h
  · dsimp only
    exact State.spanStage_keeps h
  · dsimp only
    exact State.rostersStage_keeps h
  · exact h

theorem State.runStages_keeps {s : State} (env : BootEnv) : ∀ (l : List Nat) (a : State), Keeps s a → Keeps s (State.runStages env l a) := by
  intro l
  induction l with
  | nil => exact fun _ h => State.completeBoot_keeps _ h
  | cons k l ih =>
    intro a h
    have h1 : Keeps s (a.enterStage env k) :=
      h.to rfl rfl id rfl id id id
    unfold State.runStages
    dsimp only
    split
    · exact h1
    · have h2 := State.stageWork_keeps env k h1
      split
      · exact ih _ h2
      · exact State.failAttempt_keeps _ _ h2
      · exact State.enterPlinth_keeps _ h2
      · exact State.tamperReset_keeps h2

theorem State.beginAttempt_keeps {s a : State} (flashAnswers : Bool) (h : Keeps s a) : Keeps s (State.beginAttempt a flashAnswers) := by
  unfold State.beginAttempt
  all_goals try dsimp only [State.takeFree, State.freshId]
  repeat' first
    | with_reducible assumption
    | (with_reducible apply State.clearLog_keeps)
    | (with_reducible apply State.event_keeps)
    | (with_reducible refine Keeps.foldl ?_ ?_)
    | (with_reducible refine Keeps.foldlFst ?_ ?_)
    | (with_reducible refine Keeps.foldlSnd ?_ ?_)
    | (intro b x hb; try dsimp only [State.takeFree, State.freshId])
    | split
    | (apply Keeps.upd)
    | exact fun _ w => w
    | (intro b w; try dsimp only; (repeat' split) <;> first | exact w | (rw [Core.wf_iff] at *; exact w) | (simp only [Port.onLane_store, Port.discard_store, Port.acked_store]; exact w))
    | exact fun w => w
    | exact rfl
    | exact fun w => State.port_wf w
    | (intro w; simp only [Port.onLane_store, Port.discard_store, Port.acked_store]; exact State.port_wf w)

theorem State.ignoreRwp_keeps {s a : State} (h : Keeps s a) : Keeps s (State.ignoreRwp a) := by
  unfold State.ignoreRwp
  all_goals try dsimp only [State.takeFree, State.freshId]
  repeat' first
    | with_reducible assumption
    | (with_reducible apply State.answer_keeps)
    | (with_reducible refine Keeps.foldl ?_ ?_)
    | (with_reducible refine Keeps.foldlFst ?_ ?_)
    | (with_reducible refine Keeps.foldlSnd ?_ ?_)
    | (intro b x hb; try dsimp only [State.takeFree, State.freshId])
    | split
    | (apply Keeps.upd)
    | exact fun _ w => w
    | (intro b w; try dsimp only; (repeat' split) <;> first | exact w | (rw [Core.wf_iff] at *; exact w) | (simp only [Port.onLane_store, Port.discard_store, Port.acked_store]; exact w))
    | exact fun w => w
    | exact rfl
    | exact fun w => State.port_wf w
    | (intro w; simp only [Port.onLane_store, Port.discard_store, Port.acked_store]; exact State.port_wf w)

theorem State.plinthEnd_keeps {s a : State} (result : ℕ) (reason : ℕ) (h : Keeps s a) : Keeps s (State.plinthEnd a result reason) := by
  unfold State.plinthEnd
  all_goals try dsimp only [State.takeFree, State.freshId]
  repeat' first
    | with_reducible assumption
    | (with_reducible refine Keeps.foldl ?_ ?_)
    | (with_reducible refine Keeps.foldlFst ?_ ?_)
    | (with_reducible refine Keeps.foldlSnd ?_ ?_)
    | (intro b x hb; try dsimp only [State.takeFree, State.freshId])
    | split
    | (apply Keeps.upd)
    | exact fun _ w => w
    | (intro b w; try dsimp only; (repeat' split) <;> first | exact w | (rw [Core.wf_iff] at *; exact w) | (simp only [Port.onLane_store, Port.discard_store, Port.acked_store]; exact w))
    | exact fun w => w
    | exact rfl
    | exact fun w => State.port_wf w
    | (intro w; simp only [Port.onLane_store, Port.discard_store, Port.acked_store]; exact State.port_wf w)

theorem State.plinthRun_keeps {s a : State} (c : Sys2Proof.Machine.PlinthRun) (h : Keeps s a) : Keeps s (State.plinthRun a c) := by
  unfold State.plinthRun
  all_goals try dsimp only [State.takeFree, State.freshId]
  repeat' first
    | with_reducible assumption
    | (with_reducible refine Keeps.foldl ?_ ?_)
    | (with_reducible refine Keeps.foldlFst ?_ ?_)
    | (with_reducible refine Keeps.foldlSnd ?_ ?_)
    | (intro b x hb; try dsimp only [State.takeFree, State.freshId])
    | split
    | (apply Keeps.upd)
    | exact fun _ w => w
    | (intro b w; try dsimp only; (repeat' split) <;> first | exact w | (rw [Core.wf_iff] at *; exact w) | (simp only [Port.onLane_store, Port.discard_store, Port.acked_store]; exact w))
    | exact fun w => w
    | exact rfl
    | exact fun w => State.port_wf w
    | (intro w; simp only [Port.onLane_store, Port.discard_store, Port.acked_store]; exact State.port_wf w)

theorem State.plinthRestart_keeps {s a : State} (h : Keeps s a) : Keeps s (State.plinthRestart a) := by
  unfold State.plinthRestart
  all_goals try dsimp only [State.takeFree, State.freshId]
  repeat' first
    | with_reducible assumption
    | (with_reducible apply State.writeRecord_keeps)
    | (with_reducible apply State.resetForAttempt_keeps)
    | (with_reducible refine Keeps.foldl ?_ ?_)
    | (with_reducible refine Keeps.foldlFst ?_ ?_)
    | (with_reducible refine Keeps.foldlSnd ?_ ?_)
    | (intro b x hb; try dsimp only [State.takeFree, State.freshId])
    | split
    | (apply Keeps.upd)
    | exact fun _ w => w
    | (intro b w; try dsimp only; (repeat' split) <;> first | exact w | (rw [Core.wf_iff] at *; exact w) | (simp only [Port.onLane_store, Port.discard_store, Port.acked_store]; exact w))
    | exact fun w => w
    | exact rfl
    | exact fun w => State.port_wf w
    | (intro w; simp only [Port.onLane_store, Port.discard_store, Port.acked_store]; exact State.port_wf w)

theorem State.startPlinth_keeps {s a : State} (cmd : ℕ) (h : Keeps s a) : Keeps s (State.startPlinth a cmd) := by
  unfold State.startPlinth
  all_goals try dsimp only [State.takeFree, State.freshId]
  repeat' first
    | with_reducible assumption
    | (with_reducible apply State.plinthEnd_keeps)
    | (with_reducible apply State.plinthRun_keeps)
    | (with_reducible apply State.plinthRestart_keeps)
    | (with_reducible refine Keeps.foldl ?_ ?_)
    | (with_reducible refine Keeps.foldlFst ?_ ?_)
    | (with_reducible refine Keeps.foldlSnd ?_ ?_)
    | (intro b x hb; try dsimp only [State.takeFree, State.freshId])
    | split

theorem State.plinthWrite_keeps {s a : State} (cmd : ℕ) (h : Keeps s a) : Keeps s (State.plinthWrite a cmd) := by
  unfold State.plinthWrite
  all_goals try dsimp only [State.takeFree, State.freshId]
  repeat' first
    | with_reducible assumption
    | (with_reducible apply State.answer_keeps)
    | (with_reducible apply State.startPlinth_keeps)
    | (with_reducible refine Keeps.foldl ?_ ?_)
    | (with_reducible refine Keeps.foldlFst ?_ ?_)
    | (with_reducible refine Keeps.foldlSnd ?_ ?_)
    | (intro b x hb; try dsimp only [State.takeFree, State.freshId])
    | split
    | (apply Keeps.upd)
    | exact fun _ w => w
    | (intro b w; try dsimp only; (repeat' split) <;> first | exact w | (rw [Core.wf_iff] at *; exact w) | (simp only [Port.onLane_store, Port.discard_store, Port.acked_store]; exact w))
    | exact fun w => w
    | exact rfl
    | exact fun w => State.port_wf w
    | (intro w; simp only [Port.onLane_store, Port.discard_store, Port.acked_store]; exact State.port_wf w)

theorem State.plinthCommand_keeps {s a : State} (cmd : ℕ) (h : Keeps s a) : Keeps s (State.plinthCommand a cmd) := by
  unfold State.plinthCommand
  all_goals try dsimp only [State.takeFree, State.freshId]
  repeat' first
    | with_reducible assumption
    | (with_reducible apply State.answer_keeps)
    | (with_reducible apply State.ignoreRwp_keeps)
    | (with_reducible apply State.plinthWrite_keeps)
    | (with_reducible refine Keeps.foldl ?_ ?_)
    | (with_reducible refine Keeps.foldlFst ?_ ?_)
    | (with_reducible refine Keeps.foldlSnd ?_ ?_)
    | (intro b x hb; try dsimp only [State.takeFree, State.freshId])
    | split

theorem State.plinthDone_keeps {s a : State} (c : PlinthRun) (ok : Bool) (h : Keeps s a) : Keeps s (State.plinthDone a c ok) := by
  unfold State.plinthDone
  dsimp only
  split
  · exact State.plinthEnd_keeps _ _ (h.to rfl rfl id rfl (Rom.erase_wf _ _) id id)
  · exact State.plinthEnd_keeps _ _ (h.to rfl rfl id rfl (Rom.program_wf _ _) id id)
  · refine State.plinthEnd_keeps _ _ (h.to rfl rfl id rfl (fun w => ?_) id id)
    rw [Rom.wf_iff] at w ⊢
    exact ⟨w.1, Tbl.wf_putRun _ _ _ w.2⟩
  · split
    · exact State.plinthEnd_keeps _ _ h
    · exact State.plinthEnd_keeps _ _ h
  · exact State.plinthEnd_keeps _ _ (State.spoilFlash_keeps h)
  · exact State.plinthEnd_keeps _ _ (State.spoilFlash_keeps h)
  · exact State.plinthEnd_keeps _ _ h
  · exact State.plinthEnd_keeps _ _ h

theorem State.writePlinthArg_keeps {s a : State} (o : Nat) (value : W32) (be : BitVec 4) (h : Keeps s a) : Keeps s (State.writePlinthArg a o value be) := by
  unfold State.writePlinthArg
  have k1 : ∀ v, Keeps s { a with rom := { a.rom with off := v } } := fun v => h.to rfl rfl id rfl id id id
  have k2 : ∀ v, Keeps s { a with rom := { a.rom with len := v } } := fun v => h.to rfl rfl id rfl id id id
  refine State.answer_keeps _ ?_
  split
  · exact k1 _
  · exact k2 _

theorem State.writePlinthReg_keeps {s a : State} (o : ℕ) (value : Sys2Proof.W32) (be : BitVec 4) (h : Keeps s a) : Keeps s (State.writePlinthReg a o value be) := by
  unfold State.writePlinthReg
  all_goals try dsimp only [State.takeFree, State.freshId]
  repeat' first
    | with_reducible assumption
    | (with_reducible apply State.plinthWrite_keeps)
    | (with_reducible apply State.ignoreWrite_keeps)
    | (with_reducible apply State.writePlinthArg_keeps)
    | (with_reducible apply State.ignoreRwp_keeps)
    | (with_reducible apply State.answer_keeps)
    | (with_reducible refine Keeps.foldl ?_ ?_)
    | (with_reducible refine Keeps.foldlFst ?_ ?_)
    | (with_reducible refine Keeps.foldlSnd ?_ ?_)
    | (intro b x hb; try dsimp only [State.takeFree, State.freshId])
    | split

theorem State.regionWrite_keeps {s a : State} (fn : Nat) (b : Block) (r : Region) (o : Nat) (bs : List Byte) (h : Keeps s a) : Keeps s (State.regionWrite a fn b r o bs) := by
  unfold State.regionWrite
  split
  · exact State.answer_keeps _ h
  · exact State.ignoreWrite_keeps h
  · exact Keeps.ite (State.ignoreWrite_keeps h) (State.answer_keeps _ h)
  · exact Keeps.ite (State.ignoreWrite_keeps h) (State.inOrder_keeps _ _ h (State.takeSlots_keeps _ _ _ h))

theorem State.slotsAhead_keeps {s a : State} (h : Keeps s a) : Keeps s (State.slotsAhead a) := by
  unfold State.slotsAhead
  all_goals try dsimp only [State.takeFree, State.freshId]
  repeat' first
    | with_reducible assumption
    | (with_reducible apply State.takeSlots_keeps)
    | (with_reducible refine Keeps.foldl ?_ ?_)
    | (with_reducible refine Keeps.foldlFst ?_ ?_)
    | (with_reducible refine Keeps.foldlSnd ?_ ?_)
    | (intro b x hb; try dsimp only [State.takeFree, State.freshId])
    | split

theorem State.writeWord_keeps {s a : State} (fn : ℕ) (o : ℕ) (value : Sys2Proof.W32) (be : BitVec 4) (h : Keeps s a) : Keeps s (State.writeWord a fn o value be) := by
  unfold State.writeWord
  all_goals try dsimp only [State.takeFree, State.freshId]
  repeat' first
    | with_reducible assumption
    | (with_reducible apply State.answer_keeps)
    | (with_reducible apply State.regionWrite_keeps)
    | (with_reducible apply State.writeIndex_keeps)
    | (with_reducible apply State.writeReqPi_keeps)
    | (with_reducible apply State.writeRspCi_keeps)
    | (with_reducible apply State.writeDb_keeps)
    | (with_reducible apply State.ignoreWrite_keeps)
    | (with_reducible apply State.writePlinthReg_keeps)
    | (with_reducible refine Keeps.foldl ?_ ?_)
    | (with_reducible refine Keeps.foldlFst ?_ ?_)
    | (with_reducible refine Keeps.foldlSnd ?_ ?_)
    | (intro b x hb; try dsimp only [State.takeFree, State.freshId])
    | split

theorem State.bothHalves_keeps {s a : State} (first : Sys2Proof.Machine.Completion) (h : Keeps s a) : Keeps s (State.bothHalves a first) := by
  unfold State.bothHalves
  all_goals try dsimp only [State.takeFree, State.freshId]
  repeat' first
    | with_reducible assumption
    | (with_reducible apply State.answer_keeps)
    | (with_reducible refine Keeps.foldl ?_ ?_)
    | (with_reducible refine Keeps.foldlFst ?_ ?_)
    | (with_reducible refine Keeps.foldlSnd ?_ ?_)
    | (intro b x hb; try dsimp only [State.takeFree, State.freshId])
    | split

theorem State.writePair_keeps {s a : State} (fn : ℕ) (o : ℕ) (lo : Sys2Proof.W32) (hi : Sys2Proof.W32) (beLo : BitVec 4) (beHi : BitVec 4) (h : Keeps s a) : Keeps s (State.writePair a fn o lo hi beLo beHi) := by
  unfold State.writePair
  all_goals try dsimp only [State.takeFree, State.freshId]
  repeat' first
    | with_reducible assumption
    | (with_reducible apply State.writeWord_keeps)
    | (with_reducible apply State.bothHalves_keeps)
    | (with_reducible apply State.crossing_keeps)
    | (with_reducible refine Keeps.foldl ?_ ?_)
    | (with_reducible refine Keeps.foldlFst ?_ ?_)
    | (with_reducible refine Keeps.foldlSnd ?_ ?_)
    | (intro b x hb; try dsimp only [State.takeFree, State.freshId])
    | split

theorem State.writeBytes_keeps {s a : State} (fn : ℕ) (o : ℕ) (bs : List Sys2Proof.Byte) (h : Keeps s a) : Keeps s (State.writeBytes a fn o bs) := by
  unfold State.writeBytes
  all_goals try dsimp only [State.takeFree, State.freshId]
  repeat' first
    | with_reducible assumption
    | (with_reducible apply State.answer_keeps)
    | (with_reducible apply State.writeWord_keeps)
    | (with_reducible apply State.writePair_keeps)
    | (with_reducible apply State.crossing_keeps)
    | (with_reducible refine Keeps.foldl ?_ ?_)
    | (with_reducible refine Keeps.foldlFst ?_ ?_)
    | (with_reducible refine Keeps.foldlSnd ?_ ?_)
    | (intro b x hb; try dsimp only [State.takeFree, State.freshId])
    | split

theorem State.tapHalt_keeps {s a : State} (h : Keeps s a) : Keeps s (State.tapHalt a) := by
  unfold State.tapHalt
  all_goals try dsimp only [State.takeFree, State.freshId]
  repeat' first
    | with_reducible assumption
    | (with_reducible apply State.onStore_keeps)
    | (with_reducible apply State.haltStaging_keeps)
    | (with_reducible apply State.haltTick_keeps)
    | (with_reducible apply State.stopSpires_keeps)
    | (with_reducible refine Keeps.foldl ?_ ?_)
    | (with_reducible refine Keeps.foldlFst ?_ ?_)
    | (with_reducible refine Keeps.foldlSnd ?_ ?_)
    | (intro b x hb; try dsimp only [State.takeFree, State.freshId])
    | split
    | (apply Keeps.upd)
    | exact fun _ w => w
    | (intro b w; try dsimp only; (repeat' split) <;> first | exact w | (rw [Core.wf_iff] at *; exact w) | (simp only [Port.onLane_store, Port.discard_store, Port.acked_store]; exact w))
    | exact fun w => w
    | exact rfl
    | exact fun w => State.port_wf w
    | (intro w; simp only [Port.onLane_store, Port.discard_store, Port.acked_store]; exact State.port_wf w)

theorem State.load_keeps {s a : State} (op : ℕ) (always : Bool) (h : Keeps s a) : Keeps s (State.load a op always) := by
  unfold State.load
  all_goals try dsimp only [State.takeFree, State.freshId]
  repeat' first
    | with_reducible assumption
    | (with_reducible apply State.dueEdge_keeps)
    | (with_reducible apply State.linkDown_keeps)
    | (with_reducible apply State.tapHalt_keeps)
    | (with_reducible refine Keeps.foldl ?_ ?_)
    | (with_reducible refine Keeps.foldlFst ?_ ?_)
    | (with_reducible refine Keeps.foldlSnd ?_ ?_)
    | (intro b x hb; try dsimp only [State.takeFree, State.freshId])
    | split
    | (apply Keeps.upd)
    | exact fun _ w => w
    | (intro b w; try dsimp only; (repeat' split) <;> first | exact w | (rw [Core.wf_iff] at *; exact w) | (simp only [Port.onLane_store, Port.discard_store, Port.acked_store]; exact w))
    | exact fun w => w
    | exact rfl
    | exact fun w => State.port_wf w
    | (intro w; simp only [Port.onLane_store, Port.discard_store, Port.acked_store]; exact State.port_wf w)

theorem State.capture_keeps {s a : State} (bits : ℕ) (h : Keeps s a) : Keeps s (State.capture a bits) := by
  unfold State.capture
  all_goals try dsimp only [State.takeFree, State.freshId]
  repeat' first
    | with_reducible assumption
    | (with_reducible refine Keeps.foldl ?_ ?_)
    | (with_reducible refine Keeps.foldlFst ?_ ?_)
    | (with_reducible refine Keeps.foldlSnd ?_ ?_)
    | (intro b x hb; try dsimp only [State.takeFree, State.freshId])
    | split
    | (apply Keeps.upd)
    | exact fun _ w => w
    | (intro b w; try dsimp only; (repeat' split) <;> first | exact w | (rw [Core.wf_iff] at *; exact w) | (simp only [Port.onLane_store, Port.discard_store, Port.acked_store]; exact w))
    | exact fun w => w
    | exact rfl
    | exact fun w => State.port_wf w
    | (intro w; simp only [Port.onLane_store, Port.discard_store, Port.acked_store]; exact State.port_wf w)

theorem State.captureFree_keeps {s a : State} (h : Keeps s a) : Keeps s (State.captureFree a) := by
  unfold State.captureFree
  all_goals try dsimp only [State.takeFree, State.freshId]
  repeat' first
    | with_reducible assumption
    | (with_reducible apply State.takeFree_keeps)
    | (with_reducible refine Keeps.snd (State.takeFree_keeps (h := ?_) ..) (by with_reducible assumption))
    | (with_reducible apply State.capture_keeps)
    | (with_reducible refine Keeps.foldl ?_ ?_)
    | (with_reducible refine Keeps.foldlFst ?_ ?_)
    | (with_reducible refine Keeps.foldlSnd ?_ ?_)
    | (intro b x hb; try dsimp only [State.takeFree, State.freshId])
    | split
    | (apply Keeps.upd)
    | exact fun _ w => w
    | (intro b w; try dsimp only; (repeat' split) <;> first | exact w | (rw [Core.wf_iff] at *; exact w))
    | exact fun w => w
    | exact rfl

theorem State.capturePins_keeps {s a : State} (pins : BitVec 1378) (h : Keeps s a) : Keeps s (State.capturePins a pins) := by
  unfold State.capturePins
  all_goals try dsimp only [State.takeFree, State.freshId]
  repeat' first
    | with_reducible assumption
    | (with_reducible apply State.capture_keeps)
    | (with_reducible refine Keeps.foldl ?_ ?_)
    | (with_reducible refine Keeps.foldlFst ?_ ?_)
    | (with_reducible refine Keeps.foldlSnd ?_ ?_)
    | (intro b x hb; try dsimp only [State.takeFree, State.freshId])
    | split
    | (apply Keeps.upd)
    | exact fun _ w => w
    | (intro b w; try dsimp only; (repeat' split) <;> first | exact w | (rw [Core.wf_iff] at *; exact w))
    | exact fun w => w
    | exact rfl

theorem State.updateCells_keeps {s a : State} (din : BitVec 1378) (h : Keeps s a) : Keeps s (State.updateCells a din) := by
  unfold State.updateCells
  all_goals try dsimp only [State.takeFree, State.freshId]
  repeat' first
    | with_reducible assumption
    | (with_reducible refine Keeps.foldl ?_ ?_)
    | (with_reducible refine Keeps.foldlFst ?_ ?_)
    | (with_reducible refine Keeps.foldlSnd ?_ ?_)
    | (intro b x hb; try dsimp only [State.takeFree, State.freshId])
    | split
    | (apply Keeps.upd)
    | exact fun _ w => w
    | (intro b w; try dsimp only; (repeat' split) <;> first | exact w | (rw [Core.wf_iff] at *; exact w) | (simp only [Port.onLane_store, Port.discard_store, Port.acked_store]; exact w))
    | exact fun w => w
    | exact rfl
    | exact fun w => State.port_wf w
    | (intro w; simp only [Port.onLane_store, Port.discard_store, Port.acked_store]; exact State.port_wf w)

theorem State.bypass_keeps {s a : State} (h : Keeps s a) : Keeps s (State.bypass a) := by
  unfold State.bypass
  all_goals try dsimp only [State.takeFree, State.freshId]
  repeat' first
    | with_reducible assumption
    | (with_reducible apply State.capture_keeps)
    | (with_reducible apply State.load_keeps)
    | (with_reducible refine Keeps.foldl ?_ ?_)
    | (with_reducible refine Keeps.foldlFst ?_ ?_)
    | (with_reducible refine Keeps.foldlSnd ?_ ?_)
    | (intro b x hb; try dsimp only [State.takeFree, State.freshId])
    | split

theorem State.provResult_keeps {s a : State} (r : ℕ) (h : Keeps s a) : Keeps s (State.provResult a r) := by
  unfold State.provResult
  all_goals try dsimp only [State.takeFree, State.freshId]
  repeat' first
    | with_reducible assumption
    | (with_reducible refine Keeps.foldl ?_ ?_)
    | (with_reducible refine Keeps.foldlFst ?_ ?_)
    | (with_reducible refine Keeps.foldlSnd ?_ ?_)
    | (intro b x hb; try dsimp only [State.takeFree, State.freshId])
    | split
    | (apply Keeps.upd)
    | exact fun _ w => w
    | (intro b w; try dsimp only; (repeat' split) <;> first | exact w | (rw [Core.wf_iff] at *; exact w) | (simp only [Port.onLane_store, Port.discard_store, Port.acked_store]; exact w))
    | exact fun w => w
    | exact rfl
    | exact fun w => State.port_wf w
    | (intro w; simp only [Port.onLane_store, Port.discard_store, Port.acked_store]; exact State.port_wf w)

theorem State.provStart_keeps {s a : State} (j : Sys2Proof.Machine.ProvJob) (h : Keeps s a) : Keeps s (State.provStart a j) := by
  unfold State.provStart
  all_goals try dsimp only [State.takeFree, State.freshId]
  repeat' first
    | with_reducible assumption
    | (with_reducible refine Keeps.foldl ?_ ?_)
    | (with_reducible refine Keeps.foldlFst ?_ ?_)
    | (with_reducible refine Keeps.foldlSnd ?_ ?_)
    | (intro b x hb; try dsimp only [State.takeFree, State.freshId])
    | split
    | (apply Keeps.upd)
    | exact fun _ w => w
    | (intro b w; try dsimp only; (repeat' split) <;> first | exact w | (rw [Core.wf_iff] at *; exact w) | (simp only [Port.onLane_store, Port.discard_store, Port.acked_store]; exact w))
    | exact fun w => w
    | exact rfl
    | exact fun w => State.port_wf w
    | (intro w; simp only [Port.onLane_store, Port.discard_store, Port.acked_store]; exact State.port_wf w)

theorem State.updateSlot_keeps {s a : State} (din : BitVec 392) (h : Keeps s a) : Keeps s (State.updateSlot a din) := by
  unfold State.updateSlot
  all_goals try dsimp only [State.takeFree, State.freshId]
  repeat' first
    | with_reducible assumption
    | (with_reducible apply State.provResult_keeps)
    | (with_reducible apply State.provStart_keeps)
    | (with_reducible refine Keeps.foldl ?_ ?_)
    | (with_reducible refine Keeps.foldlFst ?_ ?_)
    | (with_reducible refine Keeps.foldlSnd ?_ ?_)
    | (intro b x hb; try dsimp only [State.takeFree, State.freshId])
    | split

theorem State.captureKey_keeps {s a : State} (h : Keeps s a) : Keeps s (State.captureKey a) := by
  unfold State.captureKey
  all_goals try dsimp only [State.takeFree, State.freshId]
  repeat' first
    | with_reducible assumption
    | (with_reducible apply State.capture_keeps)
    | (with_reducible apply State.captureFree_keeps)
    | (with_reducible refine Keeps.foldl ?_ ?_)
    | (with_reducible refine Keeps.foldlFst ?_ ?_)
    | (with_reducible refine Keeps.foldlSnd ?_ ?_)
    | (intro b x hb; try dsimp only [State.takeFree, State.freshId])
    | split

theorem State.updateNs_keeps {s a : State} (din : BitVec 392) (h : Keeps s a) : Keeps s (State.updateNs a din) := by
  unfold State.updateNs
  all_goals try dsimp only [State.takeFree, State.freshId]
  repeat' first
    | with_reducible assumption
    | (with_reducible apply State.provResult_keeps)
    | (with_reducible refine Keeps.foldl ?_ ?_)
    | (with_reducible refine Keeps.foldlFst ?_ ?_)
    | (with_reducible refine Keeps.foldlSnd ?_ ?_)
    | (intro b x hb; try dsimp only [State.takeFree, State.freshId])
    | split
    | (apply Keeps.upd)
    | exact fun _ w => w
    | (intro b w; try dsimp only; (repeat' split) <;> first | exact w | (rw [Core.wf_iff] at *; exact w) | (simp only [Port.onLane_store, Port.discard_store, Port.acked_store]; exact w))
    | exact fun w => w
    | exact rfl
    | exact fun w => State.port_wf w
    | (intro w; simp only [Port.onLane_store, Port.discard_store, Port.acked_store]; exact State.port_wf w)

theorem State.updateLock_keeps {s a : State} (din : BitVec 32) (h : Keeps s a) : Keeps s (State.updateLock a din) := by
  unfold State.updateLock
  all_goals try dsimp only [State.takeFree, State.freshId]
  repeat' first
    | with_reducible assumption
    | (with_reducible apply State.provResult_keeps)
    | (with_reducible apply State.provStart_keeps)
    | (with_reducible refine Keeps.foldl ?_ ?_)
    | (with_reducible refine Keeps.foldlFst ?_ ?_)
    | (with_reducible refine Keeps.foldlSnd ?_ ?_)
    | (intro b x hb; try dsimp only [State.takeFree, State.freshId])
    | split

theorem State.countWait_keeps {s a : State} (p : ℕ) (sp : ℕ) (h : Keeps s a) : Keeps s (State.countWait a p sp) := by
  unfold State.countWait
  all_goals try dsimp only [State.takeFree, State.freshId]
  repeat' first
    | with_reducible assumption
    | (with_reducible apply State.onCtr_keeps)
    | (with_reducible refine Keeps.foldl ?_ ?_)
    | (with_reducible refine Keeps.foldlFst ?_ ?_)
    | (with_reducible refine Keeps.foldlSnd ?_ ?_)
    | (intro b x hb; try dsimp only [State.takeFree, State.freshId])
    | split

theorem State.arbitrate_keeps {s a : State} (sp : ℕ) (h : Keeps s a) : Keeps s (State.arbitrate a sp) := by
  unfold State.arbitrate
  refine Keeps.ite (State.loadDue_keeps _ _ h) (State.onSpire_keeps _ _ (State.onCore_keeps _ ?_ (fun _ w => w)))
  exact State.loadDue_keeps _ _ (State.onSpire_keeps _ _ h)

theorem State.beginSpire_keeps {s a : State} (sp : ℕ) (h : Keeps s a) : Keeps s (State.beginSpire a sp) := by
  unfold State.beginSpire
  all_goals try dsimp only [State.takeFree, State.freshId]
  repeat' first
    | with_reducible assumption
    | (with_reducible apply State.flushStopped_keeps)
    | (with_reducible apply State.issueLantern_keeps)
    | (with_reducible apply State.settle_keeps)
    | (with_reducible refine Keeps.foldl ?_ ?_)
    | (with_reducible refine Keeps.foldlFst ?_ ?_)
    | (with_reducible refine Keeps.foldlSnd ?_ ?_)
    | (intro b x hb; try dsimp only [State.takeFree, State.freshId])
    | split

theorem State.endCcyc_keeps {s a : State} (p : ℕ) (h : Keeps s a) : Keeps s (State.endCcyc a p) := by
  unfold State.endCcyc
  all_goals try dsimp only [State.takeFree, State.freshId]
  repeat' first
    | with_reducible assumption
    | (with_reducible apply State.countWait_keeps)
    | (with_reducible apply State.landScheduled_keeps)
    | (with_reducible apply State.arbitrate_keeps)
    | (with_reducible apply State.onPart_keeps)
    | (with_reducible apply State.onCore_keeps)
    | (with_reducible apply State.beginSpire_keeps)
    | (with_reducible apply State.resume_keeps)
    | (with_reducible refine Keeps.foldl ?_ ?_)
    | (with_reducible refine Keeps.foldlFst ?_ ?_)
    | (with_reducible refine Keeps.foldlSnd ?_ ?_)
    | (intro b x hb; try dsimp only [State.takeFree, State.freshId])
    | split
    | exact fun _ w => w

theorem State.tickCcyc_keeps {s a : State} (h : Keeps s a) : Keeps s (State.tickCcyc a) := by
  unfold State.tickCcyc
  all_goals try dsimp only [State.takeFree, State.freshId]
  repeat' first
    | with_reducible assumption
    | (with_reducible apply State.serveWrites_keeps)
    | (with_reducible apply State.endCcyc_keeps)
    | (with_reducible refine Keeps.foldl ?_ ?_)
    | (with_reducible refine Keeps.foldlFst ?_ ?_)
    | (with_reducible refine Keeps.foldlSnd ?_ ?_)
    | (intro b x hb; try dsimp only [State.takeFree, State.freshId])
    | split
    | (apply Keeps.upd)
    | exact fun _ w => w
    | (intro b w; try dsimp only; (repeat' split) <;> first | exact w | (rw [Core.wf_iff] at *; exact w) | (simp only [Port.onLane_store, Port.discard_store, Port.acked_store]; exact w))
    | exact fun w => w
    | exact rfl
    | exact fun w => State.port_wf w
    | (intro w; simp only [Port.onLane_store, Port.discard_store, Port.acked_store]; exact State.port_wf w)

theorem State.idle_keeps {s a : State} (h : Keeps s a) : Keeps s (State.idle a) := by
  unfold State.idle
  dsimp only
  have h0 := State.dueEdge_keeps h
  generalize a.dueEdge = b at h0 ⊢
  have k : Keeps s (if b.clocked then b.tickCcyc else b) := Keeps.ite (State.tickCcyc_keeps h0) h0
  have ht := h0.time
  generalize (if b.clocked then b.tickCcyc else b) = q at k ⊢
  refine State.dueEdge_keeps (Keeps.foldl ?_ (fun b x hb => State.noteStall_keeps _ (State.endPublish_keeps _ _ hb)))
  exact ⟨k.pending, Nat.le_trans ht (Nat.le_add_right _ _), k.fuses, k.core, k.rom, k.ports, k.fns⟩

end Sys2Proof.Machine
end

