-- ==== Sys2Proof/Laws/KeepsExec.lean ====
section
/-! SUPPORT. What the commands of these families keep (see Keeps): Stream, Dma, Mesh, Publish, Tick, Bulk. -/

set_option linter.unusedTactic false
set_option linter.unreachableTactic false
set_option linter.unusedVariables false

namespace Sys2Proof.Machine

theorem execNop_keeps {s a t : State} {c : Sys2Proof.StreamCmd} (h : Keeps s a) (e : execNop c a = .next t) : Keeps s t := by
  unfold execNop at e
  try dsimp only at e
  repeat' split at e
  all_goals first | (cases e; done) | (injection e with e; subst e)
  all_goals try dsimp only [State.takeFree, State.freshId]
  repeat' first
    | with_reducible assumption
    | (with_reducible apply State.feed_keeps)
    | (with_reducible refine Keeps.foldl ?_ ?_)
    | (with_reducible refine Keeps.foldlFst ?_ ?_)
    | (with_reducible refine Keeps.foldlSnd ?_ ?_)
    | (intro b x hb; try dsimp only [State.takeFree, State.freshId])
    | split

theorem execLoop_keeps {s a t : State} {c : Sys2Proof.StreamCmd} (h : Keeps s a) (e : execLoop c a = .next t) : Keeps s t := by
  unfold execLoop at e
  try dsimp only at e
  repeat' split at e
  all_goals first | (cases e; done) | (injection e with e; subst e)
  all_goals try dsimp only [State.takeFree, State.freshId]
  repeat' first
    | with_reducible assumption
    | (with_reducible apply State.feed_keeps)
    | (with_reducible refine Keeps.foldl ?_ ?_)
    | (with_reducible refine Keeps.foldlFst ?_ ?_)
    | (with_reducible refine Keeps.foldlSnd ?_ ?_)
    | (intro b x hb; try dsimp only [State.takeFree, State.freshId])
    | split

theorem execLoopEnd_keeps {s a t : State} {c : Sys2Proof.StreamCmd} (h : Keeps s a) (e : execLoopEnd c a = .next t) : Keeps s t := by
  unfold execLoopEnd at e
  try dsimp only at e
  repeat' split at e
  all_goals first | (cases e; done) | (injection e with e; subst e)
  all_goals try dsimp only [State.takeFree, State.freshId]
  repeat' first
    | with_reducible assumption
    | (with_reducible apply State.feed_keeps)
    | (with_reducible refine Keeps.foldl ?_ ?_)
    | (with_reducible refine Keeps.foldlFst ?_ ?_)
    | (with_reducible refine Keeps.foldlSnd ?_ ?_)
    | (intro b x hb; try dsimp only [State.takeFree, State.freshId])
    | split

theorem execDmaIssue_keeps {s a t : State} {c : Sys2Proof.StreamCmd} (h : Keeps s a) (e : execDmaIssue c a = .next t) : Keeps s t := by
  unfold execDmaIssue at e
  try dsimp only at e
  repeat' split at e
  all_goals first | (cases e; done) | (injection e with e; subst e)
  all_goals try dsimp only [State.takeFree, State.freshId]
  repeat' first
    | with_reducible assumption
    | (with_reducible apply State.feed_keeps)
    | (with_reducible refine Keeps.foldl ?_ ?_)
    | (with_reducible refine Keeps.foldlFst ?_ ?_)
    | (with_reducible refine Keeps.foldlSnd ?_ ?_)
    | (intro b x hb; try dsimp only [State.takeFree, State.freshId])
    | split

theorem execLanternIssue_keeps {s a t : State} {c : Sys2Proof.StreamCmd} (h : Keeps s a) (e : execLanternIssue c a = .next t) : Keeps s t := by
  unfold execLanternIssue at e
  try dsimp only at e
  repeat' split at e
  all_goals first | (cases e; done) | (injection e with e; subst e)
  all_goals try dsimp only [State.takeFree, State.freshId]
  repeat' first
    | with_reducible assumption
    | (with_reducible apply State.feed_keeps)
    | (with_reducible refine Keeps.foldl ?_ ?_)
    | (with_reducible refine Keeps.foldlFst ?_ ?_)
    | (with_reducible refine Keeps.foldlSnd ?_ ?_)
    | (intro b x hb; try dsimp only [State.takeFree, State.freshId])
    | split

theorem execCalLoad_keeps {s a t : State} {c : Sys2Proof.StreamCmd} (h : Keeps s a) (e : execCalLoad c a = .next t) : Keeps s t := by
  unfold execCalLoad at e
  try dsimp only at e
  repeat' split at e
  all_goals first | (cases e; done) | (injection e with e; subst e)
  all_goals try dsimp only [State.takeFree, State.freshId]
  repeat' first
    | with_reducible assumption
    | (with_reducible apply State.feed_keeps)
    | (with_reducible refine Keeps.foldl ?_ ?_)
    | (with_reducible refine Keeps.foldlFst ?_ ?_)
    | (with_reducible refine Keeps.foldlSnd ?_ ?_)
    | (intro b x hb; try dsimp only [State.takeFree, State.freshId])
    | split

theorem execHqTakeF_keeps {s a t : State} {c : Sys2Proof.StreamCmd} (h : Keeps s a) (e : execHqTakeF c a = .next t) : Keeps s t := by
  unfold execHqTakeF at e
  try dsimp only at e
  repeat' split at e
  all_goals first | (cases e; done) | (injection e with e; subst e)
  all_goals try dsimp only [State.takeFree, State.freshId]
  repeat' first
    | with_reducible assumption
    | (with_reducible apply State.feed_keeps)
    | (with_reducible refine Keeps.foldl ?_ ?_)
    | (with_reducible refine Keeps.foldlFst ?_ ?_)
    | (with_reducible refine Keeps.foldlSnd ?_ ?_)
    | (intro b x hb; try dsimp only [State.takeFree, State.freshId])
    | split

theorem execHqPutF_keeps {s a t : State} {c : Sys2Proof.StreamCmd} (h : Keeps s a) (e : execHqPutF c a = .next t) : Keeps s t := by
  unfold execHqPutF at e
  try dsimp only at e
  repeat' split at e
  all_goals first | (cases e; done) | (injection e with e; subst e)
  all_goals try dsimp only [State.takeFree, State.freshId]
  repeat' first
    | with_reducible assumption
    | (with_reducible apply State.feed_keeps)
    | (with_reducible refine Keeps.foldl ?_ ?_)
    | (with_reducible refine Keeps.foldlFst ?_ ?_)
    | (with_reducible refine Keeps.foldlSnd ?_ ?_)
    | (intro b x hb; try dsimp only [State.takeFree, State.freshId])
    | split

theorem execMac_keeps {s a t : State} {c : Sys2Proof.StreamCmd} (h : Keeps s a) (e : execMac c a = .next t) : Keeps s t := by
  unfold execMac at e
  try dsimp only at e
  repeat' split at e
  all_goals first | (cases e; done) | (injection e with e; subst e)
  all_goals try dsimp only [State.takeFree, State.freshId]
  repeat' first
    | with_reducible assumption
    | (with_reducible apply State.feed_keeps)
    | (with_reducible refine Keeps.foldl ?_ ?_)
    | (with_reducible refine Keeps.foldlFst ?_ ?_)
    | (with_reducible refine Keeps.foldlSnd ?_ ?_)
    | (intro b x hb; try dsimp only [State.takeFree, State.freshId])
    | split

theorem execReadout_keeps {s a t : State} {c : Sys2Proof.StreamCmd} (h : Keeps s a) (e : execReadout c a = .next t) : Keeps s t := by
  unfold execReadout at e
  try dsimp only at e
  repeat' split at e
  all_goals first | (cases e; done) | (injection e with e; subst e)
  all_goals try dsimp only [State.takeFree, State.freshId]
  repeat' first
    | with_reducible assumption
    | (with_reducible apply State.feed_keeps)
    | (with_reducible refine Keeps.foldl ?_ ?_)
    | (with_reducible refine Keeps.foldlFst ?_ ?_)
    | (with_reducible refine Keeps.foldlSnd ?_ ?_)
    | (intro b x hb; try dsimp only [State.takeFree, State.freshId])
    | split

theorem execVop_keeps {s a t : State} {c : Sys2Proof.StreamCmd} (h : Keeps s a) (e : execVop c a = .next t) : Keeps s t := by
  unfold execVop at e
  try dsimp only at e
  repeat' split at e
  all_goals first | (cases e; done) | (injection e with e; subst e)
  all_goals try dsimp only [State.takeFree, State.freshId]
  repeat' first
    | with_reducible assumption
    | (with_reducible apply State.feed_keeps)
    | (with_reducible refine Keeps.foldl ?_ ?_)
    | (with_reducible refine Keeps.foldlFst ?_ ?_)
    | (with_reducible refine Keeps.foldlSnd ?_ ?_)
    | (intro b x hb; try dsimp only [State.takeFree, State.freshId])
    | split

theorem execVld_keeps {s a t : State} {c : Sys2Proof.StreamCmd} (h : Keeps s a) (e : execVld c a = .next t) : Keeps s t := by
  unfold execVld at e
  try dsimp only at e
  repeat' split at e
  all_goals first | (cases e; done) | (injection e with e; subst e)
  all_goals try dsimp only [State.takeFree, State.freshId]
  repeat' first
    | with_reducible assumption
    | (with_reducible apply State.feed_keeps)
    | (with_reducible refine Keeps.foldl ?_ ?_)
    | (with_reducible refine Keeps.foldlFst ?_ ?_)
    | (with_reducible refine Keeps.foldlSnd ?_ ?_)
    | (intro b x hb; try dsimp only [State.takeFree, State.freshId])
    | split

theorem execVst_keeps {s a t : State} {c : Sys2Proof.StreamCmd} (h : Keeps s a) (e : execVst c a = .next t) : Keeps s t := by
  unfold execVst at e
  try dsimp only at e
  repeat' split at e
  all_goals first | (cases e; done) | (injection e with e; subst e)
  all_goals try dsimp only [State.takeFree, State.freshId]
  repeat' first
    | with_reducible assumption
    | (with_reducible apply State.feed_keeps)
    | (with_reducible refine Keeps.foldl ?_ ?_)
    | (with_reducible refine Keeps.foldlFst ?_ ?_)
    | (with_reducible refine Keeps.foldlSnd ?_ ?_)
    | (intro b x hb; try dsimp only [State.takeFree, State.freshId])
    | split

theorem execSetp_keeps {s a t : State} {c : Sys2Proof.StreamCmd} (h : Keeps s a) (e : execSetp c a = .next t) : Keeps s t := by
  unfold execSetp at e
  try dsimp only at e
  repeat' split at e
  all_goals first | (cases e; done) | (injection e with e; subst e)
  all_goals try dsimp only [State.takeFree, State.freshId]
  repeat' first
    | with_reducible assumption
    | (with_reducible apply State.feed_keeps)
    | (with_reducible refine Keeps.foldl ?_ ?_)
    | (with_reducible refine Keeps.foldlFst ?_ ?_)
    | (with_reducible refine Keeps.foldlSnd ?_ ?_)
    | (intro b x hb; try dsimp only [State.takeFree, State.freshId])
    | split

theorem execSeto_keeps {s a t : State} {c : Sys2Proof.StreamCmd} (h : Keeps s a) (e : execSeto c a = .next t) : Keeps s t := by
  unfold execSeto at e
  try dsimp only at e
  repeat' split at e
  all_goals first | (cases e; done) | (injection e with e; subst e)
  all_goals try dsimp only [State.takeFree, State.freshId]
  repeat' first
    | with_reducible assumption
    | (with_reducible apply State.feed_keeps)
    | (with_reducible refine Keeps.foldl ?_ ?_)
    | (with_reducible refine Keeps.foldlFst ?_ ?_)
    | (with_reducible refine Keeps.foldlSnd ?_ ?_)
    | (intro b x hb; try dsimp only [State.takeFree, State.freshId])
    | split

theorem execHqTakeE_keeps {s a t : State} {c : Sys2Proof.StreamCmd} (h : Keeps s a) (e : execHqTakeE c a = .next t) : Keeps s t := by
  unfold execHqTakeE at e
  try dsimp only at e
  repeat' split at e
  all_goals first | (cases e; done) | (injection e with e; subst e)
  all_goals try dsimp only [State.takeFree, State.freshId]
  repeat' first
    | with_reducible assumption
    | (with_reducible apply State.feed_keeps)
    | (with_reducible refine Keeps.foldl ?_ ?_)
    | (with_reducible refine Keeps.foldlFst ?_ ?_)
    | (with_reducible refine Keeps.foldlSnd ?_ ?_)
    | (intro b x hb; try dsimp only [State.takeFree, State.freshId])
    | split

theorem execHqPutE_keeps {s a t : State} {c : Sys2Proof.StreamCmd} (h : Keeps s a) (e : execHqPutE c a = .next t) : Keeps s t := by
  unfold execHqPutE at e
  try dsimp only at e
  repeat' split at e
  all_goals first | (cases e; done) | (injection e with e; subst e)
  all_goals try dsimp only [State.takeFree, State.freshId]
  repeat' first
    | with_reducible assumption
    | (with_reducible apply State.feed_keeps)
    | (with_reducible refine Keeps.foldl ?_ ?_)
    | (with_reducible refine Keeps.foldlFst ?_ ?_)
    | (with_reducible refine Keeps.foldlSnd ?_ ?_)
    | (intro b x hb; try dsimp only [State.takeFree, State.freshId])
    | split

theorem execBarrier_keeps {s a t : State} {c : Sys2Proof.StreamCmd} (h : Keeps s a) (e : execBarrier c a = .next t) : Keeps s t := by
  unfold execBarrier at e
  try dsimp only at e
  repeat' split at e
  all_goals first | (cases e; done) | (injection e with e; subst e)
  all_goals try dsimp only [State.takeFree, State.freshId]
  repeat' first
    | with_reducible assumption
    | (with_reducible apply State.feed_keeps)
    | (with_reducible refine Keeps.foldl ?_ ?_)
    | (with_reducible refine Keeps.foldlFst ?_ ?_)
    | (with_reducible refine Keeps.foldlSnd ?_ ?_)
    | (intro b x hb; try dsimp only [State.takeFree, State.freshId])
    | split

theorem execAnchor_keeps {s a t : State} {c : Sys2Proof.StreamCmd} (h : Keeps s a) (e : execAnchor c a = .next t) : Keeps s t := by
  unfold execAnchor at e
  try dsimp only at e
  repeat' split at e
  all_goals first | (cases e; done) | (injection e with e; subst e)
  all_goals try dsimp only [State.takeFree, State.freshId]
  repeat' first
    | with_reducible assumption
    | (with_reducible apply State.feed_keeps)
    | (with_reducible refine Keeps.foldl ?_ ?_)
    | (with_reducible refine Keeps.foldlFst ?_ ?_)
    | (with_reducible refine Keeps.foldlSnd ?_ ?_)
    | (intro b x hb; try dsimp only [State.takeFree, State.freshId])
    | split

theorem execYield_keeps {s a t : State} {c : Sys2Proof.StreamCmd} (h : Keeps s a) (e : execYield c a = .next t) : Keeps s t := by
  unfold execYield at e
  try dsimp only at e
  repeat' split at e
  all_goals first | (cases e; done) | (injection e with e; subst e)
  all_goals try dsimp only [State.takeFree, State.freshId]
  repeat' first
    | with_reducible assumption
    | (with_reducible apply State.feed_keeps)
    | (with_reducible refine Keeps.foldl ?_ ?_)
    | (with_reducible refine Keeps.foldlFst ?_ ?_)
    | (with_reducible refine Keeps.foldlSnd ?_ ?_)
    | (intro b x hb; try dsimp only [State.takeFree, State.freshId])
    | split

theorem execEot_keeps {s a t : State} {c : Sys2Proof.StreamCmd} (h : Keeps s a) (e : execEot c a = .next t) : Keeps s t := by
  unfold execEot at e
  try dsimp only at e
  repeat' split at e
  all_goals first | (cases e; done) | (injection e with e; subst e)
  all_goals try dsimp only [State.takeFree, State.freshId]
  repeat' first
    | with_reducible assumption
    | (with_reducible apply State.feed_keeps)
    | (with_reducible refine Keeps.foldl ?_ ?_)
    | (with_reducible refine Keeps.foldlFst ?_ ?_)
    | (with_reducible refine Keeps.foldlSnd ?_ ?_)
    | (intro b x hb; try dsimp only [State.takeFree, State.freshId])
    | split

theorem execMacSetFinal_keeps {s a t : State} {sp : Fin 16} {set : Fin 8} (h : Keeps s a) (e : execMacSetFinal sp set a = .next t) : Keeps s t := by
  unfold execMacSetFinal at e
  try dsimp only at e
  repeat' split at e
  all_goals first | (cases e; done) | (injection e with e; subst e)
  all_goals try dsimp only [State.takeFree, State.freshId]
  repeat' first
    | with_reducible assumption
    | (with_reducible apply State.resume_keeps)
    | (with_reducible apply State.onSpire_keeps)
    | (with_reducible refine Keeps.foldl ?_ ?_)
    | (with_reducible refine Keeps.foldlFst ?_ ?_)
    | (with_reducible refine Keeps.foldlSnd ?_ ?_)
    | (intro b x hb; try dsimp only [State.takeFree, State.freshId])
    | split

theorem execBarrierRelease_keeps {s a t : State} {sp : Fin 16} {bid : Fin 8} (h : Keeps s a) (e : execBarrierRelease sp bid a = .next t) : Keeps s t := by
  unfold execBarrierRelease at e
  try dsimp only at e
  repeat' split at e
  all_goals first | (cases e; done) | (injection e with e; subst e)
  all_goals try dsimp only [State.takeFree, State.freshId]
  repeat' first
    | with_reducible assumption
    | (with_reducible apply State.releaseSpire_keeps)
    | (with_reducible refine Keeps.foldl ?_ ?_)
    | (with_reducible refine Keeps.foldlFst ?_ ?_)
    | (with_reducible refine Keeps.foldlSnd ?_ ?_)
    | (intro b x hb; try dsimp only [State.takeFree, State.freshId])
    | split

theorem execContextSwitch_keeps {s a t : State} {sp : Fin 16} (h : Keeps s a) (e : execContextSwitch sp a = .next t) : Keeps s t := by
  unfold execContextSwitch at e
  try dsimp only at e
  repeat' split at e
  all_goals first | (cases e; done) | (injection e with e; subst e)
  all_goals try dsimp only [State.takeFree, State.freshId]
  repeat' first
    | with_reducible assumption
    | (with_reducible apply State.resume_keeps)
    | (with_reducible apply State.setSpire_keeps)
    | (with_reducible refine Keeps.foldl ?_ ?_)
    | (with_reducible refine Keeps.foldlFst ?_ ?_)
    | (with_reducible refine Keeps.foldlSnd ?_ ?_)
    | (intro b x hb; try dsimp only [State.takeFree, State.freshId])
    | split

theorem execDmaRequestIssue_keeps {s a t : State} {sp : Fin 16} {upsets : List Sys2Proof.Upset} {cup : optParam Sys2Proof.CupolaErr Sys2Proof.CupolaErr.none} (h : Keeps s a) (e : execDmaRequestIssue sp upsets a cup = .next t) : Keeps s t := by
  unfold execDmaRequestIssue at e
  try dsimp only at e
  repeat' split at e
  all_goals first | (cases e; done) | (injection e with e; subst e)
  all_goals try dsimp only [State.takeFree, State.freshId]
  repeat' first
    | with_reducible assumption
    | (with_reducible apply State.cupolaMeets_keeps)
    | (with_reducible apply State.upset_keeps)
    | (with_reducible apply State.issueList_keeps)
    | (with_reducible apply State.issueData_keeps)
    | (with_reducible refine Keeps.foldl ?_ ?_)
    | (with_reducible refine Keeps.foldlFst ?_ ?_)
    | (with_reducible refine Keeps.foldlSnd ?_ ?_)
    | (intro b x hb; try dsimp only [State.takeFree, State.freshId])
    | split

theorem execBankWindowStart_keeps {s a t : State} {sp : Fin 16} (h : Keeps s a) (e : execBankWindowStart sp a = .next t) : Keeps s t := by
  unfold execBankWindowStart at e
  try dsimp only at e
  repeat' split at e
  all_goals first | (cases e; done) | (injection e with e; subst e)
  all_goals try dsimp only [State.takeFree, State.freshId]
  repeat' first
    | with_reducible assumption
    | (with_reducible apply State.onSpire_keeps)
    | (with_reducible refine Keeps.foldl ?_ ?_)
    | (with_reducible refine Keeps.foldlFst ?_ ?_)
    | (with_reducible refine Keeps.foldlSnd ?_ ?_)
    | (intro b x hb; try dsimp only [State.takeFree, State.freshId])
    | split

theorem execDescriptorReadDone_keeps {s a t : State} {sp : Fin 16} {unit : Fin 5} {id : Nat} {bad : Bool} {cup : CupolaErr} {bursts : BurstRec} (h : Keeps s a) (e : execDescriptorReadDone sp unit id bad a cup bursts = .next t) : Keeps s t := by
  unfold execDescriptorReadDone at e
  try dsimp only at e
  repeat' split at e
  all_goals first | (cases e; done) | (injection e with e; subst e)
  all_goals try dsimp only [State.takeFree, State.freshId]
  repeat' first
    | with_reducible assumption
    | (with_reducible apply State.countBursts_keeps)
    | (with_reducible apply State.cupolaMeets_keeps)
    | (with_reducible apply State.hbmSpoil_keeps)
    | (with_reducible apply State.belfryRead_keeps)
    | (with_reducible refine Keeps.snd (State.belfryRead_keeps (h := ?_) ..) (by with_reducible assumption))
    | (with_reducible apply State.freeze_keeps)
    | (with_reducible apply State.onSpire_keeps)
    | (with_reducible refine Keeps.foldl ?_ ?_)
    | (with_reducible refine Keeps.foldlFst ?_ ?_)
    | (with_reducible refine Keeps.foldlSnd ?_ ?_)
    | (intro b x hb; try dsimp only [State.takeFree, State.freshId])
    | split

theorem execDrainRelease_keeps {s a t : State} {sp : Fin 16} {unit : Fin 4} {xfer : ℕ} (h : Keeps s a) (e : execDrainRelease sp unit xfer a = .next t) : Keeps s t := by
  unfold execDrainRelease at e
  try dsimp only at e
  repeat' split at e
  all_goals first | (cases e; done) | (injection e with e; subst e)
  all_goals try dsimp only [State.takeFree, State.freshId]
  repeat' first
    | with_reducible assumption
    | (with_reducible apply State.onSpire_keeps)
    | (with_reducible refine Keeps.foldl ?_ ?_)
    | (with_reducible refine Keeps.foldlFst ?_ ?_)
    | (with_reducible refine Keeps.foldlSnd ?_ ?_)
    | (intro b x hb; try dsimp only [State.takeFree, State.freshId])
    | split

theorem execHbmReadComplete_keeps {s a t : State} {sp : Fin 16} {unit : Fin 4} {xfer : ℕ} {req : ℕ} {bad : Option ℕ} {bursts : optParam Sys2Proof.BurstRec { }} (h : Keeps s a) (e : execHbmReadComplete sp unit xfer req bad a bursts = .next t) : Keeps s t := by
  unfold execHbmReadComplete at e
  try dsimp only at e
  repeat' split at e
  all_goals first | (cases e; done) | (injection e with e; subst e)
  all_goals try dsimp only [State.takeFree, State.freshId]
  repeat' first
    | with_reducible assumption
    | (with_reducible refine State.serveRead_keeps (h := ?_) (e := by with_reducible assumption) ..)
    | (with_reducible apply State.countBursts_keeps)
    | (with_reducible apply State.hbmSpoil_keeps)
    | (with_reducible apply State.freeze_keeps)
    | (with_reducible apply State.endReq_keeps)
    | (with_reducible apply State.countUe_keeps)
    | (with_reducible apply State.sendReq_keeps)
    | (with_reducible apply State.onReq_keeps)
    | (with_reducible refine Keeps.foldl ?_ ?_)
    | (with_reducible refine Keeps.foldlFst ?_ ?_)
    | (with_reducible refine Keeps.foldlSnd ?_ ?_)
    | (intro b x hb; try dsimp only [State.takeFree, State.freshId])
    | split

theorem execCupolaFillComplete_keeps {s a t : State} {east : Bool} {line : ℕ} {bad : Option ℕ} {bursts : optParam Sys2Proof.BurstRec { }} (h : Keeps s a) (e : execCupolaFillComplete east line bad a bursts = .next t) : Keeps s t := by
  unfold execCupolaFillComplete at e
  try dsimp only at e
  repeat' split at e
  all_goals first | (cases e; done) | (injection e with e; subst e)
  all_goals try dsimp only [State.takeFree, State.freshId]
  repeat' first
    | with_reducible assumption
    | (with_reducible refine State.serveRead_keeps (h := ?_) (e := by with_reducible assumption) ..)
    | (with_reducible apply State.countBursts_keeps)
    | (with_reducible apply State.hbmSpoil_keeps)
    | (with_reducible apply State.dequeue_keeps)
    | (with_reducible apply State.countUe_keeps)
    | (with_reducible apply State.setCupola_keeps)
    | (with_reducible apply State.freeze_keeps)
    | (with_reducible apply State.endReq_keeps)
    | (with_reducible apply State.sendReq_keeps)
    | (with_reducible apply State.onReq_keeps)
    | (with_reducible refine Keeps.foldl ?_ ?_)
    | (with_reducible refine Keeps.foldlFst ?_ ?_)
    | (with_reducible refine Keeps.foldlSnd ?_ ?_)
    | (intro b x hb; try dsimp only [State.takeFree, State.freshId])
    | split

theorem execHbmWriteAccept_keeps {s a t : State} {sp : Fin 16} {unit : Fin 4} {xfer : ℕ} {req : ℕ} {bad : Bool} {bursts : optParam Sys2Proof.BurstRec { }} (h : Keeps s a) (e : execHbmWriteAccept sp unit xfer req bad a bursts = .next t) : Keeps s t := by
  unfold execHbmWriteAccept at e
  try dsimp only at e
  repeat' split at e
  all_goals first | (cases e; done) | (injection e with e; subst e)
  all_goals try dsimp only [State.takeFree, State.freshId]
  repeat' first
    | with_reducible assumption
    | (with_reducible apply State.sendAccepted_keeps)
    | (with_reducible refine State.enterWrite_keeps (h := ?_) (e := by with_reducible assumption) ..)
    | (with_reducible apply State.countBursts_keeps)
    | (with_reducible apply State.hbmSpoil_keeps)
    | (with_reducible apply State.freeze_keeps)
    | (with_reducible apply State.endReq_keeps)
    | (with_reducible apply State.countUe_keeps)
    | (with_reducible apply State.onReq_keeps)
    | (with_reducible apply State.writePieces_keeps)
    | (with_reducible refine Keeps.foldl ?_ ?_)
    | (with_reducible refine Keeps.foldlFst ?_ ?_)
    | (with_reducible refine Keeps.foldlSnd ?_ ?_)
    | (intro b x hb; try dsimp only [State.takeFree, State.freshId])
    | split

theorem execArbitratedPacket_keeps {s a t : State} {sp : Fin 16} {unit : Fin 5} {xfer : ℕ} {req : ℕ} {fault : Sys2Proof.PacketFault} (h : Keeps s a) (e : execArbitratedPacket sp unit xfer req fault a = .next t) : Keeps s t := by
  unfold execArbitratedPacket at e
  try dsimp only at e
  repeat' split at e
  all_goals first | (cases e; done) | (injection e with e; subst e)
  all_goals try dsimp only [State.takeFree, State.freshId]
  repeat' first
    | with_reducible assumption
    | (with_reducible apply State.takeFree_keeps)
    | (with_reducible refine Keeps.snd (State.takeFree_keeps (h := ?_) ..) (by with_reducible assumption))
    | (with_reducible apply State.onCore_keeps)
    | (with_reducible apply State.freeze_keeps)
    | (with_reducible apply State.endReq_keeps)
    | (with_reducible apply State.freezeAll_keeps)
    | (with_reducible apply State.event_keeps)
    | (with_reducible apply State.onReq_keeps)
    | (with_reducible apply State.deliver_keeps)
    | (with_reducible refine Keeps.foldl ?_ ?_)
    | (with_reducible refine Keeps.foldlFst ?_ ?_)
    | (with_reducible refine Keeps.foldlSnd ?_ ?_)
    | (intro b x hb; try dsimp only [State.takeFree, State.freshId])
    | split
    | (apply Keeps.upd)
    | exact fun _ w => w
    | (intro b w; try dsimp only; (repeat' split) <;> first | exact w | (rw [Core.wf_iff] at *; exact w))
    | exact fun w => w
    | exact rfl

theorem execDmaRequestComplete_keeps {s a t : State} {sp : Fin 16} {unit : Fin 4} {xfer : ℕ} {req : ℕ} (h : Keeps s a) (e : execDmaRequestComplete sp unit xfer req a = .next t) : Keeps s t := by
  unfold execDmaRequestComplete at e
  try dsimp only at e
  repeat' split at e
  all_goals first | (cases e; done) | (injection e with e; subst e)
  all_goals try dsimp only [State.takeFree, State.freshId]
  repeat' first
    | with_reducible assumption
    | (with_reducible apply State.endReq_keeps)
    | (with_reducible refine Keeps.foldl ?_ ?_)
    | (with_reducible refine Keeps.foldlFst ?_ ?_)
    | (with_reducible refine Keeps.foldlSnd ?_ ?_)
    | (intro b x hb; try dsimp only [State.takeFree, State.freshId])
    | split

theorem execTransferComplete_keeps {s a t : State} {sp : Fin 16} {unit : Fin 4} {xfer : ℕ} (h : Keeps s a) (e : execTransferComplete sp unit xfer a = .next t) : Keeps s t := by
  unfold execTransferComplete at e
  try dsimp only at e
  repeat' split at e
  all_goals first | (cases e; done) | (injection e with e; subst e)
  all_goals try dsimp only [State.takeFree, State.freshId]
  repeat' first
    | with_reducible assumption
    | (with_reducible apply State.completionPush_keeps)
    | (with_reducible refine Keeps.foldl ?_ ?_)
    | (with_reducible refine Keeps.foldlFst ?_ ?_)
    | (with_reducible refine Keeps.foldlSnd ?_ ?_)
    | (intro b x hb; try dsimp only [State.takeFree, State.freshId])
    | split

theorem execRemotePushArrive_keeps {s a t : State} {id : ℕ} (h : Keeps s a) (e : execRemotePushArrive id a = .next t) : Keeps s t := by
  unfold execRemotePushArrive at e
  try dsimp only at e
  repeat' split at e
  all_goals first | (cases e; done) | (injection e with e; subst e)
  all_goals try dsimp only [State.takeFree, State.freshId]
  repeat' first
    | with_reducible assumption
    | (with_reducible apply State.onCore_keeps)
    | (with_reducible apply State.freezePusher_keeps)
    | (with_reducible refine State.pushLocal_keeps (h := ?_) (e := by with_reducible assumption) ..)
    | (with_reducible apply State.resume_keeps)
    | (with_reducible apply State.takePush_keeps)
    | (with_reducible apply State.setPushPhase_keeps)
    | (with_reducible refine Keeps.foldl ?_ ?_)
    | (with_reducible refine Keeps.foldlFst ?_ ?_)
    | (with_reducible refine Keeps.foldlSnd ?_ ?_)
    | (intro b x hb; try dsimp only [State.takeFree, State.freshId])
    | split
    | (apply Keeps.upd)
    | exact fun _ w => w
    | (intro b w; try dsimp only; (repeat' split) <;> first | exact w | (rw [Core.wf_iff] at *; exact w))
    | exact fun w => w
    | exact rfl

theorem execRemotePushAcknowledgement_keeps {s a t : State} {id : ℕ} (h : Keeps s a) (e : execRemotePushAcknowledgement id a = .next t) : Keeps s t := by
  unfold execRemotePushAcknowledgement at e
  try dsimp only at e
  repeat' split at e
  all_goals first | (cases e; done) | (injection e with e; subst e)
  all_goals try dsimp only [State.takeFree, State.freshId]
  repeat' first
    | with_reducible assumption
    | (with_reducible apply State.onCore_keeps)
    | (with_reducible apply State.resume_keeps)
    | (with_reducible apply State.setSpire_keeps)
    | (with_reducible apply State.onSpire_keeps)
    | (with_reducible apply State.gateUp_keeps)
    | (with_reducible refine Keeps.foldl ?_ ?_)
    | (with_reducible refine Keeps.foldlFst ?_ ?_)
    | (with_reducible refine Keeps.foldlSnd ?_ ?_)
    | (intro b x hb; try dsimp only [State.takeFree, State.freshId])
    | split
    | (apply Keeps.upd)
    | exact fun _ w => w
    | (intro b w; try dsimp only; (repeat' split) <;> first | exact w | (rw [Core.wf_iff] at *; exact w))
    | exact fun w => w
    | exact rfl

theorem execLanternComplete_keeps {s a t : State} {sp : Fin 16} {xfer : ℕ} {bad : Bool} {upsets : List Sys2Proof.Upset} {bursts : optParam Sys2Proof.BurstRec { }} (h : Keeps s a) (e : execLanternComplete sp xfer bad upsets a bursts = .next t) : Keeps s t := by
  unfold execLanternComplete at e
  try dsimp only at e
  repeat' split at e
  all_goals first | (cases e; done) | (injection e with e; subst e)
  all_goals try dsimp only [State.takeFree, State.freshId]
  repeat' first
    | with_reducible assumption
    | (with_reducible apply State.issueLantern_keeps)
    | (with_reducible apply State.completionPush_keeps)
    | (with_reducible apply State.endReq_keeps)
    | (with_reducible refine State.lanternEnter_keeps (h := ?_) (e := by with_reducible assumption) ..)
    | (with_reducible apply State.countBursts_keeps)
    | (with_reducible apply State.lanternMove_keeps)
    | (with_reducible refine Keeps.fst (State.lanternMove_keeps (h := ?_) ..) (by with_reducible assumption))
    | (with_reducible apply State.upset_keeps)
    | (with_reducible refine Keeps.foldl ?_ ?_)
    | (with_reducible refine Keeps.foldlFst ?_ ?_)
    | (with_reducible refine Keeps.foldlSnd ?_ ?_)
    | (intro b x hb; try dsimp only [State.takeFree, State.freshId])
    | split

theorem execCalLoadComplete_keeps {s a t : State} {sp : Fin 16} {bad : Option Nat} {cups : List CupolaUpset} {bursts : List (Nat × BurstRec)} (h : Keeps s a) (e : execCalLoadComplete sp bad a cups bursts = .next t) : Keeps s t := by
  unfold execCalLoadComplete at e
  try dsimp only at e
  repeat' split at e
  all_goals first | (cases e; done) | (injection e with e; subst e)
  all_goals try dsimp only [State.takeFree, State.freshId]
  repeat' first
    | with_reducible assumption
    | (with_reducible apply State.strike_keeps)
    | (with_reducible apply State.countEach_keeps)
    | (with_reducible apply State.cupolaMeets_keeps)
    | (with_reducible apply State.hbmSpoil_keeps)
    | (with_reducible apply State.calFetch_keeps)
    | (with_reducible refine Keeps.snd (State.calFetch_keeps (h := ?_) ..) (by with_reducible assumption))
    | (with_reducible apply State.freeze_keeps)
    | (with_reducible apply State.calLoaded_keeps)
    | (with_reducible refine Keeps.foldl ?_ ?_)
    | (with_reducible refine Keeps.foldlFst ?_ ?_)
    | (with_reducible refine Keeps.foldlSnd ?_ ?_)
    | (intro b x hb; try dsimp only [State.takeFree, State.freshId])
    | split

theorem execCalActivate_keeps {s a t : State} {p : Fin 16} (h : Keeps s a) (e : execCalActivate p a = .next t) : Keeps s t := by
  unfold execCalActivate at e
  try dsimp only at e
  repeat' split at e
  all_goals first | (cases e; done) | (injection e with e; subst e)
  all_goals try dsimp only [State.takeFree, State.freshId]
  repeat' first
    | with_reducible assumption
    | (with_reducible apply State.resume_keeps)
    | (with_reducible apply State.setSpire_keeps)
    | (with_reducible refine Keeps.foldl ?_ ?_)
    | (with_reducible refine Keeps.foldlFst ?_ ?_)
    | (with_reducible refine Keeps.foldlSnd ?_ ?_)
    | (intro b x hb; try dsimp only [State.takeFree, State.freshId])
    | split

theorem execCalEntryAct_keeps {s a t : State} {p : Fin 16} {upsets : List Sys2Proof.Upset} {corrected : ℕ} {broken : List (Fin 4096 × Fin 4)} (h : Keeps s a) (e : execCalEntryAct p upsets corrected broken a = .next t) : Keeps s t := by
  unfold execCalEntryAct at e
  have k := State.dueEdge_keeps h
  generalize a.dueEdge = b at e k
  clear h
  try dsimp only at e
  repeat' split at e
  all_goals first | (cases e; done) | (injection e with e; subst e)
  all_goals try dsimp only [State.takeFree, State.freshId]
  repeat' first
    | with_reducible assumption
    | (with_reducible apply State.takeFree_keeps)
    | (with_reducible refine Keeps.snd (State.takeFree_keeps (h := ?_) ..) (by with_reducible assumption))
    | (with_reducible apply State.setPart_keeps)
    | (with_reducible apply State.upset_keeps)
    | (with_reducible apply State.takeArrivals_keeps)
    | (with_reducible apply State.corrupt_keeps)
    | (with_reducible apply State.actEntry_keeps)
    | (with_reducible apply State.onCore_keeps)
    | (with_reducible apply State.noteReads_keeps)
    | (with_reducible apply State.useBanks_keeps)
    | (with_reducible apply State.onCtr_keeps)
    | (with_reducible apply State.freeze_keeps)
    | (with_reducible refine Keeps.foldl ?_ ?_)
    | (with_reducible refine Keeps.foldlFst ?_ ?_)
    | (with_reducible refine Keeps.foldlSnd ?_ ?_)
    | (intro b x hb; try dsimp only [State.takeFree, State.freshId])
    | split
    | (apply Keeps.upd)
    | exact fun _ w => w
    | (intro b w; try dsimp only; (repeat' split) <;> first | exact w | (rw [Core.wf_iff] at *; exact w))
    | exact fun w => w
    | exact rfl

theorem execLandingBufferDrain_keeps {s a t : State} {tile : Fin 4096} {errs : optParam Sys2Proof.LineErr { }} (h : Keeps s a) (e : execLandingBufferDrain tile a errs = .next t) : Keeps s t := by
  unfold execLandingBufferDrain at e
  try dsimp only at e
  repeat' split at e
  all_goals first | (cases e; done) | (injection e with e; subst e)
  all_goals try dsimp only [State.takeFree, State.freshId]
  repeat' first
    | with_reducible assumption
    | (with_reducible apply State.landingErrors_keeps)
    | (with_reducible refine Keeps.fst (State.landingErrors_keeps (h := ?_) ..) (by with_reducible assumption))
    | (with_reducible apply State.useBanks_keeps)
    | (with_reducible apply State.tileWrite_keeps)
    | (with_reducible apply State.onCore_keeps)
    | (with_reducible apply State.onReq_keeps)
    | (with_reducible refine Keeps.foldl ?_ ?_)
    | (with_reducible refine Keeps.foldlFst ?_ ?_)
    | (with_reducible refine Keeps.foldlSnd ?_ ?_)
    | (intro b x hb; try dsimp only [State.takeFree, State.freshId])
    | split
    | (apply Keeps.upd)
    | exact fun _ w => w
    | (intro b w; try dsimp only; (repeat' split) <;> first | exact w | (rw [Core.wf_iff] at *; exact w))
    | exact fun w => w
    | exact rfl

theorem execMantleRetransmit_keeps {s a t : State} (h : Keeps s a) (e : execMantleRetransmit a = .next t) : Keeps s t := by
  unfold execMantleRetransmit at e
  try dsimp only at e
  repeat' split at e
  all_goals first | (cases e; done) | (injection e with e; subst e)
  all_goals try dsimp only [State.takeFree, State.freshId]
  repeat' first
    | with_reducible assumption
    | (with_reducible apply State.onCore_keeps)
    | (with_reducible refine Keeps.foldl ?_ ?_)
    | (with_reducible refine Keeps.foldlFst ?_ ?_)
    | (with_reducible refine Keeps.foldlSnd ?_ ?_)
    | (intro b x hb; try dsimp only [State.takeFree, State.freshId])
    | split
    | (apply Keeps.upd)
    | exact fun _ w => w
    | (intro b w; try dsimp only; (repeat' split) <;> first | exact w | (rw [Core.wf_iff] at *; exact w))
    | exact fun w => w
    | exact rfl

theorem execTickInEdge_keeps {s a t : State} (h : Keeps s a) (e : execTickInEdge a = .next t) : Keeps s t := by
  unfold execTickInEdge at e
  try dsimp only at e
  repeat' split at e
  all_goals first | (cases e; done) | (injection e with e; subst e)
  all_goals try dsimp only [State.takeFree, State.freshId]
  repeat' first
    | with_reducible assumption
    | (with_reducible apply State.event_keeps)
    | (with_reducible apply State.sourceEdge_keeps)
    | (with_reducible refine Keeps.foldl ?_ ?_)
    | (with_reducible refine Keeps.foldlFst ?_ ?_)
    | (with_reducible refine Keeps.foldlSnd ?_ ?_)
    | (intro b x hb; try dsimp only [State.takeFree, State.freshId])
    | split
    | (apply Keeps.upd)
    | exact fun _ w => w
    | (intro b w; try dsimp only; (repeat' split) <;> first | exact w | (rw [Core.wf_iff] at *; exact w) | (simp only [Port.onLane_store, Port.discard_store, Port.acked_store]; exact w))
    | exact fun w => w
    | exact rfl
    | exact fun w => State.port_wf w
    | (intro w; simp only [Port.onLane_store, Port.discard_store, Port.acked_store]; exact State.port_wf w)

theorem execTickInMissed_keeps {s a t : State} (h : Keeps s a) (e : execTickInMissed a = .next t) : Keeps s t := by
  unfold execTickInMissed at e
  try dsimp only at e
  repeat' split at e
  all_goals first | (cases e; done) | (injection e with e; subst e)
  all_goals try dsimp only [State.takeFree, State.freshId]
  repeat' first
    | with_reducible assumption
    | (with_reducible apply State.sourceEdge_keeps)
    | (with_reducible apply State.event_keeps)
    | (with_reducible refine Keeps.foldl ?_ ?_)
    | (with_reducible refine Keeps.foldlFst ?_ ?_)
    | (with_reducible refine Keeps.foldlSnd ?_ ?_)
    | (intro b x hb; try dsimp only [State.takeFree, State.freshId])
    | split
    | (apply Keeps.upd)
    | exact fun _ w => w
    | (intro b w; try dsimp only; (repeat' split) <;> first | exact w | (rw [Core.wf_iff] at *; exact w) | (simp only [Port.onLane_store, Port.discard_store, Port.acked_store]; exact w))
    | exact fun w => w
    | exact rfl
    | exact fun w => State.port_wf w
    | (intro w; simp only [Port.onLane_store, Port.discard_store, Port.acked_store]; exact State.port_wf w)

theorem execInternalTimerExpiry_keeps {s a t : State} (h : Keeps s a) (e : execInternalTimerExpiry a = .next t) : Keeps s t := by
  unfold execInternalTimerExpiry at e
  try dsimp only at e
  repeat' split at e
  all_goals first | (cases e; done) | (injection e with e; subst e)
  all_goals try dsimp only [State.takeFree, State.freshId]
  repeat' first
    | with_reducible assumption
    | (with_reducible apply State.sourceEdge_keeps)
    | (with_reducible refine Keeps.foldl ?_ ?_)
    | (with_reducible refine Keeps.foldlFst ?_ ?_)
    | (with_reducible refine Keeps.foldlSnd ?_ ?_)
    | (intro b x hb; try dsimp only [State.takeFree, State.freshId])
    | split
    | (apply Keeps.upd)
    | exact fun _ w => w
    | (intro b w; try dsimp only; (repeat' split) <;> first | exact w | (rw [Core.wf_iff] at *; exact w) | (simp only [Port.onLane_store, Port.discard_store, Port.acked_store]; exact w))
    | exact fun w => w
    | exact rfl
    | exact fun w => State.port_wf w
    | (intro w; simp only [Port.onLane_store, Port.discard_store, Port.acked_store]; exact State.port_wf w)

theorem execPtmExchange_keeps {s a t : State} {ok : Bool} {ptmNs : Sys2Proof.W64} {phaseErr : ℤ} (h : Keeps s a) (e : execPtmExchange ok ptmNs phaseErr a = .next t) : Keeps s t := by
  unfold execPtmExchange at e
  try dsimp only at e
  repeat' split at e
  all_goals first | (cases e; done) | (injection e with e; subst e)
  all_goals try dsimp only [State.takeFree, State.freshId]
  repeat' first
    | with_reducible assumption
    | (with_reducible apply State.event_keeps)
    | (with_reducible refine Keeps.foldl ?_ ?_)
    | (with_reducible refine Keeps.foldlFst ?_ ?_)
    | (with_reducible refine Keeps.foldlSnd ?_ ?_)
    | (intro b x hb; try dsimp only [State.takeFree, State.freshId])
    | split
    | (apply Keeps.upd)
    | exact fun _ w => w
    | (intro b w; try dsimp only; (repeat' split) <;> first | exact w | (rw [Core.wf_iff] at *; exact w) | (simp only [Port.onLane_store, Port.discard_store, Port.acked_store]; exact w))
    | exact fun w => w
    | exact rfl
    | exact fun w => State.port_wf w
    | (intro w; simp only [Port.onLane_store, Port.discard_store, Port.acked_store]; exact State.port_wf w)

theorem execPtmLost_keeps {s a t : State} (h : Keeps s a) (e : execPtmLost a = .next t) : Keeps s t := by
  unfold execPtmLost at e
  try dsimp only at e
  repeat' split at e
  all_goals first | (cases e; done) | (injection e with e; subst e)
  all_goals try dsimp only [State.takeFree, State.freshId]
  repeat' first
    | with_reducible assumption
    | (with_reducible apply State.event_keeps)
    | (with_reducible refine Keeps.foldl ?_ ?_)
    | (with_reducible refine Keeps.foldlFst ?_ ?_)
    | (with_reducible refine Keeps.foldlSnd ?_ ?_)
    | (intro b x hb; try dsimp only [State.takeFree, State.freshId])
    | split
    | (apply Keeps.upd)
    | exact fun _ w => w
    | (intro b w; try dsimp only; (repeat' split) <;> first | exact w | (rw [Core.wf_iff] at *; exact w) | (simp only [Port.onLane_store, Port.discard_store, Port.acked_store]; exact w))
    | exact fun w => w
    | exact rfl
    | exact fun w => State.port_wf w
    | (intro w; simp only [Port.onLane_store, Port.discard_store, Port.acked_store]; exact State.port_wf w)

theorem execTickEdge_keeps {s a t : State} (h : Keeps s a) (e : execTickEdge a = .next t) : Keeps s t := by
  unfold execTickEdge at e
  try dsimp only at e
  repeat' split at e
  all_goals first | (cases e; done) | (injection e with e; subst e)
  all_goals try dsimp only [State.takeFree, State.freshId]
  repeat' first
    | with_reducible assumption
    | (with_reducible apply State.dueEdge_keeps)
    | (with_reducible refine Keeps.foldl ?_ ?_)
    | (with_reducible refine Keeps.foldlFst ?_ ?_)
    | (with_reducible refine Keeps.foldlSnd ?_ ?_)
    | (intro b x hb; try dsimp only [State.takeFree, State.freshId])
    | split

theorem execTickOutFall_keeps {s a t : State} (h : Keeps s a) (e : execTickOutFall a = .next t) : Keeps s t := by
  unfold execTickOutFall at e
  try dsimp only at e
  repeat' split at e
  all_goals first | (cases e; done) | (injection e with e; subst e)
  all_goals try dsimp only [State.takeFree, State.freshId]
  repeat' first
    | with_reducible assumption
    | (with_reducible refine Keeps.foldl ?_ ?_)
    | (with_reducible refine Keeps.foldlFst ?_ ?_)
    | (with_reducible refine Keeps.foldlSnd ?_ ?_)
    | (intro b x hb; try dsimp only [State.takeFree, State.freshId])
    | split
    | (apply Keeps.upd)
    | exact fun _ w => w
    | (intro b w; try dsimp only; (repeat' split) <;> first | exact w | (rw [Core.wf_iff] at *; exact w) | (simp only [Port.onLane_store, Port.discard_store, Port.acked_store]; exact w))
    | exact fun w => w
    | exact rfl
    | exact fun w => State.port_wf w
    | (intro w; simp only [Port.onLane_store, Port.discard_store, Port.acked_store]; exact State.port_wf w)

theorem execRunWindowOpen_keeps {s a t : State} (h : Keeps s a) (e : execRunWindowOpen a = .next t) : Keeps s t := by
  unfold execRunWindowOpen at e
  try dsimp only at e
  repeat' split at e
  all_goals first | (cases e; done) | (injection e with e; subst e)
  all_goals try dsimp only [State.takeFree, State.freshId]
  repeat' first
    | with_reducible assumption
    | (with_reducible apply State.endFreeze_keeps)
    | (with_reducible refine Keeps.foldl ?_ ?_)
    | (with_reducible refine Keeps.foldlFst ?_ ?_)
    | (with_reducible refine Keeps.foldlSnd ?_ ?_)
    | (intro b x hb; try dsimp only [State.takeFree, State.freshId])
    | split
    | (apply Keeps.upd)
    | exact fun _ w => w
    | (intro b w; try dsimp only; (repeat' split) <;> first | exact w | (rw [Core.wf_iff] at *; exact w) | (simp only [Port.onLane_store, Port.discard_store, Port.acked_store]; exact w))
    | exact fun w => w
    | exact rfl
    | exact fun w => State.port_wf w
    | (intro w; simp only [Port.onLane_store, Port.discard_store, Port.acked_store]; exact State.port_wf w)

theorem execDrainComplete_keeps {s a t : State} {p : Fin 16} (h : Keeps s a) (e : execDrainComplete p a = .next t) : Keeps s t := by
  unfold execDrainComplete at e
  try dsimp only at e
  repeat' split at e
  all_goals first | (cases e; done) | (injection e with e; subst e)
  all_goals try dsimp only [State.takeFree, State.freshId]
  repeat' first
    | with_reducible assumption
    | (with_reducible apply State.setPart_keeps)
    | (with_reducible refine Keeps.foldl ?_ ?_)
    | (with_reducible refine Keeps.foldlFst ?_ ?_)
    | (with_reducible refine Keeps.foldlSnd ?_ ?_)
    | (intro b x hb; try dsimp only [State.takeFree, State.freshId])
    | split

theorem execLateDrainDone_keeps {s a t : State} {p : Fin 16} (h : Keeps s a) (e : execLateDrainDone p a = .next t) : Keeps s t := by
  unfold execLateDrainDone at e
  try dsimp only at e
  repeat' split at e
  all_goals first | (cases e; done) | (injection e with e; subst e)
  all_goals try dsimp only [State.takeFree, State.freshId]
  repeat' first
    | with_reducible assumption
    | (with_reducible apply State.consume_keeps)
    | (with_reducible apply State.setPart_keeps)
    | (with_reducible apply State.tryOpen_keeps)
    | (with_reducible refine Keeps.foldl ?_ ?_)
    | (with_reducible refine Keeps.foldlFst ?_ ?_)
    | (with_reducible refine Keeps.foldlSnd ?_ ?_)
    | (intro b x hb; try dsimp only [State.takeFree, State.freshId])
    | split

theorem execRosterLoadDone_keeps {s a t : State} {p : Fin 16} {cups : List CupolaUpset} {bursts : List (Nat × BurstRec)} (h : Keeps s a) (e : execRosterLoadDone p a cups bursts = .next t) : Keeps s t := by
  unfold execRosterLoadDone at e
  try dsimp only at e
  repeat' split at e
  all_goals first | (cases e; done) | (injection e with e; subst e)
  all_goals try dsimp only [State.takeFree, State.freshId]
  repeat' first
    | with_reducible assumption
    | (with_reducible apply State.strike_keeps)
    | (with_reducible apply State.countEach_keeps)
    | (with_reducible apply State.startRoster_keeps)
    | (with_reducible refine Keeps.foldl ?_ ?_)
    | (with_reducible refine Keeps.foldlFst ?_ ?_)
    | (with_reducible refine Keeps.foldlSnd ?_ ?_)
    | (intro b x hb; try dsimp only [State.takeFree, State.freshId])
    | split

theorem execTickRootDecide_keeps {s a t : State} (h : Keeps s a) (e : execTickRootDecide a = .next t) : Keeps s t := by
  unfold execTickRootDecide at e
  try dsimp only at e
  repeat' split at e
  all_goals first | (cases e; done) | (injection e with e; subst e)
  all_goals try dsimp only [State.takeFree, State.freshId]
  repeat' first
    | with_reducible assumption
    | (with_reducible apply State.decideEdge_keeps)
    | (with_reducible refine Keeps.foldl ?_ ?_)
    | (with_reducible refine Keeps.foldlFst ?_ ?_)
    | (with_reducible refine Keeps.foldlSnd ?_ ?_)
    | (intro b x hb; try dsimp only [State.takeFree, State.freshId])
    | split

theorem execPodStall_keeps {s a t : State} {waiting : List (BitVec 8 × BitVec 16)} (h : Keeps s a) (e : execPodStall waiting a = .next t) : Keeps s t := by
  unfold execPodStall at e
  try dsimp only at e
  repeat' split at e
  all_goals first | (cases e; done) | (injection e with e; subst e)
  all_goals try dsimp only [State.takeFree, State.freshId]
  repeat' first
    | with_reducible assumption
    | (with_reducible apply State.signal_keeps)
    | (with_reducible apply State.event_keeps)
    | (with_reducible refine Keeps.foldl ?_ ?_)
    | (with_reducible refine Keeps.foldlFst ?_ ?_)
    | (with_reducible refine Keeps.foldlSnd ?_ ?_)
    | (intro b x hb; try dsimp only [State.takeFree, State.freshId])
    | split
    | (apply Keeps.upd)
    | exact fun _ w => w
    | (intro b w; try dsimp only; (repeat' split) <;> first | exact w | (rw [Core.wf_iff] at *; exact w) | (simp only [Port.onLane_store, Port.discard_store, Port.acked_store]; exact w))
    | exact fun w => w
    | exact rfl
    | exact fun w => State.port_wf w
    | (intro w; simp only [Port.onLane_store, Port.discard_store, Port.acked_store]; exact State.port_wf w)

theorem execPodStallSentinel_keeps {s a t : State} {p : Fin 16} (h : Keeps s a) (e : execPodStallSentinel p a = .next t) : Keeps s t := by
  unfold execPodStallSentinel at e
  try dsimp only at e
  repeat' split at e
  all_goals first | (cases e; done) | (injection e with e; subst e)
  all_goals try dsimp only [State.takeFree, State.freshId]
  repeat' first
    | with_reducible assumption
    | (with_reducible apply State.setPart_keeps)
    | (with_reducible apply State.logStalls_keeps)
    | (with_reducible apply State.freezeAll_keeps)
    | (with_reducible refine Keeps.foldl ?_ ?_)
    | (with_reducible refine Keeps.foldlFst ?_ ?_)
    | (with_reducible refine Keeps.foldlSnd ?_ ?_)
    | (intro b x hb; try dsimp only [State.takeFree, State.freshId])
    | split

end Sys2Proof.Machine
end

