-- ==== Sys2Proof/Laws/KeepsExecLink.lean ====
section
/-! SUPPORT. What the commands of these families keep (see Keeps): Span, Partition, Host, Store, Logs, Power, Messages. -/

set_option linter.unusedTactic false
set_option linter.unreachableTactic false
set_option linter.unusedVariables false

namespace Sys2Proof.Machine

theorem execSpanTrainingDone_keeps {s a t : State} {port : Fin 8} {good : BitVec 6} (h : Keeps s a) (e : execSpanTrainingDone port good a = .next t) : Keeps s t := by
  unfold execSpanTrainingDone at e
  try dsimp only at e
  repeat' split at e
  all_goals first | (cases e; done) | (injection e with e; subst e)
  all_goals try dsimp only [State.takeFree, State.freshId]
  repeat' first
    | with_reducible assumption
    | (with_reducible apply State.portDown_keeps)
    | (with_reducible apply State.setPort_keeps)
    | (with_reducible apply State.degraded_keeps)
    | (with_reducible apply State.sendCtrl_keeps)
    | (with_reducible refine Keeps.foldl ?_ ?_)
    | (with_reducible refine Keeps.foldlFst ?_ ?_)
    | (with_reducible refine Keeps.foldlSnd ?_ ?_)
    | (intro b x hb; try dsimp only [State.takeFree, State.freshId])
    | split
    | (apply Keeps.upd)
    | exact fun _ w => w
    | (intro b w; try dsimp only; (repeat' split) <;> first | exact w | (rw [Core.wf_iff] at *; exact w) | (simp only [Port.onLane_store, Port.discard_store, Port.acked_store]; exact w))
    | exact fun w => w
    | exact rfl
    | exact fun w => State.port_wf w
    | (intro w; simp only [Port.onLane_store, Port.discard_store, Port.acked_store]; exact State.port_wf w)

theorem execSpanTrainingTimeout_keeps {s a t : State} {port : Fin 8} (h : Keeps s a) (e : execSpanTrainingTimeout port a = .next t) : Keeps s t := by
  unfold execSpanTrainingTimeout at e
  try dsimp only at e
  repeat' split at e
  all_goals first | (cases e; done) | (injection e with e; subst e)
  all_goals try dsimp only [State.takeFree, State.freshId]
  repeat' first
    | with_reducible assumption
    | (with_reducible apply State.portDown_keeps)
    | (with_reducible refine Keeps.foldl ?_ ?_)
    | (with_reducible refine Keeps.foldlFst ?_ ?_)
    | (with_reducible refine Keeps.foldlSnd ?_ ?_)
    | (intro b x hb; try dsimp only [State.takeFree, State.freshId])
    | split

theorem execLaneGroupFail_keeps {s a t : State} {port : Fin 8} {group : Fin 6} (h : Keeps s a) (e : execLaneGroupFail port group a = .next t) : Keeps s t := by
  unfold execLaneGroupFail at e
  try dsimp only at e
  repeat' split at e
  all_goals first | (cases e; done) | (injection e with e; subst e)
  all_goals try dsimp only [State.takeFree, State.freshId]
  repeat' first
    | with_reducible assumption
    | (with_reducible apply State.failGroup_keeps)
    | (with_reducible refine Keeps.foldl ?_ ?_)
    | (with_reducible refine Keeps.foldlFst ?_ ?_)
    | (with_reducible refine Keeps.foldlSnd ?_ ?_)
    | (intro b x hb; try dsimp only [State.takeFree, State.freshId])
    | split

theorem execLink_keeps {s a t : State} {port : Fin 8} {rec : Sys2Proof.LinkRec} (h : Keeps s a) (e : execLink port rec a = .next t) : Keeps s t := by
  unfold execLink at e
  try dsimp only at e
  repeat' split at e
  all_goals first | (cases e; done) | (injection e with e; subst e)
  all_goals try dsimp only [State.takeFree, State.freshId]
  repeat' first
    | with_reducible assumption
    | (with_reducible apply State.setPort_keeps)
    | (with_reducible apply State.mismatch_keeps)
    | (with_reducible apply State.tryUp_keeps)
    | (with_reducible refine Keeps.foldl ?_ ?_)
    | (with_reducible refine Keeps.foldlFst ?_ ?_)
    | (with_reducible refine Keeps.foldlSnd ?_ ?_)
    | (intro b x hb; try dsimp only [State.takeFree, State.freshId])
    | split
    | (apply Keeps.upd)
    | exact fun _ w => w
    | (intro b w; try dsimp only; (repeat' split) <;> first | exact w | (rw [Core.wf_iff] at *; exact w) | (simp only [Port.onLane_store, Port.discard_store, Port.acked_store]; exact w))
    | exact fun w => w
    | exact rfl
    | exact fun w => State.port_wf w
    | (intro w; simp only [Port.onLane_store, Port.discard_store, Port.acked_store]; exact State.port_wf w)

theorem execPing_keeps {s a t : State} {port : Fin 8} {pong : Bool} {sent : Sys2Proof.W64} {arrived : Sys2Proof.W64} (h : Keeps s a) (e : execPing port pong sent arrived a = .next t) : Keeps s t := by
  unfold execPing at e
  try dsimp only at e
  repeat' split at e
  all_goals first | (cases e; done) | (injection e with e; subst e)
  all_goals try dsimp only [State.takeFree, State.freshId]
  repeat' first
    | with_reducible assumption
    | (with_reducible apply State.sendCtrl_keeps)
    | (with_reducible apply State.setPort_keeps)
    | (with_reducible apply State.mismatch_keeps)
    | (with_reducible apply State.tryUp_keeps)
    | (with_reducible refine Keeps.foldl ?_ ?_)
    | (with_reducible refine Keeps.foldlFst ?_ ?_)
    | (with_reducible refine Keeps.foldlSnd ?_ ?_)
    | (intro b x hb; try dsimp only [State.takeFree, State.freshId])
    | split
    | (apply Keeps.upd)
    | exact fun _ w => w
    | (intro b w; try dsimp only; (repeat' split) <;> first | exact w | (rw [Core.wf_iff] at *; exact w) | (simp only [Port.onLane_store, Port.discard_store, Port.acked_store]; exact w))
    | exact fun w => w
    | exact rfl
    | exact fun w => State.port_wf w
    | (intro w; simp only [Port.onLane_store, Port.discard_store, Port.acked_store]; exact State.port_wf w)

theorem execCredit_keeps {s a t : State} {port : Fin 8} {c0 : BitVec 8} {c1 : BitVec 8} {c2 : BitVec 8} (h : Keeps s a) (e : execCredit port c0 c1 c2 a = .next t) : Keeps s t := by
  unfold execCredit at e
  try dsimp only at e
  repeat' split at e
  all_goals first | (cases e; done) | (injection e with e; subst e)
  all_goals try dsimp only [State.takeFree, State.freshId]
  repeat' first
    | with_reducible assumption
    | (with_reducible apply State.onPort_keeps)
    | (with_reducible refine Keeps.foldl ?_ ?_)
    | (with_reducible refine Keeps.foldlFst ?_ ?_)
    | (with_reducible refine Keeps.foldlSnd ?_ ?_)
    | (intro b x hb; try dsimp only [State.takeFree, State.freshId])
    | split
    | (apply Keeps.upd)
    | exact fun _ w => w
    | (intro b w; try dsimp only; (repeat' split) <;> first | exact w | (rw [Core.wf_iff] at *; exact w) | (simp only [Port.onLane_store, Port.discard_store, Port.acked_store]; exact w))
    | exact fun w => w
    | exact rfl
    | exact fun w => State.port_wf w
    | (intro w; simp only [Port.onLane_store, Port.discard_store, Port.acked_store]; exact State.port_wf w)

theorem execReplayTimeout_keeps {s a t : State} {port : Fin 8} (h : Keeps s a) (e : execReplayTimeout port a = .next t) : Keeps s t := by
  unfold execReplayTimeout at e
  try dsimp only at e
  repeat' split at e
  all_goals first | (cases e; done) | (injection e with e; subst e)
  all_goals try dsimp only [State.takeFree, State.freshId]
  repeat' first
    | with_reducible assumption
    | (with_reducible apply State.startReplay_keeps)
    | (with_reducible refine Keeps.foldl ?_ ?_)
    | (with_reducible refine Keeps.foldlFst ?_ ?_)
    | (with_reducible refine Keeps.foldlSnd ?_ ?_)
    | (intro b x hb; try dsimp only [State.takeFree, State.freshId])
    | split

theorem execRxActionComplete_keeps {s a t : State} {port : Fin 8} (h : Keeps s a) (e : execRxActionComplete port a = .next t) : Keeps s t := by
  unfold execRxActionComplete at e
  try dsimp only at e
  repeat' split at e
  all_goals first | (cases e; done) | (injection e with e; subst e)
  all_goals try dsimp only [State.takeFree, State.freshId]
  repeat' first
    | with_reducible assumption
    | (with_reducible apply State.setPort_keeps)
    | (with_reducible apply State.sendPush_keeps)
    | (with_reducible refine Keeps.snd (State.sendPush_keeps (h := ?_) ..) (by with_reducible assumption))
    | (with_reducible refine Keeps.foldl ?_ ?_)
    | (with_reducible refine Keeps.foldlFst ?_ ?_)
    | (with_reducible refine Keeps.foldlSnd ?_ ?_)
    | (intro b x hb; try dsimp only [State.takeFree, State.freshId])
    | split
    | (apply Keeps.upd)
    | exact fun _ w => w
    | (intro b w; try dsimp only; (repeat' split) <;> first | exact w | (rw [Core.wf_iff] at *; exact w) | (simp only [Port.onLane_store, Port.discard_store, Port.acked_store]; exact w))
    | exact fun w => w
    | exact rfl
    | exact fun w => State.port_wf w
    | (intro w; simp only [Port.onLane_store, Port.discard_store, Port.acked_store]; exact State.port_wf w)

theorem execSpanFrame_keeps {s a t : State} {port : Fin 8} {frame : FrameRec} (h : Keeps s a) (e : execSpanFrame port frame a = .next t) : Keeps s t := by
  unfold execSpanFrame at e
  have h0 := State.dueEdge_keeps h
  generalize a.dueEdge = a0 at e h0
  dsimp only at e
  split at e
  · injection e with e; subst e
    exact h0
  · generalize hq : a0.setPort port.val _ = q at e
    have k : Keeps s q := by
      rw [← hq]
      exact State.setPort_keeps _ _ h0 (fun w => State.port_wf w)
    have l : Keeps s (frame.flits.foldl (fun (b : State) f => if frame.decoded then b.takeFlit port.val f else b.dropFlit port.val f) q) :=
      Keeps.foldl k (fun b x hb => Keeps.ite (State.takeFlit_keeps _ _ hb) (State.dropFlit_keeps _ _ hb))
    generalize List.foldl (fun (b : State) f => if frame.decoded then b.takeFlit port.val f else b.dropFlit port.val f) q frame.flits = r at l e
    injection e with e; subst e
    refine Keeps.foldl ?_ (fun b x hb => State.failGroup_keeps _ _ hb)
    exact Keeps.ite (State.retrain_keeps _ _ l) l

theorem execSpanSlot_keeps {s a t : State} {port : Fin 8} (h : Keeps s a) (e : execSpanSlot port a = .next t) : Keeps s t := by
  unfold execSpanSlot at e
  try dsimp only at e
  repeat' split at e
  all_goals first | (cases e; done) | (injection e with e; subst e)
  · exact State.setPort_keeps _ _ h (fun w => State.port_wf w)
  all_goals
    first
    | with_reducible assumption
    | (with_reducible apply State.sendFlit_keeps _ _ h)
    | (with_reducible apply State.sendReplay_keeps _ h)
    | (with_reducible apply State.sendControl_keeps _ h)
    | (with_reducible exact State.sendEntry_keeps _ _ _ _ h)
    | (exact State.sendBulkFlit_keeps _ _ h (by with_reducible assumption))

theorem execBeacon_keeps {s a t : State} {port : Fin 8} {rec : Sys2Proof.BeaconRec} (h : Keeps s a) (e : execBeacon port rec a = .next t) : Keeps s t := by
  unfold execBeacon at e
  try dsimp only at e
  repeat' split at e
  all_goals first | (cases e; done) | (injection e with e; subst e)
  all_goals try dsimp only [State.takeFree, State.freshId]
  repeat' first
    | with_reducible assumption
    | (with_reducible apply State.sendCtrl_keeps)
    | (with_reducible apply State.event_keeps)
    | (with_reducible refine Keeps.foldl ?_ ?_)
    | (with_reducible refine Keeps.foldlFst ?_ ?_)
    | (with_reducible refine Keeps.foldlSnd ?_ ?_)
    | (intro b x hb; try dsimp only [State.takeFree, State.freshId])
    | split
    | (apply Keeps.upd)
    | exact fun _ w => w
    | (intro b w; try dsimp only; (repeat' split) <;> first | exact w | (rw [Core.wf_iff] at *; exact w) | (simp only [Port.onLane_store, Port.discard_store, Port.acked_store]; exact w))
    | exact fun w => w
    | exact rfl
    | exact fun w => State.port_wf w
    | (intro w; simp only [Port.onLane_store, Port.discard_store, Port.acked_store]; exact State.port_wf w)

theorem execDone_keeps {s a t : State} {port : Fin 8} {rec : Sys2Proof.DoneRec} (h : Keeps s a) (e : execDone port rec a = .next t) : Keeps s t := by
  unfold execDone at e
  try dsimp only at e
  repeat' split at e
  all_goals first | (cases e; done) | (injection e with e; subst e)
  all_goals try dsimp only [State.takeFree, State.freshId]
  repeat' first
    | with_reducible assumption
    | (with_reducible apply State.sendDone_keeps)
    | (with_reducible refine Keeps.foldl ?_ ?_)
    | (with_reducible refine Keeps.foldlFst ?_ ?_)
    | (with_reducible refine Keeps.foldlSnd ?_ ?_)
    | (intro b x hb; try dsimp only [State.takeFree, State.freshId])
    | split
    | (apply Keeps.upd)
    | exact fun _ w => w
    | (intro b w; try dsimp only; (repeat' split) <;> first | exact w | (rw [Core.wf_iff] at *; exact w) | (simp only [Port.onLane_store, Port.discard_store, Port.acked_store]; exact w))
    | exact fun w => w
    | exact rfl
    | exact fun w => State.port_wf w
    | (intro w; simp only [Port.onLane_store, Port.discard_store, Port.acked_store]; exact State.port_wf w)

theorem execBootDonePod_keeps {s a t : State} (h : Keeps s a) (e : execBootDonePod a = .next t) : Keeps s t := by
  unfold execBootDonePod at e
  try dsimp only at e
  repeat' split at e
  all_goals first | (cases e; done) | (injection e with e; subst e)
  all_goals try dsimp only [State.takeFree, State.freshId]
  repeat' first
    | with_reducible assumption
    | (with_reducible apply State.sendCtrl_keeps)
    | (with_reducible refine Keeps.foldl ?_ ?_)
    | (with_reducible refine Keeps.foldlFst ?_ ?_)
    | (with_reducible refine Keeps.foldlSnd ?_ ?_)
    | (intro b x hb; try dsimp only [State.takeFree, State.freshId])
    | split
    | (apply Keeps.upd)
    | exact fun _ w => w
    | (intro b w; try dsimp only; (repeat' split) <;> first | exact w | (rw [Core.wf_iff] at *; exact w) | (simp only [Port.onLane_store, Port.discard_store, Port.acked_store]; exact w))
    | exact fun w => w
    | exact rfl
    | exact fun w => State.port_wf w
    | (intro w; simp only [Port.onLane_store, Port.discard_store, Port.acked_store]; exact State.port_wf w)

theorem execHold_keeps {s a t : State} {port : Option (Fin 8)} {tick : Sys2Proof.W64} {podId : Sys2Proof.W32} (h : Keeps s a) (e : execHold port tick podId a = .next t) : Keeps s t := by
  unfold execHold at e
  try dsimp only at e
  repeat' split at e
  all_goals first | (cases e; done) | (injection e with e; subst e)
  all_goals try dsimp only [State.takeFree, State.freshId]
  repeat' first
    | with_reducible assumption
    | (with_reducible apply State.sendCtrl_keeps)
    | (with_reducible refine Keeps.foldl ?_ ?_)
    | (with_reducible refine Keeps.foldlFst ?_ ?_)
    | (with_reducible refine Keeps.foldlSnd ?_ ?_)
    | (intro b x hb; try dsimp only [State.takeFree, State.freshId])
    | split
    | (apply Keeps.upd)
    | exact fun _ w => w
    | (intro b w; try dsimp only; (repeat' split) <;> first | exact w | (rw [Core.wf_iff] at *; exact w) | (simp only [Port.onLane_store, Port.discard_store, Port.acked_store]; exact w))
    | exact fun w => w
    | exact rfl
    | exact fun w => State.port_wf w
    | (intro w; simp only [Port.onLane_store, Port.discard_store, Port.acked_store]; exact State.port_wf w)

theorem execBeaconLost_keeps {s a t : State} (h : Keeps s a) (e : execBeaconLost a = .next t) : Keeps s t := by
  unfold execBeaconLost at e
  try dsimp only at e
  repeat' split at e
  all_goals first | (cases e; done) | (injection e with e; subst e)
  all_goals try dsimp only [State.takeFree, State.freshId]
  repeat' first
    | with_reducible assumption
    | (with_reducible apply State.signal_keeps)
    | (with_reducible apply State.event_keeps)
    | (with_reducible refine Keeps.foldl ?_ ?_)
    | (with_reducible refine Keeps.foldlFst ?_ ?_)
    | (with_reducible refine Keeps.foldlSnd ?_ ?_)
    | (intro b x hb; try dsimp only [State.takeFree, State.freshId])
    | split
    | (apply Keeps.upd)
    | exact fun _ w => w
    | (intro b w; try dsimp only; (repeat' split) <;> first | exact w | (rw [Core.wf_iff] at *; exact w) | (simp only [Port.onLane_store, Port.discard_store, Port.acked_store]; exact w))
    | exact fun w => w
    | exact rfl
    | exact fun w => State.port_wf w
    | (intro w; simp only [Port.onLane_store, Port.discard_store, Port.acked_store]; exact State.port_wf w)

theorem State.dropRecords_keeps {s a : State} (of : Nat → Bool) (h : Keeps s a) : Keeps s (a.dropRecords of) :=
  Keeps.foldl h (fun _ _ hb => State.onPart_keeps _ _ hb)

theorem execLeftPod_keeps {s a t : State}  (h : Keeps s a) (e : execLeftPod a = .next t) : Keeps s t := by
  unfold execLeftPod at e
  split at e
  · injection e with e; subst e
    have k : Keeps s ((List.range 8).foldl (fun (b : State) i => if (b.port i).lives then b.sendCtrl i a.leaveRecord else b) a) :=
      Keeps.foldl h (fun b x hb => Keeps.ite (State.sendCtrl_keeps _ _ _ hb) hb)
    generalize List.foldl _ a _ = q at k ⊢
    have l := State.dropRecords_keeps (fun _ => true) k
    dsimp only
    generalize q.dropRecords _ = r at l ⊢
    exact State.signal_keeps _ _ (State.event_keeps _ _ _ _ _ (l.to rfl rfl id rfl id id id))
  · injection e with e; subst e
    exact h

theorem execLeave_keeps {s a t : State} {port : Fin 8} {dev : BitVec 8} {podId : Sys2Proof.W32} (h : Keeps s a) (e : execLeave port dev podId a = .next t) : Keeps s t := by
  unfold execLeave at e
  try dsimp only at e
  repeat' split at e
  all_goals first | (cases e; done) | (injection e with e; subst e)
  all_goals try dsimp only [State.takeFree, State.freshId]
  repeat' first
    | with_reducible assumption
    | (with_reducible apply State.signal_keeps)
    | (with_reducible apply State.event_keeps)
    | (with_reducible apply State.setPort_keeps)
    | (with_reducible refine Keeps.foldl ?_ ?_)
    | (with_reducible refine Keeps.foldlFst ?_ ?_)
    | (with_reducible refine Keeps.foldlSnd ?_ ?_)
    | (intro b x hb; try dsimp only [State.takeFree, State.freshId])
    | split
    | (apply Keeps.upd)
    | exact fun _ w => w
    | (intro b w; try dsimp only; (repeat' split) <;> first | exact w | (rw [Core.wf_iff] at *; exact w) | (simp only [Port.onLane_store, Port.discard_store, Port.acked_store]; exact w))
    | exact fun w => w
    | exact rfl
    | exact fun w => State.port_wf w
    | (intro w; simp only [Port.onLane_store, Port.discard_store, Port.acked_store]; exact State.port_wf w)

theorem execSpanPllUnlock_keeps {s a t : State} {port : Fin 8} (h : Keeps s a) (e : execSpanPllUnlock port a = .next t) : Keeps s t := by
  unfold execSpanPllUnlock at e
  try dsimp only at e
  repeat' split at e
  all_goals first | (cases e; done) | (injection e with e; subst e)
  all_goals try dsimp only [State.takeFree, State.freshId]
  repeat' first
    | with_reducible assumption
    | (with_reducible apply State.portDown_keeps)
    | (with_reducible refine Keeps.foldl ?_ ?_)
    | (with_reducible refine Keeps.foldlFst ?_ ?_)
    | (with_reducible refine Keeps.foldlSnd ?_ ?_)
    | (intro b x hb; try dsimp only [State.takeFree, State.freshId])
    | split

theorem execStagingStart_keeps {s a t : State} (h : Keeps s a) (e : execStagingStart a = .next t) : Keeps s t := by
  unfold execStagingStart at e
  try dsimp only at e
  repeat' split at e
  all_goals first | (cases e; done) | (injection e with e; subst e)
  all_goals try dsimp only [State.takeFree, State.freshId]
  repeat' first
    | with_reducible assumption
    | (with_reducible apply State.dueEdge_keeps)
    | (with_reducible apply State.setObj_keeps)
    | (with_reducible apply State.onStore_keeps)
    | (with_reducible refine Keeps.foldl ?_ ?_)
    | (with_reducible refine Keeps.foldlFst ?_ ?_)
    | (with_reducible refine Keeps.foldlSnd ?_ ?_)
    | (intro b x hb; try dsimp only [State.takeFree, State.freshId])
    | split

theorem execStagingComplete_keeps {s a t : State} {bad : Option Nat} {bursts : List (Nat × BurstRec)} (h : Keeps s a) (e : execStagingComplete bad a bursts = .next t) : Keeps s t := by
  unfold execStagingComplete at e
  replace h := State.dueEdge_keeps h
  generalize a.dueEdge = b at e h
  dsimp only at e
  repeat' split at e
  all_goals (injection e with e; subst e)
  all_goals first
    | exact h
    | exact State.noteWear_keeps (State.failReplica_keeps _ (State.onStore_keeps _ h))
    | exact State.stageBytes_keeps _ _ _ _ _ (State.countEach_keeps _ (State.onStore_keeps _ h))

theorem execCodewordRead_keeps {s a t : State} {ch : Fin 16} {target : Fin 8} {block : ℕ} {page : ℕ} {slot : ℕ} {ladder : Sys2Proof.LadderRec} (h : Keeps s a) (e : execCodewordRead ch target block page slot ladder a = .next t) : Keeps s t := by
  unfold execCodewordRead at e
  try dsimp only at e
  repeat' split at e
  all_goals first | (cases e; done) | (injection e with e; subst e)
  all_goals try dsimp only [State.takeFree, State.freshId]
  repeat' first
    | with_reducible assumption
    | (with_reducible apply State.onStore_keeps)
    | (with_reducible apply State.runImports_keeps)
    | (with_reducible apply State.noteWear_keeps)
    | (with_reducible apply State.lostCodewords_keeps)
    | (with_reducible refine Keeps.foldl ?_ ?_)
    | (with_reducible refine Keeps.foldlFst ?_ ?_)
    | (with_reducible refine Keeps.foldlSnd ?_ ?_)
    | (intro b x hb; try dsimp only [State.takeFree, State.freshId])
    | split

theorem execNandProgramStatus_keeps {s a t : State} {ch : Fin 16} {target : Fin 8} {block : ℕ} {failed : Bool} (h : Keeps s a) (e : execNandProgramStatus ch target block failed a = .next t) : Keeps s t := by
  unfold execNandProgramStatus at e
  try dsimp only at e
  repeat' split at e
  all_goals first | (cases e; done) | (injection e with e; subst e)
  all_goals try dsimp only [State.takeFree, State.freshId]
  repeat' first
    | with_reducible assumption
    | (with_reducible apply State.onStore_keeps)
    | (with_reducible apply State.runImports_keeps)
    | (with_reducible apply State.noteWear_keeps)
    | (with_reducible apply State.giveUpBlock_keeps)
    | (with_reducible refine Keeps.foldl ?_ ?_)
    | (with_reducible refine Keeps.foldlFst ?_ ?_)
    | (with_reducible refine Keeps.foldlSnd ?_ ?_)
    | (intro b x hb; try dsimp only [State.takeFree, State.freshId])
    | split

theorem execNandTimeout_keeps {s a t : State} {ch : Fin 16} {target : Fin 8} {op : optParam Sys2Proof.NandOp (Sys2Proof.NandOp.read 0 0)} {us : optParam ℕ 0} (h : Keeps s a) (e : execNandTimeout ch target a op us = .next t) : Keeps s t := by
  unfold execNandTimeout at e
  try dsimp only at e
  repeat' split at e
  all_goals first | (cases e; done) | (injection e with e; subst e)
  all_goals try dsimp only [State.takeFree, State.freshId]
  repeat' first
    | with_reducible assumption
    | (with_reducible apply State.onStore_keeps)
    | (with_reducible apply State.timedOut_keeps)
    | (with_reducible apply State.runImports_keeps)
    | (with_reducible apply State.noteWear_keeps)
    | (with_reducible apply State.event_keeps)
    | (with_reducible refine Keeps.foldl ?_ ?_)
    | (with_reducible refine Keeps.foldlFst ?_ ?_)
    | (with_reducible refine Keeps.foldlSnd ?_ ?_)
    | (intro b x hb; try dsimp only [State.takeFree, State.freshId])
    | split

theorem execZqCalibrationShort_keeps {s a t : State} {ch : optParam (Fin 16) 0} {target : optParam (Fin 8) 0} {temp : optParam ℤ 0} (h : Keeps s a) (e : execZqCalibrationShort a ch target temp = .next t) : Keeps s t := by
  unfold execZqCalibrationShort at e
  try dsimp only at e
  repeat' split at e
  all_goals first | (cases e; done) | (injection e with e; subst e)
  all_goals try dsimp only [State.takeFree, State.freshId]
  repeat' first
    | with_reducible assumption
    | (with_reducible apply State.onStore_keeps)
    | (with_reducible refine Keeps.foldl ?_ ?_)
    | (with_reducible refine Keeps.foldlFst ?_ ?_)
    | (with_reducible refine Keeps.foldlSnd ?_ ?_)
    | (intro b x hb; try dsimp only [State.takeFree, State.freshId])
    | split

theorem execRetentionPatrol_keeps {s a t : State} {ch : Fin 16} {target : Fin 8} {block : ℕ} {reads : List (ℕ × ℕ × Sys2Proof.LadderRec)} (h : Keeps s a) (e : execRetentionPatrol ch target block reads a = .next t) : Keeps s t := by
  unfold execRetentionPatrol at e
  try dsimp only at e
  repeat' split at e
  all_goals first | (cases e; done) | (injection e with e; subst e)
  all_goals try dsimp only [State.takeFree, State.freshId]
  repeat' first
    | with_reducible assumption
    | (with_reducible apply State.onStore_keeps)
    | (with_reducible apply State.lostCodewords_keeps)
    | (with_reducible apply State.retireBlock_keeps)
    | (with_reducible apply State.noteWear_keeps)
    | (with_reducible apply State.noteRestage_keeps)
    | (with_reducible apply State.refreshObjects_keeps)
    | (with_reducible refine Keeps.foldl ?_ ?_)
    | (with_reducible refine Keeps.foldlFst ?_ ?_)
    | (with_reducible refine Keeps.foldlSnd ?_ ?_)
    | (intro b x hb; try dsimp only [State.takeFree, State.freshId])
    | split

theorem execWearLevelMove_keeps {s a t : State} {ch : Fin 16} {target : Fin 8} {block : ℕ} {dest : ℕ} (h : Keeps s a) (e : execWearLevelMove ch target block dest a = .next t) : Keeps s t := by
  unfold execWearLevelMove at e
  try dsimp only at e
  repeat' split at e
  all_goals first | (cases e; done) | (injection e with e; subst e)
  all_goals try dsimp only [State.takeFree, State.freshId]
  repeat' first
    | with_reducible assumption
    | (with_reducible apply State.noteWear_keeps)
    | (with_reducible apply State.onStore_keeps)
    | (with_reducible refine Keeps.foldl ?_ ?_)
    | (with_reducible refine Keeps.foldlFst ?_ ?_)
    | (with_reducible refine Keeps.foldlSnd ?_ ?_)
    | (intro b x hb; try dsimp only [State.takeFree, State.freshId])
    | split

theorem execFreeSpaceRelocate_keeps {s a t : State} {ch : Fin 16} {target : Fin 8} {block : ℕ} {dest : ℕ} (h : Keeps s a) (e : execFreeSpaceRelocate ch target block dest a = .next t) : Keeps s t := by
  unfold execFreeSpaceRelocate at e
  try dsimp only at e
  repeat' split at e
  all_goals first | (cases e; done) | (injection e with e; subst e)
  all_goals try dsimp only [State.takeFree, State.freshId]
  repeat' first
    | with_reducible assumption
    | (with_reducible apply State.noteWear_keeps)
    | (with_reducible apply State.onStore_keeps)
    | (with_reducible refine Keeps.foldl ?_ ?_)
    | (with_reducible refine Keeps.foldlFst ?_ ?_)
    | (with_reducible refine Keeps.foldlSnd ?_ ?_)
    | (intro b x hb; try dsimp only [State.takeFree, State.freshId])
    | split

theorem execRingBlockReclaim_keeps {s a t : State} (h : Keeps s a) (e : execRingBlockReclaim a = .next t) : Keeps s t := by
  unfold execRingBlockReclaim at e
  try dsimp only at e
  repeat' split at e
  all_goals first | (cases e; done) | (injection e with e; subst e)
  all_goals try dsimp only [State.takeFree, State.freshId]
  repeat' first
    | with_reducible assumption
    | (with_reducible apply State.noteWear_keeps)
    | (with_reducible apply State.onStore_keeps)
    | (with_reducible refine Keeps.foldl ?_ ?_)
    | (with_reducible refine Keeps.foldlFst ?_ ?_)
    | (with_reducible refine Keeps.foldlSnd ?_ ?_)
    | (intro b x hb; try dsimp only [State.takeFree, State.freshId])
    | split

theorem execIndexCheckpoint_keeps {s a t : State} (h : Keeps s a) (e : execIndexCheckpoint a = .next t) : Keeps s t := by
  unfold execIndexCheckpoint at e
  try dsimp only at e
  repeat' split at e
  all_goals first | (cases e; done) | (injection e with e; subst e)
  all_goals try dsimp only [State.takeFree, State.freshId]
  repeat' first
    | with_reducible assumption
    | (with_reducible apply State.noteWear_keeps)
    | (with_reducible apply State.onStore_keeps)
    | (with_reducible refine Keeps.foldl ?_ ?_)
    | (with_reducible refine Keeps.foldlFst ?_ ?_)
    | (with_reducible refine Keeps.foldlSnd ?_ ?_)
    | (intro b x hb; try dsimp only [State.takeFree, State.freshId])
    | split

theorem execLogFlush_keeps {s a t : State} (h : Keeps s a) (e : execLogFlush a = .next t) : Keeps s t := by
  unfold execLogFlush at e
  try dsimp only at e
  repeat' split at e
  all_goals first | (cases e; done) | (injection e with e; subst e)
  all_goals try dsimp only [State.takeFree, State.freshId]
  repeat' first
    | with_reducible assumption
    | (with_reducible apply State.flushLog_keeps)
    | (with_reducible refine Keeps.foldl ?_ ?_)
    | (with_reducible refine Keeps.foldlFst ?_ ?_)
    | (with_reducible refine Keeps.foldlSnd ?_ ?_)
    | (intro b x hb; try dsimp only [State.takeFree, State.freshId])
    | split

theorem execPowerFailLogPage_keeps {s a t : State} {ok : Bool} (h : Keeps s a) (e : execPowerFailLogPage ok a = .next t) : Keeps s t := by
  unfold execPowerFailLogPage at e
  try dsimp only at e
  repeat' split at e
  all_goals first | (cases e; done) | (injection e with e; subst e)
  all_goals try dsimp only [State.takeFree, State.freshId]
  repeat' first
    | with_reducible assumption
    | (with_reducible apply State.event_keeps)
    | (with_reducible apply State.onStore_keeps)
    | (with_reducible refine Keeps.foldl ?_ ?_)
    | (with_reducible refine Keeps.foldlFst ?_ ?_)
    | (with_reducible refine Keeps.foldlSnd ?_ ?_)
    | (intro b x hb; try dsimp only [State.takeFree, State.freshId])
    | split
    | (apply Keeps.upd)
    | exact fun _ w => w
    | (intro b w; try dsimp only; (repeat' split) <;> first | exact w | (rw [Core.wf_iff] at *; exact w) | (simp only [Port.onLane_store, Port.discard_store, Port.acked_store]; exact w))
    | exact fun w => w
    | exact rfl
    | exact fun w => State.port_wf w
    | (intro w; simp only [Port.onLane_store, Port.discard_store, Port.acked_store]; exact State.port_wf w)

theorem execAvsLoopTick_keeps {s a t : State} {answer : Option Sys2Proof.AvsAnswer} {minSlack : ℤ} (h : Keeps s a) (e : execAvsLoopTick answer minSlack a = .next t) : Keeps s t := by
  unfold execAvsLoopTick at e
  try dsimp only at e
  repeat' split at e
  all_goals first | (cases e; done) | (injection e with e; subst e)
  all_goals try dsimp only [State.takeFree, State.freshId]
  repeat' first
    | with_reducible assumption
    | (with_reducible refine State.avsCheck_keeps (h := ?_) (e := by with_reducible assumption) ..)
    | (with_reducible refine Keeps.foldl ?_ ?_)
    | (with_reducible refine Keeps.foldlFst ?_ ?_)
    | (with_reducible refine Keeps.foldlSnd ?_ ?_)
    | (intro b x hb; try dsimp only [State.takeFree, State.freshId])
    | split
    | (apply Keeps.upd)
    | exact fun _ w => w
    | (intro b w; try dsimp only; (repeat' split) <;> first | exact w | (rw [Core.wf_iff] at *; exact w) | (simp only [Port.onLane_store, Port.discard_store, Port.acked_store]; exact w))
    | exact fun w => w
    | exact rfl
    | exact fun w => State.port_wf w
    | (intro w; simp only [Port.onLane_store, Port.discard_store, Port.acked_store]; exact State.port_wf w)

theorem execAvsbusRetry_keeps {s a t : State} {answer : Option Sys2Proof.AvsAnswer} (h : Keeps s a) (e : execAvsbusRetry answer a = .next t) : Keeps s t := by
  unfold execAvsbusRetry at e
  try dsimp only at e
  repeat' split at e
  all_goals first | (cases e; done) | (injection e with e; subst e)
  all_goals try dsimp only [State.takeFree, State.freshId]
  repeat' first
    | with_reducible assumption
    | (with_reducible apply State.event_keeps)
    | (with_reducible refine Keeps.foldl ?_ ?_)
    | (with_reducible refine Keeps.foldlFst ?_ ?_)
    | (with_reducible refine Keeps.foldlSnd ?_ ?_)
    | (intro b x hb; try dsimp only [State.takeFree, State.freshId])
    | split
    | (apply Keeps.upd)
    | exact fun _ w => w
    | (intro b w; try dsimp only; (repeat' split) <;> first | exact w | (rw [Core.wf_iff] at *; exact w) | (simp only [Port.onLane_store, Port.discard_store, Port.acked_store]; exact w))
    | exact fun w => w
    | exact rfl
    | exact fun w => State.port_wf w
    | (intro w; simp only [Port.onLane_store, Port.discard_store, Port.acked_store]; exact State.port_wf w)

theorem execAvsRailTempRead_keeps {s a t : State} {temp : Option ℕ} {alert : optParam (Option (Option ℕ)) none} (h : Keeps s a) (e : execAvsRailTempRead temp a alert = .next t) : Keeps s t := by
  unfold execAvsRailTempRead at e
  try dsimp only at e
  repeat' split at e
  all_goals first | (cases e; done) | (injection e with e; subst e)
  all_goals try dsimp only [State.takeFree, State.freshId]
  repeat' first
    | with_reducible assumption
    | (with_reducible refine State.avsCheck_keeps (h := ?_) (e := by with_reducible assumption) ..)
    | (with_reducible refine Keeps.foldl ?_ ?_)
    | (with_reducible refine Keeps.foldlFst ?_ ?_)
    | (with_reducible refine Keeps.foldlSnd ?_ ?_)
    | (intro b x hb; try dsimp only [State.takeFree, State.freshId])
    | split
    | (apply Keeps.upd)
    | exact fun _ w => w
    | (intro b w; try dsimp only; (repeat' split) <;> first | exact w | (rw [Core.wf_iff] at *; exact w) | (simp only [Port.onLane_store, Port.discard_store, Port.acked_store]; exact w))
    | exact fun w => w
    | exact rfl
    | exact fun w => State.port_wf w
    | (intro w; simp only [Port.onLane_store, Port.discard_store, Port.acked_store]; exact State.port_wf w)

theorem execTempSample_keeps {s a t : State} {readings : List ℤ} (h : Keeps s a) (e : execTempSample readings a = .next t) : Keeps s t := by
  unfold execTempSample at e
  try dsimp only at e
  repeat' split at e
  all_goals first | (cases e; done) | (injection e with e; subst e)
  all_goals try dsimp only [State.takeFree, State.freshId]
  repeat' first
    | with_reducible assumption
    | (with_reducible apply State.dueEdge_keeps)
    | (with_reducible apply State.tamperReset_keeps)
    | (with_reducible apply State.noteSample_keeps)
    | (with_reducible refine Keeps.foldl ?_ ?_)
    | (with_reducible refine Keeps.foldlFst ?_ ?_)
    | (with_reducible refine Keeps.foldlSnd ?_ ?_)
    | (intro b x hb; try dsimp only [State.takeFree, State.freshId])
    | split
    | (apply Keeps.upd)
    | exact fun _ w => w
    | (intro b w; try dsimp only; (repeat' split) <;> first | exact w | (rw [Core.wf_iff] at *; exact w) | (simp only [Port.onLane_store, Port.discard_store, Port.acked_store]; exact w))
    | exact fun w => w
    | exact rfl
    | exact fun w => State.port_wf w
    | (intro w; simp only [Port.onLane_store, Port.discard_store, Port.acked_store]; exact State.port_wf w)

theorem execPwrFailAssert_keeps {s a t : State} {erasing : List Nat} (h : Keeps s a) (e : execPwrFailAssert a erasing = .next t) : Keeps s t := by
  unfold execPwrFailAssert at e
  have k0 := State.dueEdge_keeps h
  generalize a.dueEdge = b at e k0
  have k : Keeps s { b with power := { b.power with failPin := true } } := k0.to rfl rfl id rfl id id id
  dsimp only at e
  split at e
  · injection e with e; subst e
    exact k0
  · split at e
    · injection e with e; subst e
      exact k
    · injection e with e; subst e
      have l := State.leavePorts_keeps true (State.onStore_keeps (fun t => t.abortErases erasing)
        (State.haltImports_keeps (State.haltStaging_keeps (State.haltTick_keeps (State.stopSpires_keeps (State.cutPlinth_keeps k))))))
      generalize State.leavePorts _ _ = q at l ⊢
      exact State.releaseWaiting_keeps (l.to rfl rfl id rfl id id id)

theorem Port.all_map_wf (f : Port → Port) (hf : ∀ x, (f x).store = x.store) (t : Tbl Port) (w : portsWf t = true) :
    portsWf (t.map (fun e => (e.1, f e.2))) = true := by
  unfold portsWf at *
  rw [List.all_eq_true] at *
  intro e he
  obtain ⟨x, hx, rfl⟩ := List.mem_map.mp he
  have := w x hx
  simpa [Port.wf, hf] using this

theorem execThermTrip_keeps {s a t : State} (h : Keeps s a) (e : execThermTrip a = .next t) : Keeps s t := by
  unfold execThermTrip at e
  injection e with e; subst e
  have k := State.cutPrograms_keeps (State.haltTick_keeps (State.cutPlinth_keeps (State.dueEdge_keeps h)))
  dsimp only
  generalize a.dueEdge.cutPlinth.haltTick.cutPrograms = q at k ⊢
  exact k.to rfl rfl id rfl id (Port.all_map_wf (fun x => { x with phase := .down }) (fun _ => rfl) _) id

theorem State.dropCurrent_keeps {s a : State} (h : Keeps s a) : Keeps s a.dropCurrent := State.dropRecords_keeps _ h

theorem Keeps.withBoot {s a : State} (p : Power) (b : Boot) (h : Keeps s a) : Keeps s { a with power := p, boot := b } :=
  h.to rfl rfl id rfl id id id

theorem execCorePllUnlock_keeps {s a t : State} {east : Bool} (h : Keeps s a) (e : execCorePllUnlock east a = .next t) : Keeps s t := by
  unfold execCorePllUnlock at e
  have k := State.dueEdge_keeps h
  generalize a.dueEdge = b at e k
  dsimp only at e
  split at e
  · injection e with e; subst e
    exact k
  · injection e with e; subst e
    have l : Keeps s ((List.range 16).foldl (fun (a : State) p =>
          a.onPart p (fun x => { x with published := true, phase := .idle, due := none, draining := false }))
        ((List.range 16).foldl (fun (a : State) sp => a.onSpire sp (fun y => { y with stopped := true })) b.haltTick.dropCurrent)) :=
      Keeps.foldl (Keeps.foldl (State.dropCurrent_keeps (State.haltTick_keeps k)) (fun _ _ hb => State.onSpire_keeps _ _ hb))
        (fun _ _ hb => State.onPart_keeps _ _ hb)
    exact State.flushLog_keeps (State.event_keeps _ _ _ _ _ (Keeps.withBoot _ _ l))

theorem execShdnReqNAssert_keeps {s a t : State} (h : Keeps s a) (e : execShdnReqNAssert a = .next t) : Keeps s t := by
  unfold execShdnReqNAssert at e
  try dsimp only at e
  repeat' split at e
  all_goals first | (cases e; done) | (injection e with e; subst e)
  all_goals try dsimp only [State.takeFree, State.freshId]
  repeat' first
    | with_reducible assumption
    | (with_reducible apply State.dueEdge_keeps)
    | (with_reducible apply State.startShutdown_keeps)
    | (with_reducible refine Keeps.foldl ?_ ?_)
    | (with_reducible refine Keeps.foldlFst ?_ ?_)
    | (with_reducible refine Keeps.foldlSnd ?_ ?_)
    | (intro b x hb; try dsimp only [State.takeFree, State.freshId])
    | split
    | (apply Keeps.upd)
    | exact fun _ w => w
    | (intro b w; try dsimp only; (repeat' split) <;> first | exact w | (rw [Core.wf_iff] at *; exact w) | (simp only [Port.onLane_store, Port.discard_store, Port.acked_store]; exact w))
    | exact fun w => w
    | exact rfl
    | exact fun w => State.port_wf w
    | (intro w; simp only [Port.onLane_store, Port.discard_store, Port.acked_store]; exact State.port_wf w)

theorem execOrderlyShutdown_keeps {s a t : State}  (h : Keeps s a) (e : execOrderlyShutdown a = .next t) : Keeps s t := by
  unfold execOrderlyShutdown at e
  split at e
  · injection e with e; subst e
    exact h
  · injection e with e; subst e
    have k : Keeps s a.haltTick := State.haltTick_keeps h
    dsimp only
    generalize a.haltTick = b at k ⊢
    have l : ∀ f, Keeps s (if b.cfg.pod then (b.dropCurrent.definedParts.foldl (fun (c : State) p => c.onPart p f) b.dropCurrent).leavePorts false
        else b) := fun f =>
      Keeps.ite (State.leavePorts_keeps _ (Keeps.foldl (State.dropCurrent_keeps k) (fun b x hb => State.onPart_keeps _ _ hb))) k
    exact (l _).to rfl rfl id rfl id id id

theorem execShutdownStopPersistHold_keeps {s a t : State} (h : Keeps s a) (e : execShutdownStopPersistHold a = .next t) : Keeps s t := by
  unfold execShutdownStopPersistHold at e
  try dsimp only at e
  repeat' split at e
  all_goals first | (cases e; done) | (injection e with e; subst e)
  all_goals try dsimp only [State.takeFree, State.freshId]
  repeat' first
    | with_reducible assumption
    | (with_reducible apply State.closeImports_keeps)
    | (with_reducible apply State.haltStaging_keeps)
    | (with_reducible apply State.stopSpires_keeps)
    | (with_reducible apply State.persistAndHold_keeps)
    | (with_reducible refine Keeps.foldl ?_ ?_)
    | (with_reducible refine Keeps.foldlFst ?_ ?_)
    | (with_reducible refine Keeps.foldlSnd ?_ ?_)
    | (intro b x hb; try dsimp only [State.takeFree, State.freshId])
    | split

theorem execResetQuiesced_keeps {s a t : State} {p : Fin 16} (h : Keeps s a) (e : execResetQuiesced p a = .next t) : Keeps s t := by
  unfold execResetQuiesced at e
  try dsimp only at e
  repeat' split at e
  all_goals first | (cases e; done) | (injection e with e; subst e)
  all_goals try dsimp only [State.takeFree, State.freshId]
  repeat' first
    | with_reducible assumption
    | (with_reducible apply State.completeReset_keeps)
    | (with_reducible apply State.clearPart_keeps)
    | (with_reducible refine Keeps.foldl ?_ ?_)
    | (with_reducible refine Keeps.foldlFst ?_ ?_)
    | (with_reducible refine Keeps.foldlSnd ?_ ?_)
    | (intro b x hb; try dsimp only [State.takeFree, State.freshId])
    | split

theorem execVfFlr_keeps {s a t : State} {vf : Fin 16} (h : Keeps s a) (e : execVfFlr vf a = .next t) : Keeps s t := by
  unfold execVfFlr at e
  try dsimp only at e
  repeat' split at e
  all_goals first | (cases e; done) | (injection e with e; subst e)
  all_goals try dsimp only [State.takeFree, State.freshId]
  repeat' first
    | with_reducible assumption
    | (with_reducible apply State.dueEdge_keeps)
    | (with_reducible apply State.onFn_keeps)
    | (with_reducible apply State.startReset_keeps)
    | (with_reducible refine Keeps.foldl ?_ ?_)
    | (with_reducible refine Keeps.foldlFst ?_ ?_)
    | (with_reducible refine Keeps.foldlSnd ?_ ?_)
    | (intro b x hb; try dsimp only [State.takeFree, State.freshId])
    | split
    | (apply Keeps.upd)
    | exact fun _ w => w
    | (intro b w; try dsimp only; (repeat' split) <;> first | exact w | (rw [Core.wf_iff] at *; exact w))
    | exact fun w => w
    | exact rfl

theorem execPfFlr_keeps {s a t : State} (h : Keeps s a) (e : execPfFlr a = .next t) : Keeps s t := by
  unfold execPfFlr at e
  try dsimp only at e
  repeat' split at e
  all_goals first | (cases e; done) | (injection e with e; subst e)
  all_goals try dsimp only [State.takeFree, State.freshId]
  repeat' first
    | with_reducible assumption
    | (with_reducible apply State.resetPf_keeps)
    | (with_reducible apply State.dueEdge_keeps)
    | (with_reducible refine Keeps.foldl ?_ ?_)
    | (with_reducible refine Keeps.foldlFst ?_ ?_)
    | (with_reducible refine Keeps.foldlSnd ?_ ?_)
    | (intro b x hb; try dsimp only [State.takeFree, State.freshId])
    | split

theorem execDlDown_keeps {s a t : State} (h : Keeps s a) (e : execDlDown a = .next t) : Keeps s t := by
  unfold execDlDown at e
  try dsimp only at e
  repeat' split at e
  all_goals first | (cases e; done) | (injection e with e; subst e)
  all_goals try dsimp only [State.takeFree, State.freshId]
  repeat' first
    | with_reducible assumption
    | (with_reducible apply State.dueEdge_keeps)
    | (with_reducible apply State.linkDown_keeps)
    | (with_reducible refine Keeps.foldl ?_ ?_)
    | (with_reducible refine Keeps.foldlFst ?_ ?_)
    | (with_reducible refine Keeps.foldlSnd ?_ ?_)
    | (intro b x hb; try dsimp only [State.takeFree, State.freshId])
    | split

theorem execPmStateChange_keeps {s a t : State} {d3 : Bool} (h : Keeps s a) (e : execPmStateChange d3 a = .next t) : Keeps s t := by
  unfold execPmStateChange at e
  have k0 := State.dueEdge_keeps h
  generalize a.dueEdge = b at e k0
  have k : Keeps s { b with host := { b.host with d3hot := d3 } } := k0.to rfl rfl id rfl id id id
  dsimp only at e
  split at e
  · injection e with e; subst e
    exact k0
  · split at e
    · injection e with e; subst e
      exact State.answer_keeps _ k0
    · split at e
      · injection e with e; subst e
        exact k0
      · injection e with e; subst e
        exact Keeps.ite k (Keeps.foldl k (fun b x hb => State.flushPending_keeps _ hb))

theorem execConfigurationRequest_keeps {s a t : State} {fn : Sys2Proof.Fn} {req : Sys2Proof.CfgReq} (h : Keeps s a) (e : execConfigurationRequest fn req a = .next t) : Keeps s t := by
  unfold execConfigurationRequest at e
  try dsimp only at e
  repeat' split at e
  all_goals first | (cases e; done) | (injection e with e; subst e)
  all_goals try dsimp only [State.takeFree, State.freshId]
  repeat' first
    | with_reducible assumption
    | (with_reducible apply State.dueEdge_keeps)
    | (with_reducible apply State.answer_keeps)
    | (with_reducible apply State.flushPending_keeps)
    | (with_reducible apply State.onFn_keeps)
    | (with_reducible refine Keeps.foldl ?_ ?_)
    | (with_reducible refine Keeps.foldlFst ?_ ?_)
    | (with_reducible refine Keeps.foldlSnd ?_ ?_)
    | (intro b x hb; try dsimp only [State.takeFree, State.freshId])
    | split
    | (apply Keeps.upd)
    | exact fun _ w => w
    | (intro b w; try dsimp only; (repeat' split) <;> first | exact w | (rw [Core.wf_iff] at *; exact w) | (simp only [Port.onLane_store, Port.discard_store, Port.acked_store]; exact w))
    | exact fun w => w
    | exact rfl
    | exact fun w => State.port_wf w
    | (intro w; simp only [Port.onLane_store, Port.discard_store, Port.acked_store]; exact State.port_wf w)

theorem execPcieLinkTraining_keeps {s a t : State} {trained : Bool} {speed : ℕ} {width : ℕ} (h : Keeps s a) (e : execPcieLinkTraining trained speed width a = .next t) : Keeps s t := by
  unfold execPcieLinkTraining at e
  try dsimp only at e
  repeat' split at e
  all_goals first | (cases e; done) | (injection e with e; subst e)
  all_goals try dsimp only [State.takeFree, State.freshId]
  repeat' first
    | with_reducible assumption
    | (with_reducible apply State.event_keeps)
    | (with_reducible refine Keeps.foldl ?_ ?_)
    | (with_reducible refine Keeps.foldlFst ?_ ?_)
    | (with_reducible refine Keeps.foldlSnd ?_ ?_)
    | (intro b x hb; try dsimp only [State.takeFree, State.freshId])
    | split
    | (apply Keeps.upd)
    | exact fun _ w => w
    | (intro b w; try dsimp only; (repeat' split) <;> first | exact w | (rw [Core.wf_iff] at *; exact w) | (simp only [Port.onLane_store, Port.discard_store, Port.acked_store]; exact w))
    | exact fun w => w
    | exact rfl
    | exact fun w => State.port_wf w
    | (intro w; simp only [Port.onLane_store, Port.discard_store, Port.acked_store]; exact State.port_wf w)

theorem execPcieCorrectableError_keeps {s a t : State} {fn : Sys2Proof.Fn} {kind : Sys2Proof.PcieCe} (h : Keeps s a) (e : execPcieCorrectableError fn kind a = .next t) : Keeps s t := by
  unfold execPcieCorrectableError at e
  try dsimp only at e
  repeat' split at e
  all_goals first | (cases e; done) | (injection e with e; subst e)
  all_goals try dsimp only [State.takeFree, State.freshId]
  repeat' first
    | with_reducible assumption
    | (with_reducible apply State.onFn_keeps)
    | (with_reducible refine Keeps.foldl ?_ ?_)
    | (with_reducible refine Keeps.foldlFst ?_ ?_)
    | (with_reducible refine Keeps.foldlSnd ?_ ?_)
    | (intro b x hb; try dsimp only [State.takeFree, State.freshId])
    | split
    | (apply Keeps.upd)
    | exact fun _ w => w
    | (intro b w; try dsimp only; (repeat' split) <;> first | exact w | (rw [Core.wf_iff] at *; exact w) | (simp only [Port.onLane_store, Port.discard_store, Port.acked_store]; exact w))
    | exact fun w => w
    | exact rfl
    | exact fun w => State.port_wf w
    | (intro w; simp only [Port.onLane_store, Port.discard_store, Port.acked_store]; exact State.port_wf w)

theorem execPcieWriteDropped_keeps {s a t : State} {fn : Sys2Proof.Fn} {ecrc : Bool} {ep : Bool} (h : Keeps s a) (e : execPcieWriteDropped fn ecrc ep a = .next t) : Keeps s t := by
  unfold execPcieWriteDropped at e
  try dsimp only at e
  repeat' split at e
  all_goals first | (cases e; done) | (injection e with e; subst e)
  all_goals try dsimp only [State.takeFree, State.freshId]
  repeat' first
    | with_reducible assumption
    | (with_reducible apply State.onFn_keeps)
    | (with_reducible apply State.event_keeps)
    | (with_reducible refine Keeps.foldl ?_ ?_)
    | (with_reducible refine Keeps.foldlFst ?_ ?_)
    | (with_reducible refine Keeps.foldlSnd ?_ ?_)
    | (intro b x hb; try dsimp only [State.takeFree, State.freshId])
    | split
    | (apply Keeps.upd)
    | exact fun _ w => w
    | (intro b w; try dsimp only; (repeat' split) <;> first | exact w | (rw [Core.wf_iff] at *; exact w) | (simp only [Port.onLane_store, Port.discard_store, Port.acked_store]; exact w))
    | exact fun w => w
    | exact rfl
    | exact fun w => State.port_wf w
    | (intro w; simp only [Port.onLane_store, Port.discard_store, Port.acked_store]; exact State.port_wf w)

theorem execBar2Access_keeps {s a t : State} {vf : Fin 16} {offset : ℕ} {op : Sys2Proof.Bar2Op} {bursts : optParam Sys2Proof.BurstRec { }} (h : Keeps s a) (e : execBar2Access vf offset op a bursts = .next t) : Keeps s t := by
  unfold execBar2Access at e
  try dsimp only at e
  repeat' split at e
  all_goals first | (cases e; done) | (injection e with e; subst e)
  all_goals try dsimp only [State.takeFree, State.freshId]
  repeat' first
    | with_reducible assumption
    | (with_reducible apply State.dueEdge_keeps)
    | (with_reducible apply State.answer_keeps)
    | (with_reducible apply State.bar2Now_keeps)
    | (with_reducible refine Keeps.foldl ?_ ?_)
    | (with_reducible refine Keeps.foldlFst ?_ ?_)
    | (with_reducible refine Keeps.foldlSnd ?_ ?_)
    | (intro b x hb; try dsimp only [State.takeFree, State.freshId])
    | split
    | (apply Keeps.upd)
    | exact fun _ w => w
    | (intro b w; try dsimp only; (repeat' split) <;> first | exact w | (rw [Core.wf_iff] at *; exact w) | (simp only [Port.onLane_store, Port.discard_store, Port.acked_store]; exact w))
    | exact fun w => w
    | exact rfl
    | exact fun w => State.port_wf w
    | (intro w; simp only [Port.onLane_store, Port.discard_store, Port.acked_store]; exact State.port_wf w)

theorem execIngestDb_keeps {s a t : State} {vf : Fin 16} {ring : Fin 16} {value : Sys2Proof.W32} {be : BitVec 4} (h : Keeps s a) (e : execIngestDb vf ring value be a = .next t) : Keeps s t := by
  unfold execIngestDb at e
  try dsimp only at e
  repeat' split at e
  all_goals first | (cases e; done) | (injection e with e; subst e)
  all_goals try dsimp only [State.takeFree, State.freshId]
  repeat' first
    | with_reducible assumption
    | (with_reducible apply State.dueEdge_keeps)
    | (with_reducible apply State.answer_keeps)
    | (with_reducible apply State.writeDb_keeps)
    | (with_reducible refine Keeps.foldl ?_ ?_)
    | (with_reducible refine Keeps.foldlFst ?_ ?_)
    | (with_reducible refine Keeps.foldlSnd ?_ ?_)
    | (intro b x hb; try dsimp only [State.takeFree, State.freshId])
    | split

theorem execHbmTempRead_keeps {s a t : State} {temps : List ℤ} (h : Keeps s a) (e : execHbmTempRead temps a = .next t) : Keeps s t := by
  unfold execHbmTempRead at e
  try dsimp only at e
  repeat' split at e
  all_goals first | (cases e; done) | (injection e with e; subst e)
  all_goals try dsimp only [State.takeFree, State.freshId]
  repeat' first
    | with_reducible assumption
    | (with_reducible apply State.dueEdge_keeps)
    | (with_reducible apply State.noteSample_keeps)
    | (with_reducible refine Keeps.foldl ?_ ?_)
    | (with_reducible refine Keeps.foldlFst ?_ ?_)
    | (with_reducible refine Keeps.foldlSnd ?_ ?_)
    | (intro b x hb; try dsimp only [State.takeFree, State.freshId])
    | split
    | (apply Keeps.upd)
    | exact fun _ w => w
    | (intro b w; try dsimp only; (repeat' split) <;> first | exact w | (rw [Core.wf_iff] at *; exact w) | (simp only [Port.onLane_store, Port.discard_store, Port.acked_store]; exact w))
    | exact fun w => w
    | exact rfl
    | exact fun w => State.port_wf w
    | (intro w; simp only [Port.onLane_store, Port.discard_store, Port.acked_store]; exact State.port_wf w)

theorem execHbmEcsRead_keeps {s a t : State} {counts : List ℕ} (h : Keeps s a) (e : execHbmEcsRead counts a = .next t) : Keeps s t := by
  unfold execHbmEcsRead at e
  try dsimp only at e
  repeat' split at e
  all_goals first | (cases e; done) | (injection e with e; subst e)
  all_goals try dsimp only [State.takeFree, State.freshId]
  repeat' first
    | with_reducible assumption
    | (with_reducible apply State.onCore_keeps)
    | (with_reducible refine Keeps.foldl ?_ ?_)
    | (with_reducible refine Keeps.foldlFst ?_ ?_)
    | (with_reducible refine Keeps.foldlSnd ?_ ?_)
    | (intro b x hb; try dsimp only [State.takeFree, State.freshId])
    | split
    | (apply Keeps.upd)
    | exact fun _ w => w
    | (intro b w; try dsimp only; (repeat' split) <;> first | exact w | (rw [Core.wf_iff] at *; exact w))
    | exact fun w => w
    | exact rfl

end Sys2Proof.Machine
end

