-- ==== Sys2Proof/Laws/KeepsExecBoot.lean ====
section
/-! SUPPORT. What the commands of these families keep (see Keeps): Mailbox, Boot, Plinth, Registers, Tap. -/

set_option linter.unusedTactic false
set_option linter.unreachableTactic false
set_option linter.unusedVariables false

namespace Sys2Proof.Machine

theorem execMbxReqPi_keeps {s a t : State} {fn : Sys2Proof.Fn} {value : Sys2Proof.W32} {be : BitVec 4} (h : Keeps s a) (e : execMbxReqPi fn value be a = .next t) : Keeps s t := by
  unfold execMbxReqPi at e
  try dsimp only at e
  repeat' split at e
  all_goals first | (cases e; done) | (injection e with e; subst e)
  all_goals try dsimp only [State.takeFree, State.freshId]
  repeat' first
    | with_reducible assumption
    | (with_reducible apply State.dueEdge_keeps)
    | (with_reducible apply State.writeIndex_keeps)
    | (with_reducible apply State.writeReqPi_keeps)
    | (with_reducible apply State.answer_keeps)
    | (with_reducible refine Keeps.foldl ?_ ?_)
    | (with_reducible refine Keeps.foldlFst ?_ ?_)
    | (with_reducible refine Keeps.foldlSnd ?_ ?_)
    | (intro b x hb; try dsimp only [State.takeFree, State.freshId])
    | split

theorem execMbxRspCi_keeps {s a t : State} {fn : Sys2Proof.Fn} {value : Sys2Proof.W32} {be : BitVec 4} (h : Keeps s a) (e : execMbxRspCi fn value be a = .next t) : Keeps s t := by
  unfold execMbxRspCi at e
  try dsimp only at e
  repeat' split at e
  all_goals first | (cases e; done) | (injection e with e; subst e)
  all_goals try dsimp only [State.takeFree, State.freshId]
  repeat' first
    | with_reducible assumption
    | (with_reducible apply State.dueEdge_keeps)
    | (with_reducible apply State.writeIndex_keeps)
    | (with_reducible apply State.writeRspCi_keeps)
    | (with_reducible apply State.answer_keeps)
    | (with_reducible refine Keeps.foldl ?_ ?_)
    | (with_reducible refine Keeps.foldlFst ?_ ?_)
    | (with_reducible refine Keeps.foldlSnd ?_ ?_)
    | (intro b x hb; try dsimp only [State.takeFree, State.freshId])
    | split

theorem execRosterSwitch_keeps {s a t : State} {fn : Sys2Proof.Fn} (h : Keeps s a) (e : execRosterSwitch fn a = .next t) : Keeps s t := by
  unfold execRosterSwitch at e
  try dsimp only at e
  repeat' split at e
  all_goals first | (cases e; done) | (injection e with e; subst e)
  all_goals try dsimp only [State.takeFree, State.freshId]
  repeat' first
    | with_reducible assumption
    | (with_reducible apply State.dueEdge_keeps)
    | (with_reducible apply State.serve_keeps)
    | (with_reducible apply State.switchRoster_keeps)
    | (with_reducible refine Keeps.foldl ?_ ?_)
    | (with_reducible refine Keeps.foldlFst ?_ ?_)
    | (with_reducible refine Keeps.foldlSnd ?_ ?_)
    | (intro b x hb; try dsimp only [State.takeFree, State.freshId])
    | split

theorem execWindowScrubDone_keeps {s a t : State} {p : Fin 16} (h : Keeps s a) (e : execWindowScrubDone p a = .next t) : Keeps s t := by
  unfold execWindowScrubDone at e
  dsimp only at e
  split at e
  · injection e with e; subst e
    exact h
  · split at e
    · injection e with e; subst e
      exact h
    · injection e with e; subst e
      refine State.releaseImports_keeps (State.releaseWrites_keeps (State.releaseWaiting_keeps ?_))
      split
      · exact State.beginRestage_keeps _ (State.releaseOwn_keeps _ _ (State.setPart_keeps _ _ (State.hbmZero_keeps _ _ (State.meetSoft_keeps _ _ h))))
      · exact State.releaseOwn_keeps _ _ (State.setPart_keeps _ _ (State.hbmZero_keeps _ _ (State.meetSoft_keeps _ _ h)))

theorem execImport_keeps {s a t : State} {fn : Fn} {bursts : List (Nat × BurstRec)} (h : Keeps s a) (e : execImport fn a bursts = .next t) : Keeps s t := by
  unfold execImport at e
  injection e with e; subst e
  exact State.serve_keeps _ _ _ _ _ (State.dueEdge_keeps h) (fun _ _ _ hb => State.doImport_keeps _ _ _ _ hb)

theorem execRetire_keeps {s a t : State} {fn : Sys2Proof.Fn} (h : Keeps s a) (e : execRetire fn a = .next t) : Keeps s t := by
  unfold execRetire at e
  try dsimp only at e
  repeat' split at e
  all_goals first | (cases e; done) | (injection e with e; subst e)
  all_goals try dsimp only [State.takeFree, State.freshId]
  repeat' first
    | with_reducible assumption
    | (with_reducible apply State.dueEdge_keeps)
    | (with_reducible apply State.serve_keeps)
    | (with_reducible apply State.doRetire_keeps)
    | (with_reducible refine Keeps.foldl ?_ ?_)
    | (with_reducible refine Keeps.foldlFst ?_ ?_)
    | (with_reducible refine Keeps.foldlSnd ?_ ?_)
    | (intro b x hb; try dsimp only [State.takeFree, State.freshId])
    | split

theorem execObjectState_keeps {s a t : State} {fn : Fn} (h : Keeps s a) (e : execObjectState fn a = .next t) : Keeps s t := by
  unfold execObjectState at e
  injection e with e; subst e
  exact State.serve_keeps _ _ _ _ _ (State.dueEdge_keeps h) (fun b r p hb =>
    State.inNamespace_keeps _ _ _ _ _ _ hb (fun _ => State.respond_keeps _ _ _ _ _ hb))

theorem execPartitionReset_keeps {s a t : State} {fn : Fn} (h : Keeps s a) (e : execPartitionReset fn a = .next t) : Keeps s t := by
  unfold execPartitionReset at e
  injection e with e; subst e
  refine State.serve_keeps _ _ _ _ _ (State.dueEdge_keeps h) (fun b r p hb => ?_)
  dsimp only
  split
  · exact State.respond_keeps _ _ _ _ _ hb
  · split
    · exact State.respond_keeps _ _ _ _ _ hb
    · exact State.startReset_keeps _ _ _ (State.pend_keeps _ _ _ hb)

theorem execShutdown_keeps {s a t : State} {fn : Fn} (h : Keeps s a) (e : execShutdown fn a = .next t) : Keeps s t := by
  unfold execShutdown at e
  injection e with e; subst e
  refine State.serve_keeps _ _ _ _ _ (State.dueEdge_keeps h) (fun b r p hb => ?_)
  dsimp only
  have k := State.pend_keeps fn.val (numAt r 0 2) 6 hb
  generalize b.pend fn.val (numAt r 0 2) 6 = q at k ⊢
  exact State.startShutdown_keeps _ (k.to rfl rfl id rfl id id id)

theorem execEcho_keeps {s a t : State} {fn : Sys2Proof.Fn} (h : Keeps s a) (e : execEcho fn a = .next t) : Keeps s t := by
  unfold execEcho at e
  try dsimp only at e
  repeat' split at e
  all_goals first | (cases e; done) | (injection e with e; subst e)
  all_goals try dsimp only [State.takeFree, State.freshId]
  repeat' first
    | with_reducible assumption
    | (with_reducible apply State.dueEdge_keeps)
    | (with_reducible apply State.serve_keeps)
    | (with_reducible apply State.respond_keeps)
    | (with_reducible refine Keeps.foldl ?_ ?_)
    | (with_reducible refine Keeps.foldlFst ?_ ?_)
    | (with_reducible refine Keeps.foldlSnd ?_ ?_)
    | (intro b x hb; try dsimp only [State.takeFree, State.freshId])
    | split

theorem execResetNAssert_keeps {s a t : State} (h : Keeps s a) (e : execResetNAssert a = .next t) : Keeps s t := by
  unfold execResetNAssert at e
  try dsimp only at e
  repeat' split at e
  all_goals first | (cases e; done) | (injection e with e; subst e)
  all_goals try dsimp only [State.takeFree, State.freshId]
  repeat' first
    | with_reducible assumption
    | (with_reducible apply State.resetDomains_keeps)
    | (with_reducible apply State.cutProvision_keeps)
    | (with_reducible apply State.cutPlinth_keeps)
    | (with_reducible refine Keeps.foldl ?_ ?_)
    | (with_reducible refine Keeps.foldlFst ?_ ?_)
    | (with_reducible refine Keeps.foldlSnd ?_ ?_)
    | (intro b x hb; try dsimp only [State.takeFree, State.freshId])
    | split
    | (apply Keeps.upd)
    | exact fun _ w => w
    | (intro b w; try dsimp only; (repeat' split) <;> first | exact w | (rw [Core.wf_iff] at *; exact w) | (simp only [Port.onLane_store, Port.discard_store, Port.acked_store]; exact w))
    | exact fun w => w
    | exact rfl
    | exact fun w => State.port_wf w
    | (intro w; simp only [Port.onLane_store, Port.discard_store, Port.acked_store]; exact State.port_wf w)

theorem execResetNDeassert_keeps {s a t : State} {sel : BitVec 2} (h : Keeps s a) (e : execResetNDeassert sel a = .next t) : Keeps s t := by
  unfold execResetNDeassert at e
  try dsimp only at e
  repeat' split at e
  all_goals first | (cases e; done) | (injection e with e; subst e)
  all_goals try dsimp only [State.takeFree, State.freshId]
  repeat' first
    | with_reducible assumption
    | (with_reducible apply State.armBoot_keeps)
    | (with_reducible refine Keeps.foldl ?_ ?_)
    | (with_reducible refine Keeps.foldlFst ?_ ?_)
    | (with_reducible refine Keeps.foldlSnd ?_ ?_)
    | (intro b x hb; try dsimp only [State.takeFree, State.freshId])
    | split
    | (apply Keeps.upd)
    | exact fun _ w => w
    | (intro b w; try dsimp only; (repeat' split) <;> first | exact w | (rw [Core.wf_iff] at *; exact w) | (simp only [Port.onLane_store, Port.discard_store, Port.acked_store]; exact w))
    | exact fun w => w
    | exact rfl
    | exact fun w => State.port_wf w
    | (intro w; simp only [Port.onLane_store, Port.discard_store, Port.acked_store]; exact State.port_wf w)

theorem execTamperDetection_keeps {s a t : State} {monitor : Monitor} (h : Keeps s a) (e : execTamperDetection a monitor = .next t) : Keeps s t := by
  unfold execTamperDetection at e
  try dsimp only at e
  repeat' split at e
  all_goals first | (cases e; done) | (injection e with e; subst e)
  all_goals try dsimp only [State.takeFree, State.freshId]
  repeat' first
    | with_reducible assumption
    | (with_reducible apply State.tamperReset_keeps)
    | (with_reducible refine Keeps.foldl ?_ ?_)
    | (with_reducible refine Keeps.foldlFst ?_ ?_)
    | (with_reducible refine Keeps.foldlSnd ?_ ?_)
    | (intro b x hb; try dsimp only [State.takeFree, State.freshId])
    | split

theorem execAlwaysOnPowerUp_keeps {s a t : State} (h : Keeps s a) (e : execAlwaysOnPowerUp a = .next t) : Keeps s t := by
  unfold execAlwaysOnPowerUp at e
  try dsimp only at e
  repeat' split at e
  all_goals first | (cases e; done) | (injection e with e; subst e)
  all_goals try dsimp only [State.takeFree, State.freshId]
  repeat' first
    | with_reducible assumption
    | (with_reducible apply State.resetDomains_keeps)
    | (with_reducible apply State.cutProvision_keeps)
    | (with_reducible apply State.cutPlinth_keeps)
    | (with_reducible refine Keeps.foldl ?_ ?_)
    | (with_reducible refine Keeps.foldlFst ?_ ?_)
    | (with_reducible refine Keeps.foldlSnd ?_ ?_)
    | (intro b x hb; try dsimp only [State.takeFree, State.freshId])
    | split
    | (apply Keeps.upd)
    | exact fun _ w => w
    | (intro b w; try dsimp only; (repeat' split) <;> first | exact w | (rw [Core.wf_iff] at *; exact w) | (simp only [Port.onLane_store, Port.discard_store, Port.acked_store]; exact w))
    | exact fun w => w
    | exact rfl
    | exact fun w => State.port_wf w
    | (intro w; simp only [Port.onLane_store, Port.discard_store, Port.acked_store]; exact State.port_wf w)

theorem execBootAttempt_keeps {s a t : State} {env : Sys2Proof.BootEnv} (h : Keeps s a) (e : execBootAttempt env a = .next t) : Keeps s t := by
  unfold execBootAttempt at e
  try dsimp only at e
  repeat' split at e
  all_goals first | (cases e; done) | (injection e with e; subst e)
  all_goals try dsimp only [State.takeFree, State.freshId]
  repeat' first
    | with_reducible assumption
    | (with_reducible apply State.runStages_keeps)
    | (with_reducible apply State.beginAttempt_keeps)
    | (with_reducible refine Keeps.foldl ?_ ?_)
    | (with_reducible refine Keeps.foldlFst ?_ ?_)
    | (with_reducible refine Keeps.foldlSnd ?_ ?_)
    | (intro b x hb; try dsimp only [State.takeFree, State.freshId])
    | split

theorem execBootStageTimeout_keeps {s a t : State} {stage : Fin 11} (h : Keeps s a) (e : execBootStageTimeout stage a = .next t) : Keeps s t := by
  unfold execBootStageTimeout at e
  dsimp only at e
  split at e
  · injection e with e; subst e
    exact h
  · split at e
    · injection e with e; subst e
      exact State.runStages_keeps _ _ _ (State.storeOutcome_keeps _ h)
    · injection e with e; subst e
      exact State.failAttempt_keeps _ _ h

theorem execNextAttemptStart_keeps {s a t : State} (h : Keeps s a) (e : execNextAttemptStart a = .next t) : Keeps s t := by
  unfold execNextAttemptStart at e
  try dsimp only at e
  repeat' split at e
  all_goals first | (cases e; done) | (injection e with e; subst e)
  all_goals try dsimp only [State.takeFree, State.freshId]
  repeat' first
    | with_reducible assumption
    | (with_reducible refine Keeps.foldl ?_ ?_)
    | (with_reducible refine Keeps.foldlFst ?_ ?_)
    | (with_reducible refine Keeps.foldlSnd ?_ ?_)
    | (intro b x hb; try dsimp only [State.takeFree, State.freshId])
    | split
    | (apply Keeps.upd)
    | exact fun _ w => w
    | (intro b w; try dsimp only; (repeat' split) <;> first | exact w | (rw [Core.wf_iff] at *; exact w) | (simp only [Port.onLane_store, Port.discard_store, Port.acked_store]; exact w))
    | exact fun w => w
    | exact rfl
    | exact fun w => State.port_wf w
    | (intro w; simp only [Port.onLane_store, Port.discard_store, Port.acked_store]; exact State.port_wf w)

theorem Otp.within_blow (o : Otp) (j : FuseJob) : o.within (o.blow j) = true := by
  cases j <;> simp [Otp.blow, Otp.within, blownIn_refl, blownIn_or]

theorem Keeps.withRom {s a : State} (r : Rom) (h : Keeps s a) (ho : a.rom.otp.within r.otp = true) (hm : a.rom.wf = true → r.wf = true) :
    Keeps s { a with rom := r } :=
  h.trans ⟨rfl, Nat.le_refl _, ho, id, hm, id, id⟩

theorem execOtpFuseProgram_keeps {s a t : State} {failRevoke failArb : Bool} (h : Keeps s a)
    (e : execOtpFuseProgram failRevoke failArb a = .next t) : Keeps s t := by
  unfold execOtpFuseProgram at e
  split at e
  · injection e with e; subst e
    exact h
  · split at e
    · injection e with e; subst e
      exact h
    · injection e with e; subst e
      refine h.withRom _ ?_ id
      dsimp only
      split
      · exact Otp.within_refl _
      · exact Otp.within_blow _ _
    · split at e
      · injection e with e; subst e
        exact h.withRom _ (Otp.within_refl _) id
      · injection e with e; subst e
        exact h.withRom _ (Otp.within_blow _ _) id

theorem execImageBufferWrite_keeps {s a t : State} {offset : Nat} {bytes : List Byte} {read : Option Nat} (h : Keeps s a)
    (e : execImageBufferWrite offset bytes a read = .next t) : Keeps s t := by
  unfold execImageBufferWrite at e
  split at e
  · cases e
  · split at e
    · injection e with e; subst e
      exact State.answer_keeps _ h
    · split at e
      · injection e with e; subst e
        exact State.answer_keeps _ h
      · split at e
        · injection e with e; subst e
          exact State.ignoreRwp_keeps h
        · injection e with e; subst e
          refine State.answer_keeps _ (h.to rfl rfl id rfl (fun w => ?_) id id)
          rw [Rom.wf_iff] at w ⊢
          exact ⟨w.1, Tbl.wf_putRun _ _ _ w.2⟩

theorem execErase_keeps {s a t : State} (h : Keeps s a) (e : execErase a = .next t) : Keeps s t := by
  unfold execErase at e
  try dsimp only at e
  repeat' split at e
  all_goals first | (cases e; done) | (injection e with e; subst e)
  all_goals try dsimp only [State.takeFree, State.freshId]
  repeat' first
    | with_reducible assumption
    | (with_reducible apply State.plinthCommand_keeps)
    | (with_reducible refine Keeps.foldl ?_ ?_)
    | (with_reducible refine Keeps.foldlFst ?_ ?_)
    | (with_reducible refine Keeps.foldlSnd ?_ ?_)
    | (intro b x hb; try dsimp only [State.takeFree, State.freshId])
    | split

theorem execProgram_keeps {s a t : State} (h : Keeps s a) (e : execProgram a = .next t) : Keeps s t := by
  unfold execProgram at e
  try dsimp only at e
  repeat' split at e
  all_goals first | (cases e; done) | (injection e with e; subst e)
  all_goals try dsimp only [State.takeFree, State.freshId]
  repeat' first
    | with_reducible assumption
    | (with_reducible apply State.plinthCommand_keeps)
    | (with_reducible refine Keeps.foldl ?_ ?_)
    | (with_reducible refine Keeps.foldlFst ?_ ?_)
    | (with_reducible refine Keeps.foldlSnd ?_ ?_)
    | (intro b x hb; try dsimp only [State.takeFree, State.freshId])
    | split

theorem execRead_keeps {s a t : State} (h : Keeps s a) (e : execRead a = .next t) : Keeps s t := by
  unfold execRead at e
  try dsimp only at e
  repeat' split at e
  all_goals first | (cases e; done) | (injection e with e; subst e)
  all_goals try dsimp only [State.takeFree, State.freshId]
  repeat' first
    | with_reducible assumption
    | (with_reducible apply State.plinthCommand_keeps)
    | (with_reducible refine Keeps.foldl ?_ ?_)
    | (with_reducible refine Keeps.foldlFst ?_ ?_)
    | (with_reducible refine Keeps.foldlSnd ?_ ?_)
    | (intro b x hb; try dsimp only [State.takeFree, State.freshId])
    | split

theorem execCheckSlot_keeps {s a t : State} (h : Keeps s a) (e : execCheckSlot a = .next t) : Keeps s t := by
  unfold execCheckSlot at e
  try dsimp only at e
  repeat' split at e
  all_goals first | (cases e; done) | (injection e with e; subst e)
  all_goals try dsimp only [State.takeFree, State.freshId]
  repeat' first
    | with_reducible assumption
    | (with_reducible apply State.plinthCommand_keeps)
    | (with_reducible refine Keeps.foldl ?_ ?_)
    | (with_reducible refine Keeps.foldlFst ?_ ?_)
    | (with_reducible refine Keeps.foldlSnd ?_ ?_)
    | (intro b x hb; try dsimp only [State.takeFree, State.freshId])
    | split

theorem execRestart_keeps {s a t : State} (h : Keeps s a) (e : execRestart a = .next t) : Keeps s t := by
  unfold execRestart at e
  try dsimp only at e
  repeat' split at e
  all_goals first | (cases e; done) | (injection e with e; subst e)
  all_goals try dsimp only [State.takeFree, State.freshId]
  repeat' first
    | with_reducible assumption
    | (with_reducible apply State.plinthCommand_keeps)
    | (with_reducible refine Keeps.foldl ?_ ?_)
    | (with_reducible refine Keeps.foldlFst ?_ ?_)
    | (with_reducible refine Keeps.foldlSnd ?_ ?_)
    | (intro b x hb; try dsimp only [State.takeFree, State.freshId])
    | split

theorem execPlinthCommandDone_keeps {s a t : State} {ok : Bool} (h : Keeps s a) (e : execPlinthCommandDone ok a = .next t) : Keeps s t := by
  unfold execPlinthCommandDone at e
  try dsimp only at e
  repeat' split at e
  all_goals first | (cases e; done) | (injection e with e; subst e)
  all_goals try dsimp only [State.takeFree, State.freshId]
  repeat' first
    | with_reducible assumption
    | (with_reducible apply State.plinthDone_keeps)
    | (with_reducible refine Keeps.foldl ?_ ?_)
    | (with_reducible refine Keeps.foldlFst ?_ ?_)
    | (with_reducible refine Keeps.foldlSnd ?_ ?_)
    | (intro b x hb; try dsimp only [State.takeFree, State.freshId])
    | split

theorem State.bar0_keeps {s a t : State} {fn o : Nat} {act : Nat → State} (h : Keeps s a) (k : ∀ n, Keeps s (act n))
    (e : a.bar0 fn o act = .next t) : Keeps s t := by
  unfold State.bar0 at e
  split at e
  · cases e
  · injection e with e; subst e
    exact Keeps.ite (k _) (State.answer_keeps _ h)

theorem execRcRegisterRead_keeps {s a t : State} {fn : Fn} {offset : Nat} {be : BitVec 4} {more : Option (Nat × BitVec 4)} (h : Keeps s a) (e : execRcRegisterRead fn offset be a more = .next t) : Keeps s t := by
  unfold execRcRegisterRead at e
  refine State.bar0_keeps h (fun _ => ?_) e
  split <;> exact State.readInOrder_keeps _ _ _ _ _ h

theorem execCounterPairRead_keeps {s a t : State} {fn : Fn} {offset : Nat} {be : BitVec 4} (h : Keeps s a) (e : execCounterPairRead fn offset be a = .next t) : Keeps s t := by
  unfold execCounterPairRead at e
  exact State.bar0_keeps h (fun _ => State.readInOrder_keeps _ _ _ _ _ h) e

theorem execCounterPairSnapshot_keeps {s a t : State} {fn : Fn} {offset : Nat} (h : Keeps s a) (e : execCounterPairSnapshot fn offset a = .next t) : Keeps s t := by
  unfold execCounterPairSnapshot at e
  exact State.bar0_keeps h (fun _ => State.readInOrder_keeps _ _ _ _ _ h) e

theorem execCrossingAccess_keeps {s a t : State} {fn : Sys2Proof.Fn} {write : Bool} (h : Keeps s a) (e : execCrossingAccess fn write a = .next t) : Keeps s t := by
  unfold execCrossingAccess at e
  injection e with e
  subst e
  exact Keeps.ite (State.answer_keeps _ h) (Keeps.ite (State.crossing_keeps _ _ h) (State.holdBack_keeps _ _ h (State.crossing_keeps _ _ h)))

theorem execRegisterWrite_keeps {s a t : State} {fn : Fn} {offset : Nat} {value : W32} {be : BitVec 4} {second : Option (W32 × BitVec 4)}
    (h : Keeps s a) (e : execRegisterWrite fn offset value be a second = .next t) : Keeps s t := by
  unfold execRegisterWrite at e
  refine State.bar0_keeps (State.dueEdge_keeps h) (fun n => ?_) e
  cases second with
  | none => exact State.writeWord_keeps _ _ _ _ (State.dueEdge_keeps h)
  | some v => exact State.writePair_keeps _ _ _ _ _ _ (State.dueEdge_keeps h)

theorem execBufferWrite_keeps {s a t : State} {fn : Sys2Proof.Fn} {offset : ℕ} {bytes : List Sys2Proof.Byte} (h : Keeps s a) (e : execBufferWrite fn offset bytes a = .next t) : Keeps s t := by
  unfold execBufferWrite at e
  try dsimp only at e
  repeat' split at e
  all_goals first | (cases e; done) | (injection e with e; subst e)
  all_goals try dsimp only [State.takeFree, State.freshId]
  repeat' first
    | with_reducible assumption
    | (with_reducible apply State.dueEdge_keeps)
    | (with_reducible apply State.answer_keeps)
    | (with_reducible apply State.writeBytes_keeps)
    | (with_reducible apply State.crossing_keeps)
    | (with_reducible apply State.regionWrite_keeps)
    | (with_reducible refine Keeps.foldl ?_ ?_)
    | (with_reducible refine Keeps.foldlFst ?_ ?_)
    | (with_reducible refine Keeps.foldlSnd ?_ ?_)
    | (intro b x hb; try dsimp only [State.takeFree, State.freshId])
    | split

theorem execTapReset_keeps {s a t : State} (h : Keeps s a) (e : execTapReset a = .next t) : Keeps s t := by
  unfold execTapReset at e
  try dsimp only at e
  repeat' split at e
  all_goals first | (cases e; done) | (injection e with e; subst e)
  all_goals try dsimp only [State.takeFree, State.freshId]
  repeat' first
    | with_reducible assumption
    | (with_reducible refine Keeps.foldl ?_ ?_)
    | (with_reducible refine Keeps.foldlFst ?_ ?_)
    | (with_reducible refine Keeps.foldlSnd ?_ ?_)
    | (intro b x hb; try dsimp only [State.takeFree, State.freshId])
    | split
    | (apply Keeps.upd)
    | exact fun _ w => w
    | (intro b w; try dsimp only; (repeat' split) <;> first | exact w | (rw [Core.wf_iff] at *; exact w) | (simp only [Port.onLane_store, Port.discard_store, Port.acked_store]; exact w))
    | exact fun w => w
    | exact rfl
    | exact fun w => State.port_wf w
    | (intro w; simp only [Port.onLane_store, Port.discard_store, Port.acked_store]; exact State.port_wf w)

theorem execExtest_keeps {s a t : State} {din : BitVec 1378} {pins : BitVec 1378} (h : Keeps s a) (e : execExtest din pins a = .next t) : Keeps s t := by
  unfold execExtest at e
  try dsimp only at e
  repeat' split at e
  all_goals first | (cases e; done) | (injection e with e; subst e)
  all_goals try dsimp only [State.takeFree, State.freshId]
  repeat' first
    | with_reducible assumption
    | (with_reducible apply State.capturePins_keeps)
    | (with_reducible apply State.updateCells_keeps)
    | (with_reducible apply State.capture_keeps)
    | (with_reducible apply State.load_keeps)
    | (with_reducible refine Keeps.foldl ?_ ?_)
    | (with_reducible refine Keeps.foldlFst ?_ ?_)
    | (with_reducible refine Keeps.foldlSnd ?_ ?_)
    | (intro b x hb; try dsimp only [State.takeFree, State.freshId])
    | split

theorem execSample_keeps {s a t : State} {pins : BitVec 1378} (h : Keeps s a) (e : execSample pins a = .next t) : Keeps s t := by
  unfold execSample at e
  try dsimp only at e
  repeat' split at e
  all_goals first | (cases e; done) | (injection e with e; subst e)
  all_goals try dsimp only [State.takeFree, State.freshId]
  repeat' first
    | with_reducible assumption
    | (with_reducible apply State.capturePins_keeps)
    | (with_reducible apply State.capture_keeps)
    | (with_reducible apply State.load_keeps)
    | (with_reducible refine Keeps.foldl ?_ ?_)
    | (with_reducible refine Keeps.foldlFst ?_ ?_)
    | (with_reducible refine Keeps.foldlSnd ?_ ?_)
    | (intro b x hb; try dsimp only [State.takeFree, State.freshId])
    | split

theorem execPreload_keeps {s a t : State} {din : BitVec 1378} {pins : BitVec 1378} (h : Keeps s a) (e : execPreload din pins a = .next t) : Keeps s t := by
  unfold execPreload at e
  try dsimp only at e
  repeat' split at e
  all_goals first | (cases e; done) | (injection e with e; subst e)
  all_goals try dsimp only [State.takeFree, State.freshId]
  repeat' first
    | with_reducible assumption
    | (with_reducible apply State.capturePins_keeps)
    | (with_reducible apply State.updateCells_keeps)
    | (with_reducible apply State.capture_keeps)
    | (with_reducible apply State.load_keeps)
    | (with_reducible refine Keeps.foldl ?_ ?_)
    | (with_reducible refine Keeps.foldlFst ?_ ?_)
    | (with_reducible refine Keeps.foldlSnd ?_ ?_)
    | (intro b x hb; try dsimp only [State.takeFree, State.freshId])
    | split

theorem execIdcode_keeps {s a t : State} (h : Keeps s a) (e : execIdcode a = .next t) : Keeps s t := by
  unfold execIdcode at e
  try dsimp only at e
  repeat' split at e
  all_goals first | (cases e; done) | (injection e with e; subst e)
  all_goals try dsimp only [State.takeFree, State.freshId]
  repeat' first
    | with_reducible assumption
    | (with_reducible apply State.capture_keeps)
    | (with_reducible apply State.load_keeps)
    | (with_reducible refine Keeps.foldl ?_ ?_)
    | (with_reducible refine Keeps.foldlFst ?_ ?_)
    | (with_reducible refine Keeps.foldlSnd ?_ ?_)
    | (intro b x hb; try dsimp only [State.takeFree, State.freshId])
    | split

theorem execClamp_keeps {s a t : State} (h : Keeps s a) (e : execClamp a = .next t) : Keeps s t := by
  unfold execClamp at e
  try dsimp only at e
  repeat' split at e
  all_goals first | (cases e; done) | (injection e with e; subst e)
  all_goals try dsimp only [State.takeFree, State.freshId]
  repeat' first
    | with_reducible assumption
    | (with_reducible apply State.capture_keeps)
    | (with_reducible apply State.load_keeps)
    | (with_reducible refine Keeps.foldl ?_ ?_)
    | (with_reducible refine Keeps.foldlFst ?_ ?_)
    | (with_reducible refine Keeps.foldlSnd ?_ ?_)
    | (intro b x hb; try dsimp only [State.takeFree, State.freshId])
    | split

theorem execHighz_keeps {s a t : State} (h : Keeps s a) (e : execHighz a = .next t) : Keeps s t := by
  unfold execHighz at e
  try dsimp only at e
  repeat' split at e
  all_goals first | (cases e; done) | (injection e with e; subst e)
  all_goals try dsimp only [State.takeFree, State.freshId]
  repeat' first
    | with_reducible assumption
    | (with_reducible apply State.capture_keeps)
    | (with_reducible apply State.load_keeps)
    | (with_reducible refine Keeps.foldl ?_ ?_)
    | (with_reducible refine Keeps.foldlFst ?_ ?_)
    | (with_reducible refine Keeps.foldlSnd ?_ ?_)
    | (intro b x hb; try dsimp only [State.takeFree, State.freshId])
    | split

theorem execExtestPulse_keeps {s a t : State} {din : BitVec 1378} {pins : BitVec 1378} (h : Keeps s a) (e : execExtestPulse din pins a = .next t) : Keeps s t := by
  unfold execExtestPulse at e
  try dsimp only at e
  repeat' split at e
  all_goals first | (cases e; done) | (injection e with e; subst e)
  all_goals try dsimp only [State.takeFree, State.freshId]
  repeat' first
    | with_reducible assumption
    | (with_reducible apply State.capturePins_keeps)
    | (with_reducible apply State.updateCells_keeps)
    | (with_reducible apply State.capture_keeps)
    | (with_reducible apply State.load_keeps)
    | (with_reducible refine Keeps.foldl ?_ ?_)
    | (with_reducible refine Keeps.foldlFst ?_ ?_)
    | (with_reducible refine Keeps.foldlSnd ?_ ?_)
    | (intro b x hb; try dsimp only [State.takeFree, State.freshId])
    | split
    | (apply Keeps.upd)
    | exact fun w => w
    | exact rfl

theorem execExtestTrain_keeps {s a t : State} {din : BitVec 1378} {pins : BitVec 1378} {falls : ℕ} (h : Keeps s a) (e : execExtestTrain din pins falls a = .next t) : Keeps s t := by
  unfold execExtestTrain at e
  try dsimp only at e
  repeat' split at e
  all_goals first | (cases e; done) | (injection e with e; subst e)
  all_goals try dsimp only [State.takeFree, State.freshId]
  repeat' first
    | with_reducible assumption
    | (with_reducible apply State.capturePins_keeps)
    | (with_reducible apply State.updateCells_keeps)
    | (with_reducible apply State.capture_keeps)
    | (with_reducible apply State.load_keeps)
    | (with_reducible apply State.takeFree_keeps)
    | (with_reducible refine Keeps.snd (State.takeFree_keeps (h := ?_) ..) (by with_reducible assumption))
    | (with_reducible refine Keeps.foldl ?_ ?_)
    | (with_reducible refine Keeps.foldlFst ?_ ?_)
    | (with_reducible refine Keeps.foldlSnd ?_ ?_)
    | (intro b x hb; try dsimp only [State.takeFree, State.freshId])
    | split
    | (apply Keeps.upd)
    | exact fun _ w => w
    | (intro b w; try dsimp only; (repeat' split) <;> first | exact w | (rw [Core.wf_iff] at *; exact w) | (simp only [Port.onLane_store, Port.discard_store, Port.acked_store]; exact w))
    | exact fun w => w
    | exact rfl
    | exact fun w => State.port_wf w
    | (intro w; simp only [Port.onLane_store, Port.discard_store, Port.acked_store]; exact State.port_wf w)

theorem execBypass_keeps {s a t : State} {op : BitVec 8} (h : Keeps s a) (e : execBypass op a = .next t) : Keeps s t := by
  unfold execBypass at e
  try dsimp only at e
  repeat' split at e
  all_goals first | (cases e; done) | (injection e with e; subst e)
  all_goals try dsimp only [State.takeFree, State.freshId]
  repeat' first
    | with_reducible assumption
    | (with_reducible apply State.bypass_keeps)
    | (with_reducible apply State.load_keeps)
    | (with_reducible refine Keeps.foldl ?_ ?_)
    | (with_reducible refine Keeps.foldlFst ?_ ?_)
    | (with_reducible refine Keeps.foldlSnd ?_ ?_)
    | (intro b x hb; try dsimp only [State.takeFree, State.freshId])
    | split

theorem execFactoryTest_keeps {s a t : State} {op : Fin 8} (h : Keeps s a) (e : execFactoryTest op a = .next t) : Keeps s t := by
  unfold execFactoryTest at e
  try dsimp only at e
  repeat' split at e
  all_goals first | (cases e; done) | (injection e with e; subst e)
  all_goals try dsimp only [State.takeFree, State.freshId]
  repeat' first
    | with_reducible assumption
    | (with_reducible apply State.bypass_keeps)
    | (with_reducible apply State.captureFree_keeps)
    | (with_reducible apply State.load_keeps)
    | (with_reducible refine Keeps.foldl ?_ ?_)
    | (with_reducible refine Keeps.foldlFst ?_ ?_)
    | (with_reducible refine Keeps.foldlSnd ?_ ?_)
    | (intro b x hb; try dsimp only [State.takeFree, State.freshId])
    | split

theorem execProvSlot_keeps {s a t : State} {din : BitVec 392} (h : Keeps s a) (e : execProvSlot din a = .next t) : Keeps s t := by
  unfold execProvSlot at e
  try dsimp only at e
  repeat' split at e
  all_goals first | (cases e; done) | (injection e with e; subst e)
  all_goals try dsimp only [State.takeFree, State.freshId]
  repeat' first
    | with_reducible assumption
    | (with_reducible apply State.bypass_keeps)
    | (with_reducible apply State.updateSlot_keeps)
    | (with_reducible apply State.captureFree_keeps)
    | (with_reducible apply State.load_keeps)
    | (with_reducible refine Keeps.foldl ?_ ?_)
    | (with_reducible refine Keeps.foldlFst ?_ ?_)
    | (with_reducible refine Keeps.foldlSnd ?_ ?_)
    | (intro b x hb; try dsimp only [State.takeFree, State.freshId])
    | split

theorem execProvNsik_keeps {s a t : State} {din : BitVec 392} (h : Keeps s a) (e : execProvNsik din a = .next t) : Keeps s t := by
  unfold execProvNsik at e
  try dsimp only at e
  repeat' split at e
  all_goals first | (cases e; done) | (injection e with e; subst e)
  all_goals try dsimp only [State.takeFree, State.freshId]
  repeat' first
    | with_reducible assumption
    | (with_reducible apply State.bypass_keeps)
    | (with_reducible apply State.updateNs_keeps)
    | (with_reducible apply State.captureKey_keeps)
    | (with_reducible apply State.load_keeps)
    | (with_reducible refine Keeps.foldl ?_ ?_)
    | (with_reducible refine Keeps.foldlFst ?_ ?_)
    | (with_reducible refine Keeps.foldlSnd ?_ ?_)
    | (intro b x hb; try dsimp only [State.takeFree, State.freshId])
    | split

theorem execProvLock_keeps {s a t : State} {din : BitVec 32} (h : Keeps s a) (e : execProvLock din a = .next t) : Keeps s t := by
  unfold execProvLock at e
  try dsimp only at e
  repeat' split at e
  all_goals first | (cases e; done) | (injection e with e; subst e)
  all_goals try dsimp only [State.takeFree, State.freshId]
  repeat' first
    | with_reducible assumption
    | (with_reducible apply State.bypass_keeps)
    | (with_reducible apply State.updateLock_keeps)
    | (with_reducible apply State.captureFree_keeps)
    | (with_reducible apply State.load_keeps)
    | (with_reducible refine Keeps.foldl ?_ ?_)
    | (with_reducible refine Keeps.foldlFst ?_ ?_)
    | (with_reducible refine Keeps.foldlSnd ?_ ?_)
    | (intro b x hb; try dsimp only [State.takeFree, State.freshId])
    | split

theorem execProvStatus_keeps {s a t : State} (h : Keeps s a) (e : execProvStatus a = .next t) : Keeps s t := by
  unfold execProvStatus at e
  try dsimp only at e
  repeat' split at e
  all_goals first | (cases e; done) | (injection e with e; subst e)
  all_goals try dsimp only [State.takeFree, State.freshId]
  repeat' first
    | with_reducible assumption
    | (with_reducible apply State.capture_keeps)
    | (with_reducible apply State.load_keeps)
    | (with_reducible refine Keeps.foldl ?_ ?_)
    | (with_reducible refine Keeps.foldlFst ?_ ?_)
    | (with_reducible refine Keeps.foldlSnd ?_ ?_)
    | (intro b x hb; try dsimp only [State.takeFree, State.freshId])
    | split

theorem execProvFusesDone_keeps {s a t : State} {ok : Bool} (h : Keeps s a) (e : execProvFusesDone ok a = .next t) : Keeps s t := by
  unfold execProvFusesDone at e
  split at e
  · injection e with e; subst e
    exact h
  · split at e
    · injection e with e; subst e
      exact h.trans ⟨rfl, Nat.le_refl _, Otp.within_provision _ _, id, id, id, id⟩
    · injection e with e; subst e
      exact State.provResult_keeps _ (State.cutProvision_keeps h)

end Sys2Proof.Machine
end

