-- ==== Sys2Proof/Laws/Mailbox.lean ====
section
/-! SUPPORT. What serving a mailbox request and answering it do. -/

namespace Sys2Proof.Machine

/-- A request of a TYPE that the function may send is not skipped. -/
theorem State.skipBadTypes_of_type {s : State} {fn : Nat} {b : List Byte} (k : Nat) (h : s.nextRequest fn = some b)
    (ht : requestType fn b ≠ 0) : State.skipBadTypes k fn s = s := by
  cases k with
  | zero => rfl
  | succ k => simp [State.skipBadTypes, h, ht]

/-- The next request is taken by its own row and carried out when the checks pass. -/
theorem State.serve_of_request {s : State} {fn type size : Nat} {reserved : List Nat} {act : State → List Byte → List Byte → State}
    {b p : List Byte} (h : s.nextRequest fn = some b) (ht : requestType fn b = type) (hz : type ≠ 0)
    (hc : (s.consume1 fn).checkRequest fn type b size reserved = .inr p) :
    s.serve fn type size reserved act = act (s.consume1 fn) b p := by
  have h0 : requestType fn b ≠ 0 := ht ▸ hz
  unfold State.serve
  rw [State.skipBadTypes_of_type 8 h h0]
  dsimp only
  rw [h]
  dsimp only
  rw [if_neg (fun e => e ht), hc]

/-- A request that waits leaves room for its answer. -/
theorem State.room_of_request {s : State} {fn : Nat} {b : List Byte} (h : s.nextRequest fn = some b) :
    (s.fn fn).mbx.full = false ∧ (s.fn fn).mbx.held = [] := by
  unfold State.nextRequest at h
  dsimp only at h
  split at h
  · cases h
  · rename_i hn
    simp only [Bool.or_eq_true, not_or, Bool.not_eq_true, Bool.not_eq_false'] at hn
    exact ⟨hn.1.2, List.isEmpty_iff.mp hn.2⟩

/-- The mailbox of a function after a message for which there is room. -/
theorem State.post_mbx {s : State} {fn : Nat} (bs : List Byte) (hf : (s.fn fn).mbx.full = false) (hh : (s.fn fn).mbx.held = []) :
    ((s.post fn bs).fn fn).mbx = (s.fn fn).mbx.write bs := by
  unfold State.post
  simp only [hf, hh, List.isEmpty_nil, Bool.not_true, Bool.or_self, Bool.false_eq_true, if_false]
  unfold State.signal
  split
  · simp
  · simp only [State.fn_onFn]
    split
    · rfl
    · split <;> rfl

end Sys2Proof.Machine
end

