-- ==== Sys2Proof/Laws/Stop.lean ====
section
/-! SUPPORT. What stopping does: a unit's transfers, a Spire's, and every Spire's. -/

namespace Sys2Proof.Machine

/-! Folds of updates of one part after the other. -/

/-- A fold over numbers below `n` that changes each Spire by the same function. -/
theorem State.spire_foldl_onSpire (f : Spire → Spire) (n : Nat) (s : State) (k : Nat) :
    ((List.range n).foldl (fun (a : State) sp => a.onSpire sp f) s).spire k = if k < n then f (s.spire k) else s.spire k := by
  induction n with
  | zero => simp
  | succ n ih =>
    rw [List.range_succ, List.foldl_append, List.foldl_cons, List.foldl_nil]
    by_cases hk : k = n
    · subst hk
      rw [State.spire_onSpire, ih]
      simp
    · rw [State.spire_onSpire_ne _ _ hk, ih]
      have : (k < n + 1) = (k < n) := by simp only [eq_iff_iff]; omega
      simp [this]

/-- What such a fold leaves as it was. -/
theorem State.foldl_onSpire_core (f : Spire → Spire) (l : List Nat) (s : State) :
    ∃ x, l.foldl (fun (a : State) sp => a.onSpire sp f) s = { s with core := { s.core with spires := x } } := by
  induction l generalizing s with
  | nil => exact ⟨s.core.spires, rfl⟩
  | cons k l ih =>
    obtain ⟨x, hx⟩ := ih (s.onSpire k f)
    exact ⟨x, hx⟩

/-! Transfers. -/

/-- What stays of a stopped transfer is stopped. -/
theorem Xfer.stop_stopped (x y : Xfer) (h : x.stop.1 = some y) : y.stopped = true := by
  unfold Xfer.stop at h
  split at h
  · rename_i hs
    cases h
    exact hs
  · dsimp only at h
    split at h
    · cases h
    · split at h
      · cases h
      · cases h
        rfl

theorem Spire.stopUnit_unit (x : Spire) (u : Nat) : (x.stopUnit u).unit u = ((x.unit u).map Xfer.stop).filterMap (fun r => r.1) :=
  Tbl.get_put_same _ _ _ _

theorem Spire.stopUnit_unit_ne (x : Spire) {u v : Nat} (h : v ≠ u) : (x.stopUnit u).unit v = x.unit v := Tbl.get_put_other _ _ _ h

@[simp] theorem Spire.stopUnit_ctxs (x : Spire) (u : Nat) : (x.stopUnit u).ctxs = x.ctxs := rfl

@[simp] theorem Spire.stopAllUnits_ctxs (x : Spire) : x.stopAllUnits.ctxs = x.ctxs := by
  simp only [Spire.stopAllUnits, List.foldl_cons, List.foldl_nil, Spire.stopUnit_ctxs]

/-- Every transfer a stopped unit still holds is stopped. -/
theorem Spire.stopUnit_stopped (x : Spire) (u : Nat) {y : Xfer} (h : y ∈ (x.stopUnit u).unit u) : y.stopped = true := by
  rw [Spire.stopUnit_unit, List.mem_filterMap] at h
  obtain ⟨r, hr, e⟩ := h
  obtain ⟨z, _, rfl⟩ := List.mem_map.mp hr
  exact Xfer.stop_stopped z y e

/-- Every transfer a stopped Spire still holds is stopped. -/
theorem Spire.stopAllUnits_stopped (x : Spire) {u : Nat} (hu : u < 5) {y : Xfer} (h : y ∈ x.stopAllUnits.unit u) :
    y.stopped = true := by
  have step : ∀ (z : Spire) (v : Nat), (∀ w ∈ z.unit u, w.stopped = true) → ∀ w ∈ (z.stopUnit v).unit u, w.stopped = true := by
    intro z v hz w hw
    by_cases e : u = v
    · subst e
      exact Spire.stopUnit_stopped z u hw
    · rw [Spire.stopUnit_unit_ne z e] at hw
      exact hz w hw
  have key : ∀ w ∈ (([0, 1, 2, 3, 4] : List Nat).foldl Spire.stopUnit x).unit u, w.stopped = true := by
    simp only [List.foldl_cons, List.foldl_nil]
    obtain rfl | rfl | rfl | rfl | rfl : u = 0 ∨ u = 1 ∨ u = 2 ∨ u = 3 ∨ u = 4 := by omega
    · exact step _ 4 (step _ 3 (step _ 2 (step _ 1 (fun w => Spire.stopUnit_stopped _ _))))
    · exact step _ 4 (step _ 3 (step _ 2 (fun w => Spire.stopUnit_stopped _ _)))
    · exact step _ 4 (step _ 3 (fun w => Spire.stopUnit_stopped _ _))
    · exact step _ 4 (fun w => Spire.stopUnit_stopped _ _)
    · exact fun w => Spire.stopUnit_stopped _ _
  exact key y h

/-! Every Spire. -/

theorem State.stopSpires_spire (s : State) {sp : Nat} (h : sp < 16) :
    s.stopSpires.spire sp = { (s.spire sp).stopAllUnits with stopped := true } := by
  unfold State.stopSpires
  rw [State.spire_foldl_onSpire]
  simp [h]

@[simp] theorem Spire.unit_withStopped (x : Spire) (b : Bool) (u : Nat) : Spire.unit { x with stopped := b } u = x.unit u := rfl

/-- Every transfer that a Spire still holds after that is stopped. -/
theorem State.stopSpires_stopped (s : State) {sp u : Nat} (h : sp < 16) (hu : u < 5) {y : Xfer}
    (hy : y ∈ (s.stopSpires.spire sp).unit u) : y.stopped = true := by
  rw [State.stopSpires_spire s h, Spire.unit_withStopped] at hy
  exact Spire.stopAllUnits_stopped _ hu hy

/-- Stopping every Spire changes nothing but the Spires. -/
theorem State.stopSpires_eq (s : State) : ∃ x, s.stopSpires = { s with core := { s.core with spires := x } } :=
  State.foldl_onSpire_core _ _ s

/-! Fields after a stop or a reset of the functions. -/

/-- A fold of updates that keep something keeps it. -/
theorem foldl_keeps {α β γ : Type} (g : α → γ) (f : α → β → α) (h : ∀ a b, g (f a b) = g a) (l : List β) (s : α) :
    g (l.foldl f s) = g s := by
  induction l generalizing s with
  | nil => rfl
  | cons x l ih => rw [List.foldl_cons, ih, h]

@[simp] theorem State.stopSpires_pending (s : State)  : (s.stopSpires).pending = s.pending := by
  unfold State.stopSpires
  exact foldl_keeps State.pending _ (fun a b => State.onSpire_pending a b _) _ _
@[simp] theorem State.stopSpires_time (s : State)  : (s.stopSpires).time = s.time := by
  unfold State.stopSpires
  exact foldl_keeps State.time _ (fun a b => State.onSpire_time a b _) _ _
@[simp] theorem State.stopSpires_resetAt (s : State)  : (s.stopSpires).resetAt = s.resetAt := by
  unfold State.stopSpires
  exact foldl_keeps State.resetAt _ (fun a b => State.onSpire_resetAt a b _) _ _
@[simp] theorem State.stopSpires_ccyc (s : State)  : (s.stopSpires).ccyc = s.ccyc := by
  unfold State.stopSpires
  exact foldl_keeps State.ccyc _ (fun a b => State.onSpire_ccyc a b _) _ _
@[simp] theorem State.stopSpires_free (s : State)  : (s.stopSpires).free = s.free := by
  unfold State.stopSpires
  exact foldl_keeps State.free _ (fun a b => State.onSpire_free a b _) _ _
@[simp] theorem State.stopSpires_cfg (s : State)  : (s.stopSpires).cfg = s.cfg := by
  unfold State.stopSpires
  exact foldl_keeps State.cfg _ (fun a b => State.onSpire_cfg a b _) _ _
@[simp] theorem State.stopSpires_parts (s : State)  : (s.stopSpires).parts = s.parts := by
  unfold State.stopSpires
  exact foldl_keeps State.parts _ (fun a b => State.onSpire_parts a b _) _ _
@[simp] theorem State.stopSpires_tick (s : State)  : (s.stopSpires).tick = s.tick := by
  unfold State.stopSpires
  exact foldl_keeps State.tick _ (fun a b => State.onSpire_tick a b _) _ _
@[simp] theorem State.stopSpires_host (s : State)  : (s.stopSpires).host = s.host := by
  unfold State.stopSpires
  exact foldl_keeps State.host _ (fun a b => State.onSpire_host a b _) _ _
@[simp] theorem State.stopSpires_log (s : State)  : (s.stopSpires).log = s.log := by
  unfold State.stopSpires
  exact foldl_keeps State.log _ (fun a b => State.onSpire_log a b _) _ _
@[simp] theorem State.stopSpires_ports (s : State)  : (s.stopSpires).ports = s.ports := by
  unfold State.stopSpires
  exact foldl_keeps State.ports _ (fun a b => State.onSpire_ports a b _) _ _
@[simp] theorem State.stopSpires_power (s : State)  : (s.stopSpires).power = s.power := by
  unfold State.stopSpires
  exact foldl_keeps State.power _ (fun a b => State.onSpire_power a b _) _ _
@[simp] theorem State.stopSpires_boot (s : State)  : (s.stopSpires).boot = s.boot := by
  unfold State.stopSpires
  exact foldl_keeps State.boot _ (fun a b => State.onSpire_boot a b _) _ _
@[simp] theorem State.stopSpires_store (s : State)  : (s.stopSpires).store = s.store := by
  unfold State.stopSpires
  exact foldl_keeps State.store _ (fun a b => State.onSpire_store a b _) _ _
@[simp] theorem State.stopSpires_rom (s : State)  : (s.stopSpires).rom = s.rom := by
  unfold State.stopSpires
  exact foldl_keeps State.rom _ (fun a b => State.onSpire_rom a b _) _ _
@[simp] theorem State.stopSpires_tap (s : State)  : (s.stopSpires).tap = s.tap := by
  unfold State.stopSpires
  exact foldl_keeps State.tap _ (fun a b => State.onSpire_tap a b _) _ _
@[simp] theorem State.haltTick_pending (s : State)  : (s.haltTick).pending = s.pending := by
  rfl
@[simp] theorem State.haltTick_time (s : State)  : (s.haltTick).time = s.time := by
  rfl
@[simp] theorem State.haltTick_resetAt (s : State)  : (s.haltTick).resetAt = s.resetAt := by
  rfl
@[simp] theorem State.haltTick_ccyc (s : State)  : (s.haltTick).ccyc = s.ccyc := by
  rfl
@[simp] theorem State.haltTick_free (s : State)  : (s.haltTick).free = s.free := by
  rfl
@[simp] theorem State.haltTick_cfg (s : State)  : (s.haltTick).cfg = s.cfg := by
  rfl
@[simp] theorem State.haltTick_core (s : State)  : (s.haltTick).core = s.core := by
  rfl
@[simp] theorem State.haltTick_parts (s : State)  : (s.haltTick).parts = s.parts := by
  rfl
@[simp] theorem State.haltTick_host (s : State)  : (s.haltTick).host = s.host := by
  rfl
@[simp] theorem State.haltTick_log (s : State)  : (s.haltTick).log = s.log := by
  rfl
@[simp] theorem State.haltTick_ports (s : State)  : (s.haltTick).ports = s.ports := by
  rfl
@[simp] theorem State.haltTick_power (s : State)  : (s.haltTick).power = s.power := by
  rfl
@[simp] theorem State.haltTick_boot (s : State)  : (s.haltTick).boot = s.boot := by
  rfl
@[simp] theorem State.haltTick_store (s : State)  : (s.haltTick).store = s.store := by
  rfl
@[simp] theorem State.haltTick_rom (s : State)  : (s.haltTick).rom = s.rom := by
  rfl
@[simp] theorem State.haltTick_tap (s : State)  : (s.haltTick).tap = s.tap := by
  rfl
@[simp] theorem State.resetPf_pending (s : State)  : (s.resetPf).pending = s.pending := by
  rfl
@[simp] theorem State.resetPf_time (s : State)  : (s.resetPf).time = s.time := by
  rfl
@[simp] theorem State.resetPf_resetAt (s : State)  : (s.resetPf).resetAt = s.resetAt := by
  rfl
@[simp] theorem State.resetPf_ccyc (s : State)  : (s.resetPf).ccyc = s.ccyc := by
  rfl
@[simp] theorem State.resetPf_free (s : State)  : (s.resetPf).free = s.free := by
  rfl
@[simp] theorem State.resetPf_cfg (s : State)  : (s.resetPf).cfg = s.cfg := by
  rfl
@[simp] theorem State.resetPf_core (s : State)  : (s.resetPf).core = s.core := by
  rfl
@[simp] theorem State.resetPf_parts (s : State)  : (s.resetPf).parts = s.parts := by
  rfl
@[simp] theorem State.resetPf_tick (s : State)  : (s.resetPf).tick = s.tick := by
  rfl
@[simp] theorem State.resetPf_log (s : State)  : (s.resetPf).log = s.log := by
  rfl
@[simp] theorem State.resetPf_ports (s : State)  : (s.resetPf).ports = s.ports := by
  rfl
@[simp] theorem State.resetPf_power (s : State)  : (s.resetPf).power = s.power := by
  rfl
@[simp] theorem State.resetPf_boot (s : State)  : (s.resetPf).boot = s.boot := by
  rfl
@[simp] theorem State.resetPf_store (s : State)  : (s.resetPf).store = s.store := by
  rfl
@[simp] theorem State.resetPf_rom (s : State)  : (s.resetPf).rom = s.rom := by
  rfl
@[simp] theorem State.resetPf_tap (s : State)  : (s.resetPf).tap = s.tap := by
  rfl
@[simp] theorem State.linkDown_pending (s : State)  : (s.linkDown).pending = s.pending := by
  unfold State.linkDown
  split
  · rfl
  · dsimp only
    rw [State.event_pending]
    dsimp only
    rw [State.resetPf_pending]
    exact foldl_keeps State.pending _ (fun a b => State.onFn_pending a b _) _ _
@[simp] theorem State.linkDown_time (s : State)  : (s.linkDown).time = s.time := by
  unfold State.linkDown
  split
  · rfl
  · dsimp only
    rw [State.event_time]
    dsimp only
    rw [State.resetPf_time]
    exact foldl_keeps State.time _ (fun a b => State.onFn_time a b _) _ _
@[simp] theorem State.linkDown_resetAt (s : State)  : (s.linkDown).resetAt = s.resetAt := by
  unfold State.linkDown
  split
  · rfl
  · dsimp only
    rw [State.event_resetAt]
    dsimp only
    rw [State.resetPf_resetAt]
    exact foldl_keeps State.resetAt _ (fun a b => State.onFn_resetAt a b _) _ _
@[simp] theorem State.linkDown_ccyc (s : State)  : (s.linkDown).ccyc = s.ccyc := by
  unfold State.linkDown
  split
  · rfl
  · dsimp only
    rw [State.event_ccyc]
    dsimp only
    rw [State.resetPf_ccyc]
    exact foldl_keeps State.ccyc _ (fun a b => State.onFn_ccyc a b _) _ _
@[simp] theorem State.linkDown_free (s : State)  : (s.linkDown).free = s.free := by
  unfold State.linkDown
  split
  · rfl
  · dsimp only
    rw [State.event_free]
    dsimp only
    rw [State.resetPf_free]
    exact foldl_keeps State.free _ (fun a b => State.onFn_free a b _) _ _
@[simp] theorem State.linkDown_cfg (s : State)  : (s.linkDown).cfg = s.cfg := by
  unfold State.linkDown
  split
  · rfl
  · dsimp only
    rw [State.event_cfg]
    dsimp only
    rw [State.resetPf_cfg]
    exact foldl_keeps State.cfg _ (fun a b => State.onFn_cfg a b _) _ _
@[simp] theorem State.linkDown_core (s : State)  : (s.linkDown).core = s.core := by
  unfold State.linkDown
  split
  · rfl
  · dsimp only
    rw [State.event_core]
    dsimp only
    rw [State.resetPf_core]
    exact foldl_keeps State.core _ (fun a b => State.onFn_core a b _) _ _
@[simp] theorem State.linkDown_parts (s : State)  : (s.linkDown).parts = s.parts := by
  unfold State.linkDown
  split
  · rfl
  · dsimp only
    rw [State.event_parts]
    dsimp only
    rw [State.resetPf_parts]
    exact foldl_keeps State.parts _ (fun a b => State.onFn_parts a b _) _ _
@[simp] theorem State.linkDown_tick (s : State)  : (s.linkDown).tick = s.tick := by
  unfold State.linkDown
  split
  · rfl
  · dsimp only
    rw [State.event_tick]
    dsimp only
    rw [State.resetPf_tick]
    exact foldl_keeps State.tick _ (fun a b => State.onFn_tick a b _) _ _
@[simp] theorem State.linkDown_ports (s : State)  : (s.linkDown).ports = s.ports := by
  unfold State.linkDown
  split
  · rfl
  · dsimp only
    rw [State.event_ports]
    dsimp only
    rw [State.resetPf_ports]
    exact foldl_keeps State.ports _ (fun a b => State.onFn_ports a b _) _ _
@[simp] theorem State.linkDown_power (s : State)  : (s.linkDown).power = s.power := by
  unfold State.linkDown
  split
  · rfl
  · dsimp only
    rw [State.event_power]
    dsimp only
    rw [State.resetPf_power]
    exact foldl_keeps State.power _ (fun a b => State.onFn_power a b _) _ _
@[simp] theorem State.linkDown_boot (s : State)  : (s.linkDown).boot = s.boot := by
  unfold State.linkDown
  split
  · rfl
  · dsimp only
    rw [State.event_boot]
    dsimp only
    rw [State.resetPf_boot]
    exact foldl_keeps State.boot _ (fun a b => State.onFn_boot a b _) _ _
@[simp] theorem State.linkDown_store (s : State)  : (s.linkDown).store = s.store := by
  unfold State.linkDown
  split
  · rfl
  · dsimp only
    rw [State.event_store]
    dsimp only
    rw [State.resetPf_store]
    exact foldl_keeps State.store _ (fun a b => State.onFn_store a b _) _ _
@[simp] theorem State.linkDown_rom (s : State)  : (s.linkDown).rom = s.rom := by
  unfold State.linkDown
  split
  · rfl
  · dsimp only
    rw [State.event_rom]
    dsimp only
    rw [State.resetPf_rom]
    exact foldl_keeps State.rom _ (fun a b => State.onFn_rom a b _) _ _
@[simp] theorem State.linkDown_tap (s : State)  : (s.linkDown).tap = s.tap := by
  unfold State.linkDown
  split
  · rfl
  · dsimp only
    rw [State.event_tap]
    dsimp only
    rw [State.resetPf_tap]
    exact foldl_keeps State.tap _ (fun a b => State.onFn_tap a b _) _ _

end Sys2Proof.Machine
end

