-- ==== Sys2Proof/Laws/Stream.lean ====
section
/-! SUPPORT. A command given to a sequencer that rests: it is read at once, and where it belongs to the execute side it
starts two ccyc later. -/

namespace Sys2Proof.Machine

/-- A search over a list in which only one member answers. -/
theorem findSome?_only {α β : Type} [DecidableEq α] (f : α → Option β) (a : α) (l : List α) (ha : a ∈ l)
    (h : ∀ x ∈ l, x ≠ a → f x = none) : l.findSome? f = f a := by
  induction l with
  | nil => cases ha
  | cons b t ih =>
    rw [List.findSome?_cons]
    by_cases hb : b = a
    · subst hb
      cases hf : f b with
      | some v => rfl
      | none =>
        by_cases hm : b ∈ t
        · rw [ih hm (fun x hx => h x (List.mem_cons_of_mem _ hx)), hf]
        · simp only [List.findSome?_eq_none_iff]
          intro x hx
          exact h x (List.mem_cons_of_mem _ hx) (fun e => hm (e ▸ hx))
    · rw [h b List.mem_cons_self hb]
      exact ih ((List.mem_cons.1 ha).resolve_left (fun e => hb e.symm)) (fun x hx => h x (List.mem_cons_of_mem _ hx))

theorem mem_circularAfter {n last a : Nat} (h : a < n) : a ∈ circularAfter n last := by
  simp only [circularAfter, List.mem_map, List.mem_range]
  refine ⟨(a + n - (last + 1) % n) % n, Nat.mod_lt _ (by omega), ?_⟩
  have h1 : (last + 1) % n < n := Nat.mod_lt _ (by omega)
  rw [Nat.add_mod, Nat.mod_mod, ← Nat.add_mod]
  rw [show (last + 1) = n * ((last + 1) / n) + (last + 1) % n from (Nat.div_add_mod _ _).symm]
  generalize (last + 1) / n = q at *
  have : n * q + (last + 1) % n + (a + n - (n * q + (last + 1) % n) % n) = n * (q + 1) + a := by
    rw [Nat.mul_add_mod, Nat.mod_mod, Nat.mul_add]; omega
  rw [this, Nat.mul_add_mod, Nat.mod_eq_of_lt h]

theorem circularAfter_lt {n last a : Nat} (h : a ∈ circularAfter n last) : a < n := by
  simp only [circularAfter, List.mem_map, List.mem_range] at h
  obtain ⟨i, hi, rfl⟩ := h
  exact Nat.mod_lt _ (by omega)

theorem State.startNext_empty {s : State} {p sp k : Nat} (h : ((s.spire sp).ctx k).queue = []) : s.startNext p sp k = none := by
  simp only [State.startNext, h]

theorem State.readNext_empty {s : State} {p sp k : Nat} (h : ((s.spire sp).ctx k).backlog = []) : s.readNext p sp k = none := by
  simp only [State.readNext, h]

/-- With nothing queued, no context to pick and one context's backlog, a move is that context's read. -/
theorem State.move_read {s : State} {p sp ctx : Nat} (hc : ctx < 8) (hu : s.pickUp sp = none)
    (hq : ∀ k, k < 8 → ((s.spire sp).ctx k).queue = [])
    (hb : ∀ k, k < 8 → k ≠ ctx → ((s.spire sp).ctx k).backlog = []) :
    s.move p sp = (s.readNext p sp ctx).map (fun a => a.refill p sp) := by
  have h1 : (List.range 8).findSome? (s.startNext p sp) = none := by
    simp only [List.findSome?_eq_none_iff, List.mem_range]
    exact fun k hk => State.startNext_empty (hq k hk)
  unfold State.move
  rw [h1, hu]
  dsimp only
  rw [findSome?_only (s.readNext p sp) ctx _ (mem_circularAfter hc)
    (fun x hx hn => State.readNext_empty (hb x (circularAfter_lt hx) hn))]

/-- With one context's queue alone, a move is that context's start where it can start. -/
theorem State.move_start {s t : State} {p sp ctx : Nat} (hc : ctx < 8) (hq : ∀ k, k < 8 → k ≠ ctx → ((s.spire sp).ctx k).queue = [])
    (e : s.startNext p sp ctx = some t) : s.move p sp = some t := by
  unfold State.move
  rw [findSome?_only (s.startNext p sp) ctx _ (List.mem_range.2 hc)
    (fun x hx hn => State.startNext_empty (hq x (List.mem_range.1 hx) hn)), e]

/-- With nothing queued, nothing presented and no context to pick, nothing moves. -/
theorem State.move_none {s : State} {p sp : Nat} (hu : s.pickUp sp = none) (h : ∀ k, k < 8 → ((s.spire sp).ctx k).backlog = [] ∧ ((s.spire sp).ctx k).queue = []) :
    s.move p sp = none := by
  rw [State.move_read (ctx := 0) (by omega) hu (fun k hk => (h k hk).2) (fun k hk _ => (h k hk).1), State.readNext_empty (h 0 (by omega)).1]
  rfl

theorem State.pump_done {s : State} {p sp : Nat} (f : Nat) (hu : s.pickUp sp = none)
    (h : ∀ k, k < 8 → ((s.spire sp).ctx k).backlog = [] ∧ ((s.spire sp).ctx k).queue = []) : State.pump f p sp s = s := by
  cases f with
  | zero => rfl
  | succ f => simp only [State.pump, State.move_none hu h]

theorem State.pump_move {s t : State} {p sp : Nat} (f : Nat) (e : s.move p sp = some t) :
    State.pump (f + 1) p sp s = State.pump f p sp t := by
  simp only [State.pump, e]

/-- A resident part is not read again. -/
theorem State.refill_resident {s : State} {p sp : Nat} {q : PlanPart} (h : (s.part p).plan.partOf sp = some q) (r : q.resident = true) :
    s.refill p sp = s := by
  unfold State.refill
  dsimp only
  rw [h]
  cases (s.spire sp).needed (s.part p).plan.contexts with
  | none => rfl
  | some n => simp only [State.moveRing, r, if_true]

theorem Spire.work_pos (x : Spire) : 2 ≤ x.work := by
  simp only [Spire.work, show List.range 8 = [0, 1, 2, 3, 4, 5, 6, 7] from rfl, List.foldl_cons, List.foldl_nil]
  omega

/-- Where a context may run, none is to be picked. -/
theorem State.pickUp_none {s : State} {sp : Nat} (h : (s.planOf sp).pod = true → (s.spire sp).running ≠ 8) : s.pickUp sp = none := by
  unfold State.pickUp
  dsimp only
  split
  · rename_i hc
    exact absurd hc.2.1 (h hc.1)
  · rfl

/-- The state in which a command stands alone before the fetch engine of a resting Spire. -/
def State.offered (s : State) (c : StreamCmd) : State :=
  s.onSpire c.sp.val (fun x => x.onCtx c.ctx.val (fun k => { k with backlog := [c] }))

@[simp] theorem State.offered_part (s : State) (c : StreamCmd) (p : Nat) : (s.offered c).part p = s.part p := rfl
@[simp] theorem State.offered_cfg (s : State) (c : StreamCmd) : (s.offered c).cfg = s.cfg := rfl

theorem State.offered_spire (s : State) (c : StreamCmd) :
    (s.offered c).spire c.sp.val = (s.spire c.sp.val).onCtx c.ctx.val (fun k => { k with backlog := [c] }) :=
  State.spire_onSpire ..

theorem State.offered_other (s : State) (c : StreamCmd) {i : Nat} (h : i ≠ c.sp.val) : (s.offered c).spire i = s.spire i :=
  State.spire_onSpire_ne _ _ h

theorem State.offered_only (s : State) (c : StreamCmd) : OnlySpire s (s.offered c) c.sp.val :=
  ⟨rfl, rfl, fun _ h => s.offered_other c h⟩

/-- The place of a command that stands at its context's stream pointer. -/
def State.placeOf (s : State) (p : Nat) (c : StreamCmd) : CmdPlace :=
  ⟨(s.part p).plan, c.sp.val, (s.pcfg p).spires,
    ((s.spire c.sp.val).ctx c.ctx.val).loops.map (fun l => (l.start, l.count)), ((s.spire c.sp.val).ctx c.ctx.val).pc⟩

theorem streaming_spire {s : State} {p : Nat} {c : StreamCmd} (h : Ready s p c) :
    (s.part p).phase = .run ∧ bit1 (s.spire c.sp.val).frozen 0 = false ∧ (s.spire c.sp.val).stopped = false ∧
      ((s.spire c.sp.val).ctx c.ctx.val).eotRead = false := by
  have t := h.takes
  simp only [State.streaming, h.owner, Bool.and_eq_true, Bool.not_eq_true', decide_eq_true_eq] at t
  exact ⟨t.1.1.1.1.1, t.1.1.2, t.1.2, t.2⟩

/-- What presenting a command to a resting Spire leaves before the fetch engine. -/
theorem State.presented {s : State} {p : Nat} {c : StreamCmd} (h : Ready s p c) :
    s.onSpire c.sp.val (fun x => x.onCtx c.ctx.val (fun k => { k with backlog := k.backlog ++ [c] })) = s.offered c := by
  simp only [State.offered, State.onSpire, Spire.onCtx, (h.rested.empty c.ctx.val c.ctx.isLt).1, List.nil_append]

/-- The first move of a resting Spire reads the command, in the ccyc in which the fetch engine could. -/
theorem State.readNext_ready {s : State} {p : Nat} {c : StreamCmd} (h : Ready s p c) :
    (s.offered c).readNext p c.sp.val c.ctx.val
      = (s.offered c).readCommand (s.placeOf p c) c p c.sp.val c.ctx.val ((s.spire c.sp.val).readFrom c.ctx.val c) (s.part p).ccyc := by
  obtain ⟨-, hf, hs, he⟩ := streaming_spire h
  obtain ⟨q, hq, hr, -⟩ := h.resident
  have hb := h.rested.empty c.ctx.val c.ctx.isLt
  have hsp := s.offered_spire c
  have hctx := Spire.ctx_onCtx (s.spire c.sp.val) c.ctx.val (fun k => { k with backlog := [c] })
  have hfrom : ((s.spire c.sp.val).onCtx c.ctx.val (fun k => { k with backlog := [c] })).readFrom c.ctx.val c
      = (s.spire c.sp.val).readFrom c.ctx.val c := by
    simp only [Spire.readFrom, hctx]
    rfl
  have hhold : (s.offered c).holdsFetch p c.sp.val c.ctx.val c = false := by
    simp only [State.holdsFetch, hsp, hctx, State.offered_part]
    simp only [Spire.onCtx, hf, hs, he, hb.2]
    cases (s.part p).plan.pod <;> simp [queueLimit]
  have hbuf : (s.offered c).inBuffer p c.sp.val c.ctx.val = true := by
    simp only [State.inBuffer, State.offered_part, hq, hr, Bool.true_or]
  have hwait : (s.offered c).refillWait p c.sp.val c = 0 := by
    simp only [State.refillWait, State.offered_part, hq, hr, if_true]
  have hle : ¬(s.part p).ccyc < (s.spire c.sp.val).readFrom c.ctx.val c := by
    have := h.read
    omega
  unfold State.readNext
  simp only [hbuf]
  simp only [hsp, hctx, hfrom, State.offered_part, hle, h.rested.push.2.2]
  simp only [hhold, hwait, Bool.false_eq_true, Bool.not_true, or_self, if_false, if_true]
  rfl

theorem Ready.picked {s : State} {p : Nat} {c : StreamCmd} (h : Ready s p c) : (s.planOf c.sp.val).pod = true → (s.spire c.sp.val).running ≠ 8 := by
  intro hp hr
  have k := h.runs
  have e : (s.part p).plan.pod = true := by
    simpa only [State.planOf, h.owner] using hp
  have hl := c.ctx.isLt
  simp only [Spire.mayRun, e, hr, Bool.not_true, Bool.false_or, Bool.and_eq_true, beq_iff_eq] at k
  omega

/-- Feeding a resting Spire: the read, then what the read leaves goes on. -/
theorem State.feed_ready {s t : State} {p : Nat} {c : StreamCmd} (h : Ready s p c) (hp : t.part p = s.part p)
    (e : (s.offered c).readCommand (s.placeOf p c) c p c.sp.val c.ctx.val ((s.spire c.sp.val).readFrom c.ctx.val c) (s.part p).ccyc = some t) :
    ∃ f, 1 ≤ f ∧ s.feed c = State.pump f p c.sp.val t := by
  obtain ⟨hph, -⟩ := streaming_spire h
  obtain ⟨q, hq, hr, -⟩ := h.resident
  have hu : s.upset c.upsets = s := by rw [h.clean.1]; rfl
  have hm : s.refillMeets c = s := by
    have hplan : s.planOf c.sp.val = (s.part p).plan := by simp only [State.planOf, h.owner]
    unfold State.refillMeets
    rw [hplan, hq]
    simp only [hr, if_true]
  unfold State.feed
  simp only [h.takes, hu, hm]
  simp only [if_true]
  rw [State.presented h]
  have ho : (s.offered c).owner c.sp.val = some p := h.owner
  unfold State.resume
  rw [ho]
  dsimp only
  rw [if_pos (show ((s.offered c).part p).phase = .run from hph), State.refill_resident (s := s.offered c) (q := q) hq hr]
  have hw := Spire.work_pos ((s.offered c).spire c.sp.val)
  obtain ⟨f, hf⟩ : ∃ f, ((s.offered c).spire c.sp.val).work = f + 1 := ⟨_, (Nat.sub_add_cancel (by omega)).symm⟩
  refine ⟨f, by omega, ?_⟩
  rw [hf]
  have hpick : (s.offered c).pickUp c.sp.val = none :=
    State.pickUp_none (fun a => by rw [s.offered_spire c]; exact h.picked a)
  have hmv := State.move_read (s := s.offered c) (p := p) (sp := c.sp.val) c.ctx.isLt hpick
    (fun k hk => by
      rw [s.offered_spire c]
      by_cases hkc : k = c.ctx.val
      · subst hkc; rw [Spire.ctx_onCtx]; exact (h.rested.empty _ hk).2
      · rw [Spire.ctx_onCtx_ne _ _ hkc]; exact (h.rested.empty _ hk).2)
    (fun k hk hkc => by rw [s.offered_spire c, Spire.ctx_onCtx_ne _ _ hkc]; exact (h.rested.empty _ hk).1)
  rw [State.readNext_ready h, e] at hmv
  simp only [Option.map_some] at hmv
  rw [State.refill_resident (by rw [hp]; exact hq) hr] at hmv
  exact State.pump_move f hmv

/-- A command that the read carries out: nothing else moves. -/
theorem State.feed_fetched {s t : State} {p : Nat} {c : StreamCmd} (h : Ready s p c) (hp : t.part p = s.part p)
    (e : (s.offered c).readCommand (s.placeOf p c) c p c.sp.val c.ctx.val ((s.spire c.sp.val).readFrom c.ctx.val c) (s.part p).ccyc = some t)
    (hu : t.pickUp c.sp.val = none)
    (he : ∀ k, k < 8 → ((t.spire c.sp.val).ctx k).backlog = [] ∧ ((t.spire c.sp.val).ctx k).queue = []) : s.feed c = t := by
  obtain ⟨f, -, hf⟩ := State.feed_ready h hp e
  rw [hf, State.pump_done f hu he]

/-- A command that the read queues and the execute engine starts: nothing else moves. -/
theorem State.feed_started {s t u : State} {p : Nat} {c : StreamCmd} (h : Ready s p c) (hp : t.part p = s.part p)
    (e : (s.offered c).readCommand (s.placeOf p c) c p c.sp.val c.ctx.val ((s.spire c.sp.val).readFrom c.ctx.val c) (s.part p).ccyc = some t)
    (hq : ∀ k, k < 8 → k ≠ c.ctx.val → ((t.spire c.sp.val).ctx k).queue = [])
    (es : t.startNext p c.sp.val c.ctx.val = some u) (hu : u.pickUp c.sp.val = none)
    (he : ∀ k, k < 8 → ((u.spire c.sp.val).ctx k).backlog = [] ∧ ((u.spire c.sp.val).ctx k).queue = []) : s.feed c = u := by
  obtain ⟨f, hf1, hf⟩ := State.feed_ready h hp e
  obtain ⟨g, rfl⟩ : ∃ g, f = g + 1 := ⟨f - 1, by omega⟩
  rw [hf, State.pump_move g (State.move_start c.ctx.isLt hq es), State.pump_done g hu he]

end Sys2Proof.Machine
end

