-- ==== Sys2Proof/Tests/Slice0.lean ====
section
/-! SUPPORT. Tests: the commands that WellFormed refuses, hand calculations from the spec's tables, and for each statement a
small state that meets its hypotheses. -/

namespace Sys2Proof.Tests

/-! One theorem at a time: each of these is a closed evaluation for the kernel, and many at once hold one thread each. -/
set_option Elab.async false

open Sys2Proof.Machine
open Host (Outcome)

/-! WellFormed: an ill-formed term for each of its checks. -/

/-- A stream command of Spire 0, context 0. -/
def cmd (w0 w1 w2 w3 : W32) : StreamCmd := { sp := 0, ctx := 0, w0 := w0, w1 := w1, w2 := w2, w3 := w3, slips := 0, refill := 0, upsets := [] }

theorem test_wf_opcode : (Instr.mac (cmd 0x21#32 0#32 0#32 0#32)).wf = false := by decide
theorem test_wf_opcode_good : (Instr.mac (cmd 0x20#32 0#32 0#32 0#32)).wf = true := by decide
theorem test_wf_rc_offset : (Instr.rcRegisterRead 0 0x100D 0xF#4).wf = false := by decide
theorem test_wf_pair_offset : (Instr.counterPairRead 0 2 0xF#4).wf = false := by decide
theorem test_wf_snapshot_offset : (Instr.counterPairSnapshot 0 1).wf = false := by decide
theorem test_wf_write_offset : (Instr.registerWrite 16 0x41 0#32 0xF#4 none).wf = false := by decide
theorem test_wf_buffer : (Instr.bufferWrite 0 0x3FFF [0#8]).wf = false := by decide
theorem test_wf_bypass : (Instr.bypass 0x83#8).wf = false := by decide
theorem test_ill_formed_runs : ∃ t, exec (.bypass 0x83#8) State.reset = .next t ∧ t.tap.instr = 0x83 := ⟨_, rfl, rfl⟩

/-! Decoding: the table gives no row any bits, so a word spells no command, and the queue stays as it is. -/

theorem test_no_word_decodes : decodeTableWord 32 0x20 = none := by decide
theorem test_fetch_word_places_nothing : State.reset.withFetchWord 32 0x20 = State.reset := rfl

/-! A run window of partition 0 on Spire 0, at ccyc 5. -/

/-- One context, one queue of mode 1 at each Spire, one descriptor and one calendar, on Spire 0 and the Spires given. -/
def plan0 (more : List Nat) : Plan :=
  { contexts := 1, calCount := 1, descCount := 1, parts := ⟨0, true, 0, 4096, [0], [⟨1, 0, false⟩], []⟩ :: more.map (fun sp => ⟨sp, true, 0, 4096, [0], [⟨1, 0, false⟩], []⟩) }
/-- Partition 0, which owns Spires 0 and 1. -/
def cfg0 (pod : Bool) : Cfg := { pod := pod, parts := [(0, { defined := true, spires := 3 })] }
/-- Partition 0 in its run window, with Spire 0 as given. -/
def running (x : Spire) (more : List Nat) : State :=
  { cfg := cfg0 false, parts := [(0, { phase := .run, plan := plan0 more, ccyc := 5 })], core := { spires := [(0, x)] } }
/-- Spire 0 with nothing under way but open loops, handles in its queues, transfers in its units and a shadow bank in use. -/
def spire0 (loops : List Loop) (queues : Tbl (List Held) := []) (units : Tbl (List Xfer) := []) (shadow : Option CalLoad := none) : Spire :=
  { ctxs := [(0, { pc := 32, loops := loops })], stopped := false, queues := queues, units := units, calShadow := shadow }
/-- The run window in which nothing is under way. -/
def still : State := running (spire0 []) []

/-- A valid command of context 0 is ready on such a Spire. -/
theorem ready (loops : List Loop) (queues : Tbl (List Held)) (units : Tbl (List Xfer)) (shadow : Option CalLoad) (more : List Nat) (w0 w1 w2 w3 : W32)
    (hm : more = [] ∨ more = [1])
    (h : cmdValid ⟨plan0 more, 0, 3, loops.map (fun l => (l.start, l.count)), 32⟩ (cmd w0 w1 w2 w3) = true) :
    Ready (running (spire0 loops queues units shadow) more) 0 (cmd w0 w1 w2 w3) := by
  have z : ∀ n : Nat, 0 ≤ n := Nat.zero_le
  have o : (running (spire0 loops queues units shadow) more).owner 0 = some 0 := by
    simp [running, cfg0, State.owner, Cfg.ownerOf, Cfg.part, Tbl.get, bitOf, List.range, List.range.loop]
  have r : (running (spire0 loops queues units shadow) more).streaming 0 0 = true := by
    simp only [State.streaming, o]
    rfl
  have q : (running (spire0 loops queues units shadow) more).core.spires = [(0, spire0 loops queues units shadow)] := rfl
  rcases hm with rfl | rfl <;>
    exact {
      owner := o
      takes := r
      resident := ⟨⟨0, true, 0, 4096, [0], [⟨1, 0, false⟩], []⟩, rfl, rfl, (by decide : 32 + 16 ≤ 4096)⟩
      read := by
        show max (max 0 0) (if (cmd w0 w1 w2 w3).dm then 0 else 0) + 2 ≤ 5
        split <;> decide
      runs := rfl
      rested := {
        empty := fun k hk => by interval_cases k <;> exact ⟨rfl, rfl⟩
        push := ⟨rfl, rfl, rfl⟩
        free := ⟨z _, z _, z _, z _, z _⟩
        sets := fun k => ⟨z _, z _⟩
        written := ⟨rfl, rfl, rfl, rfl⟩ }
      valid := h
      clean := ⟨rfl, rfl, rfl, rfl⟩ }

/-- The transfers of a full engine or Lantern path. -/
def full (n : Nat) : List Xfer := (List.range n).map (fun i => { id := i, part := 0, index := 0, handle := 0#32, sel := false, order := i })

theorem witness_StreamMarksPass :
    Ready still 0 (cmd 0#32 0#32 0#32 0#32) ∧ (cmd 0#32 0#32 0#32 0#32).op = 0x00 ∧
    Ready still 0 (cmd 0x34#32 0#32 0#32 0#32) ∧ (cmd 0x34#32 0#32 0#32 0#32).op = 0x34 ∧
    Ready still 0 (cmd 0x33#32 6#32 0#32 0#32) ∧ (cmd 0x33#32 6#32 0#32 0#32).op = 0x33 ∧ (still.part 0).ccyc < 6 ∧
    Ready still 0 (cmd 0x33#32 5#32 0#32 0#32) ∧ (still.part 0).ccyc = 5 ∧
    Ready still 0 (cmd 0x33#32 4#32 0#32 0#32) ∧ 4 < (still.part 0).ccyc := by
  and_intros <;> first | exact ready _ _ _ _ _ _ _ _ _ (by decide) (by decide) | decide

theorem witness_EotClosesTheTick :
    let both := running (spire0 []) [1]
    Ready both 0 (cmd 0x3F#32 0#32 0#32 0#32) ∧ (cmd 0x3F#32 0#32 0#32 0#32).op = 0x3F ∧
    (∃ i ∈ both.planSpires 0, i ≠ 0 ∧ both.closed 0 i = false) ∧
    Ready still 0 (cmd 0x3F#32 0#32 0#32 0#32) ∧ (∀ i ∈ still.planSpires 0, i ≠ 0 → still.closed 0 i = true) ∧
    (∀ k, k < (still.part 0).plan.contexts → k ≠ 0 → ((still.spire 0).ctx k).eotDone = true) := by
  intro both
  and_intros <;> first | exact ready _ _ _ _ _ _ _ _ _ (by decide) (by decide) | decide

theorem witness_LoopsRepeat :
    Ready still 0 (cmd 0x01#32 3#32 0#32 0#32) ∧ (cmd 0x01#32 3#32 0#32 0#32).op = 0x01 ∧
    Ready (running (spire0 [⟨16, 1, 0⟩]) []) 0 (cmd 0x02#32 0#32 0#32 0#32) ∧ (cmd 0x02#32 0#32 0#32 0#32).op = 0x02 ∧
    Ready (running (spire0 [⟨16, 3, 0⟩]) []) 0 (cmd 0x02#32 0#32 0#32 0#32) ∧
    Ready (running (spire0 [⟨16, 3, 1⟩]) []) 0 (cmd 0x40002#32 8#32 0#32 0#32) ∧ (cmd 0x40002#32 8#32 0#32 0#32).op = 0x02 ∧
    bit1 (cmd 0x40002#32 8#32 0#32 0#32).w0 18 = true := by
  and_intros <;> first | exact ready _ _ _ _ _ _ _ _ _ (by decide) (by decide) | decide

theorem witness_IssueCommandsHandOver :
    Ready still 0 (cmd 0x10#32 0#32 0#32 0#32) ∧ (cmd 0x10#32 0#32 0#32 0#32).op = 0x10 ∧
    Ready (running (spire0 [] [] [(0, full 6)]) []) 0 (cmd 0x10#32 0#32 0#32 0#32) ∧ 6 ≤ (full 6).length ∧
    Ready still 0 (cmd 0x11#32 0#32 0#32 0#32) ∧ (cmd 0x11#32 0#32 0#32 0#32).op = 0x11 ∧
    Ready (running (spire0 [] [] [(4, full 8)]) []) 0 (cmd 0x11#32 0#32 0#32 0#32) ∧ 8 ≤ (full 8).length ∧
    Ready still 0 (cmd 0x12#32 0#32 9#32 0#32) ∧ (cmd 0x12#32 0#32 9#32 0#32).op = 0x12 ∧
    Ready (running (spire0 [] [] [] (some ⟨0, 9, none⟩)) []) 0 (cmd 0x12#32 0#32 9#32 0#32) := by
  and_intros <;> first | exact ready _ _ _ _ _ _ _ _ _ (by decide) (by decide) | decide

theorem witness_HandleCommandsMove :
    let one := running (spire0 [] [(0, [⟨7#32, 0⟩])]) []
    let two := running (spire0 []) [1]
    let young := running (spire0 [] [(0, [⟨7#32, 5⟩])]) []
    let full_ := running (spire0 [] [(0, List.replicate 32 ⟨7#32, 0⟩)]) []
    (∀ h ∈ ((young.spire 0).queue 0).head?, (young.part 0).ccyc ≤ h.at_) ∧ Ready young 0 (cmd 0x13#32 0#32 0#32 0#32) ∧ (0 : Nat) < (one.part 0).ccyc ∧
    Ready full_ 0 (cmd 0x1000014#32 7#32 0#32 0#32) ∧ Ready full_ 0 (cmd 0x1000031#32 7#32 0#32 0#32) ∧ 32 ≤ ((full_.spire 0).queue 0).length ∧
    full_.staleFor 0 0 7#32 = false ∧ one.core.pushes = [] ∧ (one.spire 0).queue 0 = [⟨7#32, 0⟩] ∧
    Ready one 0 (cmd 0x13#32 0#32 0#32 0#32) ∧ (cmd 0x13#32 0#32 0#32 0#32).op = 0x13 ∧
    Ready one 0 (cmd 0x30#32 0#32 0#32 0#32) ∧ (cmd 0x30#32 0#32 0#32 0#32).op = 0x30 ∧
    Ready still 0 (cmd 0x13#32 0#32 0#32 0#32) ∧ Ready still 0 (cmd 0x30#32 0#32 0#32 0#32) ∧ (still.spire 0).queue 0 = [] ∧
    Ready still 0 (cmd 0x1000014#32 7#32 0#32 0#32) ∧ (cmd 0x1000014#32 7#32 0#32 0#32).op = 0x14 ∧ still.staleFor 0 0 7#32 = false ∧
    Ready still 0 (cmd 0x1000031#32 7#32 0#32 0#32) ∧ (cmd 0x1000031#32 7#32 0#32 0#32).op = 0x31 ∧
    Ready two 0 (cmd 0x7000014#32 7#32 0#32 0#32) ∧ bit1 (cmd 0x7000014#32 7#32 0#32 0#32).w0 25 = true ∧
    Ready two 0 (cmd 0x7000031#32 7#32 0#32 0#32) ∧ ((two.spire 0).ctx 0).pushE = none := by
  intro one two young full_
  and_intros <;> first | exact ready _ _ _ _ _ _ _ _ _ (by decide) (by decide) | decide

theorem witness_MacAccumulates :
    let c := cmd 0x200020#32 0#32 0#32 0x90001#32
    Ready still 0 c ∧ c.op = 0x20 ∧
    c.macOp.stores = some ({ form := .dense, elem := .bf16 }, { form := .dense, elem := .bf16, pleat := .none, k := 2 }) ∧ still.macTagOk c = true := by
  intro c
  and_intros <;> first | exact ready _ _ _ _ _ _ _ _ _ (by decide) (by decide) | decide

/-- FADD, and PANY with a destination predicate. -/
theorem witness_VopComputes :
    let add := cmd 0x22#32 0#32 0#32 0#32
    let pany := cmd 0x300022#32 0x8000#32 0#32 0#32
    Ready still 0 add ∧ add.op = 0x22 ∧ vopToPred add.vopOp.f = false ∧ Ready still 0 pany ∧ vopToPred pany.vopOp.f = true ∧ pany.vopOp.pdst = 1 := by
  intro add pany
  and_intros <;> first | exact ready _ _ _ _ _ _ _ _ _ (by decide) (by decide) | decide

theorem witness_VldLoads :
    let c := cmd 0x10000023#32 0x200000#32 16#32 0#32
    Ready still 0 c ∧ c.op = 0x23 ∧ Form.ofCode (fld c.w1 20 18) = some .dense ∧ Elem.ofCode (fld c.w1 23 21) = some .bf16 := by
  intro c
  and_intros <;> first | exact ready _ _ _ _ _ _ _ _ _ (by decide) (by decide) | decide

/-- A bank of tile 0 that a transfer has used in the ccyc holds a VLD that reads it. -/
theorem witness_VldLoads_waits :
    let c := cmd 0x10000023#32 0x200000#32 16#32 0#32
    let met : State := { still with core := { still.core with bankUse := [(0, 0, 0, .arbitrated)] } }
    Ready met 0 c ∧ met.loadMeets c (met.part 0).ccyc = true ∧ still.loadMeets c (still.part 0).ccyc = false := by
  intro c met
  have h : Ready still 0 c := ready _ _ _ _ _ _ _ _ _ (by decide) (by decide)
  exact ⟨⟨h.owner, h.takes, h.resident, h.read, h.runs, ⟨h.rested.empty, h.rested.push, h.rested.free, h.rested.sets, h.rested.written⟩, h.valid, h.clean⟩,
    by decide, by decide⟩

theorem witness_StoresWriteRows :
    let vst := cmd 0x24#32 0x200100#32 0#32 0#32
    let ro := cmd 0x21#32 0x100#32 0#32 0#32
    Ready still 0 vst ∧ vst.op = 0x24 ∧ Elem.ofCode (fld vst.w1 23 21) = some .bf16 ∧
    Ready still 0 ro ∧ ro.op = 0x21 ∧ still.readoutTagOk ro = true ∧ Elem.ofCode (fld ro.w2 2 0) = some .fp32 := by
  intro vst ro
  and_intros <;> first | exact ready _ _ _ _ _ _ _ _ _ (by decide) (by decide) | decide

theorem witness_TileRegistersSet :
    Ready still 0 (cmd 0x140025#32 0x0#32 4#32 0#32) ∧ (cmd 0x140025#32 0x0#32 4#32 0#32).op = 0x25 ∧
    Ready still 0 (cmd 0x140026#32 0x10001#32 4#32 0#32) ∧ (cmd 0x140026#32 0x10001#32 4#32 0#32).op = 0x26 := by
  and_intros <;> first | exact ready _ _ _ _ _ _ _ _ _ (by decide) (by decide) | decide

/-- Spire 0 waits at barrier 0, alone in the mask, and has arrived at ccyc 3; the count is as given. -/
def atBarrier (n : Nat) : State :=
  { running { ctxs := [(0, { queue := [⟨cmd 0x32#32 1#32 0#32 0#32, 0, 0⟩], barrier := some (0, 0, 1) })], arrivals := [(0, [3])], stopped := false } [] with
    parts := [(0, { phase := .run, plan := plan0 [], ccyc := n })] }

theorem witness_SequencersJoin_release :
    (((atBarrier 51).spire 0).ctx 0).barrier = some (0, 0, 1) ∧ (atBarrier 51).releaseAt 0 0 1 = some 51 ∧ 51 ≤ (atBarrier 51).countOf 0 ∧
    (∀ k' j' mask', k' < 8 → (((atBarrier 51).spire 0).ctx k').barrier = some (0, j', mask') → mask' = 1) ∧
    (∀ i, i < 16 → bitOf 1 i = true → OnlyWaits (atBarrier 51) 0 i ∧ (atBarrier 51).seqFrozen i = false ∧ ((atBarrier 51).spire i).stopped = false) ∧
    (atBarrier 50).releaseAt 0 0 1 = some 51 ∧ (atBarrier 50).countOf 0 < 51 ∧
    (∀ k' j' mask', k' < 8 → k' ≠ 0 → (((atBarrier 50).spire 0).ctx k').barrier ≠ some (0, j', mask')) := by
  refine ⟨rfl, by decide, by decide, ?_, ?_, by decide, by decide, ?_⟩
  · intro k j m hk h
    interval_cases k <;> simp_all [atBarrier, running, State.spire, Spire.ctx, Tbl.get]
  · intro i hi hb
    have h0 : i = 0 := by interval_cases i <;> first | rfl | exact absurd hb (by decide)
    subst h0
    refine ⟨fun k hk => ?_, rfl, rfl⟩
    interval_cases k <;> refine ⟨rfl, ?_, ?_⟩ <;>
      first | exact fun _ => rfl | exact fun h => absurd h (by decide) | (intro b j m h; first | (cases h; exact ⟨rfl, ⟨51, by decide, by decide⟩, _, rfl⟩) | cases h)
  · intro k j m hk h0
    interval_cases k <;> simp_all [atBarrier, running, State.spire, Spire.ctx, Tbl.get]

theorem witness_SequencersJoin_barrier :
    Ready still 0 (cmd 0x32#32 1#32 0#32 0#32) ∧ (cmd 0x32#32 1#32 0#32 0#32).op = 0x32 ∧ (ctxOf still (cmd 0x32#32 1#32 0#32 0#32)).barrier = none := by
  and_intros <;> first | exact ready _ _ _ _ _ _ _ _ _ (by decide) (by decide) | decide

/-- A set is final, and a pod-class Spire runs context 0 with nothing under way. -/
theorem witness_SequencersJoin_events :
    let final := running { finals := [(2, 5)] } []
    let pod : State := { cfg := cfg0 true, parts := [(0, { phase := .run, plan := { plan0 [] with pod := true }, ccyc := 5 })], core := { spires := [(0, { running := 0 })] } }
    (∀ k, k < 8 → ((final.spire 0).ctx k).backlog = [] ∧ ((final.spire 0).ctx k).queue = []) ∧
    (final.spire 0).finals.find? (fun f => decide (f.1 = 2) && decide (f.2 ≤ final.countOf 0)) = some (2, 5) ∧
    (∀ k, k < 8 → ((pod.spire 0).ctx k).backlog = [] ∧ ((pod.spire 0).ctx k).queue = []) ∧
    (pod.planOf 0).pod = true ∧ (pod.spire 0).running < 8 ∧ pod.seqFrozen 0 = false ∧ (pod.spire 0).switchEnd ≤ pod.countOf 0 ∧
    ((pod.spire 0).ctx 0).issueEnd ≤ pod.countOf 0 := by
  intro final pod
  and_intros <;> decide

/-- Contexts 0 and 1 of a pod-class Spire: 0 has yielded with nothing to do, 1 is ready. -/
theorem witness_SequencersJoin_switch :
    let nop : QEntry := ⟨cmd 0#32 0#32 0#32 0#32, 0, 0⟩
    let s : State := { cfg := cfg0 true, parts := [(0, { phase := .run, plan := { plan0 [] with pod := true, contexts := 2, parts := [⟨0, true, 0, 4096, [0, 0], [⟨1, 0, false⟩], []⟩] }, ccyc := 5 })]
                       core := { spires := [(0, { running := 0, yielded := true, stopped := false, ctxs := [(1, { queue := [nop] })] })] } }
    s.switchDue 0 = true ∧ s.seqFrozen 0 = false ∧ (∀ k, k < 8 → ((s.spire 0).ctx k).backlog = []) ∧ (s.spire 0).running < 8 ∧
    (s.ctxReady 0 1 = true ∧ ¬((s.spire 0).yielded = true ∧ 1 = (s.spire 0).running)) ∧
    ¬(s.ctxReady 0 0 = true ∧ ¬((s.spire 0).yielded = true ∧ 0 = (s.spire 0).running)) ∧
    (∀ d, d < 8 → s.ctxReady 0 d = true ∧ ¬((s.spire 0).yielded = true ∧ d = (s.spire 0).running) → (1 + 7 - (s.spire 0).running) % 8 ≤ (d + 7 - (s.spire 0).running) % 8) := by
  intro nop s
  and_intros <;> decide

/-! Data movement. -/

/-- A read of one byte from window 0 to tile 0 of Spire 0 (KIND 1), and the same with completion mode 1 into queue 0. -/
def oneByte : List Byte := 1#8 :: List.replicate 127 0#8
/-- A transfer of Spire 0. -/
def xfer0 (desc : List Byte) (isRead : Bool) : Xfer := { id := 3, part := 0, index := 0, handle := 0#32, sel := false, order := 0, desc := desc, read := isRead }
/-- A request of that transfer. -/
def req0 (kind : ReqKind) (phase : ReqPhase) : Req :=
  { id := 8, kind := kind, cls := .read, far := 64, len := 1, tiles := [0], pieces := [⟨0, 0, 1⟩], bytes := [7#8], phase := phase }
/-- Partition 0 in its run window, with a window of 2 MiB and full shares, with transfers in a unit of Spire 0. -/
def busy (u : Nat) (xs : List Xfer) : State :=
  { cfg := { parts := [(0, { defined := true, spires := 3, readShare := 16, writeShare := 16, remoteShare := 16, windows := [(0, { base := 0, size := 1, valid := true, rd := true, wr := true })] })] }
    parts := [(0, { phase := .run, plan := plan0 [1], ccyc := 5 })]
    core := { spires := [(0, { spire0 [] with units := [(u, xs)] })], hbmMode := .running } }

theorem witness_CalendarsRun :
    let load (c : Option CalLoad) (n : Nat) : State := { running (spire0 [] [] [] c) [] with parts := [(0, { phase := .run, plan := plan0 [], ccyc := n })] }
    let fresh := load (some ⟨0, 9, none⟩) 5
    let late := load (some ⟨0, 3, none⟩) 5
    let full_ := load (some ⟨0, 9, some {}⟩) 5
    let head := (fresh.part 0).plan.base + (fresh.calPlace (fresh.part 0).plan 0).1
    let filling : State := { fresh with core := { fresh.core with cupolas := [(halfOf 0, { fills := [⟨head / 256, false, []⟩] })] } }
    (fresh.part 0).phase = .run ∧ fresh.owner 0 = some 0 ∧ Quiet fresh 0 ∧ (fresh.spire 0).calShadow = some ⟨0, 9, none⟩ ∧
    bit1 (fresh.spire 0).frozen 0 = false ∧ fresh.core.hbmBad = [] ∧ (fresh.part 0).ccyc ≤ 9 ∧
    fresh.belfryWaits (halfOf 0) head 144 = false ∧ (fresh.calSetOf (fresh.part 0).plan 0 0).2.2 = 0 ∧ filling.belfryWaits (halfOf 0) head 144 = true ∧
    (late.part 0).phase = .run ∧ Quiet late 0 ∧ (late.spire 0).calShadow = some ⟨0, 3, none⟩ ∧ 3 < (late.part 0).ccyc ∧
    fresh.strike [] = fresh ∧ fresh.dueEdge = fresh ∧ late.dueEdge = late ∧ full_.dueEdge = full_ ∧ (full_.part 0).phase = .run ∧ (still.part 0).phase = .run ∧
    still.dueEdge = still ∧ ({ still with parts := [(0, { phase := .run, plan := plan0 [], ccyc := 5, calNext := 6 })] } : State).dueEdge = { still with parts := [(0, { phase := .run, plan := plan0 [], ccyc := 5, calNext := 6 })] } ∧
    (∀ sp, sp < 16 → Quiet full_ sp) ∧ (∀ sp ∈ full_.planSpires 0, sp < 16) ∧ (full_.part 0).ccyc < 9 ∧
    (full_.part 0).calNext ≤ (full_.part 0).ccyc ∧ full_.core.sramCe = [] ∧ full_.core.sramUe = [] ∧
    ((load (some ⟨0, 9, some {}⟩) 9).part 0).ccyc = 9 ∧ ((load none 64).spire 0).shareWindow ≠ ((load none 64).part 0).ccyc / 64 := by
  intro load fresh late full_ head filling
  unfold Quiet
  and_intros <;> first | rfl | decide

theorem witness_TransfersRun_descriptors :
    let x := xfer0 [] false
    let s := busy 0 [x]
    let long : State := { s with core := { s.core with hbm := [(0, 1#8), (0x3E, 4#8)] } }
    let filling : State := { s with core := { s.core with cupolas := [(halfOf 0, { fills := [⟨0, false, []⟩] })] } }
    s.owner 0 = some 0 ∧ (s.spire 0).xfer 0 3 = some x ∧ x.read = false ∧ x.stopped = false ∧ s.core.hbmBad = [] ∧ (s.part 0).reset = .none ∧
    bit1 (s.spire 0).frozen 1 = false ∧ Desc.tileRangeOk (s.hbmRead 0 128) 0 = true ∧ Desc.hchk (s.hbmRead 0 128) = false ∧
    s.belfryWaits (halfOf 0) 0 128 = false ∧ (s.cupola (halfOf 0)).holds 0 = false ∧ filling.belfryWaits (halfOf 0) 0 128 = true ∧
    (long.spire 0).xfer 0 3 = some x ∧ Desc.tileRangeOk (long.hbmRead 0 128) 0 = false := by
  intro x s long filling
  and_intros <;> decide

theorem witness_TransfersRun_issue :
    let x := xfer0 oneByte true
    let s := busy 0 [x]
    (s.spire 0).xfer 0 3 = some x ∧ s.owner 0 = some 0 ∧ (s.spire 0).issueFree ≤ (s.part 0).ccyc ∧ s.nextTurn 0 0 = some (.read, 0, x) ∧
    Desc.kind x.desc ∉ [2, 3, 5] ∧ Desc.dir x.desc = false ∧ Desc.cupola x.desc = false ∧ x.holds = false ∧ x.gathered = none ∧ x.ended = false ∧
    (s.nextStep 0 0 x).any (fun g => s.stepPasses 0 x g && (s.gatherStep 0 x .read s.core.nextId g).any (fun r => decide ((s.ctl (pseudoOf r.far)).reads.length < 64))) = true := by
  intro x s
  and_intros <;> decide

theorem witness_TransfersRun_ends :
    let waits := { xfer0 oneByte true with ended := true, issued := 1, reqs := [req0 .read .done] }
    let acked := { xfer0 oneByte true with reqs := [{ req0 .write .done with id := 7 }, { req0 .write .done with sent := 1 }] }
    let held := xfer0 [1#8, 4#8] true
    let done (cmode cspire : Byte) := { xfer0 [1#8, 0#8, 0#8, cmode, cspire] true with ended := true, issued := 1 }
    let drops := done 5#8 0#8
    let full_ : State := { busy 0 [done 1#8 0#8] with core := { spires := [(0, { spire0 [] [(0, List.replicate 32 ⟨0#32, 0⟩)] with units := [(0, [done 1#8 0#8])] })] } }
    let iced : State := { busy 0 [done 1#8 0#8] with core := { spires := [(0, { spire0 [] with units := [(0, [done 1#8 0#8])], frozen := 1#6 })] } }
    (busy 0 [waits]).acksAhead 0 0 (req0 .read .done) = false ∧ acked.req 8 = some { req0 .write .done with sent := 1 } ∧
    (busy 0 [acked]).acksAhead 0 0 { req0 .write .done with sent := 1 } = true ∧
    (busy 0 [done 1#8 0#8]).unusedQueue 0 0 = false ∧ full_.unusedQueue 0 0 = false ∧ iced.unusedQueue 0 0 = false ∧ iced.staleFor 0 0 0#32 = false ∧
    Desc.cqueue drops.desc = 1 ∧ drops.complete = true ∧ (busy 0 [drops]).unusedQueue 0 1 = true ∧ (busy 0 [drops]).staleFor 0 1 0#32 = false ∧ Quiet (busy 0 [drops]) 0 ∧
    waits.req 8 = some (req0 .read .done) ∧ waits.stopped = false ∧
    held.read = true ∧ Desc.drain held.desc = true ∧ ((busy 0 [held]).spire 0).drained held.order = true ∧
    (done 0#8 0#8).complete = true ∧ (done 0#8 0#8).push = .none ∧ Desc.kind (done 0#8 0#8).desc ≠ 5 ∧ Quiet (busy 0 [done 0#8 0#8]) 0 ∧ Desc.cmode (done 0#8 0#8).desc = 0 ∧
    ((busy 0 [done 0#8 0#8]).spire 0).xfer 0 3 = some (done 0#8 0#8) ∧ (busy 0 [done 0#8 0#8]).core.hbmBad = [] ∧
    (done 1#8 0#8).complete = true ∧ Quiet (busy 0 [done 1#8 0#8]) 0 ∧ Desc.cmode (done 1#8 0#8).desc ≠ 0 ∧ Desc.cremote (done 1#8 0#8).desc = false ∧
    (busy 0 [done 1#8 0#8]).staleFor 0 0 0#32 = false ∧ (((busy 0 [done 1#8 0#8]).spire 0).queue 0).length < 32 ∧
    (busy 0 [done 1#8 0#8]).seqFrozen 0 = false ∧ full_.seqFrozen 0 = false ∧ iced.seqFrozen 0 = true ∧ (iced.spire 0).xfer 0 3 = some (done 1#8 0#8) ∧ Quiet iced 0 ∧
    Quiet full_ 0 ∧ (full_.spire 0).xfer 0 3 = some (done 1#8 0#8) ∧ full_.staleFor 0 0 0#32 = false ∧ 32 ≤ ((full_.spire 0).queue 0).length ∧
    (done 0x41#8 1#8).complete = true ∧ Quiet (busy 0 [done 0x41#8 1#8]) 0 ∧ Desc.cremote (done 0x41#8 1#8).desc = true ∧ Desc.cspire (done 0x41#8 1#8).desc ≠ 0 := by
  intro waits acked held done drops full_ iced
  unfold Quiet
  and_intros <;> decide

/-- A descriptor of the bytes given by offset, the others 0. -/
def descOf (bs : List (Nat × Byte)) : List Byte := (List.range 128).map (fun i => (bs.lookup i).getD 0#8)

/-- Whether a transfer has the turn of Spire 0 on engine 0, its step passes its window and makes a request. -/
def turns (s : State) (x : Xfer) : Bool :=
  decide ((s.nextTurn 0 0).map (·.2) = some (0, x)) && decide ((s.spire 0).xfer 0 3 = some x) && decide ((s.spire 0).issueFree ≤ (s.part 0).ccyc) && !x.holds
    && !s.listTurn 0 0 x && s.issueFits 0 0 x && ((s.stepOf 0 0 x).any (fun g => s.stepPasses 0 x g && (s.gatherStep 0 x .read s.core.nextId g).isSome))

/-- A request of each kind: a read of a window and of a Cupola, a write, a write of two blocks, REMOTE, and SPAN both ways. -/
theorem witness_TransfersRun_kinds :
    let ks : List (List (Nat × Byte) × ReqKind) := [([(0, 1#8)], .read), ([(0, 1#8), (1, 2#8)], .read), ([(0, 1#8), (1, 1#8)], .write),
      ([(0, 1#8), (1, 1#8), (0x1A, 1#8), (0x25, 1#8)], .write), ([(0, 3#8), (1, 1#8)], .remote), ([(0, 5#8)], .spanIn), ([(0, 5#8), (1, 1#8)], .spanOut)]
    (∀ k ∈ ks, let x := xfer0 (descOf k.1) true; turns (busy 0 [x]) x = true ∧ Desc.dataKind x.desc = k.2 ∧ x.gathered = none) ∧ (busy 0 []).core.sramCe = [] ∧
      (busy 0 []).core.sramUe = [] := by
  decide

/-- What the Cupola may answer, and what a write does behind its first block. -/
theorem witness_TransfersRun_forms :
    let reads := xfer0 (descOf [(0, 1#8), (1, 2#8)]) true
    let s := busy 0 [reads]
    let cup (c : Cupola) : State := { s with core := { s.core with cupolas := [(halfOf 0, c)] } }
    let hit := cup (Cupola.place {} 0)
    let pends := cup { fills := [⟨0, false, []⟩] }
    let full_ := cup { fills := (List.range 512).map (fun i => ⟨i + 1, false, []⟩) }
    let two := xfer0 (descOf [(0, 1#8), (1, 1#8), (0x1A, 1#8), (0x25, 1#8)]) true
    let second := { two with atRow := 1, gathered := some (req0 .write .far) }
    let last := { two with ended := true, gathered := some (req0 .write .far) }
    Desc.cupola reads.desc = true ∧ ((hit.cupola (halfOf 0)).look 0).holds 0 = true ∧ turns hit reads = true ∧ turns pends reads = true ∧ turns full_ reads = true ∧
    ((pends.cupola (halfOf 0)).look 0).fills = [⟨0, false, []⟩] ∧ 512 ≤ ((full_.cupola (halfOf 0)).look 0).fills.length ∧
    ((full_.cupola (halfOf 0)).look 0).fills.any (fun f => decide (f.line = 0)) = false ∧ ((s.cupola (halfOf 0)).look 0).fills = [] ∧
    ((busy 0 [two]).stepOf 0 0 two).any (fun g => ((busy 0 [two]).stepOf 0 0 (two.advance g)).any (fun h =>
      (busy 0 [two]).stepPasses 0 two h && !(two.advance g).listOpen h)) = true ∧
    ((busy 0 [second]).nextTurn 0 0).map (·.2) = some (0, second) ∧ (busy 0 [second]).issueFits 0 0 second = true ∧
    ((busy 0 [second]).stepOf 0 0 second).any (fun g => (busy 0 [second]).stepPasses 0 second g) = true ∧
    (busy 0 [last]).issueFits 0 0 last = true ∧ ((busy 0 [last]).nextTurn 0 0).map (·.2) = some (0, last) ∧ ((busy 0 [last]).stepOf 0 0 last).isNone = true ∧ (req0 .write .far).kind = .write := by
  intro reads s cup hit pends full_ two second last
  and_intros <;> decide +kernel

/-- A write whose bank is in use waits, a request off its window is refused, and the first block of a list is read or refused. -/
theorem witness_TransfersRun_waits :
    let wr := xfer0 (descOf [(0, 1#8), (1, 1#8)]) true
    let met : State := { busy 0 [wr] with core := { (busy 0 [wr]).core with bankUse := [(0, 0, 0, .drain)] } }
    let off := xfer0 (descOf [(0, 1#8), (2, 1#8)]) true
    let lst := xfer0 (descOf [(0, 2#8)]) true
    let far := xfer0 (descOf [(0, 2#8), (2, 1#8)]) true
    met.listTurn 0 0 wr = false ∧ met.issueFits 0 0 wr = false ∧ (met.nextTurn 0 0).map (·.2) = some (0, wr) ∧
    ((busy 0 [off]).nextTurn 0 0).map (·.2) = some (0, off) ∧ (busy 0 [off]).listTurn 0 0 off = false ∧ (busy 0 [off]).issueFits 0 0 off = true ∧ ((busy 0 [off]).part 0).reset = .none ∧
    ((busy 0 [off]).stepOf 0 0 off).any (fun g => !(busy 0 [off]).stepPasses 0 off g) = true ∧
    (busy 0 [lst]).listTurn 0 0 lst = true ∧ ((busy 0 [lst]).nextTurn 0 0).map (·.2) = some (0, lst) ∧
    windowPasses ((busy 0 [lst]).cfg.window 0 (Desc.window lst.desc)) false (max ((Desc.listBase lst.desc false / 256 + 0) * 256) (Desc.listBase lst.desc false)) 256 = true ∧
    (busy 0 [far]).listTurn 0 0 far = true ∧ ((busy 0 [far]).nextTurn 0 0).map (·.2) = some (0, far) ∧
    windowPasses ((busy 0 [far]).cfg.window 0 (Desc.window far.desc)) false 0 256 = false := by
  intro wr met off lst far
  and_intros <;> decide +kernel

theorem witness_PacketsDeliver :
    let x := { xfer0 oneByte true with reqs := [req0 .read .mesh] }
    let away := { xfer0 oneByte true with reqs := [{ req0 .read .mesh with tiles := [64 * 16] }] }
    let later_ := { xfer0 oneByte true with reqs := [{ req0 .read .mesh with id := 7 }, { req0 .read .mesh with sent := 1 }] }
    let s := busy 0 [x]
    let lands : State := { s with core := { s.core with landing := [(4095, [⟨0, 0, 3, 8, 0x3FFF8, List.replicate 16 1#8⟩])] } }
    let used : State := { lands with core := { lands.core with bankUse := [(spireOfTile 4095, 4095, 0, .drain)] } }
    let near : State := { s with core := { s.core with landing := [(0, [⟨0, 0, 3, 8, 0, List.replicate 16 1#8⟩])] } }
    let taken : State := { s with core := { s.core with ports := [0] } }
    let scheduled : State := { s with core := { s.core with writeBacks := [⟨0, 0, 0, 5, [1#8]⟩] } }
    s.findReq 0 0 3 8 = some (x, req0 .read .mesh) ∧ x.stopped = false ∧ s.overtakes 0 0 (req0 .read .mesh) = false ∧
    (∀ tile ∈ (req0 .read .mesh).tiles, s.owner (spireOfTile tile) = some x.part ∧ s.landed tile + 128 ≤ 4096 ∧ tile ∉ s.core.ports ∧ s.portReserved tile = false) ∧
    scheduled.findReq 0 0 3 8 = some (x, req0 .read .mesh) ∧ scheduled.portReserved 0 = true ∧
    taken.findReq 0 0 3 8 = some (x, req0 .read .mesh) ∧ (∃ tile ∈ (req0 .read .mesh).tiles, tile ∈ taken.core.ports) ∧
    (req0 .read .mesh).tiles.Nodup ∧ (req0 .read .mesh).landed = 0 ∧ ((req0 .read .mesh).landing 0 0 3).foldl (fun a l => a + l.bytes.length) 0 = 1 ∧
    s.owner 0 = some 0 ∧ (s.part 0).reset = .none ∧ bit1 (s.spire 0).frozen 1 = false ∧
    (busy 0 [later_]).findReq 0 0 3 8 = some (later_, { req0 .read .mesh with sent := 1 }) ∧ (busy 0 [later_]).overtakes 0 0 { req0 .read .mesh with sent := 1 } = true ∧
    (busy 0 [away]).findReq 0 0 3 8 = some (away, { req0 .read .mesh with tiles := [64 * 16] }) ∧ (busy 0 [away]).owner (spireOfTile (64 * 16)) ≠ some away.part ∧
    Tbl.get [] 4095 lands.core.landing = [⟨0, 0, 3, 8, 0x3FFF8, List.replicate 16 1#8⟩] ∧
    (∀ b ∈ banksOf 0x3FFF8 8, b ∉ lands.banksUsed (spireOfTile 4095) 4095) ∧ Tbl.get [] 4095 used.core.landing = [⟨0, 0, 3, 8, 0x3FFF8, List.replicate 16 1#8⟩] ∧
    (∃ b ∈ banksOf 0x3FFC0 8, b ∈ ({ used with core := { used.core with bankUse := (banksOf 0x3FFC0 8).map (fun b => (spireOfTile 4095, 4095, b, .drain)) } } : State).banksUsed (spireOfTile 4095) 4095) ∧
    Tbl.get [] 0 near.core.landing = [⟨0, 0, 3, 8, 0, List.replicate 16 1#8⟩] ∧ near.owner (spireOfTile 0) = some 0 ∧
    (0 < 0 - 0 % 64 + 8 * 1 + 8 ∧ 0 - 0 % 64 + 8 * 1 < 0 + 16) := by
  intro x away later_ s lands used near taken scheduled
  and_intros <;> decide

/-- Landed data of a transfer that stands, and of one that has been stopped. -/
theorem witness_PacketsDeliver_drains :
    let x := { xfer0 oneByte true with reqs := [req0 .read .mesh] }
    let lands (x : Xfer) (use : List (Nat × Nat × Nat × BankAccess)) : State := { busy 0 [x] with core := { (busy 0 [x]).core with
      landing := [(4095, [⟨0, 0, 3, 8, 0x3FFF8, List.replicate 16 1#8⟩])], bankUse := use } }
    let gone := { x with stopped := true }
    let used := (banksOf 0x3FFF8 8).map (fun b => (spireOfTile 4095, 4095, b, BankAccess.drain))
    Tbl.get [] 4095 (lands x used).core.landing = [⟨0, 0, 3, 8, 0x3FFF8, List.replicate 16 1#8⟩] ∧
    (lands x []).dropsLanded ⟨0, 0, 3, 8, 0x3FFF8, List.replicate 16 1#8⟩ = false ∧ (lands gone []).dropsLanded ⟨0, 0, 3, 8, 0x3FFF8, List.replicate 16 1#8⟩ = true ∧
    (∃ b ∈ banksOf 0x3FFF8 8, b ∈ (lands x used).banksUsed (spireOfTile 4095) 4095) ∧ (lands x used).dropsLanded ⟨0, 0, 3, 8, 0x3FFF8, List.replicate 16 1#8⟩ = false := by
  intro x lands gone used
  and_intros <;> decide

theorem witness_PushesAndLanternComplete :
    let w (o : PushFrom) (ph : PushPhase) : RemotePush := ⟨9, 0, 0, o, 1, 0, 5#32, ph, 0⟩
    let both := running (spire0 []) [1]
    let flies : State := { both with core := { both.core with pushes := [w .spanRx .flying] } }
    let drops : State := { still with core := { still.core with pushes := [w .spanRx .flying] } }
    let behind : State := { still with core := { still.core with pushes := [⟨8, 0, 0, .spanRx, 1, 0, 5#32, .flying, 0⟩, w .spanRx .flying] } }
    let away : State := { still with core := { still.core with pushes := [⟨9, 0, 0, .spanRx, 2, 0, 5#32, .flying, 0⟩] } }
    let full_ : State := { flies with core := { flies.core with spires := flies.core.spires ++ [(1, spire0 [] [(0, List.replicate 32 ⟨0#32, 0⟩)])] } }
    let c := cmd 0x7000014#32 5#32 0#32 0#32
    let fetch := running { spire0 [] with ctxs := [(0, { backlog := [c], pushF := some 9 })] } []
    let back : State := { fetch with core := { fetch.core with pushes := [w (.fetch 0) .taken] } }
    let execute := running { spire0 [] with ctxs := [(0, { queue := [⟨cmd 0x7000031#32 5#32 0#32 0#32, 0, 0⟩], pushE := some 9 })] } []
    let backE : State := { execute with core := { execute.core with pushes := [w (.execute 0) .taken] } }
    let lr : Req := { id := 11, kind := .write, cls := .remote, far := 0, len := 1, tiles := [], pieces := [], bytes := [], phase := .far }
    let lx (mode : Byte) : Xfer := { xfer0 (4#8 :: List.replicate 79 0#8 ++ mode :: List.replicate 47 0#8) true with issued := 1, reqs := [lr] }
    let l (mode : Byte) := busy 4 [lx mode]
    let pushing : Xfer := { xfer0 oneByte true with push := .sent }
    let backX : State := { busy 0 [pushing] with core := { (busy 0 [pushing]).core with pushes := [w (.transfer 0 3) .taken] } }
    let behindA : State := { back with core := { back.core with pushes := [w (.fetch 0) .taken, { w (.fetch 0) .taken with id := 10, ack := 1 }] } }
    let iced (s : State) : State := { s with core := { s.core with spires := [(0, { s.spire 0 with frozen := 1#6 }), (1, { frozen := 1#6 })] } }
    flies.unusedQueue 1 0 = false ∧ full_.unusedQueue 1 0 = false ∧ (iced flies).unusedQueue 1 0 = false ∧ (iced flies).staleFor 1 0 5#32 = false ∧
    drops.unusedQueue 1 0 = true ∧ drops.core.pushes.find? (fun v => decide (v.id = 9)) = some (w .spanRx .flying) ∧ drops.lanternAhead 0 1 9 = false ∧ drops.owner 1 = some 0 ∧
    Quiet drops 1 ∧ drops.staleFor 1 0 5#32 = false ∧ flies.seqFrozen 1 = false ∧ full_.seqFrozen 1 = false ∧ back.seqFrozen 0 = false ∧ backE.seqFrozen 0 = false ∧ (iced flies).seqFrozen 1 = true ∧
    (iced flies).lanternAhead 0 1 9 = false ∧ (iced flies).owner 1 = some 0 ∧ Quiet (iced flies) 1 ∧ (iced back).seqFrozen 0 = true ∧ (iced back).ackAhead (w (.fetch 0) .taken) = false ∧
    back.ackAhead (w (.fetch 0) .taken) = false ∧ backE.ackAhead (w (.execute 0) .taken) = false ∧
    behindA.core.pushes.find? (fun v => decide (v.id = 10)) = some { w (.fetch 0) .taken with id := 10, ack := 1 } ∧
    behindA.ackAhead { w (.fetch 0) .taken with id := 10, ack := 1 } = true ∧
    backX.core.pushes.find? (fun v => decide (v.id = 9)) = some (w (.transfer 0 3) .taken) ∧ backX.ackAhead (w (.transfer 0 3) .taken) = false ∧ Quiet backX 0 ∧
    (l 1#8).core.hbmMode = .running ∧
    ((l 1#8).ctl (pseudoOf (((l 1#8).cfg.window 0 (Desc.window (lx 1#8).desc)).addr (Desc.farBase (lx 1#8).desc + Desc.csFarTerm (lx 1#8).desc false)))).writes < 64 ∧
    (l 0#8).seqFrozen (Desc.lanternSpire (lx 0#8).desc) = false ∧ (iced (l 0#8)).seqFrozen (Desc.lanternSpire (lx 0#8).desc) = true ∧ ((iced (l 0#8)).part 0).reset = .none ∧
    ((((iced (l 0#8)).issueLantern 0).spire 0).xfer 4 3 = some (lx 0#8)) ∧
    flies.core.hbmBad = [] ∧ flies.core.pushes.find? (fun v => decide (v.id = 9)) = some (w .spanRx .flying) ∧ flies.lanternAhead 0 1 9 = false ∧
    flies.owner 1 = some 0 ∧ Quiet flies 1 ∧ flies.staleFor 1 0 5#32 = false ∧ ((flies.spire 1).queue 0).length < 32 ∧
    behind.core.pushes.find? (fun v => decide (v.id = 9)) = some (w .spanRx .flying) ∧ behind.lanternAhead 0 1 9 = true ∧
    full_.lanternAhead 0 1 9 = false ∧ Quiet full_ 1 ∧ full_.staleFor 1 0 5#32 = false ∧ 32 ≤ ((full_.spire 1).queue 0).length ∧
    away.owner 2 ≠ some 0 ∧ away.owner 0 = some 0 ∧ (away.part 0).reset = .none ∧ away.lanternAhead 0 2 9 = false ∧
    back.core.pushes.find? (fun v => decide (v.id = 9)) = some (w (.fetch 0) .taken) ∧ ((back.spire 0).ctx 0).pushF = some 9 ∧ ((back.spire 0).ctx 0).backlog = [c] ∧
    ((back.spire 0).ctx 0).queue = [] ∧ (∀ k, k < 8 → k ≠ 0 → ((back.spire 0).ctx k).backlog = [] ∧ ((back.spire 0).ctx k).queue = []) ∧
    ((backE.spire 0).ctx 0).pushE = some 9 ∧ ((backE.spire 0).ctx 0).backlog = [] ∧ ((backE.spire 0).ctx 0).queue = [⟨cmd 0x7000031#32 5#32 0#32 0#32, 0, 0⟩] ∧
    (∀ k, k < 8 → k ≠ 0 → ((backE.spire 0).ctx k).backlog = [] ∧ ((backE.spire 0).ctx k).queue = []) ∧
    (∀ m ∈ [(0#8 : Byte), 1#8, 2#8], (((l m).issueLantern 0).spire 0).xfer 4 3 = some (lx m)) ∧ (lx 0#8).push = .none ∧ (lx 0#8).reqs = [lr] ∧ (lx 0#8).stopped = false ∧
    (∀ y ∈ (((l 0#8).issueLantern 0).spire 0).unit 4, (lx 0#8).order ≤ y.order) ∧ Desc.cmode (lx 0#8).desc = 0 ∧ Quiet (l 0#8) 0 ∧ (l 0#8).owner 0 = some 0 ∧
    (l 0#8).core.sramCe = [] ∧ (l 0#8).core.sramUe = [] ∧ (l 0#8).core.hbmBad = [] ∧ Desc.lmode (lx 0#8).desc = 0 ∧ (l 0#8).owner (Desc.lanternSpire (lx 0#8).desc) = some 0 ∧
    ((l 0#8).issueLantern 0).lanternAhead 0 (Desc.lanternSpire (lx 0#8).desc) 11 = false ∧ Desc.lmode (lx 1#8).desc = 1 ∧ Desc.lmode (lx 2#8).desc = 2 ∧
    (∀ wr : Bool, windowPasses ((l 1#8).cfg.window 0 (Desc.window (lx 1#8).desc)) wr (Desc.farBase (lx 1#8).desc + Desc.csFarTerm (lx 1#8).desc false) 1 = true) := by
  intro w both flies drops behind away full_ c fetch back execute backE lr lx l pushing backX behindA iced
  unfold Quiet
  and_intros <;> decide

/-- A Lantern transfer behind an earlier message, at a bank in use, to another partition's Spire, and off its window. -/
theorem witness_PushesAndLanternComplete_stops :
    let lr : Req := { id := 11, kind := .write, cls := .remote, far := 0, len := 1, tiles := [], pieces := [], bytes := [], phase := .far }
    let lx (bs : List (Nat × Byte)) : Xfer := { xfer0 (descOf ((0, 4#8) :: bs)) true with issued := 1, reqs := [lr] }
    let tile := lx []
    let away := lx [(0x52, 2#8)]
    let asks := xfer0 (descOf [(0, 4#8), (2, 1#8), (0x50, 1#8)]) true
    let behind : State := { busy 4 [tile] with core := { (busy 4 [tile]).core with pushes := [⟨8, 0, 0, .spanRx, 0, 0, 0#32, .flying, 0⟩] } }
    let met : State := { busy 4 [tile] with core := { (busy 4 [tile]).core with bankUse := [(0, 0, 0, .drain)] } }
    (∀ m ∈ [(0#8 : Byte), 1#8, 2#8], let x := lx [(0x50, m)]; ((busy 4 [x]).issueLantern 0).lanternFits 0 x = true ∧ (((busy 4 [x]).issueLantern 0).spire 0).xfer 4 3 = some x) ∧
    ((behind.issueLantern 0).spire 0).xfer 4 3 = some tile ∧ Desc.lmode tile.desc = 0 ∧ (behind.issueLantern 0).lanternAhead 0 (Desc.lanternSpire tile.desc) 11 = true ∧
    ((met.issueLantern 0).spire 0).xfer 4 3 = some tile ∧ met.owner (Desc.lanternSpire tile.desc) = some 0 ∧ (met.issueLantern 0).lanternFits 0 tile = false ∧
    (((busy 4 [away]).issueLantern 0).spire 0).xfer 4 3 = some away ∧ Desc.lmode away.desc ≠ 1 ∧ (busy 4 [away]).owner (Desc.lanternSpire away.desc) ≠ some 0 ∧
    ((busy 4 [away]).issueLantern 0).lanternAhead 0 (Desc.lanternSpire away.desc) 11 = false ∧ ((busy 4 [away]).part 0).reset = .none ∧
    bit1 (((busy 4 [away]).issueLantern 0).spire 0).frozen 5 = false ∧ away.push = .none ∧ away.stopped = false ∧ Desc.cmode away.desc = 0 ∧ Quiet (busy 4 [away]) 0 ∧
    ((busy 4 [asks]).spire 0).unit 4 = [asks] ∧ asks.read = true ∧ asks.stopped = false ∧ asks.issued = 0 ∧ asks.readyAt ≤ (busy 4 [asks]).countOf 0 ∧ asks.busy = false ∧
    Desc.drain asks.desc = false ∧ bit1 ((busy 4 [asks]).spire 0).frozen 5 = false ∧ (busy 4 [asks]).lanternPasses asks = false ∧ (busy 4 [asks]).owner 0 = some 0 ∧
    ((busy 4 [asks]).part 0).reset = .none := by
  intro lr lx tile away asks behind met
  unfold Quiet
  and_intros <;> decide +kernel

theorem witness_MemoryAnswers :
    let asked (p : Option QRead) (k : Nat) (xs : List Xfer) : State := { busy 0 xs with core := { (busy 0 xs).core with
      ctls := [(pseudoOf 64, { reads := p.toList, writes := k, serving := decide (48 ≤ k) })] } }
    let q : QRead := ⟨0, 0, 3, 8, 64, 1, [7#8], 0⟩
    let wr := { xfer0 oneByte true with reqs := [req0 .write .far] }
    let two : Req := { req0 .write .far with len := 3, pieces := [⟨0, 0, 1⟩, ⟨2, 0, 1⟩], bytes := [7#8, 8#8] }
    let rd := { xfer0 oneByte true with reqs := [req0 .read .far] }
    let fl := { xfer0 oneByte true with reqs := [req0 .read .fill] }
    let waits := busy 0 [fl]
    let fq : QRead := ⟨17, 0, 0, 0, 0, 256, [], 0⟩
    let filling : State := { waits with core := { waits.core with
      cupolas := [(1, { fills := [⟨0, false, [(0, 0, 3, 8)]⟩] })], ctls := [(pseudoOf 0, { reads := [fq] })] } }
    let scrubs : State := { still with parts := [(0, { reset := .scrub, scrubs := [2, 3] })] }
    let writing : State := { scrubs with core := { scrubs.core with ctls := [(0, { writes := 16 })] } }
    (busy 0 [wr]).core.hbmBad = [] ∧ (busy 0 [wr]).findReq 0 0 3 8 = some (wr, req0 .write .far) ∧ (busy 0 [wr]).core.hbmMode = .running ∧
    ((busy 0 [wr]).ctl (pseudoOf 64)).writes < 64 ∧ 64 ≤ ((asked none 64 [wr]).ctl (pseudoOf 64)).writes ∧ (req0 .write .far).bytes.length = 1 ∧
    two.pieces = [⟨0, 0, 1⟩] ++ ⟨2, 0, 1⟩ :: [] ∧ two.bytes.length = (two.pieces.map (fun y => y.len)).sum ∧
    (busy 0 [{ wr with reqs := [two] }]).findReq 0 0 3 8 = some ({ wr with reqs := [two] }, two) ∧
    (req0 .write .far).covers (64 / 32) = false ∧ (∃ p ∈ (req0 .write .far).pieces, 64 / 32 * 32 < 64 + p.far + p.len ∧ 64 + p.far < 64 / 32 * 32 + 32) ∧
    (asked (some q) 0 [rd]).findReq 0 0 3 8 = some (rd, req0 .read .far) ∧ rd.stopped = false ∧ (busy 0 [rd]).owner 0 = some 0 ∧ ((busy 0 [rd]).part 0).reset = .none ∧
    ((asked (some q) 0 [rd]).ctl (pseudoOf 64)).reads.find? (fun q => decide (q.sp = 0 ∧ q.unit = 0 ∧ q.xfer = 3 ∧ q.req = 8)) = some q ∧
    ((asked (some q) 0 [rd]).ctl (pseudoOf 64)).mayServe q = true ∧ ((asked (some q) 48 [rd]).ctl (pseudoOf 64)).mayServe q = false ∧
    bit1 ((busy 0 [rd]).spire 0).frozen 1 = false ∧ (req0 .read .far).far ≤ 64 ∧ 64 < (req0 .read .far).far + (req0 .read .far).len ∧
    filling.core.hbmBad = [] ∧ (filling.cupola 1).fills.find? (fun f => decide (f.line = 0)) = some ⟨0, false, [(0, 0, 3, 8)]⟩ ∧ (filling.cupola 1).queued = [] ∧
    (filling.ctl (pseudoOf 0)).reads.find? (fun q => decide (q.sp = 17 ∧ q.unit = 0 ∧ q.xfer = 0 ∧ q.req = 0)) = some fq ∧ (filling.ctl (pseudoOf 0)).mayServe fq = true ∧
    filling.findReq 0 0 3 8 = some (fl, req0 .read .fill) ∧ fl.stopped = false ∧
    scrubs.goesOn = true ∧ writing.goesOn = true ∧ (∃ e ∈ writing.core.ctls, 16 ≤ e.2.writes) ∧ (writing.part 0).reset = .scrub ∧ scrubs.core.ctls = [] ∧
    (scrubs.part 0).reset = .scrub ∧ (scrubs.part 0).scrubs = [2, 3] ∧ scrubs.host.waiting = [] ∧ scrubs.host.heldImports = [] ∧ (scrubs.part 0).heldWrites = [] ∧
    (∀ i, i < 8 → (scrubs.port i).heldWrites = []) := by
  intro asked q wr two rd fl waits fq filling scrubs writing
  and_intros <;> decide

/-- A store in use on target 0, with keys, in a device that has booted and runs. -/
def shelf (t : StoreSt) : State :=
  { store := { t with inUse := true, targets := [0], luns := 1, blocks := 8, pages := 12 }, rom := { keys := true }, boot := { complete := true }, power := { mode := .running } }
/-- An object body without tensors: the 64 bytes of its header (R420). -/
def body0 : List Byte := [0x51#8, 0x4F#8, 0x42#8, 0x59#8, 0#8, 0#8, 0#8, 0#8, 64#8] ++ List.replicate 55 0#8
/-- The payload of that body: one Skein frame whose coded body takes 24 bytes. -/
def frame0 : List Byte :=
  [63#8, 0#8, 23#8, 0#8, 1#8, 1#8, 55#8, 68#8, 174#8, 176#8, 189#8, 100#8, 106#8, 57#8, 2#8, 254#8, 4#8, 3#8, 33#8] ++ List.replicate 9 255#8 ++
  [191#8, 220#8, 158#8, 118#8]
/-- Its ciphertext under the data key of blank fuses, as unit 0 of object 5 of namespace 1. -/
def cipher0 : List Byte :=
  [122#8, 183#8, 196#8, 3#8, 128#8, 93#8, 231#8, 191#8, 117#8, 195#8, 201#8, 234#8, 225#8, 194#8, 197#8, 75#8, 10#8, 5#8, 248#8, 108#8, 221#8, 107#8, 210#8, 79#8,
   43#8, 57#8, 123#8, 158#8, 65#8, 95#8, 98#8, 187#8]
/-- An object of namespace 1 in the list, and a replica of it in block 0. -/
def listed (d : List Byte) : ObjCfg := ⟨5, 1, 0, 0, 0, 64, d⟩
def copy0 (bytes units : Nat) (d : List Byte) : Replica :=
  { seq := 1, objId := 5, ns := 1, replica := 0, replicas := 1, prot := 0, reloc := 0, payloadLen := bytes, units := units, digest := d, auth := [], maps := []
    extents := [⟨0, units⟩] }
/-- A unit of an object of namespace 1. -/
def unitWord (objId : Nat) (bytes : List Byte) : Codeword := ⟨1, objId, 0, .unit bytes⟩
/-- A device that stages the object from a replica. -/
def stages (x : Replica) (cells : Tbl (Option Codeword)) : State :=
  { shelf { staging := some ⟨0, 0⟩, objs := [(0, { state := .valid, staging := .staging })], index := [x], cells := cells } with
    cfg := { parts := [(0, { defined := true, windows := [(0, { base := 1, size := 1, valid := true })] })], objects := [listed x.digest] } }
/-- A device that has nothing staged, one that reads the whole body, and one whose replica has no bytes. -/
def unstaged : State := { shelf { objs := [(0, { state := .valid })], index := [copy0 32 1 []] } with cfg := { objects := [listed []] } }
def digest0 : List Byte := sha384 frame0
def staged : State := stages (copy0 32 1 digest0) [(0, some (unitWord 5 cipher0))]
def hollow (d : List Byte) : State := stages (copy0 0 0 d) []

theorem witness_StagingPlacesObjects_start :
    unstaged.storeRuns = true ∧ unstaged.store.staging = none ∧ unstaged.stagingOrder.find? unstaged.mayStage = some 0 ∧ unstaged.cfg.objects[0]? = some (listed []) ∧
    unstaged.store.index.find? (fun y => y.serves (listed []) && !y.failed) = some (copy0 32 1 []) := by decide +kernel

/-! The staged plaintext, block by block. -/

def key0 : List Nat := [196, 30, 35, 179, 171, 105, 148, 6, 53, 229, 227, 84, 184, 146, 178, 32, 205, 229, 72, 243, 36, 19, 2, 177, 145, 173, 164, 136, 141, 91, 230, 222]
def key1 : List Nat := [186, 185, 153, 139, 5, 38, 236, 100, 61, 20, 232, 188, 180, 207, 200, 218, 72, 38, 57, 30, 186, 95, 147, 112, 184, 114, 80, 115, 195, 180, 146, 71]

theorem staged_key : (({} : Otp).dataKey [] 1).map (·.toNat) = key0 ++ key1 := by decide +kernel
theorem staged_tweak :
    leNat ((aesEncrypt key1 ((leBytes 16 (0 + 5 * 2 ^ 32 + 1 * 2 ^ 64)).map (·.toNat))).map (BitVec.ofNat 8)) = 110765310868720449912731000846470258843 := by decide +kernel
theorem staged_block0 :
    aesDecrypt key0 (xorList ((cipher0.take 16).map (·.toNat)) ((leBytes 16 110765310868720449912731000846470258843).map (·.toNat))) = [164, 160, 41, 83, 185, 90, 215, 159, 148, 7, 131, 6, 28, 166, 86, 173] := by decide +kernel
theorem staged_block1 :
    aesDecrypt key0 (xorList ((cipher0.drop 16).map (·.toNat)) ((leBytes 16 (2 * 110765310868720449912731000846470258843)).map (·.toNat))) = [50, 66, 92, 89, 143, 72, 63, 72, 138, 145, 130, 59, 83, 226, 55, 208] := by decide +kernel
theorem opened_staged : staged.openUnits (copy0 32 1 digest0) [unitWord 5 cipher0] = frame0 := by
  have hp : piecesOf cipher0.length 16 cipher0 = [cipher0.take 16, cipher0.drop 16] := by decide
  have hs : staged.rom.otp.dataKey staged.store.storeId 1 = ({} : Otp).dataKey [] 1 := rfl
  have h1 : (key0 ++ key1).drop 32 = key1 := by decide
  have h2 : (key0 ++ key1).take 32 = key0 := by decide
  have hn : (copy0 32 1 digest0).objId = 5 ∧ (copy0 32 1 digest0).ns = 1 ∧ (unitWord 5 cipher0).cipher = cipher0 := ⟨rfl, rfl, rfl⟩
  simp only [State.openUnits, hs, xts, staged_key, h1, h2, hn, List.zipIdx_cons, List.zipIdx_nil, List.flatMap_cons, List.flatMap_nil, hp,
    List.foldl_cons, List.foldl_nil, staged_tweak, staged_block0]
  rw [if_neg (by omega), staged_block1]
  decide
/-! The frame, decoded sixteen bytes at a time. -/

/-- The decoder after some bytes of the body: range, code, bytes of the coded body not yet read, and the probabilities that still move. -/
def skeinAt (k range code left a b c : Nat) : List Byte × SkeinDec :=
  (List.replicate (k - 9) 0#8 ++ [64#8, 0#8, 0#8, 0#8, 0#8, 0x59#8, 0x42#8, 0x4F#8, 0x51#8], ⟨range, code, (frame0.drop 8).drop (24 - left), false,
    [(1, a), (2, b), (4, c), (5, 1800), (8, c), (10, 2040), (16, c), (20, 1920), (21, 1920), (32, c), (40, 1920), (42, 1920), (64, c), (80, 1920), (84, 1920),
     (128, c), (160, 1920), (168, 2176), (257, 1485), (258, 2117), (260, 1800), (261, 1688), (264, 1800), (266, 1943), (272, 1800), (276, 2040), (277, 2176),
     (288, 1800), (296, 1920), (297, 2176), (299, 1920), (320, 1800), (336, 2176), (339, 2176), (342, 1920), (384, 1800), (417, 1920), (423, 2176), (428, 2176)]⟩)
/-- One byte more, at stride 1. -/
def skeinNext (a : List Byte × SkeinDec) (j : Nat) : List Byte × SkeinDec :=
  let x := a.2.byte (j % 1) (skeinHistory 1 a.1)
  (BitVec.ofNat 8 x.1 :: a.1, x.2)
def skeinStart : List Byte × SkeinDec := ([], (⟨0xFFFFFFFF, 0, frame0.drop 8, false, []⟩ : SkeinDec).pull.pull.pull.pull)
theorem skein_1 : (List.range 16).foldl skeinNext skeinStart = skeinAt 16 471649585 471649584 7 1011 1318 1149 := by decide +kernel
theorem skein_2 : (List.range' 16 16).foldl skeinNext (skeinAt 16 471649585 471649584 7 1011 1318 1149) = skeinAt 32 2675037080 2675020660 2 365 475 414 := by decide +kernel
theorem skein_3 : (List.range' 32 16).foldl skeinNext (skeinAt 32 2675037080 2675020660 2 365 475 414) = skeinAt 48 104683246 100479884 1 135 174 153 := by decide +kernel
theorem skein_4 :
    (((List.range' 48 16).foldl skeinNext (skeinAt 48 104683246 100479884 1 135 174 153)).2.short,
      ((List.range' 48 16).foldl skeinNext (skeinAt 48 104683246 100479884 1 135 174 153)).1.reverse) = (false, body0) := by decide +kernel
theorem skeinDecode_eq (n : Nat) (bs : List Byte) :
    skeinDecode 1 n bs = (let r := (List.range n).foldl skeinNext ([], (⟨0xFFFFFFFF, 0, bs, false, []⟩ : SkeinDec).pull.pull.pull.pull)
      if r.2.short then none else some r.1.reverse) := rfl
theorem skein_body : skeinDecode 1 64 (frame0.drop 8) = some body0 := by
  have h : (List.range 64).foldl skeinNext skeinStart = (List.range' 48 16).foldl skeinNext (skeinAt 48 104683246 100479884 1 135 174 153) := by
    rw [show List.range 64 = List.range 16 ++ (List.range' 16 16 ++ (List.range' 32 16 ++ List.range' 48 16)) by decide, List.foldl_append, List.foldl_append, List.foldl_append,
      skein_1, skein_2, skein_3]
  have h1 := congrArg Prod.fst skein_4
  have h2 := congrArg Prod.snd skein_4
  dsimp only at h1 h2
  rw [← h] at h1 h2
  rw [skeinDecode_eq]
  unfold skeinStart at h1 h2
  dsimp only
  rw [h1, h2]
  rfl
/-- A coded frame whose header, body and check fit. -/
theorem frame_coded (bs p : List Byte) (raw body : Nat) (hl : ¬bs.length < 8) (hr : leNat (bs.take 2) + 1 = raw) (hb : leNat ((bs.drop 2).take 2) + 1 = body)
    (hm : (bs.getD 4 0#8).toNat = 1) (hs : (bs.getD 5 0#8).toNat = 1) (hn : ¬(bs.drop 8).length < body)
    (hp : skeinDecode 1 raw ((bs.drop 8).take body) = some p) (hc : crc16 p = leNat ((bs.drop 6).take 2)) : skeinFrame bs = some (p, (bs.drop 8).drop body) := by
  subst hr
  subst hb
  unfold skeinFrame
  rw [if_neg hl]
  dsimp only
  rw [if_neg hn, hm, hs, hp]
  simp [hc]
theorem test_skein_frame : skeinPrefix 32 frame0 = (body0, true) := by
  have hf : skeinFrame frame0 = some (body0, (frame0.drop 8).drop 24) :=
    frame_coded frame0 body0 64 24 (by decide) (by decide) (by decide) (by decide) (by decide) (by decide) skein_body (by decide +kernel)
  unfold skeinPrefix
  rw [if_neg (by decide), hf]
  rfl

/-- No switch waits there, and no block fails. -/
theorem witness_StagingPlacesObjects_calm : (∀ p, (unstaged.part p).switch = none) ∧ staged.store.failing = [] := ⟨fun _ => rfl, rfl⟩

theorem witness_StagingPlacesObjects :
    staged.storeRuns = true ∧ staged.store.staging = some ⟨0, 0⟩ ∧ staged.cfg.objects[0]? = some (listed digest0) ∧
    staged.store.index.find? (fun y => y.serves (listed digest0) && decide (y.replica = 0)) = some (copy0 32 1 digest0) ∧
    staged.store.replicaUnits (copy0 32 1 digest0) = some [unitWord 5 cipher0] ∧ staged.core.hbmBad = [] ∧ sha384 frame0 = digest0 ∧
    bodyOk body0 64 = true := by decide +kernel

theorem witness_StagingPlacesObjects_fails :
    (hollow (sha384 [])).store.replicaUnits (copy0 0 0 (sha384 [])) = some [] ∧ (hollow []).openUnits (copy0 0 0 []) [] = [] ∧
    (skeinPrefix 0 []).2 = true ∧ bodyOk (skeinPrefix 0 []).1 64 = false ∧ sha384 [] ≠ (copy0 0 0 []).digest := by decide +kernel

/-- A replica whose unit codeword stands erased: its units can't be read. -/
def gone : State := stages (copy0 32 1 digest0) []

theorem witness_StagingPlacesObjects_unread :
    gone.storeRuns = true ∧ gone.store.staging = some ⟨0, 0⟩ ∧ gone.cfg.objects[0]? = some (listed digest0) ∧
    gone.store.index.find? (fun y => y.serves (listed digest0) && decide (y.replica = 0)) = some (copy0 32 1 digest0) ∧
    gone.store.failing = [] ∧ gone.store.replicaUnits (copy0 32 1 digest0) = none := by decide +kernel

/-- No edge is due where stagings start and end. -/
theorem witness_StagingPlacesObjects_edge : unstaged.dueEdge = unstaged ∧ staged.dueEdge = staged ∧ gone.dueEdge = gone ∧
    (hollow []).dueEdge = hollow [] ∧ (hollow (sha384 [])).dueEdge = hollow (sha384 []) := ⟨rfl, rfl, rfl, rfl, rfl⟩

/-- Block 1 of that target, at block address 1024, holds one page of data of a replica of another object. -/
def holding : StoreSt :=
  { index := [{ seq := 1, objId := 6, ns := 1, replica := 0, replicas := 1, prot := 0, reloc := 0, payloadLen := 8, units := 1, digest := [], auth := [], maps := []
                extents := [⟨1024, 1⟩] }]
    cells := [(1024, some (unitWord 6 [1#8]))], filled := [(1024, 1)] }
/-- An import whose programs into two blocks are under way. -/
def importing : ImportRun :=
  { fn := 0, msg := 9, part := 0, ns := 1, objId := 7, replicas := 1, prot := 0, digest := [], auth := [], payload := [], phase := .units, wait := [7168, 6144] }

theorem witness_NandEventsAct :
    let s := shelf holding
    let waits := shelf { holding with imports := [importing] }
    let late : State := { s with time := 100000 * unitsPerUs }
    let warm := shelf { holding with tgt := [(0, { zqTemp := some 30 })] }
    let bare (b : Nat) : Prop := b ∉ s.store.bad ∧ s.store.held.find? (fun e => decide (e.2 = b + 1)) = none ∧ b ∉ s.store.logList ∧
      s.store.index.any (fun x => !x.failed && x.extents.any (Extent.inBlock b)) = false
    s.store.failing = [] ∧ waits.store.failing = [] ∧ s.nandUp = true ∧ s.store.imports = [] ∧ s.store.reaches 0 8 = true ∧ blockAt 0 0 8 = 1024 ∧ s.store.readsErased 1024 none = false ∧ s.store.readsErased 7168 (some 65) = false ∧ s.store.readsErased 1024 (some 64) = true ∧
    (ladderStep 0 ⟨true, none, true, none, none, none, none⟩ (s.store.written 1024)).1 = 1 ∧ (ladderStep 0 ⟨false, none, false, none, none, none, none⟩ (s.store.written 1024)).1 = 4 ∧
    s.store.reaches 0 56 = true ∧ blockAt 0 0 56 = 7168 ∧ s.store.readsErased 7168 none = true ∧ bare 7168 ∧
    waits.nandUp = true ∧ waits.store.reaches 0 56 = true ∧ waits.store.imports = [importing] ∧ importing.abandoned = false ∧ importing.wait = [] ++ 7168 :: [6144] ∧ blockOf 7168 = 7168 ∧ ([] ++ [6144] : List Nat) ≠ [] ∧
    s.store.isUnit 1024 = true ∧ ladderStep 0 ⟨false, none, true, none, none, none, none⟩ (s.store.written 1024) = (3, 0) ∧
    4 * 0 ≤ 5 * (s.store.tg 0).longest (.read 56 0) ∧ 5 * (s.store.tg 0).longest (.read 56 0) < 4 * 1 ∧
    (∀ i, i < 4 → s.store.written (codewordAt 7168 0 i) = false) ∧ s.store.wear s.cfg.tlcRated s.cfg.pslcRated < 80 ∧
    5 * (s.store.tg 0).longest (.program 56) < 4 * 1 ∧ 0 ∈ s.store.targets ∧ (s.store.tg 0).out = false ∧ s.store.busy 0 = false ∧
    (late.store.tg 0).zqAt + 100000 * unitsPerUs ≤ late.time ∧ late.nandUp = true ∧ (warm.store.tg 0).zqTemp = some 30 ∧ (10 : Int) < 41 - 30 ∧
    ¬ (s.store.tg 0).zqAt + 100000 * unitsPerUs ≤ s.time ∧ (s.store.tg 0).zqTemp = none := by
  intro s waits late warm bare
  and_intros <;> decide +kernel

theorem witness_StoreMaintains :
    let s := shelf holding
    let worn := shelf { holding with erases := [(2048, 1), (3072, 201)] }
    let low := shelf { holding with relocating := true }
    let ring := shelf { held := [(3, 1025), (4, 2049)], headSeq := 4, headUsed := 1, metaList := [1024, 2048, 3072, 4096], sinceCheckpoint := 256 }
    let later : State := { shelf { logList := [7168] } with tick := { count := some 256 } }
    let weak : LadderRec := ⟨false, none, true, none, none, none, none⟩
    s.storeRuns = true ∧ blockAt 0 0 8 = 1024 ∧ s.store.reaches 0 8 = true ∧ s.stagingReads 0 = false ∧ s.store.busy 0 = false ∧
    s.store.live 1024 = true ∧ s.store.held.find? (fun e => decide (e.2 = 1024 + 1)) = none ∧ s.store.broken = [] ∧ 1024 ∉ s.store.failing ∧
    (s.store.patrol 1024 []).1 = [] ∧ (s.store.patrol 1024 []).2.settled.refreshDue 1024 = false ∧
    (s.store.patrol 1024 [(0, 0, weak)]).1 = [] ∧ (s.store.patrol 1024 [(0, 0, weak)]).2.settled.refreshDue 1024 = true ∧
    worn.storeRuns = true ∧ 1024 ∈ worn.store.dataBlocks ∧ worn.store.live 1024 = true ∧ worn.store.mayMove 1024 2048 = true ∧
    worn.store.erased 1024 < worn.store.erased 2048 ∧ (∀ x ∈ worn.store.dataBlocks, worn.store.erased 1024 ≤ worn.store.erased x) ∧
    (∃ x ∈ worn.store.dataBlocks, worn.store.erased 1024 + 200 < worn.store.erased x) ∧
    1024 ∈ s.store.dataBlocks ∧ s.store.mayMove 1024 2048 = true ∧ (∀ x ∈ s.store.dataBlocks, s.store.erased x ≤ s.store.erased 1024 + 200) ∧
    low.store.relocating = true ∧ low.store.mayGather 1024 2048 = true ∧ low.store.live 1024 = true ∧ (low.store.dataBlocks.filter (fun x => low.store.mayGather x 2048)) = [1024] ∧
    ring.storeRuns = true ∧ ring.store.oldest = some (3, 1025) ∧ 1025 - 1 ∉ ring.store.cutErases ∧ 3 ≠ ring.store.headSeq ∧ ring.store.reclaimNeed (1025 - 1) ≤ ring.store.ringFree ∧
    256 ≤ ring.store.sinceCheckpoint ∧ ring.store.opensRing true (ring.store.checkpointRec.words + 1) = false ∧
    ring.nandWorks = true ∧ ring.store.logUp = false ∧ later.store.logUp = true ∧ later.store.failing = [] ∧ ring.store.failing = [] ∧
    (s.store.failing = [] ∧ worn.store.failing = [] ∧ low.store.failing = []) ∧ later.nandWorks = true ∧ later.log.lostSince = 0 ∧ later.log.lastFlushTick + 256 ≤ later.tick.count.getD 0 := by
  intro s worn low ring later weak
  and_intros <;> decide +kernel

/-! The host interface. -/

/-- Roster 4 of partition 0, without a plan of its own. -/
def roster4 : RosterCfg := ⟨4, 0, 1, 1, 0, 0, 0, [], [], [], 0, {}, [], []⟩
/-- A device with PCIe up and one VF, whose partition has a ring of two slots, a window of 2 MiB that the host may read and
write, one roster, and one object. -/
def hosted (c : HostSt) (more : Part) : State :=
  { cfg := { ap := 21, rosters := [roster4], parts := [(0, { defined := true, ns := 1, spires := 1, rings := [{ slots := 2 }], windows := [(0, { base := 1, size := 1, valid := true, hostRd := true, hostWr := true })] })] }
    host := { c with linkUp := true, pcieReady := true, vfEnable := true, numVfs := 1 }, boot := { complete := true }, power := { mode := .running }, parts := [(0, more)] }

theorem witness_DoorbellPublishes :
    let s := hosted {} {}
    let full := hosted {} { rings := [(0, { pi := 2, frames := [⟨0, 0, 0⟩, ⟨1, 0, 0⟩] })] }
    s.dueEdge = s ∧ full.dueEdge = full ∧ s.vfOn 0 = true ∧ s.host.d3hot = false ∧ s.rom.plinthOut = false ∧ 0 < (s.pcfg 0).rings.length ∧ s.host.waiting.any (fun w => decide (w.vf = 0)) = false ∧
    (s.part 0).reset ≠ .quiesce ∧ (((s.part 0).ring 0).pi + 2 ^ 32 - ((s.part 0).ring 0).ci) % 2 ^ 32 < ((s.pcfg 0).rings.getD 0 {}).slots ∧
    full.vfOn 0 = true ∧ ((full.pcfg 0).rings.getD 0 {}).slots ≤ (((full.part 0).ring 0).pi + 2 ^ 32 - ((full.part 0).ring 0).ci) % 2 ^ 32 := by
  intro s full
  refine ⟨rfl, rfl, ?_⟩
  and_intros <;> decide

theorem witness_Bar2ReachesWindows :
    let s := hosted {} {}
    s.dueEdge = s ∧ s.vfOn 0 = true ∧ s.bar2Closed 0 = false ∧ bit1 (s.part 0).frzHost 0 = false ∧ s.bar2Waits 0 2097151 = false ∧
    2097151 / 2 ^ s.cfg.ap = 0 ∧ (s.cfg.window 0 0).valid = true ∧ (s.cfg.window 0 0).hostRd = true ∧ (s.cfg.window 0 0).hostWr = true ∧
    2097151 % 2 ^ s.cfg.ap + 1 ≤ (s.cfg.window 0 0).size * 2097152 ∧ 2097151 + 1 ≤ 8 * 2 ^ s.cfg.ap ∧
    s.badBurst ((s.cfg.window 0 0).base * 2097152 + 2097151) 1 = none ∧ s.badPartial ((s.cfg.window 0 0).base * 2097152 + 2097151) 1 = none := by
  intro s
  refine ⟨rfl, ?_⟩
  and_intros <;> decide

theorem witness_HostWindowViolationFreezes :
    let s := hosted {} {}
    let resets := hosted {} { reset := .restart }
    s.dueEdge = s ∧ s.vfOn 0 = true ∧ s.bar2Closed 0 = false ∧ bit1 (s.part 0).frzHost 0 = false ∧ s.bar2Waits 0 2097151 = false ∧
    2097151 + bar2Len (.read 2) ≤ 8 * 2 ^ s.cfg.ap ∧ s.bar2Permits 0 2097151 (bar2Len (.read 2)) (bar2Writes (.read 2)) = false ∧ (s.part 0).reset = .none ∧
    resets.vfOn 0 = true ∧ resets.bar2Closed 0 = false ∧ bit1 (resets.part 0).frzHost 0 = false ∧ resets.bar2Waits 0 2097151 = false ∧
    resets.bar2Permits 0 2097151 (bar2Len (.read 2)) (bar2Writes (.read 2)) = false ∧ (resets.part 0).reset ≠ .none := by
  intro s resets
  refine ⟨rfl, ?_⟩
  and_intros <;> decide

theorem witness_FunctionsConfigured :
    let s := hosted {} {}
    let down : State := { s with host := { s.host with linkUp := false } }
    let early : State := { s with host := { s.host with pcieReady := false } }
    let plinth0 (x : State) : State := { x with rom := { plinthOut := true } }
    s.dueEdge = s ∧ s.host.vfEnable = true ∧ 0 < s.host.numVfs ∧ (s.pcfg 0).defined = true ∧ s.boot.complete = true ∧ (s.part 0).reset = .none ∧ s.takesResets = true ∧ early.dueEdge = early ∧ (plinth0 s).dueEdge = plinth0 s ∧ (plinth0 s).host.linkUp = true ∧ (plinth0 s).rom.plinthOut = true ∧
    s.host.pcieReady = true ∧ s.host.linkUp = true ∧ down.host.linkUp = false ∧ down.boot.inReset = false ∧ down.intrusive = false ∧
    s.host.d3hot ≠ true ∧ ((0 : Fn).val ≠ 16 → s.host.vfEnable = true ∧ (0 : Fn).val < s.host.numVfs) ∧ false ≠ true ∧ early.host.linkUp = true ∧ early.host.pcieReady = false ∧ s.rom.plinthOut = false := by
  intro s down early plinth0
  refine ⟨rfl, ?_⟩
  and_intros <;> first | rfl | decide

/-- A request slot: MSG_ID 9, a TYPE and a payload; and a device in which a function has published it. -/
def request (type : Nat) (payload : List Byte) : List Byte := leBytes 2 9 ++ leBytes 2 type ++ leBytes 2 payload.length ++ List.replicate 10 0#8 ++ payload
def asking (fn : Nat) (b : List Byte) (more : Part) : State :=
  hosted { fns := [(fn, { mbx := { reqPi := 1#16, req := b.zipIdx.map (fun q => (q.2, q.1)) } })] } more
/-- The slot as it is read, and the payload. -/
def slot0 (b : List Byte) : List Byte := b ++ List.replicate (256 - b.length) 0#8
def payload0 (p : List Byte) : List Byte := p ++ leBytes (240 - p.length) 0

/-- No tick edge is due in such a device. -/
theorem asking_dueEdge (fn : Nat) (b : List Byte) (more : Part) : (asking fn b more).dueEdge = asking fn b more := rfl
theorem witness_RequestsAnswered_echo : Asks (asking 0 (request 7 [1#8]) {}) 0 7 240 [] (slot0 (request 7 [1#8])) (payload0 [1#8]) := by
  constructor <;> decide +kernel
theorem witness_RequestsAnswered_object :
    let p := [1#8, 0#8, 0#8, 0#8, 5#8]
    Asks (asking 0 (request 4 p) {}) 0 4 8 [1, 2, 3] (slot0 (request 4 p)) (payload0 p) ∧
    numAt (payload0 p) 4 4 ≠ 0 ∧ ((asking 0 (request 4 p) {}).ownerOfNs 0 (numAt (payload0 p) 0 1)).isSome := by
  intro p
  refine ⟨⟨?_, ?_, ?_⟩, ?_, ?_⟩ <;> decide +kernel
theorem witness_RequestsAnswered_switch :
    let p := [0#8, 0#8, 4#8]
    let s := asking 0 (request 1 p) {}
    Asks s 0 1 16 [1, 4, 5, 6, 7] (slot0 (request 1 p)) (payload0 p) ∧ s.cfg.pod = false ∧ numAt (payload0 p) 0 1 = 0 ∧ (s.pcfg 0).defined = true ∧
    numAt (payload0 p) 2 2 ≠ 0xFFFF ∧ (s.part 0).resetting = false ∧ s.cfg.roster 0 (numAt (payload0 p) 2 2) = some roster4 ∧
    s.unselectable roster4 = false ∧ (s.part 0).roster ≠ some (numAt (payload0 p) 2 2) ∧ (s.part 0).switch = none := by
  intro p s
  refine ⟨⟨?_, ?_, ?_⟩, ?_, ?_, ?_, ?_, ?_, ?_, ?_, ?_, ?_⟩ <;> decide +kernel
theorem witness_ResetAndShutdownBegin :
    let s := asking 16 (request 5 [0#8]) {}
    let t := asking 16 (request 6 []) {}
    let again := asking 16 (request 5 [0#8]) { reset := .restart }
    Asks s 16 5 1 [] (slot0 (request 5 [0#8])) (payload0 [0#8]) ∧ numAt (payload0 [0#8]) 0 1 = 0 ∧ (s.pcfg 0).defined = true ∧ (s.part 0).reset = .none ∧
    Asks again 16 5 1 [] (slot0 (request 5 [0#8])) (payload0 [0#8]) ∧ (again.part 0).reset ≠ .none ∧ (s.part 0).published = true ∧ Asks t 16 6 0 [] (slot0 (request 6 [])) (payload0 []) ∧ t.power.mode = .running := by
  intro s t again
  refine ⟨⟨?_, ?_, ?_⟩, ?_, ?_, ?_, ⟨?_, ?_, ?_⟩, ?_, ?_, ⟨?_, ?_, ?_⟩, ?_⟩ <;> decide +kernel
/-- The partition's tick is in progress and not published, with no switch, import or staging to end; or the device has left its pod. -/
theorem witness_ResetAndShutdownBegin_open :
    let s : State := { asking 16 (request 5 [0#8]) { published := false } with tick := { count := some 3 } }
    let left : State := { s with tick := { s.tick with left := true } }
    Asks s 16 5 1 [] (slot0 (request 5 [0#8])) (payload0 [0#8]) ∧ s.dueEdge = s ∧ (s.part 0).published = false ∧ s.tick.count.isSome = true ∧ s.tick.left = false ∧
    (s.part 0).reset = .none ∧ (s.part 0).switch = none ∧ (s.part 0).answers = none ∧ s.store.imports = [] ∧ s.store.staging = none ∧
    left.dueEdge = left ∧ left.tick.left = true := by
  intro s left
  refine ⟨⟨?_, ?_, ?_⟩, rfl, ?_, ?_, ?_, ?_, ?_, ?_, ?_, ?_, rfl, ?_⟩ <;> decide +kernel
/-- An import of object 5 of namespace 1 into a store with room, from a window that holds its block and one byte of payload; and
its retirement. -/
def importBody : List Byte := [1#8, 1#8, 1#8, 0#8, 5#8, 0#8, 0#8, 0#8] ++ List.replicate 8 0#8 ++ [1#8]
def retireBody0 : List Byte := [1#8, 0#8, 0#8, 0#8, 5#8]
def importBytes : List Byte :=
  sha384 [7#8] ++ hmac384 (({} : Otp).importKey 1) (sha384 [7#8]) ++ List.replicate 48 0#8 ++ List.replicate 112 0#8 ++ [7#8]
def shop : StoreSt :=
  { inUse := true, targets := [0], luns := 1, blocks := 8, pages := 12, metaList := [1024, 2048, 3072], held := [(4, 1025)], headSeq := 4, headUsed := 1 }
def imports0 (hbm : Bytes) (more : List ImportRun) : State :=
  { asking 0 (request 2 importBody) {} with store := { shop with imports := more }, rom := { keys := true }, core := { hbm := hbm } }
def given : State := imports0 (importBytes.zipIdx.map (fun q => (2097152 + q.2, q.1))) []
def run0 (s : State) : ImportRun := importOf s 0 0 (slot0 (request 2 importBody)) (payload0 importBody)

theorem witness_ImportAndRetireAct_import :
    let p := payload0 importBody
    let s := imports0 [] []
    let behind := imports0 [] [{ run0 s with phase := .units, wait := [5120] }]
    s.dueEdge = s ∧ Asks s 0 2 24 [] (slot0 (request 2 importBody)) p ∧ numAt p 4 4 ≠ 0 ∧ s.ownerOfNs 0 (numAt p 0 1) = some 0 ∧ (s.part 0).resetting = false ∧
    s.badBurst ((s.cfg.window 0 (numAt p 3 1)).addr (numAt p 8 8)) 256 = none ∧ s.badBurst ((s.cfg.window 0 (numAt p 3 1)).addr (numAt p 8 8) + 256) (numAt p 16 8) = none ∧
    numAt p 1 1 = 1 ∧ numAt p 2 1 ≤ 1 ∧ numAt p 3 1 ≤ 7 ∧ (s.cfg.window 0 (numAt p 3 1)).valid = true ∧ (s.cfg.window 0 (numAt p 3 1)).hostWr = true ∧
    numAt p 8 8 + 256 + numAt p 16 8 ≤ (s.cfg.window 0 (numAt p 3 1)).bytes ∧ s.underScrub 0 (numAt p 3 1) = false ∧
    (∀ i, i < 112 → s.hbmByte ((s.cfg.window 0 (numAt p 3 1)).addr (numAt p 8 8) + 0x90 + i) = 0#8) ∧ s.storeRuns = true ∧ s.store.imports = [] ∧
    ({ s with store := { s.store with imports := [run0 s] } } : State).importVerdict (run0 s) = some 1 ∧
    (∃ q0, behind.store.active = some q0 ∧ q0.wait ≠ []) := by
  intro p s behind
  refine ⟨rfl, ⟨?_, ?_, ?_⟩, ?_⟩
  iterate 3 decide +kernel
  and_intros <;> decide +kernel

theorem witness_ImportAndRetireAct_begins :
    let q := run0 given
    let begun := { given with store := { given.store with imports := [q] } }
    given.store.failing = [] ∧ given.store.imports = [] ∧ (∀ i, i < 112 → given.hbmByte (2097152 + 0x90 + i) = 0#8) ∧ begun.importVerdict q = none ∧
    (begun.store.placeReplica (begun.sealUnits q) 0).any (fun r => !(programsOf r.1).isEmpty) = true := by
  intro q begun
  and_intros <;> decide +kernel

/-- The PF asks for both while the partition is in a reset. -/
theorem witness_ImportAndRetireAct_resetting :
    let imports := asking 16 (request 2 importBody) { reset := .scrub }
    let retires := asking 16 (request 3 retireBody0) { reset := .scrub }
    Asks imports 16 2 24 [] (slot0 (request 2 importBody)) (payload0 importBody) ∧
    Asks retires 16 3 8 [1, 2, 3] (slot0 (request 3 retireBody0)) (payload0 retireBody0) ∧
    numAt (payload0 importBody) 4 4 ≠ 0 ∧ imports.ownerOfNs 16 (numAt (payload0 importBody) 0 1) = some 0 ∧ (imports.part 0).resetting = true ∧
    numAt (payload0 retireBody0) 4 4 ≠ 0 ∧ retires.ownerOfNs 16 (numAt (payload0 retireBody0) 0 1) = some 0 ∧ (retires.part 0).resetting = true := by
  intro imports retires
  refine ⟨⟨?_, ?_, ?_⟩, ⟨?_, ?_, ?_⟩, ?_, ?_, ?_, ?_, ?_, ?_⟩ <;> decide +kernel

theorem witness_ImportAndRetireAct_retire :
    let p := payload0 retireBody0
    let t : State := { asking 0 (request 3 retireBody0) {} with store := shop, rom := { keys := true } }
    t.dueEdge = t ∧ Asks t 0 3 8 [1, 2, 3] (slot0 (request 3 retireBody0)) p ∧ numAt p 4 4 ≠ 0 ∧
    t.ownerOfNs 0 (numAt p 0 1) = some 0 ∧ (t.part 0).resetting = false ∧ t.store.inUse = true ∧ t.rom.keys = true ∧ t.cfg.objects = [] ∧ t.store.failing = [] ∧ t.store.opensRing false 1 = false := by
  intro p t
  refine ⟨rfl, ⟨?_, ?_, ?_⟩, ?_, ?_, ?_, ?_, ?_, ?_, ?_, ?_⟩ <;> decide +kernel

/-- There is room for two answers beside the request. -/
theorem witness_ImportAndRetireAct_room :
    let s := imports0 [] []
    let t : State := { asking 0 (request 3 retireBody0) {} with store := shop, rom := { keys := true } }
    ((s.fn 0).mbx.rspPi - (s.fn 0).mbx.rspCi).toNat < 15 ∧ ((t.fn 0).mbx.rspPi - (t.fn 0).mbx.rspCi).toNat < 15 := by
  intro s t
  and_intros <;> decide

theorem witness_MailboxIndicesMove :
    let s := hosted {} {}
    let m := (s.fn 0).mbx
    let behind := hosted { waiting := [.bar2 0 0 (.read 1) {}] } {}
    s.dueEdge = s ∧ s.fnOn 0 = true ∧ s.rom.plinthOut = false ∧ (8#16 - m.reqCi).toNat ≤ 8 ∧ (8#16 - m.reqPi).toNat ≤ 8 - (m.reqPi - m.reqCi).toNat ∧ 8 < (9#16 - m.reqCi).toNat ∧
    m.held = [] ∧ (m.rspPi - 0#16).toNat ≤ (m.rspPi - m.rspCi).toNat ∧ (m.rspPi - m.rspCi).toNat < (m.rspPi - 1#16).toNat ∧
    s.host.waiting.any (fun w => decide (w.vf = 0)) = false ∧
    behind.dueEdge = behind ∧ behind.fnOn 0 = true ∧ behind.rom.plinthOut = false ∧ behind.host.waiting.any (fun w => decide (w.vf = 0)) = true := by
  intro s m behind
  refine ⟨rfl, ?_⟩
  and_intros <;> first | rfl | decide

theorem witness_CountersAreRead :
    let s := hosted {} {}
    let fresh := hosted { fns := [(16, { shadows := [(0x80, 8)] })] } {}
    let place := regPlace 16 0x80
    let behind := hosted { waiting := [.bar2 0 0 (.read 1) {}] } {}
    behind.fnOn 0 = true ∧ behind.host.waiting.any (fun w => decide (w.vf = 0)) = true ∧ 0x80 < bar0Size 0 ∧ s.host.waiting = [] ∧ s.rom.plinthOut = false ∧ 0 < (s.pcfg 0).rings.length ∧ s.fnOn 0 = true ∧ s.fnOn pfFn = true ∧ 0x3#4 ≠ 0xF#4 ∧ 0x3#4 ≠ 0#4 ∧
    s.fnOn 16 = true ∧ 0x80 % 8 = 0 ∧ 0x80 + 4 < bar0Size 16 ∧ place.1.region place.2 = none ∧ (regPlace 16 0x84).1.region (regPlace 16 0x84).2 = none ∧
    regPlace 16 0x84 = (place.1, place.2 + 4) ∧ pairAt place.1 place.2 = true ∧ pairAt place.1 (place.2 + 4) = false ∧
    Tbl.get 0 0x80 (fresh.fn 16).shadows = 7 + 1 ∧ Tbl.get 0 0x80 (s.fn 16).shadows = 0 := by
  intro s fresh place behind
  and_intros <;> decide

theorem witness_HostAccessesTaken :
    let s := hosted {} {}
    let behind := hosted { waiting := [.bar2 0 0 (.read 1) {}] } {}
    s.dueEdge = s ∧ s.fnOn 0 = true ∧ 4 % 4 = 0 ∧ 4 % 8 ≠ 0 ∧ 4 < bar0Size 0 ∧ (regPlace 0 4).1.region (regPlace 0 4).2 = none ∧
    (regPlace 0 0x47F8).1.region (regPlace 0 0x47F8).2 = some (.requests 0, 0x7F8) ∧ 0x7F8 + 4 * (1 + 1) ≤ (Region.requests 0).size ∧
    (Region.requests 0).size < 0x7F8 + 4 * (2 + 1) ∧ s.rom.plinthOut = false ∧ [1#8] ≠ [] ∧ 0x7FF < 0x800 ∧
    0x7FF + [1#8].length ≤ 0x800 ∧ 0x800 < 0x7FF + [1#8, 2#8].length ∧ s.host.waiting.any (fun w => decide (w.vf = 0)) = false ∧
    behind.dueEdge = behind ∧ behind.fnOn 0 = true ∧ behind.rom.plinthOut = false ∧ behind.host.waiting.any (fun w => decide (w.vf = 0)) = true := by
  intro s behind
  refine ⟨rfl, ?_⟩
  and_intros <;> first | rfl | decide

/-- An access behind one that waits, and the reserved lane of PLINTH_LEN. -/
theorem witness_HostAccessesTaken_order :
    let behind := hosted { waiting := [.bar2 0 0 (.read 1) {}] } {}
    behind.fnOn 0 = true ∧ ¬(behind.host.waiting.any (fun w => decide (w.vf = 0)) = false) ∧
    (0x8#4 &&& 0x7#4 = 0#4 ∧ 0x4#4 &&& 0x7#4 ≠ 0#4 ∧ (0x8#4 : BitVec 4) ≠ 0#4) := by
  intro behind
  and_intros <;> decide
theorem witness_PlinthBytesTaken :
    let s : State := { hosted {} {} with rom := { plinthOut := true } }
    s.dueEdge = s ∧ (hosted {} {}).dueEdge = hosted {} {} ∧
    s.fnOn pfFn = true ∧ s.rom.plinthOut = true ∧ (hosted {} {}).fnOn pfFn = true ∧ (hosted {} {}).rom.plinthOut = false ∧ 0x8#4 ≠ 0#4 := by
  intro s
  refine ⟨rfl, rfl, ?_⟩
  and_intros <;> decide

/-! Plinth mode, boot and power. -/

/-- A device in Plinth mode, its flash commands as given. -/
def plinth (r : Rom) : State := { hosted {} {} with rom := { r with plinthOut := true } }

theorem witness_PlinthCommandsStart :
    let good := plinth { off := 0x100000#32, len := 0x10000#21 }
    let odd := plinth { off := 0x110001#32, len := 1#21 }
    let slot := plinth { off := 1#32, len := 1#21 }
    let past := plinth { off := 0xFFFFFFFF#32, len := 1#21 }
    (∀ s ∈ [good, odd, slot, past], PlinthIdle s) ∧ (∀ s ∈ [good, odd, slot, past], 1 ≤ s.rom.len.toNat ∧ s.rom.len.toNat ≤ 2 ^ 20) ∧
    past.rom.flashSize < past.rom.off.toNat + past.rom.len.toNat ∧ odd.rom.off.toNat + odd.rom.len.toNat ≤ odd.rom.flashSize ∧ slot.rom.off.toNat + slot.rom.len.toNat ≤ slot.rom.flashSize ∧ good.rom.off.toNat + good.rom.len.toNat ≤ good.rom.flashSize ∧ good.rom.len.toNat ≤ 2 ^ 20 ∧
    0x100000 ≤ good.rom.off.toNat ∧ good.rom.off.toNat % 0x10000 = 0 ∧ good.rom.len.toNat % 0x10000 = 0 ∧
    odd.rom.off.toNat % 0x10000 ≠ 0 ∧ 0x100000 ≤ odd.rom.off.toNat ∧ 1 < odd.rom.off.toNat ∧ odd.rom.len.toNat ≠ 0 ∧
    slot.rom.off.toNat < 0x100000 ∧ slot.rom.off.toNat ≤ 1 := by
  intro good odd slot past
  refine ⟨?_, ?_⟩
  · simp only [List.mem_cons, List.not_mem_nil, or_false]
    rintro s (rfl | rfl | rfl | rfl) <;> constructor <;> decide
  · and_intros <;> decide

theorem witness_PlinthGuards :
    let busy := plinth { run := some .read }
    let out := hosted {} {}
    Instr.erase ∈ [Instr.erase, .program, .read, .checkSlot, .restart] ∧ busy.fnOn pfFn = true ∧ busy.rom.plinthOut = true ∧ busy.rom.run ≠ none ∧
    out.fnOn pfFn = true ∧ out.rom.plinthOut = false ∧ PlinthIdle (plinth {}) := by
  intro busy out
  refine ⟨?_, ?_, ?_, ?_, ?_, ?_, ?_, ?_, ?_, ?_⟩ <;> decide

/-- With no key hash programmed no image verifies (R648). -/
theorem keyless_image (r : Rom) (slot : Nat) (h : r.otp = {}) : r.imageReason slot = 0x0305 := by
  unfold Rom.imageReason
  rw [h]
  exact if_pos (by decide)

theorem witness_PlinthCommandsEnd :
    let runs (c : PlinthRun) := plinth { run := some c, runOff := 1, runLen := 4 }
    (runs .erase).intrusive = false ∧ (runs .erase).rom.run = some .erase ∧ (runs .program).rom.run = some .program ∧ (runs .read).rom.run = some .read ∧
    (runs .checkSlot).rom.run = some .checkSlot ∧ (runs .checkSlot).rom.imageReason (runs .checkSlot).rom.runOff ≠ 0 := by
  intro runs
  refine ⟨?_, ?_, ?_, ?_, ?_, ?_⟩ <;> decide

/-- An environment that answers the stages up to FLASH, and a device whose attempt is due. -/
def env0 : BootEnv :=
  { otpOk := true, flashAnswers := true, sfdpOk := true, octalOk := true, recordWriteOk := true, pllLocks := true, avs := none
    hbmFails := none, vccqNand := 1200, badCopies := [], badCodewords := [], targets := [], hangs := none }
def starts (sel tamper : Nat) : State := { boot := { sel := sel }, rom := { tamper := tamper } }

/-- The first megabyte of the flash, where the boot records stand, is erased. -/
def blankRecords (r : Rom) : Prop := ∀ a, a < 0x100000 → Tbl.get 0xFF#8 a r.flash = 0xFF#8
theorem blank_run (r : Rom) (h : blankRecords r) (a n : Nat) (ha : a + n ≤ 0x100000) : r.flashRead a n = List.replicate n 0xFF#8 := by
  unfold Rom.flashRead
  induction n generalizing a with
  | zero => rfl
  | succ n ih => rw [Tbl.getRun, ih (a + 1) (by omega), h a (by omega), List.replicate_succ]
theorem record_place (k a : Nat) (h : a ∈ recordPlaces k) (hk : k ≤ 1) : a + 64 ≤ 0x100000 := by
  simp only [recordPlaces, List.mem_map, List.mem_range] at h
  omega
theorem blank_governing (r : Rom) (h : blankRecords r) : r.governing = none := by
  have e (a : Nat) (ha : a ∈ recordPlaces 0 ++ recordPlaces 1) : BootRec.ofBytes (r.flashRead a 64) = none := by
    rw [blank_run r h a 64 ((List.mem_append.mp ha).elim (record_place 0 a · (by decide)) (record_place 1 a · (by decide)))]
    decide
  unfold Rom.governing
  generalize recordPlaces 0 ++ recordPlaces 1 = l at e
  induction l with
  | nil => rfl
  | cons a l ih => rw [List.foldl_cons, e a (by simp)]; exact ih (fun b hb => e b (by simp [hb]))
theorem blank_place (r : Rom) (h : blankRecords r) : r.freePlace 0 = some 0 := by
  have e : (recordPlaces 0).filter (fun a => (r.flashRead a 64).any (· != 0xFF#8)) = [] := by
    rw [List.filter_eq_nil_iff]
    intro a ha
    rw [blank_run r h a 64 (record_place 0 a ha (by decide))]
    decide
  simp [Rom.freePlace, e]
theorem blank_append (r : Rom) (x : BootRec) (h : blankRecords r) : r.append x = r.program 0 x.bytes := by
  have hp := blank_place r h
  unfold Rom.append
  rw [blank_governing r h]
  dsimp only
  split
  · rename_i b e
    rw [hp] at e
    cases e
    rfl
  · rename_i e
    rw [hp] at e
    cases e
/-- A record that is appended to such a flash touches no slot. -/
theorem append_slot (r : Rom) (x : BootRec) (h : blankRecords r) (o n : Nat) : (r.append x).slotRead 0 o n = r.slotRead 0 o n := by
  have hl : x.bytes.length = 64 := by simp [BootRec.bytes, leBytes, List.flatMap, List.range, List.range.loop]
  rw [blank_append r x h]
  show Tbl.getRun 0xFF#8 (programBytes r.flash 0 x.bytes) (0x100000 + o) n = Tbl.getRun 0xFF#8 r.flash (0x100000 + o) n
  have ha : 64 ≤ 0x100000 + o := by omega
  generalize 0x100000 + o = a at ha ⊢
  induction n generalizing a with
  | zero => rfl
  | succ n ih => rw [Tbl.getRun, Tbl.getRun, ih (a + 1) (by omega), get_programBytes, if_neg (by omega)]
theorem append_image (r : Rom) (x : BootRec) (h : blankRecords r) : (r.append x).imageReason 0 = r.imageReason 0 := by
  have ho := Rom.append_otp r x
  have hs : (r.append x).slotSize = r.slotSize := by rw [blank_append r x h]; rfl
  unfold Rom.imageReason
  simp only [append_slot r x h, ho, hs]
/-- The first attempt with no record and no count finds the count 0. -/
theorem first_count (s : State) (hc : s.boot.count = none) (hf : blankRecords s.rom) : s.attemptCount true = 0 := by
  simp [State.attemptCount, hc, Rom.record, blank_governing _ hf]

/-- An image under key slot 0 with a signature that does not verify. -/
def signedHead : List Byte := [0x51#8, 0x42#8, 0x49#8, 0x4D#8, 1#8, 0#8, 0xB1#8, 0#8] ++ List.replicate 8 0xFF#8 ++ leBytes 8 256 ++ List.replicate 228 0xFF#8
def signedFlash : Bytes :=
  Tbl.putRun 0xFF#8 0x100000 (signedHead.take 8) (Tbl.putRun 0xFF#8 0x100010 (leBytes 8 256) (Tbl.putRun 0xFF#8 0x1000FC (leBytes 4 (crc32 signedHead))
    (Tbl.putRun 0xFF#8 0x100100 [0x51#8, 0x53#8, 0x49#8, 0x47#8] (Tbl.putRun 0xFF#8 0x100108 (leBytes 8 256) []))))
def romOf (h : BitVec 384) (f : Bytes) : Rom := { otp := { hash0 := h }, flash := f }
def signedRom : Rom := romOf (BitVec.ofNat 384 (leNat (sha384 (List.replicate 96 0xFF#8)))) signedFlash
theorem get_below (k j : Nat) (vs : List Byte) (t : Bytes) (h : j < k) : Tbl.get 0xFF#8 j (Tbl.putRun 0xFF#8 k vs t) = Tbl.get 0xFF#8 j t := by
  rw [Tbl.get_putRun, if_neg (by omega)]
theorem blank_of (v w x y z : List Byte) (a : Nat) (h : a < 0x100000) :
    Tbl.get 0xFF#8 a (Tbl.putRun 0xFF#8 0x100000 v (Tbl.putRun 0xFF#8 0x100010 w (Tbl.putRun 0xFF#8 0x1000FC x
      (Tbl.putRun 0xFF#8 0x100100 y (Tbl.putRun 0xFF#8 0x100108 z []))))) = 0xFF#8 := by
  rw [get_below _ _ _ _ h, get_below _ _ _ _ (by omega), get_below _ _ _ _ (by omega), get_below _ _ _ _ (by omega), get_below _ _ _ _ (by omega)]
  rfl
theorem blank_romOf (h : BitVec 384) (v w x y z : List Byte) : blankRecords (romOf h (Tbl.putRun 0xFF#8 0x100000 v (Tbl.putRun 0xFF#8 0x100010 w
    (Tbl.putRun 0xFF#8 0x1000FC x (Tbl.putRun 0xFF#8 0x100100 y (Tbl.putRun 0xFF#8 0x100108 z [])))))) := fun a ha => blank_of v w x y z a ha
theorem signed_blank : blankRecords signedRom := by
  unfold signedRom signedFlash
  apply blank_romOf
theorem signed_reason : signedRom.imageReason 0 = 0x0306 := by decide +kernel

theorem witness_BootAttempts :
    let strapped := starts 2 0
    let tampered := starts 0 64
    let s := starts 0 0
    let third : State := { starts 0 0 with boot := { count := some 2 } }
    (∀ t ∈ [strapped, tampered, s, third], AttemptReady t env0) ∧ 2 ≤ strapped.boot.strap ∧ strapped.rom.tamper < 64 ∧ 64 ≤ tampered.rom.tamper ∧
    s.boot.strap < 2 ∧ ¬(64 ≤ s.rom.tamper ∨ 3 ≤ s.attemptCount true) ∧ s.attemptCount true ≠ 2 ∧
    third.boot.strap < 2 ∧ ¬(64 ≤ third.rom.tamper ∨ 3 ≤ third.attemptCount true) ∧ third.attemptCount true = 2 ∧
    (s.rom.append { s.rom.record with count := s.attemptCount true + 1, seq := (s.rom.record.seq + 1) % 2 ^ 32 }).imageReason
      (slotFor s.boot.strap (s.attemptCount true)) ≠ 0 := by
  intro strapped tampered s third
  have z : s.attemptCount true = 0 := first_count s rfl (fun _ _ => rfl)
  refine ⟨?_, by decide, by decide, by decide, by decide, by rw [z]; decide, by rw [z]; decide, by decide, by decide, by decide, ?_⟩
  · simp only [List.mem_cons, List.not_mem_nil, or_false]
    rintro t (rfl | rfl | rfl | rfl) <;> exact ⟨by decide, by decide, by decide, by decide, by decide⟩
  · exact ne_of_eq_of_ne (keyless_image _ _ (Rom.append_otp _ _)) (by decide)

/-- The two signature checks can disagree over an image that has passed every check before them. -/
theorem witness_BootAttempts_disagree :
    let s : State := { starts 0 0 with rom := signedRom }
    AttemptReady s env0 ∧ s.boot.strap < 2 ∧ ¬(64 ≤ s.rom.tamper ∨ 3 ≤ s.attemptCount true) ∧
    0x0306 ≤ (s.rom.append { s.rom.record with count := s.attemptCount true + 1, seq := (s.rom.record.seq + 1) % 2 ^ 32 }).imageReason
      (slotFor s.boot.strap (s.attemptCount true)) := by
  intro s
  have z : s.attemptCount true = 0 := first_count s rfl signed_blank
  refine ⟨⟨by decide, by decide, by decide, by decide, by decide⟩, by decide, by rw [z]; decide, ?_⟩
  rw [z, show slotFor s.boot.strap 0 = 0 from rfl]
  exact ((append_image _ _ signed_blank).trans signed_reason).ge

/-- An image that does not verify fails its stage. -/
theorem image_fails (x : State) (n : Nat) (h : x.rom.imageReason x.boot.slot = n) (h0 : n ≠ 0) : x.imageStage env0 = (x, .fail n) := by
  subst h
  unfold State.imageStage
  exact (if_neg (fun h => absurd h.1 (by decide))).trans (if_pos h0)

/-- The FLASH stage of a first attempt passes. -/
theorem flash_passes (s : State) (hd : s.rom.densityOk = true) (hc : s.boot.count = some 0) :
    ∃ t X, s.flashStage env0 = (t, .ok) ∧ t.rom = { s.rom.append X with keys := true } := by
  unfold State.flashStage
  rw [if_neg (by decide), if_neg (by simp [env0, hd]), if_neg (by decide)]
  simp only [hc, Option.getD_some]
  rw [if_neg (by decide)]
  refine ⟨_, { s.rom.record with count := 0 + 1, seq := (s.rom.record.seq + 1) % 2 ^ 32 }, rfl, ?_⟩
  dsimp only
  unfold State.writeRecord
  rw [if_pos (show env0.recordWriteOk = true from rfl)]
/-- The ROM stage of a first attempt passes. -/
theorem rom_passes (s : State) (ht : ¬64 ≤ s.rom.tamper) (hs : ¬2 ≤ s.boot.strap) (hc : ¬3 ≤ s.boot.count.getD 0) :
    s.romStage env0 = ({ s with rom := { s.rom with loaded := true } }, .ok) := by
  unfold State.romStage
  dsimp only
  rw [if_neg ht, if_neg hs, if_neg hc]
  rfl
/-- A stage that passes hands over to the next. -/
theorem pass_step (env : BootEnv) (k : Nat) (ks : List Nat) (s t : State)
    (h : (s.enterStage env k).stageWork env k = (t, .ok)) :
    State.passStages env (k :: ks) s = State.passStages env ks t := by
  rw [State.passStages, h]
/-- The first two stages pass in a device whose count of attempts is 0, and the image of a blank flash fails the third. -/
theorem witness_BootAttempts_stages :
    let s : State := { boot := { count := some 0 } }
    AttemptReady s env0 ∧ ∃ u, (s.beginAttempt true).passStages env0 (allStages.take 2) = some u ∧
      ∃ v, (u.enterStage env0 (2 + 1)).stageWork env0 (2 + 1) = (v, .fail 0x0305) := by
  intro s
  let y : State := (s.beginAttempt true).enterStage env0 1
  let x : State := { y with rom := { y.rom with loaded := true } }
  let z : State := x.enterStage env0 2
  have h1 : y.romStage env0 = (x, .ok) := rom_passes y (by decide) (by decide) (by decide)
  obtain ⟨u, X, hu, hr⟩ := flash_passes z (by decide) rfl
  refine ⟨⟨by decide, by decide, by decide, by decide, by decide⟩, u, ?_, _, image_fails _ _ (keyless_image _ _ ?_) (by decide)⟩
  · have p1 := pass_step env0 1 [2] (s.beginAttempt true) x h1
    have p2 := pass_step env0 2 [] x u hu
    have p3 : allStages.take 2 = [1, 2] := rfl
    rw [p3, p1, p2, State.passStages]
  · have e : u.rom.otp = (z.rom.append X).otp := by simp only [hr]
    have e2 : z.rom.otp = {} := by decide
    exact e.trans ((Rom.append_otp z.rom X).trans e2)

theorem witness_ResetsAndBoots :
    let low : State := { boot := { inReset := true, due := false } }
    let failing : State := { low with power := { failPin := true } }
    let at_ (k : Nat) : State := { time := 30000 * unitsPerMs, boot := { running := true, stage := k } }
    let failed : State := { time := 5, boot := { nextAt := some 5 } }
    let fuses (js : List FuseJob) : State := { hosted {} {} with rom := { fuses := js } }
    let third : State := { time := 30000 * unitsPerMs, boot := { running := true, stage := 1, count := some 2 } }
    let once : State := { time := 30000 * unitsPerMs, boot := { running := true, stage := 1, count := some 1 } }
    State.reset.rom.run = none ∧ State.reset.tap.job = none ∧ State.reset.boot.inReset = false ∧ low.boot.inReset = true ∧ low.rom.run = none ∧ low.tap.job = none ∧
    low.power.failPin = false ∧ failing.boot.inReset = true ∧ failing.power.failPin = true ∧ State.reset.power.failPin = false ∧ State.reset.rom.plinthOut = false ∧
    low.rom.plinthOut = false ∧ 2 ≤ third.boot.count.getD 0 ∧ third.boot.strap < 2 ∧ third.boot.running = true ∧ third.boot.stage = 1 ∧
      third.boot.stageSince + stageTimeout.getD 1 0 * unitsPerMs ≤ third.time ∧ once.boot.count.getD 0 < 2 ∧ once.boot.running = true ∧ once.boot.stage = 1 ∧
      once.boot.stageSince + stageTimeout.getD 1 0 * unitsPerMs ≤ once.time ∧ (at_ 8).store.inUse = false ∧
    (∀ k : Fin 11, k.val ∈ [1, 2, 3, 4, 5, 6, 7, 10] → (at_ k.val).boot.running = true ∧ (at_ k.val).boot.stage = k.val ∧
      (at_ k.val).boot.stageSince + stageTimeout.getD k.val 0 * unitsPerMs ≤ (at_ k.val).time) ∧
    (at_ 8).boot.running = true ∧ (at_ 8).boot.stage = 8 ∧ (at_ 8).boot.stageSince + 30000 * unitsPerMs ≤ (at_ 8).time ∧
    failed.boot.nextAt = some 5 ∧ 5 ≤ failed.time ∧
    (fuses [.revoke 0]).boot.complete = true ∧ (fuses [.revoke 0]).power.mode ≠ .powerFail ∧ (fuses [.revoke 0]).power.gated = false ∧
    (fuses [.revoke 0]).rom.fuses = .revoke 0 :: [] ∧ (fuses [.arb 63, .arb 62]).rom.fuses = .arb 63 :: [.arb 62] := by
  intro low failing at_ failed fuses third once
  and_intros <;> decide

theorem witness_PowerAndFaultsStop :
    let s := hosted {} {}
    let failing (st : StoreSt) : State := { power := { mode := .powerFail }, store := st }
    let young : State := {}
    let shuts (step : ShutStep) : State := { s with power := { mode := .shuttingDown, shut := step } }
    let clocked : State := { s with power := { s.power with target := 1700 } }
    let linked : State := { s with ports := [(7, { phase := .up, width := 8 })] }
    let low : State := { boot := { inReset := true } }
    let tripped : State := { s with power := { mode := .shuttingDown, shut := .stop, gated := true } }
    let writes : State := { shuts .stop with store := { imports := [importing] } }
    s.dueEdge = s ∧ (plinth {}).dueEdge = plinth {} ∧ young.dueEdge = young ∧ low.dueEdge = low ∧
    clocked.dueEdge = clocked ∧ s.host.waiting = [] ∧ (failing { imports := [importing], logList := [7168], inUse := true }).store.busy (targetOf ({ imports := [importing], logList := [7168] } : StoreSt).logNext) = true ∧
    (failing { inUse := true, logList := [7168], blocks := 8, luns := 1, targets := [0] }).store.busy (targetOf ({ logList := [7168] } : StoreSt).logNext) = false ∧
    (failing { inUse := true, logList := [7168], blocks := 8, luns := 1, targets := [0] }).store.logUp = true ∧ s.store.failing = [] ∧
    low.power.failPin = false ∧ low.boot.inReset = true ∧ s.power.failPin = false ∧ s.boot.inReset = false ∧ s.rom.run = none ∧
    (failing {}).power.mode = .powerFail ∧ (failing {}).power.pageDone = false ∧ (failing {}).power.gated = false ∧ (failing {}).store.inUse = false ∧
    (failing { inUse := true }).store.inUse = true ∧ (plinth {}).rom.plinthOut = true ∧ young.rom.plinthOut = false ∧ young.boot.complete = false ∧
    s.rom.plinthOut = false ∧ s.boot.complete = true ∧ s.power.mode = .running ∧ s.power.gated = false ∧
    (shuts .close).power.mode = .shuttingDown ∧ (shuts .close).power.shut = .close ∧ (shuts .close).tickClosed = true ∧ (shuts .stop).power.shut = .stop ∧ (shuts .stop).power.gated = false ∧
    (shuts .stop).store.imports = [] ∧ tripped.power.gated = true ∧ tripped.power.shut = .stop ∧ tripped.power.mode = .shuttingDown ∧
    writes.power.mode = .shuttingDown ∧ writes.power.shut = .stop ∧ writes.power.gated = false ∧ importing ∈ writes.store.imports ∧ importing.wait ≠ [] ∧
    s.store.good 7 = true ∧
    clocked.power.target ≠ 0 ∧ clocked.rom.plinthOut = false ∧ clocked.power.mode ∉ [PowerMode.powerFail, .shutdownDone, .clockFault] ∧
    (linked.port 7).phase ∉ [PortPhase.off, .down] := by
  intro s failing young shuts clocked linked low tripped writes
  refine ⟨rfl, rfl, rfl, rfl, rfl, ?_⟩
  and_intros <;> decide

theorem witness_SupervisionReads :
    let volts (p : Power) : State := { power := { p with target := 1700 }, rom := { otp := { pmMargin := 10#16 } }, core := { hbmMode := .running } }
    let off := volts { avsFault := true }
    let answer : AvsAnswer := { mv := 850, ma := 1 }
    (volts {}).dueEdge = volts {} ∧ (∀ r ∈ List.replicate 72 (40 : Int), -25 ≤ r) ∧ (volts {}).voltLoop = true ∧ (volts {}).power.avsFault = false ∧ (volts { avsMissed := 7 }).power.avsMissed < 8 ∧ (volts {}).power.avsOff < 10 ∧
    (volts {}).power.avsMissed < 10 ∧ answer.noVolt = false ∧ answer.noAmp = false ∧ answer.noWrite = false ∧ answer.alert ≠ some none ∧
    (let m := volts { avsMissed := 7 }; (m.power.adjust m.cfg.profile m.rom.otp.pmMargin.toNat 14).target = m.power.target ∧
      (m.power.adjust m.cfg.profile m.rom.otp.pmMargin.toNat 9).target ≠ m.power.target ∧ m.voltLoop = true ∧ m.power.avsFault = false ∧ m.power.avsOff < 10) ∧
    (volts { avsMissed := 8 }).voltLoop = true ∧ 8 ≤ (volts { avsMissed := 8 }).power.avsMissed ∧ (volts { avsMissed := 8 }).power.avsMissed < 9 ∧
    9 ≤ (volts { avsMissed := 9 }).power.avsMissed ∧ (volts { avsOff := 9 }).voltLoop = true ∧ (volts { avsOff := 9 }).power.avsOff = 9 ∧
    60 < (volts { avsOff := 9 }).power.voltError 800 ∧ (volts {}).power.voltError 850 ≤ 60 ∧
    (9 : Int) < ((volts {}).rom.otp.pmMargin.toNat : Int) ∧ ¬(15 : Int) < ((volts {}).rom.otp.pmMargin.toNat : Int) ∧
    3 * ((volts {}).rom.otp.pmMargin.toNat : Int) ≤ 2 * 15 ∧ (volts { slackRun := 99 }).power.slackRun = 99 ∧ (volts {}).power.slackRun ≠ 99 ∧
    ¬(3 * ((volts {}).rom.otp.pmMargin.toNat : Int) ≤ 2 * 14) ∧
    off.voltLoop = true ∧ off.power.avsFault = true ∧ off.power.avsRetryAt ≤ off.time ∧ 60 < off.power.voltError 800 ∧
    (-26 :: List.replicate 71 (40 : Int)).length = 72 ∧
    (-26 : Int) ∈ -26 :: List.replicate 71 (40 : Int) ∧ (-26 : Int) < -25 ∧ (volts {}).rom.run = none ∧ (volts {}).tap.job = none ∧
    (volts {}).boot.inReset = false ∧ (List.replicate 72 (40 : Int)).length = 72 ∧ (volts {}).core.hbmMode ≠ .held ∧ [85, 86, 1, 2, 3, (4 : Int)].length = 6 ∧
    [0, 1, 2, 3, 4, 5].length = 6 := by
  intro volts off answer
  refine ⟨rfl, fun r h => by rw [(List.mem_replicate.mp h).2]; decide, ?_⟩
  and_intros <;> decide

/-! The tick. -/

/-- A device that has booted and ticks, with a period of 1 ms. -/
def ticks (t : Tick) (now : Nat) (src : TickSource) (pod : Bool) : State :=
  { cfg := { periodUs := 1000, tickSource := src, pod := pod, parts := [(0, { defined := true, spires := 1, statusSlots := 1 })] }, time := now, tick := t,
    boot := { complete := true }, power := { mode := .running }, parts := [(0, {})] }
/-- 1 ms. -/
def ms : Nat := 1683000000

theorem witness_TickSources :
    let s := ticks { count := some 3, decided := 0 }
    let first := ticks {} 0 .tickIn false
    let pod (t : Tick) (now : Nat) : State := ticks { t with count := some 3 } now .tickIn true
    let ptm := s (ms + ms / 5000) .ptm false
    let locked : State := { ptm with tick := { ptm.tick with ptmLock := true } }
    let above : State := { cfg := { pod := true, beaconDown := 1 }, boot := { complete := true } }
    let phased := ticks { ptmLock := true } ms .ptm true
    let beside := ticks { ptmLock := true } (ms / 2) .ptm true
    (∀ now src, (s now src false).ticking = true ∧ (s now src false).cfg.follows = false ∧ (s now src false).tick.due = none ∧
      (s now src false).tick.periodDone = false ∧ (s now src false).tick.count = some 3) ∧
    (s (ms / 1000 * 995 - 1) .tickIn false).time - 0 < (s 0 .tickIn false).periodPart 995 ∧ (s 0 .tickIn false).periodPart 995 ≤ (s (ms / 1000 * 995) .tickIn false).time - 0 ∧
    first.ticking = true ∧ first.tick.count = none ∧ first.tick.due = none ∧
    (pod {} ms).ticking = true ∧ (pod {} ms).cfg.follows = false ∧ (pod {} ms).tick.missedRun = 0 ∧ (pod {} ms).barrierClosed = false ∧
    (pod {} ms).periodPart 995 ≤ (pod {} ms).time - 0 ∧ (pod { ownDone := true } ms).barrierClosed = true ∧
    (s (ms / 1000 * 1005) .tickIn false).reached ((s 0 .tickIn false).tick.decided + (s 0 .tickIn false).periodPart 1005) = true ∧
    (s ms .tickIn false).reached ((s 0 .tickIn false).tick.decided + (s 0 .tickIn false).periodPart 1005) = false ∧
    (s ms .internal false).timerMoment = some ms ∧ (s ms .internal false).reached ms = true ∧ (s (ms / 2) .internal false).reached ms = false ∧
    (s ms .internal false).resetAt ≤ (s ms .internal false).tick.decided ∧ locked.ticking = true ∧ locked.cfg.follows = false ∧
    locked.timerMoment.isSome = true ∧ locked.timerMoment.any locked.reached = true ∧ locked.tick.ptmLostLogged = false ∧ locked.resetAt ≤ locked.tick.decided ∧
    (ticks {} 0 .tickIn true).tick.count = none ∧ (∀ i ∈ portsOf (ticks {} 0 .tickIn true).cfg.beaconDown, bit1 (ticks {} 0 .tickIn true).tick.bootDone i = true) ∧
    (pod { ownDone := true, periodDone := true } ms).tick.periodDone = true ∧ (pod { ownDone := true } ms).tick.ownDone = true ∧
    (∀ i ∈ portsOf (pod {} ms).cfg.beaconDown, bit1 (pod {} ms).tick.doneFrom i = true) ∧ (pod {} ms).power.shut = .none ∧
    (phased.ticking = true ∧ phased.cfg.follows = false ∧ phased.cfg.pod = true ∧ phased.tick.due = none ∧ phased.cfg.tickSource = .ptm ∧ phased.tick.ptmLock = true ∧
      phased.tick.count = none ∧ (∀ i ∈ portsOf phased.cfg.beaconDown, bit1 phased.tick.bootDone i = true) ∧ 0 < phased.cfg.periodUs ∧ phased.resetAt ≤ phased.time ∧
      0 ≤ phased.tick.ptmOffset ∧ phased.reached phased.phaseMoment = true ∧ beside.reached beside.phaseMoment = false) ∧
    (above.ticking = true ∧ above.cfg.follows = false ∧ above.tick.due = none ∧
      ∃ i ∈ portsOf above.cfg.beaconDown, bit1 above.tick.doneFrom i = false ∧ bit1 above.tick.bootDone i = false) := by
  intro s first pod ptm locked above phased beside
  refine ⟨fun _ _ => ⟨rfl, rfl, rfl, rfl, rfl⟩, ?_⟩
  and_intros <;> decide

theorem witness_TickEdgeBegins :
    let s := ticks { due := some (.timer, 7, false) } 7 .internal false
    let closes : State := { s with power := { s.power with shut := .close } }
    let early := ticks { due := some (.timer, ms, false) } 7 .internal false
    let pod := ticks { due := some (.beacon 9, 7, true) } 7 .internal true
    let bare : State := { pod with cfg := { pod.cfg with parts := [] } }
    let high := ticks { tickOut := true } 1683000 .internal false
    s.tick.due = some (.timer, 7, false) ∧ s.ticking = true ∧ s.reached 7 = true ∧ s.power.shut ≠ .close ∧ 0 ∈ s.definedParts ∧ s.cfg.pod = false ∧
    closes.power.shut = .close ∧ closes.ticking = true ∧ early.tick.due = some (.timer, ms, false) ∧ early.reached ms = false ∧
    pod.ticking = true ∧ pod.reached 7 = true ∧ pod.definedParts ≠ [] ∧ (pod.part 0).published = true ∧ bare.cfg.pod = true ∧ bare.definedParts = [] ∧
    high.tick.tickOut = true ∧ high.tick.lastEdge + unitsPerUs ≤ high.time := by
  intro s closes early pod bare high
  and_intros <;> decide

/-- The closing edge of an orderly shutdown is due. -/
theorem witness_TickEdgeBegins_closing :
    let s : State := { ticks { count := some 3, due := some (.timer, 7, false) } 7 .internal false with power := { mode := .shuttingDown, shut := .close } }
    s.tick.due = some (.timer, 7, false) ∧ s.ticking = true ∧ s.reached 7 = true ∧ s.power.shut = .close := by
  intro s
  and_intros <;> decide

theorem witness_RunWindowsOpen :
    let f (x : Part) : State := { ticks { count := some 0, frozenUntil := some 7 } 7 .internal false with parts := [(0, x)] }
    let late := f { due := some .late }
    let waits := f { phase := .waiting }
    let loads : State := { f { phase := .waiting, loading := true, roster := some 4 } with cfg := { rosters := [roster4], parts := [(0, { defined := true })] } }
    late.ticking = true ∧ late.tick.frozenUntil = some 7 ∧ 7 ≤ late.time ∧ late.definedParts = [0] ∧ (late.part 0).due = some .late ∧
    late.underScrub 0 (late.pcfg 0).statusWindow = false ∧ loads.core.hbmBad = [] ∧ loads.goesOn = true ∧
    waits.definedParts = [0] ∧ (waits.part 0).due = none ∧ (waits.part 0).phase = .waiting ∧ (waits.part 0).loading = false ∧ (waits.part 0).draining = false ∧
    loads.ticking = true ∧ (loads.part 0).loading = true ∧ (loads.part 0).draining = false ∧ loads.activeRoster 0 = some roster4 ∧ loads.tick.frozenUntil = some 7 := by
  intro f late waits loads
  and_intros <;> decide

/-- A roster load and a late drain that end after the ingest freeze. -/
theorem witness_RunWindowsOpen_after :
    let f (x : Part) : State := { ticks { count := some 0 } 7 .internal false with parts := [(0, x)], cfg := { rosters := [roster4], parts := [(0, { defined := true, spires := 1, rings := [{}] })] } }
    let loads := f { phase := .waiting, loading := true, roster := some 4 }
    let drains := f { phase := .waiting, draining := true }
    loads.ticking = true ∧ (loads.part 0).loading = true ∧ (loads.part 0).draining = false ∧ loads.activeRoster 0 = some roster4 ∧ loads.core.hbmBad = [] ∧ loads.goesOn = true ∧
    loads.tick.frozenUntil = none ∧ (loads.part 0).phase = .waiting ∧ (loads.part 0).due = none ∧
    (drains.part 0).draining = true ∧ drains.stopDrained 0 = true ∧ drains.tick.frozenUntil = none ∧ drains.tick.halted = false ∧ (drains.part 0).phase = .waiting ∧
    (drains.part 0).loading = false ∧ (drains.part 0).due = none := by
  intro f loads drains
  and_intros <;> decide

theorem witness_DrainsAndResetsEnd :
    let f (x : Part) : State := { ticks { frozenUntil := some 7 } 7 .internal false with cfg := { parts := [(0, { defined := true, spires := 1, rings := [{}], windows := [(7, { size := 1, valid := true })] })] }, parts := [(0, x)] }
    ((f { phase := .drain }).part 0).phase = .drain ∧ (f { phase := .drain }).drainDone 0 = true ∧
    ((f { draining := true }).part 0).draining = true ∧ (f { draining := true }).stopDrained 0 = true ∧ (f { draining := true }).tick.frozenUntil = some 7 ∧
    ((f { reset := .quiesce }).part 0).reset = .quiesce ∧ (f { reset := .quiesce }).quiesced 0 = true ∧ (f { reset := .quiesce }).goesOn = true ∧ (f { reset := .quiesce }).scrubWindows 0 ≠ [] ∧
    0 ∈ (f {}).spiresOf 0 ∧ 1 ∉ (f {}).spiresOf 0 ∧ 0 < ((f {}).pcfg 0).rings.length := by
  intro f
  and_intros <;> decide

theorem witness_PtmAndStalls :
    let p (t : Tick) (now : Nat) : State := { ticks t now .ptm false with host := { ptmEnable := true } }
    let root (now : Nat) := ticks { count := some 3 } now .tickIn true
    let blockedSpire : Core := { spires := [(0, { ctxs := [(0, { backlog := [cmd 0x13#32 0#32 0#32 0#32] })] })] }
    let stuck (since : Option Nat) (now : Nat) : State := { ticks { count := some 3 } now .tickIn true with core := blockedSpire, parts := [(0, { phase := .run, published := false, plan := plan0 [], stalledSince := since })] }
    let below : State := { cfg := { pod := true, tickSource := .ptm, hasTopology := true, rootId := 1, deviceId := 2 } }
    (p {} 0).ptmDue = true ∧ (p { ptmRunAt := some 0 } (10 * ms)).ptmDue = true ∧ (p { ptmRunAt := some 0 } (10 * ms - 1)).ptmDue = false ∧
    below.cfg.follows = true ∧ (p {} 0).cfg.follows = false ∧ (p {} 0).cfg.tickSource = .ptm ∧ (p {} 0).boot.complete = true ∧ (p {} 0).host.ptmEnable = true ∧
    (p { ptmLock := true } (1000 * ms)).tick.ptmLock = true ∧ (p { ptmLock := true } (1000 * ms)).tick.ptmLostLogged = false ∧
    (p { ptmLock := true } (1000 * ms)).tick.ptmAt + 1000000 * unitsPerUs ≤ (p { ptmLock := true } (1000 * ms)).time ∧
    (root (11 * ms + 1)).ticking = true ∧ (root (11 * ms + 1)).cfg.pod = true ∧ (root (11 * ms + 1)).cfg.follows = false ∧ (root (11 * ms + 1)).tick.due = none ∧
    (root 0).tick.decided + (root 0).periodUnits + ((root 0).tick.stalls + 1) * (root 0).stretchUnits < (root (11 * ms + 1)).time ∧ (root 0).unpublished = 0 ∧
    (stuck none 0).unpublished ≠ 0 ∧ (stuck none 0).cfg.pod = true ∧ ((stuck none 0).part 0).phase = .run ∧ (stuck none 0).stalled 0 = true ∧ (stuck none 0).periodUnits ≠ 0 ∧
    ((stuck none 0).part 0).stalledSince = none ∧ ((stuck (some 0) ms).part 0).stalledSince = some 0 ∧ ((stuck (some 0) ms).part 0).stalledFor = 0 ∧
    (stuck (some 0) ms).periodUnits ≤ (stuck (some 0) ms).time - 0 ∧ (stuck (some 0) ms).time - 0 < 3 * (stuck (some 0) ms).periodUnits ∧
    3 * (stuck (some 0) (3 * ms)).periodUnits ≤ (stuck (some 0) (3 * ms)).time - 0 ∧ ((stuck (some 0) (3 * ms)).part 0).reset = .none ∧
    (∀ sp ∈ (stuck (some 0) (3 * ms)).spiresOf 0, (stuck (some 0) (3 * ms)).owner sp = some 0) ∧ (root 0).stalled 0 = false ∧
    (stuck (some 0) (3 * ms)).stalled 0 = true := by
  intro p root blockedSpire stuck below
  and_intros <;> decide

/-! The pod and the Span ports. -/

/-- Device 2 of pod 77, whose root is device 1, upstream of it port 0 and downstream port 1; port 0 as given. -/
def linked (t : Tick) (now : Nat) (x : Port) : State :=
  { cfg := { pod := true, hasTopology := true, rootId := 1, deviceId := 2, podId := 77, beaconUp := 0, beaconDown := 2, beaconDelay := 1000, ports := [(0, { planWidth := 24, partnerDev := 1, maxLinkNs := 40 })], lanes := [(0, { mask := 1, size := 512, bulk := true })], parts := [(0, { defined := true })] },
    time := now, tick := t, boot := { complete := true }, ports := [(0, x), (1, { phase := .up, width := 24 })], parts := [(0, { phase := .run, roster := some 4, tickNo := 5 })] }
/-- A port in full use. -/
def upPort : Port := { phase := .up, width := 24, good := 63#6 }

theorem witness_BeaconsPlaceEdges :
    let s := linked {} 9 upPort
    let near : BeaconRec := ⟨0#8, false, 1#8, 16000#32, 5#64, 77#32⟩
    let root : State := { s with cfg := { s.cfg with deviceId := 1 }, time := 168300000 }
    s.ticking = true ∧ s.cfg.follows = true ∧ (0 : Fin 8).val = s.cfg.beaconUp ∧ (s.port 0).trained = true ∧ near.podId.toNat = s.cfg.podId ∧
    near.delay.toNat * unitsPerNs / 16 + (s.port 0).linkNs.getD 0 * unitsPerNs ≤ s.cfg.beaconDelay * unitsPerNs ∧
    s.cfg.beaconDelay * unitsPerNs < ({ near with delay := 16001#32 } : BeaconRec).delay.toNat * unitsPerNs / 16 + (s.port 0).linkNs.getD 0 * unitsPerNs ∧
    root.ticking = true ∧ root.cfg.isRoot = true ∧ root.tick.heard + 100 * unitsPerUs ≤ root.time := by
  intro s near root
  and_intros <;> decide

theorem witness_PodReportsAndLeaves :
    let s := linked { count := some 5 } (101 * 1683000000) upPort
    let own := linked { count := some 5, ownDone := true } 9 upPort
    let lost := linked { count := some 5, lostAt := some 0 } (101 * 1683000000) upPort
    let fresh : State := linked { bootDone := 2#8 } 9 upPort
    let rec_ (tick : W64) : DoneRec := ⟨false, 1#16, tick, 77#32⟩
    s.cfg.pod = true ∧ bitOf s.cfg.beaconDown (1 : Fin 8).val = true ∧ (s.port 1).trained = true ∧ (rec_ 5#64).podId.toNat = s.cfg.podId ∧
    (rec_ (-1#64)).tick.toNat = 2 ^ 64 - 1 ∧ bit1 s.tick.bootDone 1 = false ∧ (rec_ 4#64).tick.toNat ≠ 2 ^ 64 - 1 ∧ some (rec_ 4#64).tick.toNat ≠ s.tick.count ∧
    some (rec_ 5#64).tick.toNat = s.tick.count ∧ bit1 s.tick.doneFrom 1 = false ∧ s.tick.ownDone = false ∧ own.tick.ownDone = true ∧ own.tick.doneSent = false ∧
    own.cfg.follows = true ∧ (∀ j ∈ portsOf own.cfg.beaconDown, bit1 (own.tick.doneFrom ||| BitVec.ofNat 8 (2 ^ 1)) j = true) ∧
    fresh.boot.complete = true ∧ fresh.cfg.follows = true ∧ fresh.tick.bootDoneSent = false ∧ (∀ j ∈ portsOf fresh.cfg.beaconDown, bit1 fresh.tick.bootDone j = true) ∧
    s.ticking = true ∧ s.tick.lostAt = none ∧ s.tick.heard + unitsPerMs ≤ s.time ∧ lost.ticking = true ∧ lost.mustLeave = true ∧ own.mustLeave = false ∧
    (s.port 0).trained = true ∧ (s.port 0).partnerLeft = false ∧ (77#32 : W32).toNat = s.cfg.podId := by
  intro s own lost fresh rec_
  and_intros <;> decide

theorem witness_PortsMeet :
    let s := linked {} 1683000 { upPort with phase := .ctrl, pingAt := some 920 }
    let good : LinkRec := ⟨1#8, 0#8, 1#8, 24#8, 0#8, 63#8, 0#64, 77#32⟩
    (s.port 0).trained = true ∧ s.linkDiffers 0 good = none ∧ s.linkDiffers 0 { good with skein := 1#8 } = some 7 ∧ (s.port 0).mismatch = false ∧
    (s.port 0).pingAt = some 920 ∧ s.nsSinceReset = 1000 ∧ ((s.nsSinceReset - 920) - ((5#64 : W64).toNat - (5#64 : W64).toNat)) / 2 ≤ (s.cfg.port 0).maxLinkNs ∧
    (s.cfg.port 0).maxLinkNs < ((({ s with time := 1683000 + 3366 } : State).nsSinceReset - 920) - ((5#64 : W64).toNat - (5#64 : W64).toNat)) / 2 := by
  intro s good
  and_intros <;> decide

theorem witness_PortsTrain :
    let s := linked {} (500 * 1683000000) { phase := .training, good := 3#6 }
    let early := linked {} (500 * 1683000000 - 1) { phase := .training, good := 3#6 }
    let wide := linked {} 0 upPort
    let two := linked {} 0 { upPort with good := 3#6 }
    (s.port 0).phase = .training ∧ (s.port 0).retraining = false ∧ 2 ≤ goodCount 3#6 ∧ widthFor (goodCount 3#6) (s.cfg.port 0).planWidth = 8 ∧ goodCount 1#6 < 2 ∧
    (s.port 0).since + 500 * unitsPerMs ≤ s.time ∧ early.time < (early.port 0).since + 500 * unitsPerMs ∧
    bit1 (s.port 0).good (1 : Fin 6).val = true ∧ (two.port 0).trained = true ∧ goodCount ((two.port 0).good &&& ~~~(BitVec.ofNat 6 (2 ^ 1))) < 2 ∧
    (wide.port 0).trained = true ∧ 2 ≤ goodCount ((wide.port 0).good &&& ~~~(BitVec.ofNat 6 (2 ^ 5))) ∧ wide.recentRetrains 0 < 2 := by
  intro s early wide two
  and_intros <;> decide

/-- A follower whose edges a shutdown has stopped, and a port whose training is late. -/
theorem witness_BeaconsAndTraining_late :
    let s : State := linked { halted := true } 9 upPort
    let late := linked {} (500 * 1683000000 + 1) { phase := .training, good := 3#6 }
    let timely := linked {} (500 * 1683000000) { phase := .training, good := 3#6, failed := 4#6, unacked := [⟨1#64, [], 0#64⟩] }
    s.boot.complete = true ∧ s.tick.left = false ∧ s.tick.halted = true ∧ s.cfg.follows = true ∧ (0 : Fin 8).val = s.cfg.beaconUp ∧ (s.port 0).trained = true ∧
    (77#32 : W32).toNat = s.cfg.podId ∧ (late.port 0).phase = .training ∧ (late.port 0).since + 500 * unitsPerMs < late.time ∧
    (timely.port 0).phase = .training ∧ ¬(timely.port 0).since + 500 * unitsPerMs < timely.time ∧ 2 ≤ goodCount (7#6 &&& ~~~(timely.port 0).failed) ∧
    widthFor (goodCount (7#6 &&& ~~~(timely.port 0).failed)) (timely.cfg.port 0).planWidth ≠ 0 ∧ (timely.port 0).unacked ≠ [] := by
  intro s late timely
  and_intros <;> decide

theorem witness_SlotsDepart :
    let ctrl := linked {} 0 { upPort with slot := 24, ctrl := [⟨[6#8], none⟩] }
    let quiet := linked {} 0 { upPort with phase := .ctrl }
    let e : TxEntry := ⟨0, 0, false, 0, 0⟩
    let sched := linked { count := some 5 } 0 { upPort with lanes := [(0, { program := some ⟨0, [e], []⟩ })] }
    let m : BulkOut := { part := 0, vc := 1, sub := 0, own := true, opened := false, bodies := [[1#8]] }
    let bulk := linked {} 0 { upPort with out := [(1, some m)] }
    let idle := linked {} 0 upPort
    (ctrl.port 0).trained = true ∧ (ctrl.port 0).slot % 25 = 24 ∧ (ctrl.port 0).owed.all (fun e => decide (e.2 = 0)) = true ∧
    (quiet.port 0).trained = true ∧ (quiet.port 0).slot % 25 ≠ 24 ∧ quiet.mayCarry 0 = false ∧
    sched.mayCarry 0 = true ∧ (sched.port 0).resend = 0 ∧ sched.dueEntry 0 = some (0, e, 0) ∧
    bulk.mayCarry 0 = true ∧ bulk.dueEntry 0 = none ∧ Tbl.get none 1 (bulk.port 0).out = some m ∧ m.vc = 1 ∧ m.bodies = [1#8] :: [] ∧ m.back = none ∧
    (bulk.port 0).creditFor m ≠ 0 ∧ (bulk.port 0).unacked.length < 1024 ∧
    idle.mayCarry 0 = true ∧ idle.dueEntry 0 = none ∧ idle.nextMessage 0 1 = none ∧ idle.nextMessage 0 0 = none := by
  intro ctrl quiet e sched m bulk idle
  and_intros <;> decide

/-- The bytes that a flit carries, and a frame of one flit. -/
def flitBody : List Byte := List.replicate 240 7#8
def flitHead : Nat := 1 + 5 * 2 ^ 36
def frameOf (ok : Bool) (fs : List FlitRec) : FrameRec := ⟨ok, leBytes 8 0 ++ leBytes 2 (crc16 (leBytes 8 0)), fs, []⟩
/-- Partition 0 has one RX entry on port 0, with a push, and plays it. -/
def rx0 : RxEntry := ⟨0, 0, true, 0, 0, 9#32⟩
def receives : State := linked { count := some 5 } 0 { upPort with lanes := [(0, { program := some ⟨0, [], [rx0]⟩ })] }

/-- A CRC-64 has 64 bits, so a flit built with its CRC is good. -/
theorem crcStepL_lt (p r : Nat) (hp : p < 2 ^ 64) (h : r < 2 ^ 64) : crcStepL 64 p r < 2 ^ 64 := by
  unfold crcStepL
  split
  · exact Nat.xor_lt_two_pow (Nat.mod_lt _ (by decide)) hp
  · omega
theorem crcByte_lt (p : Nat) (hp : p < 2 ^ 64) (l : List Nat) : ∀ q, q < 2 ^ 64 → l.foldl (fun r _ => crcStepL 64 p r) q < 2 ^ 64 := by
  induction l with
  | nil => exact fun _ h => h
  | cons _ l ih => exact fun q h => ih _ (crcStepL_lt p q hp h)
theorem crcPlain_lt (p : Nat) (hp : p < 2 ^ 64) (bs : List Byte) : ∀ r, r < 2 ^ 64 → crcPlain 64 p r bs < 2 ^ 64 := by
  unfold crcPlain
  induction bs with
  | nil => exact fun r h => h
  | cons b bs ih =>
    intro r h
    rw [List.foldl_cons]
    exact ih _ (crcByte_lt p hp _ _ (Nat.xor_lt_two_pow h (by have := b.isLt; omega)))
theorem flit_good (h : Nat) (bs : List Byte) (hh : h < 2 ^ 64) : (flitOf h bs).good = true := by
  have hc : crc64 (leBytes 8 h ++ bs) < 2 ^ 64 := Nat.xor_lt_two_pow (crcPlain_lt _ (by decide) _ _ (by decide)) (by decide)
  simp only [FlitRec.good, flitOf, BitVec.toNat_ofNat, Nat.mod_eq_of_lt hh, Nat.mod_eq_of_lt hc, decide_true]
theorem flit_head : (flitOf flitHead flitBody).header = 0x5000000001#64 := rfl

theorem witness_FlitsArrive :
    let f := flitOf flitHead flitBody
    (receives.port 0).trained = true ∧ (∀ ok fs, crc16 ((frameOf ok fs).header.take 8) = le (frameOf ok fs).header 8 2) ∧ (frameOf false []).decoded = false ∧
    (frameOf true [f]).flits = [f] ∧ f.type = 1 ∧ (⟨1#64, [], 1#64⟩ : FlitRec).type = 1 ∧ (⟨1#64, [], 1#64⟩ : FlitRec).good = false ∧
    (receives.port 0).phase = .up ∧ f.good = true ∧ f.seq = ((receives.port 0).rxSeq + 1) % 4096 ∧ bit1 f.header 28 = false ∧ (receives.port 0).unacked = [] ∧
    bit1 (receives.part (fld f.header 35 32)).slotsFrozen 0 = false ∧ receives.plays (fld f.header 35 32) = true ∧ fld f.header 43 36 = (receives.part 0).tickNo % 256 ∧
    ((receives.port 0).lane 0).program.bind (fun g => g.rx[((receives.port 0).lane 0).rxAt]?) = some rx0 ∧ fld f.header 59 44 = ((receives.port 0).lane 0).rxAt % 65536 ∧
    rx0.addr + 240 ≤ (receives.cfg.lane 0 0).size ∧ f.body.length = 240 ∧ rx0.action ≤ 2 := by
  intro f
  have hh : f.header = 0x5000000001#64 := flit_head
  have ht : f.type = 1 := by rw [FlitRec.type, hh]; decide
  have hq : f.seq = 0 := by rw [FlitRec.seq, hh]; decide
  rw [hh, ht, hq]
  refine ⟨by decide, fun ok fs => ?_, rfl, rfl, rfl, by decide, by decide +kernel, by decide, flit_good _ _ (by decide), by decide, by decide, by decide, by decide, by decide, by decide,
    by decide, by decide, by decide, List.length_replicate, by decide⟩
  show crc16 ((leBytes 8 0 ++ leBytes 2 (crc16 (leBytes 8 0))).take 8) = le (leBytes 8 0 ++ leBytes 2 (crc16 (leBytes 8 0))) 8 2
  decide +kernel

/-- A frame of ten flits, nine of them IDLE. -/
theorem witness_FlitsArrive_frame :
    let idle := flitOf 0 (leBytes 240 0)
    let f := flitOf flitHead flitBody
    receives.dueEdge = receives ∧ (frameOf true (f :: List.replicate 9 idle)).flits = [] ++ f :: List.replicate 9 idle ∧ ∀ g ∈ [] ++ List.replicate 9 idle, idles g = true := by
  intro idle f
  refine ⟨rfl, rfl, fun g hg => ?_⟩
  rw [List.nil_append] at hg
  rw [(List.mem_replicate.mp hg).2]
  unfold idles
  rw [flit_good 0 _ (by decide)]
  decide

/-- No symbol corrected, and a lane of group 1 with 2,126 corrected in the frame, more than 1 in 10^4 of those of 1 ms. -/
theorem witness_FlitsArrive_noisy :
    let noisy (x : Port) (c : List Nat) (now : Nat) : List Nat :=
      ({ x with fixes := (x.fixes.filter (fun q => decide (now - q.1 ≤ 1000 * unitsPerMs))) ++
        ((c.zipIdx.filter (fun q => decide (q.1 ≠ 0))).map (fun q => (now, q.2, q.1))) } : Port).noisyGroups now
    noisy (receives.port 0) [] receives.time = [] ∧ noisy (receives.port 0) [0, 0, 0, 0, 0, 2126] receives.time = [1] ∧
    bit1 (receives.port 0).good 1 = true ∧ 2 ≤ goodCount ((receives.port 0).good &&& ~~~(BitVec.ofNat 6 (2 ^ 1))) ∧ receives.recentRetrains 0 < 2 ∧
    bit1 (3#6 : BitVec 6) 1 = true ∧ goodCount ((3#6 : BitVec 6) &&& ~~~(BitVec.ofNat 6 (2 ^ 1))) < 2 := by
  intro noisy
  and_intros <;> decide

theorem witness_FlitsArrive_waits :
    let waits (n : Nat) := linked {} 3366000 { upPort with unacked := [⟨1#64, [], 0#64⟩], replaysInRow := n }
    let done (p : Option (Nat × Nat × W32)) := linked {} 9 { upPort with pendingRx := [⟨0, 9, p⟩] }
    ((waits 0).port 0).phase = .up ∧ ((waits 0).port 0).unacked ≠ [] ∧ ((waits 0).port 0).ackAt + 2 * unitsPerUs ≤ (waits 0).time ∧ ((waits 7).port 0).replaysInRow < 8 ∧
    8 ≤ ((waits 8).port 0).replaysInRow ∧ 2 ≤ goodCount ((waits 8).port 0).good ∧ (waits 8).recentRetrains 0 < 2 ∧
    ((done none).port 0).pendingRx = ⟨0, 9, none⟩ :: [] ∧ 9 ≤ (done none).time ∧ ((done (some (0, 1, 2#32))).port 0).pendingRx = ⟨0, 9, some (0, 1, 2#32)⟩ :: [] := by
  intro waits done
  and_intros <;> decide

/-! The test access port, and the whole machine. -/

theorem witness_TapIntrusiveHalts :
    (0x07, Instr.extestTrain 0#1378 0#1378 2) ∈ intrusive 0#1378 0#1378 2 ∧ State.reset.tap.instr ≠ 0x07 ∧ State.reset.boot.inReset = false ∧ State.reset.rom.plinthOut = false := by
  refine ⟨by simp [intrusive], by decide, by decide, by decide⟩

theorem witness_TapInstructionsScan :
    let low : State := { boot := { inReset := true } }
    listedOpcode (0x08#8).toNat = false ∧ low.boot.inReset = true ∧ 2 ≤ 100 ∧ 100 ≤ 100 := by
  intro low
  and_intros <;> decide

theorem witness_TapPrivateOpcodes :
    let locked : State := { rom := { otp := { lock := true } } }
    locked.rom.otp.lock = true ∧ State.reset.rom.otp.lock = false ∧ State.reset.tap.instr ≠ 0xC0 + (7 : Fin 8).val ∧ State.reset.boot.inReset = false := by
  intro locked
  and_intros <;> decide

theorem witness_TapProvisioningWorks :
    let s : State := { rom := { plinthOut := true }, tap := { ns := some 3 } }
    let blows (j : ProvJob) : State := { tap := { job := some j } }
    s.rom.otp.lock = false ∧ s.provisioning = true ∧ s.tap.job = none ∧ fld (5#392) 391 386 = 0 ∧ s.rom.otp.programmed (fld (5#392) 385 384) = false ∧ s.tap.ns = some 3 ∧
    0x4B434F4C#32 ≠ 0#32 ∧ (blows (.slot 3 1#384)).tap.job = some (.slot 3 1#384) ∧ (blows .lock).tap.job = some .lock := by
  intro s blows
  and_intros <;> decide +kernel

theorem witness_TapProvisioningRefused :
    let blows : State := { tap := { job := some .lock } }
    State.reset.rom.otp.lock = false ∧ Instr.provLock 0#32 ∈ [Instr.provSlot 0#392, .provNsik 0#392, .provLock 0#32] ∧ State.reset.tap.job = none ∧ State.reset.provisioning = false ∧
    blows.rom.otp.lock = false ∧ blows.tap.job = some .lock := by
  intro blows
  refine ⟨by decide, by simp, by decide, by decide, by decide, by decide⟩

/-- Reset with one command in front. -/
def front (i : Instr) : State := { pending := [i] }
theorem witness_StepKeepsMemory : (front .tapReset).memoryWf = true ∧ ∃ t, step (front .tapReset) = .next t := ⟨by decide, _, rfl⟩
theorem witness_FusesOnlyBlow : ∃ t, step { tap := { job := some .lock }, pending := [.provFusesDone true] } = .next t ∧ t.rom.otp.lock = true := ⟨_, rfl, rfl⟩
theorem witness_StepsTakeTurns : (∃ t, step (front .tapReset) = .next t) ∧ (∃ t, step State.reset = .next t) ∧ State.reset.pending = [] := ⟨⟨_, rfl⟩, ⟨_, rfl⟩, rfl⟩
theorem witness_EveryCommandRuns :
    (∃ t, exec .tapReset State.reset = .next t) ∧
    exec (.imageBufferWrite (2 ^ 20) [0#8]) State.reset = .fault .outsideBar := ⟨⟨_, rfl⟩, rfl⟩

/-! Hand calculations: the manual's own worked figures, and published check values of the algorithms it names. -/

/-- Table 3-13: four elements of a BB8 block of E4M3 whose largest magnitude is 1,300.5, and the block whose is 470. -/
theorem test_bb8_block : (boltEncode .bb8 .e4m3 ([0x44A29000#32, 0x3F333333#32, 0xC0533333#32, 0x3B83126F#32].map fp32Val)).1.take 5 = [0x81#8, 0x7A#8, 0x23#8, 0xB5#8, 0x01#8] := by
  decide +kernel
theorem test_bb8_bump : (boltEncode .bb8 .e4m3 [fp32Val 0x43EB0000#32]).1.take 2 = [0x80#8, 0x77#8] := by decide +kernel

/-- Chapter 4's worked blocks A and B: the transposable masks that the pack unit chooses. -/
def blockA : List Nat := [0x3f666666, 0x3dcccccd, 0x3ecccccd, 0x3f333333, 0x3e4ccccd, 0x3f4ccccd, 0x3f19999a, 0x3d4ccccd, 0x3f000000, 0x3e99999a, 0x3dcccccd, 0x3f19999a, 0x3e19999a, 0x3e800000, 0x3f666666, 0x3eb33333]
def blockB : List Nat := [0x3d4ccccd, 0x3e99999a, 0x3e4ccccd, 0x3dcccccd, 0x3ecccccd, 0x0, 0x3ee66666, 0x3e19999a, 0x3f333333, 0x3eb33333, 0x0, 0x3e4ccccd, 0x3dcccccd, 0x3f19999a, 0x3e99999a, 0x3f000000]
theorem test_p24t_mask_a : pickP24T (fun i => blockA.getD i 0) = 0x6969 := by decide +kernel
theorem test_p24t_mask_b : pickP24T (fun i => blockB.getD i 0) = 0xA956 := by decide +kernel

/-- Chapter 6's MAC at 0x050, field by field, and its 192 issue cycles. -/
def mac050 : StreamCmd := cmd 0x02202020#32 0x80000000#32 0x00000000#32 0x00490180#32
theorem test_mac_fields :
    mac050.op = 0x20 ∧ mac050.osel = 1 ∧ mac050.macOp.repl = true ∧ mac050.macOp.aOff = true ∧ mac050.macOp.aForm = 4 ∧ mac050.macOp.len = 384 ∧
    mac050.macOp.aElem = 1 ∧ mac050.macOp.wElem = 1 ∧ mac050.macOp.wPleat = 1 := by decide
theorem test_mac_cycles : mac050.macOp.stores.map (fun q => macCycles mac050.macOp q.1 q.2) = some 192 := by decide
/-- Chapter 5's MAC command of 1,280 positions, E4M3 against P24 over BB8 E4M3: 320 ccyc. -/
theorem test_mac_cycles_fp8 : macCycles { mac050.macOp with len := 1280 } { form := .bb8, elem := .e4m3 } { form := .bb8, elem := .e4m3, pleat := .p24 } = 320 := by decide

/-- Chapter 11's TX entry, byte by byte. -/
theorem test_tx_entry :
    txOf [0x78#8, 0x05#8, 0#8, 0#8, 0#8, 0#8, 0#8, 0#8, 0#8, 0#8, 1#8, 0#8, 0x21#8, 0#8, 0#8, 0#8] 0 = ⟨1400, 0x10000, true, 0, 1⟩ := by decide +kernel
/-- Chapter 17's SEC_STATUS after a key rotation. -/
theorem test_sec_status :
    ({ rom := { loaded := true, bootKey := 1, otp := { hash0 := 1#384, hash1 := 1#384, revoke := 1#4, arb := 0x1F#64, lock := true } } } : State).secStatus = 0x18513 := by decide +kernel
/-- Chapter 18's register addresses: FRZ_A of Spire 6, and window 3 of partition 1 in both views. -/
theorem test_register_places :
    regPlace 16 0x160020 = (.spire 6, 0x20) ∧ regPlace 16 0x201118 = (.part 1, 0x118) := by decide
/-- Chapter 10's chunk 600: position 24 of the tenth pass over the 64 targets of replica 0, channel 8, target 2. -/
theorem test_targets : targetOf (blockAt 8 2 0) = 66 ∧ 600 % 64 = 24 := by decide

/-- FIPS 180-4's SHA-384 of "abc", and the published check values of the CRCs over "123456789". -/
theorem test_sha384 : (sha384 (ascii "abc")).take 8 = [0xCB#8, 0x00#8, 0x75#8, 0x3F#8, 0x45#8, 0xA3#8, 0x5E#8, 0x8B#8] := by decide +kernel
theorem test_crc32 : crc32 (ascii "123456789") = 0xCBF43926 := by decide +kernel
theorem test_crc16 : crc16 (ascii "123456789") = 0x29B1 := by decide +kernel
theorem test_crc64 : crc64 (ascii "123456789") = 0x62EC59E3F1A4F00A := by decide +kernel

end Sys2Proof.Tests
end

section
/-! SUPPORT. What notices, freezes, stops and reads through the Cupolas leave as it was. -/

namespace Sys2Proof.Machine

/-! The event log. -/

@[simp] theorem State.logSlot_pos (s : State) (x : LogSlot) : (s.logSlot x).log.pos = s.log.pos + 1 := rfl

/-- An event takes one position of the log, and one more with its extension entry. -/
theorem State.event_pos (s : State) (code sev : Nat) (part : Option Nat) (detail : Nat) (ext : Option (List Byte)) :
    (s.event code sev part detail ext).log.pos = s.log.pos + (if ext.isSome then 2 else 1) := by
  unfold State.event
  cases ext <;> dsimp only <;> split <;> simp

/-! What lasts. -/

/-- What notices, freezes and reads through the Cupolas leave as it was: all but the log, the host's functions, and of the core
what is neither tile SRAM nor HBM. -/
def State.lasting (s : State) : State :=
  { s with core := { sram := s.core.sram, hbm := s.core.hbm, hbmBad := s.core.hbmBad }, log := {}, host := {} }

/-- What is read off the state's lasting part is the same wherever that part is. -/
theorem State.eq_of_lasting {γ : Type} (g : State → γ) (hg : ∀ a : State, g a.lasting = g a) {s t : State} (h : t.lasting = s.lasting) :
    g t = g s := by
  rw [← hg t, h, hg]

@[simp] theorem State.signal_lasting (s : State) (f v : Nat) : (s.signal f v).lasting = s.lasting := by
  unfold State.signal
  split <;> rfl

@[simp] theorem State.logSlot_lasting (s : State) (x : LogSlot) : (s.logSlot x).lasting = s.lasting := rfl

@[simp] theorem State.event_lasting (s : State) (code sev : Nat) (part : Option Nat) (detail : Nat) (ext : Option (List Byte)) :
    (s.event code sev part detail ext).lasting = s.lasting := by
  have log (a : State) (l : Log) : State.lasting { a with log := l } = a.lasting := rfl
  unfold State.event
  cases ext <;> dsimp only <;> split <;> simp [log]

@[simp] theorem State.frozenEvent_lasting (s : State) (p reason sp master detail ctx port addr window ns msgId : Nat) :
    (s.frozenEvent p reason sp master detail ctx port addr window ns msgId).lasting = s.lasting := by
  simp [State.frozenEvent]

@[simp] theorem State.setSpire_lasting (s : State) (k : Nat) (x : Spire) : (s.setSpire k x).lasting = s.lasting := rfl
@[simp] theorem State.onSpire_lasting (s : State) (k : Nat) (f : Spire → Spire) : (s.onSpire k f).lasting = s.lasting := rfl
@[simp] theorem State.onCtr_lasting (s : State) (k : Nat) (f : SpireCtr → SpireCtr) : (s.onCtr k f).lasting = s.lasting := rfl
@[simp] theorem State.onFn_lasting (s : State) (k : Nat) (g : Func → Func) : (s.onFn k g).lasting = s.lasting := rfl

theorem State.onCore_lasting (s : State) (f : Core → Core) (h : (f s.core).sram = s.core.sram) (hh : (f s.core).hbm = s.core.hbm)
    (hb : (f s.core).hbmBad = s.core.hbmBad) : (s.onCore f).lasting = s.lasting := by
  simp only [State.lasting, State.onCore, h, hh, hb]

@[simp] theorem State.post_lasting (s : State) (fn : Nat) (bs : List Byte) : (s.post fn bs).lasting = s.lasting := by
  unfold State.post
  dsimp only
  split <;> simp

@[simp] theorem State.respond_lasting (s : State) (fn m ty st : Nat) (b : List Byte) : (s.respond fn m ty st b).lasting = s.lasting :=
  State.post_lasting ..

@[simp] theorem State.finish_lasting (s : State) (fn m ty st : Nat) (b : List Byte) : (s.finish fn m ty st b).lasting = s.lasting := by
  simp [State.finish]

@[simp] theorem State.freeze_lasting (s : State) (sp master reason detail addr ctx window : Nat) :
    (s.freeze sp master reason detail addr ctx window).lasting = s.lasting := by
  unfold State.freeze
  split
  · rfl
  · dsimp only
    split
    · rfl
    · rw [State.frozenEvent_lasting]
      rfl

@[simp] theorem State.freezeAll_lasting (s : State) (p reason detail addr : Nat) : (s.freezeAll p reason detail addr).lasting = s.lasting :=
  foldl_keeps State.lasting _ (fun _ _ => State.freeze_lasting ..) _ _

@[simp] theorem State.noteReads_lasting (s : State) (sp : Nat) (reads : List (Nat × Nat × Nat)) (ctx : Nat) :
    (s.noteReads sp reads ctx).lasting = s.lasting := by
  unfold State.noteReads
  dsimp only
  split
  · rfl
  · split <;> simp

/-! Reads through the Cupolas. -/

@[simp] theorem State.setCupola_lasting (s : State) (h : Nat) (c : Cupola) : (s.setCupola h c).lasting = s.lasting := rfl

@[simp] theorem State.strike_lasting (s : State) (l : List CupolaUpset) : (s.strike l).lasting = s.lasting :=
  foldl_keeps State.lasting _ (fun _ _ => State.setCupola_lasting ..) _ _

@[simp] theorem State.countUe_lasting (s : State) (l : List Nat) : (s.countUe l).lasting = s.lasting :=
  foldl_keeps State.lasting _ (fun _ _ => State.onCore_lasting _ _ rfl rfl rfl) _ _

@[simp] theorem State.countBursts_lasting (s : State) (a : Nat) (b : BurstRec) : (s.countBursts a b).lasting = s.lasting := by
  unfold State.countBursts
  split <;> rfl

@[simp] theorem State.countEach_lasting (s : State) (l : List (Nat × BurstRec)) : (s.countEach l).lasting = s.lasting :=
  foldl_keeps State.lasting _ (fun _ _ => State.countBursts_lasting ..) _ _

@[simp] theorem State.meetSoft_lasting (s : State) (a n : Nat) : (s.meetSoft a n).lasting = s.lasting := by
  unfold State.meetSoft
  dsimp only
  split
  · rfl
  · exact (State.onCore_lasting _ _ rfl rfl rfl).trans (State.countEach_lasting ..)

@[simp] theorem State.belfryRead_lasting (s : State) (h a n : Nat) : (s.belfryRead h a n).2.lasting = s.lasting := by
  refine foldl_keeps (fun acc : Option Nat × State => acc.2.lasting) _ (fun acc line => ?_) _ _
  dsimp only
  split
  · rfl
  · split
    · simp
    · split <;> simp

@[simp] theorem State.calFetch_lasting (s : State) (h head at_ len : Nat) : (s.calFetch h head at_ len).2.lasting = s.lasting := by
  unfold State.calFetch
  dsimp only
  split <;> simp

@[simp] theorem State.loadPiece_lasting (part : PlanPart) (base : Nat) (s : State) (q : Nat) :
    (State.loadPiece part base s q).lasting = s.lasting := by
  unfold State.loadPiece
  dsimp only
  split
  · rfl
  · have h := s.belfryRead_lasting (halfOf part.spire) (base + part.off + q * 1024) (min 1024 (part.len - q * 1024))
    split <;> rename_i e <;> rw [e] at h <;> simpa using h

@[simp] theorem State.moveRing_lasting (s : State) (part : PlanPart) (base lo : Nat) : (s.moveRing part base lo).lasting = s.lasting := by
  unfold State.moveRing
  split
  · rfl
  · exact foldl_keeps State.lasting _ (fun _ _ => State.loadPiece_lasting ..) _ _

@[simp] theorem State.reload_lasting (s : State) (p : Nat) : (s.reload p).lasting = s.lasting := by
  refine foldl_keeps State.lasting _ (fun a sp => ?_) _ _
  split
  · simp
  · rfl

@[simp] theorem State.loadFixed_lasting (s : State) (plan : Plan) (sp head at_ len : Nat) :
    (s.loadFixed plan sp head at_ len).lasting = s.lasting := by
  unfold State.loadFixed
  split
  · rfl
  · rename_i part _
    have h := s.calFetch_lasting (halfOf sp) head at_ len
    dsimp only
    split <;> rename_i s1 e <;> rw [e] at h <;> dsimp only at h
    · simpa using h
    · split
      · exact h
      · have k := s1.belfryRead_lasting (halfOf sp) (plan.base + part.off) part.len
        split <;> rename_i e2 <;> rw [e2] at k <;> dsimp only at k <;> simp [k, h]

/-! Stops. -/

@[simp] theorem State.stopCalendars_lasting (s : State) (p : Nat) : (s.stopCalendars p).lasting = s.lasting := rfl

@[simp] theorem State.stopEngines_lasting (s : State) (p : Nat) : (s.stopEngines p).lasting = s.lasting :=
  foldl_keeps State.lasting _ (fun _ _ => State.onSpire_lasting ..) _ _

@[simp] theorem State.logStalls_lasting (s : State) (p : Nat) : (s.logStalls p).lasting = s.lasting :=
  foldl_keeps State.lasting _ (fun _ _ => State.event_lasting ..) _ _

/-! Mailboxes after notices and freezes. -/

/-- A message of an interrupt leaves every mailbox as it was. -/
@[simp] theorem State.signal_mbx (s : State) (f v k : Nat) : ((s.signal f v).fn k).mbx = (s.fn k).mbx := by
  unfold State.signal
  split
  · rfl
  · by_cases h : k = f
    · subst h
      rw [State.fn_onFn]
      dsimp only
      split
      · rfl
      · split <;> rfl
    · rw [State.fn_onFn_ne _ _ h]

@[simp] theorem State.event_mbx (s : State) (code sev : Nat) (part : Option Nat) (detail : Nat) (ext : Option (List Byte)) (k : Nat) :
    ((s.event code sev part detail ext).fn k).mbx = (s.fn k).mbx := by
  have log (a : State) (l : Log) : State.fn { a with log := l } k = a.fn k := rfl
  unfold State.event
  cases ext <;> dsimp only <;> split <;> simp [log]

@[simp] theorem State.freeze_mbx (s : State) (sp master reason detail addr ctx window k : Nat) :
    ((s.freeze sp master reason detail addr ctx window).fn k).mbx = (s.fn k).mbx := by
  unfold State.freeze
  split
  · rfl
  · dsimp only
    split
    · rfl
    · simp only [State.frozenEvent, State.signal_mbx, State.event_mbx]
      rfl

@[simp] theorem State.freezeAll_mbx (s : State) (p reason detail addr k : Nat) :
    ((s.freezeAll p reason detail addr).fn k).mbx = (s.fn k).mbx :=
  foldl_keeps (fun a : State => (a.fn k).mbx) _ (fun _ _ => State.freeze_mbx ..) _ _

@[simp] theorem State.logStalls_mbx (s : State) (p k : Nat) : ((s.logStalls p).fn k).mbx = (s.fn k).mbx :=
  foldl_keeps (fun a : State => (a.fn k).mbx) _ (fun _ _ => State.event_mbx ..) _ _

/-- Equal memories read equal, byte by byte. -/
theorem SameMemory.of_eq {s t : State} (sram : t.core.sram = s.core.sram) (hbm : t.core.hbm = s.core.hbm) (rom : t.rom = s.rom)
    (ports : t.ports = s.ports) (mail : ∀ k, (t.fn k).mbx = (s.fn k).mbx) : SameMemory s t where
  sram _ _ := by simp only [State.sramByte, sram]
  hbm _ := by simp only [State.hbmByte, hbm]
  flash _ := by rw [rom]
  image _ := by rw [rom]
  slots _ _ := by simp only [State.port, ports]
  mailboxes _ _ := by simp only [mail, and_self]

theorem SameMemory.of_lasting {s t : State} (h : t.lasting = s.lasting) (mail : ∀ k, (t.fn k).mbx = (s.fn k).mbx) : SameMemory s t :=
  .of_eq (State.eq_of_lasting (·.core.sram) (fun _ => rfl) h) (State.eq_of_lasting (·.core.hbm) (fun _ => rfl) h)
    (State.eq_of_lasting State.rom (fun _ => rfl) h) (State.eq_of_lasting State.ports (fun _ => rfl) h) mail

/-- The memories do not go by what the partitions hold. -/
theorem SameMemory.of_setPart {s t : State} {p : Nat} {x : Part} (h : SameMemory (s.setPart p x) t) : SameMemory s t :=
  ⟨h.sram, h.hbm, h.flash, h.image, h.slots, h.mailboxes⟩

end Sys2Proof.Machine
end

section
/-! SUPPORT. The decision of an edge, and the sources that come to it. -/

namespace Sys2Proof.Machine

theorem exec_tickInEdge (s : State) : exec .tickInEdge s = execTickInEdge s := rfl
theorem exec_tickInMissed (s : State) : exec .tickInMissed s = execTickInMissed s := rfl
theorem exec_internalTimerExpiry (s : State) : exec .internalTimerExpiry s = execInternalTimerExpiry s := rfl
theorem exec_tickRootDecide (s : State) : exec .tickRootDecide s = execTickRootDecide s := rfl

/-! Control records. -/

theorem portsOf_nodup (mask : Nat) : (portsOf mask).Nodup := List.nodup_range.filter _

/-- A control record sent to each port of a list without repetitions waits on those ports, and nothing else changes. -/
theorem foldl_sendCtrl (bs : List Byte) (since : Option Nat) {l : List Nat} (hl : l.Nodup) (s : State) :
    ∃ x, l.foldl (fun (a : State) k => a.sendCtrl k bs since) s = { s with ports := x } ∧
      ∀ i, (Tbl.get ({} : Port) i x).ctrl = (s.port i).ctrl ++ (if i ∈ l then [⟨bs, since⟩] else []) := by
  induction l generalizing s with
  | nil => exact ⟨s.ports, rfl, fun i => by simp [State.port]⟩
  | cons k l ih =>
    obtain ⟨hk, hl⟩ := List.nodup_cons.mp hl
    obtain ⟨x, e, hx⟩ := ih hl (s.sendCtrl k bs since)
    refine ⟨x, e, fun i => ?_⟩
    rw [hx, State.sendCtrl]
    by_cases h : i = k
    · subst h
      simp [hk]
    · rw [State.port_onPort_ne _ _ h]
      simp [h]

/-! Decisions. -/

/-- What a decision in a tick root changes: the ports and the tick. -/
theorem State.decideEdge_root {s : State} (h : s.cfg.isRoot = true) (cause : EdgeCause) (idle : Bool) (t0 : Nat) :
    ∃ x, s.decideEdge cause idle t0 = { s with
        ports := x
        tick := { s.tick with decided := t0, periodDone := false, due := some (cause, t0 + s.cfg.beaconDelay * unitsPerNs, idle), heard := s.time } } ∧
      ∀ i ∈ portsOf s.cfg.beaconDown, (Tbl.get ({} : Port) i x).ctrl =
        (s.port i).ctrl ++ [⟨beaconRecord 0 idle s.cfg.rootId 0 s.nextTick s.cfg.podId, some t0⟩] := by
  obtain ⟨x, e, hx⟩ := foldl_sendCtrl (beaconRecord 0 idle s.cfg.rootId 0 s.nextTick s.cfg.podId) (some t0)
    (portsOf_nodup s.cfg.beaconDown) s
  refine ⟨x, ?_, fun i hi => by rw [hx, if_pos hi]⟩
  unfold State.decideEdge
  dsimp only
  rw [if_pos h, e]

theorem State.decideEdge_alone {s : State} (h : s.cfg.isRoot = false) (cause : EdgeCause) (idle : Bool) (t0 : Nat) :
    s.decideEdge cause idle t0 = { s with tick := { s.tick with decided := t0, periodDone := false, due := some (cause, t0, idle) } } := by
  simp [State.decideEdge, h]

/-- What a decision leaves: the log, and of the tick all but what it decides. -/
theorem State.decideEdge_notes (s : State) (cause : EdgeCause) (idle : Bool) (t0 : Nat) :
    let t := s.decideEdge cause idle t0
    t.log = s.log ∧ t.tick.missedRun = s.tick.missedRun ∧ t.tick.missed = s.tick.missed ∧ t.tick.early = s.tick.early := by
  cases h : s.cfg.isRoot
  · rw [State.decideEdge_alone h]
    exact ⟨rfl, rfl, rfl, rfl⟩
  · obtain ⟨x, e, -⟩ := State.decideEdge_root h cause idle t0
    rw [e]
    exact ⟨rfl, rfl, rfl, rfl⟩

/-- What a note that comes before a decision leaves: all that the decision goes by, and what `EdgeDecided` says stays. -/
structure TickNoted (s t : State) : Prop where
  cfg : t.cfg = s.cfg
  count : t.tick.count = s.tick.count
  core : t.core = s.core
  parts : t.parts = s.parts
  rom : t.rom = s.rom
  store : t.store = s.store
  ports : t.ports = s.ports

theorem TickNoted.refl (s : State) : TickNoted s s := ⟨rfl, rfl, rfl, rfl, rfl, rfl, rfl⟩

/-- An edge decided after such a note is one decided in the state before it. -/
theorem TickNoted.decides {s a : State} (h : TickNoted s a) (cause : EdgeCause) (idle : Bool) (t0 : Nat) :
    EdgeDecided s (a.decideEdge cause idle t0) cause idle t0 := by
  cases hr : s.cfg.isRoot
  · rw [State.decideEdge_alone (h.cfg ▸ hr)]
    exact ⟨by simp [hr], fun _ => ⟨rfl, h.ports⟩, ⟨rfl, rfl, h.count⟩, h.core, h.parts, h.rom, h.store⟩
  · obtain ⟨x, e, hx⟩ := State.decideEdge_root (h.cfg ▸ hr) cause idle t0
    have hnext : a.nextTick = s.nextTick := by simp only [State.nextTick, h.count]
    have hport (i : Nat) : a.port i = s.port i := by simp only [State.port, h.ports]
    simp only [h.cfg, hnext, hport] at hx
    rw [e]
    exact ⟨fun _ => ⟨by rw [h.cfg], hx⟩, by simp [hr], ⟨rfl, rfl, h.count⟩, h.core, h.parts, h.rom, h.store⟩

/-- The end of the source's period in store class decides the edge. -/
theorem State.sourceEdge_store {s : State} (h : s.cfg.pod = false) (cause : EdgeCause) (t0 : Nat) :
    s.sourceEdge cause t0 = s.decideEdge cause false t0 := by
  simp [State.sourceEdge, h]

/-- In pod class it waits for the barrier. -/
theorem State.sourceEdge_pod {s : State} {n : Nat} (h : s.cfg.pod = true) (hn : s.tick.count = some n) (cause : EdgeCause) (t0 : Nat) :
    s.sourceEdge cause t0 = if s.barrierClosed then s.decideEdge .root (s.tick.idleAsked || s.tick.idleReq) t0
      else { s with tick := { s.tick with periodDone := true } } := by
  simp [State.sourceEdge, h, hn]

/-! The pin. -/

/-- What the end of a run of missed edges notes. -/
def State.missesEnded (s : State) : State :=
  if s.tick.missedRun = 0 then s
  else { s.event 0x0102 1 none (s.tick.missedRun % 2 ^ 32) with tick := { s.tick with missedRun := 0 } }

theorem State.missesEnded_noted (s : State) : TickNoted s s.missesEnded := by
  unfold State.missesEnded
  split
  · exact .refl s
  · constructor <;> simp

theorem State.missesEnded_tick (s : State) : s.missesEnded.tick = { s.tick with missedRun := 0 } := by
  unfold State.missesEnded
  split
  · rename_i h
    rw [← h]
  · rfl

theorem State.missesEnded_pos (s : State) : s.missesEnded.log.pos = s.log.pos + (if s.tick.missedRun = 0 then 0 else 1) := by
  unfold State.missesEnded
  split
  · rfl
  · exact State.event_pos ..

theorem execTickInEdge_early {s : State} {n : Nat} (ht : s.ticking = true) (hf : s.cfg.follows = false) (hs : s.cfg.tickSource = .tickIn)
    (hn : s.tick.count = some n) (h : s.time - s.tick.decided < s.periodPart 995) :
    execTickInEdge s = .next { s with tick := { s.tick with early := sat32 s.tick.early 1 } } := by
  simp [execTickInEdge, ht, hf, hs, hn, h]

theorem execTickInEdge_taken {s : State} (ht : s.ticking = true) (hf : s.cfg.follows = false) (hs : s.cfg.tickSource = .tickIn)
    (hd : s.tick.due = none) (hp : s.tick.periodDone = false) (h : s.tick.count = none ∨ s.periodPart 995 ≤ s.time - s.tick.decided) :
    execTickInEdge s = .next (s.missesEnded.sourceEdge .tickIn s.time) := by
  have late : ¬((s.tick.count.isSome = true ∨ s.tick.due.isSome = true) ∧ s.time - s.tick.decided < s.periodPart 995) := by
    rintro ⟨hc, hl⟩
    rcases h with h | h
    · simp [h, hd] at hc
    · omega
  unfold execTickInEdge
  rw [if_neg (by simp [ht, hf, hs]), if_neg late, if_neg (by simp [hd, hp])]
  rfl

theorem execTickInMissed_early {s : State} (h : s.reached (s.tick.decided + s.periodPart 1005) = false) :
    execTickInMissed s = .next s := by
  simp [execTickInMissed, h]

/-- What a missed edge notes. -/
def State.missNoted (s : State) : State :=
  ({ s with tick := { s.tick with missed := sat32 s.tick.missed 1, missedRun := s.tick.missedRun + 1 } }).event
    0x0101 2 none ((s.tick.missedRun + 1) % 2 ^ 32)

theorem State.missNoted_noted (s : State) : TickNoted s s.missNoted := by
  constructor <;> simp [State.missNoted]

theorem execTickInMissed_made {s : State} {n : Nat} (ht : s.ticking = true) (hf : s.cfg.follows = false) (hs : s.cfg.tickSource = .tickIn)
    (hd : s.tick.due = none) (hp : s.tick.periodDone = false) (hn : s.tick.count = some n)
    (h : s.reached (s.tick.decided + s.periodPart 1005) = true) :
    execTickInMissed s = .next (s.missNoted.sourceEdge .missed (s.tick.decided + s.periodPart 1005)) := by
  unfold execTickInMissed
  rw [if_neg (by simp [ht, hf, hs, hd, hp, hn, h])]
  rfl

/-! The timers. -/

/-- The state in which the timer decides: it keeps the correction of its period. -/
def State.rateNoted (s : State) : State :=
  { s with tick := { s.tick with ptmRate := if s.cfg.tickSource = TickSource.ptm then s.ptmCorrection else s.tick.ptmRate } }

theorem execInternalTimerExpiry_made {s : State} {t0 : Nat} (ht : s.ticking = true) (hf : s.cfg.follows = false) (hd : s.tick.due = none)
    (hp : s.tick.periodDone = false) (hm : s.timerMoment = some t0) (h : s.reached t0 = true) :
    execInternalTimerExpiry s = .next (s.rateNoted.sourceEdge .timer t0) := by
  unfold execInternalTimerExpiry
  rw [if_neg (by simp [ht, hf, hd, hp])]
  simp only [State.timerDone, hm, Option.filter_some, h, if_true]
  rfl

theorem execInternalTimerExpiry_early {s : State} {t0 : Nat} (hm : s.timerMoment = some t0) (h : s.reached t0 = false) :
    execInternalTimerExpiry s = .next s := by
  unfold execInternalTimerExpiry
  split
  · rfl
  · simp [State.timerDone, hm, Option.filter_some, h]

theorem le_ceilDiv_mul (n : Nat) {d : Nat} (hd : 0 < d) : n ≤ ceilDiv n d * d ∧ ceilDiv n d * d < n + d := by
  have h := Nat.div_add_mod (n + d - 1) d
  have hm := Nat.mod_lt (n + d - 1) hd
  rw [Nat.mul_comm] at h
  unfold ceilDiv
  omega

/-- The first count of the reference from a moment on comes less than one count after it. -/
theorem State.refCount_bounds {s : State} {t : Nat} (h : s.resetAt ≤ t) : t ≤ s.refCount t ∧ s.refCount t < t + refUnits := by
  have hc := le_ceilDiv_mul (t - s.resetAt) (d := refUnits) (by decide)
  unfold State.refCount
  omega

/-- A PTM correction stays within 200 ppm of the period. -/
theorem State.ptmCorrection_bounds {s : State} (h : s.tick.ptmLostLogged = false) :
    -((s.periodUnits * 200 / 1000000 : Nat) : Int) ≤ s.ptmCorrection ∧ s.ptmCorrection ≤ ((s.periodUnits * 200 / 1000000 : Nat) : Int) := by
  unfold State.ptmCorrection
  rw [h]
  dsimp only [Bool.false_eq_true, if_false]
  simp only [Bool.false_eq_true, if_false]
  omega

theorem State.timerMoment_internal {s : State} {n t0 : Nat} (hn : s.tick.count = some n) (hr : s.resetAt ≤ s.tick.decided)
    (hs : s.cfg.tickSource = .internal) (hm : s.timerMoment = some t0) :
    s.tick.decided + s.periodUnits ≤ t0 ∧ t0 < s.tick.decided + s.periodUnits + refUnits := by
  simp only [State.timerMoment, hs, hn, Option.some.injEq] at hm
  subst hm
  exact State.refCount_bounds (by omega)

theorem State.timerMoment_ptm {s : State} {n t0 : Nat} (hn : s.tick.count = some n) (hs : s.cfg.tickSource = .ptm)
    (hl : s.tick.ptmLostLogged = false) (hm : s.timerMoment = some t0) :
    s.tick.decided + s.periodUnits ≤ t0 + s.periodUnits * 200 / 1000000 ∧
      t0 ≤ s.tick.decided + s.periodUnits + s.periodUnits * 200 / 1000000 := by
  simp only [State.timerMoment, hs, hn, Option.ite_none_right_eq_some, Option.some.injEq] at hm
  obtain ⟨-, rfl⟩ := hm
  have hc := State.ptmCorrection_bounds hl
  omega

/-! Pod class. -/

/-- What is missing from a number to the next multiple of a period. -/
theorem dvd_missing_add (y : Nat) {P : Nat} (hP : 0 < P) : P ∣ (P - y % P) % P + y := by
  have hm := Nat.mod_lt y hP
  have h := Nat.div_add_mod y P
  have e : P - y % P + y = P * (y / P + 1) := by rw [Nat.mul_add, Nat.mul_one]; omega
  rw [Nat.dvd_iff_mod_eq_zero, Nat.mod_add_mod, e, Nat.mul_mod_right]

/-- Timestamps under a PTM offset that is not negative run on with time. -/
theorem State.nsAt_add {s : State} (h : s.resetAt ≤ s.time) (ho : 0 ≤ s.tick.ptmOffset) (d : Nat) :
    s.nsAt (s.time + d * unitsPerNs) = s.nsAt s.time + d := by
  have e : (s.time + d * unitsPerNs - s.resetAt) / unitsPerNs = (s.time - s.resetAt) / unitsPerNs + d := by
    rw [Nat.sub_add_comm h, Nat.add_mul_div_right _ _ (by decide)]
  unfold State.nsAt
  dsimp only
  rw [e]
  generalize (s.time - s.resetAt) / unitsPerNs = k
  split <;> omega

theorem State.phaseMoment_ptm {s : State} (hs : s.cfg.tickSource = .ptm) (hP : 0 < s.cfg.periodUs) (hr : s.resetAt ≤ s.time)
    (ho : 0 ≤ s.tick.ptmOffset) :
    s.time ≤ s.phaseMoment ∧
      s.cfg.periodUs * 1000 ∣ s.nsAt s.phaseMoment + (s.cfg.periodUs * 1000 - s.cfg.ptmPhaseNs % (s.cfg.periodUs * 1000)) := by
  have hP : 0 < s.cfg.periodUs * 1000 := by omega
  have ho2 := Nat.mod_lt s.cfg.ptmPhaseNs hP
  unfold State.phaseMoment
  rw [if_pos hs]
  refine ⟨Nat.le_add_right _ _, ?_⟩
  rw [State.nsAt_add hr ho]
  have h := dvd_missing_add (s.nsAt s.time + s.cfg.periodUs * 1000 - s.cfg.ptmPhaseNs % (s.cfg.periodUs * 1000)) hP
  generalize s.cfg.periodUs * 1000 = P at *
  generalize s.cfg.ptmPhaseNs % P = o at *
  have e : s.nsAt s.time + P - o = s.nsAt s.time + (P - o) := by omega
  rw [e] at h ⊢
  rwa [Nat.add_comm, Nat.add_right_comm] at h

theorem execTickRootDecide_first {s : State} (ht : s.ticking = true) (hp : s.cfg.pod = true) (hf : s.cfg.follows = false)
    (hd : s.tick.due = none) (hl : s.cfg.tickSource = .ptm → s.tick.ptmLock = true) (hn : s.tick.count = none)
    (hb : ∀ i ∈ portsOf s.cfg.beaconDown, bit1 s.tick.bootDone i = true) :
    execTickRootDecide s = .next (if s.reached s.phaseMoment then s.decideEdge .root false s.phaseMoment else s) := by
  unfold execTickRootDecide
  rw [if_neg (by simpa [ht, hp, hf, hd] using hl), hn]
  dsimp only
  rw [List.all_eq_true.mpr hb]
  cases s.reached s.phaseMoment <;> rfl

theorem execTickRootDecide_next {s : State} {n : Nat} (ht : s.ticking = true) (hp : s.cfg.pod = true) (hf : s.cfg.follows = false)
    (hd : s.tick.due = none) (hl : s.cfg.tickSource = .ptm → s.tick.ptmLock = true) (hn : s.tick.count = some n)
    (hpd : s.tick.periodDone = true) (hb : s.barrierClosed = true) :
    execTickRootDecide s = .next (s.decideEdge .root (s.tick.idleAsked || s.tick.idleReq) s.time) := by
  unfold execTickRootDecide
  rw [if_neg (by simpa [ht, hp, hf, hd] using hl), hn]
  simp [hpd, hb]

theorem State.barrierClosed_iff (s : State) : s.barrierClosed = true ↔
    s.tick.ownDone = true ∧ (∀ i ∈ portsOf s.cfg.beaconDown, bit1 s.tick.doneFrom i = true) ∧ s.power.shut = .none := by
  simp [State.barrierClosed, and_assoc]

theorem execTickRootDecide_open {s : State}
    (h : ∃ i ∈ portsOf s.cfg.beaconDown, bit1 s.tick.doneFrom i = false ∧ bit1 s.tick.bootDone i = false) :
    execTickRootDecide s = .next s := by
  obtain ⟨i, hi, hd, hb⟩ := h
  have boot : (portsOf s.cfg.beaconDown).all (fun i => bit1 s.tick.bootDone i) = false :=
    List.all_eq_false.mpr ⟨i, hi, by simp [hb]⟩
  have closed : s.barrierClosed = false := by
    rw [← Bool.not_eq_true, State.barrierClosed_iff]
    rintro ⟨-, h, -⟩
    simp [h i hi] at hd
  unfold execTickRootDecide
  split
  · rfl
  · cases s.tick.count with
    | none => simp [boot]
    | some n => simp [closed]

/-- Settles O45: every source comes to one decision, after a note that leaves what the decision goes by. -/
theorem tickSources : Obligations.TickSources := by
  intro s ht hf down idle
  simp only [exec_tickInEdge, exec_tickInMissed, exec_internalTimerExpiry, exec_tickRootDecide]
  refine ⟨fun hs n hn h => execTickInEdge_early ht hf hs hn h, fun hd hp => ⟨fun hs h => ?_, fun hs hc n hn => ?_, fun hc t0 hm => ?_⟩,
    fun hc hd hl => ⟨fun hn hb => ?_, fun n hn hpd ho hb hsh => ?_, execTickRootDecide_open⟩⟩
  · rw [execTickInEdge_taken ht hf hs hd hp h]
    refine ⟨fun hc => ?_, fun hc hm n hn => ?_⟩
    · rw [State.sourceEdge_store (s.missesEnded_noted.cfg ▸ hc)]
      obtain ⟨hlog, hrun, -, hearly⟩ := s.missesEnded.decideEdge_notes .tickIn false s.time
      rw [State.missesEnded_tick] at hrun hearly
      exact ⟨_, rfl, s.missesEnded_noted.decides .., hrun, hearly, by rw [hlog, State.missesEnded_pos]⟩
    · have same : s.missesEnded = s := if_pos hm
      rw [same, State.sourceEdge_pod hc hn]
      refine ⟨fun hb => ?_, fun hb => ?_⟩
      · rw [if_pos hb]
        exact ⟨_, rfl, (TickNoted.refl s).decides ..⟩
      · rw [hb]
        rfl
  · refine ⟨fun hr => ?_, execTickInMissed_early⟩
    rw [execTickInMissed_made ht hf hs hd hp hn hr, State.sourceEdge_store (s.missNoted_noted.cfg ▸ hc)]
    obtain ⟨hlog, hrun, hmissed, -⟩ := s.missNoted.decideEdge_notes .missed false (s.tick.decided + s.periodPart 1005)
    rw [State.missNoted, State.event_tick] at hrun hmissed
    exact ⟨_, rfl, s.missNoted_noted.decides .., hmissed, hrun, by rw [hlog]; exact State.event_pos ..⟩
  · refine ⟨fun hr => ?_, execInternalTimerExpiry_early hm, fun n hn hr =>
      ⟨fun hs => State.timerMoment_internal hn hr hs hm, fun hs hl => State.timerMoment_ptm hn hs hl hm⟩⟩
    have noted : TickNoted s s.rateNoted := ⟨rfl, rfl, rfl, rfl, rfl, rfl, rfl⟩
    rw [execInternalTimerExpiry_made ht hf hd hp hm hr, State.sourceEdge_store (s := s.rateNoted) hc]
    exact ⟨_, rfl, noted.decides .., (s.rateNoted.decideEdge_notes .timer false t0).1⟩
  · rw [execTickRootDecide_first ht hc hf hd hl hn hb]
    refine ⟨fun hs => if_neg hs, fun hs hP hr _ ho => State.phaseMoment_ptm hs hP hr ho, fun hr => ?_, fun hr => ?_⟩
    · rw [if_pos hr]
      exact ⟨_, rfl, (TickNoted.refl s).decides ..⟩
    · rw [hr]
      rfl
  · rw [execTickRootDecide_next ht hc hf hd hl hn hpd (s.barrierClosed_iff.mpr ⟨ho, hb, hsh⟩)]
    exact ⟨_, rfl, (TickNoted.refl s).decides ..⟩

end Sys2Proof.Machine
end

section
/-! SUPPORT. PTM exchanges, pod stalls and the stall sentinel. -/

namespace Sys2Proof.Machine

/-! PTM. -/

theorem exec_ptmExchange (ok : Bool) (ns : W64) (err : Int) (s : State) : exec (.ptmExchange ok ns err) s = execPtmExchange ok ns err s := rfl
theorem exec_ptmLost (s : State) : exec .ptmLost s = execPtmLost s := rfl
theorem exec_podStall (w : List (BitVec 8 × BitVec 16)) (s : State) : exec (.podStall w) s = execPodStall w s := rfl
theorem exec_podStallSentinel (p : Fin 16) (s : State) : exec (.podStallSentinel p) s = execPodStallSentinel p s := rfl

/-- What a successful exchange gives the tick. -/
def State.ptmTaken (s : State) (ns : W64) : State := { s with tick := { s.tick with
  ptmRunAt := some s.time, ptmLock := true, ptmAt := s.time, ptmOffset := (ns.toNat : Int) - s.nsSinceReset, ptmLostLogged := false } }

/-- After a successful exchange the present time on the base of timestamps is the PTM time. -/
theorem State.ptmTaken_nowNs {s : State} (ns : W64) (hs : s.cfg.tickSource = .ptm) (hf : s.cfg.follows = false) :
    (s.ptmTaken ns).nowNs = ns.toNat := by
  simp [State.nowNs, State.nsAt, State.ptmTaken, State.nsSinceReset, hs, hf]

@[simp] theorem State.event_nowNs (s : State) (code sev : Nat) (part : Option Nat) (detail : Nat) (ext : Option (List Byte)) :
    (s.event code sev part detail ext).nowNs = s.nowNs := by
  simp [State.nowNs, State.nsAt]

theorem execPtmExchange_success {s : State} (ns : W64) (err : Int) (hs : s.cfg.tickSource = .ptm) (hf : s.cfg.follows = false)
    (hb : s.boot.complete = true) (hp : s.host.ptmEnable = true) (hd : s.ptmDue = true) :
    execPtmExchange true ns err s = .next (if s.tick.ptmLostLogged then
      (s.ptmTaken ns).event 0x0104 1 none ((s.ptmTaken ns).ptmPhaseError % 2 ^ 32).toNat else s.ptmTaken ns) := by
  simp [execPtmExchange, State.ptmTaken, hs, hf, hb, hp, hd]

/-! Pod stalls. -/

/-- What a further stretch limit logs: the devices that have not published, each with its partitions. -/
def State.stallers (s : State) (waiting : List (BitVec 8 × BitVec 16)) : List (Nat × Nat) :=
  (if s.unpublished = 0 then [] else [(s.cfg.deviceId, s.unpublished)])
    ++ (waiting.filter (fun d => decide (d.1.toNat ≠ s.cfg.deviceId))).map (fun d => (d.1.toNat, d.2.toNat))

theorem State.stallers_length (s : State) (waiting : List (BitVec 8 × BitVec 16)) : (s.stallers waiting).length =
    (if s.unpublished = 0 then 0 else 1) + (waiting.filter (fun d => decide (d.1.toNat ≠ s.cfg.deviceId))).length := by
  unfold State.stallers
  split <;> simp [Nat.add_comm]

/-- Events logged one after the other, each without an extension entry. -/
theorem foldl_event_pos {β : Type} (code sev : Nat) (part : Option Nat) (detail : β → Nat) (l : List β) (s : State) :
    (l.foldl (fun (a : State) d => a.event code sev part (detail d)) s).log.pos = s.log.pos + l.length := by
  induction l generalizing s with
  | nil => rfl
  | cons d l ih => rw [List.foldl_cons, ih, State.event_pos, List.length_cons]; simp only [Option.isSome_none, Bool.false_eq_true, if_false]; omega

theorem execPodStall_due {s : State} (waiting : List (BitVec 8 × BitVec 16)) {n : Nat} (ht : s.ticking = true) (hp : s.cfg.pod = true)
    (hf : s.cfg.follows = false) (hn : s.tick.count = some n) (hd : s.tick.due = none)
    (h : s.tick.decided + s.periodUnits + (s.tick.stalls + 1) * s.stretchUnits < s.time) :
    execPodStall waiting s = .next (if (s.stallers waiting).isEmpty then s else
      ((s.stallers waiting).foldl (fun (a : State) d => a.event 0x0109 3 none (d.1 + d.2 * 2 ^ 8))
        { s with tick := { s.tick with stalls := s.tick.stalls + 1 } }).signal pfFn 2) := by
  have hle : ¬s.time ≤ s.tick.decided + s.periodUnits + (s.tick.stalls + 1) * s.stretchUnits := by omega
  unfold execPodStall
  rw [if_neg (by simp [ht, hp, hf, hn, hd, hle])]
  rw [apply_ite Host.Outcome.next]
  rfl

/-! The stall sentinel. -/

@[simp] theorem State.setPart_spire (s : State) (p k : Nat) (x : Part) : (s.setPart p x).spire k = s.spire k := rfl
@[simp] theorem State.setPart_owner (s : State) (p k : Nat) (x : Part) : (s.setPart p x).owner k = s.owner k := rfl

/-- A field of every partition, where one is replaced by another with the same field. -/
theorem State.setPart_field {γ : Type} (g : Part → γ) (s : State) {p : Nat} {x : Part} (h : g x = g (s.part p)) (q : Nat) :
    g ((s.setPart p x).part q) = g (s.part q) := by
  by_cases e : q = p
  · rw [e, State.part_setPart, h]
  · rw [State.part_setPart_ne _ _ e]

/-- What a Spire waits at goes by the plans, counts and generations of the partitions alone. -/
theorem State.blocked_setPart (s : State) {p : Nat} {x : Part} (hp : x.plan = (s.part p).plan) (hc : x.ccyc = (s.part p).ccyc)
    (hw : x.windowTick = (s.part p).windowTick) (q : Nat) : (s.setPart p x).blocked q = s.blocked q := by
  have plan := s.setPart_field Part.plan hp
  have ccyc := s.setPart_field Part.ccyc hc
  have window := s.setPart_field Part.windowTick hw
  have count (sp : Nat) : (s.setPart p x).countOf sp = s.countOf sp := by simp only [State.countOf, State.setPart_owner, ccyc]
  have stale (sp k : Nat) (h : W32) : (s.setPart p x).staleFor sp k h = s.staleFor sp k h := by
    simp only [State.staleFor, State.generation, State.setPart_owner, plan, window]
  have unused (sp k : Nat) : (s.setPart p x).unusedQueue sp k = s.unusedQueue sp k := by
    simp only [State.unusedQueue, State.setPart_owner, plan]
  have head (sp c : Nat) : (s.setPart p x).headPasses sp c = s.headPasses sp c := by
    simp only [State.headPasses, State.setPart_spire, count, stale, unused] <;> rfl
  have fetch (sp c : Nat) : (s.setPart p x).fetchWait q sp c = s.fetchWait q sp c := by
    simp only [State.fetchWait, State.holdsFetch, State.inBuffer, State.setPart_spire, plan, ccyc] <;> rfl
  funext sp
  have wait (c : Nat) : (s.setPart p x).ctxWait q sp c = s.ctxWait q sp c := by
    simp only [State.ctxWait, State.setPart_spire, ccyc, head, fetch] <;> rfl
  simp only [State.blocked, State.allWait, State.closed, State.setPart_spire, plan, wait]

/-- Every blocked Spire of a partition takes two positions of the log. -/
theorem State.logStalls_pos (s : State) (p : Nat) :
    (s.logStalls p).log.pos = s.log.pos + 2 * ((s.planSpires p).filter (s.blocked p)).length := by
  have fold (f : Nat → Nat) (g : Nat → List Byte) (l : List Nat) (a : State) :
      (l.foldl (fun (a : State) sp => a.event 0x010C 3 (some p) (f sp) (some (g sp))) a).log.pos = a.log.pos + 2 * l.length := by
    induction l generalizing a with
    | nil => rfl
    | cons d l ih => rw [List.foldl_cons, ih, State.event_pos, List.length_cons]; simp only [Option.isSome_some, if_true]; omega
  exact fold _ _ _ _

@[simp] theorem State.logStalls_core (s : State) (p : Nat) : (s.logStalls p).core = s.core :=
  foldl_keeps State.core _ (fun _ _ => State.event_core ..) _ _

/-! Freezes. -/

@[simp] theorem Spire.stopUnit_frozen (x : Spire) (u : Nat) : (x.stopUnit u).frozen = x.frozen := rfl
@[simp] theorem Spire.stopAllUnits_frozen (x : Spire) : x.stopAllUnits.frozen = x.frozen := by
  simp only [Spire.stopAllUnits, List.foldl_cons, List.foldl_nil, Spire.stopUnit_frozen]

@[simp] theorem Spire.record_frozen (x : Spire) (master reason ctx detail ccyc tick : Nat) (mask : BitVec 6) :
    (x.record master reason ctx detail ccyc tick mask).frozen = x.frozen ||| mask := by
  unfold Spire.record
  dsimp only
  split <;> rfl

theorem bit1_allMasters (x : BitVec 6) : bit1 (x ||| 0x3F#6) 0 = true := by
  revert x
  decide

@[simp] theorem State.frozenEvent_spire (s : State) (p reason sp master detail ctx port addr window ns msgId k : Nat) :
    (s.frozenEvent p reason sp master detail ctx port addr window ns msgId).spire k = s.spire k := by
  simp only [State.frozenEvent, State.spire, State.signal_core, State.event_core]

theorem State.onCore_spire (s : State) {f : Core → Core} (h : (f s.core).spires = s.core.spires) (k : Nat) :
    (s.onCore f).spire k = s.spire k := by
  simp only [State.spire, State.onCore, h]

/-- A freeze changes its own Spire alone. -/
theorem State.freeze_spire_ne (s : State) {k sp : Nat} (h : k ≠ sp) (master reason detail addr ctx window : Nat) :
    (s.freeze sp master reason detail addr ctx window).spire k = s.spire k := by
  unfold State.freeze
  split
  · rfl
  · dsimp only
    split
    · rfl
    · rw [State.frozenEvent_spire, State.onCore_spire _ rfl, State.spire_setSpire_ne _ _ h]

/-- A Spire of a partition that is in no reset is frozen by a freeze of its sequencer. -/
theorem State.freeze_frozen {s : State} {sp p : Nat} (ho : s.owner sp = some p) (hr : (s.part p).reset = .none)
    (reason detail addr ctx window : Nat) : bit1 ((s.freeze sp 0 reason detail addr ctx window).spire sp).frozen 0 = true := by
  unfold State.freeze
  rw [ho]
  dsimp only
  split
  · rename_i h
    exact h.resolve_right (fun k => k hr)
  · rw [State.frozenEvent_spire, State.onCore_spire _ rfl, State.spire_setSpire]
    simp only [if_true, Spire.stopAllUnits_frozen, Spire.record_frozen]
    exact bit1_allMasters _

/-- A freeze of any sequencer keeps a frozen one frozen. -/
theorem State.freeze_keeps_frozen {s : State} {k : Nat} (h : bit1 (s.spire k).frozen 0 = true) (sp reason detail addr ctx window : Nat) :
    bit1 ((s.freeze sp 0 reason detail addr ctx window).spire k).frozen 0 = true := by
  by_cases e : k = sp
  · subst e
    have same : s.freeze k 0 reason detail addr ctx window = s := by
      unfold State.freeze
      split
      · rfl
      · dsimp only
        rw [if_pos (Or.inl h)]
    rw [same, h]
  · rw [State.freeze_spire_ne _ e, h]

/-- Freezing every Spire of a partition that is in no reset freezes each of them. -/
theorem State.freezeAll_frozen {s : State} {p sp : Nat} (hr : (s.part p).reset = .none) (ho : ∀ k ∈ s.spiresOf p, s.owner k = some p)
    (h : sp ∈ s.spiresOf p) (reason detail addr : Nat) : bit1 ((s.freezeAll p reason detail addr).spire sp).frozen 0 = true := by
  obtain ⟨l, r, e⟩ := List.append_of_mem h
  unfold State.freezeAll
  rw [e, List.foldl_append, List.foldl_cons]
  refine List.foldlRecOn (motive := fun a : State => bit1 (a.spire sp).frozen 0 = true) r _ ?_ (fun a ha k _ => State.freeze_keeps_frozen ha ..)
  have hl : (l.foldl (fun (a : State) k => a.freeze k 0 reason detail addr) s).lasting = s.lasting :=
    foldl_keeps State.lasting _ (fun _ _ => State.freeze_lasting ..) l s
  exact State.freeze_frozen ((State.eq_of_lasting (·.owner sp) (fun _ => rfl) hl).trans (ho sp h)) (State.eq_of_lasting (·.part p) (fun _ => rfl) hl ▸ hr) ..

/-- The sentinel of a partition that is not stalled forgets any stall. -/
theorem execPodStallSentinel_runs {s : State} {p : Fin 16}
    (h : s.cfg.pod = false ∨ (s.part p.val).phase ≠ .run ∨ s.stalled p.val = false) :
    execPodStallSentinel p s = .next (s.setPart p.val { s.part p.val with stalledSince := none, stalledFor := 0 }) := by
  unfold execPodStallSentinel
  rw [if_pos (by simpa using h)]

/-- The sentinel of a partition that has been stalled since `a`, for `n` whole periods. -/
theorem execPodStallSentinel_stalled {s : State} {p : Fin 16} {a n : Nat} (hp : s.cfg.pod = true) (hr : (s.part p.val).phase = .run)
    (hs : s.stalled p.val = true) (hu : s.periodUnits ≠ 0) (ha : (s.part p.val).stalledSince.getD s.time = a)
    (hn : (s.time - a) / s.periodUnits = n) :
    let s1 := s.setPart p.val { s.part p.val with stalledSince := some a, stalledFor := min n 1 }
    let s2 := if n ≥ 1 ∧ (s.part p.val).stalledFor = 0 then s1.logStalls p.val else s1
    execPodStallSentinel p s = .next (if n ≥ 3 then s2.freezeAll p.val 0x0C 0 0 else s2) := by
  subst hn ha
  unfold execPodStallSentinel
  rw [if_neg (by simp [hp, hr, hs])]
  simp only [if_neg hu]

/-- The sentinel logs a stall of a whole period once. -/
theorem execPodStallSentinel_one {s : State} {p : Fin 16} {a : Nat} (hp : s.cfg.pod = true) (hr : (s.part p.val).phase = .run)
    (hs : s.stalled p.val = true) (hu : s.periodUnits ≠ 0) (ha : (s.part p.val).stalledSince = some a)
    (hf : (s.part p.val).stalledFor = 0) (h1 : s.periodUnits ≤ s.time - a) (h3 : s.time - a < 3 * s.periodUnits) :
    execPodStallSentinel p s = .next ((s.setPart p.val { s.part p.val with stalledFor := 1 }).logStalls p.val) := by
  have lo : 1 ≤ (s.time - a) / s.periodUnits := (Nat.one_le_div_iff (Nat.pos_of_ne_zero hu)).mpr h1
  have hi : ¬(s.time - a) / s.periodUnits ≥ 3 := Nat.not_le.mpr ((Nat.div_lt_iff_lt_mul (Nat.pos_of_ne_zero hu)).mpr h3)
  have hx : { s.part p.val with stalledSince := some a, stalledFor := 1 } = { s.part p.val with stalledFor := 1 } := by rw [← ha]
  rw [execPodStallSentinel_stalled (a := a) hp hr hs hu (by rw [ha]; rfl) rfl, if_neg hi, if_pos ⟨lo, hf⟩, Nat.min_eq_right lo, hx]

/-- The sentinel freezes every Spire of a partition that has been stalled for three periods. -/
theorem execPodStallSentinel_three {s : State} {p : Fin 16} {a : Nat} (hp : s.cfg.pod = true) (hr : (s.part p.val).phase = .run)
    (hs : s.stalled p.val = true) (hu : s.periodUnits ≠ 0) (ha : (s.part p.val).stalledSince = some a)
    (h3 : 3 * s.periodUnits ≤ s.time - a) :
    ∃ s1 s2, s1 = s.setPart p.val { s.part p.val with stalledFor := 1 } ∧ (s2 = s1 ∨ s2 = s1.logStalls p.val) ∧
      execPodStallSentinel p s = .next (s2.freezeAll p.val 0x0C 0 0) := by
  have lo : 3 ≤ (s.time - a) / s.periodUnits := (Nat.le_div_iff_mul_le (Nat.pos_of_ne_zero hu)).mpr h3
  have hx : { s.part p.val with stalledSince := some a, stalledFor := 1 } = { s.part p.val with stalledFor := 1 } := by rw [← ha]
  rw [execPodStallSentinel_stalled (a := a) hp hr hs hu (by rw [ha]; rfl) rfl, if_pos lo, Nat.min_eq_right (by omega), hx]
  refine ⟨_, _, rfl, ?_, rfl⟩
  split
  · exact .inr rfl
  · exact .inl rfl

/-- A further stretch limit is logged for each device that has not published, and nothing else happens. -/
theorem execPodStall_logs {s : State} {waiting : List (BitVec 8 × BitVec 16)} {n : Nat} (ht : s.ticking = true) (hp : s.cfg.pod = true)
    (hf : s.cfg.follows = false) (hn : s.tick.count = some n) (hd : s.tick.due = none)
    (h : s.tick.decided + s.periodUnits + (s.tick.stalls + 1) * s.stretchUnits < s.time) :
    ((s.stallers waiting).length = 0 → execPodStall waiting s = .next s) ∧
      ((s.stallers waiting).length ≠ 0 → ∃ t, execPodStall waiting s = .next t ∧ t.tick = { s.tick with stalls := s.tick.stalls + 1 } ∧
        t.log.pos = s.log.pos + (s.stallers waiting).length ∧ t.core = s.core ∧ t.parts = s.parts) := by
  rw [execPodStall_due waiting ht hp hf hn hd h]
  refine ⟨fun hm => ?_, fun hm => ?_⟩
  · rw [if_pos (List.isEmpty_iff_length_eq_zero.mpr hm)]
  · rw [if_neg (fun he => hm (List.isEmpty_iff_length_eq_zero.mp he))]
    refine ⟨_, rfl, ?_, ?_, ?_, ?_⟩
    · rw [State.signal_tick]
      exact foldl_keeps State.tick _ (fun _ _ => State.event_tick ..) _ _
    · rw [State.signal_log, foldl_event_pos 0x0109 3 none (fun d : Nat × Nat => d.1 + d.2 * 2 ^ 8)]
    · rw [State.signal_core]
      exact foldl_keeps State.core _ (fun _ _ => State.event_core ..) _ _
    · rw [State.signal_parts]
      exact foldl_keeps State.parts _ (fun _ _ => State.event_parts ..) _ _

/-- The freeze of the sentinel reaches every Spire of the partition, and no memory. -/
theorem execPodStallSentinel_freezes {s : State} {p : Fin 16} {a : Nat} (hp : s.cfg.pod = true) (hr : (s.part p.val).phase = .run)
    (hs : s.stalled p.val = true) (hu : s.periodUnits ≠ 0) (ha : (s.part p.val).stalledSince = some a)
    (h3 : 3 * s.periodUnits ≤ s.time - a) (hn : (s.part p.val).reset = .none) (ho : ∀ sp ∈ s.spiresOf p.val, s.owner sp = some p.val) :
    ∃ t, execPodStallSentinel p s = .next t ∧ (∀ sp ∈ s.spiresOf p.val, bit1 (t.spire sp).frozen 0 = true) ∧ SameMemory s t := by
  obtain ⟨s1, s2, h1, h2, he⟩ := execPodStallSentinel_three hp hr hs hu ha h3
  have hk : s2.lasting = s1.lasting := h2.elim (fun e => e ▸ rfl) (fun e => e ▸ State.logStalls_lasting ..)
  have hm (k : Nat) : (s2.fn k).mbx = (s1.fn k).mbx := h2.elim (fun e => e ▸ rfl) (fun e => e ▸ State.logStalls_mbx ..)
  have ho2 (k : Nat) : s2.owner k = s.owner k := by rw [State.eq_of_lasting (·.owner k) (fun _ => rfl) hk, h1]; rfl
  have hs2 : s2.spiresOf p.val = s.spiresOf p.val := by rw [State.eq_of_lasting (·.spiresOf p.val) (fun _ => rfl) hk, h1]; rfl
  refine ⟨_, he, fun sp hsp => ?_, ?_⟩
  · refine State.freezeAll_frozen ?_ (fun k h => (ho2 k).trans (ho k (hs2 ▸ h))) (hs2 ▸ hsp) ..
    rw [State.eq_of_lasting (·.part p.val) (fun _ => rfl) hk, h1, State.part_setPart]
    exact hn
  · have hl := (State.freezeAll_lasting s2 p.val 0x0C 0 0).trans hk
    subst h1
    exact (SameMemory.of_lasting hl (fun k => (State.freezeAll_mbx ..).trans (hm k))).of_setPart

/-- Settles O49: the branches of the exchange, of the pod stall and of the sentinel, by the lemmas above. -/
theorem ptmAndStalls : Obligations.PtmAndStalls := by
  intro s
  refine ⟨?_, ?_, ?_, ?_, ?_⟩
  · intro hs hf hb hp ns err
    refine ⟨fun hd ok => ?_, fun hd => ?_, fun hd => ?_⟩
    · rw [exec_ptmExchange]
      simp [execPtmExchange, hd]
    · rw [exec_ptmExchange]
      simp [execPtmExchange, hs, hf, hb, hp, hd]
    · refine ⟨_, (exec_ptmExchange ..).trans (execPtmExchange_success ns err hs hf hb hp hd), ?_⟩
      have hn := State.ptmTaken_nowNs ns hs hf
      cases hl : s.tick.ptmLostLogged
      · exact ⟨rfl, rfl, rfl, hn, rfl, rfl, rfl⟩
      · simp only [if_true, State.event_tick, State.event_nowNs, State.event_core, State.event_parts, State.event_pos]
        exact ⟨rfl, rfl, rfl, hn, rfl, rfl, rfl⟩
  · intro hf
    refine ⟨fun ok ns err => ?_, ?_⟩
    · simp [exec_ptmExchange, execPtmExchange, hf]
    · simp [exec_ptmLost, execPtmLost, hf]
  · intro hs hf hl hn ht
    have hlt : ¬s.time - s.tick.ptmAt < 1000000 * unitsPerUs := by omega
    refine ⟨({ s with tick := { s.tick with ptmLostLogged := true } } : State).event 0x0103 2 none 0, ?_, ?_⟩
    · simp [exec_ptmLost, execPtmLost, hs, hf, hl, hn, hlt]
    · simp [State.event_pos]
  · intro waiting n ht hp hf hn hd h
    rw [exec_podStall]
    dsimp only
    rw [← State.stallers_length]
    exact execPodStall_logs ht hp hf hn hd h
  · intro p x
    simp only [exec_podStallSentinel]
    refine ⟨fun h => ?_, fun hp hr hs hu => ⟨fun ha => ?_, fun a ha hf h1 h3 => ?_, fun a ha h3 hn ho => ?_⟩⟩
    · exact execPodStallSentinel_runs h
    · rw [execPodStallSentinel_stalled (a := s.time) (n := 0) hp hr hs hu (by rw [ha]; rfl) (by simp)]
      rfl
    · refine ⟨_, execPodStallSentinel_one hp hr hs hu ha hf h1 h3, ?_, ?_, ?_⟩
      · rw [State.eq_of_lasting (·.part p.val) (fun _ => rfl) (State.logStalls_lasting ..), State.part_setPart]
      · exact State.logStalls_core ..
      · rw [State.logStalls_pos, State.blocked_setPart]
        · have : (s.setPart p.val { x with stalledFor := 1 }).planSpires p.val = s.planSpires p.val := by
            simp only [State.planSpires, State.part_setPart, x]
          rw [this, State.setPart_log]
        all_goals rfl
    · exact execPodStallSentinel_freezes hp hr hs hu ha h3 hn ho

end Sys2Proof.Machine
end

section
/-! SUPPORT. What the work of a tick on one partition leaves as it was: the other partitions, the configuration and what the device
is, tile SRAM, and the tick but for what its end notes. -/

namespace Sys2Proof.Machine

theorem Tbl.erase_erase {α : Type} (k : Nat) (t : Tbl α) : Tbl.erase k (Tbl.erase k t) = Tbl.erase k t := by
  induction t with
  | nil => rfl
  | cons e t ih =>
    obtain ⟨j, w⟩ := e
    by_cases h : j = k <;> simp [Tbl.erase, h, ih]

/-- A write is gone with its key. -/
theorem Tbl.erase_put {α : Type} [DecidableEq α] (d : α) (k : Nat) (v : α) (t : Tbl α) : Tbl.erase k (Tbl.put d k v t) = Tbl.erase k t := by
  unfold Tbl.put
  split
  · exact Tbl.erase_erase k t
  · clear * -
    induction t with
    | nil => simp [Tbl.insert, Tbl.erase]
    | cons e t ih =>
      obtain ⟨j, w⟩ := e
      simp only [Tbl.insert]
      split
      · simp [Tbl.erase]
      · split
        · rename_i h
          simp [Tbl.erase, h]
        · simp [Tbl.erase, ih]

/-- The tick but for what the end of a tick notes of it: its reports, its stretch and the shed level. -/
def Tick.steady (t : Tick) : Tick := { t with
  ownDone := false, doneSent := false, idleAsked := false, stretchCount := 0, stretchTotal := 0, stretchMax := 0, shedLevel := 0, shedAt := none }

/-- What work on a partition leaves: all but the partition, the ports, the log, the host's functions, and the core but for tile SRAM. -/
def State.beside (s : State) (p : Nat) : State :=
  { s with core := { sram := s.core.sram }, parts := Tbl.erase p s.parts, ports := [], log := {}, host := {} }
/-- The same but for what the end of a tick notes. -/
def State.around (s : State) (p : Nat) : State := { s.beside p with tick := s.tick.steady }
/-- The same as `State.beside` without tile SRAM. -/
def State.aside (s : State) (p : Nat) : State := { s.beside p with core := {} }
/-- The same as `State.around` without tile SRAM. -/
def State.apart (s : State) (p : Nat) : State := { s.around p with core := {} }
/-- What work on any partition leaves at the end of a tick. -/
def State.steady (s : State) : State := { s.around 0 with parts := [] }

theorem beside_of_lasting {s t : State} (h : t.lasting = s.lasting) (p : Nat) : t.beside p = s.beside p :=
  State.eq_of_lasting (·.beside p) (fun _ => rfl) h
theorem around_of_beside {s t : State} {p : Nat} (h : t.beside p = s.beside p) : t.around p = s.around p :=
  congrArg (fun a : State => { a with tick := a.tick.steady }) h
theorem aside_of_beside {s t : State} {p : Nat} (h : t.beside p = s.beside p) : t.aside p = s.aside p :=
  congrArg (fun a : State => { a with core := {} }) h
theorem apart_of_around {s t : State} {p : Nat} (h : t.around p = s.around p) : t.apart p = s.apart p :=
  congrArg (fun a : State => { a with core := {} }) h
theorem apart_of_aside {s t : State} {p : Nat} (h : t.aside p = s.aside p) : t.apart p = s.apart p :=
  congrArg (fun a : State => { a with tick := a.tick.steady }) h
theorem steady_of_around {s t : State} {p : Nat} (h : t.around p = s.around p) : t.steady = s.steady :=
  congrArg (fun a : State => { a with parts := [] }) h

/-- The other partitions. -/
theorem part_of_apart {s t : State} {p q : Nat} (h : t.apart p = s.apart p) (hq : q ≠ p) : t.part q = s.part q := by
  have e : Tbl.get {} q (Tbl.erase p t.parts) = Tbl.get {} q (Tbl.erase p s.parts) := congrArg (fun a : State => Tbl.get {} q a.parts) h
  rwa [Tbl.get_erase, Tbl.get_erase, if_neg hq, if_neg hq] at e

@[simp] theorem State.setPart_beside (s : State) (p : Nat) (x : Part) : (s.setPart p x).beside p = s.beside p := by
  simp only [State.beside, State.setPart, Tbl.erase_put]

@[simp] theorem State.onPart_beside (s : State) (p : Nat) (f : Part → Part) : (s.onPart p f).beside p = s.beside p :=
  State.setPart_beside ..

/-! Writes of the device. -/

@[simp] theorem State.hbmWrite_beside (s : State) (a : Nat) (bs : List Byte) (p : Nat) : (s.hbmWrite a bs).beside p = s.beside p := rfl

@[simp] theorem State.meetSoft_beside (s : State) (a n p : Nat) : (s.meetSoft a n).beside p = s.beside p :=
  beside_of_lasting (State.meetSoft_lasting ..) p

/-- A write of the device changes no partition, whatever its bursts meet. -/
@[simp] theorem State.ownWrite_beside (f : Nat) (s : State) (a : Nat) (bs : List Byte) (p : Nat) :
    (State.ownWrite f s a bs).beside p = s.beside p := by
  induction f generalizing s a bs with
  | zero => simp [State.ownWrite]
  | succ f ih =>
    simp only [State.ownWrite]
    split
    · rfl
    · split
      · simp
      · rw [ih, ih]
        exact beside_of_lasting (State.countUe_lasting ..) p

/-! Rings. -/

@[simp] theorem State.onRings_beside (s : State) (p : Nat) (f : Ring → Ring) : (s.onRings p f).beside p = s.beside p :=
  State.onPart_beside ..

@[simp] theorem State.signal_beside (s : State) (fn vec p : Nat) : (s.signal fn vec).beside p = s.beside p :=
  beside_of_lasting (State.signal_lasting ..) p
@[simp] theorem State.event_beside (s : State) (code sev : Nat) (part : Option Nat) (detail : Nat) (ext : Option (List Byte)) (p : Nat) :
    (s.event code sev part detail ext).beside p = s.beside p :=
  beside_of_lasting (State.event_lasting ..) p
@[simp] theorem State.finish_beside (s : State) (fn m ty st : Nat) (b : List Byte) (p : Nat) : (s.finish fn m ty st b).beside p = s.beside p :=
  beside_of_lasting (State.finish_lasting ..) p

@[simp] theorem State.consume_beside (s : State) (p : Nat) (upTo : Ring → Nat) : (s.consume p upTo).beside p = s.beside p := by
  unfold State.consume
  dsimp only
  split <;> simp

/-- The rings of a configuration after each of them has been changed. -/
theorem get_foldl_put_range (f : Ring → Ring) (n : Nat) (t : Tbl Ring) (i : Nat) :
    Tbl.get {} i ((List.range n).foldl (fun t r => Tbl.put {} r (f (Tbl.get {} r t)) t) t) = if i < n then f (Tbl.get {} i t) else Tbl.get {} i t := by
  induction n with
  | zero => simp
  | succ n ih =>
    rw [List.range_succ, List.foldl_append, List.foldl_cons, List.foldl_nil, Tbl.get_put]
    by_cases h : i = n
    · subst h
      simp [ih]
    · have e : (i < n + 1) = (i < n) := by simp only [eq_iff_iff]; omega
      simp only [h, if_false, ih, e]

/-- What is left of a partition whose rings are set aside. -/
def Part.noRings (x : Part) : Part := { x with rings := [] }

theorem State.onRings_part (s : State) (p : Nat) (f : Ring → Ring) : ((s.onRings p f).part p).noRings = (s.part p).noRings := by
  unfold State.onRings
  rw [State.part_onPart]
  rfl

theorem State.onRings_ring (s : State) (p : Nat) (f : Ring → Ring) {i : Nat} (h : i < (s.pcfg p).rings.length) :
    ((s.onRings p f).part p).ring i = f ((s.part p).ring i) := by
  unfold State.onRings
  rw [State.part_onPart]
  simp only [Part.ring, get_foldl_put_range, h, if_true]

theorem State.signal_part (s : State) (fn vec p : Nat) : (s.signal fn vec).part p = s.part p := by
  simp only [State.part, State.signal_parts]

theorem State.consume_part (s : State) (p : Nat) (upTo : Ring → Nat) : ((s.consume p upTo).part p).noRings = (s.part p).noRings := by
  unfold State.consume
  dsimp only
  split
  · rw [State.signal_part, State.onRings_part]
  · rw [State.onRings_part]

theorem State.consume_ring (s : State) (p : Nat) (upTo : Ring → Nat) {i : Nat} (h : i < (s.pcfg p).rings.length) :
    ((s.consume p upTo).part p).ring i = { ((s.part p).ring i).consume (upTo ((s.part p).ring i)) with lateTo := none } := by
  unfold State.consume
  dsimp only
  split
  · rw [State.signal_part, State.onRings_ring _ _ _ h]
  · rw [State.onRings_ring _ _ _ h]

@[simp] theorem State.consume_core (s : State) (p : Nat) (upTo : Ring → Nat) : (s.consume p upTo).core = s.core := by
  unfold State.consume
  dsimp only
  split
  · rw [State.signal_core]
    rfl
  · rfl

/-! Publishing. -/

/-- What a report upstream leaves: all but the ports, the log, the host's functions and what the end of a tick notes. -/
def State.untold (s : State) : State := { s with tick := s.tick.steady, ports := [], log := {}, host := {} }

theorem State.eq_of_untold {γ : Type} (g : State → γ) (hg : ∀ a : State, g a.untold = g a) {s t : State} (h : t.untold = s.untold) :
    g t = g s := by
  rw [← hg t, h, hg]

theorem around_of_untold {s t : State} (h : t.untold = s.untold) (p : Nat) : t.around p = s.around p :=
  State.eq_of_untold (·.around p) (fun _ => rfl) h

theorem State.signal_untold (s : State) (fn vec : Nat) : (s.signal fn vec).untold = s.untold := by
  unfold State.signal
  split <;> rfl

theorem State.event_untold (s : State) (code sev : Nat) (part : Option Nat) (detail : Nat) (ext : Option (List Byte)) :
    (s.event code sev part detail ext).untold = s.untold := by
  have log (a : State) (l : Log) : State.untold { a with log := l } = a.untold := rfl
  unfold State.event
  cases ext <;> dsimp only <;> split <;> simp only [State.signal_untold, log] <;> rfl

theorem State.sendDone_untold (s : State) : s.sendDone.untold = s.untold := by
  unfold State.sendDone
  dsimp only
  split
  · split <;> rfl
  · rfl

theorem State.closeOwn_untold (s : State) : s.closeOwn.untold = s.untold := by
  unfold State.closeOwn
  split
  · dsimp only
    rw [State.sendDone_untold]
    split
    · rfl
    · rw [State.signal_untold, State.event_untold]
      rfl
  · rfl

theorem State.closeOwn_part (s : State) (p : Nat) : s.closeOwn.part p = s.part p :=
  State.eq_of_untold (·.part p) (fun _ => rfl) s.closeOwn_untold

/-- What a record changes of its partition. -/
def Part.recorded (x : Part) (st : TickStatus) : Part :=
  { x with published := true, statusPi := (x.statusPi + 1) % 2 ^ 32, ctr := x.ctr.add st }

theorem State.putRecord_part (s : State) (p a : Nat) (record : List Byte) (st : TickStatus) :
    (s.putRecord p a record st).part p = (s.part p).recorded st := by
  have soft : ((s.meetSoft a record.length).hbmWrite a record).part p = s.part p := by
    rw [← State.eq_of_lasting (·.part p) (fun _ => rfl) (s.meetSoft_lasting a record.length)]
    rfl
  unfold State.putRecord
  rw [State.closeOwn_part, State.signal_part, State.signal_part, State.part_onPart, soft]
  rfl

theorem State.putRecord_around (s : State) (p a : Nat) (record : List Byte) (st : TickStatus) :
    (s.putRecord p a record st).around p = s.around p := by
  unfold State.putRecord
  rw [around_of_untold (State.closeOwn_untold _)]
  exact around_of_beside (by simp)

/-- The bytes of a record stand where it was written. -/
theorem State.putRecord_hbm (s : State) (p a : Nat) (record : List Byte) (st : TickStatus) :
    (s.putRecord p a record st).core.hbm = putHbm s.core.hbm a record := by
  have soft : (s.meetSoft a record.length).core.hbm = s.core.hbm := State.eq_of_lasting (·.core.hbm) (fun _ => rfl) (s.meetSoft_lasting ..)
  unfold State.putRecord
  rw [State.eq_of_untold (·.core.hbm) (fun _ => rfl) (State.closeOwn_untold _)]
  simp only [State.signal_core, State.onPart_core]
  rw [← soft]
  rfl

theorem State.publish_around (s : State) (p : Nat) (st : TickStatus) (run slack : Nat) :
    (s.publish p st run slack).around p = s.around p := by
  unfold State.publish
  split
  · exact around_of_beside (by simp)
  · dsimp only
    split
    · exact around_of_beside (by simp)
    · rw [State.putRecord_around]
      exact around_of_beside (by simp)

/-- A device in its pod whose status window is not under scrub publishes at once. -/
theorem State.publish_part {s : State} {p : Nat} (hl : s.tick.left = false) (hs : s.underScrub p (s.pcfg p).statusWindow = false)
    (st : TickStatus) (run slack : Nat) : (s.publish p st run slack).part p =
      ({ s.part p with last := some st, sel := if st = .onTime then !(s.part p).sel else (s.part p).sel } : Part).recorded st := by
  unfold State.publish
  rw [if_neg (by simp [hl])]
  dsimp only
  rw [if_neg (by simp [hs]), State.putRecord_part, State.part_onPart]

/-- The record's place in the status ring (R507). -/
def State.recordAt (s : State) (p : Nat) : Nat :=
  (s.cfg.window p (s.pcfg p).statusWindow).addr
    ((s.pcfg p).statusOff + 64 * (if (s.pcfg p).statusSlots = 0 then 0 else s.tickWord % (s.pcfg p).statusSlots))

theorem State.publish_hbm {s : State} {p : Nat} (hl : s.tick.left = false) (hs : s.underScrub p (s.pcfg p).statusWindow = false)
    (st : TickStatus) (run slack : Nat) :
    (s.publish p st run slack).core.hbm = putHbm s.core.hbm (s.recordAt p) (s.statusRecord p st run slack) := by
  unfold State.publish
  rw [if_neg (by simp [hl])]
  dsimp only
  rw [if_neg (by simp [hs]), State.putRecord_hbm]
  rfl

end Sys2Proof.Machine
end

section
/-! SUPPORT. What the opening of a run window does to its partition, and what it leaves. -/

namespace Sys2Proof.Machine

/-! What a Spire has under way comes to its end. -/

/-- The lasting part of a state without tile SRAM. -/
def State.dry (s : State) : State := { s.lasting with core := { hbm := s.core.hbm, hbmBad := s.core.hbmBad } }

theorem dry_of_lasting {s t : State} (h : t.lasting = s.lasting) : t.dry = s.dry := State.eq_of_lasting State.dry (fun _ => rfl) h

theorem State.eq_of_dry {γ : Type} (g : State → γ) (hg : ∀ a : State, g a.dry = g a) {s t : State} (h : t.dry = s.dry) : g t = g s := by
  rw [← hg t, h, hg]

theorem State.loadTile_lasting (l : VLoad) (f : Form) (e : Elem) (s : State) (tile : Nat) : (loadTile l f e s tile).lasting = s.lasting := by
  unfold loadTile
  dsimp only
  rw [State.noteReads_lasting, State.onSpire_lasting]

theorem State.loadStep_lasting (s : State) (l : VLoad) : (s.loadStep l).lasting = s.lasting := by
  unfold State.loadStep
  split
  · exact foldl_keeps State.lasting _ (fun _ _ => State.loadTile_lasting ..) _ _
  · rfl

theorem State.loadDue_lasting (s : State) (sp t : Nat) : (s.loadDue sp t).lasting = s.lasting := by
  unfold State.loadDue
  dsimp only
  split
  · rfl
  · rw [foldl_keeps State.lasting State.loadStep State.loadStep_lasting, State.setSpire_lasting]

theorem State.settleRegs_lasting (s : State) (sp t : Nat) : (s.settleRegs sp t).lasting = s.lasting := rfl

theorem State.onSpire_dry (s : State) (k : Nat) (f : Spire → Spire) : (s.onSpire k f).dry = s.dry := rfl
theorem State.sramWrite_dry (s : State) (tile a : Nat) (bs : List Byte) : (s.sramWrite tile a bs).dry = s.dry := rfl

theorem State.settle_dry (s : State) (sp t : Nat) : (s.settle sp t).dry = s.dry := by
  unfold State.settle
  dsimp only
  split
  · rfl
  · exact (foldl_keeps State.dry _ (fun a w => State.sramWrite_dry a ..) _ _).trans rfl

/-! Pushes that wait. -/

theorem State.pushLocal_lasting {s t : State} {sp q : Nat} {h : W32} {n : Nat} (e : s.pushLocal sp q h n = some t) : t.lasting = s.lasting := by
  unfold State.pushLocal at e
  split at e
  · cases e
    rfl
  · split at e
    · cases e
      rfl
    · split at e
      · cases e
      · dsimp only at e
        split at e
        · cases e
          rfl
        · cases e

theorem State.takePush_lasting (s : State) (id : Nat) : (s.takePush id).lasting = s.lasting := rfl

theorem State.takeWaiting_lasting (s : State) (sp : Nat) : (s.takeWaiting sp).lasting = s.lasting := by
  refine foldl_keeps State.lasting _ (fun a w => ?_) _ _
  split
  · split
    · rename_i e
      rw [State.takePush_lasting, State.pushLocal_lasting e]
    · rfl
  · rfl

/-! The end of a run window. -/

/-- The end of a run window changes its partition's phase alone. -/
theorem State.endWindow_part (s : State) (p : Nat) :
    (s.endWindow p).part p = s.part p ∨ (s.part p).phase = .run ∧ (s.endWindow p).part p = { s.part p with phase := .drain } := by
  unfold State.endWindow
  dsimp only
  split
  · rename_i h
    refine .inr ⟨h.1, ?_⟩
    rw [State.eq_of_lasting (·.part p) (fun _ => rfl) ((State.reload_lasting ..).trans (State.stopCalendars_lasting ..)), State.part_setPart]
  · exact .inl rfl

theorem State.endWindow_beside (s : State) (p : Nat) : (s.endWindow p).beside p = s.beside p := by
  unfold State.endWindow
  dsimp only
  split
  · rw [beside_of_lasting ((State.reload_lasting ..).trans (State.stopCalendars_lasting ..)), State.setPart_beside]
  · rfl

/-- What goes by neither the partitions nor what an end of a run window touches. -/
theorem State.endWindow_eq {γ : Type} (g : State → γ) (hg : ∀ a : State, g a.lasting = g a) (hp : ∀ (a : State) p x, g (a.setPart p x) = g a)
    (s : State) (p : Nat) : g (s.endWindow p) = g s := by
  unfold State.endWindow
  dsimp only
  split
  · rw [State.eq_of_lasting g hg ((State.reload_lasting ..).trans (State.stopCalendars_lasting ..)), hp]
  · rfl

/-! Opening. -/

/-- The Spires of a partition as its run window opens: those that are frozen keep what they hold, the others start anew. -/
def State.windowSpires (s : State) (p : Nat) : State :=
  let x := s.part p
  let sps := (s.spiresOf p).filter (fun sp => !s.seqFrozen sp)
  let s0 := ((s.spiresOf p).filter s.seqFrozen).foldl (fun (a : State) sp => a.onSpire sp Spire.openedFrozen) s
  let s1 := sps.foldl (fun (a : State) sp => ((a.loadDue sp (2 ^ 49)).settle sp (2 ^ 49)).settleRegs sp (2 ^ 49)) s0
  let s2 := sps.foldl (fun (a : State) sp => a.onSpire sp (fun y => y.opened x.plan sp x.tickNo x.ccyc)) s1
  s2.onCore (fun c => c.opened (fun sp => sps.contains sp))

/-- The port lanes of a partition as its run window opens. -/
def State.windowPorts (s : State) (p : Nat) : State :=
  (List.range 8).foldl (fun (a : State) i => a.onPort i (fun y => if (y.lane p).program.isSome then
    y.onLane p (fun l => { l with origin := roundUp y.slot 25, lag := 0, lagLogged := false, txAt := 0, rxAt := 0, gates := [] }) else y)) s

/-- A partition as its run window opens. -/
def Part.openedAt (x : Part) : Part :=
  { x with phase := .run, ccyc := 0, calNext := 0, windowTick := x.tickNo, stalledSince := none, stalledFor := 0 }

/-- The state in which an open run window begins. -/
def State.windowOpened (s : State) (p : Nat) : State :=
  ((s.spiresOf p).filter (fun sp => !s.seqFrozen sp)).foldl (fun (a : State) sp => a.takeWaiting sp)
    ((((s.windowSpires p).windowPorts p).setPart p (s.part p).openedAt).onCore (fun c => { c with bankUse := [] }))

theorem State.openWindow_eq (s : State) (p : Nat) : s.openWindow p = (s.windowOpened p).endWindow p := rfl

theorem State.windowSpires_dry (s : State) (p : Nat) : (s.windowSpires p).dry = s.dry := by
  unfold State.windowSpires
  dsimp only
  rw [dry_of_lasting (State.onCore_lasting _ _ rfl rfl rfl)]
  refine (foldl_keeps State.dry _ (fun a sp => a.onSpire_dry sp _) _ _).trans ((foldl_keeps State.dry _ (fun a sp => ?_) _ _).trans
    (foldl_keeps State.dry _ (fun a sp => a.onSpire_dry sp _) _ _))
  rw [dry_of_lasting (State.settleRegs_lasting ..), State.settle_dry, dry_of_lasting (State.loadDue_lasting ..)]

/-- A fold of changes of ports by the configuration: each port of the list changes once, and nothing else does. -/
theorem foldl_onPort (f : Cfg → Nat → Port → Port) {l : List Nat} (hl : l.Nodup) (s : State) :
    ∃ x, l.foldl (fun (a : State) i => a.onPort i (f a.cfg i)) s = { s with ports := x } ∧
      ∀ i, Tbl.get {} i x = if i ∈ l then f s.cfg i (s.port i) else s.port i := by
  induction l generalizing s with
  | nil => exact ⟨s.ports, rfl, fun _ => rfl⟩
  | cons k l ih =>
    obtain ⟨hk, hl⟩ := List.nodup_cons.mp hl
    obtain ⟨x, e, hx⟩ := ih hl (s.onPort k (f s.cfg k))
    refine ⟨x, e, fun i => ?_⟩
    rw [hx]
    by_cases h : i = k
    · subst h
      simp [hk]
    · rw [State.port_onPort_ne _ _ h]
      simp [h]

theorem State.windowPorts_eq (s : State) (p : Nat) : ∃ x, s.windowPorts p = { s with ports := x } :=
  let ⟨x, e, _⟩ := foldl_onPort (fun _ _ => _) List.nodup_range s
  ⟨x, e⟩

@[simp] theorem Port.lane_onLane (x : Port) (p : Nat) (f : Lane → Lane) : (x.onLane p f).lane p = f (x.lane p) := Tbl.get_put_same _ _ _ _
theorem Port.lane_onLane_ne (x : Port) (f : Lane → Lane) {p q : Nat} (h : q ≠ p) : (x.onLane p f).lane q = x.lane q := Tbl.get_put_other _ _ _ h

theorem State.windowPorts_aside (s : State) (p q : Nat) : (s.windowPorts p).aside q = s.aside q := by
  obtain ⟨x, e⟩ := s.windowPorts_eq p
  rw [e]
  rfl

theorem State.windowPorts_core (s : State) (p : Nat) : (s.windowPorts p).core = s.core := by
  obtain ⟨x, e⟩ := s.windowPorts_eq p
  rw [e]

/-- The Span program of a partition on a port. -/
def State.programOn (s : State) (i p : Nat) : Option Program := ((s.port i).lane p).program

@[simp] theorem State.setPart_programOn (s : State) (p : Nat) (x : Part) (i q : Nat) : (s.setPart p x).programOn i q = s.programOn i q := rfl

/-- An opening run window leaves the Span programs as they are. -/
theorem State.windowPorts_programOn (s : State) (p i q : Nat) : (s.windowPorts p).programOn i q = s.programOn i q := by
  refine foldl_keeps (fun a : State => a.programOn i q) _ (fun a k => ?_) _ _
  unfold State.programOn
  by_cases hk : i = k
  · subst hk
    rw [State.port_onPort]
    split
    · by_cases hq : q = p
      · subst hq
        rw [Port.lane_onLane]
      · rw [Port.lane_onLane_ne _ _ hq]
    · rfl
  · rw [State.port_onPort_ne _ _ hk]

theorem State.windowOpened_lasting (s : State) (p : Nat) :
    (s.windowOpened p).lasting = (((s.windowSpires p).windowPorts p).setPart p (s.part p).openedAt).lasting :=
  (foldl_keeps State.lasting _ (fun a sp => a.takeWaiting_lasting sp) _ _).trans (State.onCore_lasting _ _ rfl rfl rfl)

/-- A run window opens at count 0 on the inputs of the tick, and may end at once. -/
theorem State.openWindow_part (s : State) (p : Nat) :
    ∃ ph, (ph = .run ∨ ph = .drain) ∧ (s.openWindow p).part p = { (s.part p).openedAt with phase := ph } := by
  have h : (s.windowOpened p).part p = (s.part p).openedAt := by
    rw [State.eq_of_lasting (·.part p) (fun _ => rfl) (s.windowOpened_lasting p), State.part_setPart]
  rw [State.openWindow_eq]
  rcases State.endWindow_part (s.windowOpened p) p with e | ⟨-, e⟩
  · exact ⟨.run, .inl rfl, by rw [e, h]; rfl⟩
  · exact ⟨.drain, .inr rfl, by rw [e, h]⟩

theorem State.openWindow_aside (s : State) (p : Nat) : (s.openWindow p).aside p = s.aside p := by
  rw [State.openWindow_eq, aside_of_beside (State.endWindow_beside ..), aside_of_beside (beside_of_lasting (s.windowOpened_lasting p) p),
    aside_of_beside (State.setPart_beside ..), State.windowPorts_aside]
  exact State.eq_of_dry (·.aside p) (fun _ => rfl) (s.windowSpires_dry p)

theorem State.openWindow_hbm (s : State) (p : Nat) : (s.openWindow p).core.hbm = s.core.hbm := by
  rw [State.openWindow_eq, State.endWindow_eq (·.core.hbm) (fun _ => rfl) (fun _ _ _ => rfl),
    State.eq_of_lasting (·.core.hbm) (fun _ => rfl) (s.windowOpened_lasting p), State.setPart_core, State.windowPorts_core]
  exact State.eq_of_dry (·.core.hbm) (fun _ => rfl) (s.windowSpires_dry p)

theorem State.openWindow_programOn (s : State) (p i q : Nat) : (s.openWindow p).programOn i q = s.programOn i q := by
  rw [State.openWindow_eq, State.endWindow_eq (·.programOn i q) (fun _ => rfl) (fun _ _ _ => rfl),
    State.eq_of_lasting (·.programOn i q) (fun _ => rfl) (s.windowOpened_lasting p), State.setPart_programOn]
  exact ((s.windowSpires p).windowPorts_programOn p i q).trans (State.eq_of_dry (·.programOn i q) (fun _ => rfl) (s.windowSpires_dry p))

/-! When nothing keeps it shut. -/

theorem State.tryOpen_aside (s : State) (p : Nat) : (s.tryOpen p).aside p = s.aside p := by
  unfold State.tryOpen
  dsimp only
  split
  · exact s.openWindow_aside p
  · rfl

/-- During the ingest freeze every window stays shut. -/
theorem State.tryOpen_frozen {s : State} {a : Nat} (h : s.tick.frozenUntil = some a) (p : Nat) : s.tryOpen p = s := by
  simp [State.tryOpen, h]

theorem State.tryOpen_opens {s : State} {p : Nat} (hf : s.tick.frozenUntil = none) (hh : s.tick.halted = false)
    (hp : (s.part p).phase = .waiting) (hl : (s.part p).loading = false) (hd : (s.part p).draining = false)
    (hs : (s.part p).due = none) : s.tryOpen p = s.openWindow p := by
  simp [State.tryOpen, hf, hh, hp, hl, hd, hs]

theorem State.tryOpen_hbm (s : State) (p : Nat) : (s.tryOpen p).core.hbm = s.core.hbm := by
  unfold State.tryOpen
  dsimp only
  split
  · exact s.openWindow_hbm p
  · rfl

theorem State.tryOpen_programOn (s : State) (p i q : Nat) : (s.tryOpen p).programOn i q = s.programOn i q := by
  unfold State.tryOpen
  dsimp only
  split
  · exact s.openWindow_programOn p i q
  · rfl

/-- A window that opens or stays shut changes neither what a partition holds beside its window, nor its rings. -/
theorem State.tryOpen_part (s : State) (p : Nat) :
    (s.tryOpen p).part p = s.part p ∨ ∃ ph, (ph = .run ∨ ph = .drain) ∧ (s.tryOpen p).part p = { (s.part p).openedAt with phase := ph } := by
  unfold State.tryOpen
  dsimp only
  split
  · exact .inr (s.openWindow_part p)
  · exact .inl rfl

end Sys2Proof.Machine
end

section
/-! SUPPORT. The end of a drain, and what a reset clears once its partition is quiet. -/

namespace Sys2Proof.Machine

theorem exec_drainComplete (p : Fin 16) (s : State) : exec (.drainComplete p) s = execDrainComplete p s := rfl
theorem exec_lateDrainDone (p : Fin 16) (s : State) : exec (.lateDrainDone p) s = execLateDrainDone p s := rfl
theorem exec_resetQuiesced (p : Fin 16) (s : State) : exec (.resetQuiesced p) s = execResetQuiesced p s := rfl

/-! Drains. -/

theorem Part.eq_of_noRings {γ : Type} (g : Part → γ) (hg : ∀ x : Part, g x.noRings = g x) {x y : Part} (h : x.noRings = y.noRings) :
    g x = g y := by
  rw [← hg x, h, hg]

theorem State.eq_of_aside {γ : Type} (g : State → γ) (p : Nat) (hg : ∀ a : State, g (a.aside p) = g a) {s t : State}
    (h : t.aside p = s.aside p) : g t = g s := by
  rw [← hg t, h, hg]

@[simp] theorem State.consume_mbx (s : State) (p : Nat) (upTo : Ring → Nat) (k : Nat) : ((s.consume p upTo).fn k).mbx = (s.fn k).mbx := by
  unfold State.consume
  dsimp only
  split
  · rw [State.signal_mbx]
    rfl
  · rfl

@[simp] theorem State.consume_ports (s : State) (p : Nat) (upTo : Ring → Nat) : (s.consume p upTo).ports = s.ports := by
  unfold State.consume
  dsimp only
  split
  · rw [State.signal_ports]
    rfl
  · rfl

/-- Consuming frames changes no memory. -/
theorem State.consume_memory (s : State) (p : Nat) (upTo : Ring → Nat) : SameMemory s (s.consume p upTo) :=
  have h := aside_of_beside (s.consume_beside p upTo)
  .of_eq (by rw [State.consume_core]) (by rw [State.consume_core]) (State.eq_of_aside State.rom p (fun _ => rfl) h)
    (State.consume_ports ..) (State.consume_mbx s p upTo)

/-- The state in which a late drain has ended: the frames of the late tick are passed over. -/
def State.lateDrained (s : State) (p : Nat) : State :=
  (s.setPart p { s.part p with draining := false }).consume p (fun r => r.lateTo.getD r.ci)

theorem execLateDrainDone_ends {s : State} {p : Fin 16} (hd : (s.part p.val).draining = true) (hs : s.stopDrained p.val = true) :
    execLateDrainDone p s = .next ((s.lateDrained p.val).tryOpen p.val) := by
  simp [execLateDrainDone, State.lateDrained, hd, hs]

theorem State.lateDrained_part (s : State) (p : Nat) :
    ((s.lateDrained p).part p).noRings = Part.noRings { s.part p with draining := false } := by
  unfold State.lateDrained
  rw [State.consume_part, State.part_setPart]

theorem State.lateDrained_aside (s : State) (p : Nat) : (s.lateDrained p).aside p = s.aside p :=
  aside_of_beside ((State.consume_beside ..).trans (State.setPart_beside ..))

theorem State.lateDrained_ring (s : State) {p i : Nat} (h : i < (s.pcfg p).rings.length) :
    (((s.lateDrained p).part p).ring i).ci = ((s.part p).ring i).lateTo.getD ((s.part p).ring i).ci ∧
      (((s.lateDrained p).part p).ring i).lateTo = none := by
  unfold State.lateDrained
  rw [State.consume_ring (s.setPart p _) _ _ h, State.part_setPart]
  exact ⟨rfl, rfl⟩

/-- What the opening of a window leaves of its partition. -/
theorem State.tryOpen_partField {γ : Type} (g : Part → γ) (hg : ∀ (x : Part) ph, g { x.openedAt with phase := ph } = g x) (s : State) (p : Nat) :
    g ((s.tryOpen p).part p) = g (s.part p) := by
  rcases s.tryOpen_part p with e | ⟨ph, -, e⟩
  · rw [e]
  · rw [e, hg]

/-! Tables read through a filter of their keys. -/

theorem Tbl.get_filter_key {α : Type} (d : α) (q : Nat → Bool) (k : Nat) (t : Tbl α) :
    Tbl.get d k (t.filter (fun e => q e.1)) = if q k then Tbl.get d k t else d := by
  induction t with
  | nil => simp [Tbl.get]
  | cons e t ih =>
    obtain ⟨j, w⟩ := e
    by_cases hj : j = k
    · subst hj
      cases hq : q j <;> simp [hq, Tbl.get, ih]
    · cases hq : q j <;> simp [hq, Tbl.get, ih, hj]

theorem sramKey_tile (tile a : Nat) : sramKey tile a / 0x40000 = tile := by
  unfold sramKey
  omega

/-! Clearing. -/

/-- Admitting reads changes the controllers alone. -/
theorem State.admitAll_eq (s : State) : ∃ x, s.admitAll = { s with core := { s.core with ctls := x } } := by
  refine List.foldlRecOn (motive := fun a : State => ∃ x, a = { s with core := { s.core with ctls := x } }) s.core.ctls _ ⟨s.core.ctls, rfl⟩ ?_
  rintro a ⟨x, rfl⟩ e -
  split
  · exact ⟨x, rfl⟩
  · exact ⟨_, rfl⟩

theorem foldl_onSpire (f : Spire → Spire) {l : List Nat} (hl : l.Nodup) (s : State) (k : Nat) :
    (l.foldl (fun (a : State) sp => a.onSpire sp f) s).spire k = if k ∈ l then f (s.spire k) else s.spire k := by
  induction l generalizing s with
  | nil => rfl
  | cons j l ih =>
    obtain ⟨hj, hl⟩ := List.nodup_cons.mp hl
    rw [List.foldl_cons, ih hl]
    by_cases h : k = j
    · subst h
      simp [hj]
    · rw [State.spire_onSpire_ne _ _ h]
      simp [h]

theorem State.spiresOf_nodup (s : State) (p : Nat) : (s.spiresOf p).Nodup := List.nodup_range.filter _

/-- A Spire whose state a reset has cleared. -/
def Spire.cleared (x : Spire) : Spire := { ctr := x.ctr, orders := x.orders, stopped := true }

/-- A port on which a reset has cleared a partition's lane and slot store. -/
def Port.cleared (x : Port) (p : Nat) (l : LaneCfg) : Port :=
  if l.size = 0 then x else { x.onLane p (fun y => { program := y.program }) with store := Tbl.clear l.base l.size x.store }

/-- The tiles and the routers after step 3 of a reset. -/
def State.clearTiles (s : State) (p : Nat) : State := (s.onCore (fun c => c.cleared (fun sp => (s.spiresOf p).contains sp) p)).admitAll
/-- The Spires too. -/
def State.clearSpires (s : State) (p : Nat) : State := (s.spiresOf p).foldl (fun (a : State) sp => a.onSpire sp Spire.cleared) (s.clearTiles p)
/-- The slot stores too. -/
def State.clearSlots (s : State) (p : Nat) : State :=
  (List.range 8).foldl (fun (a : State) i => a.onPort i (fun x => x.cleared p (a.cfg.lane p i))) (s.clearSpires p)
/-- A partition after step 3 of a reset. -/
def Part.cleared (x : Part) : Part :=
  { x with slotsFrozen := 0#8, frzHost := 0#32, frzHostLo := 0#32, frzHostHi := 0#32, sel := false, lateRun := 0, parked := false, stallRun := 0 }

theorem State.clearPart_eq (s : State) (p : Nat) : s.clearPart p = (s.clearSlots p).onPart p Part.cleared := rfl

/-- What step 3 leaves outside the core and the ports. -/
theorem State.clearSlots_eq (s : State) (p : Nat) :
    ∃ k x, s.clearSlots p = { s with core := k, ports := x } ∧ k.sram = s.core.sram.filter (fun e => !(s.spiresOf p).contains (spireOfTile (e.1 / 0x40000))) ∧
      k.hbm = s.core.hbm ∧ (∀ sp, Tbl.get {} sp k.spires = if sp ∈ s.spiresOf p then (s.spire sp).cleared else s.spire sp) ∧
      ∀ i, Tbl.get {} i x = if i < 8 then (s.port i).cleared p (s.cfg.lane p i) else s.port i := by
  obtain ⟨c, hc⟩ : ∃ c, s.clearTiles p = _ := State.admitAll_eq _
  obtain ⟨y, hy⟩ : ∃ y, s.clearSpires p = _ := State.foldl_onSpire_core Spire.cleared (s.spiresOf p) (s.clearTiles p)
  obtain ⟨x, hx, hp⟩ := foldl_onPort (fun c i x => x.cleared p (c.lane p i)) (List.nodup_range (n := 8)) (s.clearSpires p)
  have hs (k : Nat) : (s.clearSpires p).spire k = _ := foldl_onSpire Spire.cleared (s.spiresOf_nodup p) (s.clearTiles p) k
  have hx : s.clearSlots p = _ := hx
  rw [hy, hc] at hs hx hp
  refine ⟨_, x, hx, rfl, rfl, hs, fun i => ?_⟩
  rw [hp]
  simp only [List.mem_range]
  rfl

theorem State.clearPart_outcome (s : State) (p : Nat) :
    ∃ k x, s.clearPart p = State.onPart { s with core := k, ports := x } p Part.cleared ∧
      (∀ tile a, Tbl.get 0#8 (sramKey tile a) k.sram = if spireOfTile tile ∈ s.spiresOf p then 0#8 else s.sramByte tile a) ∧
      k.hbm = s.core.hbm ∧ (∀ sp, Tbl.get {} sp k.spires = if sp ∈ s.spiresOf p then (s.spire sp).cleared else s.spire sp) ∧
      ∀ i, i < 8 → Tbl.get {} i x = (s.port i).cleared p (s.cfg.lane p i) := by
  obtain ⟨k, x, e, hsram, hhbm, hspires, hports⟩ := s.clearSlots_eq p
  refine ⟨k, x, by rw [State.clearPart_eq, e], fun tile a => ?_, hhbm, hspires, fun i hi => by rw [hports, if_pos hi]⟩
  rw [hsram, Tbl.get_filter_key 0#8 (fun n => !(s.spiresOf p).contains (spireOfTile (n / 0x40000))), sramKey_tile]
  by_cases h : spireOfTile tile ∈ s.spiresOf p
  · simp [h]
  · simp [h, State.sramByte]

/-- A cleared port reads 0 in the partition's region of its slot store. -/
theorem Port.cleared_store (x : Port) (p : Nat) (l : LaneCfg) (b : Nat) :
    Tbl.get 0#8 b (x.cleared p l).store = if l.base ≤ b ∧ b < l.base + l.size then 0#8 else Tbl.get 0#8 b x.store := by
  unfold Port.cleared
  split
  · rename_i h
    rw [if_neg (by omega)]
  · exact Tbl.get_clear ..

/-! The answer to a reset. -/

/-- A ring whose frames a reset has passed over. -/
def Ring.passed (r : Ring) : Ring :=
  { r with discard := sat32 r.discard r.frames.length, ci := r.pi, recorded := r.pi, frames := [], lateTo := none }

/-- Step 4 of a reset up to its answers. -/
def State.resetLogged (s : State) (p : Nat) : State :=
  ((s.onRings p Ring.passed).onPart p (fun y => { y with reset := .scrub, scrubs := s.scrubWindows p, resetMsg := none })).event
    0x0204 1 (some p) (b2n (s.part p).resetByFlr)

/-- Step 4 of a reset. -/
def State.resetAnswered (s : State) (p : Nat) : State :=
  let rings := List.range (s.pcfg p).rings.length
  let moves := rings.any (fun r => decide (((s.part p).ring r).ci ≠ ((s.part p).ring r).pi))
  let s3 := match (s.part p).resetMsg with
    | some m => (s.resetLogged p).finish pfFn m 5 stOk
    | none => s.resetLogged p
  let s4 := (s3.endAbandoned p).signal p 2
  if moves then s4.signal p 3 else s4

theorem State.completeReset_eq (s : State) (p : Nat) : s.completeReset p =
    if ((s.resetAnswered p).part p).scrubs.isEmpty then (s.resetAnswered p).beginRestage p else s.resetAnswered p := rfl

/-- What messages and interrupts leave: all but the host's functions and the store. -/
def State.unsent (s : State) : State := { s with host := {}, store := {} }

theorem State.eq_of_unsent {γ : Type} (g : State → γ) (hg : ∀ a : State, g a.unsent = g a) {s t : State} (h : t.unsent = s.unsent) :
    g t = g s := by
  rw [← hg t, h, hg]

theorem State.signal_unsent (s : State) (fn vec : Nat) : (s.signal fn vec).unsent = s.unsent := by
  unfold State.signal
  split <;> rfl

theorem State.finish_unsent (s : State) (fn m ty st : Nat) (b : List Byte) : (s.finish fn m ty st b).unsent = s.unsent := by
  unfold State.finish State.respond State.post
  dsimp only
  split
  · rfl
  · rw [State.signal_unsent]
    rfl

theorem State.endAbandoned_unsent (s : State) (p : Nat) : (s.endAbandoned p).unsent = s.unsent :=
  (foldl_keeps State.unsent _ (fun a _ => State.finish_unsent a ..) _ _).trans rfl

theorem State.resetAnswered_unsent (s : State) (p : Nat) : (s.resetAnswered p).unsent = (s.resetLogged p).unsent := by
  have answered : (match (s.part p).resetMsg with
      | some m => (s.resetLogged p).finish pfFn m 5 stOk
      | none => s.resetLogged p).unsent = (s.resetLogged p).unsent := by
    cases (s.part p).resetMsg with
    | none => rfl
    | some m => exact State.finish_unsent ..
  unfold State.resetAnswered
  dsimp only
  split
  · rw [State.signal_unsent, State.signal_unsent, State.endAbandoned_unsent, answered]
  · rw [State.signal_unsent, State.endAbandoned_unsent, answered]

theorem State.event_part (s : State) (code sev : Nat) (part : Option Nat) (detail : Nat) (ext : Option (List Byte)) (p : Nat) :
    (s.event code sev part detail ext).part p = s.part p := by
  simp only [State.part, State.event_parts]

/-- The partition after step 4 of a reset: its frames are passed over, and its windows wait for the scrub. -/
theorem State.resetLogged_part (s : State) (p : Nat) : ∃ rs,
    (s.resetLogged p).part p = { s.part p with rings := rs, reset := .scrub, scrubs := s.scrubWindows p, resetMsg := none } ∧
      ∀ i, i < (s.pcfg p).rings.length → Tbl.get {} i rs = ((s.part p).ring i).passed := by
  refine ⟨((s.onRings p Ring.passed).part p).rings, ?_, fun i h => s.onRings_ring p Ring.passed h⟩
  unfold State.resetLogged State.onRings
  rw [State.event_part, State.part_onPart, State.part_onPart]

theorem State.resetLogged_core (s : State) (p : Nat) : (s.resetLogged p).core = s.core := State.event_core ..
theorem State.resetLogged_ports (s : State) (p : Nat) : (s.resetLogged p).ports = s.ports := State.event_ports ..
theorem State.resetLogged_rom (s : State) (p : Nat) : (s.resetLogged p).rom = s.rom := State.event_rom ..
theorem State.resetLogged_pos (s : State) (p : Nat) : (s.resetLogged p).log.pos = s.log.pos + 1 := State.event_pos ..

theorem State.resetAnswered_core (s : State) (p : Nat) : (s.resetAnswered p).core = s.core :=
  (State.eq_of_unsent State.core (fun _ => rfl) (s.resetAnswered_unsent p)).trans (s.resetLogged_core p)
theorem State.resetAnswered_ports (s : State) (p : Nat) : (s.resetAnswered p).ports = s.ports :=
  (State.eq_of_unsent State.ports (fun _ => rfl) (s.resetAnswered_unsent p)).trans (s.resetLogged_ports p)
theorem State.resetAnswered_rom (s : State) (p : Nat) : (s.resetAnswered p).rom = s.rom :=
  (State.eq_of_unsent State.rom (fun _ => rfl) (s.resetAnswered_unsent p)).trans (s.resetLogged_rom p)
theorem State.resetAnswered_pos (s : State) (p : Nat) : (s.resetAnswered p).log.pos = s.log.pos + 1 :=
  (State.eq_of_unsent (·.log.pos) (fun _ => rfl) (s.resetAnswered_unsent p)).trans (s.resetLogged_pos p)
theorem State.resetAnswered_part (s : State) (p : Nat) : (s.resetAnswered p).part p = (s.resetLogged p).part p :=
  State.eq_of_unsent (·.part p) (fun _ => rfl) (s.resetAnswered_unsent p)

/-- With windows to scrub, step 4 is the end of it. -/
theorem State.completeReset_scrubs {s : State} {p : Nat} (h : s.scrubWindows p ≠ []) : s.completeReset p = s.resetAnswered p := by
  obtain ⟨rs, e, -⟩ := s.resetLogged_part p
  rw [State.completeReset_eq, if_neg]
  rw [State.resetAnswered_part, e]
  simpa using h

theorem execResetQuiesced_ends {s : State} {p : Fin 16} (hr : (s.part p.val).reset = .quiesce) (hg : s.goesOn = true)
    (hq : s.quiesced p.val = true) (hw : s.scrubWindows p.val ≠ []) :
    execResetQuiesced p s = .next ((s.clearPart p.val).resetAnswered p.val) := by
  have hc : (s.clearPart p.val).scrubWindows p.val = s.scrubWindows p.val := by
    obtain ⟨k, x, e, -⟩ := s.clearSlots_eq p.val
    rw [State.clearPart_eq, e]
    rfl
  unfold execResetQuiesced
  rw [if_pos ⟨hr, hg, hq⟩, State.completeReset_scrubs (by rwa [hc])]

/-- Settles O48: a late drain keeps all but its rings and its flag, and a reset is its clearing followed by its answer. -/
theorem drainsAndResetsEnd : Obligations.DrainsAndResetsEnd := by
  intro s p x rings
  simp only [exec_drainComplete, exec_lateDrainDone, exec_resetQuiesced]
  refine ⟨fun hp hd => ?_, fun hd hs => ?_, fun hr hq hg hw => ?_⟩
  · exact if_pos ⟨hp, hd⟩
  · have tick : (s.lateDrained p.val).tick = s.tick := State.eq_of_aside State.tick p.val (fun _ => rfl) (s.lateDrained_aside p.val)
    have part {γ : Type} (g : Part → γ) (hg : ∀ y : Part, g y.noRings = g y) :
        g ((s.lateDrained p.val).part p.val) = g { x with draining := false } := Part.eq_of_noRings g hg (s.lateDrained_part p.val)
    refine ⟨_, execLateDrainDone_ends hd hs, ?_, ?_, fun a ha => ?_, fun hf hh hp hl hdue => ?_, fun i hi => ?_⟩
    · rw [State.tryOpen_partField Part.draining (fun _ _ => rfl), part Part.draining (fun _ => rfl)]
    · rw [State.eq_of_aside State.tick p.val (fun _ => rfl) (State.tryOpen_aside ..), tick]
    · rw [State.tryOpen_frozen (tick ▸ ha)]
      exact ⟨part Part.phase (fun _ => rfl), (State.consume_memory ..).of_setPart, State.consume_core ..⟩
    · rw [State.tryOpen_opens (tick ▸ hf) (tick ▸ hh) ((part Part.phase (fun _ => rfl)).trans hp) ((part Part.loading (fun _ => rfl)).trans hl)
        (part Part.draining (fun _ => rfl)) ((part Part.due (fun _ => rfl)).trans hdue)]
      obtain ⟨ph, hph, e⟩ := (s.lateDrained p.val).openWindow_part p.val
      rw [e]
      exact ⟨by simpa using hph, rfl, part Part.tickNo (fun _ => rfl)⟩
    · rw [State.tryOpen_partField (fun y => y.ring i) (fun _ _ => rfl)]
      exact s.lateDrained_ring hi
  · obtain ⟨k, ports, hu, hsram, hhbm, hspires, hports⟩ := s.clearPart_outcome p.val
    refine ⟨_, execResetQuiesced_ends hr hg hq hw, ?_⟩
    rw [hu]
    generalize ha : State.onPart { s with core := k, ports := ports } p.val Part.cleared = a
    have hx : a.part p.val = x.cleared := by rw [← ha, State.part_onPart]; rfl
    have hwin : a.scrubWindows p.val = s.scrubWindows p.val := by rw [← ha]; rfl
    have hcfg : a.pcfg p.val = s.pcfg p.val := by rw [← ha]; rfl
    obtain ⟨rs, hpart, hrings⟩ := a.resetLogged_part p.val
    have hcore : (a.resetAnswered p.val).core = k := (a.resetAnswered_core p.val).trans (by rw [← ha]; rfl)
    have hport : (a.resetAnswered p.val).ports = ports := (a.resetAnswered_ports p.val).trans (by rw [← ha]; rfl)
    have hrom : (a.resetAnswered p.val).rom = s.rom := (a.resetAnswered_rom p.val).trans (by rw [← ha]; rfl)
    have hlog : (a.resetAnswered p.val).log.pos = s.log.pos + 1 := (a.resetAnswered_pos p.val).trans (by rw [← ha]; rfl)
    rw [hx, hwin] at hpart
    rw [State.resetAnswered_part, hpart]
    refine ⟨rfl, rfl, fun tile b => ?_, fun sp h => ?_, fun sp h => ?_, fun i b hi => ?_, rfl, rfl, rfl, rfl, rfl, fun b => ?_, hrom, hlog,
      fun i hi => ?_⟩
    · rw [State.sramByte, hcore, hsram]
      exact ⟨fun h => if_pos h, fun h => if_neg h⟩
    · rw [State.spire, hcore, hspires, if_pos h]
      exact ⟨rfl, rfl, rfl⟩
    · rw [State.spire, hcore, hspires, if_neg h]
    · rw [State.port, hport, hports i hi, Port.cleared_store]
    · rw [State.hbmByte, hcore, hhbm]
      rfl
    · have e := hrings i (hcfg ▸ hi)
      rw [hx] at e
      simp only [Part.ring, e]
      exact ⟨rfl, rfl, rfl⟩

end Sys2Proof.Machine
end

section
/-! SUPPORT. The end of the ingest freeze, and the load of a roster. -/

namespace Sys2Proof.Machine

theorem exec_runWindowOpen (s : State) : exec .runWindowOpen s = execRunWindowOpen s := rfl
theorem exec_rosterLoadDone (p : Fin 16) (cups : List CupolaUpset) (bursts : List (Nat × BurstRec)) (s : State) :
    exec (.rosterLoadDone p cups bursts) s = execRosterLoadDone p s cups bursts := rfl

/-! Work on each partition of a list. -/

/-- Work on the partitions of a list leaves every other one. -/
theorem foldl_part_ne (f : State → Nat → State) (hf : ∀ a q, (f a q).apart q = a.apart q) {l : List Nat} {p : Nat} (hp : p ∉ l) (s : State) :
    (l.foldl f s).part p = s.part p := by
  induction l generalizing s with
  | nil => rfl
  | cons q l ih =>
    obtain ⟨hq, hl⟩ := not_or.mp (List.mem_cons.not.mp hp)
    rw [List.foldl_cons, ih hl, part_of_apart (hf s q) hq]

/-- Each partition of a list is worked on once: in a state that still has of it what the first one had. -/
theorem foldl_part_at {γ : Type} (g : State → γ) (f : State → Nat → State) (hg : ∀ a q, g (f a q) = g a)
    (hf : ∀ a q, (f a q).apart q = a.apart q) {l : List Nat} (hl : l.Nodup) {p : Nat} (hp : p ∈ l) (s : State) :
    ∃ a, g a = g s ∧ a.part p = s.part p ∧ (l.foldl f s).part p = (f a p).part p := by
  induction l generalizing s with
  | nil => cases hp
  | cons q l ih =>
    obtain ⟨hq, hl⟩ := List.nodup_cons.mp hl
    rcases List.mem_cons.mp hp with rfl | hp
    · refine ⟨s, rfl, rfl, ?_⟩
      rw [List.foldl_cons, foldl_part_ne f hf hq]
    · obtain ⟨a, ha, hpart, e⟩ := ih hl hp (f s q)
      exact ⟨a, ha.trans (hg s q), hpart.trans (part_of_apart (hf s q) (fun h => hq (h ▸ hp))), e⟩

theorem State.definedParts_nodup (s : State) : s.definedParts.Nodup := List.Nodup.filter _ List.nodup_range

/-! The end of the ingest freeze in a partition. -/

/-- What work on the partitions leaves of every one, and of the rest of the state. -/
def State.bare (s : State) : State := { s.apart 0 with parts := [] }

theorem bare_of_apart {s t : State} {p : Nat} (h : t.apart p = s.apart p) : t.bare = s.bare :=
  congrArg (fun a : State => { a with parts := [] }) h

/-- The state in which the ingest freeze is over. -/
def State.thawed (s : State) : State := { s with tick := { s.tick with frozenUntil := none } }

theorem execRunWindowOpen_ends {s : State} {a : Nat} (hf : s.tick.frozenUntil = some a) (ha : a ≤ s.time) (hr : s.ticking = true) :
    execRunWindowOpen s = .next (s.definedParts.foldl State.endFreeze s.thawed) := by
  simp only [execRunWindowOpen, hf, hr]
  exact if_neg (by simpa using ha)

theorem State.endFreeze_due {s : State} {p : Nat} {st : TickStatus} (h : (s.part p).due = some st) :
    s.endFreeze p = ((s.setPart p { s.part p with due := none }).publish p st (s.part p).dueRun 0).consume p (fun r => r.recorded) := by
  simp [State.endFreeze, h]

theorem State.endFreeze_clear {s : State} {p : Nat} (h : (s.part p).due = none) : s.endFreeze p = s.tryOpen p := by
  simp [State.endFreeze, h]

theorem State.endFreeze_apart (s : State) (p : Nat) : (s.endFreeze p).apart p = s.apart p := by
  cases h : (s.part p).due with
  | none => rw [State.endFreeze_clear h, apart_of_aside (State.tryOpen_aside ..)]
  | some st =>
    rw [State.endFreeze_due h]
    exact apart_of_around ((around_of_beside (State.consume_beside ..)).trans
      ((State.publish_around ..).trans (around_of_beside (State.setPart_beside ..))))

/-- A partition after its due status has been published. -/
def Part.dueRecorded (x : Part) (st : TickStatus) : Part :=
  Part.recorded { x with due := none, last := some st, sel := if st = .onTime then !x.sel else x.sel } st

/-- A status that is due is published. -/
theorem State.endFreeze_part {s : State} {p : Nat} {st : TickStatus} (h : (s.part p).due = some st) (hl : s.tick.left = false)
    (hs : s.underScrub p (s.pcfg p).statusWindow = false) : ((s.endFreeze p).part p).noRings = ((s.part p).dueRecorded st).noRings := by
  have scrub : (s.setPart p { s.part p with due := none }).underScrub p ((s.setPart p { s.part p with due := none }).pcfg p).statusWindow = false := by
    unfold State.underScrub at hs ⊢
    rwa [State.part_setPart]
  rw [State.endFreeze_due h, State.consume_part, State.publish_part (by exact hl) scrub, State.part_setPart]
  rfl

theorem length_leBytes (n v : Nat) : (leBytes n v).length = n := by
  induction n generalizing v with
  | zero => rfl
  | succ n ih => rw [leBytes, List.length_cons, ih]

theorem State.length_statusRecord (s : State) (p : Nat) (st : TickStatus) (run slack : Nat) : (s.statusRecord p st run slack).length = 64 := by
  simp only [State.statusRecord, List.length_append, length_leBytes]

/-- Bytes written are read where they were written. -/
theorem State.hbmRead_of_putHbm {s : State} {m : Bytes} {a : Nat} {bs : List Byte} (h : s.core.hbm = putHbm m a bs) :
    s.hbmRead a bs.length = bs := by
  refine List.ext_getElem (by simp [State.hbmRead]) fun i hi hj => ?_
  have e : s.hbmByte (a + i) = bs.getD i 0#8 := by
    rw [State.hbmByte, h, putHbm, Tbl.get_putRun, if_pos (by omega), Nat.add_sub_cancel_left]
  simp [State.hbmRead, e, hj]

/-- The record of the due status stands in the status ring. -/
theorem State.endFreeze_record {s : State} {p : Nat} {st : TickStatus} (h : (s.part p).due = some st) (hl : s.tick.left = false)
    (hs : s.underScrub p (s.pcfg p).statusWindow = false) :
    (s.endFreeze p).hbmRead (s.recordAt p) 64 = s.statusRecord p st (s.part p).dueRun 0 := by
  let a := s.setPart p { s.part p with due := none }
  have scrub : a.underScrub p (a.pcfg p).statusWindow = false := by
    unfold State.underScrub at hs ⊢
    rwa [State.part_setPart]
  have record : a.statusRecord p st (s.part p).dueRun 0 = s.statusRecord p st (s.part p).dueRun 0 := by
    unfold State.statusRecord
    rw [State.part_setPart]
    rfl
  have hbm : (s.endFreeze p).core.hbm = putHbm s.core.hbm (s.recordAt p) (s.statusRecord p st (s.part p).dueRun 0) := by
    rw [State.endFreeze_due h, State.consume_core, State.publish_hbm (by exact hl) scrub, record]
    rfl
  simpa only [State.length_statusRecord] using State.hbmRead_of_putHbm hbm

/-- Where nothing keeps it shut, the run window opens. -/
theorem State.endFreeze_opens {s : State} {p : Nat} (hf : s.tick.frozenUntil = none) (hh : s.tick.halted = false)
    (hp : (s.part p).phase = .waiting) (hl : (s.part p).loading = false) (hd : (s.part p).draining = false)
    (hs : (s.part p).due = none) : s.endFreeze p = s.openWindow p := by
  rw [State.endFreeze_clear hs, State.tryOpen_opens hf hh hp hl hd hs]

theorem State.endFreeze_at (s : State) {p : Nat} (hp : p ∈ s.definedParts) :
    ∃ a : State, a.bare = s.thawed.bare ∧ a.part p = s.part p ∧
      (s.definedParts.foldl State.endFreeze s.thawed).part p = (a.endFreeze p).part p :=
  foldl_part_at State.bare State.endFreeze (fun a q => bare_of_apart (a.endFreeze_apart q)) State.endFreeze_apart s.definedParts_nodup hp s.thawed

theorem State.ticking_iff (s : State) : s.ticking = true ↔ s.boot.complete = true ∧ s.tick.halted = false ∧ s.tick.left = false := by
  simp [State.ticking, and_assoc]

/-! Reads that meet no uncorrectable burst. -/

/-- No burst of HBM is uncorrectable, and the log stands as given. -/
structure State.Clean (L : Log) (s : State) : Prop where
  bad : s.core.hbmBad = []
  log : s.log = L

theorem State.Clean.of_lasting {L : Log} {s t : State} (h : s.Clean L) (e : t.lasting = s.lasting) (l : t.log = s.log) : t.Clean L :=
  ⟨(State.eq_of_lasting (·.core.hbmBad) (fun _ => rfl) e).trans h.bad, l.trans h.log⟩

theorem State.Clean.badBurst {L : Log} {s : State} (h : s.Clean L) (a n : Nat) : s.badBurst a n = none := by
  simp [State.badBurst, State.badIn, h.bad]

theorem State.Clean.belfryRead {L : Log} {s : State} (h : s.Clean L) (k a n : Nat) :
    (s.belfryRead k a n).1 = none ∧ (s.belfryRead k a n).2.Clean L := by
  unfold State.belfryRead
  refine List.foldlRecOn (motive := fun acc : Option Nat × State => acc.1 = none ∧ acc.2.Clean L) _ _ ⟨rfl, h⟩ fun acc hacc line _ => ?_
  obtain ⟨h1, h2⟩ := hacc
  simp only [h1, h2.badBurst]
  split
  · exact ⟨rfl, h2.of_lasting (State.setCupola_lasting ..) rfl⟩
  · exact ⟨rfl, h2.of_lasting (State.setCupola_lasting ..) rfl⟩

theorem State.Clean.calFetch {L : Log} {s : State} (h : s.Clean L) (k head at_ len : Nat) :
    (s.calFetch k head at_ len).1 = none ∧ (s.calFetch k head at_ len).2.Clean L := by
  have r := h.belfryRead k head 144
  unfold State.calFetch
  dsimp only
  split
  · exact r
  · exact r.2.belfryRead ..

theorem State.Clean.loadPiece {L : Log} {s : State} (h : s.Clean L) (part : PlanPart) (base q : Nat) : (State.loadPiece part base s q).Clean L := by
  unfold State.loadPiece
  dsimp only
  split
  · exact h
  · obtain ⟨none, clean⟩ := h.belfryRead (halfOf part.spire) (base + part.off + q * 1024) (min 1024 (part.len - q * 1024))
    split <;> rename_i e <;> rw [e] at none clean
    · cases none
    · exact clean.of_lasting (State.onSpire_lasting ..) rfl

theorem State.Clean.moveRing {L : Log} {s : State} (h : s.Clean L) (part : PlanPart) (base lo : Nat) : (s.moveRing part base lo).Clean L := by
  unfold State.moveRing
  split
  · exact h
  · exact List.foldlRecOn _ _ (h.of_lasting (State.setSpire_lasting ..) rfl) fun a ha q _ => ha.loadPiece part base q

theorem State.Clean.reload {L : Log} {s : State} (h : s.Clean L) (p : Nat) : (s.reload p).Clean L := by
  unfold State.reload
  refine List.foldlRecOn _ _ h fun a ha sp _ => ?_
  split
  · exact (ha.of_lasting (State.onSpire_lasting ..) rfl).moveRing ..
  · exact ha

theorem State.Clean.loadFixed {L : Log} {s : State} (h : s.Clean L) (plan : Plan) (sp head at_ len : Nat) :
    (s.loadFixed plan sp head at_ len).Clean L := by
  unfold State.loadFixed
  split
  · exact h
  · rename_i part _
    obtain ⟨none, clean⟩ := h.calFetch (halfOf sp) head at_ len
    dsimp only
    split <;> rename_i s1 e <;> rw [e] at none clean
    · cases none
    · split
      · exact clean
      · obtain ⟨none2, clean2⟩ := clean.belfryRead (halfOf sp) (plan.base + part.off) part.len
        split <;> rename_i e2 <;> rw [e2] at none2 clean2
        · cases none2
        · exact clean2

/-! The Span programs of a roster. -/

theorem State.loadPrograms_eq (s : State) (p : Nat) (r : RosterCfg) : ∃ x, s.loadPrograms p r = { s with ports := x } ∧
    ∀ i, i < 8 → ((Tbl.get {} i x).lane p).program = r.programs.find? (fun g => decide (g.port = i)) := by
  obtain ⟨x, e, hx⟩ := foldl_onPort (fun _ i (y : Port) =>
    let prog := r.programs.find? (fun g => decide (g.port = i))
    if prog.isSome ∨ (y.lane p).program.isSome then y.onLane p (fun _ => { program := prog }) else y) (List.nodup_range (n := 8)) s
  refine ⟨x, e, fun i hi => ?_⟩
  rw [hx, if_pos (List.mem_range.mpr hi)]
  dsimp only
  split
  · rw [Port.lane_onLane]
  · rename_i h
    simp only [not_or, Bool.not_eq_true, Option.isSome_eq_false_iff, Option.isNone_iff_eq_none] at h
    rw [h.1, h.2]

/-! Zeros over the fill frames. -/

/-- What zeros over a range of HBM leave. -/
def State.dryMemory (s : State) : State := { s with core := { sram := s.core.sram } }

theorem State.hbmZero_dryMemory (s : State) (a n : Nat) : (s.hbmZero a n).dryMemory = s.dryMemory := rfl

theorem foldl_hbmZero_byte {α : Type} (at_ len : α → Nat) (l : List α) (s : State) (b : Nat) :
    (l.foldl (fun (a : State) c => a.hbmZero (at_ c) (len c)) s).hbmByte b =
      if ∃ c ∈ l, at_ c ≤ b ∧ b < at_ c + len c then 0#8 else s.hbmByte b := by
  induction l generalizing s with
  | nil => simp
  | cons c l ih =>
    have zero : (s.hbmZero (at_ c) (len c)).hbmByte b = if at_ c ≤ b ∧ b < at_ c + len c then 0#8 else s.hbmByte b := Tbl.get_clear ..
    rw [List.foldl_cons, ih, zero]
    by_cases h : ∃ d ∈ l, at_ d ≤ b ∧ b < at_ d + len d
    · rw [if_pos h, if_pos (by simpa using .inr h)]
    · simp [h]

/-! The start of a roster. -/

/-- A partition whose roster has started. -/
def Part.onRoster (x : Part) (r : RosterCfg) : Part := { x with plan := r.plan, loading := false, answers := none, lateRun := 0 }

/-- The start of a roster to where its plan and programs are in force. -/
def State.rosterSet (s : State) (p : Nat) (r : RosterCfg) : State := (s.setPart p ((s.part p).onRoster r)).loadPrograms p r

/-- Then the calendars and the streams are read. -/
def State.rosterRead (s : State) (p : Nat) (r : RosterCfg) : State :=
  State.reload ((s.spiresOf p).foldl (fun (a : State) sp =>
    let c := a.calSetOf r.plan sp r.plan.calInit
    let set := if (r.plan.partOf sp).isSome then c.1 else {}
    (a.loadFixed r.plan sp (r.plan.base + (a.calPlace r.plan r.plan.calInit).1) c.2.1 c.2.2).onSpire sp
      (fun y => { y with calInit := set, ringLo := 0, ringHi := 0 })) (s.rosterSet p r)) p

/-- Then the fill frames are cleared. -/
def State.rosterZeroed (s : State) (p : Nat) (r : RosterCfg) : State :=
  (s.pcfg p).rings.foldl (fun (a : State) c => a.hbmZero ((s.cfg.window p c.window).addr c.fillOff) (c.chunks * c.chunk)) (s.rosterRead p r)

/-- Then the start is logged, and a request for it answered. -/
def State.rosterTold (s : State) (p : Nat) (r : RosterCfg) : State :=
  let s4 := (s.rosterZeroed p r).event 0x0007 0 (some p) r.id
  match (s.part p).answers with
  | none => s4
  | some w =>
    (s4.finish w.fn w.msgId 1 stOk (leBytes 8 s.tickWord)).respond (if w.fn = pfFn then p else pfFn) 0xFFFF 0x81 0
      (leBytes 2 r.id ++ leBytes 6 0 ++ leBytes 8 s.tickWord)

theorem State.startRoster_eq (s : State) (p : Nat) (r : RosterCfg) : s.startRoster p r = (s.rosterTold p r).tryOpen p := rfl

theorem execRosterLoadDone_ends {s : State} {p : Fin 16} {r : RosterCfg} (hl : (s.part p.val).loading = true)
    (hd : (s.part p.val).draining = false) (hr : s.activeRoster p.val = some r) (hg : s.goesOn = true)
    (cups : List CupolaUpset) (bursts : List (Nat × BurstRec)) :
    execRosterLoadDone p s cups bursts = .next (((s.strike cups).countEach bursts).startRoster p.val r) := by
  simp [execRosterLoadDone, hl, hd, hr, hg]

/-- What the reads and the clearing of a roster's start leave: all but the log, the host's functions, and of the core what is not tile SRAM. -/
def State.kept (s : State) : State := { s.lasting with core := { sram := s.core.sram } }

theorem kept_of_lasting {s t : State} (h : t.lasting = s.lasting) : t.kept = s.kept := State.eq_of_lasting State.kept (fun _ => rfl) h
theorem kept_of_dryMemory {s t : State} (h : t.dryMemory = s.dryMemory) : t.kept = s.kept := (congrArg State.kept h :)

theorem State.rosterRead_lasting (s : State) (p : Nat) (r : RosterCfg) : (s.rosterRead p r).lasting = (s.rosterSet p r).lasting := by
  unfold State.rosterRead
  rw [State.reload_lasting]
  exact foldl_keeps State.lasting _ (fun a sp => (State.onSpire_lasting ..).trans (State.loadFixed_lasting ..)) _ _

theorem State.Clean.rosterRead {L : Log} {s : State} (h : s.Clean L) (p : Nat) (r : RosterCfg) : (s.rosterRead p r).Clean L := by
  obtain ⟨x, e, -⟩ := (s.setPart p ((s.part p).onRoster r)).loadPrograms_eq p r
  have set : (s.rosterSet p r).Clean L := by
    unfold State.rosterSet
    rw [e]
    exact ⟨h.bad, h.log⟩
  exact (List.foldlRecOn _ _ set fun a ha sp _ => (ha.loadFixed ..).of_lasting (State.onSpire_lasting ..) rfl).reload p

theorem State.rosterZeroed_dryMemory (s : State) (p : Nat) (r : RosterCfg) : (s.rosterZeroed p r).dryMemory = (s.rosterRead p r).dryMemory :=
  foldl_keeps State.dryMemory _ (fun a _ => a.hbmZero_dryMemory ..) _ _

theorem State.rosterTold_lasting (s : State) (p : Nat) (r : RosterCfg) : (s.rosterTold p r).lasting = (s.rosterZeroed p r).lasting := by
  unfold State.rosterTold
  dsimp only
  split <;> simp

theorem State.rosterTold_log (s : State) (p : Nat) (r : RosterCfg) : (s.rosterTold p r).log.pos = (s.rosterZeroed p r).log.pos + 1 := by
  unfold State.rosterTold
  dsimp only
  split <;> simp [State.event_pos]

theorem State.rosterTold_kept (s : State) (p : Nat) (r : RosterCfg) : (s.rosterTold p r).kept = (s.rosterSet p r).kept :=
  (kept_of_lasting (s.rosterTold_lasting p r)).trans ((kept_of_dryMemory (s.rosterZeroed_dryMemory p r)).trans
    (kept_of_lasting (s.rosterRead_lasting p r)))

/-- What a started roster leaves beside its partition and the ports. -/
theorem State.rosterSet_beside (s : State) (p : Nat) (r : RosterCfg) : (s.rosterSet p r).beside p = s.beside p := by
  obtain ⟨x, e, -⟩ := (s.setPart p ((s.part p).onRoster r)).loadPrograms_eq p r
  unfold State.rosterSet
  rw [e]
  exact State.setPart_beside s p _

theorem State.rosterTold_beside (s : State) (p : Nat) (r : RosterCfg) : (s.rosterTold p r).beside p = s.beside p :=
  (congrArg (fun a : State => a.beside p) (s.rosterTold_kept p r)).trans (s.rosterSet_beside p r)

/-- The new plan is in force. -/
theorem State.rosterTold_part (s : State) (p : Nat) (r : RosterCfg) : (s.rosterTold p r).part p = (s.part p).onRoster r := by
  obtain ⟨x, e, -⟩ := (s.setPart p ((s.part p).onRoster r)).loadPrograms_eq p r
  have set : (s.rosterSet p r).part p = (s.part p).onRoster r := by
    unfold State.rosterSet
    rw [e]
    exact State.part_setPart ..
  exact (congrArg (fun a : State => a.part p) (s.rosterTold_kept p r)).trans set

/-- The new Span programs are in force. -/
theorem State.rosterTold_programOn (s : State) (p : Nat) (r : RosterCfg) {i : Nat} (hi : i < 8) :
    (s.rosterTold p r).programOn i p = r.programs.find? (fun g => decide (g.port = i)) := by
  obtain ⟨x, e, hx⟩ := (s.setPart p ((s.part p).onRoster r)).loadPrograms_eq p r
  have set : (s.rosterSet p r).programOn i p = r.programs.find? (fun g => decide (g.port = i)) := by
    unfold State.rosterSet
    rw [e]
    exact hx i hi
  exact (congrArg (fun a : State => a.programOn i p) (s.rosterTold_kept p r)).trans set

/-- The fill frames read 0, and every other byte as before. -/
theorem State.rosterTold_byte (s : State) (p : Nat) (r : RosterCfg) (b : Nat) : (s.rosterTold p r).hbmByte b =
    if ∃ c ∈ (s.pcfg p).rings, (s.cfg.window p c.window).addr c.fillOff ≤ b ∧ b < (s.cfg.window p c.window).addr c.fillOff + c.chunks * c.chunk
    then 0#8 else s.hbmByte b := by
  obtain ⟨x, e, -⟩ := (s.setPart p ((s.part p).onRoster r)).loadPrograms_eq p r
  have set : (s.rosterSet p r).hbmByte b = s.hbmByte b := by
    unfold State.rosterSet
    rw [e]
    rfl
  rw [State.eq_of_lasting (·.hbmByte b) (fun _ => rfl) (s.rosterTold_lasting p r), State.rosterZeroed, foldl_hbmZero_byte,
    State.eq_of_lasting (·.hbmByte b) (fun _ => rfl) (s.rosterRead_lasting p r), set]

theorem State.rosterTold_pos {s : State} (h : s.core.hbmBad = []) (p : Nat) (r : RosterCfg) : (s.rosterTold p r).log.pos = s.log.pos + 1 := by
  have read : (s.rosterRead p r).log = s.log := (State.Clean.rosterRead ⟨h, rfl⟩ p r).log
  have zeroed : (s.rosterZeroed p r).log = (s.rosterRead p r).log := (congrArg State.log (s.rosterZeroed_dryMemory p r) :)
  rw [State.rosterTold_log, zeroed, read]

/-- What the errors in the reads of a load change of the log. -/
theorem State.struck_log (s : State) (cups : List CupolaUpset) (bursts : List (Nat × BurstRec)) :
    ((s.strike cups).countEach bursts).log = s.log := by
  have struck : (s.strike cups).log = s.log := by
    unfold State.strike
    refine foldl_keeps State.log _ (fun _ _ => ?_) _ _
    rfl
  refine (foldl_keeps State.log _ (fun a b => ?_) _ _).trans struck
  unfold State.countBursts
  split <;> rfl

theorem State.struck_lasting (s : State) (cups : List CupolaUpset) (bursts : List (Nat × BurstRec)) :
    ((s.strike cups).countEach bursts).lasting = s.lasting := (State.countEach_lasting ..).trans (State.strike_lasting ..)

/-- Settles O47: a partition meets the end of the ingest freeze in a state that has of it what the first one had; a roster's start is followed from stage to stage. -/
theorem runWindowsOpen : Obligations.RunWindowsOpen := by
  intro s hs
  obtain ⟨-, hh, hl⟩ := s.ticking_iff.mp hs
  simp only [exec_runWindowOpen, exec_rosterLoadDone]
  refine ⟨fun a hf ha => ?_, fun p r cups bursts hload hd hr hbad hg => ?_⟩
  · have rest : (s.definedParts.foldl State.endFreeze s.thawed).bare = s.thawed.bare :=
      foldl_keeps State.bare _ (fun a q => bare_of_apart (a.endFreeze_apart q)) _ _
    refine ⟨_, execRunWindowOpen_ends hf ha hs, (congrArg (·.tick.frozenUntil) rest :), (congrArg State.rom rest :), fun p hp => ?_⟩
    obtain ⟨b, hb, part, e⟩ := s.endFreeze_at hp
    have cfg : b.cfg = s.cfg := (congrArg State.cfg hb :)
    have left : b.tick.left = false := (congrArg (·.tick.left) hb :).trans hl
    have halted : b.tick.halted = false := (congrArg (·.tick.halted) hb :).trans hh
    have frozen : b.tick.frozenUntil = none := (congrArg (·.tick.frozenUntil) hb :)
    refine ⟨fun st hst hscrub => ?_, fun hdue hw hn hdr => ?_⟩
    · have scrub : b.underScrub p (b.pcfg p).statusWindow = false := by
        unfold State.underScrub State.pcfg at hscrub ⊢
        rwa [part, cfg]
      have h := State.endFreeze_part (by rwa [part]) left scrub
      rw [part] at h
      have field {γ : Type} (g : Part → γ) (hg : ∀ y : Part, g y.noRings = g y) :
          g ((s.definedParts.foldl State.endFreeze s.thawed).part p) = g ((s.part p).dueRecorded st) := by
        rw [e, Part.eq_of_noRings g hg h]
      refine ⟨field Part.published fun _ => rfl, field Part.last fun _ => rfl, field Part.due fun _ => rfl, field Part.statusPi fun _ => rfl,
        fun one => ?_⟩
      rw [one]
      exact State.endFreeze_record (s := s.thawed) hst hl hscrub
    · rw [e, State.endFreeze_opens frozen halted (by rwa [part]) (by rwa [part]) (by rwa [part]) (by rwa [part])]
      obtain ⟨ph, hph, e⟩ := b.openWindow_part p
      rw [e]
      exact ⟨by simpa using hph, rfl⟩
  · let a := (s.strike cups).countEach bursts
    have ha : a.lasting = s.lasting := s.struck_lasting cups bursts
    have pos : (a.rosterTold p r).log.pos = s.log.pos + 1 := by
      rw [State.rosterTold_pos ((State.eq_of_lasting (·.core.hbmBad) (fun _ => rfl) ha).trans hbad), s.struck_log]
    have beside : (a.rosterTold p r).beside p = s.beside p := (a.rosterTold_beside p r).trans (beside_of_lasting ha p)
    have part : (a.rosterTold p r).part p = (s.part p).onRoster r := by
      rw [State.rosterTold_part, State.eq_of_lasting (·.part p) (fun _ => rfl) ha]
    have tick : (a.rosterTold p r).tick = s.tick := (congrArg State.tick beside :)
    have byte (b : Nat) := a.rosterTold_byte p r b
    rw [State.eq_of_lasting State.cfg (fun _ => rfl) ha, State.pcfg, State.eq_of_lasting State.cfg (fun _ => rfl) ha,
      funext (State.eq_of_lasting State.hbmByte (fun _ => rfl) ha ▸ fun _ => rfl : ∀ b, a.hbmByte b = s.hbmByte b)] at byte
    refine ⟨_, execRosterLoadDone_ends hload hd hr hg cups bursts, ?_, fun f hf => ?_, fun hf hw hdue => ?_, fun i hi => ?_, fun c hc b hb => ?_,
      fun b hb => ?_⟩ <;> rw [State.startRoster_eq]
    · exact (congrArg State.rom (State.tryOpen_aside _ p) :).trans (congrArg State.rom beside :)
    · rw [State.tryOpen_frozen (tick ▸ hf)]
      exact ⟨fun tile b => (congrArg (·.sramByte tile b) beside :), pos, part⟩
    · rw [State.tryOpen_opens (tick ▸ hf) (tick ▸ hh) (by rwa [part]) (by rw [part]; rfl) (by rwa [part]) (by rwa [part])]
      obtain ⟨ph, hph, e⟩ := (a.rosterTold p r).openWindow_part p
      rw [e, part]
      exact ⟨by simpa using hph, rfl, rfl, rfl, rfl, rfl, rfl⟩
    · exact (State.tryOpen_programOn ..).trans (a.rosterTold_programOn p r hi)
    · rw [State.hbmByte, State.tryOpen_hbm]
      exact (byte b).trans (if_pos ⟨c, hc, hb⟩)
    · rw [State.hbmByte, State.tryOpen_hbm]
      exact (byte b).trans (if_neg fun ⟨c, hc, h⟩ => hb c hc h)

end Sys2Proof.Machine
end

section
/-! SUPPORT. What an edge does: it closes the tick in progress, numbers the next one and opens it in every partition. -/

namespace Sys2Proof.Machine

theorem exec_tickEdge (s : State) : exec .tickEdge s = execTickEdge s := rfl
theorem exec_tickOutFall (s : State) : exec .tickOutFall s = execTickOutFall s := rfl

/-! The tick in progress is closed. -/

/-- A step that is made or not leaves what it leaves where it is made. -/
theorem around_ite {c : Prop} [Decidable c] {s a b t : State} {p : Nat} (ha : a.around p = s.around p) (hb : b.around p = s.around p)
    (ht : s.around p = t.around p) : (if c then a else b).around p = t.around p := by
  split
  · exact ha.trans ht
  · exact hb.trans ht

theorem around_of_lasting {s t : State} (h : t.lasting = s.lasting) (p : Nat) : t.around p = s.around p :=
  around_of_beside (beside_of_lasting h p)

theorem State.latePolicy_around (s : State) (p : Nat) : (s.latePolicy p).around p = s.around p := by
  unfold State.latePolicy
  dsimp only
  refine around_ite rfl ?_ rfl
  refine (around_of_lasting ((State.signal_lasting ..).trans (State.event_lasting ..)) p).trans (around_ite ?_ rfl rfl)
  exact around_of_beside (State.setPart_beside ..)

/-- A late tick ends in its own partition. -/
theorem State.lateTick_around (s : State) (p : Nat) : (s.lateTick p).around p = s.around p := by
  have onPart (a : State) (f : Part → Part) : (a.onPart p f).around p = a.around p := around_of_beside (State.onPart_beside ..)
  unfold State.lateTick
  dsimp only
  refine around_ite ((around_of_lasting (State.freezeAll_lasting ..) p).trans (onPart ..)) rfl ?_
  refine around_ite (around_of_beside (State.onRings_beside ..)) (around_of_beside (State.consume_beside ..)) ?_
  refine (onPart ..).trans (around_ite (around_of_lasting ((State.reload_lasting ..).trans (State.stopEngines_lasting ..)) p) rfl ?_)
  refine around_ite (around_of_lasting (State.logStalls_lasting ..) p) rfl ?_
  exact (State.latePolicy_around ..).trans ((State.publish_around ..).trans (around_of_beside (State.setPart_beside ..)))

theorem State.closePart_around (s : State) (edge p : Nat) : (s.closePart edge p).around p = s.around p := by
  unfold State.closePart
  dsimp only
  exact around_ite (around_ite rfl (s.lateTick_around p) rfl) (around_of_beside (State.setPart_beside ..)) rfl

theorem State.restretch_around (s : State) (ns p : Nat) : (s.restretch ns p).around p = s.around p := by
  unfold State.restretch
  dsimp only
  refine around_ite rfl (around_ite (around_of_beside (State.onPart_beside ..)) ?_ rfl) rfl
  exact around_of_beside ((State.hbmWrite_beside ..).trans (State.meetSoft_beside ..))

theorem State.endRun_around (s : State) (p : Nat) : (s.endRun p).around p = s.around p := around_of_beside (State.onPart_beside ..)

theorem steady_of_untold {s t : State} (h : t.untold = s.untold) : t.steady = s.steady := steady_of_around (around_of_untold h 0)

theorem State.part_of_untold {s t : State} (h : t.untold = s.untold) (p : Nat) : t.part p = s.part p :=
  State.eq_of_untold (·.part p) (fun _ => rfl) h

/-- The stretch of a tick that ends, in ns. -/
def State.stretchNs (s : State) (edge : Nat) : Nat := (edge - (s.tick.lastEdge + s.periodUnits)) / unitsPerNs

/-- The state in which the stretch of the tick that ends has been counted. -/
def State.stretched (s : State) (ns : Nat) : State :=
  let t := s.tick
  let count := t.stretchCount + (if ns = 0 then 0 else 1)
  let s1 := { s with tick := { t with stretchCount := count, stretchTotal := t.stretchTotal + ns, stretchMax := max t.stretchMax ns } }
  if ns ≠ 0 ∧ count = 1 then s1.event 0x0107 1 none ns else s1

theorem State.closeStretch_eq (s : State) (edge : Nat) : s.closeStretch edge = if !s.cfg.pod then s else
    (s.stretched (s.stretchNs edge)).definedParts.foldl (fun (a : State) p => a.restretch (s.stretchNs edge) p) (s.stretched (s.stretchNs edge)) := rfl

theorem State.stretched_untold (s : State) (ns : Nat) : (s.stretched ns).untold = s.untold := by
  unfold State.stretched
  dsimp only
  generalize s.tick.stretchCount + (if ns = 0 then 0 else 1) = count
  split
  · rw [State.event_untold]
    rfl
  · rfl

theorem State.closeStretch_steady (s : State) (edge : Nat) : (s.closeStretch edge).steady = s.steady := by
  rw [State.closeStretch_eq]
  split
  · rfl
  · exact (foldl_keeps State.steady _ (fun a p => steady_of_around (a.restretch_around _ p)) _ _).trans (steady_of_untold (s.stretched_untold _))

theorem State.closeTick_steady (s : State) (edge : Nat) : (s.closeTick edge).steady = s.steady := by
  unfold State.closeTick
  split
  · rfl
  · exact (foldl_keeps State.steady _ (fun a p => steady_of_around (a.closePart_around edge p)) _ _).trans (s.closeStretch_steady edge)

/-- The shed level moves to a value and says so. -/
def State.shedTo (s : State) (level : Nat) : State :=
  if level = s.tick.shedLevel then s
  else
    let s1 := { s with tick := { s.tick with shedLevel := level, shedAt := some s.time } }
    (s1.event 0x010A 2 none (level + s1.tempBits 8)).signal pfFn 3

theorem State.shedStep_eq (s : State) : ∃ level, s.shedStep = s.shedTo level := ⟨_, rfl⟩

theorem State.shedStep_untold (s : State) : s.shedStep.untold = s.untold := by
  obtain ⟨level, e⟩ := s.shedStep_eq
  rw [e, State.shedTo]
  dsimp only
  split
  · rfl
  · rw [State.signal_untold, State.event_untold]
    rfl

theorem State.numberTick_untold (s : State) (cause : EdgeCause) : (s.numberTick cause).2.untold = s.untold := by
  unfold State.numberTick
  split
  · split
    · rfl
    · exact State.event_untold ..
  · rfl

/-- The state in which the stretches of a run of ticks have been summed up. -/
def State.runSummed (s : State) : State :=
  let t := s.tick
  let s1 := if s.cfg.pod ∧ t.stretchCount > 1 then
      s.event 0x0108 1 none (t.stretchCount % 2 ^ 16 + t.stretchTotal / 1000 * 2 ^ 16) else s
  { s1 with tick := { s1.tick with stretchCount := 0, stretchTotal := 0, stretchMax := 0 } }

theorem State.closeRun_eq (s : State) (n : Nat) : s.closeRun n = match s.tick.count with
    | none => s
    | some m => if m / 256 = n / 256 then s else s.runSummed.definedParts.foldl State.endRun s.runSummed := rfl

theorem State.runSummed_untold (s : State) : s.runSummed.untold = s.untold := by
  unfold State.runSummed
  dsimp only
  split
  · exact (State.event_untold s _ _ _ _ _ :)
  · rfl

theorem State.closeRun_steady (s : State) (n : Nat) : (s.closeRun n).steady = s.steady := by
  rw [State.closeRun_eq]
  split
  · rfl
  · split
    · rfl
    · exact (foldl_keeps State.steady State.endRun (fun a p => steady_of_around (a.endRun_around p)) _ _).trans
        (steady_of_untold s.runSummed_untold)

/-! A record that has been published stays published until the next tick opens. -/

/-- Work on each partition of a list that leaves published what is published does so as a whole. -/
theorem foldl_published {f : State → Nat → State} (hf : ∀ a q, (f a q).around q = a.around q)
    (hp : ∀ a q, (a.part q).published = true → ((f a q).part q).published = true) (l : List Nat) {s : State} {p : Nat}
    (h : (s.part p).published = true) : ((l.foldl f s).part p).published = true := by
  refine List.foldlRecOn (motive := fun a : State => (a.part p).published = true) l f h fun a ha q _ => ?_
  by_cases e : p = q
  · exact e ▸ hp a p ha
  · rwa [part_of_apart (apart_of_around (hf a q)) e]

theorem State.closePart_published (s : State) (edge p : Nat) (h : (s.part p).published = true) : ((s.closePart edge p).part p).published = true := by
  unfold State.closePart
  simp only [h, Bool.not_true, Bool.false_eq_true, if_false, State.part_setPart]
  split
  · rfl
  · exact h

theorem published_ite {c : Prop} [Decidable c] {a b : State} {p : Nat} (ha : (a.part p).published = true) (hb : (b.part p).published = true) :
    ((if c then a else b).part p).published = true := by
  split
  · exact ha
  · exact hb

theorem State.restretch_published (s : State) (ns p : Nat) (h : (s.part p).published = true) : ((s.restretch ns p).part p).published = true := by
  unfold State.restretch
  dsimp only
  refine published_ite h (published_ite ?_ ?_)
  · rw [State.part_onPart]
    exact h
  · exact (congrArg (fun a : State => (a.part p).published) (s.meetSoft_lasting _ 64) :).trans h

theorem State.endRun_published (s : State) (p : Nat) (h : (s.part p).published = true) : ((s.endRun p).part p).published = true := by
  unfold State.endRun
  rw [State.part_onPart]
  exact h

theorem State.closeTick_published (s : State) (edge : Nat) {p : Nat} (h : (s.part p).published = true) :
    ((s.closeTick edge).part p).published = true := by
  unfold State.closeTick
  split
  · exact h
  · refine foldl_published (fun a q => a.closePart_around edge q) (fun a q => a.closePart_published edge q) _ ?_
    rw [State.closeStretch_eq]
    split
    · exact h
    · refine foldl_published (fun a q => a.restretch_around _ q) (fun a q => a.restretch_published _ q) _ ?_
      rwa [State.part_of_untold (s.stretched_untold _)]

theorem State.closeRun_published (s : State) (n : Nat) {p : Nat} (h : (s.part p).published = true) :
    ((s.closeRun n).part p).published = true := by
  rw [State.closeRun_eq]
  split
  · exact h
  · split
    · exact h
    · refine foldl_published State.endRun_around State.endRun_published _ ?_
      rwa [State.part_of_untold s.runSummed_untold]

/-! The next tick gets its number. -/

/-- The number of the tick that an edge opens. -/
def State.numberAt (s : State) (cause : EdgeCause) : Nat := match cause with
  | .beacon k => k
  | _ => s.nextTick

theorem State.numberTick_fst (s : State) (cause : EdgeCause) : (s.numberTick cause).1 = s.numberAt cause := by
  cases cause with
  | beacon k =>
    unfold State.numberTick
    dsimp only
    split <;> rfl
  | _ => rfl

theorem numberAt_of_steady {s t : State} (h : t.steady = s.steady) (cause : EdgeCause) : t.numberAt cause = s.numberAt cause :=
  (congrArg (fun a : State => a.numberAt cause) h :)

/-- The state in which the edge that is due is being made. -/
def State.dueTaken (s : State) : State := { s with tick := { s.tick with due := none } }

/-- The state in which an edge has closed the tick in progress and numbered the next. -/
def State.edgeNumbered (s : State) (cause : EdgeCause) (at_ : Nat) : Nat × State := (s.dueTaken.closeTick at_).shedStep.numberTick cause

/-- And in which the run of ticks it may end is closed too. -/
def State.edgeClosed (s : State) (cause : EdgeCause) (at_ : Nat) : State := (s.edgeNumbered cause at_).2.closeRun (s.numberAt cause)

theorem State.edgeNumbered_fst (s : State) (cause : EdgeCause) (at_ : Nat) : (s.edgeNumbered cause at_).1 = s.numberAt cause := by
  have h : (s.dueTaken.closeTick at_).shedStep.steady = s.dueTaken.steady :=
    (steady_of_untold (State.shedStep_untold _)).trans (State.closeTick_steady ..)
  rw [State.edgeNumbered, State.numberTick_fst, numberAt_of_steady h]
  rfl

theorem State.edgeClosed_steady (s : State) (cause : EdgeCause) (at_ : Nat) :
    (s.edgeClosed cause at_).steady = s.dueTaken.steady :=
  (State.closeRun_steady ..).trans ((steady_of_untold (State.numberTick_untold ..)).trans ((steady_of_untold (State.shedStep_untold _)).trans
    (State.closeTick_steady ..)))

theorem State.edgeClosed_published (s : State) (cause : EdgeCause) (at_ : Nat) {p : Nat} (h : (s.part p).published = true) :
    ((s.edgeClosed cause at_).part p).published = true := by
  refine State.closeRun_published _ _ ?_
  rw [State.edgeNumbered, State.part_of_untold (State.numberTick_untold ..), State.part_of_untold (State.shedStep_untold _)]
  exact State.closeTick_published _ _ h

/-! The next tick opens in a partition. -/

theorem State.endSwitch_beside (s : State) (p status : Nat) : (s.endSwitch p status).beside p = s.beside p := by
  unfold State.endSwitch
  split
  · rfl
  · rw [State.finish_beside, State.onPart_beside]

theorem State.takeRoster_beside (s : State) (n p id : Nat) (w : Option Switch) : (s.takeRoster n p id w).beside p = s.beside p := by
  unfold State.takeRoster
  dsimp only
  rw [State.onPart_beside]
  split
  · rfl
  · rw [State.finish_beside]

/-- The switch of a roster at an edge. -/
def State.edgeSwitch (s : State) (p n : Nat) : State :=
  match (s.part p).switch with
  | none => s
  | some w =>
    match s.cfg.roster p w.roster with
    | none => s.endSwitch p stNoRoster
    | some r =>
      if s.cfg.pod then
        if n < w.atTick ∨ !s.before w.at_ s.tick.lastEdge then s
        else if n = w.atTick ∧ s.selectable r then s.takeRoster n p w.roster (some w) else s.endSwitch p stUnselectable
      else if s.unselectable r then s.endSwitch p stUnselectable
      else if w.atTick ≤ n ∧ s.before w.at_ s.tick.lastEdge ∧ s.resident r then s.takeRoster n p w.roster (some w)
      else s

/-- The initial roster, where there is none. -/
def State.firstPick (s : State) (p n : Nat) : State :=
  if (s.part p).roster.isSome then s
  else match s.cfg.roster p (s.pcfg p).initialRoster with
    | some r => if s.selectable r then s.takeRoster n p r.id none else s
    | none => s

theorem State.pickRoster_eq (s : State) (p n : Nat) :
    s.pickRoster p n = if (s.part p).resetting || s.partFrozen p then s else (s.edgeSwitch p n).firstPick p n := rfl

theorem State.edgeSwitch_beside (s : State) (p n : Nat) : (s.edgeSwitch p n).beside p = s.beside p := by
  unfold State.edgeSwitch
  split
  · rfl
  · split
    · exact State.endSwitch_beside ..
    · split
      · split
        · rfl
        · split
          · exact State.takeRoster_beside ..
          · exact State.endSwitch_beside ..
      · split
        · exact State.endSwitch_beside ..
        · split
          · exact State.takeRoster_beside ..
          · rfl

theorem State.firstPick_beside (s : State) (p n : Nat) : (s.firstPick p n).beside p = s.beside p := by
  unfold State.firstPick
  split
  · rfl
  · split
    · split
      · exact State.takeRoster_beside ..
      · rfl
    · rfl

theorem State.pickRoster_beside (s : State) (p n : Nat) : (s.pickRoster p n).beside p = s.beside p := by
  rw [State.pickRoster_eq]
  split
  · rfl
  · rw [State.firstPick_beside, State.edgeSwitch_beside]

/-- What is left of a partition without what the ingest of its frames writes. -/
def Part.unfed (x : Part) : Part := { x with rings := [], placed := 0, discarded := 0, heldWrites := [] }

theorem State.ownWrite_part (f : Nat) (s : State) (a : Nat) (bs : List Byte) (p : Nat) : (State.ownWrite f s a bs).part p = s.part p :=
  part_of_apart (apart_of_aside (aside_of_beside (State.ownWrite_beside f s a bs (p + 1)))) (Nat.ne_of_lt p.lt_succ_self)

theorem State.ingestRing_beside (s : State) (p : Nat) (roster : Option RosterCfg) (i : Nat) (c : RingCfg) :
    (s.ingestRing p roster i c).beside p = s.beside p := by
  unfold State.ingestRing
  dsimp only
  split
  · split <;> simp
  · simp

theorem State.ingestRing_unfed (s : State) (p : Nat) (roster : Option RosterCfg) (i : Nat) (c : RingCfg) :
    ((s.ingestRing p roster i c).part p).unfed = (s.part p).unfed := by
  unfold State.ingestRing
  dsimp only
  split
  · split
    · rw [State.part_onPart, State.part_setPart]
      rfl
    · rw [State.ownWrite_part, State.part_setPart]
      rfl
  · rw [State.part_setPart]
    rfl

theorem State.ingest_beside (s : State) (p : Nat) (roster : Option RosterCfg) : (s.ingest p roster).beside p = s.beside p := by
  unfold State.ingest
  exact (foldl_keeps (fun a : State => a.beside p) _ (fun a _ => a.ingestRing_beside ..) _ _).trans ((State.onPart_beside ..).trans (State.onRings_beside ..))

/-- The ingest leaves the phase and the status of its partition. -/
theorem State.ingest_unfed (s : State) (p : Nat) (roster : Option RosterCfg) : ((s.ingest p roster).part p).unfed = (s.part p).unfed := by
  unfold State.ingest
  refine (foldl_keeps (fun a : State => (a.part p).unfed) _ (fun a _ => a.ingestRing_unfed ..) _ _).trans ?_
  rw [State.part_onPart]
  exact (congrArg Part.unfed (s.onRings_part p _) :)

theorem State.openPart_beside (s : State) (n : Nat) (idle : Bool) (p : Nat) : (s.openPart n idle p).beside p = s.beside p := by
  unfold State.openPart
  dsimp only
  split
  · rfl
  · rw [State.ingest_beside, State.onPart_beside, State.pickRoster_beside]

/-- A partition as a tick opens: unpublished, with a status due or to run. -/
structure Part.Opens (x : Part) (n : Nat) (idle : Bool) : Prop where
  tickNo : x.tickNo = n
  published : x.published = false
  phase : x.phase ∈ [.idle, .unfit, .waiting]
  due : x.due.isSome = true → x.phase = .idle
  shed : idle = true → x.due = some .shed

theorem Part.Opens.of_unfed {x y : Part} {n : Nat} {idle : Bool} (h : x.Opens n idle) (e : y.unfed = x.unfed) : y.Opens n idle :=
  have h' : x.unfed.Opens n idle := ⟨h.tickNo, h.published, h.phase, h.due, h.shed⟩
  have k : y.unfed.Opens n idle := e ▸ h'
  ⟨k.tickNo, k.published, k.phase, k.due, k.shed⟩

theorem State.openPart_opens {s : State} {p : Nat} (h : s.cfg.pod = false ∨ (s.part p).published = true) (n : Nat) (idle : Bool) :
    ((s.openPart n idle p).part p).Opens n idle := by
  unfold State.openPart
  rw [if_neg (by rcases h with h | h <;> simp [h])]
  dsimp only
  refine Part.Opens.of_unfed ?_ (State.ingest_unfed ..)
  rw [State.part_onPart]
  refine ⟨rfl, rfl, ?_, fun hd => if_pos hd, fun hi => ?_⟩
  · dsimp only
    split
    · simp
    · split <;> simp
  · simp [State.dueStatus, hi]

/-- No partition has published the tick that has just opened. -/
theorem State.openPart_published (s : State) (n : Nat) (idle : Bool) (p : Nat) : ((s.openPart n idle p).part p).published = false := by
  by_cases h : s.cfg.pod = true ∧ (s.part p).published = false
  · unfold State.openPart
    rw [if_pos (by simpa using h)]
    exact h.2
  · refine (State.openPart_opens ?_ n idle).published
    cases hp : s.cfg.pod <;> simp_all

/-! The next tick opens. -/

/-- What the opening of a tick leaves of every partition, and of the rest of the state. -/
def State.common (s : State) : State := { s.beside 0 with parts := [] }

theorem common_of_beside {s t : State} {p : Nat} (h : t.beside p = s.beside p) : t.common = s.common :=
  congrArg (fun a : State => { a with parts := [] }) h

/-- The state in which an edge has begun a tick. -/
def State.begun (s : State) (n at_ : Nat) (idle : Bool) : State := { s with
  boot := { s.boot with stage := 0xF }
  tick := { s.tick with
    count := some n, stamp := s.nsAt at_, lastEdge := at_, tickOut := true, frozenUntil := some (at_ + 4 * unitsPerUs)
    idle := idle, doneFrom := 0#8, ownDone := false, doneSent := false, idleReq := false, doneDevices := 0, stalls := 0 } }

/-- And opened it in every partition. -/
def State.partsOpened (s : State) (n : Nat) (idle : Bool) : State := s.definedParts.foldl (fun (a : State) p => a.openPart n idle p) s

theorem State.edge_opens {s : State} (h : s.power.shut ≠ .close) (cause : EdgeCause) (at_ : Nat) (idle : Bool) :
    s.edge cause at_ idle =
      (((s.edgeClosed cause at_).begun (s.numberAt cause) at_ idle).partsOpened (s.numberAt cause) idle).closeOwn := by
  unfold State.edgeClosed
  rw [← State.edgeNumbered_fst s cause at_]
  exact if_neg h

theorem State.edge_shut {s : State} (h : s.power.shut = .close) (cause : EdgeCause) (at_ : Nat) (idle : Bool) :
    s.edge cause at_ idle = { s.edgeClosed cause at_ with tick := { (s.edgeClosed cause at_).tick with
      count := some (s.numberAt cause), stamp := (s.edgeClosed cause at_).nsAt at_, lastEdge := at_, halted := true } } := by
  unfold State.edgeClosed
  rw [← State.edgeNumbered_fst s cause at_]
  exact if_pos h

theorem State.partsOpened_common (s : State) (n : Nat) (idle : Bool) : (s.partsOpened n idle).common = s.common :=
  foldl_keeps State.common _ (fun a p => common_of_beside (a.openPart_beside n idle p)) _ _

/-- A partition of the list opens its tick once. -/
theorem State.partsOpened_at (s : State) (n : Nat) (idle : Bool) {p : Nat} (hp : p ∈ s.definedParts) :
    ∃ a : State, a.common = s.common ∧ a.part p = s.part p ∧ (s.partsOpened n idle).part p = (a.openPart n idle p).part p :=
  foldl_part_at State.common _ (fun a q => common_of_beside (a.openPart_beside n idle q))
    (fun a q => apart_of_aside (aside_of_beside (a.openPart_beside n idle q))) s.definedParts_nodup hp s

theorem State.partsOpened_opens {s : State} {p : Nat} (hp : p ∈ s.definedParts) (h : s.cfg.pod = false ∨ (s.part p).published = true)
    (n : Nat) (idle : Bool) : ((s.partsOpened n idle).part p).Opens n idle := by
  obtain ⟨a, common, part, e⟩ := s.partsOpened_at n idle hp
  rw [e]
  have pod : a.cfg.pod = s.cfg.pod := (congrArg (·.cfg.pod) common :)
  exact State.openPart_opens (by rwa [part, pod]) n idle

/-- A device with partitions has more to publish. -/
theorem State.partsOpened_allPublished {s : State} (h : s.definedParts ≠ []) (n : Nat) (idle : Bool) :
    (s.partsOpened n idle).allPublished = false := by
  obtain ⟨p, hp⟩ := List.exists_mem_of_ne_nil _ h
  obtain ⟨a, -, -, e⟩ := s.partsOpened_at n idle hp
  have defined : (s.partsOpened n idle).definedParts = s.definedParts := (congrArg State.definedParts (s.partsOpened_common n idle) :)
  refine Bool.eq_false_iff.mpr fun all => ?_
  have published := List.all_eq_true.mp all p (defined ▸ hp)
  rw [e, State.openPart_published] at published
  cases published

/-! Reports. -/

theorem State.closeOwn_open {s : State} (h : s.cfg.pod = false ∨ s.allPublished = false) : s.closeOwn = s :=
  if_neg (by rcases h with h | h <;> simp [h])

theorem State.sendDone_ownDone (s : State) : s.sendDone.tick.ownDone = s.tick.ownDone := by
  unfold State.sendDone
  dsimp only
  split
  · split <;> rfl
  · rfl

/-- A device whose partitions have all published closes its own part of the tick. -/
theorem State.closeOwn_ownDone {s : State} (hpod : s.cfg.pod = true) (h : s.allPublished = true) : s.closeOwn.tick.ownDone = true := by
  by_cases own : s.tick.ownDone = true
  · rw [State.closeOwn, if_neg (by simp [own])]
    exact own
  · rw [State.closeOwn, if_pos (by simp [hpod, h, own])]
    dsimp only
    rw [State.sendDone_ownDone]
    split
    · rfl
    · rw [State.signal_tick, State.event_tick]

/-! The edge as a whole. -/

theorem State.eq_of_steady {γ : Type} (g : State → γ) (hg : ∀ a : State, g a.steady = g a) {s t : State} (h : t.steady = s.steady) : g t = g s := by
  rw [← hg t, h, hg]

theorem steady_of_common {s t : State} (h : t.common = s.common) : t.steady = s.steady :=
  congrArg (fun a : State => { a with tick := a.tick.steady }) h

theorem begun_of_steady {s t : State} (h : t.steady = s.steady) (n at_ : Nat) (idle : Bool) : (t.begun n at_ idle).steady = (s.begun n at_ idle).steady :=
  (congrArg (fun a : State => (a.begun n at_ idle).steady) h :)

/-- What an edge that opens a tick leaves, beside the partitions, the ports, the log and the reports. -/
theorem State.edge_steady {s : State} (h : s.power.shut ≠ .close) (cause : EdgeCause) (at_ : Nat) (idle : Bool) :
    (s.edge cause at_ idle).steady = (s.dueTaken.begun (s.numberAt cause) at_ idle).steady := by
  rw [State.edge_opens h, steady_of_untold (State.closeOwn_untold _), steady_of_common (State.partsOpened_common ..)]
  exact begun_of_steady (s.edgeClosed_steady cause at_) _ _ _

/-- The last edge of an orderly shutdown. -/
def State.shutAt (s : State) (n at_ : Nat) : State :=
  { s with tick := { s.tick with count := some n, stamp := s.nsAt at_, lastEdge := at_, halted := true } }

theorem shutAt_of_steady {s t : State} (h : t.steady = s.steady) (n at_ : Nat) : (t.shutAt n at_).steady = (s.shutAt n at_).steady :=
  (congrArg (fun a : State => (a.shutAt n at_).steady) h :)

theorem State.edge_steady_shut {s : State} (h : s.power.shut = .close) (cause : EdgeCause) (at_ : Nat) (idle : Bool) :
    (s.edge cause at_ idle).steady = (s.dueTaken.shutAt (s.numberAt cause) at_).steady := by
  rw [State.edge_shut h]
  exact shutAt_of_steady (s.edgeClosed_steady cause at_) _ _

theorem State.edgeClosed_cfg (s : State) (cause : EdgeCause) (at_ : Nat) : (s.edgeClosed cause at_).cfg = s.cfg :=
  (State.eq_of_steady State.cfg (fun _ => rfl) (s.edgeClosed_steady cause at_) :)

theorem State.edgeClosed_definedParts (s : State) (cause : EdgeCause) (at_ : Nat) : (s.edgeClosed cause at_).definedParts = s.definedParts :=
  (State.eq_of_steady State.definedParts (fun _ => rfl) (s.edgeClosed_steady cause at_) :)

theorem State.begun_cfg (s : State) (n at_ : Nat) (idle : Bool) : (s.begun n at_ idle).cfg = s.cfg := rfl
theorem State.begun_definedParts (s : State) (n at_ : Nat) (idle : Bool) : (s.begun n at_ idle).definedParts = s.definedParts := rfl
theorem State.begun_part (s : State) (n at_ : Nat) (idle : Bool) (p : Nat) : (s.begun n at_ idle).part p = s.part p := rfl

/-- While partitions have the new tick to publish, or in store class, nothing is reported. -/
theorem State.begun_unreported {c : State} (h : c.cfg.pod = false ∨ c.definedParts ≠ []) (n at_ : Nat) (idle : Bool) :
    (((c.begun n at_ idle).partsOpened n idle).closeOwn).tick.ownDone = false ∧
      (((c.begun n at_ idle).partsOpened n idle).closeOwn).tick.doneSent = false := by
  have common := (c.begun n at_ idle).partsOpened_common n idle
  have pod : ((c.begun n at_ idle).partsOpened n idle).cfg.pod = c.cfg.pod := (congrArg (·.cfg.pod) common :)
  rw [State.closeOwn_open (h.imp pod.trans fun hne => State.partsOpened_allPublished hne n idle)]
  exact ⟨(congrArg (·.tick.ownDone) common :), (congrArg (·.tick.doneSent) common :)⟩

/-- A pod device without partitions has published the tick at once. -/
theorem State.begun_reported {c : State} (hpod : c.cfg.pod = true) (h : c.definedParts = []) (n at_ : Nat) (idle : Bool) :
    (((c.begun n at_ idle).partsOpened n idle).closeOwn).tick.ownDone = true := by
  have same : (c.begun n at_ idle).partsOpened n idle = c.begun n at_ idle := by
    rw [State.partsOpened, State.begun_definedParts, h, List.foldl_nil]
  rw [same]
  refine State.closeOwn_ownDone hpod ?_
  rw [State.allPublished, State.begun_definedParts, h]
  rfl

theorem State.edge_unreported {s : State} (hs : s.power.shut ≠ .close) (h : s.cfg.pod = false ∨ s.definedParts ≠ []) (cause : EdgeCause)
    (at_ : Nat) (idle : Bool) : (s.edge cause at_ idle).tick.ownDone = false ∧ (s.edge cause at_ idle).tick.doneSent = false := by
  rw [State.edge_opens hs]
  exact State.begun_unreported (by rwa [State.edgeClosed_cfg, State.edgeClosed_definedParts]) ..

theorem State.edge_reported {s : State} (hs : s.power.shut ≠ .close) (hpod : s.cfg.pod = true) (h : s.definedParts = []) (cause : EdgeCause)
    (at_ : Nat) (idle : Bool) : (s.edge cause at_ idle).tick.ownDone = true := by
  rw [State.edge_opens hs]
  exact State.begun_reported (by rwa [State.edgeClosed_cfg]) (by rwa [State.edgeClosed_definedParts]) ..

/-- Every partition that has published the tick before, or is in store class, opens the new one. -/
theorem State.edge_part {s : State} (hs : s.power.shut ≠ .close) {p : Nat} (hp : p ∈ s.definedParts)
    (h : s.cfg.pod = false ∨ (s.part p).published = true) (cause : EdgeCause) (at_ : Nat) (idle : Bool) :
    ((s.edge cause at_ idle).part p).Opens (s.numberAt cause) idle := by
  rw [State.edge_opens hs, State.closeOwn_part]
  refine State.partsOpened_opens ?_ ?_ _ idle
  · rwa [State.begun_definedParts, State.edgeClosed_definedParts]
  · rw [State.begun_cfg, State.begun_part, State.edgeClosed_cfg]
    exact h.imp id (s.edgeClosed_published cause at_)

/-! The edge that is due. -/

theorem execTickEdge_reached {s : State} {cause : EdgeCause} {a : Nat} {idle : Bool} (h : s.tick.due = some (cause, a, idle))
    (ht : s.ticking = true) (hr : s.reached a = true) : execTickEdge s = .next (s.edge cause a idle) := by
  simp [execTickEdge, State.dueEdge, h, ht, hr]

theorem execTickEdge_waits {s : State} {cause : EdgeCause} {a : Nat} {idle : Bool} (h : s.tick.due = some (cause, a, idle))
    (hr : s.reached a = false) : execTickEdge s = .next s := by
  simp [execTickEdge, State.dueEdge, h, hr]

/-- Settles O46: what an edge leaves is carried through its closing and its opening, and each partition opens its tick once. -/
theorem tickEdgeBegins : Obligations.TickEdgeBegins := by
  intro s
  simp only [exec_tickEdge, exec_tickOutFall]
  refine ⟨fun cause a idle hdue ht hr => ⟨_, execTickEdge_reached hdue ht hr, ?_⟩, fun cause a idle hdue hr => execTickEdge_waits hdue hr,
    fun ho hl => if_pos ⟨ho, hl⟩⟩
  by_cases hs : s.power.shut = .close
  · have made {γ : Type} (g : State → γ) (hg : ∀ t : State, g t.steady = g t) :
        g (s.edge cause a idle) = g (s.dueTaken.shutAt (s.numberAt cause) a) := State.eq_of_steady g hg (State.edge_steady_shut hs cause a idle)
    exact ⟨made (·.tick.due) fun _ => rfl, fun tile b => made (·.sramByte tile b) fun _ => rfl, made State.rom fun _ => rfl,
      made (·.tick.count) fun _ => rfl, made (·.tick.stamp) fun _ => rfl, made (·.tick.lastEdge) fun _ => rfl,
      fun _ => ⟨made (·.tick.halted) fun _ => rfl, made (·.tick.tickOut) fun _ => rfl⟩, fun h => absurd hs h⟩
  · have made {γ : Type} (g : State → γ) (hg : ∀ t : State, g t.steady = g t) :
        g (s.edge cause a idle) = g (s.dueTaken.begun (s.numberAt cause) a idle) := State.eq_of_steady g hg (State.edge_steady hs cause a idle)
    refine ⟨made (·.tick.due) fun _ => rfl, fun tile b => made (·.sramByte tile b) fun _ => rfl, made State.rom fun _ => rfl,
      made (·.tick.count) fun _ => rfl, made (·.tick.stamp) fun _ => rfl, made (·.tick.lastEdge) fun _ => rfl, fun h => absurd h hs,
      fun _ => ⟨made (·.tick.tickOut) fun _ => rfl, made (·.tick.idle) fun _ => rfl, made (·.tick.frozenUntil) fun _ => rfl,
        made (·.boot.stage) fun _ => rfl, fun h => State.edge_unreported hs h .., fun hpod h => State.edge_reported hs hpod h .., fun p hp h => ?_⟩⟩
    have opens := State.edge_part hs hp h cause a idle
    exact ⟨opens.tickNo, opens.published, opens.phase, opens.due, opens.shed⟩

end Sys2Proof.Machine
end

section
/-! SUPPORT. What the stream loader changes as the command buffer of a Spire goes on, and that a quiet Spire does nothing more. -/

namespace Sys2Proof.Machine

/-! The stream loader, whatever its reads meet: its own Spire, which an uncorrectable burst freezes. -/

/-- A Spire but for its command buffer, and for what a freeze and a stop of its units change. -/
def Spire.unloaded (x : Spire) : Spire := { x with
  ringLo := 0, ringHi := 0, pieceAt := [], frozen := 0#6, frzA := 0#32, frzB := 0#32, frzC := 0#32, frzD := 0#32
  units := [], undone := false, ctr := {}, seqFrozenAt := 0 }

/-- What is read off that part of a Spire is the same wherever that part is. -/
theorem Spire.eq_of_unloaded {γ : Type} (g : Spire → γ) (hg : ∀ x : Spire, g x.unloaded = g x) {x y : Spire} (h : y.unloaded = x.unloaded) :
    g y = g x := by
  rw [← hg y, h, hg]

@[simp] theorem Spire.stopUnit_unloaded (x : Spire) (u : Nat) : (x.stopUnit u).unloaded = x.unloaded := rfl

@[simp] theorem Spire.stopAllUnits_unloaded (x : Spire) : x.stopAllUnits.unloaded = x.unloaded := by
  simp only [Spire.stopAllUnits, List.foldl_cons, List.foldl_nil, Spire.stopUnit_unloaded]

@[simp] theorem Spire.record_unloaded (x : Spire) (master reason ctx detail ccyc tick : Nat) (mask : BitVec 6) :
    (x.record master reason ctx detail ccyc tick mask).unloaded = x.unloaded := by
  unfold Spire.record
  dsimp only
  split <;> rfl

/-- What a freeze of a master makes of its Spire, but for the ccyc of a frozen sequencer. -/
def Spire.afterFreeze (x : Spire) (master reason ctx detail ccyc tick : Nat) : Spire :=
  let y := x.record master reason ctx detail ccyc tick (if master = 0 then 0x3F#6 else BitVec.ofNat 6 (2 ^ master))
  if master = 0 then y.stopAllUnits else y.stopUnit (master - 1)

theorem State.freeze_spire (s : State) (sp master reason detail addr ctx window : Nat) :
    (s.freeze sp master reason detail addr ctx window).spire sp = s.spire sp ∨
    ∃ n, (s.freeze sp master reason detail addr ctx window).spire sp =
      { (s.spire sp).afterFreeze master reason ctx detail (s.countOf sp) s.tickWord with seqFrozenAt := n } := by
  cases ho : s.owner sp with
  | none => exact .inl (by simp only [State.freeze, ho])
  | some p =>
    have hc : s.countOf sp = (s.part p).ccyc := by simp only [State.countOf, ho]
    by_cases hf : bit1 (s.spire sp).frozen master = true ∨ (s.part p).reset ≠ .none
    · exact .inl (by simp only [State.freeze, ho, if_pos hf])
    · refine .inr ⟨if master = 0 then (s.part p).ccyc else (Spire.afterFreeze (s.spire sp) master reason ctx detail (s.part p).ccyc s.tickWord).seqFrozenAt, ?_⟩
      simp only [State.freeze, ho, if_neg hf, hc]
      rw [State.frozenEvent_spire, State.onCore_spire _ rfl, State.spire_setSpire]
      rfl

theorem Spire.afterFreeze_unloaded (x : Spire) (master reason ctx detail ccyc tick : Nat) :
    (x.afterFreeze master reason ctx detail ccyc tick).unloaded = x.unloaded := by
  unfold Spire.afterFreeze
  dsimp only
  split
  · rw [Spire.stopAllUnits_unloaded, Spire.record_unloaded]
  · rw [Spire.stopUnit_unloaded, Spire.record_unloaded]

theorem State.freeze_unloaded (s : State) (sp master reason detail addr ctx window k : Nat) :
    ((s.freeze sp master reason detail addr ctx window).spire k).unloaded = (s.spire k).unloaded := by
  by_cases hk : k = sp
  · subst hk
    obtain e | ⟨n, e⟩ := s.freeze_spire k master reason detail addr ctx window
    · rw [e]
    · rw [e]
      exact Spire.afterFreeze_unloaded ..
  · rw [State.freeze_spire_ne _ hk]

@[simp] theorem State.countUe_spire (s : State) (l : List Nat) (k : Nat) : (s.countUe l).spire k = s.spire k :=
  foldl_keeps (fun a : State => a.spire k) _ (fun a _ => State.onCore_spire a rfl k) _ _

@[simp] theorem State.belfryRead_spire (s : State) (h a n k : Nat) : (s.belfryRead h a n).2.spire k = s.spire k := by
  refine foldl_keeps (fun acc : Option Nat × State => acc.2.spire k) _ (fun acc line => ?_) _ _
  dsimp only
  split
  · rfl
  · split
    · rfl
    · split
      · exact State.countUe_spire ..
      · rfl

theorem State.onSpire_unloaded (s : State) (sp : Nat) {f : Spire → Spire} (h : ∀ x, (f x).unloaded = x.unloaded) (k : Nat) :
    ((s.onSpire sp f).spire k).unloaded = (s.spire k).unloaded := by
  by_cases hk : k = sp
  · subst hk
    rw [State.spire_onSpire, h]
  · rw [State.spire_onSpire_ne _ _ hk]

theorem State.loadPiece_unloaded (part : PlanPart) (base : Nat) (s : State) (q k : Nat) :
    ((State.loadPiece part base s q).spire k).unloaded = (s.spire k).unloaded := by
  unfold State.loadPiece
  dsimp only
  split
  · rfl
  · have h := s.belfryRead_spire (halfOf part.spire) (base + part.off + q * 1024) (min 1024 (part.len - q * 1024)) k
    split <;> rename_i e <;> rw [e] at h <;> dsimp only at h
    · rw [State.freeze_unloaded, h]
    · exact (State.onSpire_unloaded _ _ (f := fun y => { y with ringHi := q + 1, pieceAt := Tbl.put 0 q (s.countOf part.spire) y.pieceAt }) (fun _ => rfl) k).trans (congrArg Spire.unloaded h)

theorem State.loadPiece_spire_ne (part : PlanPart) (base : Nat) (s : State) (q : Nat) {k : Nat} (hk : k ≠ part.spire) :
    (State.loadPiece part base s q).spire k = s.spire k := by
  unfold State.loadPiece
  dsimp only
  split
  · rfl
  · have h := s.belfryRead_spire (halfOf part.spire) (base + part.off + q * 1024) (min 1024 (part.len - q * 1024)) k
    split <;> rename_i e <;> rw [e] at h <;> dsimp only at h
    · rw [State.freeze_spire_ne _ hk, h]
    · rw [State.spire_onSpire_ne _ _ hk, h]

theorem State.moveRing_unloaded (s : State) (part : PlanPart) (base lo k : Nat) :
    ((s.moveRing part base lo).spire k).unloaded = (s.spire k).unloaded := by
  unfold State.moveRing
  split
  · rfl
  · exact (foldl_keeps (fun a : State => (a.spire k).unloaded) _ (fun _ _ => State.loadPiece_unloaded ..) _ _).trans
      (s.onSpire_unloaded part.spire (f := fun x => { x with ringLo := lo, ringHi := _ }) (fun _ => rfl) k)

theorem State.moveRing_spire_ne (s : State) (part : PlanPart) (base lo : Nat) {k : Nat} (hk : k ≠ part.spire) :
    (s.moveRing part base lo).spire k = s.spire k := by
  unfold State.moveRing
  split
  · rfl
  · exact (foldl_keeps (fun a : State => a.spire k) _ (fun _ _ => State.loadPiece_spire_ne _ _ _ _ hk) _ _).trans (State.spire_setSpire_ne _ _ hk)

theorem Plan.partOf_spire {p : Plan} {sp : Nat} {q : PlanPart} (h : p.partOf sp = some q) : q.spire = sp := by
  simpa using List.find?_some h

/-- A refill is nothing, or a move of the command buffer of its Spire. -/
theorem State.refill_eq (s : State) (p sp : Nat) :
    s.refill p sp = s ∨ ∃ part base lo, part.spire = sp ∧ s.refill p sp = s.moveRing part base lo := by
  unfold State.refill
  dsimp only
  split
  · rename_i part n hp hn
    exact .inr ⟨part, _, _, Plan.partOf_spire hp, rfl⟩
  · exact .inl rfl

theorem State.refill_unloaded (s : State) (p sp k : Nat) : ((s.refill p sp).spire k).unloaded = (s.spire k).unloaded := by
  obtain e | ⟨part, base, lo, -, e⟩ := s.refill_eq p sp
  · rw [e]
  · rw [e, State.moveRing_unloaded]

theorem State.refill_spire_ne (s : State) (p sp : Nat) {k : Nat} (hk : k ≠ sp) : (s.refill p sp).spire k = s.spire k := by
  obtain e | ⟨part, base, lo, rfl, e⟩ := s.refill_eq p sp
  · rw [e]
  · rw [e, State.moveRing_spire_ne _ _ _ _ hk]

theorem State.refill_lasting (s : State) (p sp : Nat) : (s.refill p sp).lasting = s.lasting := by
  obtain e | ⟨part, base, lo, -, e⟩ := s.refill_eq p sp
  · rw [e]
  · rw [e, State.moveRing_lasting]

theorem State.reload_unloaded (s : State) (p k : Nat) : ((s.reload p).spire k).unloaded = (s.spire k).unloaded := by
  refine foldl_keeps (fun a : State => (a.spire k).unloaded) _ (fun a sp => ?_) _ _
  split
  · exact (State.moveRing_unloaded ..).trans (a.onSpire_unloaded sp (f := fun x => { x with ringLo := 0, ringHi := 0 }) (fun _ => rfl) k)
  · rfl

/-! The stream loader where no burst is uncorrectable: the command buffer of its Spire and the Cupolas. -/

/-- A Spire but for its command buffer. -/
def Spire.unbuffered (x : Spire) : Spire := { x with ringLo := 0, ringHi := 0, pieceAt := [] }

theorem Spire.eq_of_unbuffered {γ : Type} (g : Spire → γ) (hg : ∀ x : Spire, g x.unbuffered = g x) {x y : Spire}
    (h : y.unbuffered = x.unbuffered) : g y = g x := by
  rw [← hg y, h, hg]

/-- A state but for its Spires and Cupolas. -/
def State.cacheless (s : State) : State := { s with core := { s.core with spires := [], cupolas := [] } }

theorem State.eq_of_cacheless {γ : Type} (g : State → γ) (hg : ∀ a : State, g a.cacheless = g a) {s t : State} (h : t.cacheless = s.cacheless) :
    g t = g s := by
  rw [← hg t, h, hg]

/-- The command buffer of one Spire has gone on, and nothing else has changed but the Cupolas. -/
structure Buffered (s t : State) (sp : Nat) : Prop where
  rest : t.cacheless = s.cacheless
  others : ∀ i, i ≠ sp → t.spire i = s.spire i
  own : (t.spire sp).unbuffered = (s.spire sp).unbuffered

theorem Buffered.refl (s : State) (sp : Nat) : Buffered s s sp := ⟨rfl, fun _ _ => rfl, rfl⟩

theorem Buffered.trans {s t u : State} {sp : Nat} (h : Buffered s t sp) (k : Buffered t u sp) : Buffered s u sp :=
  ⟨k.rest.trans h.rest, fun i hi => (k.others i hi).trans (h.others i hi), k.own.trans h.own⟩

theorem Buffered.bad {s t : State} {sp : Nat} (h : Buffered s t sp) : t.core.hbmBad = s.core.hbmBad :=
  State.eq_of_cacheless (·.core.hbmBad) (fun _ => rfl) h.rest

/-- What is read off the state's part beside Spires and Cupolas stays. -/
theorem Buffered.eq {γ : Type} {s t : State} {sp : Nat} (h : Buffered s t sp) (g : State → γ) (hg : ∀ a : State, g a.cacheless = g a) : g t = g s :=
  State.eq_of_cacheless g hg h.rest

/-- What is read off a Spire but for its command buffer stays, in every Spire. -/
theorem Buffered.spire_eq {γ : Type} {s t : State} {sp : Nat} (h : Buffered s t sp) (g : Spire → γ) (hg : ∀ x : Spire, g x.unbuffered = g x) (i : Nat) :
    g (t.spire i) = g (s.spire i) := by
  by_cases hi : i = sp
  · subst hi
    exact Spire.eq_of_unbuffered g hg h.own
  · rw [h.others i hi]

theorem Buffered.spireAndCupolas {s t : State} {sp : Nat} (h : Buffered s t sp) : SpireAndCupolas s t sp :=
  ⟨congrArg (fun a : State => { a with core := s.core }) h.rest,
    congrArg (fun a : State => { a.core with spires := s.core.spires, cupolas := s.core.cupolas }) h.rest, h.others⟩

theorem Buffered.onSpire (s : State) (sp : Nat) {f : Spire → Spire} (h : ∀ x, (f x).unbuffered = x.unbuffered) : Buffered s (s.onSpire sp f) sp :=
  ⟨rfl, fun _ hi => State.spire_onSpire_ne _ _ hi, by rw [State.spire_onSpire, h]⟩

theorem State.badBurst_none {s : State} (h : s.core.hbmBad = []) (a n : Nat) : s.badBurst a n = none :=
  State.Clean.badBurst ⟨h, rfl⟩ a n

/-- A read of the Belfry region that meets no uncorrectable burst changes the Cupolas alone. -/
theorem State.belfryRead_clean {s : State} (hb : s.core.hbmBad = []) (h a n : Nat) :
    (s.belfryRead h a n).1 = none ∧ (s.belfryRead h a n).2.cacheless = s.cacheless := by
  refine List.foldlRecOn (motive := fun acc : Option Nat × State => acc.1 = none ∧ acc.2.cacheless = s.cacheless) _ _ ⟨rfl, rfl⟩ fun acc hacc line _ => ?_
  obtain ⟨h1, h2⟩ := hacc
  have bad : acc.2.core.hbmBad = [] := (State.eq_of_cacheless (·.core.hbmBad) (fun _ => rfl) h2).trans hb
  simp only [h1, State.badBurst_none bad]
  split <;> exact ⟨rfl, h2⟩

theorem State.loadPiece_buffered {s : State} (hb : s.core.hbmBad = []) (part : PlanPart) (base q : Nat) :
    Buffered s (State.loadPiece part base s q) part.spire := by
  unfold State.loadPiece
  dsimp only
  split
  · exact Buffered.refl ..
  · obtain ⟨none, clean⟩ := s.belfryRead_clean hb (halfOf part.spire) (base + part.off + q * 1024) (min 1024 (part.len - q * 1024))
    have spires := s.belfryRead_spire (halfOf part.spire) (base + part.off + q * 1024) (min 1024 (part.len - q * 1024))
    split <;> rename_i e <;> rw [e] at none clean spires
    · cases none
    · refine Buffered.trans ⟨clean, fun i _ => spires i, congrArg Spire.unbuffered (spires _)⟩ (Buffered.onSpire _ _ fun _ => rfl)

theorem State.moveRing_buffered {s : State} (hb : s.core.hbmBad = []) (part : PlanPart) (base lo : Nat) :
    Buffered s (s.moveRing part base lo) part.spire := by
  unfold State.moveRing
  split
  · exact Buffered.refl ..
  · refine List.foldlRecOn (motive := fun a : State => Buffered s a part.spire) _ _ ?_ fun a ha q _ => ?_
    · exact Buffered.onSpire s part.spire (f := fun x => { x with ringLo := lo, ringHi := _ }) fun _ => rfl
    · exact ha.trans (State.loadPiece_buffered (ha.bad.trans hb) ..)

theorem State.refill_buffered {s : State} (hb : s.core.hbmBad = []) (p sp : Nat) : Buffered s (s.refill p sp) sp := by
  obtain e | ⟨part, base, lo, rfl, e⟩ := s.refill_eq p sp
  · rw [e]
    exact Buffered.refl ..
  · rw [e]
    exact State.moveRing_buffered hb ..

/-! Quiet Spires. -/

theorem State.ctxReady_empty {s : State} {sp k : Nat} (h : ((s.spire sp).ctx k).queue = []) : s.ctxReady sp k = false := by
  simp [State.ctxReady, h]

/-- A Spire in which no context is ready picks none up. -/
theorem State.pick_none {s : State} {sp : Nat} (h : ∀ k, k < 8 → s.ctxReady sp k = false) (last : Nat) (yielding : Bool) :
    s.pick sp last yielding = none := by
  simp only [State.pick, List.find?_eq_none, List.mem_cons]
  rintro k (rfl | hk)
  · simp [h 0 (by omega)]
  · simp [h k (circularAfter_lt hk)]

theorem State.pickUp_empty {s : State} {sp : Nat} (h : ∀ k, k < 8 → ((s.spire sp).ctx k).queue = []) : s.pickUp sp = none := by
  unfold State.pickUp
  dsimp only
  split
  · rw [State.pick_none (fun k hk => State.ctxReady_empty (h k hk))]
    rfl
  · rfl

theorem State.pump_quiet {s : State} {sp : Nat} (h : Quiet s sp) (f p : Nat) : State.pump f p sp s = s :=
  State.pump_done f (State.pickUp_empty fun k hk => (h k hk).2) h

theorem Quiet.of_ctxs {s t : State} {sp : Nat} (h : Quiet s sp) (e : ∀ k, k < 8 → (t.spire sp).ctx k = (s.spire sp).ctx k) : Quiet t sp := by
  intro k hk
  rw [e k hk]
  exact h k hk

/-- Contexts stay as they are under a refill. -/
theorem State.refill_ctx (s : State) (p sp i k : Nat) : ((s.refill p sp).spire i).ctx k = (s.spire i).ctx k :=
  Spire.eq_of_unloaded (Spire.ctx · k) (fun _ => rfl) (State.refill_unloaded ..)

/-- The sequencer of a quiet Spire goes on with nothing but its command buffer. -/
theorem State.resume_quiet {s : State} {sp : Nat} (h : Quiet s sp) : s.resume sp = s ∨ ∃ p, s.resume sp = s.refill p sp := by
  unfold State.resume
  split
  · exact .inl rfl
  · rename_i p _
    split
    · exact .inr ⟨p, State.pump_quiet (h.of_ctxs fun k _ => State.refill_ctx ..) _ _⟩
    · exact .inl rfl

theorem State.resume_quiet_lasting {s : State} {sp : Nat} (h : Quiet s sp) : (s.resume sp).lasting = s.lasting := by
  obtain e | ⟨p, e⟩ := State.resume_quiet h
  · rw [e]
  · rw [e, State.refill_lasting]

theorem State.resume_quiet_unloaded {s : State} {sp : Nat} (h : Quiet s sp) (k : Nat) : ((s.resume sp).spire k).unloaded = (s.spire k).unloaded := by
  obtain e | ⟨p, e⟩ := State.resume_quiet h
  · rw [e]
  · rw [e, State.refill_unloaded]

theorem State.resume_quiet_spire_ne {s : State} {sp k : Nat} (h : Quiet s sp) (hk : k ≠ sp) : (s.resume sp).spire k = s.spire k := by
  obtain e | ⟨p, e⟩ := State.resume_quiet h
  · rw [e]
  · rw [e, State.refill_spire_ne _ _ _ hk]

theorem State.resume_buffered {s : State} {sp : Nat} (h : Quiet s sp) (hb : s.core.hbmBad = []) : Buffered s (s.resume sp) sp := by
  obtain e | ⟨p, e⟩ := State.resume_quiet h
  · rw [e]
    exact Buffered.refl ..
  · rw [e]
    exact State.refill_buffered hb ..

end Sys2Proof.Machine
end

section
/-! SUPPORT. A command given to a Spire that rests: what the fetch engine leaves of it, and what the execute engine then does. -/

namespace Sys2Proof.Machine

/-! The fetch engine. -/

/-- The fetch engine has read a command: its context stands as given, and nothing else has changed but what the engine notes of its
own turn. -/
structure Fetched (s t : State) (c : StreamCmd) (k : Ctx) : Prop where
  only : OnlySpire s t c.sp.val
  ctx : ctxOf t c = k
  others : ∀ d, d ≠ c.ctx.val → (t.spire c.sp.val).ctx d = (s.spire c.sp.val).ctx d
  rest : { t.spire c.sp.val with
    ctxs := (s.spire c.sp.val).ctxs, readFree := (s.spire c.sp.val).readFree, lastRead := (s.spire c.sp.val).lastRead } = s.spire c.sp.val

theorem OnlySpire.part {s t : State} {sp : Nat} (h : OnlySpire s t sp) (p : Nat) : t.part p = s.part p :=
  congrArg (·.part p) h.outside

theorem OnlySpire.core_eq {γ : Type} {s t : State} {sp : Nat} (h : OnlySpire s t sp) (g : Core → γ)
    (hg : ∀ c : Core, g { c with spires := s.core.spires } = g c) : g t.core = g s.core := by
  rw [← hg t.core, h.inside]

theorem OnlySpire.trans {s t u : State} {sp : Nat} (h : OnlySpire s t sp) (k : OnlySpire t u sp) : OnlySpire s u sp :=
  ⟨(congrArg (fun a : State => { a with core := s.core }) k.outside).trans h.outside,
    (congrArg (fun c : Core => { c with spires := s.core.spires }) k.inside).trans h.inside,
    fun i hi => (k.others i hi).trans (h.others i hi)⟩

theorem OnlySpire.setSpire (s : State) (sp : Nat) (x : Spire) : OnlySpire s (s.setSpire sp x) sp :=
  ⟨rfl, rfl, fun _ hi => State.spire_setSpire_ne _ _ hi⟩

theorem OnlySpire.sameMemory {s t : State} {sp : Nat} (h : OnlySpire s t sp) : SameMemory s t :=
  .of_eq (h.core_eq (·.sram) fun _ => rfl) (h.core_eq (·.hbm) fun _ => rfl) (congrArg (·.rom) h.outside :) (congrArg (·.ports) h.outside :)
    (fun k => (congrArg (fun a : State => (a.fn k).mbx) h.outside :))

/-- What is read off a Spire but for its contexts and the fetch engine's turn stays. -/
theorem Fetched.spire_eq {γ : Type} {s t : State} {c : StreamCmd} {k : Ctx} (f : Fetched s t c k) (g : Spire → γ)
    (hg : ∀ (x : Spire) a b d, g { x with ctxs := a, readFree := b, lastRead := d } = g x) : g (t.spire c.sp.val) = g (s.spire c.sp.val) := by
  rw [← hg (t.spire c.sp.val), f.rest]

section

variable {s : State} {p : Nat} {c : StreamCmd} (h : Ready s p c)

include h

/-- The context of a command that its Spire is ready for has nothing under way. -/
theorem Ready.ctx_idle : (ctxOf s c).backlog = [] ∧ (ctxOf s c).queue = [] ∧ (ctxOf s c).refillAt = none ∧ (ctxOf s c).pushF = none ∧
    (ctxOf s c).pushE = none ∧ (ctxOf s c).eotRead = false :=
  ⟨(h.rested.empty _ c.ctx.isLt).1, (h.rested.empty _ c.ctx.isLt).2, h.rested.push.2.2, h.rested.push.1, h.rested.push.2.1, (streaming_spire h).2.2.2⟩

theorem Ready.quiet : Quiet s c.sp.val := h.rested.empty

omit h in
/-- What the fetch engine leaves is a Spire whose context stands as given. -/
theorem State.offered_fetched {y : Spire} {k : Ctx} (hk : y.ctx c.ctx.val = k) (ho : ∀ d, d ≠ c.ctx.val → y.ctx d = (s.spire c.sp.val).ctx d)
    (hr : { y with ctxs := (s.spire c.sp.val).ctxs, readFree := (s.spire c.sp.val).readFree, lastRead := (s.spire c.sp.val).lastRead }
      = s.spire c.sp.val) : Fetched s ((s.offered c).setSpire c.sp.val y) c k where
  only := (s.offered_only c).trans (OnlySpire.setSpire ..)
  ctx := by rw [ctxOf, State.spire_setSpire, hk]
  others d hd := by rw [State.spire_setSpire, ho d hd]
  rest := by rw [State.spire_setSpire, hr]

/-- The Spire whose fetch engine has read the command, the stream pointer at `pc`. -/
theorem Ready.readHead_ctx (pc t : Nat) :
    (((s.offered c).spire c.sp.val).readHead c.ctx.val pc t).ctx c.ctx.val = { ctxOf s c with pc := pc } := by
  obtain ⟨hb, -, hr, -⟩ := h.ctx_idle
  have e : ∀ (x : Spire) a b, Spire.ctx { x with readFree := a, lastRead := b } c.ctx.val = x.ctx c.ctx.val := fun _ _ _ => rfl
  rw [s.offered_spire c, Spire.readHead, e, Spire.ctx_onCtx, Spire.ctx_onCtx]
  simp only [ctxOf] at hb hr ⊢
  simp only [List.drop_succ_cons, List.drop_zero, ← hb, ← hr]

omit h in
theorem State.readHead_ctx_ne (s : State) (c : StreamCmd) (pc t : Nat) {d : Nat} (hd : d ≠ c.ctx.val) :
    (((s.offered c).spire c.sp.val).readHead c.ctx.val pc t).ctx d = (s.spire c.sp.val).ctx d := by
  have e : ∀ (x : Spire) a b, Spire.ctx { x with readFree := a, lastRead := b } d = x.ctx d := fun _ _ _ => rfl
  rw [s.offered_spire c, Spire.readHead, e, Spire.ctx_onCtx_ne _ _ hd, Spire.ctx_onCtx_ne _ _ hd]

omit h in
theorem State.readHead_rest (s : State) (c : StreamCmd) (pc t : Nat) (f : Spire → Spire) (hf : ∀ x a b d, ({ f x with ctxs := a, readFree := b, lastRead := d } : Spire) = { x with ctxs := a, readFree := b, lastRead := d }) :
    ({ f (((s.offered c).spire c.sp.val).readHead c.ctx.val pc t) with
      ctxs := (s.spire c.sp.val).ctxs, readFree := (s.spire c.sp.val).readFree, lastRead := (s.spire c.sp.val).lastRead } : Spire) = s.spire c.sp.val := by
  rw [hf, s.offered_spire c]
  rfl

/-- A command that the fetch engine reads and has done with. -/
theorem Ready.fetched_read (pc t : Nat) :
    Fetched s ((s.offered c).setSpire c.sp.val (((s.offered c).spire c.sp.val).readHead c.ctx.val pc t)) c { ctxOf s c with pc := pc } :=
  State.offered_fetched (h.readHead_ctx pc t) (fun _ hd => s.readHead_ctx_ne c pc t hd) (s.readHead_rest c pc t id fun _ _ _ _ => rfl)

/-- A command that the fetch engine reads, with a change of its context. -/
theorem Ready.fetched_onCtx (pc t : Nat) (f : Ctx → Ctx) :
    Fetched s ((s.offered c).setSpire c.sp.val ((((s.offered c).spire c.sp.val).readHead c.ctx.val pc t).onCtx c.ctx.val f)) c
      (f { ctxOf s c with pc := pc }) :=
  State.offered_fetched (by rw [Spire.ctx_onCtx, h.readHead_ctx]) (fun d hd => by rw [Spire.ctx_onCtx_ne _ _ hd, s.readHead_ctx_ne c pc t hd])
    (s.readHead_rest c pc t (·.onCtx c.ctx.val f) fun _ _ _ _ => rfl)

/-! What a read is, by the command. -/

/-- A command that its Spire is ready for is valid and lies in its part. -/
theorem Ready.accepted : (!cmdValid (s.placeOf p c) c ||
    !((s.placeOf p c).plan.partOf c.sp.val).any (fun q => decide ((((s.offered c).spire c.sp.val).ctx c.ctx.val).pc + 16 ≤ q.len))) = false := by
  obtain ⟨q, hq, -, hl⟩ := h.resident
  have hv : cmdValid (s.placeOf p c) c = true := h.valid
  have hp : (((s.offered c).spire c.sp.val).ctx c.ctx.val).pc = ((s.spire c.sp.val).ctx c.ctx.val).pc := by
    rw [s.offered_spire c, Spire.ctx_onCtx]
  have hq' : (s.placeOf p c).plan.partOf c.sp.val = some q := hq
  simp only [hv, hq', hp, Option.any_some, hl, decide_true, Bool.not_true, Bool.or_self]

omit h in
theorem State.offered_ctx (s : State) (c : StreamCmd) : ((s.offered c).spire c.sp.val).ctx c.ctx.val = { ctxOf s c with backlog := [c] } := by
  rw [s.offered_spire c, Spire.ctx_onCtx]
  rfl

/-- A read of the command: the state that the fetch engine leaves, where it reads it. -/
def State.reads (s : State) (p : Nat) (c : StreamCmd) : Option State :=
  (s.offered c).readCommand (s.placeOf p c) c p c.sp.val c.ctx.val (readOf s c) (s.part p).ccyc

/-- A command of the execute side is queued. -/
theorem Ready.reads_execute (ho : opExecute c.op = true) : ∃ t, s.reads p c = some t ∧
    Fetched s t c { ctxOf s c with pc := (ctxOf s c).pc + 16, queue := [⟨c, (ctxOf s c).pc, readOf s c⟩], eotRead := c.op == 0x3F } := by
  have hf := h.fetched_onCtx ((ctxOf s c).pc + 16) (readOf s c)
    (fun z => { z with queue := z.queue ++ [⟨c, (ctxOf s c).pc, readOf s c⟩], eotRead := c.op == 0x3F })
  refine ⟨_, ?_, by simpa only [h.ctx_idle.2.1, List.nil_append] using hf⟩
  unfold State.reads State.readCommand
  simp only [h.accepted]
  simp only [Bool.false_eq_true, if_false, ho, if_true, s.offered_ctx c]

theorem Ready.reads_nop (ho : c.op = 0) : ∃ t, s.reads p c = some t ∧ Fetched s t c { ctxOf s c with pc := (ctxOf s c).pc + 16 } := by
  refine ⟨_, ?_, h.fetched_read ((ctxOf s c).pc + 16) (readOf s c)⟩
  unfold State.reads State.readCommand
  simp only [h.accepted]
  simp only [Bool.false_eq_true, if_false, ho, opExecute, if_true, s.offered_ctx c]
  simp

theorem Ready.reads_loop (ho : c.op = 1) : ∃ t, s.reads p c = some t ∧
    Fetched s t c { ctxOf s c with pc := (ctxOf s c).pc + 16, loops := ⟨(ctxOf s c).pc + 16, fld c.w1 15 0, 0⟩ :: (ctxOf s c).loops } := by
  refine ⟨_, ?_, h.fetched_onCtx ((ctxOf s c).pc + 16) (readOf s c) (fun z => { z with loops := ⟨z.pc, fld c.w1 15 0, 0⟩ :: z.loops })⟩
  unfold State.reads State.readCommand
  simp only [h.accepted]
  simp only [Bool.false_eq_true, if_false, ho, opExecute, if_true, s.offered_ctx c]
  simp

/-- A LOOP_END after the last iteration closes its loop. -/
theorem Ready.reads_loopEnd_last {l : Loop} {rest : List Loop} (ho : c.op = 2) (hl : (ctxOf s c).loops = l :: rest) (hn : ¬l.iter + 1 < l.count) :
    ∃ t, s.reads p c = some t ∧ Fetched s t c { ctxOf s c with pc := (ctxOf s c).pc + 16, loops := rest } := by
  refine ⟨_, ?_, h.fetched_onCtx ((ctxOf s c).pc + 16) (readOf s c) (fun z => { z with loops := rest })⟩
  unfold State.reads State.readCommand
  simp only [h.accepted]
  simp only [Bool.false_eq_true, if_false, ho, opExecute, s.offered_ctx c, hl, hn]
  simp

/-- Before it, a LOOP_END goes back. -/
theorem Ready.reads_loopEnd_back {l : Loop} {rest : List Loop} (ho : c.op = 2) (hl : (ctxOf s c).loops = l :: rest) (hn : l.iter + 1 < l.count)
    (hb : bit1 c.w0 18 = false) :
    ∃ t, s.reads p c = some t ∧ Fetched s t c { ctxOf s c with pc := l.start, loops := { l with iter := l.iter + 1 } :: rest } := by
  refine ⟨_, ?_, h.fetched_onCtx l.start (readOf s c) (fun z => { z with loops := { l with iter := l.iter + 1 } :: rest })⟩
  unfold State.reads State.readCommand
  simp only [h.accepted]
  simp only [Bool.false_eq_true, if_false, ho, opExecute, s.offered_ctx c, hl, hn, hb]
  simp

/-- With ADV it queues the implicit SETO too. -/
theorem Ready.reads_loopEnd_adv {l : Loop} {rest : List Loop} (ho : c.op = 2) (hl : (ctxOf s c).loops = l :: rest) (hn : l.iter + 1 < l.count)
    (hb : bit1 c.w0 18 = true) :
    ∃ t, s.reads p c = some t ∧ Fetched s t c { ctxOf s c with
      pc := l.start, loops := { l with iter := l.iter + 1 } :: rest, queue := [⟨c.implicitSeto, (ctxOf s c).pc, readOf s c⟩] } := by
  have hq := h.ctx_idle.2.1
  refine ⟨_, ?_, State.offered_fetched (y := ((((s.offered c).spire c.sp.val).readHead c.ctx.val l.start (readOf s c)).onCtx c.ctx.val
    (fun z => { z with loops := { l with iter := l.iter + 1 } :: rest })).onCtx c.ctx.val
    (fun z => { z with queue := z.queue ++ [⟨c.implicitSeto, (ctxOf s c).pc, readOf s c⟩] })) ?_ (fun d hd => ?_) ?_⟩
  · unfold State.reads State.readCommand
    simp only [h.accepted]
    simp only [Bool.false_eq_true, if_false, ho, opExecute, s.offered_ctx c, hl, hn, hb]
    simp
  · rw [Spire.ctx_onCtx, Spire.ctx_onCtx, h.readHead_ctx]
    simp only [hq, List.nil_append]
  · rw [Spire.ctx_onCtx_ne _ _ hd, Spire.ctx_onCtx_ne _ _ hd, s.readHead_ctx_ne c _ _ hd]
  · exact s.readHead_rest c l.start (readOf s c) (fun x => (x.onCtx c.ctx.val _).onCtx c.ctx.val _) fun _ _ _ _ => rfl

/-! What follows a read. -/

/-- Feeding a resting Spire begins with the moves that it makes once the command stands alone before its fetch engine. -/
theorem Ready.feed_offered : ∃ f, s.feed c = State.pump (f + 1) p c.sp.val (s.offered c) := by
  obtain ⟨hph, -⟩ := streaming_spire h
  obtain ⟨q, hq, hr, -⟩ := h.resident
  have hplan : s.planOf c.sp.val = (s.part p).plan := by simp only [State.planOf, h.owner]
  have hm : (s.upset c.upsets).refillMeets c = s := by
    simp only [h.clean.1, State.upset, List.foldl_nil, State.refillMeets, hplan, hq, hr, if_true]
  have ho : (s.offered c).owner c.sp.val = some p := h.owner
  have hw := Spire.work_pos ((s.offered c).spire c.sp.val)
  refine ⟨((s.offered c).spire c.sp.val).work - 1, ?_⟩
  rw [show ((s.offered c).spire c.sp.val).work - 1 + 1 = ((s.offered c).spire c.sp.val).work by omega]
  unfold State.feed
  simp only [h.takes, hm, if_true]
  rw [State.presented h]
  unfold State.resume
  rw [ho]
  dsimp only
  rw [if_pos (show ((s.offered c).part p).phase = .run from hph), State.refill_resident (s := s.offered c) (q := q) hq hr]

/-- A command that the fetch engine cannot read stands before it. -/
theorem Ready.feed_held (e : s.reads p c = none) : s.feed c = s.offered c := by
  obtain ⟨f, hf⟩ := h.feed_offered
  have hq : ∀ k, k < 8 → (((s.offered c).spire c.sp.val).ctx k).queue = [] := by
    intro k hk
    by_cases hkc : k = c.ctx.val
    · subst hkc
      rw [s.offered_ctx c]
      exact h.ctx_idle.2.1
    · rw [s.offered_spire c, Spire.ctx_onCtx_ne _ _ hkc]
      exact (h.quiet k hk).2
  have hb : ∀ k, k < 8 → k ≠ c.ctx.val → (((s.offered c).spire c.sp.val).ctx k).backlog = [] := by
    intro k hk hkc
    rw [s.offered_spire c, Spire.ctx_onCtx_ne _ _ hkc]
    exact (h.quiet k hk).1
  have hmv : (s.offered c).move p c.sp.val = none := by
    rw [State.move_read c.ctx.isLt (State.pickUp_empty hq) hq hb, State.readNext_ready h]
    exact congrArg (Option.map _) e
  rw [hf, State.pump, hmv]

variable {t : State} {k : Ctx} (f : Fetched s t c k) (e : s.reads p c = some t)

include f

/-- The contexts beside that of the command have nothing under way. -/
theorem Fetched.idle {d : Nat} (hd : d < 8) (hne : d ≠ c.ctx.val) :
    ((t.spire c.sp.val).ctx d).backlog = [] ∧ ((t.spire c.sp.val).ctx d).queue = [] := by
  rw [f.others d hne]
  exact h.quiet d hd

theorem Fetched.quiet (hb : k.backlog = []) (hq : k.queue = []) : Quiet t c.sp.val := by
  intro d hd
  by_cases hne : d = c.ctx.val
  · subst hne
    rw [show (t.spire c.sp.val).ctx c.ctx.val = k from f.ctx]
    exact ⟨hb, hq⟩
  · exact f.idle h hd hne

/-- In pod class a context runs, so none is picked up. -/
theorem Fetched.pickUp : t.pickUp c.sp.val = none := by
  refine State.pickUp_none fun hp => ?_
  have hplan : t.planOf c.sp.val = s.planOf c.sp.val := by
    have hc : t.owner c.sp.val = s.owner c.sp.val := (congrArg (fun a : State => a.owner c.sp.val) f.only.outside :)
    simp only [State.planOf, hc, f.only.part]
  rw [hplan] at hp
  rw [f.spire_eq Spire.running fun _ _ _ _ => rfl]
  exact h.picked hp

include e

/-- A command that the fetch engine has done with. -/
theorem Fetched.feed_read (hb : k.backlog = []) (hq : k.queue = []) : s.feed c = t := by
  obtain ⟨n, -, hn⟩ := State.feed_ready h (f.only.part p) e
  rw [hn, State.pump_quiet (f.quiet h hb hq)]

/-- A command that the execute engine starts: the Spire is quiet after it. -/
theorem Fetched.feed_starts {u : State} (es : t.startNext p c.sp.val c.ctx.val = some u) (hu : Quiet u c.sp.val) : s.feed c = u :=
  State.feed_started h (f.only.part p) e (fun _ hd hne => (f.idle h hd hne).2) es (State.pickUp_empty fun d hd => (hu d hd).2) hu

/-- A command that the execute engine cannot start waits in its queue. -/
theorem Fetched.feed_waits (hb : k.backlog = []) (es : t.startNext p c.sp.val c.ctx.val = none) : s.feed c = t := by
  obtain ⟨n, -, hn⟩ := State.feed_ready h (f.only.part p) e
  have hstart : (List.range 8).findSome? (t.startNext p c.sp.val) = none := by
    simp only [List.findSome?_eq_none_iff, List.mem_range]
    intro d hd
    by_cases hne : d = c.ctx.val
    · subst hne
      exact es
    · exact State.startNext_empty (f.idle h hd hne).2
  have hread : (circularAfter 8 (t.spire c.sp.val).lastRead).findSome? (t.readNext p c.sp.val) = none := by
    simp only [List.findSome?_eq_none_iff]
    intro d hd
    refine State.readNext_empty ?_
    by_cases hne : d = c.ctx.val
    · subst hne
      exact (congrArg Ctx.backlog f.ctx).trans hb
    · exact (f.idle h (circularAfter_lt hd) hne).1
  have hmv : t.move p c.sp.val = none := by
    unfold State.move
    rw [hstart, f.pickUp h]
    dsimp only
    rw [hread]
    rfl
  rw [hn]
  cases n with
  | zero => rfl
  | succ n => rw [State.pump, hmv]

end

end Sys2Proof.Machine
end

section
/-! SUPPORT. The execute engine at the command that a resting Spire has just queued; NOP, YIELD, ANCHOR and EOT. -/

namespace Sys2Proof.Machine

theorem SameMemory.trans {s t u : State} (h : SameMemory s t) (k : SameMemory t u) : SameMemory s u where
  sram tile a := (k.sram tile a).trans (h.sram tile a)
  hbm a := (k.hbm a).trans (h.hbm a)
  flash a := (k.flash a).trans (h.flash a)
  image a := (k.image a).trans (h.image a)
  slots i a := (k.slots i a).trans (h.slots i a)
  mailboxes f a := ⟨(k.mailboxes f a).1.trans (h.mailboxes f a).1, (k.mailboxes f a).2.trans (h.mailboxes f a).2⟩

/-! Starts. -/

theorem Spire.passHead_ctx (x : Spire) (pod : Bool) (ctx t fin : Nat) : (x.passHead pod ctx t fin).ctx ctx = (x.ctx ctx).pass pod t fin := by
  show (x.onCtx ctx fun k => k.pass pod t fin).ctx ctx = _
  rw [Spire.ctx_onCtx]

theorem Spire.passHead_ctx_ne (x : Spire) (pod : Bool) {ctx d : Nat} (t fin : Nat) (h : d ≠ ctx) : (x.passHead pod ctx t fin).ctx d = x.ctx d := by
  show (x.onCtx ctx fun k => k.pass pod t fin).ctx d = _
  rw [Spire.ctx_onCtx_ne _ _ h]

@[simp] theorem State.event_spire (s : State) (code sev : Nat) (part : Option Nat) (detail : Nat) (ext : Option (List Byte)) (k : Nat) :
    (s.event code sev part detail ext).spire k = s.spire k := by
  simp only [State.spire, State.event_core]

section

variable {s t : State} {p : Nat} {c : StreamCmd} {k : Ctx} (h : Ready s p c) (f : Fetched s t c k)

include h f

theorem Fetched.running : bit1 (t.spire c.sp.val).frozen 0 = false ∧ (t.spire c.sp.val).stopped = false := by
  obtain ⟨-, hf, hs, -⟩ := streaming_spire h
  exact ⟨(f.spire_eq (bit1 ·.frozen 0) fun _ _ _ _ => rfl).trans hf, (f.spire_eq Spire.stopped fun _ _ _ _ => rfl).trans hs⟩

/-- Every slot and every set is free. -/
theorem Fetched.slotFree (d : StreamCmd) : (t.spire c.sp.val).slotFree d (s.part p).ccyc = true := by
  obtain ⟨start, mac, vec, ro, -⟩ := h.rested.free
  rw [f.spire_eq (·.slotFree d (s.part p).ccyc) fun _ _ _ _ => rfl]
  simp only [Spire.slotFree, start, mac, vec, ro, (h.rested.sets _).1, (h.rested.sets _).2, decide_true, Bool.and_self, ite_self]

/-- Nothing keeps the command that the context has queued from its start but what the command itself waits for. -/
theorem Fetched.startNext {e : QEntry} (hq : k.queue = [e]) (hfin : k.finished = (ctxOf s c).finished) (hp : e.placed = readOf s c) (hop : e.cmd.op ≠ 0x32) :
    t.startNext p c.sp.val c.ctx.val =
      if opControl e.cmd.op then t.passControl e.cmd p (s.part p).plan.pod (s.part p).ccyc
      else if t.loadMeets e.cmd (s.part p).ccyc then none else some (t.startSlot e.cmd (s.part p).plan.pod (s.part p).ccyc e.off) := by
  obtain ⟨hfr, hst⟩ := f.running h
  have hctx : (t.spire c.sp.val).ctx c.ctx.val = k := f.ctx
  have hnow : ¬(s.part p).ccyc < e.placed + 2 := by
    have := h.read
    simp only [hp, readOf]
    omega
  have hdone : ¬(s.part p).ccyc < k.finished := by
    have := h.rested.free.2.2.2.2
    simp only [hfin, ctxOf]
    omega
  have hrun : (t.spire c.sp.val).mayRun (s.part p).plan.pod c.ctx.val (s.part p).ccyc = true := by
    rw [f.spire_eq (·.mayRun (s.part p).plan.pod c.ctx.val (s.part p).ccyc) fun _ _ _ _ => rfl]
    exact h.runs
  have hzero : c.ctx.val ≠ 0 → t.ctxReady c.sp.val 0 = false := fun hne =>
    State.ctxReady_empty (f.idle h (by omega) (fun e => hne e.symm)).2
  have hturn : ¬(¬(t.spire c.sp.val).mayRun (s.part p).plan.pod c.ctx.val (s.part p).ccyc = true ∨ e.cmd.ord = true ∧ (s.part p).ccyc < k.finished ∨
      (s.part p).plan.pod = true ∧ c.ctx.val ≠ 0 ∧ t.ctxReady c.sp.val 0 = true) := by
    rintro (a | ⟨-, a⟩ | ⟨-, a, b⟩)
    · exact a hrun
    · exact hdone a
    · rw [hzero a] at b
      cases b
  unfold State.startNext
  simp only [hctx, hq, f.only.part, hfr, hst, hnow, hop, hturn, f.slotFree h]
  cases t.loadMeets e.cmd (s.part p).ccyc <;> simp

/-- A BARRIER arrives. -/
theorem Fetched.startNext_barrier {e : QEntry} (hq : k.queue = [e]) (hp : e.placed = readOf s c) (hop : e.cmd.op = 0x32) :
    t.startNext p c.sp.val c.ctx.val = ((t.spire c.sp.val).arrive e.cmd (s.part p).ccyc).map (t.setSpire c.sp.val) := by
  obtain ⟨hfr, hst⟩ := f.running h
  have hctx : (t.spire c.sp.val).ctx c.ctx.val = k := f.ctx
  have hnow : ¬(s.part p).ccyc < e.placed + 2 := by
    have := h.read
    simp only [hp, readOf]
    omega
  unfold State.startNext
  simp only [hctx, hq, f.only.part, hfr, hst, hnow, hop]
  simp

/-- After a start the Spire is quiet when its context is. -/
theorem Fetched.quiet_after {u : State} (hc : (ctxOf u c).backlog = [] ∧ (ctxOf u c).queue = [])
    (ho : ∀ d, d ≠ c.ctx.val → (u.spire c.sp.val).ctx d = (t.spire c.sp.val).ctx d) : Quiet u c.sp.val := by
  intro d hd
  by_cases hne : d = c.ctx.val
  · subst hne
    exact hc
  · rw [ho d hne]
    exact f.idle h hd hne

end

section

variable {s t : State} {p : Nat} {c : StreamCmd} {b : Bool} (h : Ready s p c)
  (f : Fetched s t c { ctxOf s c with pc := (ctxOf s c).pc + 16, queue := [⟨c, (ctxOf s c).pc, readOf s c⟩], eotRead := b })

include h f

/-- A control command that passes alone leaves its context with nothing under way. -/
theorem Fetched.passed {y : Spire} (n : Nat) (hc : y.ctxs = ((t.spire c.sp.val).passHead (s.part p).plan.pod c.ctx.val n n).ctxs) :
    Quiet (t.setSpire c.sp.val y) c.sp.val ∧ OnlySpire s (t.setSpire c.sp.val y) c.sp.val ∧
      (ctxOf (t.setSpire c.sp.val y) c).pc = (ctxOf s c).pc + 16 ∧ (ctxOf (t.setSpire c.sp.val y) c).queue = [] := by
  have hctx : (t.spire c.sp.val).ctx c.ctx.val = _ := f.ctx
  have hy : ∀ d, y.ctx d = ((t.spire c.sp.val).passHead (s.part p).plan.pod c.ctx.val n n).ctx d := fun d => by rw [Spire.ctx, hc]; rfl
  have hu : ctxOf (t.setSpire c.sp.val y) c = (ctxOf t c).pass (s.part p).plan.pod n n := by
    rw [ctxOf, State.spire_setSpire, hy, Spire.passHead_ctx]
    rfl
  have hp : (ctxOf (t.setSpire c.sp.val y) c).backlog = [] ∧ (ctxOf (t.setSpire c.sp.val y) c).queue = [] ∧
      (ctxOf (t.setSpire c.sp.val y) c).pc = (ctxOf s c).pc + 16 := by
    rw [hu, f.ctx]
    exact ⟨h.ctx_idle.1, rfl, rfl⟩
  refine ⟨f.quiet_after h ⟨hp.1, hp.2.1⟩ fun d hd => ?_, f.only.trans (OnlySpire.setSpire ..), hp.2.2, hp.2.1⟩
  rw [State.spire_setSpire, hy, Spire.passHead_ctx_ne _ _ _ _ hd]

end

/-! Marks in the stream. -/

theorem exec_nop (c : StreamCmd) (s : State) : exec (.nop c) s = .next (s.feed c) := rfl
theorem exec_yield (c : StreamCmd) (s : State) : exec (.yield c) s = .next (s.feed c) := rfl
theorem exec_anchor (c : StreamCmd) (s : State) : exec (.anchor c) s = .next (s.feed c) := rfl
theorem exec_eot (c : StreamCmd) (s : State) : exec (.eot c) s = .next (s.feed c) := rfl

section

variable {s : State} {p : Nat} {c : StreamCmd} (h : Ready s p c)

include h

theorem feed_nop (ho : c.op = 0) : OnlySpire s (s.feed c) c.sp.val ∧ ctxOf (s.feed c) c = { ctxOf s c with pc := (ctxOf s c).pc + 16 } := by
  obtain ⟨t, e, f⟩ := h.reads_nop ho
  rw [f.feed_read h e h.ctx_idle.1 h.ctx_idle.2.1]
  exact ⟨f.only, f.ctx⟩

theorem feed_yield (ho : c.op = 0x34) : OnlySpire s (s.feed c) c.sp.val ∧ ((s.feed c).spire c.sp.val).yielded = (s.part p).plan.pod ∧
    (ctxOf (s.feed c) c).pc = (ctxOf s c).pc + 16 ∧ (ctxOf (s.feed c) c).queue = [] := by
  obtain ⟨t, e, f⟩ := h.reads_execute (by simp [ho, opExecute])
  have es := f.startNext h rfl rfl rfl (by simp [ho])
  simp only [ho, opControl, State.passControl] at es
  obtain ⟨hq, hs, hr⟩ := f.passed h (s.part p).ccyc (y := { (t.spire c.sp.val).passHead (s.part p).plan.pod c.ctx.val (s.part p).ccyc (s.part p).ccyc with
    yielded := (s.part p).plan.pod }) rfl
  rw [f.feed_starts h e es hq]
  exact ⟨hs, by rw [State.spire_setSpire], hr⟩

/-- The ccyc that an ANCHOR names. -/
def anchorAt (c : StreamCmd) : Nat := c.w1.toNat + fld c.w2 15 0 * 2 ^ 32

/-- An ANCHOR at the head of a queue. -/
theorem Fetched.startNext_anchor {t : State} {b : Bool} (ho : c.op = 0x33)
    (f : Fetched s t c { ctxOf s c with pc := (ctxOf s c).pc + 16, queue := [⟨c, (ctxOf s c).pc, readOf s c⟩], eotRead := b }) :
    t.startNext p c.sp.val c.ctx.val =
      let n := (s.part p).ccyc
      let u := t.setSpire c.sp.val ((t.spire c.sp.val).passHead (s.part p).plan.pod c.ctx.val n n)
      if n < anchorAt c then none else if n = anchorAt c then some u else some (u.anchorMissed p c.sp.val c.ctx.val n) := by
  rw [f.startNext h rfl rfl rfl (by simp [ho])]
  simp only [ho, opControl, State.passControl, anchorAt]
  simp
  rfl

theorem feed_anchor_early (ho : c.op = 0x33) (hn : (s.part p).ccyc < anchorAt c) : OnlySpire s (s.feed c) c.sp.val ∧
    (ctxOf (s.feed c) c).queue = [⟨c, (ctxOf s c).pc, readOf s c⟩] ∧ ((s.feed c).spire c.sp.val).ctr.anchorMiss = (s.spire c.sp.val).ctr.anchorMiss := by
  obtain ⟨t, e, f⟩ := h.reads_execute (by simp [ho, opExecute])
  rw [f.feed_waits h e h.ctx_idle.1 ((f.startNext_anchor h ho).trans (if_pos hn)), f.ctx]
  exact ⟨f.only, rfl, f.spire_eq (·.ctr.anchorMiss) fun _ _ _ _ => rfl⟩

theorem feed_anchor_met (ho : c.op = 0x33) (hn : (s.part p).ccyc = anchorAt c) : OnlySpire s (s.feed c) c.sp.val ∧
    (ctxOf (s.feed c) c).queue = [] ∧ ((s.feed c).spire c.sp.val).ctr.anchorMiss = (s.spire c.sp.val).ctr.anchorMiss := by
  obtain ⟨t, e, f⟩ := h.reads_execute (by simp [ho, opExecute])
  obtain ⟨hq, hs, -, hr⟩ := f.passed h (s.part p).ccyc (y := (t.spire c.sp.val).passHead (s.part p).plan.pod c.ctx.val (s.part p).ccyc (s.part p).ccyc) rfl
  rw [f.feed_starts h e ((f.startNext_anchor h ho).trans ((if_neg (by omega)).trans (if_pos hn))) hq]
  exact ⟨hs, hr, by rw [State.spire_setSpire]; exact f.spire_eq (·.ctr.anchorMiss) fun _ _ _ _ => rfl⟩

/-- The state in which a missed ANCHOR is noted. -/
def State.missMarked (s : State) (sp : Nat) : State :=
  s.onSpire sp (fun y => { y with anchorLogged := true, ctr := { y.ctr with anchorMiss := sat32 y.ctr.anchorMiss 1 } })

omit h in
/-- A miss is noted in its Spire, and the first of a run window is logged. -/
theorem State.anchorMissed_spec (s : State) (p sp ctx n : Nat) :
    (∀ i, (s.anchorMissed p sp ctx n).spire i = (s.missMarked sp).spire i) ∧ SameMemory s (s.anchorMissed p sp ctx n) ∧
      (s.anchorMissed p sp ctx n).log.pos = s.log.pos + (if (s.spire sp).anchorLogged then 0 else 1) := by
  have hm : SameMemory s (s.missMarked sp) := .of_eq rfl rfl rfl rfl fun _ => rfl
  cases hl : (s.spire sp).anchorLogged
  · have e : s.anchorMissed p sp ctx n = (s.missMarked sp).event 0x0203 2 (some p) (sp + ctx * 2 ^ 4 + n * 2 ^ 16) := by
      simp only [State.anchorMissed, hl]
      rfl
    rw [e]
    exact ⟨fun _ => State.event_spire .., .of_lasting (State.event_lasting ..) fun _ => State.event_mbx .., State.event_pos ..⟩
  · have e : s.anchorMissed p sp ctx n = s.missMarked sp := by
      simp only [State.anchorMissed, hl]
      rfl
    rw [e]
    exact ⟨fun _ => rfl, hm, rfl⟩

theorem feed_anchor_late (ho : c.op = 0x33) (hn : anchorAt c < (s.part p).ccyc) : SameMemory s (s.feed c) ∧ (ctxOf (s.feed c) c).queue = [] ∧
    ((s.feed c).spire c.sp.val).ctr.anchorMiss = sat32 (s.spire c.sp.val).ctr.anchorMiss 1 ∧ ((s.feed c).spire c.sp.val).anchorLogged = true ∧
    (s.feed c).log.pos = s.log.pos + (if (s.spire c.sp.val).anchorLogged then 0 else 1) := by
  obtain ⟨t, e, f⟩ := h.reads_execute (by simp [ho, opExecute])
  obtain ⟨hq, hs, -, hr⟩ := f.passed h (s.part p).ccyc (y := (t.spire c.sp.val).passHead (s.part p).plan.pod c.ctx.val (s.part p).ccyc (s.part p).ccyc) rfl
  have hw : (t.setSpire c.sp.val ((t.spire c.sp.val).passHead (s.part p).plan.pod c.ctx.val (s.part p).ccyc (s.part p).ccyc)).spire c.sp.val = _ :=
    State.spire_setSpire ..
  have hlog : ((t.spire c.sp.val).passHead (s.part p).plan.pod c.ctx.val (s.part p).ccyc (s.part p).ccyc).anchorLogged = (s.spire c.sp.val).anchorLogged :=
    f.spire_eq (·.anchorLogged) fun _ _ _ _ => rfl
  have hmiss : ((t.spire c.sp.val).passHead (s.part p).plan.pod c.ctx.val (s.part p).ccyc (s.part p).ccyc).ctr.anchorMiss = (s.spire c.sp.val).ctr.anchorMiss :=
    f.spire_eq (·.ctr.anchorMiss) fun _ _ _ _ => rfl
  have es := (f.startNext_anchor h ho).trans ((if_neg (by omega)).trans (if_neg (by omega)))
  generalize t.setSpire c.sp.val ((t.spire c.sp.val).passHead (s.part p).plan.pod c.ctx.val (s.part p).ccyc (s.part p).ccyc) = u at hq hs hr hw es
  obtain ⟨hspire, hmem, hpos⟩ := u.anchorMissed_spec p c.sp.val c.ctx.val (s.part p).ccyc
  have hmark : ((u.anchorMissed p c.sp.val c.ctx.val (s.part p).ccyc).spire c.sp.val) = _ := (hspire _).trans (State.spire_onSpire ..)
  have hctx : ∀ d, ((u.anchorMissed p c.sp.val c.ctx.val (s.part p).ccyc).spire c.sp.val).ctx d = (u.spire c.sp.val).ctx d := fun d => by
    rw [hmark]
    rfl
  rw [f.feed_starts h e es (hq.of_ctxs fun d _ => hctx d)]
  refine ⟨hs.sameMemory.trans hmem, (congrArg Ctx.queue (hctx _)).trans hr, ?_, ?_, ?_⟩
  · rw [hmark, hw, ← hmiss]
  · rw [hmark]
  · rw [hpos, hw, hlog, (congrArg (·.log) hs.outside :)]

/-! The last command of a tick. -/

omit h in
/-- A Spire is closed when every context that its plan gives it has executed its EOT. -/
theorem State.closed_iff (s : State) (p sp : Nat) : s.closed p sp = true ↔ ∀ k, k < (s.part p).plan.contexts → ((s.spire sp).ctx k).eotDone = true := by
  simp only [State.closed, List.all_eq_true, List.mem_range]

omit h in
/-- An end of a run window leaves a Spire's contexts as they are. -/
theorem State.endWindow_ctx (s : State) (p i k : Nat) : ((s.endWindow p).spire i).ctx k = (s.spire i).ctx k := by
  unfold State.endWindow
  dsimp only
  split
  · exact (Spire.eq_of_unloaded (Spire.ctx · k) (fun _ => rfl) (State.reload_unloaded ..)).trans rfl
  · rfl

omit h in
/-- A run window with a Spire that is not closed goes on. -/
theorem State.endWindow_open {s : State} {p i : Nat} (hi : i ∈ s.planSpires p) (hc : s.closed p i = false) : s.endWindow p = s :=
  if_neg fun ⟨_, ha⟩ => by simp [List.all_eq_true.mp ha i hi] at hc

omit h in
/-- A run window whose Spires are all closed ends. -/
theorem State.endWindow_drains {s : State} {p : Nat} (hp : (s.part p).phase = .run) (hc : ∀ i ∈ s.planSpires p, s.closed p i = true) :
    ((s.endWindow p).part p).phase = .drain := by
  have e : s.endWindow p = ((s.setPart p { s.part p with phase := .drain }).stopCalendars p).reload p := if_pos ⟨hp, List.all_eq_true.mpr hc⟩
  rw [e, State.eq_of_lasting (fun a => (a.part p).phase) (fun _ => rfl) ((State.reload_lasting ..).trans (State.stopCalendars_lasting ..)), State.part_setPart]

/-- The state that an EOT leaves where it ends no run window. -/
def State.eotPassed (t : State) (c : StreamCmd) (pod : Bool) (n : Nat) : State :=
  t.setSpire c.sp.val (((t.spire c.sp.val).passHead pod c.ctx.val n n).onCtx c.ctx.val fun k => { k with eotDone := true })

/-- A ready EOT closes its context, and then the run window where it can end. -/
theorem feed_eot (ho : c.op = 0x3F) : ∃ u : State, s.feed c = u.endWindow p ∧ OnlySpire s u c.sp.val ∧ (ctxOf u c).eotRead = true ∧ (ctxOf u c).eotDone = true ∧
    ∀ k, k ≠ c.ctx.val → (u.spire c.sp.val).ctx k = (s.spire c.sp.val).ctx k := by
  obtain ⟨t, e, f⟩ := h.reads_execute (by simp [ho, opExecute])
  have hctx : (t.spire c.sp.val).ctx c.ctx.val = _ := f.ctx
  have es : t.startNext p c.sp.val c.ctx.val = some ((t.eotPassed c (s.part p).plan.pod (s.part p).ccyc).endWindow p) := by
    rw [f.startNext h rfl rfl rfl (by simp [ho])]
    have hdone : ((t.spire c.sp.val).ctx c.ctx.val).finished ≤ (s.part p).ccyc := by
      rw [hctx]
      exact h.rested.free.2.2.2.2
    simp [ho, opControl, State.passControl, State.eotPassed, hdone]
  have own : ctxOf (t.eotPassed c (s.part p).plan.pod (s.part p).ccyc) c =
      { (ctxOf t c).pass (s.part p).plan.pod (s.part p).ccyc (s.part p).ccyc with eotDone := true } := by
    rw [ctxOf, State.eotPassed, State.spire_setSpire, Spire.ctx_onCtx, Spire.passHead_ctx]
    rfl
  have others : ∀ d, d ≠ c.ctx.val → ((t.eotPassed c (s.part p).plan.pod (s.part p).ccyc).spire c.sp.val).ctx d = (t.spire c.sp.val).ctx d := fun d hd => by
    rw [State.eotPassed, State.spire_setSpire, Spire.ctx_onCtx_ne _ _ hd, Spire.passHead_ctx_ne _ _ _ _ hd]
  have hq : Quiet (t.eotPassed c (s.part p).plan.pod (s.part p).ccyc) c.sp.val := by
    refine f.quiet_after h ?_ others
    rw [own, f.ctx]
    exact ⟨h.ctx_idle.1, rfl⟩
  refine ⟨_, f.feed_starts h e es (hq.of_ctxs fun k _ => State.endWindow_ctx ..), f.only.trans (OnlySpire.setSpire ..), ?_, ?_,
    fun d hd => (others d hd).trans (f.others d hd)⟩
  · rw [own, f.ctx]
    simp [Ctx.pass, ho]
  · rw [own]

/-- With another Spire not closed the run window goes on. -/
theorem feed_eot_open {i : Nat} (ho : c.op = 0x3F) (hi : i ∈ s.planSpires p) (hne : i ≠ c.sp.val) (hc : s.closed p i = false) :
    OnlySpire s (s.feed c) c.sp.val ∧ (ctxOf (s.feed c) c).eotRead = true ∧ (ctxOf (s.feed c) c).eotDone = true := by
  obtain ⟨u, hu, only, read, done, -⟩ := feed_eot h ho
  have hiu : i ∈ u.planSpires p := by rwa [State.planSpires, only.part]
  have hcu : u.closed p i = false := by rw [← hc, State.closed, State.closed, only.part, only.others i hne]
  rw [hu, State.endWindow_open hiu hcu]
  exact ⟨only, read, done⟩

/-- With every other context closed it ends. -/
theorem feed_eot_last (ho : c.op = 0x3F) (hs : ∀ i ∈ s.planSpires p, i ≠ c.sp.val → s.closed p i = true)
    (hk : ∀ k, k < (s.part p).plan.contexts → k ≠ c.ctx.val → ((s.spire c.sp.val).ctx k).eotDone = true) :
    ((s.feed c).part p).phase = .drain ∧ SameSram s (s.feed c) := by
  obtain ⟨u, hu, only, -, done, others⟩ := feed_eot h ho
  have hcu : ∀ i ∈ u.planSpires p, u.closed p i = true := by
    intro i hi
    rw [State.planSpires, only.part] at hi
    by_cases hne : i = c.sp.val
    · subst hne
      rw [State.closed_iff, only.part]
      intro k hlt
      by_cases hkc : k = c.ctx.val
      · subst hkc
        exact done
      · rw [others k hkc]
        exact hk k hlt hkc
    · rw [State.closed, only.part, only.others i hne]
      exact hs i hi hne
  have hrun : (u.part p).phase = .run := by
    rw [only.part]
    exact (streaming_spire h).1
  rw [hu]
  refine ⟨State.endWindow_drains hrun hcu, fun tile a => ?_⟩
  rw [State.sramByte, State.endWindow_eq (·.core.sram) (fun _ => rfl) (fun _ _ _ => rfl)]
  exact only.sameMemory.sram tile a

end

/-- Settles O8: what passing, or waiting at, a mark leaves of its context. -/
theorem streamMarksPass : Obligations.StreamMarksPass := by
  intro s p c h
  refine ⟨fun ho => ⟨_, exec_nop c s, feed_nop h ho⟩, fun ho => ⟨_, exec_yield c s, feed_yield h ho⟩, fun ho => ⟨?_, ?_, ?_⟩⟩
  · exact fun hn => ⟨_, exec_anchor c s, feed_anchor_early h ho hn⟩
  · exact fun hn => ⟨_, exec_anchor c s, feed_anchor_met h ho hn⟩
  · exact fun hn => ⟨_, exec_anchor c s, feed_anchor_late h ho hn⟩

/-- Settles O9: the run window ends with the last context that closes. -/
theorem eotClosesTheTick : Obligations.EotClosesTheTick := by
  intro s p c h ho
  refine ⟨fun ⟨i, hi, hne, hc⟩ => ⟨_, exec_eot c s, feed_eot_open h ho hi hne hc⟩, fun hs hk => ⟨_, exec_eot c s, feed_eot_last h ho hs hk⟩⟩

end Sys2Proof.Machine
end

section
/-! SUPPORT. The fetch-side commands, which act as they are read: descriptors and calendars handed over, and handles taken and put. -/

namespace Sys2Proof.Machine

/-! The read of a fetch-side command. -/

/-- The opcodes that the fetch engine carries out itself (Table 6-4), NOP and the loops apart. -/
def FetchSide (c : StreamCmd) : Prop := 0x10 ≤ c.op ∧ c.op < 0x20

/-- A fetch-side command has acted, and the fetch engine still holds it: its context stands as `k`, with nothing else under way. -/
structure Handed (s t : State) (p : Nat) (c : StreamCmd) (k : Ctx) : Prop where
  part : t.part p = s.part p
  own : ctxOf t c = { k with backlog := [c] }
  idle : k.queue = [] ∧ k.pushF = none
  others : ∀ d, d ≠ c.ctx.val → (t.spire c.sp.val).ctx d = (s.spire c.sp.val).ctx d

/-- What is read off a Spire but for its contexts and the fetch engine's turn stays as a command is read. -/
theorem Spire.readHead_eq {γ : Type} (g : Spire → γ) (hg : ∀ (x : Spire) a b d, g { x with ctxs := a, readFree := b, lastRead := d } = g x) (x : Spire)
    (ctx pc t : Nat) : g (x.readHead ctx pc t) = g x := hg x ..

theorem Spire.readHead_ctx (x : Spire) (ctx pc t : Nat) :
    (x.readHead ctx pc t).ctx ctx = { x.ctx ctx with backlog := (x.ctx ctx).backlog.drop 1, pc := pc, refillAt := none } :=
  Spire.ctx_onCtx x ctx fun k => { k with backlog := k.backlog.drop 1, pc := pc, refillAt := none }

theorem Spire.readHead_ctx_ne (x : Spire) {ctx d : Nat} (pc t : Nat) (h : d ≠ ctx) : (x.readHead ctx pc t).ctx d = x.ctx d :=
  Spire.ctx_onCtx_ne x (fun k => { k with backlog := k.backlog.drop 1, pc := pc, refillAt := none }) h

/-- The fetch engine moves on past a command that has acted. -/
def State.readOn (t : State) (c : StreamCmd) (pc n : Nat) : State := t.onSpire c.sp.val fun y => y.readHead c.ctx.val pc n

section

variable {s : State} {p : Nat} {c : StreamCmd} (h : Ready s p c)

include h

/-- The read of a fetch-side command: it acts or holds the engine, and one whose push has set out stays before it. -/
theorem Ready.reads_fetchSide (hx : FetchSide c) : s.reads p c = ((s.offered c).fetchSide c p (s.part p).ccyc).map fun t =>
    if (ctxOf t c).pushF.isSome then t else t.readOn c ((ctxOf s c).pc + 16) (s.part p).ccyc := by
  obtain ⟨lo, hi⟩ := hx
  have hpush : (((s.offered c).spire c.sp.val).ctx c.ctx.val).pushF = none := by
    rw [s.offered_ctx c]
    exact h.ctx_idle.2.2.2.1
  have hpc : (((s.offered c).spire c.sp.val).ctx c.ctx.val).pc = (ctxOf s c).pc := by rw [s.offered_ctx c]
  unfold State.reads State.readCommand
  simp only [h.accepted]
  simp only [hpush, hpc, show opExecute c.op = false by simp [opExecute]; omega, show c.op ≠ 0 by omega, show c.op ≠ 1 by omega,
    show c.op ≠ 2 by omega, Bool.false_eq_true, if_false, Option.isSome_none]
  cases (s.offered c).fetchSide c p (s.part p).ccyc with
  | none => rfl
  | some t =>
    simp only [ctxOf, Option.map_some, State.readOn]
    exact (apply_ite some ..).symm

/-- A fetch-side command that acts and is done with. -/
theorem Handed.feed {t : State} {k : Ctx} (H : Handed s t p c k) (hx : FetchSide c) (e : (s.offered c).fetchSide c p (s.part p).ccyc = some t) :
    s.feed c = t.readOn c ((ctxOf s c).pc + 16) (s.part p).ccyc ∧
      ctxOf (s.feed c) c = { k with backlog := [], pc := (ctxOf s c).pc + 16, refillAt := none } := by
  have hr : s.reads p c = some (t.readOn c ((ctxOf s c).pc + 16) (s.part p).ccyc) := by
    simp [h.reads_fetchSide hx, e, H.own, H.idle.2]
  have own : ((t.readOn c ((ctxOf s c).pc + 16) (s.part p).ccyc).spire c.sp.val).ctx c.ctx.val =
      { k with backlog := [], pc := (ctxOf s c).pc + 16, refillAt := none } := by
    rw [State.readOn, State.spire_onSpire, Spire.readHead_ctx, show (t.spire c.sp.val).ctx c.ctx.val = { k with backlog := [c] } from H.own]
    rfl
  have quiet : Quiet (t.readOn c ((ctxOf s c).pc + 16) (s.part p).ccyc) c.sp.val := by
    intro d hd
    by_cases hne : d = c.ctx.val
    · subst hne
      rw [own]
      exact ⟨rfl, H.idle.1⟩
    · rw [State.readOn, State.spire_onSpire, Spire.readHead_ctx_ne _ _ _ hne, H.others d hne]
      exact h.quiet d hd
  have hp : (t.readOn c ((ctxOf s c).pc + 16) (s.part p).ccyc).part p = s.part p := H.part
  rw [State.feed_fetched h hp hr (State.pickUp_empty fun d hd => (quiet d hd).2) quiet]
  exact ⟨rfl, own⟩

/-- A fetch-side command that acts on its Spire alone. -/
theorem Ready.feed_acts (hx : FetchSide c) (g : Spire → Spire) (k : Ctx) (e : (s.offered c).fetchSide c p (s.part p).ccyc = some ((s.offered c).onSpire c.sp.val g))
    (own : (g ((s.offered c).spire c.sp.val)).ctx c.ctx.val = { k with backlog := [c] }) (idle : k.queue = [] ∧ k.pushF = none)
    (others : ∀ d, d ≠ c.ctx.val → (g ((s.offered c).spire c.sp.val)).ctx d = ((s.offered c).spire c.sp.val).ctx d) :
    OnlySpire s (s.feed c) c.sp.val ∧ ctxOf (s.feed c) c = { k with backlog := [], pc := (ctxOf s c).pc + 16, refillAt := none } ∧
      ∀ {γ : Type} (r : Spire → γ), (∀ (x : Spire) a b d, r { x with ctxs := a, readFree := b, lastRead := d } = r x) →
        r ((s.feed c).spire c.sp.val) = r (g ((s.offered c).spire c.sp.val)) := by
  have H : Handed s ((s.offered c).onSpire c.sp.val g) p c k := by
    refine ⟨rfl, ?_, idle, fun d hd => ?_⟩
    · rw [ctxOf, State.spire_onSpire, own]
    · rw [State.spire_onSpire, others d hd, s.offered_spire c, Spire.ctx_onCtx_ne _ _ hd]
  obtain ⟨hf, own⟩ := H.feed h hx e
  refine ⟨?_, own, fun r hr => ?_⟩
  · rw [hf]
    exact ((s.offered_only c).trans (OnlySpire.setSpire ..)).trans (OnlySpire.setSpire ..)
  · rw [hf, State.readOn, State.spire_onSpire, Spire.readHead_eq r hr, State.spire_onSpire]

/-- A fetch-side command that cannot act stands before its fetch engine. -/
theorem Ready.feed_refused (hx : FetchSide c) (e : (s.offered c).fetchSide c p (s.part p).ccyc = none) : s.feed c = s.offered c :=
  h.feed_held (by rw [h.reads_fetchSide hx, e]; rfl)

end

/-! What the fetch engine hands over. -/

theorem exec_loop (c : StreamCmd) (s : State) : exec (.loop c) s = .next (s.feed c) := rfl
theorem exec_loopEnd (c : StreamCmd) (s : State) : exec (.loopEnd c) s = .next (s.feed c) := rfl
theorem exec_dmaIssue (c : StreamCmd) (s : State) : exec (.dmaIssue c) s = .next (s.feed c) := rfl
theorem exec_lanternIssue (c : StreamCmd) (s : State) : exec (.lanternIssue c) s = .next (s.feed c) := rfl
theorem exec_calLoad (c : StreamCmd) (s : State) : exec (.calLoad c) s = .next (s.feed c) := rfl

/-- What is read off a Spire but for its contexts is the same with a command before its fetch engine. -/
theorem State.offered_eq {γ : Type} (g : Spire → γ) (hg : ∀ (x : Spire) a, g { x with ctxs := a } = g x) (s : State) (c : StreamCmd) :
    g ((s.offered c).spire c.sp.val) = g (s.spire c.sp.val) := by
  rw [s.offered_spire c]
  exact hg ..

/-- The transfer that a command hands over. -/
def State.givenXfer (s : State) (p : Nat) (c : StreamCmd) (index : Nat) : Xfer :=
  { id := s.core.nextId, part := p, index := index, handle := hsrcHandle (ctxOf s c) (fld c.w1 22 20), sel := (s.part p).sel, order := (s.spire c.sp.val).orders }

/-- A change of the Spire itself is another one that leaves the rest. -/
theorem OnlySpires.onSpire {s t : State} {sp : Nat} (h : OnlySpires s t sp) (f : Spire → Spire) : OnlySpires s (t.onSpire sp f) sp :=
  ⟨h.outside, h.inside, fun i hi => (State.spire_onSpire_ne _ _ hi).trans (h.others i hi)⟩

theorem OnlySpires.fresh {s t : State} {sp : Nat} (h : OnlySpires s t sp) : OnlySpires s t.freshId.2 sp :=
  ⟨h.outside, h.inside, h.others⟩

theorem OnlySpire.onlySpires {s t : State} {sp : Nat} (h : OnlySpire s t sp) : OnlySpires s t sp :=
  ⟨h.outside, congrArg (fun c : Core => { c with nextId := s.core.nextId }) h.inside, h.others⟩

theorem State.offered_onlySpires (s : State) (c : StreamCmd) : OnlySpires s (s.offered c) c.sp.val :=
  (s.offered_only c).onlySpires

/-- What `waits` in the statement says of a command that finds no room. -/
theorem State.offered_stands (s : State) (c : StreamCmd) : (ctxOf (s.offered c) c).pc = (ctxOf s c).pc ∧ (ctxOf (s.offered c) c).backlog = [c] ∧
    OnlySpires s (s.offered c) c.sp.val ∧ (∀ u, ((s.offered c).spire c.sp.val).unit u = (s.spire c.sp.val).unit u) ∧
    ((s.offered c).spire c.sp.val).calShadow = (s.spire c.sp.val).calShadow := by
  have own : ctxOf (s.offered c) c = { ctxOf s c with backlog := [c] } := s.offered_ctx c
  rw [own]
  exact ⟨rfl, rfl, s.offered_onlySpires c, fun u => State.offered_eq (Spire.unit · u) (fun _ _ => rfl) s c,
    State.offered_eq Spire.calShadow (fun _ _ => rfl) s c⟩

/-- The state in which a unit has taken a descriptor of the command that is offered. -/
def State.handedXfer (s : State) (p : Nat) (c : StreamCmd) (u index : Nat) : State :=
  (s.offered c).freshId.2.onSpire c.sp.val fun y => { y.setUnit u (y.unit u ++ [s.givenXfer p c index]) with orders := y.orders + 1 }

/-- A unit with room takes the descriptor of a command that is offered. -/
theorem State.acceptXfer_room {s : State} {p : Nat} {c : StreamCmd} (u index : Nat) (hu : ((s.spire c.sp.val).unit u).length < (if u = 4 then 8 else 6))
    (hf : ¬bit1 (s.spire c.sp.val).frozen (u + 1)) :
    (s.offered c).acceptXfer p c.sp.val u index (hsrcHandle (((s.offered c).spire c.sp.val).ctx c.ctx.val) (fld c.w1 22 20)) = some (s.handedXfer p c u index) := by
  have hlen : ((s.offered c).spire c.sp.val).unit u = (s.spire c.sp.val).unit u := State.offered_eq (Spire.unit · u) (fun _ _ => rfl) s c
  have hfr : ((s.offered c).spire c.sp.val).frozen = (s.spire c.sp.val).frozen := State.offered_eq Spire.frozen (fun _ _ => rfl) s c
  have hord : ((s.offered c).spire c.sp.val).orders = (s.spire c.sp.val).orders := State.offered_eq Spire.orders (fun _ _ => rfl) s c
  unfold State.acceptXfer
  dsimp only
  rw [hlen, hfr, hord, s.offered_ctx c]
  exact if_pos ⟨hu, hf⟩

/-- One without does not. -/
theorem State.acceptXfer_full {s : State} {p : Nat} {c : StreamCmd} (u index : Nat) (w : W32)
    (hu : bit1 (s.spire c.sp.val).frozen (u + 1) ∨ (if u = 4 then 8 else 6) ≤ ((s.spire c.sp.val).unit u).length) :
    (s.offered c).acceptXfer p c.sp.val u index w = none := by
  have hlen : ((s.offered c).spire c.sp.val).unit u = (s.spire c.sp.val).unit u := State.offered_eq (Spire.unit · u) (fun _ _ => rfl) s c
  have hfr : ((s.offered c).spire c.sp.val).frozen = (s.spire c.sp.val).frozen := State.offered_eq Spire.frozen (fun _ _ => rfl) s c
  unfold State.acceptXfer
  dsimp only
  rw [hlen, hfr]
  refine if_neg fun ⟨room, free⟩ => ?_
  obtain hu | hu := hu
  · exact free hu
  · omega

/-- Only the queue of the unit and the count of its Spire have changed. -/
theorem State.handedXfer_spire (s : State) (p : Nat) (c : StreamCmd) (u index : Nat) : (s.handedXfer p c u index).spire c.sp.val =
    { ((s.offered c).spire c.sp.val).setUnit u ((s.spire c.sp.val).unit u ++ [s.givenXfer p c index]) with orders := (s.spire c.sp.val).orders + 1 } := by
  rw [State.handedXfer, State.spire_onSpire]
  show ({ ((s.offered c).spire c.sp.val).setUnit u (((s.offered c).spire c.sp.val).unit u ++ _) with orders := ((s.offered c).spire c.sp.val).orders + 1 } : Spire) = _
  rw [State.offered_eq (Spire.unit · u) (fun _ _ => rfl) s c, State.offered_eq Spire.orders (fun _ _ => rfl) s c]

section

variable {s : State} {p : Nat} {c : StreamCmd} (h : Ready s p c)

include h

/-- What a command that hands a descriptor over leaves. -/
theorem feed_handsXfer (hx : FetchSide c) {u index : Nat} (e : (s.offered c).fetchSide c p (s.part p).ccyc = some (s.handedXfer p c u index)) :
    ((s.feed c).spire c.sp.val).unit u = (s.spire c.sp.val).unit u ++ [s.givenXfer p c index] ∧
      (∀ v, v ≠ u → ((s.feed c).spire c.sp.val).unit v = (s.spire c.sp.val).unit v) ∧
      (ctxOf (s.feed c) c).pc = (ctxOf s c).pc + 16 ∧ OnlySpires s (s.feed c) c.sp.val := by
  have hs := s.handedXfer_spire p c u index
  have ctxs : ∀ d, ((s.handedXfer p c u index).spire c.sp.val).ctx d = ((s.offered c).spire c.sp.val).ctx d := fun d => by rw [hs]; rfl
  have H : Handed s (s.handedXfer p c u index) p c (ctxOf s c) := by
    refine ⟨rfl, (ctxs _).trans (s.offered_ctx c), ⟨h.ctx_idle.2.1, h.ctx_idle.2.2.2.1⟩, fun d hd => (ctxs d).trans ?_⟩
    rw [s.offered_spire c, Spire.ctx_onCtx_ne _ _ hd]
  obtain ⟨hf, own⟩ := H.feed h hx e
  have units : ∀ v, ((s.feed c).spire c.sp.val).unit v = (((s.offered c).spire c.sp.val).setUnit u ((s.spire c.sp.val).unit u ++ [s.givenXfer p c index])).unit v := by
    intro v
    rw [hf, State.readOn, State.spire_onSpire, Spire.readHead_eq (Spire.unit · v) (fun _ _ _ _ => rfl), hs]
    rfl
  refine ⟨?_, fun v hv => ?_, ?_, ?_⟩
  · rw [units, Spire.unit_setUnit]
  · rw [units, Spire.unit_setUnit_ne _ _ hv, State.offered_eq (Spire.unit · v) (fun _ _ => rfl) s c]
  · rw [own]
  · rw [hf]
    exact (((s.offered_onlySpires c).fresh).onSpire _).onSpire _

omit h in
/-- DMA_ISSUE at an engine that takes its descriptor. -/
theorem fetchSide_dmaIssue (ho : c.op = 0x10) : (s.offered c).fetchSide c p (s.part p).ccyc = (s.offered c).acceptXfer p c.sp.val (fld c.w0 19 18)
    (fld c.w1 19 0 + fld c.w2 19 0 * ((ctxOf s c).loops.map Loop.iter).headD 0)
    (hsrcHandle (((s.offered c).spire c.sp.val).ctx c.ctx.val) (fld c.w1 22 20)) := by
  have hi : (match (((s.offered c).spire c.sp.val).ctx c.ctx.val).loops with | [] => 0 | l :: _ => l.iter) = ((ctxOf s c).loops.map Loop.iter).headD 0 := by
    rw [s.offered_ctx c]
    cases (ctxOf s c).loops <;> rfl
  unfold State.fetchSide
  rw [← hi]
  exact if_pos ho

omit h in
theorem fetchSide_lanternIssue (ho : c.op = 0x11) : (s.offered c).fetchSide c p (s.part p).ccyc = (s.offered c).acceptXfer p c.sp.val 4 (fld c.w1 19 0)
    (hsrcHandle (((s.offered c).spire c.sp.val).ctx c.ctx.val) (fld c.w1 22 20)) := by
  simp [State.fetchSide, ho]

/-- CAL_LOAD at an empty shadow bank. -/
theorem feed_calLoad (ho : c.op = 0x12) (hc : (s.spire c.sp.val).calShadow = none) : OnlySpires s (s.feed c) c.sp.val ∧
    (ctxOf (s.feed c) c).pc = (ctxOf s c).pc + 16 ∧
    ((s.feed c).spire c.sp.val).calShadow = some { cal := fld c.w1 15 0, at_ := c.w2.toNat + fld c.w3 15 0 * 2 ^ 32 } := by
  have hx : FetchSide c := by simp [FetchSide, ho]
  have hs := (State.offered_eq Spire.calShadow (fun _ _ => rfl) s c).trans hc
  have e : (s.offered c).fetchSide c p (s.part p).ccyc = some ((s.offered c).onSpire c.sp.val fun x =>
      { x with calShadow := some { cal := fld c.w1 15 0, at_ := c.w2.toNat + fld c.w3 15 0 * 2 ^ 32 } }) := by
    simp [State.fetchSide, ho, hs, State.onSpire]
  obtain ⟨only, own, eq⟩ := h.feed_acts hx _ (ctxOf s c) e (s.offered_ctx c) ⟨h.ctx_idle.2.1, h.ctx_idle.2.2.2.1⟩ fun _ _ => rfl
  exact ⟨only.onlySpires, by rw [own], eq Spire.calShadow fun _ _ _ _ => rfl⟩

omit h in
/-- CAL_LOAD at a busy one waits. -/
theorem fetchSide_calLoad_busy (ho : c.op = 0x12) (hc : (s.spire c.sp.val).calShadow ≠ none) : (s.offered c).fetchSide c p (s.part p).ccyc = none := by
  obtain ⟨l, hl⟩ := Option.ne_none_iff_exists'.mp hc
  have hs := (State.offered_eq Spire.calShadow (fun _ _ => rfl) s c).trans hl
  simp [State.fetchSide, ho, hs]

end

/-- Settles O11: each unit takes a descriptor where it has room, and a command that finds none stands as it was offered. -/
theorem issueCommandsHandOver : Obligations.IssueCommandsHandOver := by
  intro s p c h
  refine ⟨fun ho => ?_, fun ho => ?_, fun ho => ?_⟩
  · have hx : FetchSide c := by simp [FetchSide, ho]
    have hu : fld c.w0 19 18 ≠ 4 := by
      have : fld c.w0 19 18 < 4 := Nat.mod_lt _ (by norm_num)
      omega
    refine ⟨fun hf hl => ⟨_, exec_dmaIssue c s, ?_⟩, fun hw => ⟨_, exec_dmaIssue c s, ?_⟩⟩
    · refine feed_handsXfer h hx ((fetchSide_dmaIssue ho).trans (State.acceptXfer_room _ _ ?_ hf))
      rwa [if_neg hu]
    · have e := (fetchSide_dmaIssue ho).trans (State.acceptXfer_full (p := p) _ _ _ (by rwa [if_neg hu]))
      rw [h.feed_refused hx e]
      exact s.offered_stands c
  · have hx : FetchSide c := by simp [FetchSide, ho]
    refine ⟨fun hf hl => ⟨_, exec_lanternIssue c s, ?_⟩, fun hw => ⟨_, exec_lanternIssue c s, ?_⟩⟩
    · exact feed_handsXfer h hx ((fetchSide_lanternIssue ho).trans (State.acceptXfer_room _ _ hl hf))
    · rw [h.feed_refused hx ((fetchSide_lanternIssue ho).trans (State.acceptXfer_full _ _ _ hw))]
      exact s.offered_stands c
  · have hx : FetchSide c := by simp [FetchSide, ho]
    refine ⟨fun hc => ⟨_, exec_calLoad c s, feed_calLoad h ho hc⟩, fun hc => ⟨_, exec_calLoad c s, ?_⟩⟩
    rw [h.feed_refused hx (fetchSide_calLoad_busy ho hc)]
    exact s.offered_stands c

end Sys2Proof.Machine
end

section
/-! SUPPORT. The handle-queue commands. -/

namespace Sys2Proof.Machine

theorem exec_hqTakeF (c : StreamCmd) (s : State) : exec (.hqTakeF c) s = .next (s.feed c) := rfl
theorem exec_hqPutF (c : StreamCmd) (s : State) : exec (.hqPutF c) s = .next (s.feed c) := rfl
theorem exec_hqTakeE (c : StreamCmd) (s : State) : exec (.hqTakeE c) s = .next (s.feed c) := rfl
theorem exec_hqPutE (c : StreamCmd) (s : State) : exec (.hqPutE c) s = .next (s.feed c) := rfl

/-! Queues. -/

/-- A Spire with other handles in a queue. -/
def Spire.withQueue (x : Spire) (q : Nat) (l : List Held) : Spire := { x with queues := Tbl.put [] q l x.queues }

@[simp] theorem Spire.withQueue_queue (x : Spire) (q : Nat) (l : List Held) : (x.withQueue q l).queue q = l := Tbl.get_put_same ..

theorem Spire.withQueue_queue_ne (x : Spire) {q j : Nat} (l : List Held) (h : j ≠ q) : (x.withQueue q l).queue j = x.queue j :=
  (Tbl.get_put ..).trans (if_neg h)

@[simp] theorem Spire.withQueue_ctx (x : Spire) (q : Nat) (l : List Held) (d : Nat) : (x.withQueue q l).ctx d = x.ctx d := rfl

/-- With no push under way none waits. -/
theorem State.takeWaiting_nil {s : State} (h : s.core.pushes = []) (sp : Nat) : s.takeWaiting sp = s := by
  rw [State.takeWaiting, h]
  rfl

/-- A Spire whose queue a local push of a handle reaches: the handle is queued, or discarded and counted where it is stale. -/
def Spire.pushed (x : Spire) (stale : Bool) (q : Nat) (w : W32) (n : Nat) : Spire :=
  if stale then { x with ctr := { x.ctr with staleHandle := sat32 x.ctr.staleHandle 1 } }
  else x.withQueue q (x.queue q ++ [⟨w, n⟩])

theorem Spire.pushed_eq {γ : Type} (g : Spire → γ) (hg : ∀ (x : Spire) a b, g { x with ctr := a, queues := b } = g x) (x : Spire) (stale : Bool)
    (q : Nat) (w : W32) (n : Nat) : g (x.pushed stale q w n) = g x := by
  unfold Spire.pushed
  split
  · exact hg ..
  · exact hg ..

theorem Spire.pushed_queue_ne (x : Spire) (stale : Bool) {q j : Nat} (w : W32) (n : Nat) (h : j ≠ q) : (x.pushed stale q w n).queue j = x.queue j := by
  unfold Spire.pushed
  split
  · rfl
  · exact x.withQueue_queue_ne _ h

/-- What has become of the handle. -/
theorem Spire.pushed_queue (x : Spire) (stale : Bool) (q : Nat) (w : W32) (n : Nat) :
    if stale then (x.pushed stale q w n).queue q = x.queue q ∧ (x.pushed stale q w n).ctr.staleHandle = sat32 x.ctr.staleHandle 1
    else (x.pushed stale q w n).queue q = x.queue q ++ [⟨w, n⟩] := by
  unfold Spire.pushed
  cases stale
  · exact x.withQueue_queue ..
  · exact ⟨rfl, rfl⟩

/-- A local push onto a queue in use of a Spire that is not frozen. -/
theorem State.pushLocal_eq {s : State} {sp q : Nat} (hu : s.unusedQueue sp q = false) (hf : s.seqFrozen sp = false) (w : W32) (n : Nat) :
    s.pushLocal sp q w n = if s.staleFor sp q w = true ∨ ((s.spire sp).queue q).length < 32
      then some (s.onSpire sp fun x => x.pushed (s.staleFor sp q w) q w n) else none := by
  cases hs : s.staleFor sp q w <;> simp [State.pushLocal, hs, hu, hf, Spire.pushed, Spire.withQueue, State.onCtr, State.onSpire]

theorem OnlySpire.staleFor {s t : State} {sp : Nat} (h : OnlySpire s t sp) (i q : Nat) (w : W32) : t.staleFor i q w = s.staleFor i q w :=
  (congrArg (fun a : State => a.staleFor i q w) h.outside :)

theorem OnlySpire.unusedQueue {s t : State} {sp : Nat} (h : OnlySpire s t sp) (i q : Nat) : t.unusedQueue i q = s.unusedQueue i q :=
  (congrArg (fun a : State => a.unusedQueue i q) h.outside :)

/-- What the statement's frame of a handle command says, where only its Spire changes. -/
theorem OnlySpire.frame {s t : State} {sp : Nat} (h : OnlySpire s t sp) :
    { t with core := s.core } = s ∧ SameSram s t ∧ SameHbm s t ∧ ∀ i, i ≠ sp → t.spire i = s.spire i :=
  ⟨h.outside, h.sameMemory.sram, h.sameMemory.hbm, h.others⟩

section

variable {s : State} {p : Nat} {c : StreamCmd} (h : Ready s p c)

include h

/-- A valid handle command names a queue that the plan uses, at its own Spire where it is not remote (R282). -/
theorem Ready.queueUsed (ho : c.op = 0x13 ∨ c.op = 0x14 ∨ c.op = 0x30 ∨ c.op = 0x31) (hr : bit1 c.w0 25 = false) :
    s.unusedQueue c.sp.val (fld c.w0 21 18) = false := by
  have hv : hqValid (s.placeOf p c) c = true := by
    have v := h.valid
    simp only [cmdValid, Bool.and_eq_true] at v
    obtain ⟨-, v⟩ := v
    obtain ho | ho | ho | ho := ho <;> simpa only [State.placeOf, opValid, ho] using v
  simp only [hqValid, State.placeOf, hr, Bool.and_eq_true, decide_eq_true_eq, Bool.false_eq_true, if_false] at hv
  simpa only [State.unusedQueue, h.owner, beq_eq_false_iff_ne] using hv.2

theorem Ready.live : s.seqFrozen c.sp.val = false := (streaming_spire h).2.1

/-! Taking on the fetch side. -/

/-- HQ_TAKE_F at a queue whose oldest handle was pushed before. -/
theorem feed_hqTakeF {w : Held} {rest : List Held} (ho : c.op = 0x13) (hn : s.core.pushes = [])
    (hq : (s.spire c.sp.val).queue (fld c.w0 21 18) = w :: rest) (hw : w.at_ < (s.part p).ccyc) :
    OnlySpire s (s.feed c) c.sp.val ∧ ((s.feed c).spire c.sp.val).queue (fld c.w0 21 18) = rest ∧
      (∀ j, j ≠ fld c.w0 21 18 → ((s.feed c).spire c.sp.val).queue j = (s.spire c.sp.val).queue j) ∧
      ctxOf (s.feed c) c = { ctxOf s c with
        fh := Tbl.put 0#32 (fld c.w0 23 22) w.handle (ctxOf s c).fh, backlog := [], pc := (ctxOf s c).pc + 16, refillAt := none } := by
  have hx : FetchSide c := by simp [FetchSide, ho]
  have queues : ∀ j, ((s.offered c).spire c.sp.val).queue j = (s.spire c.sp.val).queue j := fun j => State.offered_eq (Spire.queue · j) (fun _ _ => rfl) s c
  have e : (s.offered c).fetchSide c p (s.part p).ccyc = some ((s.offered c).onSpire c.sp.val fun x =>
      (x.withQueue (fld c.w0 21 18) rest).onCtx c.ctx.val fun k => { k with fh := Tbl.put 0#32 (fld c.w0 23 22) w.handle k.fh }) := by
    simp only [State.fetchSide, ho, Spire.popAt, queues, hq, hw]
    simp [State.onSpire, Spire.withQueue, State.takeWaiting_nil (s := (s.offered c).setSpire _ _) hn]
  obtain ⟨only, own, eq⟩ := h.feed_acts hx _ { ctxOf s c with fh := Tbl.put 0#32 (fld c.w0 23 22) w.handle (ctxOf s c).fh } e
    (by rw [Spire.ctx_onCtx, Spire.withQueue_ctx, s.offered_ctx c])
    ⟨h.ctx_idle.2.1, h.ctx_idle.2.2.2.1⟩ (fun d hd => Spire.ctx_onCtx_ne _ _ hd)
  refine ⟨only, ?_, fun j hj => ?_, own⟩
  · rw [eq (Spire.queue · (fld c.w0 21 18)) fun _ _ _ _ => rfl]
    exact Spire.withQueue_queue ..
  · rw [eq (Spire.queue · j) fun _ _ _ _ => rfl, ← queues]
    exact Spire.withQueue_queue_ne _ _ hj

omit h in
/-- A queue has no handle to take when it is empty, and when its oldest was pushed in the same ccyc (R226). -/
theorem Spire.popAt_none {x : Spire} {q n : Nat} (hq : ∀ w ∈ (x.queue q).head?, n ≤ w.at_) : x.popAt q n = none := by
  unfold Spire.popAt
  cases e : x.queue q with
  | nil => rfl
  | cons w rest =>
    have := hq w (by simp [e])
    exact if_neg (by omega)

omit h in
theorem fetchSide_hqTakeF_none (ho : c.op = 0x13) (hq : ∀ w ∈ ((s.spire c.sp.val).queue (fld c.w0 21 18)).head?, (s.part p).ccyc ≤ w.at_) :
    (s.offered c).fetchSide c p (s.part p).ccyc = none := by
  have e : ((s.offered c).spire c.sp.val).popAt (fld c.w0 21 18) (s.part p).ccyc = none := by
    rw [State.offered_eq (·.popAt (fld c.w0 21 18) (s.part p).ccyc) (fun _ _ => rfl) s c]
    exact Spire.popAt_none hq
  simp [State.fetchSide, ho, e]

/-! Putting on the fetch side. -/

/-- A local HQ_PUT_F, which goes by the queue as it stands. -/
theorem fetchSide_hqPutF (ho : c.op = 0x14) (hr : bit1 c.w0 25 = false) : (s.offered c).fetchSide c p (s.part p).ccyc =
    if s.staleFor c.sp.val (fld c.w0 21 18) (putHandle c (ctxOf s c).fh) = true ∨ ((s.spire c.sp.val).queue (fld c.w0 21 18)).length < 32 then
      some ((s.offered c).onSpire c.sp.val fun x => x.pushed (s.staleFor c.sp.val (fld c.w0 21 18) (putHandle c (ctxOf s c).fh)) (fld c.w0 21 18)
        (putHandle c (ctxOf s c).fh) (s.part p).ccyc)
    else none := by
  have hu : (s.offered c).unusedQueue c.sp.val (fld c.w0 21 18) = false := h.queueUsed (by simp [ho]) hr
  have hf : (s.offered c).seqFrozen c.sp.val = false := (State.offered_eq (bit1 ·.frozen 0) (fun _ _ => rfl) s c).trans h.live
  have e : (s.offered c).fetchSide c p (s.part p).ccyc =
      (s.offered c).pushLocal c.sp.val (fld c.w0 21 18) (putHandle c (ctxOf s c).fh) (s.part p).ccyc := by
    simp [State.fetchSide, ho, hr, s.offered_ctx c]
  rw [e, State.pushLocal_eq hu hf, (s.offered_only c).staleFor, State.offered_eq (Spire.queue · (fld c.w0 21 18)) (fun _ _ => rfl) s c]

theorem feed_hqPutF (ho : c.op = 0x14) (hr : bit1 c.w0 25 = false) (hl : ((s.spire c.sp.val).queue (fld c.w0 21 18)).length < 32) :
    OnlySpire s (s.feed c) c.sp.val ∧ (∀ j, j ≠ fld c.w0 21 18 → ((s.feed c).spire c.sp.val).queue j = (s.spire c.sp.val).queue j) ∧
      (ctxOf (s.feed c) c).pc = (ctxOf s c).pc + 16 ∧
      if s.staleFor c.sp.val (fld c.w0 21 18) (putHandle c (ctxOf s c).fh) then
        ((s.feed c).spire c.sp.val).queue (fld c.w0 21 18) = (s.spire c.sp.val).queue (fld c.w0 21 18) ∧
          ((s.feed c).spire c.sp.val).ctr.staleHandle = sat32 (s.spire c.sp.val).ctr.staleHandle 1
      else ((s.feed c).spire c.sp.val).queue (fld c.w0 21 18) =
        (s.spire c.sp.val).queue (fld c.w0 21 18) ++ [⟨putHandle c (ctxOf s c).fh, (s.part p).ccyc⟩] := by
  have hx : FetchSide c := by simp [FetchSide, ho]
  have queues : ∀ j, ((s.offered c).spire c.sp.val).queue j = (s.spire c.sp.val).queue j := fun j => State.offered_eq (Spire.queue · j) (fun _ _ => rfl) s c
  have count : ((s.offered c).spire c.sp.val).ctr = (s.spire c.sp.val).ctr := State.offered_eq Spire.ctr (fun _ _ => rfl) s c
  have ctxs : ∀ (x : Spire) b w n d, (x.pushed b (fld c.w0 21 18) w n).ctx d = x.ctx d := fun x b w n d => x.pushed_eq (Spire.ctx · d) (fun _ _ _ => rfl) ..
  obtain ⟨only, own, eq⟩ := h.feed_acts hx _ (ctxOf s c) ((fetchSide_hqPutF h ho hr).trans (if_pos (.inr hl)))
    ((ctxs ..).trans (s.offered_ctx c)) ⟨h.ctx_idle.2.1, h.ctx_idle.2.2.2.1⟩ (fun d _ => ctxs ..)
  have became := ((s.offered c).spire c.sp.val).pushed_queue (s.staleFor c.sp.val (fld c.w0 21 18) (putHandle c (ctxOf s c).fh)) (fld c.w0 21 18)
    (putHandle c (ctxOf s c).fh) (s.part p).ccyc
  refine ⟨only, fun j hj => ?_, by rw [own], ?_⟩
  · rw [eq (Spire.queue · j) fun _ _ _ _ => rfl, Spire.pushed_queue_ne _ _ _ _ hj, queues]
  · rwa [eq (Spire.queue · (fld c.w0 21 18)) fun _ _ _ _ => rfl, eq (·.ctr.staleHandle) fun _ _ _ _ => rfl, ← queues, ← count]

/-! Remote puts, which hold their context. -/

omit h in
/-- Nothing moves while no start, no pick and no read can be made. -/
theorem State.pump_stuck {s : State} {sp : Nat} (f p : Nat) (hs : ∀ k, k < 8 → s.startNext p sp k = none) (hu : s.pickUp sp = none)
    (hr : ∀ k, k < 8 → s.readNext p sp k = none) : State.pump f p sp s = s := by
  have e : s.move p sp = none := by
    unfold State.move
    rw [List.findSome?_eq_none_iff.mpr fun k hk => hs k (List.mem_range.mp hk), hu]
    dsimp only
    rw [List.findSome?_eq_none_iff.mpr fun k hk => hr k (circularAfter_lt hk)]
    rfl
  cases f with
  | zero => rfl
  | succ f => rw [State.pump, e]

omit h in
/-- Nothing is read before the fetch engine is free. -/
theorem State.readNext_busy {s : State} {p sp k : Nat} (hf : (s.part p).ccyc < (s.spire sp).readFree) : s.readNext p sp k = none := by
  unfold State.readNext
  dsimp only
  split
  · rfl
  · rename_i c _ _
    refine if_pos (.inr (.inl ?_))
    simp only [Spire.readFrom]
    omega

/-- The Spire in which a context waits for the acknowledgement of a push of its fetch engine. -/
def Spire.putSent (x : Spire) (ctx id n : Nat) : Spire :=
  { x.onCtx ctx (fun k => { k with pushF := some id }) with readFree := max x.readFree (n + 1), lastRead := ctx }

/-- The state in which a context of the fetch engine has sent a push. -/
def State.pushSent (s : State) (p : Nat) (c : StreamCmd) : State :=
  ((s.offered c).sendPush c.sp.val (.fetch c.ctx.val) (fld c.w0 29 26) (fld c.w0 21 18) (putHandle c (ctxOf s c).fh)).2.onSpire c.sp.val
    fun x => x.putSent c.ctx.val s.core.nextId (s.part p).ccyc

omit h in
theorem State.pushSent_spire (s : State) (p : Nat) (c : StreamCmd) :
    (s.pushSent p c).spire c.sp.val = ((s.offered c).spire c.sp.val).putSent c.ctx.val s.core.nextId (s.part p).ccyc := by
  rw [State.pushSent, State.spire_onSpire]
  rfl

omit h in
theorem State.pushSent_ctx (s : State) (p : Nat) (c : StreamCmd) :
    ctxOf (s.pushSent p c) c = { ctxOf s c with backlog := [c], pushF := some s.core.nextId } := by
  have e := Spire.ctx_onCtx ((s.offered c).spire c.sp.val) c.ctx.val fun k => { k with pushF := some s.core.nextId }
  rw [s.offered_ctx c] at e
  rw [ctxOf, s.pushSent_spire]
  exact e

omit h in
theorem State.pushSent_ctx_ne (s : State) (p : Nat) (c : StreamCmd) {d : Nat} (hd : d ≠ c.ctx.val) :
    ((s.pushSent p c).spire c.sp.val).ctx d = (s.spire c.sp.val).ctx d := by
  have e := Spire.ctx_onCtx_ne ((s.offered c).spire c.sp.val) (fun k => { k with pushF := some s.core.nextId }) hd
  rw [s.pushSent_spire]
  refine e.trans ?_
  rw [s.offered_spire c, Spire.ctx_onCtx_ne _ _ hd]

/-- A remote HQ_PUT_F sends its push and holds its context. -/
theorem feed_hqPutF_remote (ho : c.op = 0x14) (hr : bit1 c.w0 25 = true) : s.feed c = s.pushSent p c := by
  have hx : FetchSide c := by simp [FetchSide, ho]
  have e : (s.offered c).fetchSide c p (s.part p).ccyc = some (s.pushSent p c) := by
    have hp : (((s.offered c).spire c.sp.val).ctx c.ctx.val).pushF = none := by
      rw [s.offered_ctx c]
      exact h.ctx_idle.2.2.2.1
    simp [State.fetchSide, ho, hr, hp]
    rw [s.offered_ctx c]
    rfl
  have er : s.reads p c = some (s.pushSent p c) := by
    simp [h.reads_fetchSide hx, e, s.pushSent_ctx]
  have hp : (s.pushSent p c).part p = s.part p := rfl
  obtain ⟨f, -, hf⟩ := State.feed_ready h hp er
  have empty : ∀ k, k < 8 → (((s.pushSent p c).spire c.sp.val).ctx k).queue = [] := by
    intro k hk
    by_cases hne : k = c.ctx.val
    · subst hne
      exact (congrArg Ctx.queue (s.pushSent_ctx p c)).trans h.ctx_idle.2.1
    · rw [s.pushSent_ctx_ne p c hne]
      exact (h.quiet k hk).2
  have busy : ((s.pushSent p c).part p).ccyc < ((s.pushSent p c).spire c.sp.val).readFree := by
    rw [s.pushSent_spire]
    exact lt_of_lt_of_le (Nat.lt_succ_self _) (le_max_right ..)
  rw [hf]
  exact State.pump_stuck f p (fun k hk => State.startNext_empty (empty k hk)) (State.pickUp_empty empty) fun _ _ => State.readNext_busy busy

/-! Taking and putting on the execute side. -/

omit h in
/-- A command that the execute engine passes, acting on its Spire alone. -/
theorem Fetched.feed_acts (h : Ready s p c) {t u : State} {k : Ctx} {y : Spire} (f : Fetched s t c k) (e : s.reads p c = some t)
    (es : t.startNext p c.sp.val c.ctx.val = some u) (only : OnlySpire t u c.sp.val) (hs : u.spire c.sp.val = y)
    (own : (y.ctx c.ctx.val).backlog = [] ∧ (y.ctx c.ctx.val).queue = [])
    (others : ∀ d, d ≠ c.ctx.val → y.ctx d = (t.spire c.sp.val).ctx d) :
    OnlySpire s (s.feed c) c.sp.val ∧ (s.feed c).spire c.sp.val = y := by
  rw [f.feed_starts h e es (f.quiet_after h (by rwa [ctxOf, hs]) fun d hd => by rw [hs, others d hd])]
  exact ⟨f.only.trans only, hs⟩

/-- HQ_TAKE_E at a queue whose oldest handle was pushed before. -/
theorem feed_hqTakeE {w : Held} {rest : List Held} (ho : c.op = 0x30) (hn : s.core.pushes = [])
    (hq : (s.spire c.sp.val).queue (fld c.w0 21 18) = w :: rest) (hw : w.at_ < (s.part p).ccyc) :
    OnlySpire s (s.feed c) c.sp.val ∧ ((s.feed c).spire c.sp.val).queue (fld c.w0 21 18) = rest ∧
      (∀ j, j ≠ fld c.w0 21 18 → ((s.feed c).spire c.sp.val).queue j = (s.spire c.sp.val).queue j) ∧
      (ctxOf (s.feed c) c).eh = Tbl.put 0#32 (fld c.w0 23 22) w.handle (ctxOf s c).eh ∧ (ctxOf (s.feed c) c).fh = (ctxOf s c).fh ∧
      (ctxOf (s.feed c) c).queue = [] := by
  obtain ⟨t, e, f⟩ := h.reads_execute (by simp [ho, opExecute])
  have queues : ∀ j, (t.spire c.sp.val).queue j = (s.spire c.sp.val).queue j := fun j => f.spire_eq (Spire.queue · j) fun _ _ _ _ => rfl
  have hctx : (t.spire c.sp.val).ctx c.ctx.val = _ := f.ctx
  have hpush : t.core.pushes = [] := (f.only.core_eq (·.pushes) fun _ => rfl).trans hn
  have es : t.startNext p c.sp.val c.ctx.val = some (t.onSpire c.sp.val fun x =>
      ((x.withQueue (fld c.w0 21 18) rest).passHead (s.part p).plan.pod c.ctx.val (s.part p).ccyc (s.part p).ccyc).onCtx c.ctx.val
        fun k => { k with eh := Tbl.put 0#32 (fld c.w0 23 22) w.handle k.eh }) := by
    rw [f.startNext h rfl rfl rfl (by simp [ho])]
    simp only [ho, opControl, State.passControl, Spire.popAt, queues, hq, hw]
    simp [State.takeWaiting_nil (s := t.setSpire _ _) hpush]
    rfl
  obtain ⟨only, hs⟩ := f.feed_acts h e es (OnlySpire.setSpire ..) (State.spire_onSpire ..)
    (by rw [Spire.ctx_onCtx, Spire.passHead_ctx, Spire.withQueue_ctx, hctx]; exact ⟨h.ctx_idle.1, rfl⟩)
    (fun d hd => by rw [Spire.ctx_onCtx_ne _ _ hd, Spire.passHead_ctx_ne _ _ _ _ hd, Spire.withQueue_ctx])
  refine ⟨only, ?_, fun j hj => ?_, ?_⟩
  · rw [hs]
    exact Spire.withQueue_queue (t.spire c.sp.val) ..
  · rw [hs, ← queues]
    exact Spire.withQueue_queue_ne (t.spire c.sp.val) _ hj
  · rw [show ctxOf (s.feed c) c = ((s.feed c).spire c.sp.val).ctx c.ctx.val from rfl, hs, Spire.ctx_onCtx, Spire.passHead_ctx, Spire.withQueue_ctx, hctx]
    exact ⟨rfl, rfl, rfl⟩

/-- HQ_TAKE_E at a queue with no handle to take waits. -/
theorem feed_hqTakeE_none (ho : c.op = 0x30) (hq : ∀ w ∈ ((s.spire c.sp.val).queue (fld c.w0 21 18)).head?, (s.part p).ccyc ≤ w.at_) :
    Fetched s (s.feed c) c { ctxOf s c with pc := (ctxOf s c).pc + 16, queue := [⟨c, (ctxOf s c).pc, readOf s c⟩], eotRead := false } := by
  obtain ⟨t, e, f⟩ := h.reads_execute (by simp [ho, opExecute])
  have hpop : (t.spire c.sp.val).popAt (fld c.w0 21 18) (s.part p).ccyc = none := by
    rw [f.spire_eq (·.popAt (fld c.w0 21 18) (s.part p).ccyc) fun _ _ _ _ => rfl]
    exact Spire.popAt_none hq
  have es : t.startNext p c.sp.val c.ctx.val = none := by
    rw [f.startNext h rfl rfl rfl (by simp [ho])]
    simp [ho, opControl, State.passControl, hpop]
  rw [f.feed_waits h e h.ctx_idle.1 es]
  simpa [ho] using f

omit h in
/-- A local HQ_PUT_E passes once its handle is pushed. -/
theorem State.passControl_put (a : State) (pod : Bool) (n : Nat) (ho : c.op = 0x31) (hr : bit1 c.w0 25 = false) :
    a.passControl c p pod n = (a.pushLocal c.sp.val (fld c.w0 21 18) (putHandle c (ctxOf a c).eh) n).map fun b =>
      b.onSpire c.sp.val fun y => y.passHead pod c.ctx.val n n := by
  simp only [State.passControl, ho, hr, ctxOf]
  cases a.pushLocal c.sp.val (fld c.w0 21 18) (putHandle c ((a.spire c.sp.val).ctx c.ctx.val).eh) n <;> simp

/-- A local HQ_PUT_E at the head of its queue. -/
theorem Fetched.startNext_hqPutE {t : State} {b : Bool} (ho : c.op = 0x31) (hr : bit1 c.w0 25 = false)
    (f : Fetched s t c { ctxOf s c with pc := (ctxOf s c).pc + 16, queue := [⟨c, (ctxOf s c).pc, readOf s c⟩], eotRead := b }) :
    t.startNext p c.sp.val c.ctx.val =
      if s.staleFor c.sp.val (fld c.w0 21 18) (putHandle c (ctxOf s c).eh) = true ∨ ((s.spire c.sp.val).queue (fld c.w0 21 18)).length < 32 then
        some ((t.onSpire c.sp.val fun x => x.pushed (s.staleFor c.sp.val (fld c.w0 21 18) (putHandle c (ctxOf s c).eh)) (fld c.w0 21 18)
          (putHandle c (ctxOf s c).eh) (s.part p).ccyc).onSpire c.sp.val fun y => y.passHead (s.part p).plan.pod c.ctx.val (s.part p).ccyc (s.part p).ccyc)
      else none := by
  have hu : t.unusedQueue c.sp.val (fld c.w0 21 18) = false := (f.only.unusedQueue ..).trans (h.queueUsed (by simp [ho]) hr)
  have hf : t.seqFrozen c.sp.val = false := (f.running h).1
  have e := State.pushLocal_eq hu hf (putHandle c (ctxOf s c).eh) (s.part p).ccyc
  rw [f.only.staleFor, f.spire_eq (Spire.queue · (fld c.w0 21 18)) fun _ _ _ _ => rfl] at e
  have ek : (ctxOf t c).eh = (ctxOf s c).eh := by rw [f.ctx]
  rw [f.startNext h rfl rfl rfl (by simp [ho]), if_pos (by simp [ho, opControl]), State.passControl_put _ _ _ ho hr, ek, e]
  split <;> rfl

theorem feed_hqPutE (ho : c.op = 0x31) (hr : bit1 c.w0 25 = false) (hl : ((s.spire c.sp.val).queue (fld c.w0 21 18)).length < 32) :
    OnlySpire s (s.feed c) c.sp.val ∧ (∀ j, j ≠ fld c.w0 21 18 → ((s.feed c).spire c.sp.val).queue j = (s.spire c.sp.val).queue j) ∧
      (ctxOf (s.feed c) c).queue = [] ∧
      if s.staleFor c.sp.val (fld c.w0 21 18) (putHandle c (ctxOf s c).eh) then
        ((s.feed c).spire c.sp.val).queue (fld c.w0 21 18) = (s.spire c.sp.val).queue (fld c.w0 21 18) ∧
          ((s.feed c).spire c.sp.val).ctr.staleHandle = sat32 (s.spire c.sp.val).ctr.staleHandle 1
      else ((s.feed c).spire c.sp.val).queue (fld c.w0 21 18) =
        (s.spire c.sp.val).queue (fld c.w0 21 18) ++ [⟨putHandle c (ctxOf s c).eh, (s.part p).ccyc⟩] := by
  obtain ⟨t, e, f⟩ := h.reads_execute (by simp [ho, opExecute])
  have queues : ∀ j, (t.spire c.sp.val).queue j = (s.spire c.sp.val).queue j := fun j => f.spire_eq (Spire.queue · j) fun _ _ _ _ => rfl
  have count : (t.spire c.sp.val).ctr = (s.spire c.sp.val).ctr := f.spire_eq Spire.ctr fun _ _ _ _ => rfl
  have hctx : (t.spire c.sp.val).ctx c.ctx.val = _ := f.ctx
  have ctxs : ∀ (x : Spire) b w n d, (x.pushed b (fld c.w0 21 18) w n).ctx d = x.ctx d := fun x b w n d => x.pushed_eq (Spire.ctx · d) (fun _ _ _ => rfl) ..
  obtain ⟨only, hs⟩ := f.feed_acts h e ((f.startNext_hqPutE h ho hr).trans (if_pos (.inr hl)))
    ((OnlySpire.setSpire ..).trans (OnlySpire.setSpire ..)) (by rw [State.spire_onSpire, State.spire_onSpire])
    (by rw [Spire.passHead_ctx, ctxs, hctx]; exact ⟨h.ctx_idle.1, rfl⟩) (fun d hd => by rw [Spire.passHead_ctx_ne _ _ _ _ hd, ctxs])
  have became := (t.spire c.sp.val).pushed_queue (s.staleFor c.sp.val (fld c.w0 21 18) (putHandle c (ctxOf s c).eh)) (fld c.w0 21 18)
    (putHandle c (ctxOf s c).eh) (s.part p).ccyc
  refine ⟨only, fun j hj => ?_, ?_, ?_⟩
  · rw [hs, ← queues]
    exact Spire.pushed_queue_ne (t.spire c.sp.val) _ _ _ hj
  · rw [show ctxOf (s.feed c) c = ((s.feed c).spire c.sp.val).ctx c.ctx.val from rfl, hs, Spire.passHead_ctx, ctxs, hctx]
    rfl
  · rw [hs, ← queues, ← count]
    exact became

theorem feed_hqPutE_full (ho : c.op = 0x31) (hr : bit1 c.w0 25 = false) (hl : 32 ≤ ((s.spire c.sp.val).queue (fld c.w0 21 18)).length)
    (hw : s.staleFor c.sp.val (fld c.w0 21 18) (putHandle c (ctxOf s c).eh) = false) :
    Fetched s (s.feed c) c { ctxOf s c with pc := (ctxOf s c).pc + 16, queue := [⟨c, (ctxOf s c).pc, readOf s c⟩], eotRead := false } := by
  obtain ⟨t, e, f⟩ := h.reads_execute (by simp [ho, opExecute])
  have es := (f.startNext_hqPutE h ho hr).trans (if_neg (by simp only [hw, Bool.false_eq_true, false_or]; omega))
  rw [f.feed_waits h e h.ctx_idle.1 es]
  simpa [ho] using f

omit h in
/-- A command that the execute engine starts, and which then holds its context at the head of its queue. -/
theorem Fetched.feed_holds (h : Ready s p c) {t u : State} {k : Ctx} (f : Fetched s t c k) (e : s.reads p c = some t)
    (es : t.startNext p c.sp.val c.ctx.val = some u) (hb : (ctxOf u c).backlog = []) (again : u.startNext p c.sp.val c.ctx.val = none)
    (others : ∀ d, d ≠ c.ctx.val → (u.spire c.sp.val).ctx d = (t.spire c.sp.val).ctx d) (plan : u.planOf c.sp.val = s.planOf c.sp.val)
    (running : (u.spire c.sp.val).running = (t.spire c.sp.val).running) : s.feed c = u := by
  have idle : ∀ d, d < 8 → d ≠ c.ctx.val → ((u.spire c.sp.val).ctx d).backlog = [] ∧ ((u.spire c.sp.val).ctx d).queue = [] := fun d hd hne => by
    rw [others d hne]
    exact f.idle h hd hne
  have starts : ∀ d, d < 8 → u.startNext p c.sp.val d = none := fun d hd => by
    by_cases hne : d = c.ctx.val
    · rwa [hne]
    · exact State.startNext_empty (idle d hd hne).2
  have reads : ∀ d, d < 8 → u.readNext p c.sp.val d = none := fun d hd => by
    by_cases hne : d = c.ctx.val
    · rw [hne]
      exact State.readNext_empty hb
    · exact State.readNext_empty (idle d hd hne).1
  have picks : u.pickUp c.sp.val = none := State.pickUp_none fun hp => by
    rw [running, f.spire_eq Spire.running fun _ _ _ _ => rfl]
    exact h.picked (by rwa [← plan])
  obtain ⟨n, hn, hf⟩ := State.feed_ready h (f.only.part p) e
  obtain ⟨m, rfl⟩ : ∃ m, n = m + 1 := ⟨n - 1, by omega⟩
  rw [hf, State.pump_move m (State.move_start c.ctx.isLt (fun d hd hne => (f.idle h hd hne).2) es), State.pump_stuck m p starts picks reads]

omit h in
/-- A control command that does not pass does not start. -/
theorem State.startNext_held {s : State} {p sp k : Nat} {q : QEntry} (hq : ((s.spire sp).ctx k).queue = [q]) (ho : q.cmd.op ≠ 0x32)
    (hc : opControl q.cmd.op = true) (hp : s.passControl q.cmd p (s.part p).plan.pod (s.part p).ccyc = none) : s.startNext p sp k = none := by
  unfold State.startNext
  simp only [hq, ho, hc, hp, if_true, if_false, ite_self]

/-- The Spire in which a context waits for the acknowledgement of a push of its execute engine. -/
def Spire.putHeld (x : Spire) (ctx id : Nat) : Spire := { x.onCtx ctx (fun k => { k with pushE := some id }) with lastCtx := ctx }

/-- A remote HQ_PUT_E sends its push and holds its context. -/
theorem feed_hqPutE_remote (ho : c.op = 0x31) (hr : bit1 c.w0 25 = true) : ∃ t : State,
    Fetched s t c { ctxOf s c with pc := (ctxOf s c).pc + 16, queue := [⟨c, (ctxOf s c).pc, readOf s c⟩], eotRead := false } ∧
    s.feed c = (t.sendPush c.sp.val (.execute c.ctx.val) (fld c.w0 29 26) (fld c.w0 21 18) (putHandle c (ctxOf s c).eh)).2.onSpire c.sp.val
      fun x => x.putHeld c.ctx.val s.core.nextId := by
  obtain ⟨t, e, f⟩ := h.reads_execute (by simp [ho, opExecute])
  have f' : Fetched s t c { ctxOf s c with pc := (ctxOf s c).pc + 16, queue := [⟨c, (ctxOf s c).pc, readOf s c⟩], eotRead := false } := by
    simpa [ho] using f
  refine ⟨t, f', ?_⟩
  have hctx : (t.spire c.sp.val).ctx c.ctx.val = _ := f'.ctx
  have hid : t.core.nextId = s.core.nextId := f.only.core_eq (·.nextId) fun _ => rfl
  have hpush : (ctxOf s c).pushE = none := h.ctx_idle.2.2.2.2.1
  have es : t.startNext p c.sp.val c.ctx.val = some ((t.sendPush c.sp.val (.execute c.ctx.val) (fld c.w0 29 26) (fld c.w0 21 18)
      (putHandle c (ctxOf s c).eh)).2.onSpire c.sp.val fun x => x.putHeld c.ctx.val s.core.nextId) := by
    rw [f.startNext h rfl rfl rfl (by simp [ho])]
    simp [ho, opControl, State.passControl, hr, hctx, hpush, ← hid]
    rfl
  have hs : ((t.sendPush c.sp.val (.execute c.ctx.val) (fld c.w0 29 26) (fld c.w0 21 18) (putHandle c (ctxOf s c).eh)).2.onSpire c.sp.val
      fun x => x.putHeld c.ctx.val s.core.nextId).spire c.sp.val = (t.spire c.sp.val).putHeld c.ctx.val s.core.nextId := State.spire_onSpire ..
  have own : ((t.spire c.sp.val).putHeld c.ctx.val s.core.nextId).ctx c.ctx.val = { (t.spire c.sp.val).ctx c.ctx.val with pushE := some s.core.nextId } :=
    Spire.ctx_onCtx (t.spire c.sp.val) c.ctx.val fun k => { k with pushE := some s.core.nextId }
  have plan : t.planOf c.sp.val = s.planOf c.sp.val := (congrArg (fun a : State => a.planOf c.sp.val) f.only.outside :)
  refine f'.feed_holds h ?_ es ?_ ?_ (fun d hd => ?_) plan ?_
  · simpa [ho] using e
  · rw [ctxOf, hs, own, hctx]
    exact h.ctx_idle.1
  · refine State.startNext_held (q := ⟨c, (ctxOf s c).pc, readOf s c⟩) ?_ (by simp [ho]) (by simp [ho, opControl]) ?_
    · rw [hs, own, hctx]
    · simp only [State.passControl, ho, hr, hs, own]
      simp
  · rw [hs]
    exact Spire.ctx_onCtx_ne (t.spire c.sp.val) (fun k => { k with pushE := some s.core.nextId }) hd
  · rw [hs]
    rfl

end

/-! The statement. -/

/-- A Spire has changed, and a push has set out. -/
structure PushedFrom (s t : State) (sp : Nat) : Prop where
  outside : { t with core := s.core } = s
  inside : { t.core with spires := s.core.spires, pushes := s.core.pushes, nextId := s.core.nextId } = s.core
  others : ∀ i, i ≠ sp → t.spire i = s.spire i

theorem PushedFrom.of_only {s t : State} {sp : Nat} (h : OnlySpire s t sp) : PushedFrom s t sp :=
  ⟨h.outside, congrArg (fun c : Core => { c with pushes := s.core.pushes, nextId := s.core.nextId }) h.inside, h.others⟩

theorem PushedFrom.onSpire {s t : State} {sp : Nat} (h : PushedFrom s t sp) (f : Spire → Spire) : PushedFrom s (t.onSpire sp f) sp :=
  ⟨h.outside, h.inside, fun i hi => (State.spire_onSpire_ne _ _ hi).trans (h.others i hi)⟩

theorem PushedFrom.sendPush {s t : State} {sp : Nat} (h : PushedFrom s t sp) (o : PushFrom) (dst q : Nat) (w : W32) :
    PushedFrom s (t.sendPush sp o dst q w).2 sp := ⟨h.outside, h.inside, h.others⟩

theorem PushedFrom.frame {s t : State} {sp : Nat} (h : PushedFrom s t sp) :
    { t with core := s.core } = s ∧ SameSram s t ∧ SameHbm s t ∧ ∀ i, i ≠ sp → t.spire i = s.spire i := by
  have hs : t.core.sram = s.core.sram := (congrArg Core.sram h.inside :)
  have hh : t.core.hbm = s.core.hbm := (congrArg Core.hbm h.inside :)
  exact ⟨h.outside, fun tile a => by rw [State.sramByte, State.sramByte, hs], fun a => by rw [State.hbmByte, State.hbmByte, hh], h.others⟩

theorem State.pushSent_from (s : State) (p : Nat) (c : StreamCmd) : PushedFrom s (s.pushSent p c) c.sp.val :=
  ((PushedFrom.of_only (s.offered_only c)).sendPush ..).onSpire _

/-- The push that a Spire with none under way sends. -/
theorem State.sendPush_pushes {s : State} (h : s.core.pushes = []) {sp p : Nat} (ho : s.owner sp = some p) (o : PushFrom) (dst q : Nat) (w : W32) :
    (s.sendPush sp o dst q w).2.core.pushes = [⟨s.core.nextId, sp, p, o, dst, q, w, .flying, 0⟩] := by
  show s.core.pushes ++ [⟨s.core.nextId, sp, (s.owner sp).getD 16, o, dst, q, w, .flying, 0⟩] = _
  rw [h, ho]
  rfl

theorem State.pushSent_queue (s : State) (p : Nat) (c : StreamCmd) (j : Nat) :
    ((s.pushSent p c).spire c.sp.val).queue j = (s.spire c.sp.val).queue j := by
  rw [s.pushSent_spire]
  exact State.offered_eq (Spire.queue · j) (fun _ _ => rfl) s c

/-- The queues of a Spire whose fetch engine has read a command, or has it offered, stand as they were. -/
theorem Fetched.queue {s t : State} {c : StreamCmd} {k : Ctx} (f : Fetched s t c k) (j : Nat) : (t.spire c.sp.val).queue j = (s.spire c.sp.val).queue j :=
  f.spire_eq (Spire.queue · j) fun _ _ _ _ => rfl

theorem State.offered_queue (s : State) (c : StreamCmd) (j : Nat) : ((s.offered c).spire c.sp.val).queue j = (s.spire c.sp.val).queue j :=
  State.offered_eq (Spire.queue · j) (fun _ _ => rfl) s c

/-- The Spire of a remote put of the execute engine. -/
theorem feed_hqPutE_sent {s : State} {p : Nat} {c : StreamCmd} (h : Ready s p c) (hn : s.core.pushes = []) (ho : c.op = 0x31) (hr : bit1 c.w0 25 = true) :
    PushedFrom s (s.feed c) c.sp.val ∧ (∀ j, ((s.feed c).spire c.sp.val).queue j = (s.spire c.sp.val).queue j) ∧
      (ctxOf (s.feed c) c).pushE = some s.core.nextId ∧ (s.feed c).core.pushes =
        [⟨s.core.nextId, c.sp.val, p, .execute c.ctx.val, fld c.w0 29 26, fld c.w0 21 18, putHandle c (ctxOf s c).eh, .flying, 0⟩] := by
  obtain ⟨t, f, e⟩ := feed_hqPutE_remote h ho hr
  have hid : t.core.nextId = s.core.nextId := f.only.core_eq (·.nextId) fun _ => rfl
  have hpush : t.core.pushes = [] := (f.only.core_eq (·.pushes) fun _ => rfl).trans hn
  have howner : t.owner c.sp.val = some p := (congrArg (fun a : State => a.owner c.sp.val) f.only.outside : _ = _).trans h.owner
  rw [e]
  refine ⟨((PushedFrom.of_only f.only).sendPush ..).onSpire _, fun j => ?_, ?_, ?_⟩
  · rw [State.spire_onSpire]
    exact f.queue j
  · rw [ctxOf, State.spire_onSpire]
    exact congrArg Ctx.pushE (Spire.ctx_onCtx (t.spire c.sp.val) c.ctx.val fun k => { k with pushE := some s.core.nextId })
  · rw [← hid]
    exact State.sendPush_pushes hpush howner ..

theorem feed_hqPutF_sent {s : State} {p : Nat} {c : StreamCmd} (h : Ready s p c) (hn : s.core.pushes = []) (ho : c.op = 0x14) (hr : bit1 c.w0 25 = true) :
    PushedFrom s (s.feed c) c.sp.val ∧ (∀ j, ((s.feed c).spire c.sp.val).queue j = (s.spire c.sp.val).queue j) ∧
      (ctxOf (s.feed c) c).pushF = some s.core.nextId ∧ (ctxOf (s.feed c) c).pc = (ctxOf s c).pc ∧ (s.feed c).core.pushes =
        [⟨s.core.nextId, c.sp.val, p, .fetch c.ctx.val, fld c.w0 29 26, fld c.w0 21 18, putHandle c (ctxOf s c).fh, .flying, 0⟩] := by
  rw [feed_hqPutF_remote h ho hr, s.pushSent_ctx]
  exact ⟨s.pushSent_from p c, s.pushSent_queue p c, rfl, rfl, State.sendPush_pushes (s := s.offered c) hn h.owner ..⟩

/-- Settles O12: each handle command by what it finds in its queue, and a remote put by the push it sends. -/
theorem handleCommandsMove : Obligations.HandleCommandsMove := by
  intro s p c h hn
  simp only [exec_hqTakeF, exec_hqTakeE, exec_hqPutF, exec_hqPutE]
  have fetches (ho : c.op = 0x13 ∨ c.op = 0x14) : FetchSide c := by
    unfold FetchSide
    omega
  refine ⟨fun w rest hq hw => ⟨fun ho => ⟨_, rfl, ?_⟩, fun ho => ⟨_, rfl, ?_⟩⟩, fun hq => ⟨fun ho => ⟨_, rfl, ?_⟩, fun ho => ⟨_, rfl, ?_⟩⟩,
    fun hr hl => ⟨fun ho => ⟨_, rfl, ?_⟩, fun ho => ⟨_, rfl, ?_⟩⟩, fun hr hl => ⟨fun ho hw => ⟨_, rfl, ?_⟩, fun ho hw => ⟨_, rfl, ?_⟩⟩,
    fun hr => ⟨fun ho => ⟨_, rfl, ?_⟩, fun ho => ⟨_, rfl, ?_⟩⟩⟩
  · obtain ⟨only, rest, others, own⟩ := feed_hqTakeF h ho hn hq hw
    rw [own]
    exact ⟨only.frame, rest, others, rfl, rfl, rfl⟩
  · obtain ⟨only, rest, others, own⟩ := feed_hqTakeE h ho hn hq hw
    exact ⟨only.frame, rest, others, own⟩
  · rw [h.feed_refused (fetches (.inl ho)) (fetchSide_hqTakeF_none ho hq)]
    exact ⟨⟨(s.offered_only c).frame, s.offered_queue c _, fun j _ => s.offered_queue c j⟩, congrArg Ctx.backlog (s.offered_ctx c), (congrArg Ctx.fh (s.offered_ctx c) :)⟩
  · have f := feed_hqTakeE_none h ho hq
    exact ⟨⟨f.only.frame, f.queue _, fun j _ => f.queue j⟩, congrArg Ctx.queue f.ctx, (congrArg Ctx.eh f.ctx :)⟩
  · obtain ⟨only, others, own, became⟩ := feed_hqPutF h ho hr hl
    exact ⟨only.frame, others, own, became⟩
  · obtain ⟨only, others, own, became⟩ := feed_hqPutE h ho hr hl
    exact ⟨only.frame, others, own, became⟩
  · have full := (fetchSide_hqPutF h ho hr).trans (if_neg (by simp only [hw, Bool.false_eq_true, false_or]; omega))
    rw [h.feed_refused (fetches (.inr ho)) full]
    exact ⟨⟨(s.offered_only c).frame, s.offered_queue c _, fun j _ => s.offered_queue c j⟩, congrArg Ctx.backlog (s.offered_ctx c)⟩
  · have f := feed_hqPutE_full h ho hr hl hw
    exact ⟨⟨f.only.frame, f.queue _, fun j _ => f.queue j⟩, congrArg Ctx.queue f.ctx⟩
  · obtain ⟨sent, queues, own, pc, pushes⟩ := feed_hqPutF_sent h hn ho hr
    exact ⟨⟨sent.frame, queues _, fun j _ => queues j⟩, own, pc, pushes⟩
  · obtain ⟨sent, queues, own, pushes⟩ := feed_hqPutE_sent h hn ho hr
    exact ⟨⟨sent.frame, queues _, fun j _ => queues j⟩, own, pushes⟩

end Sys2Proof.Machine
end

section
/-! SUPPORT. Barriers, final sets and switches. -/

namespace Sys2Proof.Machine

theorem exec_barrier (c : StreamCmd) (s : State) : exec (.barrier c) s = .next (s.feed c) := rfl
theorem exec_barrierRelease (sp : Fin 16) (bid : Fin 8) (s : State) : exec (.barrierRelease sp bid) s = execBarrierRelease sp bid s := rfl
theorem exec_macSetFinal (sp : Fin 16) (set : Fin 8) (s : State) : exec (.macSetFinal sp set) s = execMacSetFinal sp set s := rfl
theorem exec_contextSwitch (sp : Fin 16) (s : State) : exec (.contextSwitch sp) s = execContextSwitch sp s := rfl

/-! Arrivals. -/

/-- A Spire in which a context has arrived at a barrier. -/
def Spire.arrived (x : Spire) (c : StreamCmd) (n : Nat) : Spire :=
  { x.onCtx c.ctx.val (fun k => { k with barrier := some (fld c.w0 20 18, (Tbl.get [] (fld c.w0 20 18) x.arrivals).length, fld c.w1 15 0) }) with
    arrivals := Tbl.put [] (fld c.w0 20 18) (Tbl.get [] (fld c.w0 20 18) x.arrivals ++ [n]) x.arrivals }

theorem Spire.arrived_ctx (x : Spire) (c : StreamCmd) (n : Nat) : (x.arrived c n).ctx c.ctx.val =
    { x.ctx c.ctx.val with barrier := some (fld c.w0 20 18, (Tbl.get [] (fld c.w0 20 18) x.arrivals).length, fld c.w1 15 0) } :=
  Spire.ctx_onCtx x c.ctx.val fun k => { k with barrier := some (fld c.w0 20 18, (Tbl.get [] (fld c.w0 20 18) x.arrivals).length, fld c.w1 15 0) }

theorem Spire.arrived_ctx_ne (x : Spire) (c : StreamCmd) (n : Nat) {d : Nat} (h : d ≠ c.ctx.val) : (x.arrived c n).ctx d = x.ctx d :=
  Spire.ctx_onCtx_ne x (fun k => { k with barrier := some (fld c.w0 20 18, (Tbl.get [] (fld c.w0 20 18) x.arrivals).length, fld c.w1 15 0) }) h

/-- An arrival at a barrier, where one can be made. -/
theorem Spire.arrive_eq (x : Spire) (c : StreamCmd) (n : Nat) :
    x.arrive c n = if (x.ctx c.ctx.val).barrier.isSome ∨ n < (x.ctx c.ctx.val).finished then none else some (x.arrived c n) := rfl

/-- A context that has arrived at its barrier starts nothing. -/
theorem State.startNext_arrived {s : State} {p sp : Nat} {q : QEntry} (hq : ((s.spire sp).ctx q.cmd.ctx.val).queue = [q]) (ho : q.cmd.op = 0x32)
    (hb : ((s.spire sp).ctx q.cmd.ctx.val).barrier.isSome) : s.startNext p sp q.cmd.ctx.val = none := by
  unfold State.startNext
  simp only [hq, ho, Spire.arrive_eq, hb, true_or, if_true, Option.map_none, ite_self]

/-- A ready BARRIER arrives, and its context waits. -/
theorem feed_barrier {s : State} {p : Nat} {c : StreamCmd} (h : Ready s p c) (ho : c.op = 0x32) (hb : (ctxOf s c).barrier = none) :
    OnlySpire s (s.feed c) c.sp.val ∧
      (ctxOf (s.feed c) c).barrier = some (fld c.w0 20 18, (Tbl.get [] (fld c.w0 20 18) (s.spire c.sp.val).arrivals).length, fld c.w1 15 0) ∧
      (ctxOf (s.feed c) c).queue = [⟨c, (ctxOf s c).pc, readOf s c⟩] ∧
      Tbl.get [] (fld c.w0 20 18) ((s.feed c).spire c.sp.val).arrivals = Tbl.get [] (fld c.w0 20 18) (s.spire c.sp.val).arrivals ++ [(s.part p).ccyc] ∧
      ∀ b, b ≠ fld c.w0 20 18 → Tbl.get [] b ((s.feed c).spire c.sp.val).arrivals = Tbl.get [] b (s.spire c.sp.val).arrivals := by
  obtain ⟨t, e, f⟩ := h.reads_execute (by simp [ho, opExecute])
  have hctx : (t.spire c.sp.val).ctx c.ctx.val = _ := f.ctx
  have harr : (t.spire c.sp.val).arrivals = (s.spire c.sp.val).arrivals := f.spire_eq Spire.arrivals fun _ _ _ _ => rfl
  have fin : (ctxOf s c).finished ≤ (s.part p).ccyc := h.rested.free.2.2.2.2
  have es : t.startNext p c.sp.val c.ctx.val = some (t.setSpire c.sp.val ((t.spire c.sp.val).arrived c (s.part p).ccyc)) := by
    rw [f.startNext_barrier h rfl rfl ho, Spire.arrive_eq, hctx]
    simp [hb, fin]
  have hs : (t.setSpire c.sp.val ((t.spire c.sp.val).arrived c (s.part p).ccyc)).spire c.sp.val = _ := State.spire_setSpire ..
  have own := (t.spire c.sp.val).arrived_ctx c (s.part p).ccyc
  rw [hctx, harr] at own
  have plan : t.planOf c.sp.val = s.planOf c.sp.val := (congrArg (fun a : State => a.planOf c.sp.val) f.only.outside :)
  rw [f.feed_holds h e es (by rw [ctxOf, hs, own]; exact h.ctx_idle.1)
    (State.startNext_arrived (q := ⟨c, (ctxOf s c).pc, readOf s c⟩) (by rw [hs, own]) ho (by rw [hs, own]; rfl))
    (fun d hd => by rw [hs, Spire.arrived_ctx_ne _ _ _ hd]) plan (by rw [hs]; rfl)]
  refine ⟨f.only.trans (OnlySpire.setSpire ..), ?_, ?_, ?_, fun b hne => ?_⟩
  · rw [ctxOf, hs, own]
  · rw [show ctxOf (t.setSpire c.sp.val ((t.spire c.sp.val).arrived c (s.part p).ccyc)) c = _ from congrArg (Spire.ctx · c.ctx.val) hs, own]
  · rw [hs, ← harr]
    exact Tbl.get_put_same ..
  · rw [hs, ← harr]
    exact (Tbl.get_put ..).trans (if_neg hne)

/-! Changes of a Spire that rests. -/

/-- A quiet Spire is changed and goes on: but for its command buffer it stands as given, and nothing else has changed of what lasts. -/
theorem State.resume_setSpire {s : State} {sp : Nat} {x : Spire} (hq : Quiet (s.setSpire sp x) sp) :
    SameSram s ((s.setSpire sp x).resume sp) ∧ (∀ i, i ≠ sp → ((s.setSpire sp x).resume sp).spire i = s.spire i) ∧
      ((s.setSpire sp x).resume sp).parts = s.parts ∧ (((s.setSpire sp x).resume sp).spire sp).unloaded = x.unloaded := by
  have lasting : ((s.setSpire sp x).resume sp).lasting = s.lasting := State.resume_quiet_lasting hq
  refine ⟨fun tile a => State.eq_of_lasting (·.sramByte tile a) (fun _ => rfl) lasting, fun i hi => ?_,
    State.eq_of_lasting State.parts (fun _ => rfl) lasting, ?_⟩
  · rw [State.resume_quiet_spire_ne hq hi, State.spire_setSpire_ne _ _ hi]
  · rw [State.resume_quiet_unloaded hq, State.spire_setSpire]

/-! Final sets. -/

/-- A Spire whose report of a final set has been taken. -/
def Spire.reported (x : Spire) (set : Nat) (f : Nat × Nat) : Spire :=
  { x with finals := x.finals.erase f, spans := x.spans.filter (fun m => !(decide (m.set = set) && decide (m.until_ < f.2))) }

/-- A report of a final set that has come. -/
theorem macSetFinal_takes {s : State} {sp : Fin 16} (hq : Quiet s sp.val) {set : Fin 8} {f : Nat × Nat}
    (hf : (s.spire sp.val).finals.find? (fun f => decide (f.1 = set.val) && decide (f.2 ≤ s.countOf sp.val)) = some f) :
    ∃ t, execMacSetFinal sp set s = .next t ∧ SameSram s t ∧ (∀ i, i ≠ sp.val → t.spire i = s.spire i) ∧
      (t.spire sp.val).finals = (s.spire sp.val).finals.erase f := by
  have e : execMacSetFinal sp set s = .next ((s.setSpire sp.val ((s.spire sp.val).reported set.val f)).resume sp.val) := by
    unfold execMacSetFinal
    rw [hf]
    rfl
  obtain ⟨sram, others, -, own⟩ := State.resume_setSpire (s := s) (x := (s.spire sp.val).reported set.val f)
    (hq.of_ctxs fun k _ => by rw [State.spire_setSpire]; rfl)
  exact ⟨_, e, sram, others, Spire.eq_of_unloaded Spire.finals (fun _ => rfl) own⟩

/-! Switches. -/

/-- A Spire that switches its context in ccyc `n`. -/
def Spire.switched (x : Spire) (c n : Nat) : Spire := { x with running := c, ranLast := x.running, yielded := false, switchEnd := n + 2 }

theorem execContextSwitch_due {s : State} {sp : Fin 16} (hd : s.switchDue sp.val = true) (hf : s.seqFrozen sp.val = false) :
    execContextSwitch sp s = .next ((s.setSpire sp.val ((s.spire sp.val).switched
      ((s.pick sp.val (s.spire sp.val).running (s.spire sp.val).yielded).getD 8) (s.countOf sp.val))).resume sp.val) := by
  unfold execContextSwitch
  rw [if_pos ⟨hd, hf⟩]
  rfl

/-- A switch of a quiet Spire is due, once its running context's issue cycles have ended. -/
theorem State.switchDue_quiet {s : State} {sp : Nat} (hq : Quiet s sp) (hp : (s.planOf sp).pod = true) (hr : (s.spire sp).running < 8)
    (he : (s.spire sp).switchEnd ≤ s.countOf sp) (hi : ((s.spire sp).ctx (s.spire sp).running).issueEnd ≤ s.countOf sp) : s.switchDue sp = true := by
  have hh : s.headPasses sp (s.spire sp).running = false := by simp only [State.headPasses, (hq _ hr).2]
  have hr' : (s.spire sp).running ≠ 8 := by omega
  simp [State.switchDue, hp, hr', he, hi, hh]

/-- A switch of a quiet Spire picks no context. -/
theorem contextSwitch_quiet {s : State} {sp : Fin 16} (hq : Quiet s sp.val) (hd : s.switchDue sp.val = true) (hf : s.seqFrozen sp.val = false) :
    ∃ t, execContextSwitch sp s = .next t ∧ SameSram s t ∧ (∀ i, i ≠ sp.val → t.spire i = s.spire i) ∧ t.parts = s.parts ∧
      (t.spire sp.val).running = 8 ∧ (t.spire sp.val).yielded = false ∧ (t.spire sp.val).switchEnd = s.countOf sp.val + 2 := by
  have e := execContextSwitch_due hd hf
  rw [State.pick_none (fun k hk => State.ctxReady_empty (hq k hk).2)] at e
  obtain ⟨sram, others, parts, own⟩ := State.resume_setSpire (s := s) (x := (s.spire sp.val).switched 8 (s.countOf sp.val))
    (hq.of_ctxs fun k _ => by rw [State.spire_setSpire]; rfl)
  exact ⟨_, e, sram, others, parts, Spire.eq_of_unloaded Spire.running (fun _ => rfl) own, Spire.eq_of_unloaded Spire.yielded (fun _ => rfl) own,
    Spire.eq_of_unloaded Spire.switchEnd (fun _ => rfl) own⟩

/-- The first context that passes in circular order after `last`. -/
theorem find?_circularAfter {last c : Nat} {q : Nat → Bool} (hl : last < 8) (hc : c < 8) (hq : q c = true)
    (first : ∀ d, d < 8 → q d = true → (c + 7 - last) % 8 ≤ (d + 7 - last) % 8) : (circularAfter 8 last).find? q = some c := by
  have hi : (List.range 8).find? (q ∘ fun i => (last + 1 + i) % 8) = some ((c + 7 - last) % 8) := by
    rw [List.find?_range_eq_some]
    have back : (last + 1 + (c + 7 - last) % 8) % 8 = c := by omega
    refine ⟨by simp only [Function.comp, back, hq], List.mem_range.mpr (Nat.mod_lt _ (by omega)), fun j hj => ?_⟩
    by_contra hn
    have := first ((last + 1 + j) % 8) (Nat.mod_lt _ (by omega)) (by simpa using hn)
    omega
  rw [circularAfter, List.find?_map, hi]
  exact congrArg some (show (last + 1 + (c + 7 - last) % 8) % 8 = c by omega)

/-- Whether a switch may pick a context. -/
def State.mayPick (s : State) (sp last : Nat) (yielding : Bool) (d : Nat) : Bool := s.ctxReady sp d && !(yielding && d == last)

theorem State.mayPick_iff (s : State) (sp last : Nat) (yielding : Bool) (d : Nat) :
    s.mayPick sp last yielding d = true ↔ s.ctxReady sp d = true ∧ ¬(yielding = true ∧ d = last) := by
  cases yielding <;> simp [State.mayPick]

/-- The context that a switch picks. -/
theorem State.pick_eq {s : State} {sp last c : Nat} {yielding : Bool} (hl : last < 8) (hc : c < 8) (may : s.mayPick sp last yielding c = true)
    (first : c = 0 ∨ (s.mayPick sp last yielding 0 ≠ true ∧
      ∀ d, d < 8 → s.mayPick sp last yielding d = true → (c + 7 - last) % 8 ≤ (d + 7 - last) % 8)) :
    s.pick sp last yielding = some c := by
  show (0 :: circularAfter 8 last).find? (s.mayPick sp last yielding) = some c
  obtain rfl | ⟨none, first⟩ := first
  · exact List.find?_cons_of_pos may
  · rw [List.find?_cons_of_neg none]
    exact find?_circularAfter hl hc may first

/-! While a switch goes on, barriers are all that a Spire's sequencer can reach. -/

/-- A Spire in which nothing has happened but arrivals at barriers. -/
structure Arrivals (x y : Spire) : Prop where
  running : y.running = x.running
  ranLast : y.ranLast = x.ranLast
  yielded : y.yielded = x.yielded
  switchEnd : y.switchEnd = x.switchEnd
  contexts : ∀ k, (y.ctx k).backlog = (x.ctx k).backlog ∧ (y.ctx k).queue = (x.ctx k).queue

theorem Arrivals.refl (x : Spire) : Arrivals x x := ⟨rfl, rfl, rfl, rfl, fun _ => ⟨rfl, rfl⟩⟩

theorem Arrivals.trans {x y z : Spire} (h : Arrivals x y) (k : Arrivals y z) : Arrivals x z :=
  ⟨k.running.trans h.running, k.ranLast.trans h.ranLast, k.yielded.trans h.yielded, k.switchEnd.trans h.switchEnd,
    fun d => ⟨(k.contexts d).1.trans (h.contexts d).1, (k.contexts d).2.trans (h.contexts d).2⟩⟩

theorem Arrivals.of_unloaded {x y : Spire} (h : y.unloaded = x.unloaded) : Arrivals x y where
  running := Spire.eq_of_unloaded Spire.running (fun _ => rfl) h
  ranLast := Spire.eq_of_unloaded Spire.ranLast (fun _ => rfl) h
  yielded := Spire.eq_of_unloaded Spire.yielded (fun _ => rfl) h
  switchEnd := Spire.eq_of_unloaded Spire.switchEnd (fun _ => rfl) h
  contexts k := by rw [Spire.eq_of_unloaded (Spire.ctx · k) (fun _ => rfl) h]; exact ⟨rfl, rfl⟩

theorem Spire.arrived_arrivals (x : Spire) (c : StreamCmd) (n : Nat) : Arrivals x (x.arrived c n) where
  running := rfl
  ranLast := rfl
  yielded := rfl
  switchEnd := rfl
  contexts k := by
    by_cases hk : k = c.ctx.val
    · subst hk
      rw [Spire.arrived_ctx]
      exact ⟨rfl, rfl⟩
    · rw [Spire.arrived_ctx_ne _ _ _ hk]
      exact ⟨rfl, rfl⟩

/-- While a switch goes on, a start is an arrival at a barrier. -/
theorem State.startNext_switching {s t : State} {p sp k : Nat} (hp : (s.part p).plan.pod = true) (he : (s.part p).ccyc < (s.spire sp).switchEnd)
    (e : s.startNext p sp k = some t) : ∃ c, t = s.setSpire sp ((s.spire sp).arrived c (s.part p).ccyc) := by
  have stands : (s.spire sp).mayRun (s.part p).plan.pod k (s.part p).ccyc = false := by
    have : ¬(s.spire sp).switchEnd ≤ (s.part p).ccyc := by omega
    simp [Spire.mayRun, hp, this]
  unfold State.startNext at e
  dsimp only at e
  split at e
  · cases e
  · rename_i q _ _
    split at e
    · cases e
    · split at e
      · rw [Spire.arrive_eq] at e
        split at e
        · cases e
        · exact ⟨q.cmd, (Option.some.inj e).symm⟩
      · rw [if_pos (.inl (by simp [stands]))] at e
        cases e

/-- A Spire in pod class that switches, with nothing offered, goes on with arrivals alone. -/
theorem State.pump_switching (f : Nat) {s : State} {p sp : Nat} (hp : (s.part p).plan.pod = true) (he : (s.part p).ccyc < (s.spire sp).switchEnd)
    (hr : (s.spire sp).running ≠ 8) (hb : ∀ k, k < 8 → ((s.spire sp).ctx k).backlog = []) :
    OnlySpire s (State.pump f p sp s) sp ∧ Arrivals (s.spire sp) ((State.pump f p sp s).spire sp) := by
  induction f generalizing s with
  | zero => exact ⟨⟨rfl, rfl, fun _ _ => rfl⟩, .refl _⟩
  | succ f ih =>
    cases hm : (List.range 8).findSome? (s.startNext p sp) with
    | none =>
      have picks : s.pickUp sp = none := State.pickUp_none fun _ => hr
      rw [State.pump_stuck (f + 1) p (fun k hk => List.findSome?_eq_none_iff.mp hm k (List.mem_range.mpr hk)) picks
        fun k hk => State.readNext_empty (hb k hk)]
      exact ⟨⟨rfl, rfl, fun _ _ => rfl⟩, .refl _⟩
    | some t =>
      obtain ⟨k, -, hk⟩ := List.exists_of_findSome?_eq_some hm
      obtain ⟨c, rfl⟩ := State.startNext_switching hp he hk
      have hmove : s.move p sp = some (s.setSpire sp ((s.spire sp).arrived c (s.part p).ccyc)) := by
        unfold State.move
        rw [hm]
      have arr := (s.spire sp).arrived_arrivals c (s.part p).ccyc
      have hs : (s.setSpire sp ((s.spire sp).arrived c (s.part p).ccyc)).spire sp = _ := State.spire_setSpire ..
      rw [State.pump_move f hmove]
      obtain ⟨only, arrs⟩ := ih (s := s.setSpire sp ((s.spire sp).arrived c (s.part p).ccyc)) hp (by rw [hs, arr.switchEnd]; exact he)
        (by rw [hs, arr.running]; exact hr) fun k hk => by rw [hs, (arr.contexts k).1]; exact hb k hk
      rw [hs] at arrs
      exact ⟨(OnlySpire.setSpire ..).trans only, arr.trans arrs⟩

/-- So does it when it resumes. -/
theorem State.resume_switching {s : State} {sp : Nat} (hp : (s.planOf sp).pod = true) (he : s.countOf sp < (s.spire sp).switchEnd)
    (hr : (s.spire sp).running ≠ 8) (hb : ∀ k, k < 8 → ((s.spire sp).ctx k).backlog = []) :
    SameSram s (s.resume sp) ∧ (∀ i, i ≠ sp → (s.resume sp).spire i = s.spire i) ∧ (s.resume sp).parts = s.parts ∧
      Arrivals (s.spire sp) ((s.resume sp).spire sp) := by
  unfold State.resume
  split
  · exact ⟨fun _ _ => rfl, fun _ _ => rfl, rfl, .refl _⟩
  · rename_i p ho
    split
    · have lasting := s.refill_lasting p sp
      have loaded : Arrivals (s.spire sp) ((s.refill p sp).spire sp) := .of_unloaded (s.refill_unloaded ..)
      have hpart : (s.refill p sp).part p = s.part p := State.eq_of_lasting (·.part p) (fun _ => rfl) lasting
      obtain ⟨only, arrs⟩ := State.pump_switching (s.spire sp).work (s := s.refill p sp) (p := p) (sp := sp)
        (by rw [hpart]; simpa only [State.planOf, ho] using hp)
        (by rw [hpart, loaded.switchEnd]; simpa only [State.countOf, ho] using he)
        (by rw [loaded.running]; exact hr) fun k hk => by rw [(loaded.contexts k).1]; exact hb k hk
      refine ⟨fun tile a => (only.sameMemory.sram tile a).trans (State.eq_of_lasting (·.sramByte tile a) (fun _ => rfl) lasting), fun i hi => ?_, ?_,
        loaded.trans arrs⟩
      · rw [only.others i hi, State.refill_spire_ne _ _ _ hi]
      · exact (congrArg State.parts only.outside : _ = _).trans (State.eq_of_lasting State.parts (fun _ => rfl) lasting)
    · exact ⟨fun _ _ => rfl, fun _ _ => rfl, rfl, .refl _⟩

/-- A switch that picks a context. -/
theorem contextSwitch_picks {s : State} {sp : Fin 16} {c : Nat} (hd : s.switchDue sp.val = true) (hf : s.seqFrozen sp.val = false)
    (hb : ∀ k, k < 8 → ((s.spire sp.val).ctx k).backlog = []) (hc : c < 8)
    (hp : s.pick sp.val (s.spire sp.val).running (s.spire sp.val).yielded = some c) :
    ∃ t, execContextSwitch sp s = .next t ∧ SameSram s t ∧ (∀ i, i ≠ sp.val → t.spire i = s.spire i) ∧ t.parts = s.parts ∧
      (t.spire sp.val).running = c ∧ (t.spire sp.val).ranLast = (s.spire sp.val).running ∧ (t.spire sp.val).yielded = false ∧
      (t.spire sp.val).switchEnd = s.countOf sp.val + 2 ∧ ∀ k, k < 8 → ((t.spire sp.val).ctx k).queue = ((s.spire sp.val).ctx k).queue := by
  have pod : (s.planOf sp.val).pod = true := by
    simp only [State.switchDue, Bool.and_eq_true] at hd
    exact hd.1.1.1.1
  have e := execContextSwitch_due hd hf
  rw [hp] at e
  have hs : (s.setSpire sp.val ((s.spire sp.val).switched c (s.countOf sp.val))).spire sp.val = _ := State.spire_setSpire ..
  obtain ⟨sram, others, parts, arr⟩ := State.resume_switching (s := s.setSpire sp.val ((s.spire sp.val).switched c (s.countOf sp.val))) (sp := sp.val) pod
    (by rw [hs]; show s.countOf sp.val < s.countOf sp.val + 2; omega) (by rw [hs]; show c ≠ 8; omega) (fun k hk => by rw [hs]; exact hb k hk)
  rw [hs] at arr
  exact ⟨_, e, sram, fun i hi => (others i hi).trans (State.spire_setSpire_ne _ _ hi), parts, arr.running, arr.ranLast, arr.yielded, arr.switchEnd,
    fun k _ => (arr.contexts k).2⟩

/-! Releases. -/

/-- A context has passed its barrier, and has nothing more to do. -/
def Ctx.Passed (k : Ctx) : Prop := k.backlog = [] ∧ k.barrier = none ∧ k.queue = []

/-- Nothing has changed of what lasts, of any Spire's arrivals, nor of any Spire that `on` does not hold of. -/
structure Released (s t : State) (on : Nat → Prop) : Prop where
  lasting : t.lasting = s.lasting
  arrivals : ∀ i, (t.spire i).arrivals = (s.spire i).arrivals
  others : ∀ i, ¬on i → t.spire i = s.spire i

theorem Released.refl (s : State) (on : Nat → Prop) : Released s s on := ⟨rfl, fun _ => rfl, fun _ _ => rfl⟩

theorem Released.trans {s t u : State} {on : Nat → Prop} (h : Released s t on) (k : Released t u on) : Released s u on :=
  ⟨k.lasting.trans h.lasting, fun i => (k.arrivals i).trans (h.arrivals i), fun i hi => (k.others i hi).trans (h.others i hi)⟩

theorem Released.mono {s t : State} {on off : Nat → Prop} (h : Released s t on) (sub : ∀ i, on i → off i) : Released s t off :=
  ⟨h.lasting, h.arrivals, fun i hi => h.others i fun k => hi (sub i k)⟩

/-- A release comes by the arrivals alone. -/
theorem Released.releaseAt {s t : State} {on : Nat → Prop} (h : Released s t on) (b j mask : Nat) : t.releaseAt b j mask = s.releaseAt b j mask := by
  have e : t.arrival = s.arrival := by
    funext i d k
    rw [State.arrival, h.arrivals, State.arrival]
  unfold State.releaseAt
  rw [e]

theorem Released.countOf {s t : State} {on : Nat → Prop} (h : Released s t on) (i : Nat) : t.countOf i = s.countOf i :=
  State.eq_of_lasting (·.countOf i) (fun _ => rfl) h.lasting

theorem Spire.passBarrier_ctx_ne (x : Spire) (pod : Bool) {ctx d : Nat} (n : Nat) (h : d ≠ ctx) : (x.passBarrier pod ctx n).ctx d = x.ctx d := by
  rw [Spire.passBarrier, Spire.ctx_onCtx_ne _ _ h]
  exact Spire.passHead_ctx_ne x pod n n h

/-- A context that waits at a released barrier with nothing behind it passes. -/
theorem Spire.passBarrier_ctx (x : Spire) (pod : Bool) (ctx n : Nat) {q : QEntry} (hb : (x.ctx ctx).backlog = []) (hq : (x.ctx ctx).queue = [q]) :
    ((x.passBarrier pod ctx n).ctx ctx).Passed := by
  have e : Spire.ctx { x.passHead pod ctx n n with lastCtx := x.lastCtx } ctx = (x.ctx ctx).pass pod n n := x.passHead_ctx pod ctx n n
  rw [Spire.passBarrier, Spire.ctx_onCtx, e]
  exact ⟨hb, rfl, by rw [Ctx.pass, hq]; rfl⟩

/-- One context of a Spire is released where its barrier is. -/
def State.releaseCtx (bid sp : Nat) (pod : Bool) (n : Nat) (a : State) (c : Nat) : State :=
  if (a.released sp bid c n).isSome then a.onSpire sp (fun x => x.passBarrier pod c n) else a

theorem State.releaseCtx_released (bid sp : Nat) (pod : Bool) (n : Nat) (a : State) (c : Nat) : Released a (State.releaseCtx bid sp pod n a c) (· = sp) := by
  unfold State.releaseCtx
  split
  · refine ⟨rfl, fun i => ?_, fun i hi => State.spire_onSpire_ne _ _ hi⟩
    by_cases hi : i = sp
    · subst hi
      rw [State.spire_onSpire]
      rfl
    · rw [State.spire_onSpire_ne _ _ hi]
  · exact .refl ..

theorem State.releaseCtx_ctx_ne (bid sp : Nat) (pod : Bool) (n : Nat) (a : State) {c d : Nat} (h : d ≠ c) :
    ((State.releaseCtx bid sp pod n a c).spire sp).ctx d = (a.spire sp).ctx d := by
  unfold State.releaseCtx
  split
  · rw [State.spire_onSpire, Spire.passBarrier_ctx_ne _ _ _ h]
  · rfl

/-- A context that only waits at the released barrier, or has nothing to do, has passed. -/
theorem State.releaseCtx_ctx {bid sp : Nat} {pod : Bool} {a : State} {c : Nat} (hb : ((a.spire sp).ctx c).backlog = [])
    (hn : ((a.spire sp).ctx c).barrier = none → ((a.spire sp).ctx c).queue = [])
    (hw : ∀ b j mask, ((a.spire sp).ctx c).barrier = some (b, j, mask) →
      b = bid ∧ (∃ r, a.releaseAt bid j mask = some r ∧ r ≤ a.countOf sp) ∧ ∃ q, ((a.spire sp).ctx c).queue = [q]) :
    (((State.releaseCtx bid sp pod (a.countOf sp) a c).spire sp).ctx c).Passed := by
  unfold State.releaseCtx
  cases he : ((a.spire sp).ctx c).barrier with
  | none =>
    have stays : (a.released sp bid c (a.countOf sp)).isSome = false := by simp [State.released, he]
    rw [stays, if_neg (by decide)]
    exact ⟨hb, he, hn he⟩
  | some w =>
    obtain ⟨b, j, mask⟩ := w
    obtain ⟨rfl, ⟨r, hr, hle⟩, q, hq⟩ := hw b j mask he
    have goes : (a.released sp b c (a.countOf sp)).isSome = true := by simp [State.released, he, hr, hle]
    rw [if_pos goes, State.spire_onSpire]
    exact Spire.passBarrier_ctx _ _ _ _ hb hq

/-- The contexts below `n` of a Spire that only waits have passed, and the others stand. -/
theorem State.releaseCtx_fold {s : State} {bid sp : Nat} (pod : Bool) (h : OnlyWaits s bid sp) {n : Nat} (hn : n ≤ 8) :
    Released s ((List.range n).foldl (State.releaseCtx bid sp pod (s.countOf sp)) s) (· = sp) ∧
      (∀ k, k < n → ((((List.range n).foldl (State.releaseCtx bid sp pod (s.countOf sp)) s).spire sp).ctx k).Passed) ∧
      ∀ k, n ≤ k → (((List.range n).foldl (State.releaseCtx bid sp pod (s.countOf sp)) s).spire sp).ctx k = (s.spire sp).ctx k := by
  induction n with
  | zero => exact ⟨.refl .., fun k hk => absurd hk (Nat.not_lt_zero k), fun _ _ => rfl⟩
  | succ n ih =>
    obtain ⟨rel, passed, stands⟩ := ih (by omega)
    rw [List.range_succ, List.foldl_append, List.foldl_cons, List.foldl_nil]
    generalize (List.range n).foldl (State.releaseCtx bid sp pod (s.countOf sp)) s = a at rel passed stands
    obtain ⟨hb, hq, hw⟩ := h n (by omega)
    have own := stands n le_rfl
    refine ⟨rel.trans (State.releaseCtx_released ..), fun k hk => ?_, fun k hk => ?_⟩
    · obtain hk | rfl : k < n ∨ k = n := by omega
      · rw [State.releaseCtx_ctx_ne _ _ _ _ _ (by omega)]
        exact passed k hk
      · rw [← rel.countOf sp]
        refine State.releaseCtx_ctx (by rw [own, hb]) (by rw [own]; exact hq) ?_
        rw [own]
        intro b j mask e
        rw [rel.releaseAt, rel.countOf]
        exact hw b j mask e
    · rw [State.releaseCtx_ctx_ne _ _ _ _ _ (by omega)]
      exact stands k (by omega)

/-- A Spire that only waits at the released barrier passes it in every context. -/
theorem State.releaseSpire_passes {s : State} {bid sp : Nat} (h : OnlyWaits s bid sp) (hf : s.seqFrozen sp = false) (hs : (s.spire sp).stopped = false) :
    Released s (s.releaseSpire bid sp) (· = sp) ∧ ∀ k, k < 8 → (((s.releaseSpire bid sp).spire sp).ctx k).Passed := by
  obtain ⟨rel, passed, -⟩ := State.releaseCtx_fold (s.planOf sp).pod h le_rfl
  have e : s.releaseSpire bid sp = ((List.range 8).foldl (State.releaseCtx bid sp (s.planOf sp).pod (s.countOf sp)) s).resume sp := by
    have go : ¬(s.seqFrozen sp = true ∨ (s.spire sp).stopped = true) := by simp [hf, hs]
    exact if_neg go
  rw [e]
  generalize (List.range 8).foldl (State.releaseCtx bid sp (s.planOf sp).pod (s.countOf sp)) s = a at rel passed
  have quiet : Quiet a sp := fun k hk => ⟨(passed k hk).1, (passed k hk).2.2⟩
  have loaded := State.resume_quiet_unloaded quiet
  refine ⟨⟨(State.resume_quiet_lasting quiet).trans rel.lasting,
    fun i => (Spire.eq_of_unloaded Spire.arrivals (fun _ => rfl) (loaded i)).trans (rel.arrivals i),
    fun i hi => (State.resume_quiet_spire_ne quiet hi).trans (rel.others i hi)⟩, fun k hk => ?_⟩
  rw [Spire.eq_of_unloaded (Spire.ctx · k) (fun _ => rfl) (loaded sp)]
  exact passed k hk

/-- What a Spire waits for is the same once others have been released. -/
theorem Released.onlyWaits {s t : State} {on : Nat → Prop} (h : Released s t on) {bid i : Nat} (hi : ¬on i) (w : OnlyWaits s bid i) : OnlyWaits t bid i := by
  intro k hk
  rw [h.others i hi]
  obtain ⟨hb, hq, hw⟩ := w k hk
  refine ⟨hb, hq, fun b j mask e => ?_⟩
  rw [h.releaseAt, h.countOf]
  exact hw b j mask e

/-- Every Spire of a list is released in its turn. -/
theorem State.releaseSpires_pass {bid : Nat} (l : List Nat) (nodup : l.Nodup) {s : State}
    (h : ∀ i ∈ l, OnlyWaits s bid i ∧ s.seqFrozen i = false ∧ (s.spire i).stopped = false) :
    Released s (l.foldl (fun a x => a.releaseSpire bid x) s) (· ∈ l) ∧
      ∀ i ∈ l, ∀ k, k < 8 → (((l.foldl (fun a x => a.releaseSpire bid x) s).spire i).ctx k).Passed := by
  induction l generalizing s with
  | nil => exact ⟨.refl .., fun i hi => absurd hi List.not_mem_nil⟩
  | cons x l ih =>
    obtain ⟨hx, hl⟩ := List.nodup_cons.mp nodup
    obtain ⟨waits, frozen, stopped⟩ := h x List.mem_cons_self
    obtain ⟨rel, passed⟩ := State.releaseSpire_passes waits frozen stopped
    have after : ∀ i ∈ l, OnlyWaits (s.releaseSpire bid x) bid i ∧ (s.releaseSpire bid x).seqFrozen i = false ∧ ((s.releaseSpire bid x).spire i).stopped = false := by
      intro i hi
      have hne : i ≠ x := fun e => hx (e ▸ hi)
      obtain ⟨w, f, st⟩ := h i (List.mem_cons_of_mem _ hi)
      rw [State.seqFrozen, rel.others i hne]
      exact ⟨rel.onlyWaits hne w, f, st⟩
    obtain ⟨rels, passes⟩ := ih hl after
    rw [List.foldl_cons]
    refine ⟨(rel.mono fun i e => e ▸ List.mem_cons_self).trans (rels.mono fun i => List.mem_cons_of_mem x), fun i hi => ?_⟩
    obtain rfl | hi := List.mem_cons.mp hi
    · rw [rels.others i hx]
      exact passed
    · exact passes i hi

/-- The mask of every context that is released is the one that its Spire's contexts wait with. -/
theorem State.released_masks {s : State} {sp bid mask : Nat}
    (h : ∀ k' j' mask', k' < 8 → ((s.spire sp).ctx k').barrier = some (bid, j', mask') → mask' = mask) (n : Nat) {m : Nat}
    (hm : m ∈ (List.range 8).filterMap fun c => s.released sp bid c n) : m = mask := by
  obtain ⟨k, hk, e⟩ := List.mem_filterMap.mp hm
  unfold State.released at e
  split at e
  · rename_i b j mask' hb
    split at e
    · rename_i hc
      obtain rfl := Option.some.inj e
      obtain ⟨rfl, -⟩ := hc
      exact h k j _ (List.mem_range.mp hk) hb
    · cases e
  · cases e

/-- A release that has come passes every context of every Spire of the mask. -/
theorem barrierRelease_passes {s : State} {sp : Fin 16} {bid : Fin 8} {k j mask r : Nat} (hk : k < 8)
    (hb : ((s.spire sp.val).ctx k).barrier = some (bid.val, j, mask))
    (masks : ∀ k' j' mask', k' < 8 → ((s.spire sp.val).ctx k').barrier = some (bid.val, j', mask') → mask' = mask)
    (hr : s.releaseAt bid.val j mask = some r) (hle : r ≤ s.countOf sp.val)
    (waits : ∀ i, i < 16 → bitOf mask i = true → OnlyWaits s bid.val i ∧ s.seqFrozen i = false ∧ (s.spire i).stopped = false) :
    ∃ t, execBarrierRelease sp bid s = .next t ∧ SameSram s t ∧
      ∀ i, i < 16 → bitOf mask i = true → ∀ k', k' < 8 → ((t.spire i).ctx k').barrier = none ∧ ((t.spire i).ctx k').queue = [] := by
  have own : s.released sp.val bid.val k (s.countOf sp.val) = some mask := by simp [State.released, hb, hr, hle]
  have mem : mask ∈ (List.range 8).filterMap fun c => s.released sp.val bid.val c (s.countOf sp.val) :=
    List.mem_filterMap.mpr ⟨k, List.mem_range.mpr hk, own⟩
  have e : execBarrierRelease sp bid s = .next (((List.range 16).filter (fun x => bitOf mask x)).foldl (fun a x => a.releaseSpire bid.val x) s) := by
    unfold execBarrierRelease
    cases hl : (List.range 8).filterMap fun c => s.released sp.val bid.val c (s.countOf sp.val) with
    | nil =>
      rw [hl] at mem
      cases mem
    | cons m rest =>
      have hm : m = mask := State.released_masks masks (s.countOf sp.val) (by rw [hl]; exact List.mem_cons_self)
      rw [hm]
  obtain ⟨rel, passes⟩ := State.releaseSpires_pass ((List.range 16).filter fun x => bitOf mask x) (List.nodup_range.filter _) (bid := bid.val) (s := s)
    fun i hi => waits i (List.mem_range.mp (List.mem_filter.mp hi).1) (List.mem_filter.mp hi).2
  refine ⟨_, e, fun tile a => State.eq_of_lasting (·.sramByte tile a) (fun _ => rfl) rel.lasting, fun i hi hm k' hk' => ?_⟩
  exact (passes i (List.mem_filter.mpr ⟨List.mem_range.mpr hi, hm⟩) k' hk').2

/-- Before it nothing is released. -/
theorem barrierRelease_early {s : State} {sp : Fin 16} {bid : Fin 8} {k j mask r : Nat}
    (hb : ((s.spire sp.val).ctx k).barrier = some (bid.val, j, mask)) (hr : s.releaseAt bid.val j mask = some r) (hlt : s.countOf sp.val < r)
    (alone : ∀ k' j' mask', k' < 8 → k' ≠ k → ((s.spire sp.val).ctx k').barrier ≠ some (bid.val, j', mask')) :
    execBarrierRelease sp bid s = .next s := by
  have none : (List.range 8).filterMap (fun c => s.released sp.val bid.val c (s.countOf sp.val)) = [] := by
    rw [List.filterMap_eq_nil_iff]
    intro d hd
    unfold State.released
    split
    · rename_i b j' mask' hw
      refine if_neg ?_
      rintro ⟨rfl, he⟩
      by_cases hdk : d = k
      · subst hdk
        obtain ⟨rfl, rfl⟩ : j = j' ∧ mask = mask' := by simpa [hb] using hw
        rw [hr] at he
        simp only [Option.any_some, decide_eq_true_eq] at he
        omega
      · exact alone d j' mask' (List.mem_range.mp hd) hdk hw
    · rfl
  unfold execBarrierRelease
  rw [none]

/-- Settles O18: an arrival, a release or a report changes contexts that then rest, and a switch is followed by arrivals alone. -/
theorem sequencersJoin : Obligations.SequencersJoin := by
  intro s
  simp only [exec_barrier, exec_barrierRelease, exec_macSetFinal, exec_contextSwitch]
  refine ⟨fun p c h ho hb => ⟨_, rfl, feed_barrier h ho hb⟩, fun sp bid k j mask r hk hb masks hr => ⟨fun hle waits => ?_, fun hlt alone => ?_⟩,
    fun sp hq => ⟨fun set f hf => macSetFinal_takes hq hf, fun hp hr hf he hi => ?_⟩, fun sp c hd hf hb hr hc may first => ?_⟩
  · exact barrierRelease_passes hk hb masks hr hle waits
  · exact barrierRelease_early hb hr hlt alone
  · exact contextSwitch_quiet hq (State.switchDue_quiet hq hp hr he hi) hf
  · refine contextSwitch_picks hd hf hb hc (State.pick_eq hr hc ((s.mayPick_iff ..).mpr may) ?_)
    exact first.imp_right fun ⟨no, least⟩ => ⟨fun e => no ((s.mayPick_iff ..).mp e), fun d hd e => least d hd ((s.mayPick_iff ..).mp e)⟩

end Sys2Proof.Machine
end

section
/-! SUPPORT. The start of a slot command in a Spire that rests: what its effect in the tiles is worked out from, and the stall that follows. -/

namespace Sys2Proof.Machine

/-! Tables whose values change together. -/

/-- A change of every value, which leaves what an unlisted key reads as, is a change of what is read. -/
theorem Tbl.get_map_val {α : Type} {d : α} {f : α → α} (hf : f d = d) (k : Nat) (l : Tbl α) : Tbl.get d k (l.map fun e => (e.1, f e.2)) = f (Tbl.get d k l) := by
  induction l with
  | nil => exact hf.symm
  | cons e l ih =>
    obtain ⟨j, v⟩ := e
    simp only [List.map_cons, Tbl.get]
    split
    · rfl
    · exact ih

/-! What the tiles see of a state. -/

/-- A state but for its Spires and the count of free values. -/
def State.tiles (s : State) : State := { s with core := { s.core with spires := [] }, free := 0 }

theorem State.eq_of_tiles {γ : Type} (g : State → γ) (hg : ∀ a : State, g a.tiles = g a) {s t : State} (h : t.tiles = s.tiles) : g t = g s := by
  rw [← hg t, h, hg]

theorem OnlySpire.tiles {s t : State} {sp : Nat} (h : OnlySpire s t sp) : t.tiles = s.tiles := by
  have ho : { t with core := s.core } = s := h.outside
  have hi : { t.core with spires := s.core.spires } = s.core := h.inside
  calc t.tiles = { ({ t with core := s.core } : State) with core := { ({ t.core with spires := s.core.spires } : Core) with spires := [] }, free := 0 } := rfl
    _ = s.tiles := by rw [ho, hi]; rfl

theorem SameOutside.of_tiles {s t : State} (h : t.tiles = s.tiles) : SameOutside s t := by
  have e := congrArg (fun a : State => ({ a with core := s.core, free := s.free } : State)) h
  exact e

/-- A Spire with no write on its way to a register or a predicate has none to settle. -/
theorem State.settleRegs_rested {s : State} {sp : Nat} (hv : (s.spire sp).vwrites = []) (hp : (s.spire sp).pwrites = []) (t : Nat) :
    s.settleRegs sp t = s.setSpire sp (s.spire sp) := by
  have same : ({ s.spire sp with vwrites := [], pwrites := [] } : Spire) = s.spire sp := by
    rw [← hv, ← hp]
  unfold State.settleRegs
  simp only [hv, hp, List.filter_nil, List.foldl_nil, same]
  rfl

/-! The Spire of a command that starts. -/

/-- A Spire but for its contexts, its slots and sets, its counters and the fetch engine's turn. -/
def Spire.unstarted (x : Spire) : Spire := { x with
  ctxs := [], readFree := 0, lastRead := 0, lastCtx := 0, macFree := 0, vecFree := 0, roFree := 0, startFree := 0, setFinal := [], setRead := []
  finals := [], spans := [], ctr := {} }

theorem Spire.eq_of_unstarted {γ : Type} (g : Spire → γ) (hg : ∀ x : Spire, g x.unstarted = g x) {x y : Spire} (h : y.unstarted = x.unstarted) :
    g y = g x := by
  rw [← hg y, h, hg]

theorem Spire.startSlot_unstarted (x : Spire) (c : StreamCmd) (pod : Bool) (t : Nat) : (x.startSlot c pod t).unstarted = x.unstarted := by
  unfold Spire.startSlot
  dsimp only
  split
  · rfl
  · split
    · rfl
    · split
      · rfl
      · rfl

/-- A context whose command starts has it taken off its queue. -/
theorem Spire.startSlot_ctx (x : Spire) (c : StreamCmd) (pod : Bool) (t : Nat) :
    ∃ fin stop, (x.startSlot c pod t).ctx c.ctx.val = { (x.ctx c.ctx.val).pass pod t fin with issueEnd := stop } := by
  have e : ∀ (y : Spire) fin stop, (∀ d, y.ctx d = x.ctx d) → ((y.passHead pod c.ctx.val t fin).issues c.ctx.val stop).ctx c.ctx.val =
      { (x.ctx c.ctx.val).pass pod t fin with issueEnd := stop } := by
    intro y fin stop hy
    rw [Spire.issues, Spire.ctx_onCtx, Spire.passHead_ctx, hy]
  unfold Spire.startSlot
  dsimp only
  split
  · exact ⟨_, _, e _ _ _ fun _ => rfl⟩
  · split
    · exact ⟨_, _, e _ _ _ fun _ => rfl⟩
    · split
      · exact ⟨_, _, e _ _ _ fun _ => rfl⟩
      · exact ⟨_, _, e _ _ _ fun _ => rfl⟩

theorem Spire.startSlot_ctx_ne (x : Spire) (c : StreamCmd) (pod : Bool) (t : Nat) {d : Nat} (h : d ≠ c.ctx.val) : (x.startSlot c pod t).ctx d = x.ctx d := by
  have e : ∀ (y : Spire) fin stop, (∀ d, y.ctx d = x.ctx d) → ((y.passHead pod c.ctx.val t fin).issues c.ctx.val stop).ctx d = x.ctx d := by
    intro y fin stop hy
    rw [Spire.issues, Spire.ctx_onCtx_ne _ _ h, Spire.passHead_ctx_ne _ _ _ _ h, hy]
  unfold Spire.startSlot
  dsimp only
  split
  · exact e _ _ _ fun _ => rfl
  · split
    · exact e _ _ _ fun _ => rfl
    · split
      · exact e _ _ _ fun _ => rfl
      · exact e _ _ _ fun _ => rfl

/-! The stall that a command's bank slips make. -/

@[simp] theorem later_zero (t v : Nat) : later t 0 v = v := by
  simp [later]

theorem later_early {t v : Nat} (n : Nat) (h : v < t) : later t n v = v := if_neg (by omega)

/-- A stall of a context. -/
def Ctx.stalled (k : Ctx) (t n : Nat) : Ctx := { k with finished := later t n k.finished, issueEnd := later t n k.issueEnd }

theorem Spire.stall_ctx (x : Spire) {t : Nat} (ht : 0 < t) (n d : Nat) : (x.stall t n).ctx d = (x.ctx d).stalled t n := by
  unfold Spire.stall
  split
  · rename_i hn
    subst hn
    simp only [Ctx.stalled, later_zero]
  · have zero : later t n 0 = 0 := later_early n ht
    exact Tbl.get_map_val (d := ({} : Ctx)) (f := fun k => k.stalled t n) (by simp [Ctx.stalled, zero]) d x.ctxs

/-- Moments and writes of a stalled Spire come later, with no slip as with some. -/
theorem Spire.stall_vwrites (x : Spire) (t n : Nat) : (x.stall t n).vwrites = x.vwrites.map fun w => { w with at_ := later t n w.at_ } := by
  unfold Spire.stall
  split
  · rename_i hn
    subst hn
    simp
  · rfl

theorem Spire.stall_pwrites (x : Spire) (t n : Nat) : (x.stall t n).pwrites = x.pwrites.map fun w => { w with at_ := later t n w.at_ } := by
  unfold Spire.stall
  split
  · rename_i hn
    subst hn
    simp
  · rfl

theorem Spire.stall_loads (x : Spire) (t n : Nat) : (x.stall t n).loads = x.loads.map fun l => { l with at_ := later t n l.at_ } := by
  unfold Spire.stall
  split
  · rename_i hn
    subst hn
    simp
  · rfl

theorem Spire.stall_macFree (x : Spire) (t n : Nat) : (x.stall t n).macFree = later t n x.macFree := by
  unfold Spire.stall
  split
  · rename_i hn
    rw [hn, later_zero]
  · rfl

theorem Spire.stall_setFinal (x : Spire) {t : Nat} (ht : 0 < t) (n k : Nat) : Tbl.get 0 k (x.stall t n).setFinal = later t n (Tbl.get 0 k x.setFinal) := by
  unfold Spire.stall
  split
  · rename_i hn
    rw [hn, later_zero]
  · exact Tbl.get_map_val (f := later t n) (later_early n ht) k x.setFinal

theorem Spire.stall_setRead (x : Spire) {t : Nat} (ht : 0 < t) (n k : Nat) : Tbl.get 0 k (x.stall t n).setRead = later t n (Tbl.get 0 k x.setRead) := by
  unfold Spire.stall
  split
  · rename_i hn
    rw [hn, later_zero]
  · exact Tbl.get_map_val (f := later t n) (later_early n ht) k x.setRead

theorem State.stall_spire (s : State) (sp t n : Nat) : (s.stall sp t n).spire sp = (s.spire sp).stall t n := by
  unfold State.stall
  split
  · rename_i hn
    subst hn
    rfl
  · exact (State.onCore_spire _ (by rfl) _).trans (State.spire_onSpire ..)

theorem State.stall_spire_ne (s : State) {sp i : Nat} (t n : Nat) (h : i ≠ sp) : (s.stall sp t n).spire i = s.spire i := by
  unfold State.stall
  split
  · rfl
  · exact (State.onCore_spire _ (by rfl) _).trans (State.spire_onSpire_ne _ _ h)

theorem State.stall_twrites (s : State) (sp t n : Nat) : (s.stall sp t n).core.twrites =
    s.core.twrites.map fun w => if w.spire = sp then { w with from_ := later t n w.from_, at_ := later t n w.at_ } else w := by
  unfold State.stall
  split
  · rename_i hn
    subst hn
    simp
  · rfl

/-- With no write under way, a stall changes the Spire alone. -/
theorem State.stall_tiles {s : State} (h : s.core.twrites = []) (sp t n : Nat) : (s.stall sp t n).tiles = s.tiles := by
  unfold State.stall
  split
  · rfl
  · show ({ s with core := { s.core with spires := [], twrites := s.core.twrites.map _ }, free := 0 } : State) = s.tiles
    rw [h, List.map_nil, ← h]
    rfl

/-! What the slots do leaves every context as it is. -/

theorem State.onSpire_ctx (s : State) (sp : Nat) {f : Spire → Spire} (i k : Nat) (hf : ∀ x, (f x).ctxs = x.ctxs) :
    ((s.onSpire sp f).spire i).ctx k = (s.spire i).ctx k := by
  by_cases hi : i = sp
  · subst hi
    rw [State.spire_onSpire, Spire.ctx, hf, Spire.ctx]
  · rw [State.spire_onSpire_ne _ _ hi]

theorem State.noteReads_ctx (s : State) (sp : Nat) (reads : List (Nat × Nat × Nat)) (ctx i k : Nat) :
    ((s.noteReads sp reads ctx).spire i).ctx k = (s.spire i).ctx k := by
  unfold State.noteReads
  dsimp only
  split
  · rfl
  · have count : ∀ f, ((s.onCtr sp f).spire i).ctx k = (s.spire i).ctx k := fun f => State.onSpire_ctx s sp i k (by intros; rfl)
    split
    · exact count _
    · exact (Spire.eq_of_unloaded (Spire.ctx · k) (fun _ => rfl) (State.freeze_unloaded ..)).trans (count _)

theorem State.breakSpans_spire (s : State) (sp id tile a n from_ i : Nat) : (s.breakSpans sp id tile a n from_).spire i = s.spire i := by
  unfold State.breakSpans
  dsimp only
  split
  · rfl
  · rfl

@[simp] theorem State.timedWrite_spire (s : State) (sp tile a from_ at_ : Nat) (bs : List Byte) (i : Nat) :
    (s.timedWrite sp tile a from_ at_ bs).spire i = s.spire i := by
  unfold State.timedWrite
  exact State.breakSpans_spire ..

theorem macTile_ctx (c : StreamCmd) (m : MacOp) (a w : Store) (t id : Nat) (s : State) (tile i k : Nat) :
    ((macTile c m a w t id s tile).spire i).ctx k = (s.spire i).ctx k := by
  unfold macTile
  dsimp only
  rw [State.noteReads_ctx]
  exact State.onSpire_ctx _ _ i k (by intros; rfl)

theorem readoutTile_ctx (c : StreamCmd) (e : Elem) (t id : Nat) (s : State) (tile i k : Nat) :
    ((readoutTile c e t id s tile).spire i).ctx k = (s.spire i).ctx k := by
  unfold readoutTile
  dsimp only
  rw [State.noteReads_ctx]
  refine (State.onSpire_ctx _ _ i k (by intros; rfl)).trans ?_
  exact foldl_keeps (fun a : State => (a.spire i).ctx k) _ (fun a r => congrArg (Spire.ctx · k) (State.timedWrite_spire ..)) _ _

theorem vopTile_ctx (c : StreamCmd) (o : VopOp) (t id : Nat) (s : State) (tile i k : Nat) :
    ((vopTile c o t id s tile).spire i).ctx k = (s.spire i).ctx k := by
  unfold vopTile
  dsimp only
  split
  · exact State.onSpire_ctx _ _ i k (by intros; rfl)
  · exact State.onSpire_ctx _ _ i k (by intros; rfl)

theorem vstTile_ctx (c : StreamCmd) (e : Elem) (t id : Nat) (s : State) (tile i k : Nat) :
    ((vstTile c e t id s tile).spire i).ctx k = (s.spire i).ctx k := by
  unfold vstTile
  refine foldl_keeps (fun a : State => (a.spire i).ctx k) _ (fun a r => ?_) _ _
  exact (State.onSpire_ctx _ _ i k (by intros; rfl)).trans (congrArg (Spire.ctx · k) (State.timedWrite_spire ..))

theorem State.doSlot_ctx (s : State) (c : StreamCmd) (t id i k : Nat) : ((s.doSlot c t id).spire i).ctx k = (s.spire i).ctx k := by
  unfold State.doSlot
  split
  · unfold State.doMac
    split
    · rfl
    · exact foldl_keeps (fun a : State => (a.spire i).ctx k) _ (fun _ _ => macTile_ctx ..) _ _
  · split
    · unfold State.doReadout
      split
      · rfl
      · exact foldl_keeps (fun a : State => (a.spire i).ctx k) _ (fun _ _ => readoutTile_ctx ..) _ _
    · split
      · exact foldl_keeps (fun a : State => (a.spire i).ctx k) _ (fun _ _ => vopTile_ctx ..) _ _
      · split
        · exact State.onSpire_ctx _ _ i k (by intros; rfl)
        · split
          · unfold State.doVst
            split
            · exact foldl_keeps (fun a : State => (a.spire i).ctx k) _ (fun _ _ => vstTile_ctx ..) _ _
            · rfl
          · split
            · exact foldl_keeps (fun a : State => (a.spire i).ctx k) _ (by intros; rfl) _ _
            · exact foldl_keeps (fun a : State => (a.spire i).ctx k) _ (by intros; rfl) _ _

/-! The start. -/

/-- The state in which the effect of a command that starts is worked out. -/
def State.started (t : State) (d : StreamCmd) (pod : Bool) (n : Nat) : State :=
  (t.settleRegs d.sp.val n).takeFree.2.onSpire d.sp.val fun x => x.startSlot d pod n

/-- A slot command that finds the tag it needs. -/
theorem State.startSlot_eq {t : State} {d : StreamCmd} {pod : Bool} {n : Nat} (off : Nat) (h : (t.settleRegs d.sp.val n).takeFree.2.tagOk d = true) :
    t.startSlot d pod n off = ((t.started d pod n).doSlot d n (t.settleRegs d.sp.val n).free).stall d.sp.val (n + 1) d.slips := by
  have go : ¬(!(t.settleRegs d.sp.val n).takeFree.2.tagOk d) = true := by simp [h]
  exact if_neg go

theorem State.started_spire (t : State) (d : StreamCmd) (pod : Bool) (n : Nat) :
    (t.started d pod n).spire d.sp.val = ((t.settleRegs d.sp.val n).spire d.sp.val).startSlot d pod n := State.spire_onSpire ..

/-- A command has started, and its effect in the tiles is yet to be worked out: they are as they were, and so are the other Spires. -/
structure Started (s u : State) (d : StreamCmd) (k : Ctx) (pod : Bool) (n : Nat) : Prop where
  tiles : u.tiles = s.tiles
  others : ∀ i, i ≠ d.sp.val → u.spire i = s.spire i
  own : ∃ y, u.spire d.sp.val = Spire.startSlot y d pod n ∧ { y with
    ctxs := (s.spire d.sp.val).ctxs, readFree := (s.spire d.sp.val).readFree, lastRead := (s.spire d.sp.val).lastRead } = s.spire d.sp.val
  ctx : ∃ fin stop, (u.spire d.sp.val).ctx d.ctx.val = { k.pass pod n fin with issueEnd := stop }

theorem Started.unstarted {s u : State} {d : StreamCmd} {k : Ctx} {pod : Bool} {n : Nat} (h : Started s u d k pod n) :
    (u.spire d.sp.val).unstarted = (s.spire d.sp.val).unstarted := by
  obtain ⟨y, hy, hr⟩ := h.own
  rw [hy, Spire.startSlot_unstarted]
  have e := congrArg Spire.unstarted hr
  exact e

section

variable {s t : State} {p : Nat} {c : StreamCmd} {k : Ctx} (h : Ready s p c) (f : Fetched s t c k)

include h f

/-- A slot command at the head of its queue starts in a Spire that rests, where it finds its tag and its banks; then its own bank
slips stall the Spire. -/
theorem Fetched.feed_slot {d : StreamCmd} {off placed : Nat} (e : s.reads p c = some t) (hb : k.backlog = []) (hq : k.queue = [⟨d, off, placed⟩])
    (hfin : k.finished = (ctxOf s c).finished) (hp : placed = readOf s c) (hsp : d.sp = c.sp) (hcx : d.ctx = c.ctx)
    (slot : opControl d.op = false) (tag : s.tagOk d = true) (meets : s.loadMeets d (s.part p).ccyc = false) :
    ∃ u, Started s u d k (s.part p).plan.pod (s.part p).ccyc ∧
      s.feed c = (u.doSlot d (s.part p).ccyc s.free).stall c.sp.val ((s.part p).ccyc + 1) d.slips ∧
      ∃ fin stop, ctxOf (s.feed c) c = { k.pass (s.part p).plan.pod (s.part p).ccyc 0 with finished := fin, issueEnd := stop } := by
  have same : t.tiles = s.tiles := f.only.tiles
  have hv : (t.spire c.sp.val).vwrites = [] := (f.spire_eq Spire.vwrites fun _ _ _ _ => rfl).trans h.rested.written.1
  have hw : (t.spire c.sp.val).pwrites = [] := (f.spire_eq Spire.pwrites fun _ _ _ _ => rfl).trans h.rested.written.2.1
  have hfree : t.free = s.free := (congrArg State.free f.only.outside :)
  have hset : t.settleRegs d.sp.val (s.part p).ccyc = t.setSpire c.sp.val (t.spire c.sp.val) := by
    rw [hsp]
    exact State.settleRegs_rested hv hw _
  have tag' : (t.settleRegs d.sp.val (s.part p).ccyc).takeFree.2.tagOk d = true := by
    rw [hset, ← tag]
    exact State.eq_of_tiles (·.tagOk d) (fun _ => rfl) same
  have meets' : t.loadMeets d (s.part p).ccyc = false := by
    rw [← meets]
    exact State.eq_of_tiles (·.loadMeets d (s.part p).ccyc) (fun _ => rfl) same
  have ns : d.op ≠ 0x32 := fun ho => by simp [ho, opControl] at slot
  have es := f.startNext h hq hfin hp ns
  rw [slot, if_neg (by decide), meets', if_neg (by decide), State.startSlot_eq off tag'] at es
  have own : (t.started d (s.part p).plan.pod (s.part p).ccyc).spire c.sp.val = (t.spire c.sp.val).startSlot d (s.part p).plan.pod (s.part p).ccyc := by
    rw [← hsp, State.started_spire, hset, hsp, State.spire_setSpire]
  have started : Started s (t.started d (s.part p).plan.pod (s.part p).ccyc) d k (s.part p).plan.pod (s.part p).ccyc := by
    refine ⟨?_, fun i hi => ?_, ⟨t.spire c.sp.val, by rw [hsp]; exact own, by rw [hsp]; exact f.rest⟩, ?_⟩
    · rw [← same, State.started, hset]
      rfl
    · rw [State.started, State.spire_onSpire_ne _ _ hi, hset]
      rw [hsp] at hi
      exact (State.spire_setSpire_ne _ _ hi).trans (f.only.others i hi)
    · obtain ⟨fin, stop, he⟩ := (t.spire c.sp.val).startSlot_ctx d (s.part p).plan.pod (s.part p).ccyc
      refine ⟨fin, stop, ?_⟩
      rw [hsp, own, he, hcx, show (t.spire c.sp.val).ctx c.ctx.val = k from f.ctx]
  have free : (t.settleRegs d.sp.val (s.part p).ccyc).free = s.free := by
    rw [hset, ← hfree]
    rfl
  rw [free, hsp] at es
  have ctxs : ∀ i, (((t.started d (s.part p).plan.pod (s.part p).ccyc).doSlot d (s.part p).ccyc s.free).stall c.sp.val ((s.part p).ccyc + 1) d.slips |>.spire
      c.sp.val).ctx i = Ctx.stalled (((t.started d (s.part p).plan.pod (s.part p).ccyc).spire c.sp.val).ctx i) ((s.part p).ccyc + 1) d.slips := fun i => by
    rw [State.stall_spire, Spire.stall_ctx _ (Nat.succ_pos _), State.doSlot_ctx]
  obtain ⟨fin, stop, own'⟩ := started.ctx
  rw [hsp, hcx] at own'
  have quiet : Quiet ((t.started d (s.part p).plan.pod (s.part p).ccyc).doSlot d (s.part p).ccyc s.free |>.stall c.sp.val ((s.part p).ccyc + 1) d.slips)
      c.sp.val := by
    intro i hi
    rw [ctxs]
    by_cases hne : i = c.ctx.val
    · rw [hne, own']
      exact ⟨hb, by simp [Ctx.stalled, Ctx.pass, hq]⟩
    · rw [own, Spire.startSlot_ctx_ne _ _ _ _ (by rwa [hcx])]
      exact f.idle h hi hne
  rw [f.feed_starts h e es quiet]
  refine ⟨_, started, rfl, later ((s.part p).ccyc + 1) d.slips (max k.finished fin), later ((s.part p).ccyc + 1) d.slips stop, ?_⟩
  rw [ctxOf, ctxs, own']
  rfl

end

end Sys2Proof.Machine
end

section
/-! SUPPORT. What is done tile by tile; SETP, SETO and the implicit SETO of LOOP_END. -/

namespace Sys2Proof.Machine

theorem exec_setp (c : StreamCmd) (s : State) : exec (.setp c) s = .next (s.feed c) := rfl
theorem exec_seto (c : StreamCmd) (s : State) : exec (.seto c) s = .next (s.feed c) := rfl

/-! Tiles. -/

theorem tileOf_inj {sp i j : Nat} (hi : i < 256) (hj : j < 256) (h : tileOf sp i = tileOf sp j) : i = j := by
  unfold tileOf at h
  omega

theorem tilesOf_nodup (sp : Nat) : (tilesOf sp).Nodup :=
  List.Nodup.map_on (fun _ hi _ hj h => tileOf_inj (List.mem_range.mp hi) (List.mem_range.mp hj) h) List.nodup_range

theorem State.activeTiles_nodup (s : State) (c : StreamCmd) : (s.activeTiles c).Nodup := (tilesOf_nodup _).filter _

/-- Work done tile by tile, where each tile's work goes by what the tiles before it leave alone. -/
theorem foldl_tilewise {σ β : Type} {f : σ → Nat → σ} {obs new : σ → Nat → β} (same : ∀ s x, obs (f s x) x = new s x)
    (other : ∀ s x y, y ≠ x → obs (f s x) y = obs s y) (alone : ∀ s x y, y ≠ x → new (f s x) y = new s y) {l : List Nat} (nodup : l.Nodup) (s : σ) (y : Nat) :
    obs (l.foldl f s) y = if y ∈ l then new s y else obs s y := by
  induction l generalizing s with
  | nil => rfl
  | cons x l ih =>
    obtain ⟨hx, hl⟩ := List.nodup_cons.mp nodup
    rw [List.foldl_cons, ih hl]
    by_cases hy : y = x
    · subst hy
      rw [if_neg hx, if_pos List.mem_cons_self, same]
    · simp only [List.mem_cons, hy, false_or, alone _ _ _ hy, other _ _ _ hy]

/-- The key of a context's predicate or offset in a tile names the tile, the context and the number. -/
theorem tileKey_inj {tile tile' ctx ctx' i i' : Nat} (hc : ctx < 8) (hc' : ctx' < 8) (hi : i < 8) (hi' : i' < 8) :
    (tile * 8 + ctx) * 8 + i = (tile' * 8 + ctx') * 8 + i' ↔ tile = tile' ∧ ctx = ctx' ∧ i = i' := by
  omega

theorem fld_lt {n : Nat} (w : BitVec n) (hi lo : Nat) : fld w hi lo < 2 ^ (hi + 1 - lo) := Nat.mod_lt _ (by positivity)

/-! SETO. -/

/-- A SETO in one tile. -/
theorem setoTile_off (c : StreamCmd) (s : State) (x : Nat) {tile ctx i : Nat} (hc : ctx < 8) (hi : i < 8) : (setoTile c s x).off tile ctx i =
    if tile = x ∧ ctx = c.ctx.val ∧ i = fld c.w0 20 18 then (setoValue s c x % 0x40000).toNat else s.off tile ctx i := by
  have mode : fld c.w0 22 21 < 4 := fld_lt ..
  have value : ∀ f : Core → Core, (∀ k, f k = { k with offs := Tbl.put 0 ((x * 8 + c.ctx.val) * 8 + fld c.w0 20 18) (setoValue s c x % 0x40000).toNat k.offs }) →
      (s.onCore f).off tile ctx i = if tile = x ∧ ctx = c.ctx.val ∧ i = fld c.w0 20 18 then (setoValue s c x % 0x40000).toNat else s.off tile ctx i := by
    intro f hf
    simp only [State.off, State.onCore, hf, Tbl.get_put, tileKey_inj hc c.ctx.isLt hi (fld_lt c.w0 20 18)]
  unfold setoTile
  refine value _ fun k => ?_
  dsimp only [setoValue, ctxOf]
  generalize fld c.w0 22 21 = m at mode
  match m, mode with
  | 0, _ => rfl
  | 1, _ => rfl
  | 2, _ => rfl
  | 3, _ => rfl

/-- What a SETO writes in a tile goes by the tile's own offset and by what no tile holds. -/
theorem setoValue_congr {s t : State} {c : StreamCmd} {tile : Nat} (off : t.off tile c.ctx.val (fld c.w0 20 18) = s.off tile c.ctx.val (fld c.w0 20 18))
    (eh : (ctxOf t c).eh = (ctxOf s c).eh) (sel : t.selOf c.sp.val = s.selOf c.sp.val) (plan : t.planOf c.sp.val = s.planOf c.sp.val) :
    setoValue t c tile = setoValue s c tile := by
  unfold setoValue
  rw [off, eh, sel, plan]

theorem State.doSeto_off (s : State) (c : StreamCmd) (tile : Nat) {ctx i : Nat} (hc : ctx < 8) (hi : i < 8) : (s.doSeto c).off tile ctx i =
    if tile ∈ s.activeTiles c ∧ ctx = c.ctx.val ∧ i = fld c.w0 20 18 then (setoValue s c tile % 0x40000).toNat else s.off tile ctx i := by
  have other : ∀ (a : State) x y ctx i, ctx < 8 → i < 8 → y ≠ x → (setoTile c a x).off y ctx i = a.off y ctx i := fun a x y ctx i hc hi hy => by
    rw [setoTile_off c a x hc hi, if_neg fun e => hy e.1]
  have e := foldl_tilewise (f := setoTile c) (obs := fun a y => a.off y ctx i)
    (new := fun a y => if ctx = c.ctx.val ∧ i = fld c.w0 20 18 then (setoValue a c y % 0x40000).toNat else a.off y ctx i)
    (fun a x => by simp only [setoTile_off c a x hc hi, true_and])
    (fun a x y hy => other a x y ctx i hc hi hy)
    (fun a x y hy => by
      simp only [other a x y ctx i hc hi hy, setoValue_congr (s := a) (t := setoTile c a x) (other a x y _ _ c.ctx.isLt (fld_lt ..) hy) rfl rfl rfl])
    (s.activeTiles_nodup c) s tile
  refine e.trans ?_
  by_cases hm : tile ∈ s.activeTiles c <;> simp [hm]

/-- A state but for its Spires, its offsets and the count of free values. -/
def State.offless (s : State) : State := { s.tiles with core := { s.tiles.core with offs := [] } }

theorem State.doSeto_offless (s : State) (c : StreamCmd) : (s.doSeto c).offless = s.offless :=
  foldl_keeps State.offless _ (by intros; rfl) _ _

/-! SETP. -/

/-- The bit that a SETP writes, by the comparison, INV, COMB and p[PSRC]. -/
theorem setp_bit (r inv comb src : Bool) : ((r != inv) && (!comb || src)) = true ↔ (r = true ↔ inv = false) ∧ (comb = true → src = true) := by
  revert r inv comb src
  decide

/-- A SETP in one tile. -/
theorem setpTile_pred (c : StreamCmd) (s : State) (x : Nat) {tile ctx i : Nat} (hc : ctx < 8) (hi : i < 8) : (setpTile c s x).pred tile ctx i = true ↔
    if tile = x ∧ ctx = c.ctx.val ∧ i = fld c.w0 20 18 then
      (setpCompare c x ↔ bit1 c.w0 25 = false) ∧ (bit1 c.w0 24 = true → s.pred x c.ctx.val (fld c.w0 23 21) = true)
    else s.pred tile ctx i = true := by
  have value : ∀ (v : Bool) (f : Core → Core), (∀ k, f k = { k with preds := Tbl.put true ((x * 8 + c.ctx.val) * 8 + fld c.w0 20 18) v k.preds }) →
      (s.onCore f).pred tile ctx i = if tile = x ∧ ctx = c.ctx.val ∧ i = fld c.w0 20 18 then v else s.pred tile ctx i := by
    intro v f hf
    simp only [State.pred, State.onCore, hf, Tbl.get_put, tileKey_inj hc c.ctx.isLt hi (fld_lt c.w0 20 18)]
  unfold setpTile
  rw [value _ _ fun _ => rfl]
  split
  · have test : (if fld c.w1 5 3 = 0 then decide (coord x (fld c.w1 2 0) < fld c.w2 11 0)
        else if fld c.w1 5 3 = 1 then decide (fld c.w2 11 0 ≤ coord x (fld c.w1 2 0))
        else if fld c.w1 5 3 = 2 then decide (coord x (fld c.w1 2 0) = fld c.w2 11 0)
        else if fld c.w1 5 3 = 3 then decide (coord x (fld c.w1 2 0) ≠ fld c.w2 11 0)
        else decide (coord x (fld c.w1 2 0) &&& fld c.w2 27 16 = fld c.w2 11 0)) = true ↔ setpCompare c x := by
      unfold setpCompare
      dsimp only
      generalize fld c.w1 5 3 = m
      match m with
      | 0 => simp
      | 1 => simp
      | 2 => simp
      | 3 => simp
      | n + 4 => simp
    rw [← test]
    exact setp_bit ..
  · rfl

theorem State.doSetp_pred (s : State) (c : StreamCmd) (tile : Nat) {ctx i : Nat} (hc : ctx < 8) (hi : i < 8) : (s.doSetp c).pred tile ctx i = true ↔
    if tile ∈ s.activeTiles c ∧ ctx = c.ctx.val ∧ i = fld c.w0 20 18 then
      (setpCompare c tile ↔ bit1 c.w0 25 = false) ∧ (bit1 c.w0 24 = true → s.pred tile c.ctx.val (fld c.w0 23 21) = true)
    else s.pred tile ctx i = true := by
  have other : ∀ (a : State) x y ctx i, ctx < 8 → i < 8 → y ≠ x → (setpTile c a x).pred y ctx i = a.pred y ctx i := fun a x y ctx i hc hi hy => by
    rw [Bool.eq_iff_iff, setpTile_pred c a x hc hi, if_neg fun e => hy e.1]
  have e := foldl_tilewise (f := setpTile c) (obs := fun a y => a.pred y ctx i) (new := fun a y => (setpTile c a y).pred y ctx i)
    (fun _ _ => rfl) (fun a x y hy => other a x y ctx i hc hi hy)
    (fun a x y hy => by
      rw [Bool.eq_iff_iff, setpTile_pred c _ y hc hi, setpTile_pred c _ y hc hi, other a x y ctx i hc hi hy,
        other a x y c.ctx.val (fld c.w0 23 21) c.ctx.isLt (fld_lt ..) hy])
    (s.activeTiles_nodup c) s tile
  rw [show (s.doSetp c).pred tile ctx i = _ from e]
  by_cases hm : tile ∈ s.activeTiles c
  · rw [if_pos hm, setpTile_pred c s tile hc hi]
    simp only [hm, true_and]
  · simp only [hm, false_and, if_false]

/-- A state but for its Spires, its predicates and the count of free values. -/
def State.predless (s : State) : State := { s.tiles with core := { s.tiles.core with preds := [] } }

theorem State.doSetp_predless (s : State) (c : StreamCmd) : (s.doSetp c).predless = s.predless :=
  foldl_keeps State.predless _ (by intros; rfl) _ _

theorem State.doSlot_seto (s : State) {d : StreamCmd} (ho : d.op = 0x26) (t id : Nat) : s.doSlot d t id = s.doSeto d := by simp [State.doSlot, ho]
theorem State.doSlot_setp (s : State) {d : StreamCmd} (ho : d.op = 0x25) (t id : Nat) : s.doSlot d t id = s.doSetp d := by simp [State.doSlot, ho]

/-- A SETO needs no tag and no bank. -/
theorem State.seto_free (s : State) {d : StreamCmd} (ho : d.op = 0x26) (t : Nat) :
    opControl d.op = false ∧ s.tagOk d = true ∧ s.loadMeets d t = false := by simp [State.tagOk, State.loadMeets, opControl, ho]

/-! The commands in a Spire that rests. -/

section

variable {s : State} {p : Nat} {c : StreamCmd} (h : Ready s p c)

include h

/-- A slot command that is no VLD starts in the ccyc it is offered in. -/
theorem Ready.feed_slot (lo : 0x20 ≤ c.op) (hi : c.op < 0x27) (tag : s.tagOk c = true) (meets : s.loadMeets c (s.part p).ccyc = false) :
    ∃ u k, Started s u c k (s.part p).plan.pod (s.part p).ccyc ∧ k.eh = (ctxOf s c).eh ∧
      s.feed c = (u.doSlot c (s.part p).ccyc s.free).stall c.sp.val ((s.part p).ccyc + 1) c.slips := by
  obtain ⟨t, e, f⟩ := h.reads_execute (by simp [opExecute]; omega)
  obtain ⟨u, started, fed, -⟩ := f.feed_slot h e h.ctx_idle.1 rfl rfl rfl rfl rfl (by simp [opControl]; omega) tag meets
  exact ⟨u, _, started, rfl, fed⟩

omit h in
/-- What a context's command finds in its context as it starts. -/
theorem Started.eh {u : State} {d : StreamCmd} {k : Ctx} {pod : Bool} {n : Nat} (st : Started s u d k pod n) : (ctxOf u d).eh = k.eh := by
  obtain ⟨fin, stop, e⟩ := st.ctx
  rw [ctxOf, e]
  rfl

omit h in
/-- No write is under way as a command of a resting Spire starts. -/
theorem Started.twrites (h : Ready s p c) {u : State} {d : StreamCmd} {k : Ctx} {pod : Bool} {n : Nat} (st : Started s u d k pod n) : u.core.twrites = [] :=
  (State.eq_of_tiles (·.core.twrites) (fun _ => rfl) st.tiles).trans h.clean.2.2.2

/-- What a SETO that has started leaves. -/
theorem Started.doSeto {u : State} {d : StreamCmd} {k : Ctx} {pod : Bool} {n : Nat} (st : Started s u d k pod n) (eh : k.eh = (ctxOf s d).eh) (sp t m : Nat) :
    (∀ tile ctx i, ctx < 8 → i < 8 → ((u.doSeto d).stall sp t m).off tile ctx i =
      if tile ∈ s.activeTiles d ∧ ctx = d.ctx.val ∧ i = fld d.w0 20 18 then (setoValue s d tile % 0x40000).toNat else s.off tile ctx i) ∧
      SameOutside s ((u.doSeto d).stall sp t m) ∧
      { ((u.doSeto d).stall sp t m).core with spires := s.core.spires, offs := s.core.offs } = s.core := by
  have rest : (u.doSeto d).core.twrites = [] :=
    (congrArg (·.core.twrites) (u.doSeto_offless d) : _).trans (st.twrites h)
  have tiles := State.stall_tiles rest sp t m
  have offless : ((u.doSeto d).stall sp t m).offless = s.offless := by
    have a : ((u.doSeto d).stall sp t m).offless = (u.doSeto d).offless := State.eq_of_tiles State.offless (fun _ => rfl) tiles
    have b : u.offless = s.offless := State.eq_of_tiles State.offless (fun _ => rfl) st.tiles
    rw [a, State.doSeto_offless, b]
  have active : u.activeTiles d = s.activeTiles d := State.eq_of_tiles (·.activeTiles d) (fun _ => rfl) st.tiles
  have off : ∀ tile ctx i, u.off tile ctx i = s.off tile ctx i := fun tile ctx i => State.eq_of_tiles (·.off tile ctx i) (fun _ => rfl) st.tiles
  refine ⟨fun tile ctx i hc hi => ?_, ?_, ?_⟩
  · have value : setoValue u d tile = setoValue s d tile := setoValue_congr (off ..) (st.eh.trans eh)
      (State.eq_of_tiles (·.selOf d.sp.val) (fun _ => rfl) st.tiles) (State.eq_of_tiles (·.planOf d.sp.val) (fun _ => rfl) st.tiles)
    rw [State.eq_of_tiles (·.off tile ctx i) (fun _ => rfl) tiles, State.doSeto_off u d tile hc hi, active, value, off]
  · have e := congrArg (fun a : State => ({ a with core := s.core, free := s.free } : State)) offless
    exact e
  · have e := congrArg (fun a : State => ({ a.core with spires := s.core.spires, offs := s.core.offs } : Core)) offless
    exact e

/-- What a SETP that has started leaves. -/
theorem Started.doSetp {u : State} {d : StreamCmd} {k : Ctx} {pod : Bool} {n : Nat} (st : Started s u d k pod n) (sp t m : Nat) :
    (∀ tile ctx i, ctx < 8 → i < 8 → (((u.doSetp d).stall sp t m).pred tile ctx i = true ↔
      if tile ∈ s.activeTiles d ∧ ctx = d.ctx.val ∧ i = fld d.w0 20 18 then
        (setpCompare d tile ↔ bit1 d.w0 25 = false) ∧ (bit1 d.w0 24 = true → s.pred tile d.ctx.val (fld d.w0 23 21) = true)
      else s.pred tile ctx i = true)) ∧
      SameOutside s ((u.doSetp d).stall sp t m) ∧
      { ((u.doSetp d).stall sp t m).core with spires := s.core.spires, preds := s.core.preds } = s.core := by
  have rest : (u.doSetp d).core.twrites = [] :=
    (congrArg (·.core.twrites) (u.doSetp_predless d) : _).trans (st.twrites h)
  have tiles := State.stall_tiles rest sp t m
  have predless : ((u.doSetp d).stall sp t m).predless = s.predless := by
    have a : ((u.doSetp d).stall sp t m).predless = (u.doSetp d).predless := State.eq_of_tiles State.predless (fun _ => rfl) tiles
    have b : u.predless = s.predless := State.eq_of_tiles State.predless (fun _ => rfl) st.tiles
    rw [a, State.doSetp_predless, b]
  have active : u.activeTiles d = s.activeTiles d := State.eq_of_tiles (·.activeTiles d) (fun _ => rfl) st.tiles
  have pred : ∀ tile ctx i, u.pred tile ctx i = s.pred tile ctx i := fun tile ctx i => State.eq_of_tiles (·.pred tile ctx i) (fun _ => rfl) st.tiles
  refine ⟨fun tile ctx i hc hi => ?_, ?_, ?_⟩
  · rw [State.eq_of_tiles (·.pred tile ctx i) (fun _ => rfl) tiles, State.doSetp_pred u d tile hc hi, active, pred, pred]
  · have e := congrArg (fun a : State => ({ a with core := s.core, free := s.free } : State)) predless
    exact e
  · have e := congrArg (fun a : State => ({ a.core with spires := s.core.spires, preds := s.core.preds } : Core)) predless
    exact e

end

/-- Settles O17: SETP and SETO work tile by tile, and a tile's work goes by what the others leave alone. -/
theorem tileRegistersSet : Obligations.TileRegistersSet := by
  intro s p c h
  simp only [exec_setp, exec_seto]
  refine ⟨fun ho => ⟨_, rfl, ?_⟩, fun ho => ⟨_, rfl, ?_⟩⟩
  · obtain ⟨u, k, st, -, fed⟩ := h.feed_slot (by omega) (by omega) (by simp [State.tagOk, ho]) (by simp [State.loadMeets, ho])
    rw [fed, u.doSlot_setp ho]
    obtain ⟨pred, outside, core⟩ := st.doSetp h c.sp.val ((s.part p).ccyc + 1) c.slips
    refine ⟨fun tile ctx i hc hi => ⟨fun hit => ?_, fun miss => ?_⟩, outside, core⟩
    · rw [pred tile ctx i hc hi, if_pos hit, hit.2.1]
    · rw [Bool.eq_iff_iff, pred tile ctx i hc hi, if_neg miss]
  · obtain ⟨u, k, st, eh, fed⟩ := h.feed_slot (by omega) (by omega) (by simp [State.tagOk, ho]) (by simp [State.loadMeets, ho])
    rw [fed, u.doSlot_seto ho]
    exact st.doSeto h eh c.sp.val ((s.part p).ccyc + 1) c.slips

/-! The implicit SETO. -/

/-- The fields of the first word of an implicit SETO. -/
theorem implicitSeto_bits {p o : Nat} (hp : p < 8) (ho : o < 8) : fieldOf (0x26 + p * 1024 + o * 262144 + 4194304) 7 0 = 0x26 ∧
    fieldOf (0x26 + p * 1024 + o * 262144 + 4194304) 12 10 = p ∧ fieldOf (0x26 + p * 1024 + o * 262144 + 4194304) 20 18 = o ∧
    fieldOf (0x26 + p * 1024 + o * 262144 + 4194304) 22 21 = 2 := by
  simp only [fieldOf, Nat.shiftRight_eq_div_pow]
  omega

theorem fld_of_toNat {n v : Nat} {w : BitVec n} (h : w.toNat = v) {hi lo : Nat} : fld w hi lo = fieldOf v hi lo := by rw [fld, h]

theorem StreamCmd.op_of_w0 {d : StreamCmd} {v : Nat} (h : d.w0.toNat = v) : d.op = fieldOf v 7 0 := fld_of_toNat h

theorem StreamCmd.psel_of_w0 {d : StreamCmd} {v : Nat} (h : d.w0.toNat = v) : d.psel = fieldOf v 12 10 := fld_of_toNat h

/-- A SETO of mode 2 adds to the offset that it writes. -/
theorem setoValue_adds {d : StreamCmd} {dst a : Nat} (s : State) (tile : Nat) (mode : fld d.w0 22 21 = 2) (hd : fld d.w0 20 18 = dst) (ha : fld d.w2 17 0 = a) :
    setoValue s d tile = (s.off tile d.ctx.val dst : Int) + (a : Int) := by
  unfold setoValue
  rw [mode, hd, ha]
  rfl

theorem toNat_sum_mod (a b : Nat) : (((a : Int) + (b : Int)) % 0x40000).toNat = (a + b) % 0x40000 := by
  omega

section

variable (c : StreamCmd)

theorem StreamCmd.psel_lt : c.psel < 8 := fld_lt ..
theorem StreamCmd.osel_lt : c.osel < 8 := fld_lt ..

/-- The words of a command do not name its place. (Stated for any words: on those of an implicit SETO the check would count numbers up.) -/
theorem StreamCmd.words_place (w0 w1 w2 w3 : W32) : ({ c with w0 := w0, w1 := w1, w2 := w2, w3 := w3 } : StreamCmd).sp = c.sp ∧
    ({ c with w0 := w0, w1 := w1, w2 := w2, w3 := w3 } : StreamCmd).ctx = c.ctx := ⟨rfl, rfl⟩

theorem implicitSeto_sp : c.implicitSeto.sp = c.sp := (StreamCmd.words_place c _ _ _ _).1
theorem implicitSeto_ctx : c.implicitSeto.ctx = c.ctx := (StreamCmd.words_place c _ _ _ _).2

theorem implicitSeto_ctxOf (s : State) : ctxOf s c.implicitSeto = ctxOf s c := by
  rw [ctxOf, ctxOf, implicitSeto_sp, implicitSeto_ctx]

theorem implicitSeto_w0 : c.implicitSeto.w0.toNat = 0x26 + c.psel * 1024 + c.osel * 262144 + 4194304 := by
  have hp := StreamCmd.psel_lt c
  have ho := StreamCmd.osel_lt c
  simp only [StreamCmd.implicitSeto, BitVec.toNat_ofNat]
  omega

theorem implicitSeto_op : c.implicitSeto.op = 0x26 :=
  (StreamCmd.op_of_w0 (implicitSeto_w0 c)).trans (implicitSeto_bits (StreamCmd.psel_lt c) (StreamCmd.osel_lt c)).1

theorem implicitSeto_psel : c.implicitSeto.psel = c.psel :=
  (StreamCmd.psel_of_w0 (implicitSeto_w0 c)).trans (implicitSeto_bits (StreamCmd.psel_lt c) (StreamCmd.osel_lt c)).2.1

/-- It writes O[OSEL], in mode 2, adding AMOUNT. -/
theorem implicitSeto_fields : fld c.implicitSeto.w0 20 18 = c.osel ∧ fld c.implicitSeto.w0 22 21 = 2 ∧ fld c.implicitSeto.w2 17 0 = fld c.w1 17 0 := by
  have ha : fld c.w1 17 0 < 2 ^ 18 := fld_lt ..
  have h2 : c.implicitSeto.w2.toNat = fld c.w1 17 0 := by
    simp only [StreamCmd.implicitSeto, BitVec.toNat_ofNat]
    omega
  obtain ⟨-, -, dst, mode⟩ := implicitSeto_bits (StreamCmd.psel_lt c) (StreamCmd.osel_lt c)
  exact ⟨(fld_of_toNat (implicitSeto_w0 c)).trans dst, (fld_of_toNat (implicitSeto_w0 c)).trans mode, (fld_of_toNat h2).trans (Nat.mod_eq_of_lt ha)⟩

theorem implicitSeto_value (s : State) (tile : Nat) :
    (setoValue s c.implicitSeto tile % 0x40000).toNat = (s.off tile c.ctx.val c.osel + fld c.w1 17 0) % 0x40000 := by
  obtain ⟨dst, mode, amount⟩ := implicitSeto_fields c
  rw [setoValue_adds s tile mode dst amount, implicitSeto_ctx]
  exact toNat_sum_mod ..

end

/-- A LOOP_END that goes back with ADV. -/
theorem feed_loopEnd_adv {s : State} {p : Nat} {c : StreamCmd} (h : Ready s p c) {l : Loop} {rest : List Loop} (ho : c.op = 2)
    (hl : (ctxOf s c).loops = l :: rest) (hn : l.iter + 1 < l.count) (hb : bit1 c.w0 18 = true) :
    (ctxOf (s.feed c) c).pc = l.start ∧ (ctxOf (s.feed c) c).loops = { l with iter := l.iter + 1 } :: rest ∧
      (∀ tile ctx i, ctx < 8 → i < 8 → (s.feed c).off tile ctx i =
        if tile ∈ s.activeTiles c ∧ ctx = c.ctx.val ∧ i = c.osel then (s.off tile ctx i + fld c.w1 17 0) % 0x40000 else s.off tile ctx i) ∧
      SameOutside s (s.feed c) ∧ { (s.feed c).core with spires := s.core.spires, offs := s.core.offs } = s.core := by
  obtain ⟨t, e, f⟩ := h.reads_loopEnd_adv ho hl hn hb
  have op := implicitSeto_op c
  obtain ⟨slot, tag, meets⟩ := s.seto_free op (s.part p).ccyc
  obtain ⟨u, st, fed, fin, stop, own⟩ := f.feed_slot h (d := c.implicitSeto) e h.ctx_idle.1 rfl rfl rfl (implicitSeto_sp c) (implicitSeto_ctx c) slot tag meets
  rw [own, fed, u.doSlot_seto op]
  obtain ⟨off, outside, core⟩ := st.doSeto h (by rw [implicitSeto_ctxOf]) c.sp.val ((s.part p).ccyc + 1) c.implicitSeto.slips
  refine ⟨rfl, rfl, fun tile ctx i hc hi => ?_, outside, core⟩
  have active : s.activeTiles c.implicitSeto = s.activeTiles c := by
    unfold State.activeTiles
    rw [implicitSeto_psel, implicitSeto_sp, implicitSeto_ctx]
  rw [off tile ctx i hc hi, active, implicitSeto_ctx, (implicitSeto_fields c).1]
  by_cases hit : tile ∈ s.activeTiles c ∧ ctx = c.ctx.val ∧ i = c.osel
  · obtain ⟨-, rfl, rfl⟩ := id hit
    rw [if_pos hit, if_pos hit, implicitSeto_value]
  · rw [if_neg hit]
    exact (if_neg hit).symm

/-- Settles O10: a loop's commands by what the fetch engine makes of their context, and the implicit SETO as a SETO. -/
theorem loopsRepeat : Obligations.LoopsRepeat := by
  intro s p c h
  simp only [exec_loop, exec_loopEnd]
  refine ⟨fun ho => ⟨_, rfl, ?_⟩, fun ho l rest hl => ⟨fun hn => ⟨_, rfl, ?_⟩, fun hn hb => ⟨_, rfl, ?_⟩, fun hn hb => ⟨_, rfl, ?_⟩⟩⟩
  · obtain ⟨t, e, f⟩ := h.reads_loop ho
    rw [f.feed_read h e h.ctx_idle.1 h.ctx_idle.2.1]
    exact ⟨f.only, f.ctx⟩
  · obtain ⟨t, e, f⟩ := h.reads_loopEnd_last ho hl (by omega)
    rw [f.feed_read h e h.ctx_idle.1 h.ctx_idle.2.1]
    exact ⟨f.only, f.ctx⟩
  · obtain ⟨t, e, f⟩ := h.reads_loopEnd_back ho hl hn hb
    rw [f.feed_read h e h.ctx_idle.1 h.ctx_idle.2.1]
    exact ⟨f.only, f.ctx⟩
  · exact feed_loopEnd_adv h ho hl hn hb

end Sys2Proof.Machine
end

section
/-! SUPPORT. MAC. -/

namespace Sys2Proof.Machine

theorem exec_mac (c : StreamCmd) (s : State) : exec (.mac c) s = .next (s.feed c) := rfl

/-! Runs of a table. -/

theorem Tbl.getRun_congr {α : Type} {d : α} {t u : Tbl α} {k n : Nat} (h : ∀ j, k ≤ j → j < k + n → Tbl.get d j t = Tbl.get d j u) :
    Tbl.getRun d t k n = Tbl.getRun d u k n := by
  induction n generalizing k with
  | zero => rfl
  | succ n ih => rw [Tbl.getRun, Tbl.getRun, h k le_rfl (by omega), ih fun j hj hn => h j (by omega) (by omega)]

/-- A run reads back what was written as one. -/
theorem Tbl.getRun_putRun {α : Type} [DecidableEq α] (d : α) (vs : List α) (k : Nat) (t : Tbl α) : Tbl.getRun d (Tbl.putRun d k vs t) k vs.length = vs := by
  refine List.ext_getElem (Tbl.length_getRun ..) fun i h₁ h₂ => ?_
  rw [← List.getD_eq_getElem _ d h₁, Tbl.getD_getRun _ _ _ _ _ _ h₂, Tbl.get_putRun, if_pos ⟨by omega, by omega⟩, Nat.add_sub_cancel_left,
    List.getD_eq_getElem _ d h₂]

/-- A run that lies apart from what is written stays. -/
theorem Tbl.getRun_putRun_apart {α : Type} [DecidableEq α] (d : α) (vs : List α) {k j n : Nat} (t : Tbl α) (h : j + n ≤ k ∨ k + vs.length ≤ j) :
    Tbl.getRun d (Tbl.putRun d k vs t) j n = Tbl.getRun d t j n :=
  Tbl.getRun_congr fun i hi hn => by rw [Tbl.get_putRun, if_neg (by omega)]

/-! Work done tile by tile, in the states that it passes through. -/

/-- Work done tile by tile, where each tile's work goes by what the tiles before it leave alone. -/
theorem foldl_tilewise_of {σ β : Type} {f : σ → Nat → σ} {obs new : σ → Nat → β} (inv : σ → Prop) (keeps : ∀ s x, inv s → inv (f s x))
    (same : ∀ s x, inv s → obs (f s x) x = new s x) (other : ∀ s x y, inv s → y ≠ x → obs (f s x) y = obs s y)
    (alone : ∀ s x y, inv s → y ≠ x → new (f s x) y = new s y) {l : List Nat} (nodup : l.Nodup) {s : σ} (hs : inv s) (y : Nat) :
    obs (l.foldl f s) y = if y ∈ l then new s y else obs s y := by
  induction l generalizing s with
  | nil => rfl
  | cons x l ih =>
    obtain ⟨hx, hl⟩ := List.nodup_cons.mp nodup
    rw [List.foldl_cons, ih hl (keeps s x hs)]
    by_cases hy : y = x
    · subst hy
      rw [if_neg hx, if_pos List.mem_cons_self, same _ _ hs]
    · simp only [List.mem_cons, hy, false_or, alone _ _ _ hs hy, other _ _ _ hs hy]

/-! A MAC in one tile. -/

/-- A state but for its Spires, its accumulators and the count of free values. -/
def State.macless (s : State) : State := { s.tiles with core := { s.tiles.core with acc := [], tags := [], setOwner := [] } }

theorem State.eq_of_macless {γ : Type} (g : State → γ) (hg : ∀ a : State, g a.macless = g a) {s t : State} (h : t.macless = s.macless) : g t = g s := by
  rw [← hg t, h, hg]

/-- No error stands in tile SRAM, and no write to it is under way. -/
def State.Steady (s : State) : Prop := s.core.sramCe = [] ∧ s.core.sramUe = [] ∧ s.core.twrites = []

theorem State.Steady.noteReads {s : State} (h : s.Steady) (sp : Nat) (reads : List (Nat × Nat × Nat)) (ctx : Nat) : s.noteReads sp reads ctx = s := by
  obtain ⟨ce, ue, -⟩ := h
  unfold State.noteReads
  simp only [ce, ue, List.isEmpty_nil, Bool.and_self, if_true]

theorem State.Steady.byteBefore {s : State} (h : s.Steady) (t tile : Nat) : s.byteBefore t tile = s.sramByte tile := by
  funext a
  unfold State.byteBefore
  rw [h.2.2]
  rfl

theorem State.Steady.byteDuring {s : State} (h : s.Steady) (t u tile : Nat) : s.byteDuring t u tile = s.sramByte tile := by
  funext a
  unfold State.byteDuring
  rw [h.2.2, ← h.byteBefore t tile]
  rfl

theorem State.Steady.of_macless {s t : State} (h : s.Steady) (e : t.macless = s.macless) : t.Steady := by
  obtain ⟨ce, ue, tw⟩ := h
  exact ⟨(State.eq_of_macless (·.core.sramCe) (fun _ => rfl) e).trans ce, (State.eq_of_macless (·.core.sramUe) (fun _ => rfl) e).trans ue,
    (State.eq_of_macless (·.core.twrites) (fun _ => rfl) e).trans tw⟩

/-- The block that a MAC computes in a tile. -/
def macResult (s : State) (c : StreamCmd) (a w : Store) (id tile : Nat) : List W32 × Nat :=
  macBlock (s.sramByte tile) c.macOp a w (if c.macOp.aOff then s.addr c tile c.macOp.aAddr else c.macOp.aAddr)
    (if c.macOp.wOff then s.addr c tile c.macOp.wAddr else c.macOp.wAddr) (s.setSeen id c.ctx.val tile c.macOp.set)

theorem macBlock_length (rd : Nat → Byte) (m : MacOp) (a w : Store) (x y : Nat) (old : List W32) : (macBlock rd m a w x y old).1.length = 256 := by
  simp [macBlock, List.length_flatMap]

theorem macResult_length (s : State) (c : StreamCmd) (a w : Store) (id tile : Nat) : (macResult s c a w id tile).1.length = 256 := macBlock_length ..

/-- A state with other contents in a set of a tile, and a note of the context that wrote them and, where they replace the old ones, of their tag. -/
def State.setWritten (s : State) (tile set ctx : Nat) (repl tag : Bool) (vs : List W32) : State := s.onCore fun k => { k with
  acc := Tbl.putRun 0#32 ((tile * 8 + set) * 256) vs k.acc
  setOwner := Tbl.put 0 (tile * 8 + set) (ctx + 1) k.setOwner
  tags := if repl then Tbl.put false (tile * 8 + set) tag k.tags else k.tags }

section

variable (s : State) (tile set ctx : Nat) (repl tag : Bool) (vs : List W32)

theorem State.setWritten_acc : (s.setWritten tile set ctx repl tag vs).core.acc = Tbl.putRun 0#32 ((tile * 8 + set) * 256) vs s.core.acc := rfl
theorem State.setWritten_tags : (s.setWritten tile set ctx repl tag vs).core.tags =
    if repl then Tbl.put false (tile * 8 + set) tag s.core.tags else s.core.tags := rfl
theorem State.setWritten_setOwner : (s.setWritten tile set ctx repl tag vs).core.setOwner = Tbl.put 0 (tile * 8 + set) (ctx + 1) s.core.setOwner := rfl
theorem State.setWritten_macless : (s.setWritten tile set ctx repl tag vs).macless = s.macless := rfl

end

theorem State.setSpire_sets (s : State) (i : Nat) (y : Spire) : (s.setSpire i y).core.acc = s.core.acc ∧ (s.setSpire i y).core.tags = s.core.tags ∧
    (s.setSpire i y).core.setOwner = s.core.setOwner := ⟨rfl, rfl, rfl⟩

/-- What a MAC writes in a tile's accumulators. -/
def State.macWritten (s : State) (c : StreamCmd) (a w : Store) (id tile : Nat) : State :=
  s.setWritten tile c.macOp.set c.ctx.val c.macOp.repl (macIsInt a w) (macResult s c a w id tile).1

/-- Where nothing is under way in the tiles, a MAC writes its block, and notes in its Spire what it read and how often it saturated. -/
theorem macTile_steady {s : State} (h : s.Steady) (c : StreamCmd) (a w : Store) (t id tile : Nat) :
    ∃ y : Spire, macTile c c.macOp a w t id s tile = (s.macWritten c a w id tile).setSpire c.sp.val y ∧
      y.setFinal = (s.spire c.sp.val).setFinal ∧ y.macFree = (s.spire c.sp.val).macFree := by
  unfold macTile
  dsimp only
  rw [h.byteDuring, State.Steady.noteReads (by exact h)]
  exact ⟨_, rfl, rfl, rfl⟩

theorem macTile_macless {s : State} (h : s.Steady) (c : StreamCmd) (a w : Store) (t id tile : Nat) :
    (macTile c c.macOp a w t id s tile).macless = s.macless := by
  obtain ⟨y, e, -⟩ := macTile_steady h c a w t id tile
  rw [e, ← State.setWritten_macless s tile c.macOp.set c.ctx.val c.macOp.repl (macIsInt a w) (macResult s c a w id tile).1]
  rfl

theorem macTile_spire {s : State} (h : s.Steady) (c : StreamCmd) (a w : Store) (t id tile : Nat) :
    ((macTile c c.macOp a w t id s tile).spire c.sp.val).setFinal = (s.spire c.sp.val).setFinal ∧
      ((macTile c c.macOp a w t id s tile).spire c.sp.val).macFree = (s.spire c.sp.val).macFree ∧
      ∀ i, i ≠ c.sp.val → (macTile c c.macOp a w t id s tile).spire i = s.spire i := by
  obtain ⟨y, e, hf, hm⟩ := macTile_steady h c a w t id tile
  rw [e, State.spire_setSpire]
  exact ⟨hf, hm, fun i hi => State.spire_setSpire_ne _ _ hi⟩

section

variable {s : State} (h : s.Steady) (c : StreamCmd) (a w : Store) (t id x : Nat) {y set : Nat} (hs : set < 8)

include h

/-- The accumulators, the tags and the last writers of a tile after a MAC in one. -/
theorem macTile_core : (macTile c c.macOp a w t id s x).core.acc = (s.macWritten c a w id x).core.acc ∧
    (macTile c c.macOp a w t id s x).core.tags = (s.macWritten c a w id x).core.tags ∧
    (macTile c c.macOp a w t id s x).core.setOwner = (s.macWritten c a w id x).core.setOwner := by
  obtain ⟨y, e, -⟩ := macTile_steady h c a w t id x
  rw [e]
  exact State.setSpire_sets ..

theorem macTile_accSet_same : (macTile c c.macOp a w t id s x).accSet x c.macOp.set = (macResult s c a w id x).1 := by
  have e := Tbl.getRun_putRun 0#32 (macResult s c a w id x).1 ((x * 8 + c.macOp.set) * 256) s.core.acc
  rw [macResult_length] at e
  rw [State.accSet, (macTile_core h c a w t id x).1, State.macWritten, State.setWritten_acc, e]

include hs

theorem macTile_accSet_other (hy : ¬(y = x ∧ set = c.macOp.set)) : (macTile c c.macOp a w t id s x).accSet y set = s.accSet y set := by
  have hset : c.macOp.set < 8 := fld_lt ..
  have apart : (y * 8 + set) * 256 + 256 ≤ (x * 8 + c.macOp.set) * 256 ∨ (x * 8 + c.macOp.set) * 256 + (macResult s c a w id x).1.length ≤ (y * 8 + set) * 256 := by
    rw [macResult_length]
    omega
  rw [State.accSet, (macTile_core h c a w t id x).1, State.macWritten, State.setWritten_acc, Tbl.getRun_putRun_apart _ _ _ apart, State.accSet]

theorem macTile_tag : (macTile c c.macOp a w t id s x).tag y set =
    if y = x ∧ set = c.macOp.set ∧ c.macOp.repl = true then macIsInt a w else s.tag y set := by
  have hset : c.macOp.set < 8 := fld_lt ..
  have key : y * 8 + set = x * 8 + c.macOp.set ↔ y = x ∧ set = c.macOp.set := by omega
  rw [State.tag, (macTile_core h c a w t id x).2.1, State.macWritten, State.setWritten_tags]
  cases c.macOp.repl
  · simp [State.tag]
  · simp [Tbl.get_put, key, State.tag]

/-- A MAC in one tile leaves what a MAC finds in another. -/
theorem macTile_setSeen_other (hy : y ≠ x) : (macTile c c.macOp a w t id s x).setSeen id c.ctx.val y set = s.setSeen id c.ctx.val y set := by
  have hset : c.macOp.set < 8 := fld_lt ..
  have owner : Tbl.get 0 (y * 8 + set) (macTile c c.macOp a w t id s x).core.setOwner = Tbl.get 0 (y * 8 + set) s.core.setOwner := by
    rw [(macTile_core h c a w t id x).2.2, State.macWritten, State.setWritten_setOwner, Tbl.get_put, if_neg (by omega)]
  unfold State.setSeen
  rw [owner, macTile_accSet_other h c a w t id x hs fun e => hy e.1]

omit hs in
theorem macTile_result_other (hy : y ≠ x) : macResult (macTile c c.macOp a w t id s x) c a w id y = macResult s c a w id y := by
  have less := macTile_macless h c a w t id x
  have sram : (macTile c c.macOp a w t id s x).sramByte y = s.sramByte y := State.eq_of_macless (·.sramByte y) (fun _ => rfl) less
  have addr : ∀ b, (macTile c c.macOp a w t id s x).addr c y b = s.addr c y b := fun b => State.eq_of_macless (·.addr c y b) (fun _ => rfl) less
  unfold macResult
  rw [sram, addr, addr, macTile_setSeen_other h c a w t id x (fld_lt ..) hy]

end

/-! A MAC in every gated tile. -/

section

variable {s : State} (h : s.Steady) (c : StreamCmd) (a w : Store) (t id : Nat)

include h

theorem macFold_macless (l : List Nat) : (l.foldl (macTile c c.macOp a w t id) s).macless = s.macless :=
  List.foldlRecOn (motive := fun b : State => b.macless = s.macless) l _ rfl fun _ hb x _ => (macTile_macless (h.of_macless hb) c a w t id x).trans hb

theorem macFold_spire (l : List Nat) : ((l.foldl (macTile c c.macOp a w t id) s).spire c.sp.val).setFinal = (s.spire c.sp.val).setFinal ∧
    ((l.foldl (macTile c c.macOp a w t id) s).spire c.sp.val).macFree = (s.spire c.sp.val).macFree ∧
    ∀ i, i ≠ c.sp.val → (l.foldl (macTile c c.macOp a w t id) s).spire i = s.spire i := by
  refine (List.foldlRecOn (motive := fun b : State => b.macless = s.macless ∧ (b.spire c.sp.val).setFinal = (s.spire c.sp.val).setFinal ∧
    (b.spire c.sp.val).macFree = (s.spire c.sp.val).macFree ∧ ∀ i, i ≠ c.sp.val → b.spire i = s.spire i) l _ ⟨rfl, rfl, rfl, fun _ _ => rfl⟩
    fun b hb x _ => ?_).2
  obtain ⟨less, final, free, others⟩ := hb
  obtain ⟨hf, hm, ho⟩ := macTile_spire (h.of_macless less) c a w t id x
  exact ⟨(macTile_macless (h.of_macless less) c a w t id x).trans less, hf.trans final, hm.trans free, fun i hi => (ho i hi).trans (others i hi)⟩

theorem macFold_accSet {l : List Nat} (nodup : l.Nodup) (tile : Nat) {set : Nat} (hs : set < 8) :
    (l.foldl (macTile c c.macOp a w t id) s).accSet tile set =
      if tile ∈ l ∧ set = c.macOp.set then (macResult s c a w id tile).1 else s.accSet tile set := by
  have e := foldl_tilewise_of (f := macTile c c.macOp a w t id) (obs := fun b y => b.accSet y set)
    (new := fun b y => if set = c.macOp.set then (macResult b c a w id y).1 else b.accSet y set) State.Steady
    (fun _ x hb => hb.of_macless (macTile_macless hb c a w t id x))
    (fun b x hb => by
      by_cases he : set = c.macOp.set
      · rw [if_pos he, he, macTile_accSet_same hb]
      · rw [if_neg he, macTile_accSet_other hb c a w t id x hs fun k => he k.2])
    (fun b x y hb hy => macTile_accSet_other hb c a w t id x hs fun k => hy k.1)
    (fun b x y hb hy => by
      rw [macTile_result_other hb c a w t id x hy, macTile_accSet_other hb c a w t id x hs fun k => hy k.1]) nodup h tile
  refine e.trans ?_
  by_cases hm : tile ∈ l <;> simp [hm]

theorem macFold_tag {l : List Nat} (nodup : l.Nodup) (tile : Nat) {set : Nat} (hs : set < 8) :
    (l.foldl (macTile c c.macOp a w t id) s).tag tile set =
      if tile ∈ l ∧ set = c.macOp.set ∧ c.macOp.repl = true then macIsInt a w else s.tag tile set := by
  have e := foldl_tilewise_of (f := macTile c c.macOp a w t id) (obs := fun b y => b.tag y set)
    (new := fun b y => if set = c.macOp.set ∧ c.macOp.repl = true then macIsInt a w else b.tag y set) State.Steady
    (fun _ x hb => hb.of_macless (macTile_macless hb c a w t id x))
    (fun b x hb => by simp only [macTile_tag hb c a w t id x hs, true_and])
    (fun b x y hb hy => by simp only [macTile_tag hb c a w t id x hs, hy, false_and, if_false])
    (fun b x y hb hy => by simp only [macTile_tag hb c a w t id x hs, hy, false_and, if_false]) nodup h tile
  refine e.trans ?_
  by_cases hm : tile ∈ l <;> simp [hm]

end

/-! The command. -/

theorem Started.steady {s u : State} {p : Nat} {c d : StreamCmd} {k : Ctx} {pod : Bool} {n : Nat} (h : Ready s p c) (st : Started s u d k pod n) : u.Steady := by
  obtain ⟨-, ce, ue, -⟩ := h.clean
  exact ⟨(State.eq_of_tiles (·.core.sramCe) (fun _ => rfl) st.tiles).trans ce, (State.eq_of_tiles (·.core.sramUe) (fun _ => rfl) st.tiles).trans ue, st.twrites h⟩

/-- The Spire of a MAC that starts: when its set is final, and when the next MAC may start. -/
theorem Started.mac {s u : State} {c : StreamCmd} {k : Ctx} {pod : Bool} {n : Nat} (st : Started s u c k pod n) (ho : c.op = 0x20) :
    Tbl.get 0 c.macOp.set (u.spire c.sp.val).setFinal = n + macN c + 7 ∧ (u.spire c.sp.val).macFree = n + macN c := by
  obtain ⟨y, hy, -⟩ := st.own
  have final : (y.startSlot c pod n).setFinal = Tbl.put 0 c.macOp.set (n + macN c + 7) y.setFinal := by
    rw [Spire.startSlot, if_pos ho]
  have free : (y.startSlot c pod n).macFree = n + macN c := by
    rw [Spire.startSlot, if_pos ho]
  rw [hy, final, free]
  exact ⟨Tbl.get_put_same .., rfl⟩

theorem State.doSlot_mac (s : State) {c : StreamCmd} {a w : Store} (ho : c.op = 0x20) (hm : c.macOp.stores = some (a, w)) (t id : Nat) :
    s.doSlot c t id = (s.activeTiles c).foldl (macTile c c.macOp a w t id) s := by
  rw [State.doSlot, if_pos ho, State.doMac, hm]

/-- Settles O13: each gated tile takes its own block, which goes by what the other tiles' blocks leave alone. -/
theorem macAccumulates : Obligations.MacAccumulates := by
  intro s p c a w h ho hm tag
  refine ⟨_, exec_mac c s, ?_⟩
  obtain ⟨u, k, st, -, fed⟩ := h.feed_slot (by omega) (by omega) (by rw [State.tagOk, if_pos ho]; exact tag) (by simp [State.loadMeets, ho])
  rw [fed, u.doSlot_mac ho hm]
  have steady := st.steady h
  have active : u.activeTiles c = s.activeTiles c := State.eq_of_tiles (·.activeTiles c) (fun _ => rfl) st.tiles
  have result : ∀ tile, macResult u c a w s.free tile = macResult s c a w s.free tile := fun tile =>
    State.eq_of_tiles (macResult · c a w s.free tile) (fun _ => rfl) st.tiles
  have sets : ∀ tile set, u.accSet tile set = s.accSet tile set := fun tile set => State.eq_of_tiles (·.accSet tile set) (fun _ => rfl) st.tiles
  have tags : ∀ tile set, u.tag tile set = s.tag tile set := fun tile set => State.eq_of_tiles (·.tag tile set) (fun _ => rfl) st.tiles
  have nodup : (u.activeTiles c).Nodup := u.activeTiles_nodup c
  have less := macFold_macless steady c a w (s.part p).ccyc s.free (u.activeTiles c)
  obtain ⟨final, free, others⟩ := macFold_spire steady c a w (s.part p).ccyc s.free (u.activeTiles c)
  have acc := fun tile set hs => macFold_accSet steady c a w (s.part p).ccyc s.free nodup tile (set := set) hs
  have tagged := fun tile set hs => macFold_tag steady c a w (s.part p).ccyc s.free nodup tile (set := set) hs
  generalize (u.activeTiles c).foldl (macTile c c.macOp a w (s.part p).ccyc s.free) u = v at less final free others acc tagged ⊢
  have rest : (v.stall c.sp.val ((s.part p).ccyc + 1) c.slips).tiles = v.tiles := State.stall_tiles (steady.of_macless less).2.2 ..
  have whole : (v.stall c.sp.val ((s.part p).ccyc + 1) c.slips).macless = s.macless := by
    rw [State.eq_of_tiles State.macless (fun _ => rfl) rest, less]
    exact State.eq_of_tiles State.macless (fun _ => rfl) st.tiles
  obtain ⟨startFinal, startFree⟩ := st.mac ho
  have cycles : macN c = macCycles c.macOp a w := by rw [macN, hm]
  refine ⟨fun tile set hs => ?_, fun tile set hs => ?_, ?_, ?_, fun i hi => ?_, ?_, ?_⟩
  · rw [State.eq_of_tiles (·.accSet tile set) (fun _ => rfl) rest, acc tile set hs, active, sets]
    by_cases hit : tile ∈ s.activeTiles c ∧ set = c.macOp.set
    · rw [if_pos hit, if_pos hit, result, hit.2]
      rfl
    · rw [if_neg hit, if_neg hit]
  · rw [State.eq_of_tiles (·.tag tile set) (fun _ => rfl) rest, tagged tile set hs, active, tags]
  · rw [State.stall_spire, Spire.stall_setFinal _ (Nat.succ_pos _), final, startFinal, cycles]
    exact if_pos (by omega)
  · rw [State.stall_spire, Spire.stall_macFree, free, startFree, cycles]
  · rw [State.stall_spire_ne _ _ _ hi, others i hi]
    exact st.others i hi
  · have e := congrArg (fun b : State => ({ b with core := s.core, free := s.free } : State)) whole
    exact e
  · have e := congrArg (fun b : State => ({ b.core with spires := s.core.spires, acc := s.core.acc, tags := s.core.tags, setOwner := s.core.setOwner } : Core)) whole
    exact e

end Sys2Proof.Machine
end

section
/-! SUPPORT. VOP. -/

namespace Sys2Proof.Machine

theorem exec_vop (c : StreamCmd) (s : State) : exec (.vop c) s = .next (s.feed c) := rfl

/-! Pieces. -/

/-- A list of whole pieces, piece by piece. -/
theorem piecesOf_whole {α : Type} {k : Nat} (hk : 0 < k) {n f : Nat} {xs : List α} (hn : n ≤ f) (hx : xs.length = n * k) :
    piecesOf f k xs = (List.range n).map fun g => (xs.drop (g * k)).take k := by
  induction n generalizing f xs with
  | zero =>
    obtain rfl := List.eq_nil_of_length_eq_zero (hx.trans (Nat.zero_mul k))
    cases f <;> rfl
  | succ n ih =>
    obtain ⟨f, rfl⟩ : ∃ m, f = m + 1 := ⟨f - 1, by omega⟩
    have pos : 0 < (n + 1) * k := Nat.mul_pos (Nat.succ_pos n) hk
    cases xs with
    | nil =>
      simp only [List.length_nil] at hx
      omega
    | cons x xs =>
      have rest : ((x :: xs).drop k).length = n * k := by
        rw [List.length_drop, hx, Nat.succ_mul, Nat.add_sub_cancel]
      have step : piecesOf (f + 1) k (x :: xs) = (x :: xs).take k :: piecesOf f k ((x :: xs).drop k) := by simp [piecesOf]
      rw [step, ih (by omega) rest, List.range_succ_eq_map, List.map_cons, List.map_map]
      refine congrArg₂ List.cons (by simp) (List.map_congr_left fun g _ => ?_)
      simp only [Function.comp, List.drop_drop, Nat.succ_mul, Nat.add_comm]

theorem zipIdx_map_range {α : Type} (f : Nat → α) (n : Nat) : ((List.range n).map f).zipIdx = (List.range n).map fun g => (f g, g) := by
  refine List.ext_getElem (by simp) fun i h₁ h₂ => ?_
  simp

/-! What a command finds in registers. -/

/-- The newest write of a list: the last of those with the latest ccyc. -/
def newestOf (hits : List VWrite) : Option VWrite :=
  hits.foldl (fun (a : Option VWrite) w => match a with
    | none => some w
    | some b => if b.at_ ≤ w.at_ then some w else some b) none

/-- The newest write of a list is one of them. -/
theorem newestOf_mem {hits : List VWrite} (h : hits ≠ []) : ∃ w ∈ hits, newestOf hits = some w := by
  induction hits using List.reverseRecOn with
  | nil => exact absurd rfl h
  | append_singleton l w ih =>
    have step : newestOf (l ++ [w]) = match newestOf l with
        | none => some w
        | some b => if b.at_ ≤ w.at_ then some w else some b := by rw [newestOf, List.foldl_append]; rfl
    have last : w ∈ l ++ [w] := List.mem_append_right _ List.mem_cons_self
    rw [step]
    by_cases hl : l = []
    · exact ⟨w, last, by rw [hl]; rfl⟩
    · obtain ⟨b, hb, e⟩ := ih hl
      rw [e]
      by_cases later : b.at_ ≤ w.at_
      · exact ⟨w, last, if_pos later⟩
      · exact ⟨b, List.mem_append_left _ hb, if_neg later⟩

/-- The writes on their way that meet a lane, as a read in ccyc `t` finds them. -/
def State.laneHits (s : State) (sp t tile reg lane : Nat) : List VWrite :=
  (s.spire sp).vwrites.filter fun w =>
    decide (w.tile = tile) && decide (w.reg = reg) && decide (w.lane ≤ lane) && decide (lane < w.lane + w.vals.length) && decide (w.at_ < t)

theorem State.mem_laneHits {s : State} {sp t tile reg lane : Nat} {w : VWrite} : w ∈ s.laneHits sp t tile reg lane ↔
    w ∈ (s.spire sp).vwrites ∧ w.tile = tile ∧ w.reg = reg ∧ w.lane ≤ lane ∧ lane < w.lane + w.vals.length ∧ w.at_ < t := by
  simp only [State.laneHits, List.mem_filter, Bool.and_eq_true, decide_eq_true_eq, and_assoc]

theorem State.lane_eq (s : State) (id ctx sp t tile reg lane : Nat) : s.lane id ctx sp t tile reg lane = match newestOf (s.laneHits sp t tile reg lane) with
    | some w => if w.ctx = ctx then w.vals.getD (lane - w.lane) 0#32 else Config.hazardWord id ((tile * 16 + reg) * 32 + lane)
    | none =>
      let owner := Tbl.get 0 (tile * 16 + reg) s.core.regOwner
      if owner = 0 ∨ owner = ctx + 1 then s.reg tile reg lane else Config.hazardWord id ((tile * 16 + reg) * 32 + lane) := rfl

theorem State.lane_newest {s : State} {sp t tile reg lane : Nat} {w : VWrite} (e : newestOf (s.laneHits sp t tile reg lane) = some w) (id ctx : Nat) :
    s.lane id ctx sp t tile reg lane =
      if w.ctx = ctx then w.vals.getD (lane - w.lane) 0#32 else Config.hazardWord id ((tile * 16 + reg) * 32 + lane) := by
  rw [State.lane_eq, e]

/-- The vector registers are as in another state, and were written last by the same contexts. -/
def State.SameRegs (a s : State) : Prop := a.core.regOwner = s.core.regOwner ∧ a.core.vreg = s.core.vreg

theorem State.SameRegs.of_tiles {s a : State} (h : a.tiles = s.tiles) : a.SameRegs s :=
  ⟨State.eq_of_tiles (·.core.regOwner) (fun _ => rfl) h, State.eq_of_tiles (·.core.vreg) (fun _ => rfl) h⟩

/-- A lane that no write on its way meets, in a state whose registers are as in another. -/
theorem State.lane_missed {s a : State} {c : StreamCmd} {t tile r l : Nat} (same : a.SameRegs s) (h : a.laneHits c.sp.val t tile r l = []) :
    a.lane s.free c.ctx.val c.sp.val t tile r l = s.regSeen c tile r l := by
  obtain ⟨owner, regs⟩ := same
  have reg : a.reg tile r l = s.reg tile r l := by rw [State.reg, State.reg, regs]
  have held : a.lane s.free c.ctx.val c.sp.val t tile r l =
      let owner := Tbl.get 0 (tile * 16 + r) a.core.regOwner
      if owner = 0 ∨ owner = c.ctx.val + 1 then a.reg tile r l else Config.hazardWord s.free ((tile * 16 + r) * 32 + l) := by
    rw [State.lane_eq, h]
    rfl
  rw [held, owner, reg]
  rfl

/-- A lane of a tile that no write on its way is for. -/
theorem State.lane_regSeen {s a : State} {c : StreamCmd} {tile : Nat} (same : a.SameRegs s) (h : ∀ w ∈ (a.spire c.sp.val).vwrites, w.tile ≠ tile) (t r l : Nat) :
    a.lane s.free c.ctx.val c.sp.val t tile r l = s.regSeen c tile r l :=
  State.lane_missed same (List.eq_nil_iff_forall_not_mem.mpr fun w hw => h w (State.mem_laneHits.mp hw).1 (State.mem_laneHits.mp hw).2.1)

theorem State.vread_regSeen {s a : State} {c : StreamCmd} {tile : Nat} (same : a.SameRegs s) (h : ∀ w ∈ (a.spire c.sp.val).vwrites, w.tile ≠ tile)
    (t rate r : Nat) : a.vread s.free c.ctx.val c.sp.val t rate tile r = (List.range 32).map fun l => s.regSeen c tile r l := by
  unfold State.vread
  exact List.map_congr_left fun l _ => State.lane_regSeen same h ..

/-! A step. -/

theorem zip_map_zip {α β γ δ ε : Type} (f : α → β) (g : α → γ) (h : α → δ) (F : β → γ → δ → ε) (l : List α) :
    ((l.map f).zip ((l.map g).zip (l.map h))).map (fun x => F x.1 x.2.1 x.2.2) = l.map fun a => F (f a) (g a) (h a) := by
  induction l with
  | nil => rfl
  | cons a l ih => simp only [List.map_cons, List.zip_cons_cons, ih]

/-- What a reduction leaves: its result in lane 0, and zeros. -/
theorem head_zeros (x : W32) : x :: List.replicate 31 0#32 = (List.range 32).map fun l => if l = 0 then x else 0#32 := rfl

section

variable {s : State} {c : StreamCmd} {tile r : Nat}

theorem vopValue_sum (h : c.vopOp.f = 0x18) : vopValue s c tile r = fun l =>
    if l = 0 then treeReduce fadd ((List.range 32).map fun j => s.regSeen c tile (c.vopOp.va + r) j) else 0#32 := by
  funext l
  rw [vopValue, if_pos h]

theorem vopValue_max (h : c.vopOp.f = 0x19) : vopValue s c tile r = fun l =>
    if l = 0 then treeReduce (fMinMax true) ((List.range 32).map fun j => s.regSeen c tile (c.vopOp.va + r) j) else 0#32 := by
  funext l
  rw [vopValue, if_neg (by omega), if_pos h]

theorem vopValue_lane (h18 : c.vopOp.f ≠ 0x18) (h19 : c.vopOp.f ≠ 0x19) : vopValue s c tile r = fun l =>
    vopLane c.vopOp.f (s.regSeen c tile (c.vopOp.va + r) l)
      (if c.vopOp.imm then c.w2 else s.regSeen c tile (if c.vopOp.bFix then c.vopOp.vb else c.vopOp.vb + r) l)
      (s.regSeen c tile (if c.vopOp.cFix then c.vopOp.vc else c.vopOp.vc + r) l) := by
  funext l
  rw [vopValue, if_neg h18, if_neg h19]

end

/-- A step of a VOP reads its registers as they were held, and computes its lanes. -/
theorem vopStep_eq {s a : State} {c : StreamCmd} {tile : Nat} (same : a.tiles = s.tiles) (h : ∀ w ∈ (a.spire c.sp.val).vwrites, w.tile ≠ tile) (t r : Nat) :
    vopStep a c c.vopOp t s.free tile r =
      ((List.range 32).map (fun l => s.regSeen c tile (c.vopOp.va + r) l), (List.range 32).map (vopValue s c tile r)) := by
  have b : (if c.vopOp.imm then List.replicate 32 c.w2 else (List.range 32).map fun l => s.regSeen c tile (if c.vopOp.bFix then c.vopOp.vb else c.vopOp.vb + r) l) =
      (List.range 32).map fun l => if c.vopOp.imm then c.w2 else s.regSeen c tile (if c.vopOp.bFix then c.vopOp.vb else c.vopOp.vb + r) l := by
    cases c.vopOp.imm
    · rfl
    · exact (List.map_const' (l := List.range 32) (b := c.w2)).symm
  unfold vopStep
  simp only [State.vread_regSeen (State.SameRegs.of_tiles same) h, b]
  refine congrArg (Prod.mk _) ?_
  by_cases h18 : c.vopOp.f = 0x18
  · rw [if_pos h18, head_zeros, vopValue_sum h18]
  · by_cases h19 : c.vopOp.f = 0x19
    · rw [if_neg h18, if_pos h19, head_zeros, vopValue_max h19]
    · rw [if_neg h18, if_neg h19, zip_map_zip, vopValue_lane h18 h19]

/-! A VOP in one tile. -/

/-- The lanes that a VOP's functions take in a ccyc divide the lanes of a register. -/
theorem vopRate_dvd (f : Nat) : 0 < (vopRate f).1 ∧ 32 / (vopRate f).1 * (vopRate f).1 = 32 ∧ 32 / (vopRate f).1 ≤ 32 := by
  have two : (vopRate f).1 = 32 ∨ (vopRate f).1 = 8 := by
    unfold vopRate
    split
    · exact .inl rfl
    · split
      · exact .inl rfl
      · split
        · exact .inr rfl
        · split
          · exact .inl rfl
          · exact .inl rfl
  obtain e | e := two <;> rw [e] <;> decide

/-- The writes of a VOP that starts in ccyc `t`, in a tile: a group of lanes for each ccyc of each step. -/
def vopWrites (s : State) (c : StreamCmd) (t tile : Nat) : List VWrite :=
  (List.range c.vopOp.rep).flatMap fun r => (List.range (32 / (vopRate c.vopOp.f).1)).map fun g =>
    ⟨t + r * (32 / (vopRate c.vopOp.f).1) + g + (vopRate c.vopOp.f).2, tile, c.vopOp.vd + r, g * (vopRate c.vopOp.f).1,
      (((List.range 32).map (vopValue s c tile r)).drop (g * (vopRate c.vopOp.f).1)).take (vopRate c.vopOp.f).1, c.ctx.val⟩

/-- The predicate that a PANY or PALL writes in a tile. -/
def vopPredWrite (s : State) (c : StreamCmd) (t tile : Nat) : PWrite :=
  let lanes := (List.range c.vopOp.rep).flatMap (fun r => (List.range 32).map (fun l => s.regSeen c tile (c.vopOp.va + r) l))
  ⟨t + c.vopOp.rep - 1 + 2, (tile * 8 + c.ctx.val) * 8 + c.vopOp.pdst, if c.vopOp.f = 0x0C then lanes.any laneNonZero else lanes.all laneNonZero⟩

section

variable {s a : State} {c : StreamCmd} {tile : Nat} (same : a.tiles = s.tiles) (h : ∀ w ∈ (a.spire c.sp.val).vwrites, w.tile ≠ tile) (t : Nat)

include same h

theorem vopTile_writes (hp : vopToPred c.vopOp.f = false) :
    vopTile c c.vopOp t s.free a tile = a.onSpire c.sp.val fun x => { x with vwrites := x.vwrites ++ vopWrites s c t tile } := by
  obtain ⟨pos, whole, le⟩ := vopRate_dvd c.vopOp.f
  have steps : (List.range c.vopOp.rep).map (vopStep a c c.vopOp t s.free tile) = (List.range c.vopOp.rep).map fun r =>
      ((List.range 32).map (fun l => s.regSeen c tile (c.vopOp.va + r) l), (List.range 32).map (vopValue s c tile r)) :=
    List.map_congr_left fun r _ => vopStep_eq same h t r
  have pieces : ∀ r, piecesOf 32 (vopRate c.vopOp.f).1 ((List.range 32).map (vopValue s c tile r)) = (List.range (32 / (vopRate c.vopOp.f).1)).map fun g =>
      (((List.range 32).map (vopValue s c tile r)).drop (g * (vopRate c.vopOp.f).1)).take (vopRate c.vopOp.f).1 := fun r =>
    piecesOf_whole pos le (by rw [List.length_map, List.length_range, whole])
  unfold vopTile
  simp only [hp, steps, zipIdx_map_range, List.flatMap_map, pieces, List.map_map]
  rfl

theorem vopTile_pred (hp : vopToPred c.vopOp.f = true) :
    vopTile c c.vopOp t s.free a tile = a.onSpire c.sp.val fun x => { x with pwrites := x.pwrites ++ [vopPredWrite s c t tile] } := by
  have steps : (List.range c.vopOp.rep).map (vopStep a c c.vopOp t s.free tile) = (List.range c.vopOp.rep).map fun r =>
      ((List.range 32).map (fun l => s.regSeen c tile (c.vopOp.va + r) l), (List.range 32).map (vopValue s c tile r)) :=
    List.map_congr_left fun r _ => vopStep_eq same h t r
  unfold vopTile
  simp only [hp, steps, List.flatMap_map]
  rfl

end

/-- The writes of a tile are for that tile. -/
theorem vopWrites_tile {s : State} {c : StreamCmd} {t tile : Nat} {w : VWrite} (h : w ∈ vopWrites s c t tile) : w.tile = tile := by
  obtain ⟨r, -, h⟩ := List.mem_flatMap.mp h
  obtain ⟨g, -, rfl⟩ := List.mem_map.mp h
  rfl

/-! A VOP in every gated tile. -/

/-- The tiles and the other Spires are as they were, and the Spire's writes to registers and predicates are as given. -/
structure VopDone (s a b : State) (sp : Nat) (vs : List VWrite) (ps : List PWrite) : Prop where
  tiles : b.tiles = s.tiles
  others : ∀ i, i ≠ sp → b.spire i = a.spire i
  writes : (b.spire sp).vwrites = vs
  preds : (b.spire sp).pwrites = ps

theorem vopFold_writes {s : State} {c : StreamCmd} (t : Nat) (hp : vopToPred c.vopOp.f = false) {l : List Nat} (nodup : l.Nodup) {a : State}
    (same : a.tiles = s.tiles) (h : ∀ w ∈ (a.spire c.sp.val).vwrites, w.tile ∉ l) :
    VopDone s a (l.foldl (vopTile c c.vopOp t s.free) a) c.sp.val ((a.spire c.sp.val).vwrites ++ l.flatMap (vopWrites s c t)) (a.spire c.sp.val).pwrites := by
  induction l generalizing a with
  | nil => exact ⟨same, fun _ _ => rfl, (List.append_nil _).symm, rfl⟩
  | cons x l ih =>
    obtain ⟨hx, hl⟩ := List.nodup_cons.mp nodup
    have e := vopTile_writes same (fun w hw he => h w hw (he ▸ List.mem_cons_self)) t hp (tile := x)
    have own : (a.onSpire c.sp.val fun y => { y with vwrites := y.vwrites ++ vopWrites s c t x }).spire c.sp.val = _ := State.spire_onSpire ..
    obtain ⟨tiles, others, writes, preds⟩ := ih hl (a := a.onSpire c.sp.val fun y => { y with vwrites := y.vwrites ++ vopWrites s c t x }) same (by
      rw [own]
      intro w hw
      obtain hw | hw := List.mem_append.mp hw
      · exact fun hm => h w hw (List.mem_cons_of_mem _ hm)
      · rwa [vopWrites_tile hw])
    rw [List.foldl_cons, e]
    refine ⟨tiles, fun i hi => (others i hi).trans (State.spire_onSpire_ne _ _ hi), ?_, ?_⟩
    · rw [writes, own, List.flatMap_cons, List.append_assoc]
    · rw [preds, own]

theorem vopFold_preds {s : State} {c : StreamCmd} (t : Nat) (hp : vopToPred c.vopOp.f = true) (l : List Nat) {a : State} (same : a.tiles = s.tiles)
    (h : (a.spire c.sp.val).vwrites = []) :
    VopDone s a (l.foldl (vopTile c c.vopOp t s.free) a) c.sp.val [] ((a.spire c.sp.val).pwrites ++ l.map (vopPredWrite s c t)) := by
  induction l generalizing a with
  | nil => exact ⟨same, fun _ _ => rfl, h, (List.append_nil _).symm⟩
  | cons x l ih =>
    have e := vopTile_pred same (by rw [h]; simp) t hp (tile := x)
    have own : (a.onSpire c.sp.val fun y => { y with pwrites := y.pwrites ++ [vopPredWrite s c t x] }).spire c.sp.val = _ := State.spire_onSpire ..
    obtain ⟨tiles, others, writes, preds⟩ := ih (a := a.onSpire c.sp.val fun y => { y with pwrites := y.pwrites ++ [vopPredWrite s c t x] }) same (by rw [own, h])
    rw [List.foldl_cons, e]
    refine ⟨tiles, fun i hi => (others i hi).trans (State.spire_onSpire_ne _ _ hi), writes, ?_⟩
    rw [preds, own, List.map_cons, List.append_assoc]
    rfl

/-! What is seen once the writes have come. -/

/-- The write that is seen: where every write that meets a lane holds one value, that value. -/
theorem State.lane_written {s : State} {id ctx sp t tile reg lane : Nat} {v : W32} (hit : s.laneHits sp t tile reg lane ≠ [])
    (all : ∀ w ∈ s.laneHits sp t tile reg lane, w.ctx = ctx ∧ w.vals.getD (lane - w.lane) 0#32 = v) : s.lane id ctx sp t tile reg lane = v := by
  obtain ⟨w, hw, e⟩ := newestOf_mem hit
  obtain ⟨own, val⟩ := all w hw
  rw [State.lane_newest e, if_pos own, val]

/-! The command. -/

theorem State.doSlot_vop (s : State) {c : StreamCmd} (ho : c.op = 0x22) (t id : Nat) :
    s.doSlot c t id = (s.activeTiles c).foldl (vopTile c c.vopOp t id) s := by
  rw [State.doSlot, if_neg (by omega), if_neg (by omega), if_pos ho, State.doVop]

/-- A member of a tile's writes, by its step and its group. -/
theorem mem_vopWrites {s : State} {c : StreamCmd} {t tile : Nat} {w : VWrite} : w ∈ vopWrites s c t tile ↔
    ∃ r < c.vopOp.rep, ∃ g < 32 / (vopRate c.vopOp.f).1,
      w = ⟨t + r * (32 / (vopRate c.vopOp.f).1) + g + (vopRate c.vopOp.f).2, tile, c.vopOp.vd + r, g * (vopRate c.vopOp.f).1,
        (((List.range 32).map (vopValue s c tile r)).drop (g * (vopRate c.vopOp.f).1)).take (vopRate c.vopOp.f).1, c.ctx.val⟩ := by
  simp only [vopWrites, List.mem_flatMap, List.mem_map, List.mem_range, eq_comm]

/-- The lanes of a whole group are as many as come in a ccyc. -/
theorem group_length {α : Type} {xs : List α} {k n g : Nat} (hx : xs.length = n * k) (hg : g < n) : ((xs.drop (g * k)).take k).length = k := by
  have : (g + 1) * k ≤ n * k := Nat.mul_le_mul_right k hg
  rw [Nat.succ_mul] at this
  rw [List.length_take, List.length_drop, hx]
  omega

/-- A lane of its group is the lane. -/
theorem group_getD {f : Nat → W32} {m k l i : Nat} (hl : i ≤ l) (hk : l < i + k) (hm : l < m) :
    ((((List.range m).map f).drop i).take k).getD (l - i) 0#32 = f l := by
  have e : i + (l - i) = l := by omega
  rw [List.getD_eq_getElem?_getD, List.getElem?_take_of_lt (by omega), List.getElem?_drop, e]
  simp [hm]

/-- A lane in the writes of a VOP, some time after the last of them. -/
theorem vopWrites_lane {s v : State} {c : StreamCmd} {tiles : List Nat} {start : Nat} {f : Nat → Nat} {end_ : Nat} (same : v.tiles = s.tiles)
    (writes : (v.spire c.sp.val).vwrites = (tiles.flatMap (vopWrites s c start)).map fun w => { w with at_ := f w.at_ })
    (come : ∀ n, n < start + c.vopOp.rep * (32 / (vopRate c.vopOp.f).1) + (vopRate c.vopOp.f).2 → f n < end_)
    {u tile r l : Nat} (hu : end_ ≤ u) (hl : l < 32) :
    v.lane s.free c.ctx.val c.sp.val u tile r l =
      if tile ∈ tiles ∧ c.vopOp.vd ≤ r ∧ r < c.vopOp.vd + c.vopOp.rep then vopValue s c tile (r - c.vopOp.vd) l else s.regSeen c tile r l := by
  obtain ⟨pos, whole, -⟩ := vopRate_dvd c.vopOp.f
  generalize hk : (vopRate c.vopOp.f).1 = k at pos whole
  have lanes : ∀ step, ((List.range 32).map (vopValue s c tile step)).length = 32 / k * k := fun step => by rw [List.length_map, List.length_range, whole]
  have hits : ∀ w, w ∈ v.laneHits c.sp.val u tile r l ↔ (tile ∈ tiles ∧ ∃ step < c.vopOp.rep, ∃ g < 32 / k,
      w = ⟨f (start + step * (32 / k) + g + (vopRate c.vopOp.f).2), tile, c.vopOp.vd + step, g * k,
        (((List.range 32).map (vopValue s c tile step)).drop (g * k)).take k, c.ctx.val⟩ ∧ c.vopOp.vd + step = r ∧ g * k ≤ l ∧ l < g * k + k) := by
    intro w
    rw [State.mem_laneHits, writes, List.mem_map]
    constructor
    · rintro ⟨⟨x, hx, rfl⟩, ht, hr, lo, hi, -⟩
      obtain ⟨y, hy, hx⟩ := List.mem_flatMap.mp hx
      obtain ⟨step, hs, g, hg, rfl⟩ := mem_vopWrites.mp hx
      rw [hk] at hg ⊢
      simp only [hk] at ht hr lo hi
      subst ht
      rw [group_length (lanes step) hg] at hi
      exact ⟨hy, step, hs, g, hg, rfl, hr, lo, hi⟩
    · rintro ⟨ht, step, hs, g, hg, rfl, hr, lo, hi⟩
      refine ⟨⟨_, List.mem_flatMap.mpr ⟨tile, ht, mem_vopWrites.mpr ⟨step, hs, g, hk.symm ▸ hg, rfl⟩⟩, by rw [hk]⟩, rfl, hr, lo, ?_, ?_⟩
      · show l < g * k + _
        rwa [group_length (lanes step) hg]
      · have turn : (step + 1) * (32 / k) ≤ c.vopOp.rep * (32 / k) := Nat.mul_le_mul_right _ hs
        rw [Nat.succ_mul] at turn
        exact lt_of_lt_of_le (come _ (by rw [hk]; omega)) hu
  by_cases hit : tile ∈ tiles ∧ c.vopOp.vd ≤ r ∧ r < c.vopOp.vd + c.vopOp.rep
  · obtain ⟨ht, lo, hi⟩ := hit
    rw [if_pos ⟨ht, lo, hi⟩]
    have group : l / k * k ≤ l ∧ l < l / k * k + k := ⟨Nat.div_mul_le_self l k, Nat.lt_div_mul_add pos⟩
    have inside : l / k < 32 / k := Nat.div_lt_of_lt_mul (by rw [Nat.mul_comm, whole]; exact hl)
    refine State.lane_written (List.ne_nil_of_mem ((hits _).mpr ⟨ht, r - c.vopOp.vd, by omega, l / k, inside, rfl, by omega, group.1, group.2⟩)) fun w hw => ?_
    obtain ⟨-, step, -, g, -, rfl, hr, lo', hi'⟩ := (hits w).mp hw
    obtain rfl : step = r - c.vopOp.vd := by omega
    exact ⟨rfl, group_getD lo' hi' hl⟩
  · rw [if_neg hit]
    refine State.lane_missed (State.SameRegs.of_tiles same) (List.eq_nil_iff_forall_not_mem.mpr fun w hw => hit ?_)
    obtain ⟨ht, step, hs, -, -, -, hr, -⟩ := (hits w).mp hw
    exact ⟨ht, by omega, by omega⟩

/-- A bank slip puts off what is to come by its own length. -/
theorem later_le (t n v : Nat) : later t n v ≤ v + n := by
  unfold later
  split <;> omega

/-- Settles O14: the steps find every register as it was held, since what a VOP writes comes after its last read. -/
theorem vopComputes : Obligations.VopComputes := by
  intro s p c h ho
  refine ⟨_, exec_vop c s, ?_⟩
  obtain ⟨u, k, st, -, fed⟩ := h.feed_slot (by omega) (by omega) (by simp [State.tagOk, ho]) (by simp [State.loadMeets, ho])
  rw [fed, u.doSlot_vop ho]
  have active : u.activeTiles c = s.activeTiles c := State.eq_of_tiles (·.activeTiles c) (fun _ => rfl) st.tiles
  obtain ⟨vrest, prest, -⟩ := h.rested.written
  have vwrites : (u.spire c.sp.val).vwrites = [] := (Spire.eq_of_unstarted (·.vwrites) (fun _ => rfl) st.unstarted).trans vrest
  have pwrites : (u.spire c.sp.val).pwrites = [] := (Spire.eq_of_unstarted (·.pwrites) (fun _ => rfl) st.unstarted).trans prest
  have done : ∃ vs ps, VopDone s u ((u.activeTiles c).foldl (vopTile c c.vopOp (s.part p).ccyc s.free) u) c.sp.val vs ps ∧
      (vopToPred c.vopOp.f = false → vs = (s.activeTiles c).flatMap (vopWrites s c (s.part p).ccyc) ∧ ps = []) ∧
      (vopToPred c.vopOp.f = true → vs = [] ∧ ps = (s.activeTiles c).map (vopPredWrite s c (s.part p).ccyc)) := by
    cases hp : vopToPred c.vopOp.f with
    | false =>
      refine ⟨_, _, vopFold_writes _ hp (u.activeTiles_nodup c) st.tiles (by simp [vwrites]), fun _ => ⟨?_, pwrites⟩, fun e => nomatch e⟩
      rw [vwrites, active, List.nil_append]
    | true =>
      refine ⟨_, _, vopFold_preds _ hp (u.activeTiles c) st.tiles vwrites, (fun e => nomatch e), fun _ => ⟨rfl, ?_⟩⟩
      rw [pwrites, active, List.nil_append]
  obtain ⟨vs, ps, ⟨tiles, others, writes, preds⟩, toReg, toPred⟩ := done
  generalize (u.activeTiles c).foldl (vopTile c c.vopOp (s.part p).ccyc s.free) u = v at tiles others writes preds ⊢
  have rest : (v.stall c.sp.val ((s.part p).ccyc + 1) c.slips).tiles = s.tiles :=
    (State.stall_tiles ((State.eq_of_tiles (·.core.twrites) (fun _ => rfl) tiles).trans h.clean.2.2.2) ..).trans tiles
  refine ⟨SameOutside.of_tiles rest, ?_, fun i hi => ?_, fun hp => ?_, fun hp => ?_⟩
  · have e := congrArg (fun b : State => ({ b.core with spires := s.core.spires } : Core)) rest
    exact e
  · rw [State.stall_spire_ne _ _ _ hi, others i hi]
    exact st.others i hi
  · obtain ⟨rfl, rfl⟩ := toReg hp
    constructor
    · rw [State.stall_spire, Spire.stall_pwrites, preds]
      rfl
    · intro w tile r l hw _ hl
      refine vopWrites_lane rest (by rw [State.stall_spire, Spire.stall_vwrites, writes]) (fun n hn => ?_) hw hl
      have := later_le ((s.part p).ccyc + 1) c.slips n
      omega
  · obtain ⟨rfl, rfl⟩ := toPred hp
    constructor
    · rw [State.stall_spire, Spire.stall_vwrites, writes]
      rfl
    · rw [State.stall_spire, Spire.stall_pwrites, preds, List.map_map]
      refine List.map_congr_left fun tile _ => ?_
      have pos : 0 < c.vopOp.rep := Nat.succ_pos _
      have due : later ((s.part p).ccyc + 1) c.slips ((s.part p).ccyc + c.vopOp.rep - 1 + 2) = (s.part p).ccyc + c.vopOp.rep + 1 + c.slips := by
        unfold later
        rw [if_pos (by omega)]
        omega
      simp only [Function.comp, vopPredWrite, due]

end Sys2Proof.Machine
end

section
/-! SUPPORT. VLD. -/

namespace Sys2Proof.Machine

theorem exec_vld (c : StreamCmd) (s : State) : exec (.vld c) s = .next (s.feed c) := rfl

/-! A step. -/

/-- The values that a step of a VLD reads: its own row, or its part of the one row. -/
theorem vldRead_values (rd : Nat → Byte) (c : StreamCmd) (f : Form) (e : Elem) (base r : Nat) : (vldRead rd c f e base r).1 =
    if fld c.w2 10 0 * 8 = 0 then (rowVals rd f e base (32 * (r + 1))).drop (32 * r) else rowVals rd f e (base + r * (fld c.w2 10 0 * 8)) 32 := by
  unfold vldRead
  dsimp only
  split <;> rfl

/-- The write that a step of a VLD makes in a tile. -/
def loadWrite (s : State) (l : VLoad) (f : Form) (e : Elem) (tile : Nat) : VWrite :=
  ⟨l.at_ + 3, tile, fld l.cmd.w0 27 24 + l.step, 0,
    (vldRead (s.sramByte tile) l.cmd f e (s.addr l.cmd tile (fld l.cmd.w1 17 0)) l.step).1.map (fun v => (vldConv v).1), l.cmd.ctx.val⟩

/-- A step of a VLD in a tile adds its write to those of the Spire. -/
theorem loadTile_spire {s a : State} (same : a.tiles = s.tiles) (steady : s.Steady) (l : VLoad) (f : Form) (e : Elem) (tile : Nat) :
    (loadTile l f e a tile).tiles = s.tiles ∧
    ((loadTile l f e a tile).spire l.cmd.sp.val).vwrites = (a.spire l.cmd.sp.val).vwrites ++ [loadWrite s l f e tile] ∧
    ((loadTile l f e a tile).spire l.cmd.sp.val).loads = (a.spire l.cmd.sp.val).loads := by
  have quiet : a.Steady := by
    obtain ⟨ce, ue, tw⟩ := steady
    exact ⟨(State.eq_of_tiles (·.core.sramCe) (fun _ => rfl) same).trans ce, (State.eq_of_tiles (·.core.sramUe) (fun _ => rfl) same).trans ue,
      (State.eq_of_tiles (·.core.twrites) (fun _ => rfl) same).trans tw⟩
  have bytes : a.sramByte tile = s.sramByte tile := State.eq_of_tiles (·.sramByte tile) (fun _ => rfl) same
  have addr : a.addr l.cmd tile (fld l.cmd.w1 17 0) = s.addr l.cmd tile (fld l.cmd.w1 17 0) :=
    State.eq_of_tiles (·.addr l.cmd tile (fld l.cmd.w1 17 0)) (fun _ => rfl) same
  unfold loadTile
  dsimp only
  rw [quiet.byteBefore, bytes, addr, State.Steady.noteReads (by exact quiet)]
  refine ⟨same, ?_, ?_⟩
  · rw [State.spire_onSpire, List.map_map]
    rfl
  · rw [State.spire_onSpire]

theorem loadFold_spire {s a : State} (same : a.tiles = s.tiles) (steady : s.Steady) (l : VLoad) (f : Form) (e : Elem) (tiles : List Nat) :
    (tiles.foldl (loadTile l f e) a).tiles = s.tiles ∧
    ((tiles.foldl (loadTile l f e) a).spire l.cmd.sp.val).vwrites = (a.spire l.cmd.sp.val).vwrites ++ tiles.map (loadWrite s l f e) ∧
    ((tiles.foldl (loadTile l f e) a).spire l.cmd.sp.val).loads = (a.spire l.cmd.sp.val).loads := by
  induction tiles generalizing a with
  | nil => exact ⟨same, (List.append_nil _).symm, rfl⟩
  | cons x tiles ih =>
    obtain ⟨same', writes, loads⟩ := loadTile_spire same steady l f e x
    obtain ⟨same'', writes', loads'⟩ := ih same'
    refine ⟨same'', ?_, loads'.trans loads⟩
    rw [List.foldl_cons, writes', writes, List.map_cons, List.append_assoc]
    rfl

/-- The one step that is due is made, and no other. -/
theorem State.loadDue_one {s u : State} (same : u.tiles = s.tiles) (steady : s.Steady) {l : VLoad} {f : Form} {e : Elem}
    (hf : Form.ofCode (fld l.cmd.w1 20 18) = some f) (he : Elem.ofCode (fld l.cmd.w1 23 21) = some e)
    (hl : (u.spire l.cmd.sp.val).loads = [l]) (hw : (u.spire l.cmd.sp.val).vwrites = []) :
    (u.loadDue l.cmd.sp.val l.at_).tiles = s.tiles ∧ ((u.loadDue l.cmd.sp.val l.at_).spire l.cmd.sp.val).vwrites = l.tiles.map (loadWrite s l f e) ∧
    ((u.loadDue l.cmd.sp.val l.at_).spire l.cmd.sp.val).loads = [] := by
  have due : u.loadDue l.cmd.sp.val l.at_ = l.tiles.foldl (loadTile l f e) (u.setSpire l.cmd.sp.val { u.spire l.cmd.sp.val with loads := [] }) := by
    unfold State.loadDue
    simp only [hl, List.filter_cons, le_refl, decide_true, if_true, List.filter_nil, List.isEmpty_cons, Bool.false_eq_true, if_false,
      Bool.not_true, List.foldl_cons, List.foldl_nil, State.loadStep, hf, he]
  have start : (u.setSpire l.cmd.sp.val { u.spire l.cmd.sp.val with loads := [] }).spire l.cmd.sp.val = _ := State.spire_setSpire ..
  obtain ⟨tiles, writes, loads⟩ := loadFold_spire (a := u.setSpire l.cmd.sp.val { u.spire l.cmd.sp.val with loads := [] }) same steady l f e l.tiles
  rw [due]
  refine ⟨tiles, ?_, ?_⟩
  · rw [writes, start, hw, List.nil_append]
  · rw [loads, start]

/-! The command. -/

theorem State.doSlot_vld (s : State) {c : StreamCmd} (ho : c.op = 0x23) (t id : Nat) : s.doSlot c t id = s.doVld c t := by
  rw [State.doSlot, if_neg (by omega), if_neg (by omega), if_neg (by omega), if_pos ho]

section

variable {s : State} {p : Nat} {c : StreamCmd} (h : Ready s p c) (ho : c.op = 0x23)

include h ho

/-- A VLD that meets a bank in use waits in its context. -/
theorem Ready.feed_vld_waits (meets : s.loadMeets c (s.part p).ccyc = true) : OnlySpire s (s.feed c) c.sp.val ∧
    (ctxOf (s.feed c) c).queue = [⟨c, (ctxOf s c).pc, readOf s c⟩] ∧ ((s.feed c).spire c.sp.val).loads = [] := by
  obtain ⟨t, e, f⟩ := h.reads_execute (by simp [ho, opExecute])
  have meets' : t.loadMeets c (s.part p).ccyc = true :=
    (State.eq_of_tiles (·.loadMeets c (s.part p).ccyc) (fun _ => rfl) f.only.tiles).trans meets
  have waits : t.startNext p c.sp.val c.ctx.val = none := by
    rw [f.startNext h rfl rfl rfl (by simp [ho]), if_neg (by simp [ho, opControl]), if_pos meets']
  rw [f.feed_waits h e h.ctx_idle.1 waits]
  refine ⟨f.only, by rw [f.ctx], (f.spire_eq (·.loads) fun _ _ _ _ => rfl).trans h.rested.written.2.2.2⟩

/-- A VLD that starts has a step to make for each of its registers. -/
theorem Ready.feed_vld_starts (meets : s.loadMeets c (s.part p).ccyc = false) : (s.feed c).tiles = s.tiles ∧
    (∀ i, i ≠ c.sp.val → (s.feed c).spire i = s.spire i) ∧ ((s.feed c).spire c.sp.val).loads =
      (List.range (fld c.w0 31 28 + 1)).map (fun r => ⟨later ((s.part p).ccyc + 1) c.slips ((s.part p).ccyc + r), c, r, s.activeTiles c⟩) := by
  obtain ⟨u, k, st, -, fed⟩ := h.feed_slot (by omega) (by omega) (by simp [State.tagOk, ho]) meets
  rw [fed, u.doSlot_vld ho]
  have active : u.activeTiles c = s.activeTiles c := State.eq_of_tiles (·.activeTiles c) (fun _ => rfl) st.tiles
  have rest : (u.spire c.sp.val).loads = [] := (Spire.eq_of_unstarted (·.loads) (fun _ => rfl) st.unstarted).trans h.rested.written.2.2.2
  have twrites : (u.doVld c (s.part p).ccyc).core.twrites = [] := st.twrites h
  refine ⟨(State.stall_tiles twrites ..).trans st.tiles, fun i hi => ?_, ?_⟩
  · rw [State.stall_spire_ne _ _ _ hi, State.doVld, State.spire_onSpire_ne _ _ hi]
    exact st.others i hi
  · rw [State.stall_spire, Spire.stall_loads, State.doVld, State.spire_onSpire, rest, active, List.nil_append, List.map_map]
    rfl

end

/-- Settles O15: what a step reads is the memory as the command finds it, since no write is on its way. -/
theorem vldLoads : Obligations.VldLoads := by
  intro s p c f e h ho hf he
  refine ⟨fun meets => ⟨_, exec_vld c s, h.feed_vld_waits ho meets⟩, fun meets => ⟨_, exec_vld c s, ?_⟩, fun u l hu hw hl hc => ?_⟩
  · obtain ⟨tiles, others, loads⟩ := h.feed_vld_starts ho meets
    refine ⟨SameOutside.of_tiles tiles, ?_, others, loads⟩
    have inside := congrArg (fun b : State => ({ b.core with spires := s.core.spires } : Core)) tiles
    exact inside
  · subst hc
    have same : u.tiles = s.tiles := (congrArg State.tiles hu :)
    have steady : s.Steady := ⟨h.clean.2.1, h.clean.2.2.1, h.clean.2.2.2⟩
    obtain ⟨tiles, writes, loads⟩ := State.loadDue_one same steady hf he hl hw
    refine ⟨?_, loads, SameOutside.of_tiles (tiles.trans same.symm)⟩
    rw [writes]
    refine List.map_congr_left fun tile _ => ?_
    rw [loadWrite, vldRead_values]

end Sys2Proof.Machine
end

section
/-! SUPPORT. Timed writes: VST and READOUT. -/

namespace Sys2Proof.Machine

theorem exec_vst (c : StreamCmd) (s : State) : exec (.vst c) s = .next (s.feed c) := rfl

theorem exec_readout (c : StreamCmd) (s : State) : exec (.readout c) s = .next (s.feed c) := rfl

/-! Timed writes that do not meet. -/

/-- Writes that clash have no byte in common. -/
def TWrite.Apart (v w : TWrite) : Prop :=
  v.clashes w = true → ∀ i, i < v.bytes.length → ∀ j, j < w.bytes.length → (v.addr + i) % 0x40000 ≠ (w.addr + j) % 0x40000

theorem TWrite.clashes_comm (v w : TWrite) : v.clashes w = w.clashes v := by
  unfold TWrite.clashes
  simp only [@eq_comm _ w.tile v.tile]
  rw [Bool.or_comm (decide (v.from_ < v.at_)), Bool.and_right_comm (decide (v.tile = w.tile))]

theorem TWrite.Apart.symm {v w : TWrite} (h : v.Apart w) : w.Apart v :=
  fun hc i hi j hj e => h (by rw [TWrite.clashes_comm]; exact hc) j hj i hi e.symm

/-- Whether writes are apart goes by what they say. -/
theorem TWrite.Apart.of_what {v w x : TWrite} (e : x.what = v.what) (h : v.Apart w) : x.Apart w := by
  obtain ⟨f, a, sp, tile, addr, bytes, id⟩ := v
  obtain ⟨f', a', sp', tile', addr', bytes', id'⟩ := x
  obtain ⟨rfl, rfl, rfl, rfl, rfl, rfl⟩ : f' = f ∧ a' = a ∧ sp' = sp ∧ tile' = tile ∧ addr' = addr ∧ bytes' = bytes := by
    simpa [TWrite.what] using e
  exact h

/-- Writes whose bytes fall at once do not clash. -/
theorem TWrite.apart_of_instant {v w : TWrite} (hv : v.from_ = v.at_) (hw : w.from_ = w.at_) : v.Apart w := by
  intro hc
  simp [TWrite.clashes, hv, hw] at hc

theorem TWrite.apart_of_tile {v w : TWrite} (h : v.tile ≠ w.tile) : v.Apart w := by
  intro hc
  simp [TWrite.clashes, h] at hc

/-- A write that another blurs is where it was. -/
theorem TWrite.blur_place (w v : TWrite) (id : Nat) : (w.blur v id).place = w.place := by
  unfold TWrite.blur
  split
  · simp [TWrite.place]
  · rfl

/-- A byte of a write that is a byte of another. -/
theorem TWrite.index_isSome {v : TWrite} {tile a : Nat} (h : (v.index tile a).isSome = true) :
    ∃ i, i < v.bytes.length ∧ (v.addr + i) % 0x40000 = a % 0x40000 := by
  unfold TWrite.index at h
  dsimp only at h
  split at h
  · rename_i hi
    exact ⟨_, hi.2, by omega⟩
  · cases h

theorem TWrite.blur_apart {w v : TWrite} (h : v.Apart w) (id : Nat) : w.blur v id = w := by
  unfold TWrite.blur
  split
  · rename_i hc
    have same : w.bytes.zipIdx.map (fun b => if (v.index w.tile (w.addr + b.2)).isSome then (Config.hazardWord id b.2).setWidth 8 else b.1) =
        w.bytes.zipIdx.map Prod.fst := by
      refine List.map_congr_left fun b hb => if_neg fun hs => ?_
      obtain ⟨i, hi, e⟩ := TWrite.index_isSome hs
      exact h hc i hi b.2 (List.snd_lt_of_mem_zipIdx hb) e
    rw [same, List.zipIdx_map_fst]
  · rfl

/-! A timed write of a Spire with no MAC under way. -/

theorem State.breakSpans_none {s : State} {sp : Nat} (h : (s.spire sp).spans = []) (id tile a n from_ : Nat) :
    s.breakSpans sp id tile a n from_ = s := by
  unfold State.breakSpans
  simp only [h, List.filter_nil, List.map_nil, List.isEmpty_nil, if_true]

/-- The timed writes after one more. -/
def blurredWrites (l : List TWrite) (w : TWrite) : List TWrite := l.map (fun v => v.blur w w.id) ++ [l.foldl (fun x v => x.blur v w.id) w]

theorem State.timedWrite_eq {s : State} {sp : Nat} (h : (s.spire sp).spans = []) (tile a from_ at_ : Nat) (bs : List Byte) :
    s.timedWrite sp tile a from_ at_ bs =
      { s with free := s.free + 1, core := { s.core with twrites := blurredWrites s.core.twrites ⟨from_, at_, sp, tile, a, bs, s.free⟩ } } := by
  unfold State.timedWrite
  dsimp only [State.takeFree]
  rw [State.breakSpans_none (by exact h)]
  rfl

theorem blurredWrites_place (l : List TWrite) (w : TWrite) : (blurredWrites l w).map TWrite.place = l.map TWrite.place ++ [w.place] := by
  have mine : (l.foldl (fun x v => x.blur v w.id) w).place = w.place := foldl_keeps TWrite.place _ (fun _ _ => TWrite.blur_place ..) _ _
  have theirs : (l.map (fun v => v.blur w w.id)).map TWrite.place = l.map TWrite.place := by
    rw [List.map_map]
    exact List.map_congr_left fun v _ => TWrite.blur_place ..
  rw [blurredWrites, List.map_append, theirs, List.map_singleton, mine]

theorem blurredWrites_apart {l : List TWrite} {w : TWrite} (h : ∀ v ∈ l, v.Apart w) : blurredWrites l w = l ++ [w] := by
  have mine : l.foldl (fun x v => x.blur v w.id) w = w := List.foldlRecOn (motive := fun x => x = w) l _ rfl fun x hx v hv => by
    rw [hx]
    exact TWrite.blur_apart (h v hv) _
  have theirs : l.map (fun v => v.blur w w.id) = l := by
    refine (List.map_congr_left fun v hv => TWrite.blur_apart (h v hv).symm _).trans (List.map_id l)
  rw [blurredWrites, mine, theirs]

/-! What a command that writes rows leaves. -/

/-- A state but for its Spires, its timed writes and the count of free values. -/
def State.writeless (s : State) : State := { s with core := { s.core with spires := [], twrites := [] }, free := 0 }

theorem State.eq_of_writeless {γ : Type} (g : State → γ) (hg : ∀ a : State, g a.writeless = g a) {s t : State} (h : t.writeless = s.writeless) : g t = g s := by
  rw [← hg t, h, hg]

/-- Timed writes of a Spire have been added, and nothing else has changed but its counters. -/
structure Stored (s b : State) (sp : Nat) (ws : List TWrite) : Prop where
  writeless : b.writeless = s.writeless
  others : ∀ i, i ≠ sp → b.spire i = s.spire i
  own : { b.spire sp with ctr := (s.spire sp).ctr } = s.spire sp
  places : b.core.twrites.map TWrite.place = ws.map TWrite.place
  whats : ws.Pairwise TWrite.Apart → b.core.twrites.map TWrite.what = ws.map TWrite.what

theorem Stored.start {s : State} (h : s.core.twrites = []) (sp : Nat) : Stored s s sp [] where
  writeless := rfl
  others _ _ := rfl
  own := rfl
  places := by rw [h, List.map_nil]
  whats _ := by rw [h, List.map_nil]

section

variable {s b : State} {sp : Nat} {ws : List TWrite} (h : Stored s b sp ws)

include h

theorem Stored.spire_eq {γ : Type} (g : Spire → γ) (hg : ∀ (x : Spire) k, g { x with ctr := k } = g x) : g (b.spire sp) = g (s.spire sp) := by
  rw [← hg (b.spire sp), h.own]

/-- A timed write is added to the others. -/
theorem Stored.timedWrite (spans : (s.spire sp).spans = []) (tile a from_ at_ : Nat) (bs : List Byte) :
    Stored s (b.timedWrite sp tile a from_ at_ bs) sp (ws ++ [⟨from_, at_, sp, tile, a, bs, 0⟩]) := by
  have clear : (b.spire sp).spans = [] := (h.spire_eq (·.spans) fun _ _ => rfl).trans spans
  rw [State.timedWrite_eq clear]
  refine ⟨h.writeless, h.others, h.own, ?_, fun pairwise => ?_⟩
  · rw [blurredWrites_place, h.places, List.map_append]
    rfl
  · obtain ⟨old, -, new⟩ := List.pairwise_append.mp pairwise
    have whats := h.whats old
    rw [blurredWrites_apart fun v hv => ?_, List.map_append, whats, List.map_append]
    · rfl
    · obtain ⟨w, hw, e⟩ := List.mem_map.mp (whats ▸ List.mem_map_of_mem hv)
      exact TWrite.Apart.of_what e.symm (TWrite.Apart.of_what rfl (new w hw _ List.mem_cons_self).symm).symm

theorem Stored.onCtr (f : SpireCtr → SpireCtr) : Stored s (b.onCtr sp f) sp ws where
  writeless := h.writeless
  others i hi := (State.spire_onSpire_ne _ _ hi).trans (h.others i hi)
  own := by
    rw [State.onCtr, State.spire_onSpire]
    exact h.own
  places := h.places
  whats := h.whats

/-- Writes that are added one after the other. -/
theorem Stored.foldl {α : Type} {f : State → α → State} {g : α → List TWrite} (step : ∀ a x vs, Stored s a sp vs → Stored s (f a x) sp (vs ++ g x))
    (l : List α) : Stored s (l.foldl f b) sp (ws ++ l.flatMap g) := by
  induction l generalizing b ws with
  | nil => simpa using h
  | cons x l ih =>
    have e := ih (step b x ws h)
    rwa [List.append_assoc, ← List.flatMap_cons] at e

theorem Stored.foldl_one {α : Type} {f : State → α → State} {g : α → TWrite} (step : ∀ a x vs, Stored s a sp vs → Stored s (f a x) sp (vs ++ [g x]))
    (l : List α) : Stored s (l.foldl f b) sp (ws ++ l.map g) := by
  rw [List.map_eq_flatMap]
  exact h.foldl step l

end

/-! A stall. -/

/-- When the writes of a Spire fall, after a stall. -/
def stalledTimes {β : Type} (sp t n : Nat) (x : Nat × Nat × Nat × β) : Nat × Nat × Nat × β :=
  if x.2.2.1 = sp then (later t n x.1, later t n x.2.1, x.2.2) else x

theorem State.stall_whats (s : State) (sp t n : Nat) :
    (s.stall sp t n).core.twrites.map TWrite.what = (s.core.twrites.map TWrite.what).map (stalledTimes sp t n) := by
  rw [State.stall_twrites, List.map_map, List.map_map]
  refine List.map_congr_left fun w _ => ?_
  by_cases own : w.spire = sp
  · simp [TWrite.what, stalledTimes, own]
  · simp [TWrite.what, stalledTimes, own]

theorem State.stall_places (s : State) (sp t n : Nat) :
    (s.stall sp t n).core.twrites.map TWrite.place = (s.core.twrites.map TWrite.place).map (stalledTimes sp t n) := by
  rw [State.stall_twrites, List.map_map, List.map_map]
  refine List.map_congr_left fun w _ => ?_
  by_cases own : w.spire = sp
  · simp [TWrite.place, stalledTimes, own]
  · simp [TWrite.place, stalledTimes, own]

theorem State.stall_writeless (s : State) (sp t n : Nat) : (s.stall sp t n).writeless = s.writeless := by
  unfold State.stall
  split
  · rfl
  · rfl

end Sys2Proof.Machine
end

section
/-! SUPPORT. VST and READOUT. -/

namespace Sys2Proof.Machine

theorem Spire.startSlot_spans {x : Spire} (h : x.spans = []) (c : StreamCmd) (pod : Bool) (t : Nat) : (x.startSlot c pod t).spans = [] := by
  unfold Spire.startSlot
  dsimp only
  split
  · show x.spans.filter _ = []
    rw [h, List.filter_nil]
  · split
    · exact h
    · split
      · exact h
      · exact h

/-- No MAC is under way in the Spire of a command that starts. -/
theorem Started.spans {s u : State} {p : Nat} {c : StreamCmd} (h : Ready s p c) {k : Ctx} {pod : Bool} {n : Nat} (st : Started s u c k pod n) :
    (u.spire c.sp.val).spans = [] := by
  obtain ⟨y, hy, hr⟩ := st.own
  have rest : y.spans = (s.spire c.sp.val).spans := (congrArg Spire.spans hr :)
  rw [hy]
  exact Spire.startSlot_spans (rest.trans h.rested.written.2.2.1) ..

/-- With no error in tile SRAM, a read of it notes none. -/
theorem State.noteReads_none {s : State} (ce : s.core.sramCe = []) (ue : s.core.sramUe = []) (sp : Nat) (reads : List (Nat × Nat × Nat)) (ctx : Nat) :
    s.noteReads sp reads ctx = s := by
  unfold State.noteReads
  simp only [ce, ue, List.isEmpty_nil, Bool.and_self, if_true]

theorem State.writeless_of_tiles {s u : State} (h : u.tiles = s.tiles) : u.writeless = s.writeless :=
  congrArg (fun a : State => ({ a with core := { a.core with twrites := [] } } : State)) h

theorem State.SameRegs.of_writeless {s a : State} (h : a.writeless = s.writeless) : a.SameRegs s :=
  ⟨State.eq_of_writeless (·.core.regOwner) (fun _ => rfl) h, State.eq_of_writeless (·.core.vreg) (fun _ => rfl) h⟩

/-! VST. -/

/-- The code of a lane that a VST writes. -/
def vstCode (s : State) (c : StreamCmd) (e : Elem) (tile r l : Nat) : Nat :=
  if e = .fp32 then (s.regSeen c tile r l).toNat else (e.convert (fp32Val (s.regSeen c tile r l))).code

/-- The write that step `r` of a VST makes in a tile. -/
def vstWrite (s : State) (c : StreamCmd) (e : Elem) (t tile r : Nat) : TWrite :=
  ⟨t + r + 3, t + r + 3, c.sp.val, tile, (s.addr c tile (fld c.w1 17 0) + r * pitchOf (fld c.w2 10 0) (denseBytes e 32)) % 0x40000,
    packCodes e ((List.range 32).map (vstCode s c e tile (fld c.w0 27 24 + r))), 0⟩

theorem vstConvs_code (s : State) (c : StreamCmd) (e : Elem) (tile r : Nat) :
    (if e = .fp32 then ((List.range 32).map fun l => s.regSeen c tile r l).map (fun x => (⟨x.toNat, false, false⟩ : Conv))
      else ((List.range 32).map fun l => s.regSeen c tile r l).map (fun x => e.convert (fp32Val x))).map (·.code) =
    (List.range 32).map (vstCode s c e tile r) := by
  by_cases he : e = .fp32
  · rw [if_pos he, List.map_map, List.map_map]
    exact List.map_congr_left fun l _ => (if_pos he).symm
  · rw [if_neg he, List.map_map, List.map_map]
    exact List.map_congr_left fun l _ => (if_neg he).symm

section

variable {s u a : State} {c : StreamCmd} {ws : List TWrite} (h : Stored u a c.sp.val ws) (same : u.writeless = s.writeless)
  (spans : (u.spire c.sp.val).spans = [])

include h same spans

theorem vstTile_stored (vwrites : (u.spire c.sp.val).vwrites = []) (e : Elem) (t tile : Nat) :
    Stored u (vstTile c e t s.free a tile) c.sp.val (ws ++ (List.range (fld c.w0 31 28 + 1)).map (vstWrite s c e t tile)) := by
  have regs : a.SameRegs s := State.SameRegs.of_writeless (h.writeless.trans same)
  have addr : a.addr c tile (fld c.w1 17 0) = s.addr c tile (fld c.w1 17 0) :=
    State.eq_of_writeless (·.addr c tile (fld c.w1 17 0)) (fun _ => rfl) (h.writeless.trans same)
  have unwritten : ∀ w ∈ (a.spire c.sp.val).vwrites, w.tile ≠ tile := by
    rw [(h.spire_eq (·.vwrites) fun _ _ => rfl).trans vwrites]
    simp
  unfold vstTile
  dsimp only
  simp only [State.vread_regSeen regs unwritten, addr]
  refine h.foldl_one (fun b r vs hb => ?_) _
  rw [vstConvs_code]
  exact (hb.timedWrite spans ..).onCtr _

/-! READOUT. -/

omit h same spans in
theorem State.setSeen_length (s : State) (id ctx tile set : Nat) : (s.setSeen id ctx tile set).length = 256 := by
  unfold State.setSeen
  dsimp only
  split
  · exact Tbl.length_getRun ..
  · rw [List.length_map, List.length_range]

end

/-- The code that a READOUT writes for an element of its set. -/
def readoutCode (s : State) (c : StreamCmd) (e : Elem) (tile i : Nat) : Nat :=
  (readoutVal (s.tag tile (fld c.w0 20 18)) e c.roQ ((s.setSeen s.free c.ctx.val tile (fld c.w0 20 18)).getD i 0#32)).code

/-- The write that a READOUT makes for a row of its set in a tile. -/
def readoutWrite (s : State) (c : StreamCmd) (e : Elem) (t tile r : Nat) : TWrite :=
  ⟨t, t + 7, c.sp.val, tile, (s.addr c tile (fld c.w1 17 0) + r * pitchOf (fld c.w1 28 18) (2 * e.width)) % 0x40000,
    packCodes e ((List.range 16).map fun j => readoutCode s c e tile (16 * r + j)), 0⟩

/-- The part of a list that a piece of it holds. -/
theorem piece_eq {α β : Type} {xs : List α} {n k g : Nat} (hx : xs.length = n * k) (hg : g < n) (f : α → β) (d : α) :
    ((xs.map f).drop (g * k)).take k = (List.range k).map fun j => f (xs.getD (k * g + j) d) := by
  have whole : (g + 1) * k ≤ n * k := Nat.mul_le_mul_right k hg
  rw [Nat.succ_mul] at whole
  refine List.ext_getElem (by simp only [List.length_take, List.length_drop, List.length_map, List.length_range, hx]; omega) fun i h₁ h₂ => ?_
  have hi : i < k := by simpa using h₂
  have inside : k * g + i < xs.length := by
    rw [Nat.mul_comm k g, hx]
    omega
  simp [inside, Nat.mul_comm g k]

theorem readoutRows (s : State) (c : StreamCmd) (e : Elem) (tile : Nat) :
    (piecesOf 16 16 (((s.setSeen s.free c.ctx.val tile (fld c.w0 20 18)).map (readoutVal (s.tag tile (fld c.w0 20 18)) e c.roQ)).map (·.code))).zipIdx =
      (List.range 16).map fun r => ((List.range 16).map fun j => readoutCode s c e tile (16 * r + j), r) := by
  have len : (s.setSeen s.free c.ctx.val tile (fld c.w0 20 18)).length = 16 * 16 := State.setSeen_length ..
  rw [List.map_map, piecesOf_whole (n := 16) (by decide) le_rfl (by rw [List.length_map, len]), zipIdx_map_range]
  refine List.map_congr_left fun r hr => ?_
  rw [piece_eq len (List.mem_range.mp hr) _ 0#32]
  rfl

theorem readoutTile_stored {s u a : State} {c : StreamCmd} {ws : List TWrite} (h : Stored u a c.sp.val ws) (same : u.writeless = s.writeless)
    (spans : (u.spire c.sp.val).spans = []) (ce : s.core.sramCe = []) (ue : s.core.sramUe = []) (e : Elem) (t tile : Nat) :
    Stored u (readoutTile c e t s.free a tile) c.sp.val (ws ++ (List.range 16).map (readoutWrite s c e t tile)) := by
  have less := h.writeless.trans same
  have addr : a.addr c tile (fld c.w1 17 0) = s.addr c tile (fld c.w1 17 0) := State.eq_of_writeless (·.addr c tile (fld c.w1 17 0)) (fun _ => rfl) less
  have tag : a.tag tile (fld c.w0 20 18) = s.tag tile (fld c.w0 20 18) := State.eq_of_writeless (·.tag tile (fld c.w0 20 18)) (fun _ => rfl) less
  have seen : a.setSeen s.free c.ctx.val tile (fld c.w0 20 18) = s.setSeen s.free c.ctx.val tile (fld c.w0 20 18) :=
    State.eq_of_writeless (·.setSeen s.free c.ctx.val tile (fld c.w0 20 18)) (fun _ => rfl) less
  unfold readoutTile
  dsimp only
  rw [addr, tag, seen, readoutRows]
  simp only [List.foldl_map]
  have rows := (h.foldl_one (f := fun b r => b.timedWrite c.sp.val tile ((s.addr c tile (fld c.w1 17 0) + r * pitchOf (fld c.w1 28 18) (2 * e.width)) % 0x40000)
    t (t + 7) (packCodes e ((List.range 16).map fun j => readoutCode s c e tile (16 * r + j)))) (g := readoutWrite s c e t tile)
    (fun b r vs hb => hb.timedWrite spans ..) (List.range 16))
  have clean := fun f => ((rows.onCtr f).writeless.trans same)
  rw [State.noteReads_none]
  · exact rows.onCtr _
  · exact (State.eq_of_writeless (·.core.sramCe) (fun _ => rfl) (clean _)).trans ce
  · exact (State.eq_of_writeless (·.core.sramUe) (fun _ => rfl) (clean _)).trans ue

/-! Rows that do not overlap. -/

theorem packNibbles_length : ∀ cs : List Nat, (packNibbles cs).length = (cs.length + 1) / 2
  | [] => rfl
  | [_] => by simp [packNibbles]
  | _ :: _ :: t => by
    have ih := packNibbles_length t
    simp only [packNibbles, List.length_cons, ih]
    omega

theorem leBytes_length (n v : Nat) : (leBytes n v).length = n := by
  induction n generalizing v with
  | zero => rfl
  | succ n ih => rw [leBytes, List.length_cons, ih]

/-- A row of 16 elements fills its natural pitch. -/
theorem packCodes_row (e : Elem) (f : Nat → Nat) : (packCodes e ((List.range 16).map f)).length = 2 * e.width := by
  have bytes : ∀ k, (((List.range 16).map f).flatMap fun c => leBytes k c).length = 16 * k := fun k => by
    rw [List.length_flatMap, List.map_congr_left fun c _ => leBytes_length k c, List.map_const', List.length_map, List.length_range, List.sum_replicate,
      smul_eq_mul]
  have nibbles : (packNibbles ((List.range 16).map f)).length = 2 * 4 := by
    rw [packNibbles_length, List.length_map, List.length_range]
  cases e with
  | int4 => exact nibbles
  | fp4 => exact nibbles
  | fp32 => exact bytes 4
  | bf16 => exact bytes 2
  | fp16 => exact bytes 2
  | e4m3 => exact bytes 1
  | e5m2 => exact bytes 1
  | int8 => exact bytes 1

end Sys2Proof.Machine
end

section
/-! SUPPORT. The rows of VST and READOUT. -/

namespace Sys2Proof.Machine

/-- Rows a pitch apart have no byte in common, as long as they fit their pitch and all of them fit the memory. -/
theorem rows_apart {base pitch len r q i j : Nat} (hl : len ≤ pitch) (hp : pitch ≤ 16376) (hq : q < 16) (hr : r < q) (hi : i < len) (hj : j < len) :
    ((base + r * pitch) % 0x40000 + i) % 0x40000 ≠ ((base + q * pitch) % 0x40000 + j) % 0x40000 := by
  have next : (r + 1) * pitch ≤ q * pitch := Nat.mul_le_mul_right pitch hr
  have last : q * pitch ≤ 15 * pitch := Nat.mul_le_mul_right pitch (by omega)
  rw [Nat.succ_mul] at next
  omega

theorem pitchOf_le {w : W32} {hi lo n : Nat} (h : hi + 1 - lo ≤ 11) (hn : n ≤ 16376) : pitchOf (fld w hi lo) n ≤ 16376 := by
  have small : fld w hi lo < 2 ^ (hi + 1 - lo) := fld_lt ..
  have le : 2 ^ (hi + 1 - lo) ≤ 2 ^ 11 := Nat.pow_le_pow_right (by decide) h
  unfold pitchOf
  split
  · exact hn
  · omega

theorem width_le (e : Elem) : e.width ≤ 32 := by
  cases e <;> decide

theorem readoutWrites_apart (s : State) (c : StreamCmd) (e : Elem) (t : Nat) {tiles : List Nat} (nodup : tiles.Nodup)
    (fit : 2 * e.width ≤ pitchOf (fld c.w1 28 18) (2 * e.width)) :
    (tiles.flatMap fun tile => (List.range 16).map (readoutWrite s c e t tile)).Pairwise TWrite.Apart := by
  refine List.pairwise_flatMap.mpr ⟨fun tile _ => List.pairwise_map.mpr (List.pairwise_lt_range.imp_of_mem fun _ hq hr _ i hi j hj => ?_),
    nodup.imp fun hne v hv w hw => ?_⟩
  · rw [readoutWrite, packCodes_row] at hi hj
    exact rows_apart fit (pitchOf_le (by decide) (by have := width_le e; omega)) (List.mem_range.mp hq) hr hi hj
  · obtain ⟨_, -, rfl⟩ := List.mem_map.mp hv
    obtain ⟨_, -, rfl⟩ := List.mem_map.mp hw
    exact TWrite.apart_of_tile hne

theorem vstWrites_apart (s : State) (c : StreamCmd) (e : Elem) (t n : Nat) (tiles : List Nat) :
    (tiles.flatMap fun tile => (List.range n).map (vstWrite s c e t tile)).Pairwise TWrite.Apart := by
  have instant : ∀ w ∈ tiles.flatMap fun tile => (List.range n).map (vstWrite s c e t tile), w.from_ = w.at_ := by
    intro w hw
    obtain ⟨tile, -, hw⟩ := List.mem_flatMap.mp hw
    obtain ⟨r, -, rfl⟩ := List.mem_map.mp hw
    rfl
  exact List.pairwise_of_forall_mem_list fun v hv w hw => TWrite.apart_of_instant (instant v hv) (instant w hw)

/-! The commands. -/

theorem State.doSlot_vst (s : State) {c : StreamCmd} (ho : c.op = 0x24) {e : Elem} (he : Elem.ofCode (fld c.w1 23 21) = some e) (t id : Nat) :
    s.doSlot c t id = (s.activeTiles c).foldl (vstTile c e t id) s := by
  rw [State.doSlot, if_neg (by omega), if_neg (by omega), if_neg (by omega), if_neg (by omega), if_pos ho, State.doVst, he]

theorem State.doSlot_readout (s : State) {c : StreamCmd} (ho : c.op = 0x21) {e : Elem} (he : Elem.ofCode (fld c.w2 2 0) = some e) (t id : Nat) :
    s.doSlot c t id = (s.activeTiles c).foldl (readoutTile c e t id) s := by
  rw [State.doSlot, if_neg (by omega), if_pos ho, State.doReadout, he]

/-- What a storing command changes outside its Spire's sequencer. -/
theorem Stored.frame {s u b : State} {c : StreamCmd} {k : Ctx} {pod : Bool} {n : Nat} {ws : List TWrite} (st : Started s u c k pod n)
    (h : Stored u b c.sp.val ws) (t m : Nat) : SameOutside s (b.stall c.sp.val t m) ∧
    { (b.stall c.sp.val t m).core with spires := s.core.spires, twrites := s.core.twrites } = s.core ∧
    ∀ i, i ≠ c.sp.val → (b.stall c.sp.val t m).spire i = s.spire i := by
  have less : (b.stall c.sp.val t m).writeless = s.writeless :=
    (State.stall_writeless ..).trans (h.writeless.trans (State.writeless_of_tiles st.tiles))
  refine ⟨?_, ?_, fun i hi => ?_⟩
  · have outside := congrArg (fun a : State => ({ a with core := s.core, free := s.free } : State)) less
    exact outside
  · have inside := congrArg (fun a : State => ({ a.core with spires := s.core.spires, twrites := s.core.twrites } : Core)) less
    exact inside
  · rw [State.stall_spire_ne _ _ _ hi, h.others i hi]
    exact st.others i hi

/-- What the writes of a Spire say after a stall. -/
theorem stalledTimes_own {β : Type} (sp t n from_ at_ : Nat) (x : β) : stalledTimes sp t n (from_, at_, sp, x) = (later t n from_, later t n at_, sp, x) :=
  if_pos rfl

section

variable {s : State} {p : Nat} {c : StreamCmd} (h : Ready s p c)

include h

/-- A VST that starts: the writes of its rows, with the ccyc each falls in. -/
theorem Ready.feed_vst (ho : c.op = 0x24) {e : Elem} (he : Elem.ofCode (fld c.w1 23 21) = some e) :
    (SameOutside s (s.feed c) ∧ { (s.feed c).core with spires := s.core.spires, twrites := s.core.twrites } = s.core ∧
      ∀ i, i ≠ c.sp.val → (s.feed c).spire i = s.spire i) ∧
    (s.feed c).core.twrites.map TWrite.what = (s.activeTiles c).flatMap fun tile => (List.range (fld c.w0 31 28 + 1)).map fun r =>
      ((s.part p).ccyc + r + 3 + c.slips, (s.part p).ccyc + r + 3 + c.slips, (vstWrite s c e 0 tile r).what.2.2) := by
  obtain ⟨u, k, st, -, fed⟩ := h.feed_slot (by omega) (by omega) (by simp [State.tagOk, ho]) (by simp [State.loadMeets, ho])
  rw [fed, u.doSlot_vst ho he]
  have active : u.activeTiles c = s.activeTiles c := State.eq_of_tiles (·.activeTiles c) (fun _ => rfl) st.tiles
  have vwrites : (u.spire c.sp.val).vwrites = [] := (Spire.eq_of_unstarted (·.vwrites) (fun _ => rfl) st.unstarted).trans h.rested.written.1
  have stored := (Stored.start (st.twrites h) c.sp.val).foldl (f := vstTile c e (s.part p).ccyc s.free)
    (fun a tile ws ha => vstTile_stored ha (State.writeless_of_tiles st.tiles) (st.spans h) vwrites e (s.part p).ccyc tile) (u.activeTiles c)
  rw [active, List.nil_append] at stored
  rw [active]
  refine ⟨stored.frame st .., ?_⟩
  rw [State.stall_whats, stored.whats (vstWrites_apart ..), List.map_flatMap, List.map_flatMap]
  refine List.flatMap_congr fun tile _ => ?_
  rw [List.map_map, List.map_map]
  refine List.map_congr_left fun r _ => ?_
  have due : later ((s.part p).ccyc + 1) c.slips ((s.part p).ccyc + r + 3) = (s.part p).ccyc + r + 3 + c.slips := if_pos (by omega)
  simp only [Function.comp, TWrite.what, vstWrite, stalledTimes_own, due]

/-- A READOUT that starts: the rows it writes, over the ccyc from its start to their end. -/
theorem Ready.feed_readout (ho : c.op = 0x21) (tag : s.readoutTagOk c = true) {e : Elem} (he : Elem.ofCode (fld c.w2 2 0) = some e) :
    (SameOutside s (s.feed c) ∧ { (s.feed c).core with spires := s.core.spires, twrites := s.core.twrites } = s.core ∧
      ∀ i, i ≠ c.sp.val → (s.feed c).spire i = s.spire i) ∧
    Tbl.get 0 (fld c.w0 20 18) ((s.feed c).spire c.sp.val).setRead = (s.part p).ccyc + 8 + c.slips ∧
    (s.feed c).core.twrites.map TWrite.place = ((s.activeTiles c).flatMap fun tile => (List.range 16).map fun r =>
      ((s.part p).ccyc, (s.part p).ccyc + 7 + c.slips, (readoutWrite s c e 0 tile r).place.2.2)) ∧
    (2 * e.width ≤ pitchOf (fld c.w1 28 18) (2 * e.width) →
      (s.feed c).core.twrites.map TWrite.what = (s.activeTiles c).flatMap fun tile => (List.range 16).map fun r =>
        ((s.part p).ccyc, (s.part p).ccyc + 7 + c.slips, (readoutWrite s c e 0 tile r).what.2.2)) := by
  obtain ⟨u, k, st, -, fed⟩ := h.feed_slot (by omega) (by omega) (by rw [State.tagOk, if_neg (by omega), if_pos ho]; exact tag) (by simp [State.loadMeets, ho])
  rw [fed, u.doSlot_readout ho he]
  have active : u.activeTiles c = s.activeTiles c := State.eq_of_tiles (·.activeTiles c) (fun _ => rfl) st.tiles
  have stored := (Stored.start (st.twrites h) c.sp.val).foldl (f := readoutTile c e (s.part p).ccyc s.free)
    (fun a tile ws ha => readoutTile_stored ha (State.writeless_of_tiles st.tiles) (st.spans h) h.clean.2.1 h.clean.2.2.1 e (s.part p).ccyc tile)
    (u.activeTiles c)
  rw [active, List.nil_append] at stored
  rw [active]
  have from_ : later ((s.part p).ccyc + 1) c.slips (s.part p).ccyc = (s.part p).ccyc := later_early _ (Nat.lt_succ_self _)
  have due : later ((s.part p).ccyc + 1) c.slips ((s.part p).ccyc + 7) = (s.part p).ccyc + 7 + c.slips := if_pos (by omega)
  refine ⟨stored.frame st .., ?_, ?_, fun fit => ?_⟩
  · obtain ⟨y, hy, -⟩ := st.own
    have start : (y.startSlot c (s.part p).plan.pod (s.part p).ccyc).setRead = Tbl.put 0 (fld c.w0 20 18) ((s.part p).ccyc + 8) y.setRead := by
      rw [Spire.startSlot, if_neg (by omega), if_pos ho]
    rw [State.stall_spire, Spire.stall_setRead _ (Nat.succ_pos _), stored.spire_eq (·.setRead) (fun _ _ => rfl), hy, start, Tbl.get_put_same]
    exact if_pos (by omega)
  · rw [State.stall_places, stored.places, List.map_flatMap, List.map_flatMap]
    refine List.flatMap_congr fun tile _ => ?_
    rw [List.map_map, List.map_map]
    refine List.map_congr_left fun r _ => ?_
    simp only [Function.comp, TWrite.place, readoutWrite, stalledTimes_own, from_, due]
  · rw [State.stall_whats, stored.whats (readoutWrites_apart _ _ _ _ (s.activeTiles_nodup c) fit), List.map_flatMap, List.map_flatMap]
    refine List.flatMap_congr fun tile _ => ?_
    rw [List.map_map, List.map_map]
    refine List.map_congr_left fun r _ => ?_
    simp only [Function.comp, TWrite.what, readoutWrite, stalledTimes_own, from_, due]

end

/-- Settles O16: a command's rows are timed writes, and what of them clashes has bytes in common only where rows overlap. -/
theorem storesWriteRows : Obligations.StoresWriteRows := by
  intro s p c h
  refine ⟨fun ho e he => ⟨_, exec_vst c s, h.feed_vst ho he⟩, fun ho tag e he => ⟨_, exec_readout c s, ?_⟩⟩
  obtain ⟨frame, read, places, whats⟩ := h.feed_readout ho tag he
  refine ⟨frame, read, ?_, whats⟩
  rw [places, List.map_flatMap]
  refine List.flatMap_congr fun tile _ => ?_
  rw [List.map_map]
  rfl

end Sys2Proof.Machine
end

section
/-! SUPPORT. Calendar loads. -/

namespace Sys2Proof.Machine

theorem exec_calLoadComplete (sp : Fin 16) (bad : Option Nat) (cups : List CupolaUpset) (bursts : List (Nat × BurstRec)) (s : State) :
    exec (.calLoadComplete sp bad cups bursts) s = execCalLoadComplete sp bad s cups bursts := rfl

theorem exec_calActivate (p : Fin 16) (s : State) : exec (.calActivate p) s = execCalActivate p s := rfl

/-! What a read through the Belfry leaves. -/

theorem State.setCupola_cacheless (s : State) (h : Nat) (c : Cupola) : (s.setCupola h c).cacheless = s.cacheless := rfl

theorem State.strike_cacheless (s : State) (l : List CupolaUpset) : (s.strike l).cacheless = s.cacheless :=
  foldl_keeps State.cacheless _ (fun _ _ => State.setCupola_cacheless ..) _ _

theorem State.setCupola_spire (s : State) (h : Nat) (c : Cupola) (i : Nat) : (s.setCupola h c).spire i = s.spire i := rfl

theorem State.strike_spire (s : State) (l : List CupolaUpset) (i : Nat) : (s.strike l).spire i = s.spire i :=
  foldl_keeps (fun a : State => a.spire i) _ (fun _ _ => State.setCupola_spire ..) _ _

theorem State.countBursts_cacheless (s : State) (a : Nat) (b : BurstRec) : (s.countBursts a b).cacheless = s.cacheless.countBursts a b := by
  unfold State.countBursts
  split <;> rfl

theorem State.countEach_cacheless (s : State) (l : List (Nat × BurstRec)) : (s.countEach l).cacheless = s.cacheless.countEach l := by
  induction l generalizing s with
  | nil => rfl
  | cons b l ih => exact (ih (s.countBursts b.1 b.2)).trans (congrArg (State.countEach · l) (State.countBursts_cacheless ..))

theorem State.countBursts_spire (s : State) (a : Nat) (b : BurstRec) (i : Nat) : (s.countBursts a b).spire i = s.spire i := by
  unfold State.countBursts
  split <;> rfl

theorem State.countEach_spire (s : State) (l : List (Nat × BurstRec)) (i : Nat) : (s.countEach l).spire i = s.spire i :=
  foldl_keeps (fun a : State => a.spire i) _ (fun _ _ => State.countBursts_spire ..) l s

/-- Counting bursts leaves the log, and what the host sees. -/
theorem State.countEach_records (s : State) (l : List (Nat × BurstRec)) : (s.countEach l).log = s.log ∧ (s.countEach l).host = s.host := by
  refine List.foldlRecOn (motive := fun a : State => a.log = s.log ∧ a.host = s.host) _ _ ⟨rfl, rfl⟩ fun a ha b _ => ?_
  unfold State.countBursts
  split
  · exact ha
  · exact ha

/-- The reads of a calendar load that meet no uncorrectable burst change the Cupolas alone. -/
theorem State.calFetch_clean {s : State} (hb : s.core.hbmBad = []) (h head at_ len : Nat) :
    (s.calFetch h head at_ len).1 = none ∧ (s.calFetch h head at_ len).2.cacheless = s.cacheless ∧
      ∀ i, (s.calFetch h head at_ len).2.spire i = s.spire i := by
  obtain ⟨none1, less1⟩ := State.belfryRead_clean hb h head 144
  unfold State.calFetch
  dsimp only
  split
  · exact ⟨none1, less1, fun _ => State.belfryRead_spire ..⟩
  · obtain ⟨none2, less2⟩ := State.belfryRead_clean ((State.eq_of_cacheless (·.core.hbmBad) (fun _ => rfl) less1).trans hb) h at_ len
    exact ⟨none2, less2.trans less1, fun _ => (State.belfryRead_spire ..).trans (State.belfryRead_spire ..)⟩

/-! A loaded set. -/

/-- A Spire in which a late set is active from a count on. -/
def Spire.activatedLate (y : Spire) (set : CalSet) (count : Nat) : Spire :=
  { y.activate set count with calLateLogged := true, ctr := { y.ctr with calLate := sat32 y.ctr.calLate 1 } }

/-- A set that its count has not overtaken waits in the shadow bank. -/
theorem State.calLoaded_early {s : State} {p sp : Nat} {l : CalLoad} (h : (s.part p).ccyc ≤ l.at_) (set : CalSet) :
    s.calLoaded p sp l set = s.onSpire sp fun y => { y with calShadow := some { l with set := some set } } := if_pos h

theorem State.calLoaded_late {s : State} {p sp : Nat} {l : CalLoad} (h : l.at_ < (s.part p).ccyc) (set : CalSet) :
    s.calLoaded p sp l set =
      let s1 := (s.onSpire sp fun y => y.activatedLate set (s.part p).ccyc).resume sp
      if (s.spire sp).calLateLogged then s1 else s1.event 0x0202 2 (some p) (sp + l.cal * 2 ^ 4) := if_neg (Nat.not_le.mpr h)

/-- The log after an event that is entered once. -/
theorem State.event_once (s : State) (logged : Bool) (code sev : Nat) (part : Option Nat) (detail : Nat) :
    (if logged then s else s.event code sev part detail).log.pos = s.log.pos + (if logged then 0 else 1) ∧
    SameMemory s (if logged then s else s.event code sev part detail) ∧
    ∀ i, (if logged then s else s.event code sev part detail).spire i = s.spire i := by
  cases logged with
  | true => exact ⟨rfl, .of_lasting rfl fun _ => rfl, fun _ => rfl⟩
  | false =>
    simp only [Bool.false_eq_true, if_false]
    exact ⟨State.event_pos .., .of_lasting (State.event_lasting ..) fun _ => State.event_mbx .., fun _ => State.event_spire ..⟩

/-- A late set becomes active at once; its Spire goes on, and the first of a tick is logged. -/
theorem State.calLoaded_late_active {s : State} {p sp : Nat} {l : CalLoad} (h : l.at_ < (s.part p).ccyc) (hq : Quiet s sp) (hb : s.core.hbmBad = [])
    (set : CalSet) : SameMemory s (s.calLoaded p sp l set) ∧ ((s.calLoaded p sp l set).spire sp).calShadow = none ∧
      ((s.calLoaded p sp l set).spire sp).calActive = set ∧ ((s.calLoaded p sp l set).spire sp).calFrom = (s.part p).ccyc ∧
      ((s.calLoaded p sp l set).spire sp).ctr.calLate = sat32 (s.spire sp).ctr.calLate 1 ∧
      (s.calLoaded p sp l set).log.pos = s.log.pos + (if (s.spire sp).calLateLogged then 0 else 1) := by
  rw [State.calLoaded_late h]
  have hq' : Quiet (s.onSpire sp fun y => y.activatedLate set (s.part p).ccyc) sp := hq.of_ctxs fun k _ => by
    rw [State.spire_onSpire]
    rfl
  have own : (s.onSpire sp fun y => y.activatedLate set (s.part p).ccyc).spire sp = (s.spire sp).activatedLate set (s.part p).ccyc := State.spire_onSpire ..
  have goes := State.resume_buffered hq' hb
  have memory : SameMemory s ((s.onSpire sp fun y => y.activatedLate set (s.part p).ccyc).resume sp) :=
    SameMemory.of_eq (goes.eq (·.core.sram) fun _ => rfl) (goes.eq (·.core.hbm) fun _ => rfl) (goes.eq (·.rom) fun _ => rfl)
      (goes.eq (·.ports) fun _ => rfl) fun k => goes.eq (fun a => (a.fn k).mbx) fun _ => rfl
  have log : ((s.onSpire sp fun y => y.activatedLate set (s.part p).ccyc).resume sp).log = s.log := goes.eq (·.log) fun _ => rfl
  have shadow := goes.spire_eq (·.calShadow) (fun _ => rfl) sp
  have active := goes.spire_eq (·.calActive) (fun _ => rfl) sp
  have since := goes.spire_eq (·.calFrom) (fun _ => rfl) sp
  have late := goes.spire_eq (·.ctr.calLate) (fun _ => rfl) sp
  rw [own] at shadow active since late
  obtain ⟨pos, memory', spires⟩ := State.event_once ((s.onSpire sp fun y => y.activatedLate set (s.part p).ccyc).resume sp) (s.spire sp).calLateLogged
    0x0202 2 (some p) (sp + l.cal * 2 ^ 4)
  dsimp only
  rw [spires, pos, log]
  exact ⟨memory.trans memory', shadow, active, since, late, rfl⟩

end Sys2Proof.Machine
end

section
/-! SUPPORT. The calendars of a partition: loads that complete, and sets that become active. -/

namespace Sys2Proof.Machine

/-! A load that completes. -/

/-- A calendar load of a Spire whose set is not there yet completes, or waits for a line that is being filled. -/
theorem execCalLoadComplete_pending {s : State} {p : Nat} {sp : Fin 16} {l : CalLoad} (owner : s.owner sp.val = some p) (load : (s.spire sp.val).calShadow = some l)
    (pending : l.set = none) (run : (s.part p).phase = .run) (live : bit1 (s.spire sp.val).frozen 0 = false) (cups : List CupolaUpset)
    (bursts : List (Nat × BurstRec)) : execCalLoadComplete sp none s cups bursts =
      let head := (s.part p).plan.base + (s.calPlace (s.part p).plan l.cal).1
      let r := s.calSetOf (s.part p).plan sp.val l.cal
      if (s.strike cups).belfryWaits (halfOf sp.val) head 144 ∨ (r.2.2 ≠ 0 ∧ (s.strike cups).belfryWaits (halfOf sp.val) r.2.1 r.2.2) then .next s
      else match ((s.strike cups).countEach bursts).calFetch (halfOf sp.val) head r.2.1 r.2.2 with
      | (some b, s2) => .next (s2.freeze sp.val 0 9 b b)
      | (none, s2) => .next (s2.calLoaded p sp.val l r.1) := by
  have set : (s.strike cups).calSetOf (s.part p).plan sp.val l.cal = s.calSetOf (s.part p).plan sp.val l.cal :=
    State.eq_of_cacheless (·.calSetOf (s.part p).plan sp.val l.cal) (fun _ => rfl) (State.strike_cacheless ..)
  have spoil : s.hbmSpoil none = s := rfl
  unfold execCalLoadComplete
  simp only [owner, load, pending, run, live, spoil, set, Option.isSome_none, Bool.false_eq_true, ne_eq, not_true_eq_false, or_self, if_false] <;> rfl

section

variable {s : State} {p : Nat} {sp : Fin 16} {l : CalLoad} (cups : List CupolaUpset) (bursts : List (Nat × BurstRec)) (hb : s.core.hbmBad = [])

/-- The reads of a calendar load that meet no uncorrectable burst have been made. -/
def State.calRead (s : State) (cups : List CupolaUpset) (bursts : List (Nat × BurstRec)) (p sp cal : Nat) : State :=
  (((s.strike cups).countEach bursts).calFetch (halfOf sp) ((s.part p).plan.base + (s.calPlace (s.part p).plan cal).1)
    (s.calSetOf (s.part p).plan sp cal).2.1 (s.calSetOf (s.part p).plan sp cal).2.2).2

theorem State.struckEach_cacheless (s : State) : ((s.strike cups).countEach bursts).cacheless = (s.countEach bursts).cacheless := by
  rw [State.countEach_cacheless, State.strike_cacheless, ← State.countEach_cacheless]

include hb

theorem State.calRead_clean (p sp cal : Nat) :
    (((s.strike cups).countEach bursts).calFetch (halfOf sp) ((s.part p).plan.base + (s.calPlace (s.part p).plan cal).1)
      (s.calSetOf (s.part p).plan sp cal).2.1 (s.calSetOf (s.part p).plan sp cal).2.2) = (none, s.calRead cups bursts p sp cal) ∧
    (s.calRead cups bursts p sp cal).cacheless = (s.countEach bursts).cacheless ∧ ∀ i, (s.calRead cups bursts p sp cal).spire i = s.spire i := by
  have bad : ((s.strike cups).countEach bursts).core.hbmBad = [] :=
    (State.eq_of_lasting (·.core.hbmBad) (fun _ => rfl) ((State.countEach_lasting ..).trans (State.strike_lasting ..))).trans hb
  obtain ⟨good, less, spires⟩ := State.calFetch_clean bad (halfOf sp) ((s.part p).plan.base + (s.calPlace (s.part p).plan cal).1)
    (s.calSetOf (s.part p).plan sp cal).2.1 (s.calSetOf (s.part p).plan sp cal).2.2
  exact ⟨Prod.ext good rfl, less.trans (State.struckEach_cacheless ..),
    fun i => (spires i).trans ((State.countEach_spire ..).trans (State.strike_spire ..))⟩

variable (owner : s.owner sp.val = some p) (load : (s.spire sp.val).calShadow = some l) (pending : l.set = none) (run : (s.part p).phase = .run)
  (live : bit1 (s.spire sp.val).frozen 0 = false)

include owner load pending run live

/-- What a load does that waits for nothing. -/
theorem execCalLoadComplete_read
    (ready : ¬((s.strike cups).belfryWaits (halfOf sp.val) ((s.part p).plan.base + (s.calPlace (s.part p).plan l.cal).1) 144 = true ∨
      ((s.calSetOf (s.part p).plan sp.val l.cal).2.2 ≠ 0 ∧ (s.strike cups).belfryWaits (halfOf sp.val) (s.calSetOf (s.part p).plan sp.val l.cal).2.1
        (s.calSetOf (s.part p).plan sp.val l.cal).2.2 = true))) :
    execCalLoadComplete sp none s cups bursts =
      .next ((s.calRead cups bursts p sp.val l.cal).calLoaded p sp.val l (s.calSetOf (s.part p).plan sp.val l.cal).1) := by
  rw [execCalLoadComplete_pending owner load pending run live]
  dsimp only
  rw [if_neg ready, (State.calRead_clean cups bursts hb p sp.val l.cal).1]

end

/-! Sets that become active. -/

/-- The set of a Spire that becomes active by a count, and the count it is active from. -/
def Spire.calDue (x : Spire) (n : Nat) : Option (CalSet × Nat) :=
  match x.calShadow with
  | some ⟨_, at_, some set⟩ => if at_ ≤ n ∧ !bit1 x.frozen 0 then some (set, at_) else none
  | _ => none

/-- The turn of a Spire when the sets of a partition become active. -/
def State.calTurn (n : Nat) (a : State) (sp : Nat) : State :=
  match (a.spire sp).calDue n with
  | some (set, at_) => (a.setSpire sp ((a.spire sp).activate set at_)).resume sp
  | none => a

theorem execCalActivate_run {s : State} {p : Fin 16} (run : (s.part p.val).phase = .run) :
    execCalActivate p s = .next ((s.planSpires p.val).foldl (State.calTurn (s.part p.val).ccyc) s) := by
  have turn : (fun (a : State) sp =>
      let x := a.spire sp
      match x.calShadow with
      | some ⟨_, at_, some set⟩ => if at_ ≤ (s.part p.val).ccyc ∧ !bit1 x.frozen 0 then (a.setSpire sp (x.activate set at_)).resume sp else a
      | _ => a) = State.calTurn (s.part p.val).ccyc := by
    funext a sp
    unfold State.calTurn Spire.calDue
    dsimp only
    cases (a.spire sp).calShadow with
    | none => rfl
    | some l =>
      obtain ⟨cal, at_, set⟩ := l
      cases set with
      | none => rfl
      | some set =>
        by_cases due : at_ ≤ (s.part p.val).ccyc ∧ (!bit1 (a.spire sp).frozen 0) = true
        · simp only [if_pos due]
        · simp only [if_neg due]
  unfold execCalActivate
  rw [← turn]
  exact if_neg (not_not_intro run)

section

variable {a : State} {n sp : Nat}

theorem State.calTurn_none (h : (a.spire sp).calDue n = none) : a.calTurn n sp = a := by
  rw [State.calTurn, h]

theorem State.calTurn_due {set : CalSet} {at_ : Nat} (h : (a.spire sp).calDue n = some (set, at_)) (hq : Quiet a sp) (hb : a.core.hbmBad = []) :
    Buffered (a.setSpire sp ((a.spire sp).activate set at_)) (a.calTurn n sp) sp := by
  rw [State.calTurn, h]
  exact State.resume_buffered (hq.of_ctxs fun k _ => by rw [State.spire_setSpire]; rfl) hb

/-- A turn changes its Spire alone, beside the Cupolas, and no context. -/
theorem State.calTurn_frame (hq : Quiet a sp) (hb : a.core.hbmBad = []) : (a.calTurn n sp).cacheless = a.cacheless ∧
    (∀ i, i ≠ sp → (a.calTurn n sp).spire i = a.spire i) ∧ ((a.calTurn n sp).spire sp).ctxs = (a.spire sp).ctxs := by
  cases h : (a.spire sp).calDue n with
  | none =>
    rw [State.calTurn_none h]
    exact ⟨rfl, fun _ _ => rfl, rfl⟩
  | some d =>
    obtain ⟨set, at_⟩ := d
    have goes := State.calTurn_due h hq hb
    refine ⟨goes.rest, fun i hi => (goes.others i hi).trans (State.spire_setSpire_ne _ _ hi), (goes.spire_eq (·.ctxs) (fun _ => rfl) sp).trans ?_⟩
    rw [State.spire_setSpire]
    rfl

/-- A state in which the sets of a partition can become active: every Spire is quiet, and no burst of HBM is uncorrectable. -/
structure State.Turnable (a : State) : Prop where
  quiet : ∀ i, i < 16 → Quiet a i
  bad : a.core.hbmBad = []

theorem State.Turnable.calTurn (h : a.Turnable) (hs : sp < 16) : (a.calTurn n sp).Turnable := by
  obtain ⟨less, others, ctxs⟩ := State.calTurn_frame (n := n) (h.quiet sp hs) h.bad
  refine ⟨fun i hi => (h.quiet i hi).of_ctxs fun k _ => ?_, (State.eq_of_cacheless (·.core.hbmBad) (fun _ => rfl) less).trans h.bad⟩
  by_cases hne : i = sp
  · rw [hne, Spire.ctx, Spire.ctx, ctxs]
  · rw [others i hne]

end

section

variable {a : State} {l : List Nat} (n : Nat) (h : a.Turnable) (hl : ∀ sp ∈ l, sp < 16)

include h hl

theorem State.calTurns_cacheless : (l.foldl (State.calTurn n) a).cacheless = a.cacheless := by
  induction l generalizing a with
  | nil => rfl
  | cons x l ih =>
    have hx := hl x List.mem_cons_self
    exact (ih (h.calTurn hx) fun y hy => hl y (List.mem_cons_of_mem _ hy)).trans (State.calTurn_frame (h.quiet x hx) h.bad).1

/-- A Spire that no turn is for stays. -/
theorem State.calTurns_other {sp : Nat} (hsp : sp ∉ l) : (l.foldl (State.calTurn n) a).spire sp = a.spire sp := by
  induction l generalizing a with
  | nil => rfl
  | cons x l ih =>
    have hx := hl x List.mem_cons_self
    rw [List.mem_cons, not_or] at hsp
    exact (ih (h.calTurn hx) (fun y hy => hl y (List.mem_cons_of_mem _ hy)) hsp.2).trans ((State.calTurn_frame (h.quiet x hx) h.bad).2.1 sp hsp.1)

/-- A Spire with no set that is due stays. -/
theorem State.calTurns_none {sp : Nat} (none : (a.spire sp).calDue n = none) : (l.foldl (State.calTurn n) a).spire sp = a.spire sp := by
  induction l generalizing a with
  | nil => rfl
  | cons x l ih =>
    have hx := hl x List.mem_cons_self
    have stays : (a.calTurn n x).spire sp = a.spire sp := by
      by_cases hne : sp = x
      · rw [← hne, State.calTurn_none none]
      · exact (State.calTurn_frame (h.quiet x hx) h.bad).2.1 sp hne
    exact (ih (h.calTurn hx) (fun y hy => hl y (List.mem_cons_of_mem _ hy)) (stays ▸ none)).trans stays

/-- A set that is due becomes active, in the first turn of its Spire. -/
theorem State.calTurns_due {sp : Nat} (hsp : sp ∈ l) {set : CalSet} {at_ : Nat} (due : (a.spire sp).calDue n = some (set, at_)) :
    ((l.foldl (State.calTurn n) a).spire sp).calActive = set ∧ ((l.foldl (State.calTurn n) a).spire sp).calFrom = at_ ∧
      ((l.foldl (State.calTurn n) a).spire sp).calShadow = none := by
  induction l generalizing a with
  | nil => cases hsp
  | cons x l ih =>
    have hx := hl x List.mem_cons_self
    have rest : ∀ y ∈ l, y < 16 := fun y hy => hl y (List.mem_cons_of_mem _ hy)
    rw [List.foldl_cons]
    by_cases hne : sp = x
    · subst hne
      have goes := State.calTurn_due due (h.quiet sp hx) h.bad
      have own : (a.setSpire sp ((a.spire sp).activate set at_)).spire sp = (a.spire sp).activate set at_ := State.spire_setSpire ..
      have shadow : ((a.calTurn n sp).spire sp).calShadow = none := (goes.spire_eq (·.calShadow) (fun _ => rfl) sp).trans (by rw [own]; rfl)
      rw [State.calTurns_none n (h.calTurn hx) rest (by rw [Spire.calDue, shadow])]
      exact ⟨(goes.spire_eq (·.calActive) (fun _ => rfl) sp).trans (by rw [own]; rfl), (goes.spire_eq (·.calFrom) (fun _ => rfl) sp).trans (by rw [own]; rfl), shadow⟩
    · have stays : (a.calTurn n x).spire sp = a.spire sp := (State.calTurn_frame (h.quiet x hx) h.bad).2.1 sp hne
      exact ih (h.calTurn hx) rest (List.mem_of_ne_of_mem hne hsp) (stays ▸ due)

end

end Sys2Proof.Machine
end

section
/-! SUPPORT. The entries of a calendar. -/

namespace Sys2Proof.Machine

theorem exec_calEntryAct (p : Fin 16) (upsets : List Upset) (corrected : Nat) (broken : List (Fin 4096 × Fin 4)) (s : State) :
    exec (.calEntryAct p upsets corrected broken) s = execCalEntryAct p upsets corrected broken s := rfl

theorem exec_bankWindowStart (sp : Fin 16) (s : State) : exec (.bankWindowStart sp) s = execBankWindowStart sp s := rfl

/-! What the entries send and write. -/

/-- What an entry drives onto its link. -/
def sentBy (view : State) (count id : Nat) (e : CalEntry × Nat) : Arrival :=
  let bs := view.entryBytes count id e
  let seam := onSeam e.1.tile e.1.port
  ⟨(neighbour e.1.tile e.1.port).1, (neighbour e.1.tile e.1.port).2, if seam then count + 3 else count + 1, if seam then bs.take 32 else bs⟩

/-- What an entry of a Spire writes back. -/
def writtenBy (view : State) (count id : Nat) (e : Nat × CalEntry × Nat) : WriteBack :=
  ⟨e.1, e.2.1.tile, e.2.2, if e.2.1.local_ then count + 1 else count, view.entryBytes count id e.2⟩

/-- The entries act one after the other, and all of them see what the ccyc began with. -/
theorem actEntries_eq (count id : Nat) (view : State) (l : List (Nat × CalEntry × Nat)) (a : State) :
    l.foldl (fun b e => b.actEntry e.1 count id view e.2) a = a.onCore fun c => { c with
      arrivals := c.arrivals ++ (l.filter fun e => decide (e.2.1.port ≠ 4)).map fun e => sentBy view count id e.2
      writeBacks := c.writeBacks ++ (l.filter fun e => decide (e.2.1.port = 4)).map (writtenBy view count id) } := by
  induction l generalizing a with
  | nil =>
    simp only [List.foldl_nil, List.filter_nil, List.map_nil, List.append_nil]
    rfl
  | cons e l ih =>
    rw [List.foldl_cons, ih]
    by_cases h : e.2.1.port = 4
    · simp only [State.actEntry, h, if_true, State.onCore, ne_eq, not_true_eq_false, decide_false, Bool.false_eq_true, not_false_eq_true,
        List.filter_cons_of_neg, decide_true, List.filter_cons_of_pos, List.map_cons, List.append_assoc, List.singleton_append]
      rfl
    · simp only [State.actEntry, h, if_false, State.onCore, ne_eq, not_false_eq_true, decide_true, List.filter_cons_of_pos, decide_false,
        Bool.false_eq_true, List.filter_cons_of_neg, List.map_cons, List.append_assoc, List.singleton_append]
      rfl

/-- What is driven in a ccyc has not arrived by it. -/
theorem sentBy_later (s view : State) (p count id : Nat) (e : CalEntry × Nat) : s.arrived p count (sentBy view count id e) = false := by
  have due : count < (sentBy view count id e).at_ := by
    unfold sentBy
    dsimp only
    split <;> omega
  have late : ¬(sentBy view count id e).at_ ≤ count := by omega
  simp only [State.arrived, late, decide_false, Bool.and_false]

/-! The ccyc of a calendar. -/

/-- Nothing uncorrectable has come: all data is as sent. -/
theorem State.corrupt_nil (s : State) (p count id : Nat) : s.corrupt p count id [] = s := by
  have same : s.core.arrivals.map (fun a => if s.arrived p count a ∧ ([] : List (Fin 4096 × Fin 4)).any (fun b => decide (b.1.val = a.tile) && decide (b.2.val = a.port)) then
      { a with bytes := (List.range a.bytes.length).map (fun i => Config.meshByte id (inputKey a.tile a.port + i)) } else a) = s.core.arrivals :=
    (List.map_congr_left fun a _ => if_neg fun h => nomatch h.2).trans (List.map_id _)
  unfold State.corrupt State.onCore
  dsimp only
  rw [same]

/-- What the accesses of the entries count and take, beside what the entries do. -/
def State.noteEntries (view : State) (count : Nat) (a : State) (q : Nat × List (CalEntry × Nat)) : State :=
  let tiles := (q.2.map (fun e => e.1.tile)).eraseDups
  let slips := tiles.foldl (fun n t => n + meetings (view.schedAccesses count t q.2)) 0
  let reads := ((q.2.filter (fun e => e.1.local_)).map (fun e => (e.1.tile, e.2, e.1.len))).eraseDups
  let used := tiles.flatMap (fun t => (view.schedAccesses count t q.2).map (fun x => (t, x.1, x.2)))
  ((a.onCtr q.1 (fun c => { c with bankSlip := sat32 c.bankSlip slips })).useBanks q.1 .schedRead used).noteReads q.1 reads

/-- A state but for its Spires and the banks in use. -/
def State.bankless (s : State) : State := { s with core := { s.core with spires := [], bankUse := [] } }

theorem State.eq_of_bankless {γ : Type} (g : State → γ) (hg : ∀ a : State, g a.bankless = g a) {s t : State} (h : t.bankless = s.bankless) : g t = g s := by
  rw [← hg t, h, hg]

theorem State.useBanks_bankless (s : State) (sp : Nat) (k : BankAccess) (l : List (Nat × Nat × Nat)) : (s.useBanks sp k l).bankless = s.bankless := by
  unfold State.useBanks
  split <;> rfl

/-- With no error in tile SRAM, the accesses change the banks in use and a counter alone. -/
theorem State.noteEntries_bankless {a : State} (ce : a.core.sramCe = []) (ue : a.core.sramUe = []) (view : State) (count : Nat) (q : Nat × List (CalEntry × Nat)) :
    (view.noteEntries count a q).bankless = a.bankless := by
  have used : ∀ sp f k l, ((a.onCtr sp f).useBanks sp k l).bankless = a.bankless := fun sp f k l => State.useBanks_bankless ..
  unfold State.noteEntries
  dsimp only
  rw [State.noteReads_none]
  · exact used ..
  · exact (State.eq_of_bankless (·.core.sramCe) (fun _ => rfl) (used ..)).trans ce
  · exact (State.eq_of_bankless (·.core.sramUe) (fun _ => rfl) (used ..)).trans ue

/-- The ccyc of a calendar: what has arrived is taken, the entries act, and what has been taken leaves. -/
def State.calActed (u : State) (p : Nat) : State :=
  let m := (u.part p).ccyc
  let view := u.calView p
  let s1 := (u.calActs p).foldl (fun b e => b.actEntry e.1 m u.free view e.2) view
  s1.onCore fun c => { c with
    arrivals := c.arrivals.filter (fun a => !view.arrived p m a)
    writeBacks := c.writeBacks.filter (fun w => decide (u.owner w.spire ≠ some p) || decide (w.at_ ≤ m) || !u.seqFrozen w.spire)
    mesh := { c.mesh with ce := sat32 c.mesh.ce 0 } }

/-- The entries of a partition, Spire by Spire. -/
def State.calLive (u : State) (p : Nat) : List (Nat × List (CalEntry × Nat)) :=
  ((u.planSpires p).filter (fun sp => !bit1 (u.spire sp).frozen 0 || decide ((u.spire sp).seqFrozenAt = (u.part p).ccyc))).map
    (fun sp => (sp, (u.spire sp).calActive.acting (u.spire sp).calFrom (u.part p).ccyc))

/-- The entries of a Spire act in the order of its calendar. -/
theorem State.calLive_foldl (u : State) (p count id : Nat) (view a : State) :
    (u.calLive p).foldl (fun (a : State) q => q.2.foldl (fun b e => b.actEntry q.1 count id view e) a) a =
      (u.calActs p).foldl (fun b e => b.actEntry e.1 count id view e.2) a := by
  unfold State.calLive State.calActs
  rw [List.foldl_map, List.foldl_flatMap]
  refine congrArg (fun f => List.foldl f a _) ?_
  funext b sp
  dsimp only
  rw [List.foldl_map]

theorem execCalEntryAct_due {p : Fin 16} {s u : State} (due : s.dueEdge = u) (run : (u.part p.val).phase = .run)
    (next : (u.part p.val).calNext ≤ (u.part p.val).ccyc) :
    execCalEntryAct p [] 0 [] s = .next ((u.calLive p.val).foldl ((u.calView p.val).noteEntries (u.part p.val).ccyc) (u.calActed p.val)) := by
  have now : ¬((u.part p.val).phase ≠ .run ∨ (u.part p.val).ccyc < (u.part p.val).calNext) := by
    rintro (a | a)
    · exact a run
    · omega
  have view : ∀ id, ((((u.upset []).setPart p.val { u.part p.val with calNext := (u.part p.val).ccyc + 1 }).takeFree.2).corrupt p.val (u.part p.val).ccyc id
      []).takeArrivals p.val (u.part p.val).ccyc = u.calView p.val := fun id => by
    rw [State.corrupt_nil]
    rfl
  unfold execCalEntryAct
  rw [due]
  dsimp only
  rw [if_neg now, view]
  refine congrArg Host.Outcome.next ?_
  unfold State.calActed
  dsimp only
  rw [← State.calLive_foldl]
  rfl

/-- What the ccyc of a calendar leaves. -/
theorem State.calActed_eq (u : State) (p : Nat) : u.calActed p = (u.calView p).onCore fun c => { c with
    arrivals := u.core.arrivals.filter (fun a => !u.arrived p (u.part p).ccyc a) ++
      ((u.calActs p).filter fun e => decide (e.2.1.port ≠ 4)).map fun e => sentBy (u.calView p) (u.part p).ccyc u.free e.2
    writeBacks := (u.core.writeBacks ++ ((u.calActs p).filter fun e => decide (e.2.1.port = 4)).map (writtenBy (u.calView p) (u.part p).ccyc u.free)).filter
      fun w => decide (u.owner w.spire ≠ some p) || decide (w.at_ ≤ (u.part p).ccyc) || !u.seqFrozen w.spire
    mesh := { c.mesh with ce := sat32 c.mesh.ce 0 } } := by
  have new : (((u.calActs p).filter fun e => decide (e.2.1.port ≠ 4)).map fun e => sentBy (u.calView p) (u.part p).ccyc u.free e.2).filter
      (fun a => !u.arrived p (u.part p).ccyc a) = ((u.calActs p).filter fun e => decide (e.2.1.port ≠ 4)).map fun e => sentBy (u.calView p) (u.part p).ccyc u.free e.2 := by
    refine List.filter_eq_self.mpr fun a ha => ?_
    obtain ⟨e, -, rfl⟩ := List.mem_map.mp ha
    rw [sentBy_later]
    rfl
  have arrived : (fun a => !(u.calView p).arrived p (u.part p).ccyc a) = fun a => !u.arrived p (u.part p).ccyc a := rfl
  have held : (u.calView p).core.arrivals = u.core.arrivals := rfl
  have back : (u.calView p).core.writeBacks = u.core.writeBacks := rfl
  unfold State.calActed
  dsimp only
  rw [actEntries_eq]
  simp only [State.onCore, arrived, held, back, List.filter_append, new]

theorem State.noteAll_bankless {u : State} {p : Nat} (ce : u.core.sramCe = []) (ue : u.core.sramUe = []) :
    ((u.calLive p).foldl ((u.calView p).noteEntries (u.part p).ccyc) (u.calActed p)).bankless = (u.calActed p).bankless := by
  have acted : (u.calActed p).core.sramCe = [] ∧ (u.calActed p).core.sramUe = [] := by
    rw [State.calActed_eq]
    exact ⟨ce, ue⟩
  refine List.foldlRecOn (motive := fun a : State => a.bankless = (u.calActed p).bankless) _ _ rfl fun a ha q _ => ?_
  exact (State.noteEntries_bankless ((State.eq_of_bankless (·.core.sramCe) (fun _ => rfl) ha).trans acted.1)
    ((State.eq_of_bankless (·.core.sramUe) (fun _ => rfl) ha).trans acted.2) _ _ _).trans ha

section

variable {s : State} {p : Nat} {sp : Fin 16} {l : CalLoad} (cups : List CupolaUpset) (bursts : List (Nat × BurstRec)) (hb : s.core.hbmBad = [])

theorem State.calRead_lasting (s : State) (cups : List CupolaUpset) (bursts : List (Nat × BurstRec)) (p sp cal : Nat) :
    (s.calRead cups bursts p sp cal).lasting = s.lasting :=
  (State.calFetch_lasting ..).trans ((State.countEach_lasting ..).trans (State.strike_lasting ..))

include hb

/-- A set that is read by its count waits for it in the shadow bank. -/
theorem calRead_early (hn : (s.part p).ccyc ≤ l.at_) (set : CalSet) :
    SpireAndCupolas (s.countEach bursts) ((s.calRead cups bursts p sp.val l.cal).calLoaded p sp.val l set) sp.val ∧
    (((s.calRead cups bursts p sp.val l.cal).calLoaded p sp.val l set).spire sp.val).calShadow = some { l with set := some set } ∧
    (((s.calRead cups bursts p sp.val l.cal).calLoaded p sp.val l set).spire sp.val).calActive = (s.spire sp.val).calActive := by
  obtain ⟨-, less, spires⟩ := State.calRead_clean cups bursts hb p sp.val l.cal
  have now : ((s.calRead cups bursts p sp.val l.cal).part p).ccyc = (s.part p).ccyc :=
    State.eq_of_lasting (fun a => (a.part p).ccyc) (fun _ => rfl) (State.calRead_lasting ..)
  rw [State.calLoaded_early (now ▸ hn)]
  refine ⟨⟨?_, ?_, fun i hi => ?_⟩, ?_, ?_⟩
  · have outside := congrArg (fun a : State => ({ a with core := (s.countEach bursts).core } : State)) less
    exact outside
  · have inside := congrArg (fun a : State => ({ a.core with spires := (s.countEach bursts).core.spires, cupolas := (s.countEach bursts).core.cupolas } : Core)) less
    exact inside
  · rw [State.spire_onSpire_ne _ _ hi, spires, State.countEach_spire]
  · rw [State.spire_onSpire]
  · rw [State.spire_onSpire, spires]

/-- A set that is read after its count is active from then on. -/
theorem calRead_late (hn : l.at_ < (s.part p).ccyc) (hq : Quiet s sp.val) (set : CalSet) :
    let t := (s.calRead cups bursts p sp.val l.cal).calLoaded p sp.val l set
    SameMemory s t ∧ (t.spire sp.val).calShadow = none ∧ (t.spire sp.val).calActive = set ∧ (t.spire sp.val).calFrom = (s.part p).ccyc ∧
      (t.spire sp.val).ctr.calLate = sat32 (s.spire sp.val).ctr.calLate 1 ∧
      t.log.pos = s.log.pos + (if (s.spire sp.val).calLateLogged then 0 else 1) := by
  obtain ⟨-, less, spires⟩ := State.calRead_clean cups bursts hb p sp.val l.cal
  have lasting := State.calRead_lasting s cups bursts p sp.val l.cal
  have now : ((s.calRead cups bursts p sp.val l.cal).part p).ccyc = (s.part p).ccyc := State.eq_of_lasting (fun a => (a.part p).ccyc) (fun _ => rfl) lasting
  have bad : (s.calRead cups bursts p sp.val l.cal).core.hbmBad = [] := (State.eq_of_lasting (·.core.hbmBad) (fun _ => rfl) lasting).trans hb
  have log : (s.calRead cups bursts p sp.val l.cal).log = s.log :=
    (State.eq_of_cacheless (·.log) (fun _ => rfl) less).trans (s.countEach_records bursts).1
  have host : (s.calRead cups bursts p sp.val l.cal).host = s.host :=
    (State.eq_of_cacheless (·.host) (fun _ => rfl) less).trans (s.countEach_records bursts).2
  have memory : SameMemory s (s.calRead cups bursts p sp.val l.cal) := SameMemory.of_lasting lasting fun k => by
    rw [State.fn, host]
    rfl
  obtain ⟨memory', shadow, active, since, late, pos⟩ :=
    State.calLoaded_late_active (l := l) (now.symm ▸ hn) (hq.of_ctxs fun k _ => by rw [spires]) bad set
  rw [spires] at late pos
  exact ⟨memory.trans memory', shadow, active, since.trans now, late, by rw [pos, log]⟩

end

/-- The sets of a partition that are due become active, and nothing else changes but the Cupolas. -/
theorem calActivated {s : State} {n : Nat} {l : List Nat} (hs : s.Turnable) (hl : ∀ sp ∈ l, sp < 16) :
    { l.foldl (State.calTurn n) s with core := s.core } = s ∧
    { (l.foldl (State.calTurn n) s).core with spires := s.core.spires, cupolas := s.core.cupolas } = s.core ∧
    ∀ sp, (sp ∉ l → (l.foldl (State.calTurn n) s).spire sp = s.spire sp) ∧
      (sp ∈ l → ∀ cal at_ set, (s.spire sp).calShadow = some ⟨cal, at_, some set⟩ → bit1 (s.spire sp).frozen 0 = false →
        (n < at_ → (l.foldl (State.calTurn n) s).spire sp = s.spire sp) ∧
        (at_ ≤ n → ((l.foldl (State.calTurn n) s).spire sp).calActive = set ∧ ((l.foldl (State.calTurn n) s).spire sp).calFrom = at_ ∧
          ((l.foldl (State.calTurn n) s).spire sp).calShadow = none)) := by
  have less := State.calTurns_cacheless n hs hl
  refine ⟨?_, ?_, fun sp => ⟨State.calTurns_other n hs hl, fun hsp cal at_ set shadow live => ?_⟩⟩
  · have outside := congrArg (fun a : State => ({ a with core := s.core } : State)) less
    exact outside
  · have inside := congrArg (fun a : State => ({ a.core with spires := s.core.spires, cupolas := s.core.cupolas } : Core)) less
    exact inside
  · have due : (s.spire sp).calDue n = if at_ ≤ n then some (set, at_) else none := by
      rw [Spire.calDue, shadow]
      simp only [live, Bool.not_false, and_true]
    exact ⟨fun early => State.calTurns_none n hs hl (due.trans (if_neg (by omega))), fun come => State.calTurns_due n hs hl hsp (due.trans (if_pos come))⟩

/-- The ccyc of a calendar, field by field. -/
theorem calEntries_act {u : State} (p : Nat) (ce : u.core.sramCe = []) (ue : u.core.sramUe = []) :
    let m := (u.part p).ccyc
    let view := u.calView p
    let t := (u.calLive p).foldl (view.noteEntries m) (u.calActed p)
    (t.part p).calNext = m + 1 ∧ SameSram u t ∧ SameHbm u t ∧ t.core.inputs = view.core.inputs ∧
      t.core.arrivals = u.core.arrivals.filter (fun a => !u.arrived p m a) ++
        ((u.calActs p).filter fun e => decide (e.2.1.port ≠ 4)).map (fun e => sentBy view m u.free e.2) ∧
      t.core.writeBacks = (u.core.writeBacks ++ ((u.calActs p).filter fun e => decide (e.2.1.port = 4)).map (writtenBy view m u.free)).filter
        (fun w => decide (u.owner w.spire ≠ some p) || decide (w.at_ ≤ m) || !u.seqFrozen w.spire) := by
  have rest := State.noteAll_bankless (p := p) ce ue
  have next : ((u.calActed p).part p).calNext = (u.part p).ccyc + 1 := by
    rw [State.calActed_eq]
    exact congrArg Part.calNext (State.part_setPart u p { u.part p with calNext := (u.part p).ccyc + 1 })
  have sram : (u.calActed p).core.sram = u.core.sram := by rw [State.calActed_eq]; rfl
  have hbm : (u.calActed p).core.hbm = u.core.hbm := by rw [State.calActed_eq]; rfl
  have inputs : (u.calActed p).core.inputs = (u.calView p).core.inputs := by rw [State.calActed_eq]; rfl
  have arrivals := congrArg (·.core.arrivals) (u.calActed_eq p)
  have back := congrArg (·.core.writeBacks) (u.calActed_eq p)
  dsimp only
  generalize (u.calLive p).foldl ((u.calView p).noteEntries (u.part p).ccyc) (u.calActed p) = t at rest ⊢
  have sram' : t.core.sram = u.core.sram := (State.eq_of_bankless (·.core.sram) (fun _ => rfl) rest).trans sram
  have hbm' : t.core.hbm = u.core.hbm := (State.eq_of_bankless (·.core.hbm) (fun _ => rfl) rest).trans hbm
  exact ⟨(State.eq_of_bankless (fun a => (a.part p).calNext) (fun _ => rfl) rest).trans next,
    fun tile a => by rw [State.sramByte, State.sramByte, sram'], fun a => by rw [State.hbmByte, State.hbmByte, hbm'],
    (State.eq_of_bankless (·.core.inputs) (fun _ => rfl) rest).trans inputs, (State.eq_of_bankless (·.core.arrivals) (fun _ => rfl) rest).trans arrivals,
    (State.eq_of_bankless (·.core.writeBacks) (fun _ => rfl) rest).trans back⟩

/-- Settles O19: loads and sets go by the turns of their Spires, and the entries of a ccyc act on what it began with. -/
theorem calendarsRun : Obligations.CalendarsRun := by
  intro s p run
  refine ⟨fun sp l cups bursts owner hq load pending live hb => ⟨fun waits => ?_, fun ready hn => ?_, fun ready hn => ?_⟩, fun hq hl hb => ?_,
    fun u due early => ?_, fun u due run' next ce ue => ?_, fun sp owner window => ?_⟩
  · exact (execCalLoadComplete_pending owner load pending run live cups bursts).trans (if_pos waits)
  · exact ⟨_, execCalLoadComplete_read cups bursts hb owner load pending run live ready, calRead_early cups bursts hb hn _⟩
  · exact ⟨_, execCalLoadComplete_read cups bursts hb owner load pending run live ready, calRead_late cups bursts hb hn hq _⟩
  · obtain ⟨outside, inside, turns⟩ := calActivated (n := (s.part p.val).ccyc) ⟨hq, hb⟩ hl
    exact ⟨_, execCalActivate_run run, outside, inside, fun sp => ⟨(turns sp).1, fun hsp _ => (turns sp).2 hsp⟩⟩
  · rw [exec_calEntryAct, execCalEntryAct, due]
    exact if_pos early
  · exact ⟨_, execCalEntryAct_due due run' next, calEntries_act p.val ce ue⟩
  · have owned : execBankWindowStart sp s = if (s.spire sp.val).shareWindow = (s.part p.val).ccyc / 64 then .next s else .next (s.onSpire sp.val
        (fun x => { x with shareWindow := (s.part p.val).ccyc / 64, usedRead := 0, usedWrite := 0, usedRemote := 0 })) := by
      rw [execBankWindowStart, owner]
    exact owned.trans (if_neg window)

end Sys2Proof.Machine
end

section
/-! SUPPORT. Remote pushes: arrivals and acknowledgements. -/

namespace Sys2Proof.Machine

theorem exec_remotePushArrive (id : Nat) (s : State) : exec (.remotePushArrive id) s = execRemotePushArrive id s := rfl

theorem exec_remotePushAcknowledgement (id : Nat) (s : State) :
    exec (.remotePushAcknowledgement id) s = execRemotePushAcknowledgement id s := rfl

/-! A freeze of one master. -/

theorem State.freeze_core (s : State) (sp master reason detail addr ctx window : Nat) :
    ({ (s.freeze sp master reason detail addr ctx window).core with spires := [], writeBacks := [] } : Core) =
      { s.core with spires := [], writeBacks := [] } := by
  unfold State.freeze
  split
  · rfl
  · dsimp only
    split
    · rfl
    · simp only [State.frozenEvent, State.signal_core, State.event_core]
      rfl

/-- What is read off the core beside the Spires and the scheduled writes is the same after a freeze. -/
theorem State.freeze_core_eq {γ : Type} (g : Core → γ) (hg : ∀ c : Core, g { c with spires := [], writeBacks := [] } = g c) (s : State)
    (sp master reason detail addr ctx window : Nat) : g (s.freeze sp master reason detail addr ctx window).core = g s.core := by
  rw [← hg, State.freeze_core, hg]

theorem bit1_master {m : Nat} (h : m < 6) (x : BitVec 6) : bit1 (x ||| BitVec.ofNat 6 (2 ^ m)) m = true := by
  have all : ∀ (m : Fin 6) (x : BitVec 6), bit1 (x ||| BitVec.ofNat 6 (2 ^ m.val)) m.val = true := by decide
  exact all ⟨m, h⟩ x

/-- A master but the sequencer that is not frozen freezes: what its Spire is then. -/
theorem State.freeze_spire_live {s : State} {sp p m : Nat} (ho : s.owner sp = some p) (hr : (s.part p).reset = .none)
    (hf : bit1 (s.spire sp).frozen m = false) (h0 : m ≠ 0) (reason detail addr ctx window : Nat) :
    (s.freeze sp m reason detail addr ctx window).spire sp = (s.spire sp).afterFreeze m reason ctx detail (s.part p).ccyc s.tickWord := by
  have go : ¬(bit1 (s.spire sp).frozen m = true ∨ (s.part p).reset ≠ .none) := by simp [hf, hr]
  unfold State.freeze
  simp only [ho, if_neg go, if_neg h0]
  rw [State.frozenEvent_spire, State.onCore_spire _ rfl, State.spire_setSpire, Spire.afterFreeze, if_neg h0, if_neg h0]

theorem Spire.afterFreeze_frozen (x : Spire) {m : Nat} (h0 : m ≠ 0) (reason ctx detail ccyc tick : Nat) :
    (x.afterFreeze m reason ctx detail ccyc tick).frozen = x.frozen ||| BitVec.ofNat 6 (2 ^ m) := by
  rw [Spire.afterFreeze, if_neg h0, if_neg h0, Spire.stopUnit_frozen, Spire.record_frozen]

/-- A frozen master is frozen. -/
theorem State.freeze_master {s : State} {sp p m : Nat} (ho : s.owner sp = some p) (hr : (s.part p).reset = .none) (h0 : m ≠ 0) (h6 : m < 6)
    (reason detail addr ctx window : Nat) : bit1 ((s.freeze sp m reason detail addr ctx window).spire sp).frozen m = true := by
  cases hf : bit1 (s.spire sp).frozen m with
  | false => rw [State.freeze_spire_live ho hr hf h0, Spire.afterFreeze_frozen _ h0, bit1_master h6]
  | true =>
    have stays : s.freeze sp m reason detail addr ctx window = s := by simp only [State.freeze, ho, hf, true_or, if_true]
    rw [stays, hf]

/-- The master that a push freezes. -/
def pushMaster (w : RemotePush) : Nat := match w.origin with
  | .transfer u _ => u + 1
  | _ => 5

theorem State.freezePusher_eq (s : State) (w : RemotePush) : ∃ index, s.freezePusher w = s.freeze w.src (pushMaster w) 5 index 0 := by
  unfold State.freezePusher pushMaster
  cases w.origin <;> exact ⟨_, rfl⟩

/-! What is left of the pushes. -/

/-- What a step of a push leaves as it was. -/
structure PushFrame (s t : State) : Prop where
  sram : SameSram s t
  hbm : SameHbm s t
  outside : { t with core := s.core } = s

theorem Buffered.pushFrame {s b t : State} {sp : Nat} (h : Buffered b t sp) (outside : { b with core := s.core } = s) (sram : b.core.sram = s.core.sram)
    (hbm : b.core.hbm = s.core.hbm) : PushFrame s t where
  sram tile a := by rw [State.sramByte, State.sramByte, h.eq (·.core.sram) (fun _ => rfl), sram]
  hbm a := by rw [State.hbmByte, State.hbmByte, h.eq (·.core.hbm) (fun _ => rfl), hbm]
  outside := (h.eq (fun a => ({ a with core := s.core } : State)) fun _ => rfl).trans outside

section

variable {s : State} {w : RemotePush} (found : s.core.pushes.find? (fun v => decide (v.id = w.id)) = some w)

include found

/-! Arrivals. -/

/-- A message to another partition is discarded as a delivery violation. -/
def State.pushDiscarded (s : State) (id : Nat) : State := s.onCore fun c => { c with
  pushes := c.pushes.filter (fun v => decide (v.id ≠ id)), mesh := { c.mesh with delivery := sat32 c.mesh.delivery 1 } }

theorem pushArrive_behind (behind : s.lanternAhead w.src w.dst w.id = true) : execRemotePushArrive w.id s = .next s := by
  rw [execRemotePushArrive, found]
  exact if_pos (.inr behind)

section

variable (flying : w.phase = .flying) (first : s.lanternAhead w.src w.dst w.id = false)

include flying first

/-- A push to another partition is discarded, and freezes the master that sent it. -/
theorem pushArrive_foreign {p : Nat} (foreign : s.owner w.dst ≠ some w.part) (owner : s.owner w.src = some p) (live : (s.part p).reset = .none)
    (known : pushMaster w < 6) : ∃ t, execRemotePushArrive w.id s = .next t ∧ SameSram s t ∧ SameHbm s t ∧
      t.core.pushes = s.core.pushes.filter (fun v => decide (v.id ≠ w.id)) ∧ t.core.mesh.delivery = sat32 s.core.mesh.delivery 1 ∧
      bit1 (t.spire w.src).frozen (pushMaster w) = true := by
  have go : ¬(w.phase ≠ .flying ∨ s.lanternAhead w.src w.dst w.id = true) := by simp [flying, first]
  have engine : pushMaster w ≠ 0 := by
    unfold pushMaster
    split <;> omega
  obtain ⟨index, frozen⟩ := State.freezePusher_eq (s.pushDiscarded w.id) w
  have lasting := State.freeze_lasting (s.pushDiscarded w.id) w.src (pushMaster w) 5 index 0 0 0xFF
  have pushes := State.freeze_core_eq (·.pushes) (fun _ => rfl) (s.pushDiscarded w.id) w.src (pushMaster w) 5 index 0 0 0xFF
  have delivery := State.freeze_core_eq (·.mesh.delivery) (fun _ => rfl) (s.pushDiscarded w.id) w.src (pushMaster w) 5 index 0 0 0xFF
  have masked : bit1 (((s.pushDiscarded w.id).freeze w.src (pushMaster w) 5 index 0).spire w.src).frozen (pushMaster w) = true :=
    State.freeze_master (s := s.pushDiscarded w.id) owner live engine known ..
  have run : execRemotePushArrive w.id s = .next ((s.pushDiscarded w.id).freeze w.src (pushMaster w) 5 index 0) := by
    rw [← frozen]
    unfold execRemotePushArrive
    rw [found]
    dsimp only
    rw [if_neg go, if_pos foreign]
    rfl
  generalize (s.pushDiscarded w.id).freeze w.src (pushMaster w) 5 index 0 = t at *
  exact ⟨t, run, fun tile a => State.eq_of_lasting (·.sramByte tile a) (fun _ => rfl) lasting, fun a => State.eq_of_lasting (·.hbmByte a) (fun _ => rfl) lasting,
    pushes, delivery, masked⟩

variable (own : s.owner w.dst = some w.part)

include own

theorem pushArrive_accepted {b : State} (accepted : s.pushLocal w.dst w.queue w.handle (s.countOf w.dst) = some b) :
    execRemotePushArrive w.id s = .next ((b.takePush w.id).resume w.dst) := by
  have go : ¬(w.phase ≠ .flying ∨ s.lanternAhead w.src w.dst w.id = true) := by simp [flying, first]
  have here : ¬s.owner w.dst ≠ some w.part := not_not_intro own
  unfold execRemotePushArrive
  rw [found]
  dsimp only
  rw [if_neg go, if_neg here, accepted]

theorem pushArrive_refused (full : s.pushLocal w.dst w.queue w.handle (s.countOf w.dst) = none) :
    execRemotePushArrive w.id s = .next (s.setPushPhase w.id .waiting) := by
  have go : ¬(w.phase ≠ .flying ∨ s.lanternAhead w.src w.dst w.id = true) := by simp [flying, first]
  have here : ¬s.owner w.dst ≠ some w.part := not_not_intro own
  unfold execRemotePushArrive
  rw [found]
  dsimp only
  rw [if_neg go, if_neg here, full]

/-- A push that its Spire accepts is taken there, and its acknowledgement sets out. -/
theorem pushArrive_taken {b : State} (accepted : s.pushLocal w.dst w.queue w.handle (s.countOf w.dst) = some b) (only : OnlySpire s b w.dst)
    (quiet : Quiet b w.dst) (hb : s.core.hbmBad = []) : ∃ t, execRemotePushArrive w.id s = .next t ∧
      t.core.pushes = s.core.pushes.map (fun v => if v.id = w.id then { v with phase := .taken, ack := s.core.nextId } else v) ∧ PushFrame s t ∧
      (∀ i, i ≠ w.dst → t.spire i = s.spire i) ∧ (t.spire w.dst).unbuffered = (b.spire w.dst).unbuffered := by
  have bad : (b.takePush w.id).core.hbmBad = [] := (only.core_eq (·.hbmBad) fun _ => rfl).trans hb
  have goes := State.resume_buffered (s := b.takePush w.id) quiet bad
  refine ⟨_, pushArrive_accepted found flying first own accepted, ?_, goes.pushFrame ?_ ?_ ?_, fun i hi => ?_, goes.own⟩
  · have ack : b.core.nextId = s.core.nextId := only.core_eq (·.nextId) fun _ => rfl
    have held : b.core.pushes = s.core.pushes := only.core_eq (·.pushes) fun _ => rfl
    rw [goes.eq (·.core.pushes) fun _ => rfl, ← ack, ← held]
    rfl
  · exact only.outside
  · exact only.core_eq (·.sram) fun _ => rfl
  · exact only.core_eq (·.hbm) fun _ => rfl
  · rw [goes.others i hi]
    exact only.others i hi

/-- A push that its Spire does not accept waits there. -/
theorem pushArrive_waits (full : s.pushLocal w.dst w.queue w.handle (s.countOf w.dst) = none) : ∃ t, execRemotePushArrive w.id s = .next t ∧
    t.core.pushes = s.core.pushes.map (fun v => if v.id = w.id then { v with phase := .waiting } else v) ∧ PushFrame s t ∧ t.core.spires = s.core.spires :=
  ⟨_, pushArrive_refused found flying first own full, rfl, ⟨fun _ _ => rfl, fun _ => rfl, rfl⟩, rfl⟩

end

end

end Sys2Proof.Machine
end

section
/-! SUPPORT. Remote pushes: what an arrival and an acknowledgement leave. -/

namespace Sys2Proof.Machine

/-! The acknowledgement. -/

/-- The push is over. -/
def State.pushGone (s : State) (id : Nat) : State := s.onCore fun c => { c with pushes := c.pushes.filter (fun v => decide (v.id ≠ id)) }

theorem State.gateUp_onCore (s : State) (x : Xfer) (f : Core → Core) : (s.onCore f).gateUp x = (s.gateUp x).onCore f := by
  unfold State.gateUp
  dsimp only
  split <;> rfl

theorem State.gateUp_core (s : State) (x : Xfer) : (s.gateUp x).core = s.core := by
  unfold State.gateUp
  dsimp only
  split <;> rfl

theorem Spire.dropXfer_unit (x : Spire) (u id : Nat) : (x.dropXfer u id).unit u = (x.unit u).filter fun y => decide (y.id ≠ id) :=
  Spire.unit_setUnit ..

section

variable {s : State} {w : RemotePush} (found : s.core.pushes.find? (fun v => decide (v.id = w.id)) = some w)

include found

theorem pushAck_behind (behind : s.ackAhead w = true) : execRemotePushAcknowledgement w.id s = .next s := by
  rw [execRemotePushAcknowledgement, found]
  exact if_pos (.inr behind)

variable (taken : w.phase = .taken) (first : s.ackAhead w = false)

include taken first

/-- The HQ_PUT_F that waits passes. -/
theorem pushAck_fetch {c : Nat} (origin : w.origin = .fetch c) (waits : ((s.spire w.src).ctx c).pushF = some w.id) (live : s.seqFrozen w.src = false) :
    execRemotePushAcknowledgement w.id s =
      .next (((s.pushGone w.id).setSpire w.src ((s.spire w.src).putPassed c (s.countOf w.src))).resume w.src) := by
  have go : ¬(w.phase ≠ .taken ∨ s.ackAhead w = true) := by simp [taken, first]
  unfold execRemotePushAcknowledgement
  rw [found]
  dsimp only
  rw [if_neg go, origin]
  exact if_pos ⟨waits, by rw [live]; rfl⟩

/-- The HQ_PUT_E that waits passes. -/
theorem pushAck_execute {c : Nat} (origin : w.origin = .execute c) (waits : ((s.spire w.src).ctx c).pushE = some w.id) (live : s.seqFrozen w.src = false) :
    execRemotePushAcknowledgement w.id s = .next (((s.pushGone w.id).setSpire w.src
      ((s.spire w.src).onCtx c fun k => k.pass (s.planOf w.src).pod (s.countOf w.src) (s.countOf w.src))).resume w.src) := by
  have go : ¬(w.phase ≠ .taken ∨ s.ackAhead w = true) := by simp [taken, first]
  unfold execRemotePushAcknowledgement
  rw [found]
  dsimp only
  rw [if_neg go, origin]
  exact if_pos ⟨waits, by rw [live]; rfl⟩

/-- The transfer whose completion push it was leaves. -/
theorem pushAck_transfer {u xid : Nat} (origin : w.origin = .transfer u xid) : execRemotePushAcknowledgement w.id s =
    .next (((((s.spire w.src).xfer u xid).elim (s.pushGone w.id) (s.pushGone w.id).gateUp).onSpire w.src fun y => y.dropXfer u xid).resume w.src) := by
  have go : ¬(w.phase ≠ .taken ∨ s.ackAhead w = true) := by simp [taken, first]
  unfold execRemotePushAcknowledgement
  rw [found]
  dsimp only
  rw [if_neg go, origin]
  rfl

/-- Nothing waits for it, or what waits is frozen. -/
theorem pushAck_idle (idle : w.origin = .spanRx ∨ (s.seqFrozen w.src = true ∧ ∃ c, w.origin = .fetch c ∨ w.origin = .execute c)) :
    execRemotePushAcknowledgement w.id s = .next (s.pushGone w.id) := by
  have go : ¬(w.phase ≠ .taken ∨ s.ackAhead w = true) := by simp [taken, first]
  unfold execRemotePushAcknowledgement
  rw [found]
  dsimp only
  rw [if_neg go]
  obtain origin | ⟨frozen, c, origin | origin⟩ := idle
  · rw [origin]
    rfl
  · rw [origin]
    exact if_neg fun h => by simp [frozen] at h
  · rw [origin]
    exact if_neg fun h => by simp [frozen] at h

end

/-! The Spire that sent it. -/

section

variable {s : State} {sp id : Nat} {x : Spire} (hb : s.core.hbmBad = []) (quiet : Quiet ((s.pushGone id).setSpire sp x) sp)

include hb quiet

/-- The Spire of an HQ_PUT goes on. -/
theorem pushGone_goes : (((s.pushGone id).setSpire sp x).resume sp).core.pushes = s.core.pushes.filter (fun v => decide (v.id ≠ id)) ∧
    PushFrame s (((s.pushGone id).setSpire sp x).resume sp) ∧ ∀ c, ((((s.pushGone id).setSpire sp x).resume sp).spire sp).ctx c = x.ctx c := by
  have goes := State.resume_buffered quiet hb
  refine ⟨goes.eq (·.core.pushes) fun _ => rfl, goes.pushFrame rfl rfl rfl, fun c => ?_⟩
  rw [goes.spire_eq (·.ctx c) (fun _ => rfl), State.spire_setSpire]

end

theorem Quiet.setSpire {s : State} {sp : Nat} {x : Spire} (h : ∀ k, k < 8 → (x.ctx k).backlog = [] ∧ (x.ctx k).queue = []) : Quiet (s.setSpire sp x) sp := by
  intro k hk
  rw [State.spire_setSpire]
  exact h k hk

/-- A context that changes alone leaves its Spire quiet when it ends idle. -/
theorem Spire.onCtx_idle {x : Spire} {c : Nat} {f : Ctx → Ctx} (idle : (f (x.ctx c)).backlog = [] ∧ (f (x.ctx c)).queue = [])
    (still : ∀ k, k < 8 → k ≠ c → (x.ctx k).backlog = [] ∧ (x.ctx k).queue = []) :
    ∀ k, k < 8 → ((x.onCtx c f).ctx k).backlog = [] ∧ ((x.onCtx c f).ctx k).queue = [] := by
  intro k hk
  by_cases hne : k = c
  · rw [hne, Spire.ctx_onCtx]
    exact idle
  · rw [Spire.ctx_onCtx_ne _ _ hne]
    exact still k hk hne

/-- The transfer of a completion push leaves its unit, its gate counts up, and its Spire goes on. -/
theorem transferGone_goes {s : State} {sp u xid id : Nat} (hb : s.core.hbmBad = []) (quiet : Quiet s sp) :
    let t := ((((s.spire sp).xfer u xid).elim (s.pushGone id) (s.pushGone id).gateUp).onSpire sp fun y => y.dropXfer u xid).resume sp
    t.core.pushes = s.core.pushes.filter (fun v => decide (v.id ≠ id)) ∧ SameSram s t ∧ SameHbm s t ∧
      { t with core := s.core } = ((s.spire sp).xfer u xid).elim s s.gateUp ∧
      (t.spire sp).unit u = ((s.spire sp).unit u).filter (fun y => decide (y.id ≠ xid)) := by
  have core : (((s.spire sp).xfer u xid).elim (s.pushGone id) (s.pushGone id).gateUp).core = (s.pushGone id).core := by
    cases (s.spire sp).xfer u xid with
    | none => rfl
    | some x => exact State.gateUp_core ..
  have outside : ({ ((s.spire sp).xfer u xid).elim (s.pushGone id) (s.pushGone id).gateUp with core := s.core } : State) =
      ((s.spire sp).xfer u xid).elim s s.gateUp := by
    cases (s.spire sp).xfer u xid with
    | none => rfl
    | some x =>
      have gate : (s.pushGone id).gateUp x = (s.gateUp x).onCore _ := State.gateUp_onCore ..
      show ({ (s.pushGone id).gateUp x with core := s.core } : State) = s.gateUp x
      rw [gate, ← State.gateUp_core s x]
      rfl
  generalize ((s.spire sp).xfer u xid).elim (s.pushGone id) (s.pushGone id).gateUp = b at core outside
  have spire : b.spire sp = s.spire sp := by rw [State.spire, core]; rfl
  have own : (b.onSpire sp fun y => y.dropXfer u xid).spire sp = (s.spire sp).dropXfer u xid := by rw [State.spire_onSpire, spire]
  have goes := State.resume_buffered (s := b.onSpire sp fun y => y.dropXfer u xid) (sp := sp)
    (quiet.of_ctxs fun k _ => by rw [own]; rfl) ((congrArg Core.hbmBad core).trans hb)
  refine ⟨(goes.eq (·.core.pushes) fun _ => rfl).trans (congrArg Core.pushes core), fun tile a => ?_, fun a => ?_,
    (goes.eq (fun a => ({ a with core := s.core } : State)) fun _ => rfl).trans outside, ?_⟩
  · rw [State.sramByte, State.sramByte, goes.eq (·.core.sram) fun _ => rfl]
    exact congrArg (Tbl.get 0#8 (sramKey tile a)) (congrArg Core.sram core :)
  · rw [State.hbmByte, State.hbmByte, goes.eq (·.core.hbm) fun _ => rfl]
    exact congrArg (Tbl.get 0#8 a) (congrArg Core.hbm core :)
  · rw [goes.spire_eq (·.unit u) (fun _ => rfl), own, Spire.dropXfer_unit]

end Sys2Proof.Machine
end

section
/-! SUPPORT. The Lantern path: what an issue and an end of a transfer leave. -/

namespace Sys2Proof.Machine

theorem exec_lanternComplete (sp : Fin 16) (xfer : Nat) (bad : Bool) (upsets : List Upset) (bursts : BurstRec) (s : State) :
    exec (.lanternComplete sp xfer bad upsets bursts) s = execLanternComplete sp xfer bad upsets s bursts := rfl

/-! Issue. -/

/-- A state but for its Spires, its numbers, its log and what the host sees. -/
def State.unissued (s : State) : State := { s with core := { s.core with spires := [], nextId := 0 }, log := {}, host := {} }

theorem State.eq_of_unissued {γ : Type} (g : State → γ) (hg : ∀ a : State, g a.unissued = g a) {s t : State} (h : t.unissued = s.unissued) : g t = g s := by
  rw [← hg t, h, hg]

theorem State.freeze_unissued (s : State) (sp : Nat) {m : Nat} (h0 : m ≠ 0) (reason detail addr ctx window : Nat) :
    (s.freeze sp m reason detail addr ctx window).unissued = s.unissued := by
  have core : ({ (s.freeze sp m reason detail addr ctx window).core with spires := [], nextId := 0 } : Core) = { s.core with spires := [], nextId := 0 } := by
    unfold State.freeze
    split
    · rfl
    · dsimp only
      split
      · rfl
      · simp only [State.frozenEvent, State.signal_core, State.event_core]
        rfl
  calc (s.freeze sp m reason detail addr ctx window).unissued
    _ = { (s.freeze sp m reason detail addr ctx window).lasting with
          core := { (s.freeze sp m reason detail addr ctx window).core with spires := [], nextId := 0 } } := rfl
    _ = s.unissued := by rw [State.freeze_lasting, core]; rfl

theorem bit1_lantern (x : BitVec 6) : bit1 (x ||| BitVec.ofNat 6 (2 ^ 5)) 0 = bit1 x 0 := by
  revert x
  decide

/-- A freeze of the Lantern path leaves the sequencers as they are. -/
theorem State.freeze_lantern_seq (s : State) (sp reason detail addr ctx window i : Nat) :
    (s.freeze sp 5 reason detail addr ctx window).seqFrozen i = s.seqFrozen i := by
  by_cases hi : i = sp
  · subst hi
    obtain e | ⟨n, e⟩ := s.freeze_spire i 5 reason detail addr ctx window
    · rw [State.seqFrozen, e, State.seqFrozen]
    · rw [State.seqFrozen, e, State.seqFrozen]
      show bit1 (Spire.afterFreeze (s.spire i) 5 reason ctx detail (s.countOf i) s.tickWord).frozen 0 = _
      rw [Spire.afterFreeze_frozen _ (by decide), bit1_lantern]
  · rw [State.seqFrozen, State.freeze_spire_ne _ hi, State.seqFrozen]

/-- What neither a refusal nor an issue of a Lantern transfer changes, the issue of a Spire's transfers does not. -/
theorem State.issueLantern_same {γ : Type} (g : State → γ) {sp : Nat} (refused : ∀ (a : State) x off, g (a.windowViolation sp 4 x off) = g a)
    (issued : ∀ (a : State) x r, g (a.freshId.2.onSpire sp fun z => z.onXfer 4 x fun t => { t with issued := 1, reqs := [r] }) = g a) (s : State) :
    g (s.issueLantern sp) = g s := by
  unfold State.issueLantern
  refine foldl_keeps g _ (fun a x => ?_) _ _
  dsimp only
  split
  · rfl
  · split
    · exact refused ..
    · exact issued ..

section

variable (s : State) (sp : Nat)

theorem State.issueLantern_unissued : (s.issueLantern sp).unissued = s.unissued :=
  State.issueLantern_same State.unissued (fun a _ _ => a.freeze_unissued sp (by decide) ..) (fun _ _ _ => rfl) s

theorem State.issueLantern_unloaded (i : Nat) : ((s.issueLantern sp).spire i).unloaded = (s.spire i).unloaded :=
  State.issueLantern_same (fun a : State => (a.spire i).unloaded) (fun _ _ _ => State.freeze_unloaded ..)
    (fun a x r => a.freshId.2.onSpire_unloaded sp (f := fun z => z.onXfer 4 x fun t => { t with issued := 1, reqs := [r] }) (fun _ => rfl) i) s

theorem State.issueLantern_seq (i : Nat) : (s.issueLantern sp).seqFrozen i = s.seqFrozen i := by
  refine State.issueLantern_same (fun a : State => a.seqFrozen i) (fun _ _ _ => State.freeze_lantern_seq ..) (fun a x r => ?_) s
  by_cases hi : i = sp
  · rw [hi, State.seqFrozen, State.spire_onSpire]
    rfl
  · rw [State.seqFrozen, State.spire_onSpire_ne _ _ hi]
    rfl

end

theorem Quiet.issueLantern {s : State} {sp : Nat} (h : Quiet s sp) (i : Nat) : Quiet (s.issueLantern i) sp :=
  h.of_ctxs fun k _ => Spire.eq_of_unloaded (Spire.ctx · k) (fun _ => rfl) (s.issueLantern_unloaded i sp)

/-! The end of a request. -/

/-- A Spire in which a request of a transfer is over. -/
def Spire.ended (y : Spire) (u xid rid : Nat) : Spire :=
  let z := y.onXfer u xid fun x => { x with reqs := x.reqs.filter (fun r => decide (r.id ≠ rid)) }
  match z.xfer u xid with
  | some x => if x.stopped ∧ !x.busy then z.dropXfer u xid else z
  | none => z

/-- A Spire but for the transfers it holds. -/
def Spire.unitless (x : Spire) : Spire := { x with units := [] }

theorem Spire.ended_cases (y : Spire) (u xid rid : Nat) :
    y.ended u xid rid = (y.onXfer u xid fun x => { x with reqs := x.reqs.filter (fun r => decide (r.id ≠ rid)) }) ∨
    y.ended u xid rid = (y.onXfer u xid fun x => { x with reqs := x.reqs.filter (fun r => decide (r.id ≠ rid)) }).dropXfer u xid := by
  unfold Spire.ended
  dsimp only
  split
  · split
    · exact .inr rfl
    · exact .inl rfl
  · exact .inl rfl

theorem Spire.ended_unitless (y : Spire) (u xid rid : Nat) : (y.ended u xid rid).unitless = y.unitless := by
  obtain e | e := y.ended_cases u xid rid <;> rw [e] <;> rfl

theorem Spire.onXfer_unit (y : Spire) (u xid : Nat) (f : Xfer → Xfer) : (y.onXfer u xid f).unit u = (y.unit u).map fun t => if t.id = xid then f t else t :=
  Spire.unit_setUnit ..

/-- The other transfers of a unit, after one of them has changed. -/
theorem others_of_onXfer {l : List Xfer} {xid : Nat} {f : Xfer → Xfer} (same : ∀ x, (f x).id = x.id) :
    (l.map fun t => if t.id = xid then f t else t).filter (fun t => decide (t.id ≠ xid)) = l.filter fun t => decide (t.id ≠ xid) := by
  induction l with
  | nil => rfl
  | cons x l ih =>
    rw [List.map_cons]
    by_cases h : x.id = xid
    · rw [if_pos h, List.filter_cons_of_neg (by simp [same, h]), List.filter_cons_of_neg (by simp [h]), ih]
    · rw [if_neg h, List.filter_cons_of_pos (by simp [h]), List.filter_cons_of_pos (by simp [h]), ih]

/-- The other transfers of a unit stay when a request of one is over. -/
theorem Spire.ended_others (y : Spire) (u xid rid : Nat) :
    ((y.ended u xid rid).unit u).filter (fun t => decide (t.id ≠ xid)) = (y.unit u).filter fun t => decide (t.id ≠ xid) := by
  obtain e | e := y.ended_cases u xid rid
  · rw [e, Spire.onXfer_unit]
    exact others_of_onXfer fun _ => rfl
  · rw [e, Spire.dropXfer_unit, List.filter_filter, Spire.onXfer_unit]
    simp only [Bool.and_self]
    exact others_of_onXfer fun _ => rfl

/-- Stopped transfers stay stopped when a request of one is over. -/
theorem Spire.ended_stopped {y : Spire} {u : Nat} (h : ∀ t ∈ y.unit u, t.stopped = true) (xid rid : Nat) :
    ∀ t ∈ (y.ended u xid rid).unit u, t.stopped = true := by
  have changed : ∀ t ∈ (y.onXfer u xid fun x => { x with reqs := x.reqs.filter (fun r => decide (r.id ≠ rid)) }).unit u, t.stopped = true := by
    intro t ht
    rw [Spire.onXfer_unit] at ht
    obtain ⟨v, hv, rfl⟩ := List.mem_map.mp ht
    split
    · exact h v hv
    · exact h v hv
  obtain e | e := y.ended_cases u xid rid
  · rw [e]
    exact changed
  · rw [e, Spire.dropXfer_unit]
    exact fun t ht => changed t (List.mem_of_mem_filter ht)

theorem State.forgetRead_eq (s : State) (sp u xid rid : Nat) : ∃ x, s.forgetRead sp u xid rid = { s with core := { s.core with ctls := x } } := by
  unfold State.forgetRead
  dsimp only
  split
  · exact ⟨_, rfl⟩
  · obtain ⟨x, e⟩ := State.admitAll_eq (s.onCore fun c => { c with ctls := c.ctls.map (fun e => (e.1, { e.2 with
      reads := e.2.reads.filter (fun r => !decide (r.sp = sp ∧ r.unit = u ∧ r.xfer = xid ∧ r.req = rid)),
      waiting := e.2.waiting.filter (fun r => !decide (r.sp = sp ∧ r.unit = u ∧ r.xfer = xid ∧ r.req = rid)) })) })
    exact ⟨x, e⟩

/-- The end of a request changes its Spire and the controllers' queues. -/
theorem State.endReq_eq (s : State) (sp u xid rid : Nat) :
    ∃ x, s.endReq sp u xid rid = ({ s with core := { s.core with ctls := x } } : State).onSpire sp fun y => y.ended u xid rid := by
  obtain ⟨x, e⟩ := s.forgetRead_eq sp u xid rid
  exact ⟨x, congrArg (fun a : State => a.onSpire sp fun y => y.ended u xid rid) e⟩

end Sys2Proof.Machine
end

section
/-! SUPPORT. The Lantern path: what a message moves. -/

namespace Sys2Proof.Machine

/-! Accesses. -/

theorem State.breakSpans_eq (s : State) (sp id tile a n from_ : Nat) :
    ∃ x, s.breakSpans sp id tile a n from_ = { s with core := { s.core with acc := x } } := by
  unfold State.breakSpans
  dsimp only
  split
  · exact ⟨_, rfl⟩
  · exact ⟨_, rfl⟩

theorem State.useBanks_eq (s : State) (sp : Nat) (k : BankAccess) (l : List (Nat × Nat × Nat)) :
    ∃ x, s.useBanks sp k l = { s with core := { s.core with bankUse := x } } := by
  unfold State.useBanks
  split
  · exact ⟨_, rfl⟩
  · exact ⟨_, rfl⟩

/-- With no error in tile SRAM, a read of tiles takes its banks alone. -/
theorem State.readTiles_eq {s : State} (ce : s.core.sramCe = []) (ue : s.core.sramUe = []) (sp : Nat) (reads : List (Nat × Nat × Nat)) :
    ∃ x, s.readTiles sp reads = { s with core := { s.core with bankUse := x } } := by
  obtain ⟨x, e⟩ := s.useBanks_eq sp .arbitrated reads
  refine ⟨x, ?_⟩
  rw [State.readTiles, e, State.noteReads_none (by exact ce) (by exact ue)]

/-! What a message has moved. -/

/-- A message has moved its bytes: the Spires are as they were, and SRAM and HBM hold what is given. -/
structure Moved (s m : State) (sram hbm : Bytes) : Prop where
  spires : m.core.spires = s.core.spires
  bad : m.core.hbmBad = []
  sram : m.core.sram = sram
  hbm : m.core.hbm = hbm

theorem State.tileWrite_moved {s : State} (hb : s.core.hbmBad = []) (tile a : Nat) (bs : List Byte) :
    Moved s (s.tileWrite tile a bs) (putSram s.core.sram tile a bs) s.core.hbm := by
  unfold State.tileWrite
  dsimp only [State.takeFree]
  obtain ⟨x, e⟩ := ({ s with free := s.free + 1 } : State).breakSpans_eq (spireOfTile tile) s.free tile a bs.length (s.countOf (spireOfTile tile))
  rw [e]
  exact ⟨rfl, hb, rfl, rfl⟩

theorem State.hbmWrite_moved {s : State} (hb : s.core.hbmBad = []) (a : Nat) (bs : List Byte) :
    Moved s (s.hbmWrite a bs) s.core.sram (putHbm s.core.hbm a bs) := by
  refine ⟨rfl, ?_, rfl, rfl⟩
  show s.core.hbmBad.filter _ = []
  rw [hb, List.filter_nil]

/-- The offset in its window that a Lantern transfer reads or writes. -/
def lanternOff (x : Xfer) : Nat := Desc.farBase x.desc + Desc.csFarTerm x.desc x.sel

section

variable {s : State} {sp : Nat} {x : Xfer}

/-- A Lantern transfer from tile to tile. -/
theorem State.lanternMove_tiles (hb : s.core.hbmBad = []) (ce : s.core.sramCe = []) (ue : s.core.sramUe = []) (home : s.lanternForeign x = false)
    (mode : Desc.lmode x.desc = 0) (bad : Bool) : ∃ m, s.lanternMove sp x bad = (m, true) ∧
      Moved s m (putSram s.core.sram (lanternTarget x).1 (lanternTarget x).2
        (s.readBefore (s.countOf sp + 1) (lanternSource sp x).1 (lanternSource sp x).2 (Desc.lanternLen x.desc))) s.core.hbm := by
  unfold State.lanternMove
  dsimp only
  rw [home, if_neg Bool.false_ne_true, if_pos mode]
  obtain ⟨u, eu⟩ := State.readTiles_eq ce ue sp [((lanternSource sp x).1, (lanternSource sp x).2, Desc.lanternLen x.desc)]
  rw [eu]
  obtain ⟨v, ev⟩ := ({ s with core := { s.core with bankUse := u } } : State).useBanks_eq (Desc.lanternSpire x.desc) .arbitrated
    [((lanternTarget x).1, (lanternTarget x).2, Desc.lanternLen x.desc)]
  rw [ev]
  obtain ⟨spires, bad', sram, hbm⟩ := State.tileWrite_moved (s := ({ s with core := { s.core with bankUse := v } } : State)) hb (lanternTarget x).1 (lanternTarget x).2
    (s.readBefore (s.countOf sp + 1) (lanternSource sp x).1 (lanternSource sp x).2 (Desc.lanternLen x.desc))
  exact ⟨_, rfl, spires, bad', sram, hbm⟩

/-- A Lantern transfer from a tile to a window. -/
theorem State.lanternMove_write (hb : s.core.hbmBad = []) (ce : s.core.sramCe = []) (ue : s.core.sramUe = []) (mode : Desc.lmode x.desc = 1)
    (passes : windowPasses (s.cfg.window x.part (Desc.window x.desc)) true (lanternOff x : Nat) (Desc.lanternLen x.desc) = true) :
    ∃ m, s.lanternMove sp x false = (m, true) ∧ Moved s m s.core.sram (putHbm s.core.hbm (s.lanternAddr x)
      (s.readBefore (s.countOf sp + 1) (lanternSource sp x).1 (lanternSource sp x).2 (Desc.lanternLen x.desc))) := by
  have home : s.lanternForeign x = false := by simp [State.lanternForeign, mode]
  have good : ∀ a n, s.badPartial a n = none := fun a n => by simp [State.badPartial, State.badEdges, State.badIn, hb]
  have spoil : s.hbmSpoil none = s := rfl
  obtain ⟨u, eu⟩ := State.readTiles_eq ce ue sp [((lanternSource sp x).1, (lanternSource sp x).2, Desc.lanternLen x.desc)]
  have written := State.hbmWrite_moved (s := ({ s with core := { s.core with bankUse := u } } : State)) hb (s.lanternAddr x)
    (s.readBefore (s.countOf sp + 1) (lanternSource sp x).1 (lanternSource sp x).2 (Desc.lanternLen x.desc))
  refine ⟨_, ?_, written.spires, written.bad, written.sram, written.hbm⟩
  unfold State.lanternMove
  unfold lanternOff at passes
  simp only [home, Bool.false_eq_true, if_false, mode, Nat.one_ne_zero, beq_self_eq_true, passes, Bool.not_true, if_true, spoil, good, eu]
  rfl

/-- A Lantern transfer from a window to a tile. -/
theorem State.lanternMove_read (hb : s.core.hbmBad = []) (home : s.lanternForeign x = false) (mode : Desc.lmode x.desc = 2)
    (passes : windowPasses (s.cfg.window x.part (Desc.window x.desc)) false (lanternOff x : Nat) (Desc.lanternLen x.desc) = true) :
    ∃ m, s.lanternMove sp x false = (m, true) ∧ Moved s m (putSram s.core.sram (lanternTarget x).1 (lanternTarget x).2
      (s.hbmRead (s.lanternAddr x) (Desc.lanternLen x.desc))) s.core.hbm := by
  have good : ∀ a n, s.badBurst a n = none := fun a n => State.badBurst_none hb a n
  have spoil : s.hbmSpoil none = s := rfl
  obtain ⟨v, ev⟩ := s.useBanks_eq (Desc.lanternSpire x.desc) .arbitrated [((lanternTarget x).1, (lanternTarget x).2, Desc.lanternLen x.desc)]
  have written := State.tileWrite_moved (s := ({ s with core := { s.core with bankUse := v } } : State)) hb (lanternTarget x).1 (lanternTarget x).2
    (s.hbmRead (s.lanternAddr x) (Desc.lanternLen x.desc))
  have write : (2 == 1) = false := rfl
  refine ⟨_, ?_, written.spires, written.bad, written.sram, written.hbm⟩
  unfold State.lanternMove
  unfold lanternOff at passes
  simp only [home, Bool.false_eq_true, if_false, mode, OfNat.ofNat_ne_zero, OfNat.ofNat_ne_one, write, passes, Bool.not_true, spoil, good, ev]
  rfl

/-- One to a Spire of another partition is discarded, and freezes the path. -/
theorem State.lanternMove_foreign (foreign : s.lanternForeign x = true) (bad : Bool) : s.lanternMove sp x bad =
    ((s.onCore fun c => { c with mesh := { c.mesh with delivery := sat32 c.mesh.delivery 1 } }).freeze sp 5 5 x.index 0, false) := by
  unfold State.lanternMove
  dsimp only
  rw [foreign, if_pos rfl]

end

/-! Completion. -/

/-- A transfer with no completion push leaves its unit once its request is over. -/
theorem lantern_leaves {s m : State} {sp : Nat} {x : Xfer} {sram hbm : Bytes} (moved : Moved s m sram hbm) (quiet : Quiet s sp) (none_ : Desc.cmode x.desc = 0) (rid : Nat) :
    let t := (m.endReq sp 4 x.id rid).completionPush sp 4 x
    t.core.sram = sram ∧ t.core.hbm = hbm ∧ (t.spire sp).unit 4 = ((s.spire sp).unit 4).filter fun y => decide (y.id ≠ x.id) := by
  obtain ⟨ctls, ended⟩ := m.endReq_eq sp 4 x.id rid
  have spire : m.spire sp = s.spire sp := by rw [State.spire, moved.spires]; rfl
  have leave : (m.endReq sp 4 x.id rid).completionPush sp 4 x =
      (((m.endReq sp 4 x.id rid).gateUp x).onSpire sp fun y => y.dropXfer 4 x.id).resume sp := if_pos none_
  have core : ((m.endReq sp 4 x.id rid).gateUp x).core = (m.endReq sp 4 x.id rid).core := State.gateUp_core ..
  rw [ended] at core leave
  dsimp only
  rw [ended, leave]
  generalize (State.gateUp _ x) = b at core ⊢
  have own : (b.onSpire sp fun y => y.dropXfer 4 x.id).spire sp = ((s.spire sp).ended 4 x.id rid).dropXfer 4 x.id := by
    have gate : b.spire sp = (m.spire sp).ended 4 x.id rid := by
      rw [State.spire, core]
      exact State.spire_onSpire ..
    rw [State.spire_onSpire, gate, spire]
  have idle : Quiet (b.onSpire sp fun y => y.dropXfer 4 x.id) sp := quiet.of_ctxs fun k _ => by
    rw [own]
    have less := (s.spire sp).ended_unitless 4 x.id rid
    have ctx := congrArg (fun y : Spire => y.ctx k) less
    exact ctx
  have goes := State.resume_buffered idle ((congrArg Core.hbmBad core).trans moved.bad)
  refine ⟨?_, ?_, ?_⟩
  · exact (goes.eq (·.core.sram) fun _ => rfl).trans ((congrArg Core.sram core).trans moved.sram)
  · exact (goes.eq (·.core.hbm) fun _ => rfl).trans ((congrArg Core.hbm core).trans moved.hbm)
  · rw [goes.spire_eq (·.unit 4) (fun _ => rfl), own, Spire.dropXfer_unit, Spire.ended_others]

end Sys2Proof.Machine
end

section
/-! SUPPORT. The Lantern path: a transfer whose turn it is. -/

namespace Sys2Proof.Machine

/-- A Lantern transfer of a Spire that has been issued, and whose turn it is. -/
structure LanternTurn (s : State) (sp : Nat) (x : Xfer) (r : Req) : Prop where
  held : (s.spire sp).xfer 4 x.id = some x
  unpushed : x.push = .none
  sent : x.reqs = [r]
  live : x.stopped = false
  oldest : ∀ y ∈ (s.spire sp).unit 4, x.order ≤ y.order

section

variable {s : State} {sp : Fin 16} {x : Xfer} {r : Req} (turn : LanternTurn (s.issueLantern sp.val) sp.val x r) (b : BurstRec)

include turn

theorem LanternTurn.none_before : (((s.issueLantern sp.val).spire sp.val).unit 4).any (fun t =>
    decide (t.order < x.order) && (!t.read || decide (lanternDest t = lanternDest x)) && decide (t.push = .none)) = false := by
  rw [List.any_eq_false]
  intro y hy
  have := turn.oldest y hy
  simp [Nat.not_lt.mpr this]

/-- It comes after an earlier message of its way. -/
theorem LanternTurn.behind (behind : Desc.lmode x.desc = 0 ∧ (s.issueLantern sp.val).lanternAhead sp.val (Desc.lanternSpire x.desc) r.id = true) :
    execLanternComplete sp x.id false [] s b = .next (s.issueLantern sp.val) := by
  unfold execLanternComplete
  simp only [turn.held, turn.unpushed, turn.sent, reduceCtorEq, if_false]
  exact if_pos (.inr behind)

/-- It waits at a frozen Spire, and for its banks. -/
theorem LanternTurn.waits (home : (s.issueLantern sp.val).lanternForeign x = false)
    (held : (s.issueLantern sp.val).lanternMay x = false ∨ (s.issueLantern sp.val).lanternFits sp.val x = false) :
    execLanternComplete sp x.id false [] s b = .next (s.issueLantern sp.val) := by
  unfold execLanternComplete
  simp only [turn.held, turn.unpushed, turn.sent, turn.none_before, turn.live, home, reduceCtorEq, if_false, Bool.false_eq_true, false_or, false_and,
    Bool.not_false, true_and]
  split
  · rfl
  · exact if_pos (by simpa using held)

variable (first : ¬(Desc.lmode x.desc = 0 ∧ (s.issueLantern sp.val).lanternAhead sp.val (Desc.lanternSpire x.desc) r.id = true))
  (goes : (s.issueLantern sp.val).lanternForeign x = true ∨
    (s.issueLantern sp.val).lanternMay x = true ∧ (s.issueLantern sp.val).lanternFits sp.val x = true)

include first goes

/-- It moves its bytes, or does not. -/
theorem LanternTurn.moves {s0 v m : State} {ok : Bool} (enters : (s.issueLantern sp.val).lanternEnter x = some s0)
    (counts : (if Desc.lmode x.desc = 0 then s0 else s0.countBursts (s0.lanternAddr x) b) = v) (move : v.lanternMove sp.val x false = (m, ok)) :
    execLanternComplete sp x.id false [] s b =
      .next (if ok ∧ ((m.spire sp.val).xfer 4 x.id).any (fun y => !y.stopped) then (m.endReq sp.val 4 x.id r.id).completionPush sp.val 4 x
        else m.endReq sp.val 4 x.id r.id) := by
  have go : ¬((!(s.issueLantern sp.val).lanternForeign x) = true ∧
      ((!(s.issueLantern sp.val).lanternMay x) = true ∨ (!(s.issueLantern sp.val).lanternFits sp.val x) = true)) := by
    obtain foreign | ⟨may, fits⟩ := goes
    · simp [foreign]
    · simp [may, fits]
  have unset : v.upset [] = v := rfl
  unfold execLanternComplete
  simp only [turn.held, turn.unpushed, turn.sent, turn.none_before, turn.live, reduceCtorEq, if_false, Bool.false_eq_true, false_or, false_and, if_neg first,
    if_neg go, enters, counts, unset, move]

/-- It has moved its bytes, and leaves. -/
theorem LanternTurn.moved {s0 v m : State} {sram hbm : Bytes} (enters : (s.issueLantern sp.val).lanternEnter x = some s0)
    (counts : (if Desc.lmode x.desc = 0 then s0 else s0.countBursts (s0.lanternAddr x) b) = v) (move : v.lanternMove sp.val x false = (m, true))
    (spires : v.core.spires = (s.issueLantern sp.val).core.spires) (moved : Moved v m sram hbm) (quiet : Quiet s sp.val) (none_ : Desc.cmode x.desc = 0) :
    ∃ t, execLanternComplete sp x.id false [] s b = .next t ∧ t.core.sram = sram ∧ t.core.hbm = hbm ∧
      (t.spire sp.val).unit 4 = (((s.issueLantern sp.val).spire sp.val).unit 4).filter fun y => decide (y.id ≠ x.id) := by
  have through : Moved (s.issueLantern sp.val) m sram hbm := ⟨moved.spires.trans spires, moved.bad, moved.sram, moved.hbm⟩
  have spire : m.spire sp.val = (s.issueLantern sp.val).spire sp.val := by
    rw [State.spire, through.spires]
    rfl
  have live : ((m.spire sp.val).xfer 4 x.id).any (fun y => !y.stopped) = true := by
    rw [spire, turn.held]
    simp [turn.live]
  exact ⟨_, (turn.moves b first goes enters counts move).trans (congrArg _ (if_pos ⟨rfl, live⟩)), lantern_leaves through (quiet.issueLantern sp.val) none_ r.id⟩

end

/-! What stops it. -/

theorem Spire.record_unit (x : Spire) (master reason ctx detail ccyc tick : Nat) (mask : BitVec 6) (u : Nat) :
    (x.record master reason ctx detail ccyc tick mask).unit u = x.unit u := by
  unfold Spire.record
  dsimp only
  split <;> rfl

/-- A freeze of the Lantern path stops what the path holds. -/
theorem Spire.afterFreeze_lantern (x : Spire) (reason ctx detail ccyc tick : Nat) :
    x.afterFreeze 5 reason ctx detail ccyc tick = (x.record 5 reason ctx detail ccyc tick (BitVec.ofNat 6 (2 ^ 5))).stopUnit 4 := rfl

theorem Spire.afterFreeze_lantern_unit (x : Spire) (reason ctx detail ccyc tick : Nat) :
    (x.afterFreeze 5 reason ctx detail ccyc tick).unit 4 = ((x.unit 4).map Xfer.stop).filterMap fun r => r.1 := by
  rw [Spire.afterFreeze_lantern, Spire.stopUnit_unit, Spire.record_unit]

theorem State.countBursts_eq (s : State) (a : Nat) (b : BurstRec) : ∃ x, s.countBursts a b = { s with core := { s.core with hbmStacks := x } } := by
  unfold State.countBursts
  split
  · exact ⟨_, rfl⟩
  · exact ⟨_, rfl⟩

/-- What the bursts of a message with a window count is all that differs before it moves. -/
theorem State.lanternCounts (s : State) (x : Xfer) (b : BurstRec) : ∃ u, (if Desc.lmode x.desc = 0 then s else s.countBursts (s.lanternAddr x) b) =
    { s with core := { s.core with hbmStacks := u } } := by
  by_cases mode : Desc.lmode x.desc = 0
  · exact ⟨s.core.hbmStacks, if_pos mode⟩
  · rw [if_neg mode]
    exact s.countBursts_eq ..

/-- A message to another partition is discarded, and freezes the Lantern path of its Spire. -/
theorem lantern_discarded {s : State} {sp p : Nat} {x : Xfer} (owner : s.owner sp = some p) (calm : (s.part p).reset = .none)
    (thawed : bit1 (s.spire sp).frozen 5 = false) (rid : Nat) :
    let t := ((s.onCore fun c => { c with mesh := { c.mesh with delivery := sat32 c.mesh.delivery 1 } }).freeze sp 5 5 x.index 0).endReq sp 4 x.id rid
    t.core.sram = s.core.sram ∧ t.core.hbm = s.core.hbm ∧ bit1 (t.spire sp).frozen 5 = true ∧
      t.core.mesh.delivery = sat32 s.core.mesh.delivery 1 ∧ ∀ y, (t.spire sp).xfer 4 x.id = some y → y.stopped = true := by
  have sram := State.freeze_core_eq (·.sram) (fun _ => rfl) (s.onCore fun c => { c with mesh := { c.mesh with delivery := sat32 c.mesh.delivery 1 } }) sp 5 5
    x.index 0 0 0xFF
  have hbm := State.freeze_core_eq (·.hbm) (fun _ => rfl) (s.onCore fun c => { c with mesh := { c.mesh with delivery := sat32 c.mesh.delivery 1 } }) sp 5 5
    x.index 0 0 0xFF
  have delivery := State.freeze_core_eq (·.mesh.delivery) (fun _ => rfl)
    (s.onCore fun c => { c with mesh := { c.mesh with delivery := sat32 c.mesh.delivery 1 } }) sp 5 5 x.index 0 0 0xFF
  have spire := State.freeze_spire_live (s := s.onCore fun c => { c with mesh := { c.mesh with delivery := sat32 c.mesh.delivery 1 } }) owner calm thawed
    (by decide) 5 x.index 0 0 0xFF
  generalize (s.onCore fun c => { c with mesh := { c.mesh with delivery := sat32 c.mesh.delivery 1 } }).freeze sp 5 5 x.index 0 = m at *
  obtain ⟨ctls, ended⟩ := m.endReq_eq sp 4 x.id rid
  have own : (m.endReq sp 4 x.id rid).spire sp = (m.spire sp).ended 4 x.id rid := by
    rw [ended, State.spire_onSpire]
    rfl
  have less := (m.spire sp).ended_unitless 4 x.id rid
  have masks : ((m.spire sp).ended 4 x.id rid).frozen = (m.spire sp).frozen := (congrArg Spire.frozen less :)
  dsimp only
  rw [own, masks]
  refine ⟨?_, ?_, ?_, ?_, fun y hy => ?_⟩
  · rw [ended]
    exact sram
  · rw [ended]
    exact hbm
  · rw [spire, Spire.afterFreeze_frozen _ (by decide)]
    exact bit1_master (by decide) _
  · rw [ended]
    exact delivery
  · refine Spire.ended_stopped (fun z hz => ?_) x.id rid y (List.mem_of_find?_eq_some hy)
    rw [spire, Spire.afterFreeze_lantern] at hz
    exact Spire.stopUnit_stopped _ _ hz

/-- A transfer to another partition is discarded, and freezes the path. -/
theorem LanternTurn.foreign {s : State} {sp : Fin 16} {x : Xfer} {r : Req} (turn : LanternTurn (s.issueLantern sp.val) sp.val x r) (b : BurstRec) {p : Nat}
    (first : ¬(Desc.lmode x.desc = 0 ∧ (s.issueLantern sp.val).lanternAhead sp.val (Desc.lanternSpire x.desc) r.id = true))
    (away : (s.issueLantern sp.val).lanternForeign x = true) (owner : s.owner sp.val = some p) (calm : (s.part p).reset = .none)
    (thawed : bit1 ((s.issueLantern sp.val).spire sp.val).frozen 5 = false) :
    ∃ t, execLanternComplete sp x.id false [] s b = .next t ∧ SameSram s t ∧ SameHbm s t ∧ bit1 (t.spire sp.val).frozen 5 = true ∧
      t.core.mesh.delivery = sat32 s.core.mesh.delivery 1 ∧ ∀ y, (t.spire sp.val).xfer 4 x.id = some y → y.stopped = true := by
  have less := s.issueLantern_unissued sp.val
  have lane : Desc.lmode x.desc ≠ 1 := by
    rintro e
    simp [State.lanternForeign, e] at away
  have enters : (s.issueLantern sp.val).lanternEnter x = some (s.issueLantern sp.val) := if_neg lane
  obtain ⟨u, counts⟩ := (s.issueLantern sp.val).lanternCounts x b
  have ran := turn.moves b first (.inl away) enters counts
    (State.lanternMove_foreign (s := { s.issueLantern sp.val with core := { (s.issueLantern sp.val).core with hbmStacks := u } }) away false)
  have owner' : (s.issueLantern sp.val).owner sp.val = some p := (State.eq_of_unissued (·.owner sp.val) (fun _ => rfl) less).trans owner
  have calm' : ((s.issueLantern sp.val).part p).reset = .none := (State.eq_of_unissued (fun a => (a.part p).reset) (fun _ => rfl) less).trans calm
  obtain ⟨sram, hbm, frozen, delivery, stopped⟩ := lantern_discarded
    (s := { s.issueLantern sp.val with core := { (s.issueLantern sp.val).core with hbmStacks := u } }) (x := x) owner' calm' thawed r.id
  have sram' : (s.issueLantern sp.val).core.sram = s.core.sram := State.eq_of_unissued (·.core.sram) (fun _ => rfl) less
  have hbm' : (s.issueLantern sp.val).core.hbm = s.core.hbm := State.eq_of_unissued (·.core.hbm) (fun _ => rfl) less
  have mesh : (s.issueLantern sp.val).core.mesh = s.core.mesh := State.eq_of_unissued (·.core.mesh) (fun _ => rfl) less
  refine ⟨_, ran.trans (congrArg _ (if_neg fun h => nomatch h.1)), fun tile a => ?_, fun a => ?_, frozen, ?_, stopped⟩
  · rw [State.sramByte, State.sramByte, sram]
    exact congrArg (Tbl.get 0#8 (sramKey tile a)) sram'
  · rw [State.hbmByte, State.hbmByte, hbm]
    exact congrArg (Tbl.get 0#8 a) hbm'
  · rw [delivery]
    exact congrArg (fun k => sat32 k.delivery 1) mesh

/-- A transfer that its window refuses is not issued, and freezes the path. -/
theorem lantern_refused {s : State} {sp : Fin 16} {x : Xfer} {p : Nat} (owner : s.owner sp.val = some p) (calm : (s.part p).reset = .none)
    (held : (s.spire sp.val).unit 4 = [x]) (read : x.read = true) (live : x.stopped = false) (unissued : x.issued = 0) (ready : x.readyAt ≤ s.countOf sp.val)
    (drains : Desc.drain x.desc = true → (s.spire sp.val).drained x.order = true) (thawed : bit1 (s.spire sp.val).frozen 5 = false)
    (refused : s.lanternPasses x = false) (bad : Bool) (ups : List Upset) (b : BurstRec) :
    ∃ t, execLanternComplete sp x.id bad ups s b = .next t ∧ SameSram s t ∧ SameHbm s t ∧ (t.spire sp.val).unit 4 = [] ∧
      bit1 (t.spire sp.val).frozen 5 = true := by
  have turn : (!Desc.drain x.desc || (s.spire sp.val).drained x.order) = true := by
    cases hd : Desc.drain x.desc with
    | false => rfl
    | true => rw [drains hd]; rfl
  have issue : s.issueLantern sp.val = s.windowViolation sp.val 4 x (Desc.farBase x.desc + Desc.csFarTerm x.desc x.sel) := by
    unfold State.issueLantern
    simp only [held, List.filter_cons, List.filter_nil, read, live, unissued, ready, thawed, turn, refused, Bool.not_false, decide_true, Bool.and_self, if_true,
      List.foldl_cons, List.foldl_nil, Bool.false_eq_true, if_false]
  have less := s.issueLantern_unissued sp.val
  have spire : (s.issueLantern sp.val).spire sp.val = (s.spire sp.val).afterFreeze 5 1 0 x.index (s.part p).ccyc s.tickWord := by
    rw [issue]
    exact State.freeze_spire_live owner calm thawed (by decide) ..
  have stop : x.stop.1 = none := by
    rw [Xfer.stop, live, unissued]
    rfl
  have empty : ((s.issueLantern sp.val).spire sp.val).unit 4 = [] := by
    rw [spire, Spire.afterFreeze_lantern_unit, held]
    simp [stop]
  have gone : ((s.issueLantern sp.val).spire sp.val).xfer 4 x.id = none := by
    rw [Spire.xfer, empty]
    rfl
  refine ⟨s.issueLantern sp.val, ?_, fun tile a => State.eq_of_unissued (·.sramByte tile a) (fun _ => rfl) less,
    fun a => State.eq_of_unissued (·.hbmByte a) (fun _ => rfl) less, empty, ?_⟩
  · unfold execLanternComplete
    simp only [gone]
  · rw [spire, Spire.afterFreeze_frozen _ (by decide)]
    exact bit1_master (by decide) _

end Sys2Proof.Machine
end

section
/-! SUPPORT. Remote pushes and Lantern transfers. -/

namespace Sys2Proof.Machine

/-! A Lantern transfer, in terms of the state that it is given in. -/

section

variable {s : State} {sp : Nat} {x : Xfer}

theorem lanternForeign_iff : (s.issueLantern sp).lanternForeign x = true ↔ Desc.lmode x.desc ≠ 1 ∧ s.owner (Desc.lanternSpire x.desc) ≠ some x.part := by
  rw [State.eq_of_unissued (·.lanternForeign x) (fun _ => rfl) (s.issueLantern_unissued sp)]
  simp [State.lanternForeign]

theorem lanternHome_iff : (s.issueLantern sp).lanternForeign x = false ↔ ¬(Desc.lmode x.desc ≠ 1 ∧ s.owner (Desc.lanternSpire x.desc) ≠ some x.part) := by
  rw [← lanternForeign_iff (sp := sp), Bool.not_eq_true]

/-- A message to tiles may arrive, unless their Spire is frozen, and in no reset. -/
theorem lanternMay_iff (mode : Desc.lmode x.desc ≠ 1) : (s.issueLantern sp).lanternMay x = true ↔
    ¬(s.seqFrozen (Desc.lanternSpire x.desc) = true ∧ (s.part x.part).reset = .none) := by
  have part : (s.issueLantern sp).part x.part = s.part x.part := State.eq_of_unissued (·.part x.part) (fun _ => rfl) (s.issueLantern_unissued sp)
  rw [State.lanternMay, if_neg mode, State.issueLantern_seq, part]
  cases s.seqFrozen (Desc.lanternSpire x.desc) <;> simp

theorem lanternMay_window (mode : Desc.lmode x.desc = 1) (hbm : s.core.hbmMode = .running) : (s.issueLantern sp).lanternMay x = true := by
  have same : (s.issueLantern sp).core.hbmMode = s.core.hbmMode := State.eq_of_unissued (·.core.hbmMode) (fun _ => rfl) (s.issueLantern_unissued sp)
  rw [State.lanternMay, if_pos mode, same, hbm]
  rfl

theorem lanternSource_of (mode : Desc.lmode x.desc ≠ 2) :
    lanternSource sp x = (tileOf sp (le x.desc 0x51 1), le x.desc 0x54 4 + fld x.handle 19 0 * Desc.hstride x.desc) := by
  rw [lanternSource, if_neg mode]

theorem lanternTarget_of (mode : Desc.lmode x.desc ≠ 2) : lanternTarget x = (tileOf (Desc.lanternSpire x.desc) (le x.desc 0x53 1), le x.desc 0x58 4) := by
  rw [lanternTarget, if_neg mode, Nat.add_zero]

theorem lanternTarget_read (mode : Desc.lmode x.desc = 2) : lanternTarget x =
    (tileOf (Desc.lanternSpire x.desc) (le x.desc 0x53 1), le x.desc 0x58 4 + fld x.handle 19 0 * Desc.hstride x.desc) := by
  rw [lanternTarget, if_pos mode]

/-- The bytes that a message from a tile takes with it. -/
def lanternBytes (s : State) (sp : Nat) (x : Xfer) : List Byte :=
  s.readBefore (s.countOf sp + 1) (tileOf sp (le x.desc 0x51 1)) (le x.desc 0x54 4 + fld x.handle 19 0 * Desc.hstride x.desc) (Desc.lanternLen x.desc)

theorem State.enterWrite_room {s : State} {a : Nat} (room : (s.ctl (pseudoOf a)).writes < 64) :
    ∃ u, s.enterWrite a = some { s with core := { s.core with ctls := u } } := ⟨_, if_pos room⟩

end

section

variable {s : State} {sp : Fin 16} {x : Xfer} {r : Req} (turn : LanternTurn (s.issueLantern sp.val) sp.val x r) (b : BurstRec) (hb : s.core.hbmBad = [])
  (quiet : Quiet s sp.val) (none_ : Desc.cmode x.desc = 0) (fits : (s.issueLantern sp.val).lanternFits sp.val x = true)

include turn hb quiet none_ fits

/-- From tile to tile. -/
theorem LanternTurn.tiles (ce : s.core.sramCe = []) (ue : s.core.sramUe = []) (mode : Desc.lmode x.desc = 0)
    (thawed : ¬(s.seqFrozen (Desc.lanternSpire x.desc) = true ∧ (s.part x.part).reset = .none))
    (home : ¬(Desc.lmode x.desc ≠ 1 ∧ s.owner (Desc.lanternSpire x.desc) ≠ some x.part))
    (first : ¬(Desc.lmode x.desc = 0 ∧ (s.issueLantern sp.val).lanternAhead sp.val (Desc.lanternSpire x.desc) r.id = true)) :
    ∃ t, execLanternComplete sp x.id false [] s b = .next t ∧
      t.core.sram = putSram s.core.sram (tileOf (Desc.lanternSpire x.desc) (le x.desc 0x53 1)) (le x.desc 0x58 4) (lanternBytes s sp.val x) ∧
      t.core.hbm = s.core.hbm ∧
      (t.spire sp.val).unit 4 = (((s.issueLantern sp.val).spire sp.val).unit 4).filter fun y => decide (y.id ≠ x.id) := by
  have less := s.issueLantern_unissued sp.val
  have lane : Desc.lmode x.desc ≠ 1 := by omega
  have bad : (s.issueLantern sp.val).core.hbmBad = [] := (State.eq_of_unissued (·.core.hbmBad) (fun _ => rfl) less).trans hb
  have ce' : (s.issueLantern sp.val).core.sramCe = [] := (State.eq_of_unissued (·.core.sramCe) (fun _ => rfl) less).trans ce
  have ue' : (s.issueLantern sp.val).core.sramUe = [] := (State.eq_of_unissued (·.core.sramUe) (fun _ => rfl) less).trans ue
  obtain ⟨m, move, moved⟩ := State.lanternMove_tiles (sp := sp.val) bad ce' ue' (lanternHome_iff.mpr home) mode false
  obtain ⟨t, run, sram, hbm, unit⟩ := turn.moved b first (.inr ⟨(lanternMay_iff lane).mpr thawed, fits⟩) (if_neg lane) (if_pos mode) move rfl moved quiet none_
  refine ⟨t, run, ?_, hbm.trans (State.eq_of_unissued (·.core.hbm) (fun _ => rfl) less), unit⟩
  rw [sram, lanternSource_of (by omega), lanternTarget_of (by omega)]
  exact State.eq_of_unissued (fun a => putSram a.core.sram (tileOf (Desc.lanternSpire x.desc) (le x.desc 0x53 1)) (le x.desc 0x58 4) (lanternBytes a sp.val x))
    (fun _ => rfl) less

/-- From a tile to a window. -/
theorem LanternTurn.writes (ce : s.core.sramCe = []) (ue : s.core.sramUe = []) (mode : Desc.lmode x.desc = 1) (running : s.core.hbmMode = .running)
    (room : (s.ctl (pseudoOf (s.lanternAddr x))).writes < 64)
    (passes : windowPasses (s.cfg.window x.part (Desc.window x.desc)) true (lanternOff x : Nat) (Desc.lanternLen x.desc) = true) :
    ∃ t, execLanternComplete sp x.id false [] s b = .next t ∧ t.core.sram = s.core.sram ∧
      t.core.hbm = putHbm s.core.hbm (s.lanternAddr x) (lanternBytes s sp.val x) ∧
      (t.spire sp.val).unit 4 = (((s.issueLantern sp.val).spire sp.val).unit 4).filter fun y => decide (y.id ≠ x.id) := by
  have less := s.issueLantern_unissued sp.val
  have bad : (s.issueLantern sp.val).core.hbmBad = [] := (State.eq_of_unissued (·.core.hbmBad) (fun _ => rfl) less).trans hb
  have ce' : (s.issueLantern sp.val).core.sramCe = [] := (State.eq_of_unissued (·.core.sramCe) (fun _ => rfl) less).trans ce
  have ue' : (s.issueLantern sp.val).core.sramUe = [] := (State.eq_of_unissued (·.core.sramUe) (fun _ => rfl) less).trans ue
  have addr : (s.issueLantern sp.val).lanternAddr x = s.lanternAddr x := State.eq_of_unissued (·.lanternAddr x) (fun _ => rfl) less
  have cfg : (s.issueLantern sp.val).cfg = s.cfg := State.eq_of_unissued (·.cfg) (fun _ => rfl) less
  have room' : ((s.issueLantern sp.val).ctl (pseudoOf ((s.issueLantern sp.val).lanternAddr x))).writes < 64 := by
    rw [addr, State.eq_of_unissued (·.ctl (pseudoOf (s.lanternAddr x))) (fun _ => rfl) less]
    exact room
  obtain ⟨u, entered⟩ := State.enterWrite_room room'
  have enters : (s.issueLantern sp.val).lanternEnter x = some _ := (if_pos mode).trans entered
  obtain ⟨v, counts⟩ := State.lanternCounts { s.issueLantern sp.val with core := { (s.issueLantern sp.val).core with ctls := u } } x b
  obtain ⟨m, move, moved⟩ := State.lanternMove_write (sp := sp.val)
    (s := { s.issueLantern sp.val with core := { (s.issueLantern sp.val).core with ctls := u, hbmStacks := v } }) bad ce' ue' mode (by rw [← cfg] at passes; exact passes)
  obtain ⟨t, run, sram, hbm, unit⟩ := turn.moved b (fun h => by omega) (.inr ⟨lanternMay_window mode running, fits⟩) enters counts move rfl moved quiet none_
  have kept : (s.issueLantern sp.val).core.sram = s.core.sram := State.eq_of_unissued (·.core.sram) (fun _ => rfl) less
  have put := State.eq_of_unissued (fun a => putHbm a.core.hbm (a.lanternAddr x) (lanternBytes a sp.val x)) (fun _ => rfl) less
  refine ⟨t, run, sram.trans kept, ?_, unit⟩
  rw [hbm, lanternSource_of (by omega)]
  exact put

/-- From a window to a tile. -/
theorem LanternTurn.reads (mode : Desc.lmode x.desc = 2)
    (thawed : ¬(s.seqFrozen (Desc.lanternSpire x.desc) = true ∧ (s.part x.part).reset = .none))
    (home : ¬(Desc.lmode x.desc ≠ 1 ∧ s.owner (Desc.lanternSpire x.desc) ≠ some x.part))
    (passes : windowPasses (s.cfg.window x.part (Desc.window x.desc)) false (lanternOff x : Nat) (Desc.lanternLen x.desc) = true) :
    ∃ t, execLanternComplete sp x.id false [] s b = .next t ∧
      t.core.sram = putSram s.core.sram (tileOf (Desc.lanternSpire x.desc) (le x.desc 0x53 1)) (le x.desc 0x58 4 + fld x.handle 19 0 * Desc.hstride x.desc)
        (s.hbmRead (s.lanternAddr x) (Desc.lanternLen x.desc)) ∧
      t.core.hbm = s.core.hbm ∧
      (t.spire sp.val).unit 4 = (((s.issueLantern sp.val).spire sp.val).unit 4).filter fun y => decide (y.id ≠ x.id) := by
  have less := s.issueLantern_unissued sp.val
  have lane : Desc.lmode x.desc ≠ 1 := by omega
  have bad : (s.issueLantern sp.val).core.hbmBad = [] := (State.eq_of_unissued (·.core.hbmBad) (fun _ => rfl) less).trans hb
  have cfg : (s.issueLantern sp.val).cfg = s.cfg := State.eq_of_unissued (·.cfg) (fun _ => rfl) less
  obtain ⟨v, counts⟩ := State.lanternCounts (s.issueLantern sp.val) x b
  obtain ⟨m, move, moved⟩ := State.lanternMove_read (sp := sp.val)
    (s := { s.issueLantern sp.val with core := { (s.issueLantern sp.val).core with hbmStacks := v } }) bad (lanternHome_iff.mpr home) mode
    (by rw [← cfg] at passes; exact passes)
  obtain ⟨t, run, sram, hbm, unit⟩ := turn.moved b (fun h => by omega) (.inr ⟨(lanternMay_iff lane).mpr thawed, fits⟩) (if_neg lane) counts move rfl moved quiet none_
  have kept : (s.issueLantern sp.val).core.hbm = s.core.hbm := State.eq_of_unissued (·.core.hbm) (fun _ => rfl) less
  have put := State.eq_of_unissued (fun a => putSram a.core.sram (tileOf (Desc.lanternSpire x.desc) (le x.desc 0x53 1))
    (le x.desc 0x58 4 + fld x.handle 19 0 * Desc.hstride x.desc) (a.hbmRead (a.lanternAddr x) (Desc.lanternLen x.desc))) (fun _ => rfl) less
  refine ⟨t, run, ?_, hbm.trans kept, unit⟩
  rw [sram, lanternTarget_read mode]
  exact put

end

end Sys2Proof.Machine
end

section
/-! SUPPORT. Remote pushes and Lantern transfers, settled. -/

namespace Sys2Proof.Machine

theorem SameSram.of_eq {s t : State} (h : t.core.sram = s.core.sram) : SameSram s t := fun tile a => by
  rw [State.sramByte, State.sramByte, h]

theorem SameHbm.of_eq {s t : State} (h : t.core.hbm = s.core.hbm) : SameHbm s t := fun a => by
  rw [State.hbmByte, State.hbmByte, h]

theorem PushFrame.all {s t : State} (h : PushFrame s t) : SameSram s t ∧ SameHbm s t ∧ { t with core := s.core } = s := ⟨h.sram, h.hbm, h.outside⟩

/-! Arrivals at a Spire of the push's own partition. -/

section

variable {s : State} {w : RemotePush} (found : s.core.pushes.find? (fun v => decide (v.id = w.id)) = some w) (flying : w.phase = .flying)
  (first : s.lanternAhead w.src w.dst w.id = false) (own : s.owner w.dst = some w.part)

/-- The pushes, with one of them taken. -/
def State.pushesTaken (s : State) (id : Nat) : List RemotePush :=
  s.core.pushes.map fun v => if v.id = id then { v with phase := .taken, ack := s.core.nextId } else v

theorem State.pushLocal_unused {s : State} {sp q : Nat} {h : W32} (fresh : s.staleFor sp q h = false) (unused : s.unusedQueue sp q = true) (n : Nat) :
    s.pushLocal sp q h n = some s := by
  simp [State.pushLocal, fresh, unused]

theorem State.pushLocal_stale {s : State} {sp q : Nat} {h : W32} (stale : s.staleFor sp q h = true) (n : Nat) :
    s.pushLocal sp q h n = some (s.onSpire sp fun x => { x with ctr := { x.ctr with staleHandle := sat32 x.ctr.staleHandle 1 } }) := by
  simp [State.pushLocal, stale, State.onCtr]

theorem State.pushLocal_full {s : State} {sp q : Nat} {h : W32} (fresh : s.staleFor sp q h = false) (used : s.unusedQueue sp q = false)
    (full : s.seqFrozen sp = true ∨ 32 ≤ ((s.spire sp).queue q).length) (n : Nat) : s.pushLocal sp q h n = none := by
  obtain frozen | full := full
  · simp [State.pushLocal, fresh, used, frozen]
  · simp [State.pushLocal, fresh, used, Nat.not_lt.mpr full]

theorem OnlySpire.refl (s : State) (sp : Nat) : OnlySpire s s sp := ⟨rfl, rfl, fun _ _ => rfl⟩

include found flying first own

theorem pushArrive_queued (hb : s.core.hbmBad = []) (quiet : Quiet s w.dst) (fresh : s.staleFor w.dst w.queue w.handle = false)
    (used : s.unusedQueue w.dst w.queue = false) (live : s.seqFrozen w.dst = false) (room : ((s.spire w.dst).queue w.queue).length < 32) :
    ∃ t, execRemotePushArrive w.id s = .next t ∧
      (t.spire w.dst).queue w.queue = (s.spire w.dst).queue w.queue ++ [⟨w.handle, s.countOf w.dst⟩] ∧
      t.core.pushes = s.pushesTaken w.id ∧ PushFrame s t ∧ ∀ i, i ≠ w.dst → t.spire i = s.spire i := by
  have accepted := (State.pushLocal_eq used live w.handle (s.countOf w.dst)).trans (if_pos (.inr room))
  rw [fresh] at accepted
  have become : (s.onSpire w.dst fun x => x.pushed false w.queue w.handle (s.countOf w.dst)).spire w.dst = _ := State.spire_onSpire ..
  obtain ⟨t, run, pushes, frame, others, buffered⟩ := pushArrive_taken found flying first own accepted (OnlySpire.setSpire ..)
    (quiet.of_ctxs fun k _ => by rw [become]; rfl) hb
  refine ⟨t, run, ?_, pushes, frame, others⟩
  rw [Spire.eq_of_unbuffered (·.queue w.queue) (fun _ => rfl) buffered, become]
  exact (s.spire w.dst).withQueue_queue ..

theorem pushArrive_unused (hb : s.core.hbmBad = []) (quiet : Quiet s w.dst) (fresh : s.staleFor w.dst w.queue w.handle = false)
    (unused : s.unusedQueue w.dst w.queue = true) : ∃ t, execRemotePushArrive w.id s = .next t ∧
      t.core.pushes = s.pushesTaken w.id ∧ PushFrame s t ∧ ∀ i q, (t.spire i).queue q = (s.spire i).queue q := by
  obtain ⟨t, run, pushes, frame, others, buffered⟩ := pushArrive_taken found flying first own (State.pushLocal_unused fresh unused _) (OnlySpire.refl ..) quiet hb
  refine ⟨t, run, pushes, frame, fun i q => ?_⟩
  by_cases hi : i = w.dst
  · rw [hi]
    exact Spire.eq_of_unbuffered (·.queue q) (fun _ => rfl) buffered
  · rw [others i hi]

theorem pushArrive_stale (hb : s.core.hbmBad = []) (quiet : Quiet s w.dst) (stale : s.staleFor w.dst w.queue w.handle = true) :
    ∃ t, execRemotePushArrive w.id s = .next t ∧ t.core.pushes = s.pushesTaken w.id ∧ PushFrame s t ∧
      (∀ q, (t.spire w.dst).queue q = (s.spire w.dst).queue q) ∧ (t.spire w.dst).ctr.staleHandle = sat32 (s.spire w.dst).ctr.staleHandle 1 := by
  have become : (s.onSpire w.dst fun x => { x with ctr := { x.ctr with staleHandle := sat32 x.ctr.staleHandle 1 } }).spire w.dst = _ := State.spire_onSpire ..
  obtain ⟨t, run, pushes, frame, -, buffered⟩ := pushArrive_taken found flying first own (State.pushLocal_stale stale _) (OnlySpire.setSpire ..)
    (quiet.of_ctxs fun k _ => by rw [become]; rfl) hb
  refine ⟨t, run, pushes, frame, fun q => ?_, ?_⟩
  · rw [Spire.eq_of_unbuffered (·.queue q) (fun _ => rfl) buffered, become]
    rfl
  · rw [Spire.eq_of_unbuffered (·.ctr.staleHandle) (fun _ => rfl) buffered, become]

end

/-! Acknowledgements of an HQ_PUT. -/

section

variable {s : State} {w : RemotePush} (found : s.core.pushes.find? (fun v => decide (v.id = w.id)) = some w) (taken : w.phase = .taken)
  (first : s.ackAhead w = false) (hb : s.core.hbmBad = []) (live : s.seqFrozen w.src = false) {c : Nat}
  (still : ∀ k, k < 8 → k ≠ c → ((s.spire w.src).ctx k).backlog = [] ∧ ((s.spire w.src).ctx k).queue = [])

include found taken first hb live still

theorem pushAck_fetch_passes {q : StreamCmd} (origin : w.origin = .fetch c) (waits : ((s.spire w.src).ctx c).pushF = some w.id)
    (backlog : ((s.spire w.src).ctx c).backlog = [q]) (queue : ((s.spire w.src).ctx c).queue = []) :
    ∃ t, execRemotePushAcknowledgement w.id s = .next t ∧ ((t.spire w.src).ctx c).pushF = none ∧
      ((t.spire w.src).ctx c).pc = ((s.spire w.src).ctx c).pc + 16 ∧ ((t.spire w.src).ctx c).backlog = [] ∧
      t.core.pushes = s.core.pushes.filter (fun v => decide (v.id ≠ w.id)) ∧ PushFrame s t := by
  have idle : Quiet ((s.pushGone w.id).setSpire w.src ((s.spire w.src).putPassed c (s.countOf w.src))) w.src :=
    Quiet.setSpire (Spire.onCtx_idle ⟨by rw [backlog]; rfl, queue⟩ still)
  obtain ⟨pushes, frame, ctx⟩ := pushGone_goes hb idle
  refine ⟨_, pushAck_fetch found taken first origin waits live, ?_, ?_, ?_, pushes, frame⟩ <;> rw [ctx, Spire.putPassed, Spire.ctx_onCtx]
  rw [backlog]
  rfl

theorem pushAck_execute_passes {q : QEntry} (origin : w.origin = .execute c) (waits : ((s.spire w.src).ctx c).pushE = some w.id)
    (backlog : ((s.spire w.src).ctx c).backlog = []) (queue : ((s.spire w.src).ctx c).queue = [q]) :
    ∃ t, execRemotePushAcknowledgement w.id s = .next t ∧ ((t.spire w.src).ctx c).pushE = none ∧ ((t.spire w.src).ctx c).queue = [] ∧
      t.core.pushes = s.core.pushes.filter (fun v => decide (v.id ≠ w.id)) ∧ PushFrame s t := by
  have passed : (((s.spire w.src).ctx c).pass (s.planOf w.src).pod (s.countOf w.src) (s.countOf w.src)).queue = [] := by
    rw [Ctx.pass, queue]
    rfl
  have idle := Quiet.setSpire (s := s.pushGone w.id) (sp := w.src) (Spire.onCtx_idle (f := fun k => k.pass (s.planOf w.src).pod (s.countOf w.src) (s.countOf w.src))
    ⟨backlog, passed⟩ still)
  obtain ⟨pushes, frame, ctx⟩ := pushGone_goes hb idle
  refine ⟨_, pushAck_execute found taken first origin waits live, ?_, ?_, pushes, frame⟩
  · rw [ctx, Spire.ctx_onCtx]
    rfl
  · rw [ctx, Spire.ctx_onCtx]
    exact passed

end

/-- Settles O22: a push moves in three steps, and a Lantern transfer in one; what waits or is refused moves nothing. -/
theorem pushesAndLanternComplete : Obligations.PushesAndLanternComplete := by
  intro s hb
  refine ⟨fun w found => ⟨fun _ behind => pushArrive_behind found behind, fun flying first => ⟨fun own quiet => ⟨fun fresh unused => ?_, fun fresh used live room => ?_,
    fun fresh used full => ?_, fun stale => ?_⟩, fun p foreign owner calm known => ?_⟩, fun _ behind => pushAck_behind found behind, fun taken first =>
    ⟨fun c q origin live _ waits backlog queue still => ?_, fun c q origin live _ waits backlog queue still => ?_, fun u xid origin quiet => ?_, fun idle => ?_⟩⟩,
    fun sp x r p b owner quiet ce ue held unpushed sent live oldest none_ => ?_, fun sp x p bad ups b owner calm held read live unissued ready _ drains thawed refused => ?_⟩
  · obtain ⟨t, run, pushes, frame, queues⟩ := pushArrive_unused found flying first own hb quiet fresh unused
    exact ⟨t, run, pushes, frame.all, queues⟩
  · obtain ⟨t, run, queue, pushes, frame, others⟩ := pushArrive_queued found flying first own hb quiet fresh used live room
    exact ⟨t, run, queue, pushes, frame.all, others⟩
  · obtain ⟨t, run, pushes, frame, spires⟩ := pushArrive_waits found flying first own (State.pushLocal_full fresh used full _)
    exact ⟨t, run, pushes, frame.all, spires⟩
  · obtain ⟨t, run, pushes, frame, queues, counted⟩ := pushArrive_stale found flying first own hb quiet stale
    exact ⟨t, run, pushes, frame.all, queues, counted⟩
  · exact pushArrive_foreign found flying first foreign owner calm known
  · obtain ⟨t, run, push, pc, left, pushes, frame⟩ := pushAck_fetch_passes found taken first hb live still origin waits backlog queue
    exact ⟨t, run, push, pc, left, pushes, frame.all⟩
  · obtain ⟨t, run, push, left, pushes, frame⟩ := pushAck_execute_passes found taken first hb live still origin waits backlog queue
    exact ⟨t, run, push, left, pushes, frame.all⟩
  · exact ⟨_, pushAck_transfer found taken first origin, transferGone_goes hb quiet⟩
  · exact ⟨_, pushAck_idle found taken first idle, ⟨fun _ _ => rfl, fun _ => rfl, rfl⟩, rfl, rfl⟩
  · have turn : LanternTurn (s.issueLantern sp.val) sp.val x r := ⟨held, unpushed, sent, live, oldest⟩
    refine ⟨fun behind => turn.behind b behind, fun mode frozen home => ?_, fun home crowded => turn.waits b (lanternHome_iff.mpr home) (.inr crowded),
      fun foreign first calm thawed => turn.foreign b first (lanternForeign_iff.mpr foreign) owner calm thawed, fun mode thawed home first fits => ?_,
      fun mode running room passes fits => ?_, fun mode thawed home passes fits => ?_⟩
    · exact turn.waits b (lanternHome_iff.mpr home) (.inl (Bool.eq_false_iff.mpr fun may => (lanternMay_iff mode).mp may frozen))
    · obtain ⟨t, run, sram, hbm, left⟩ := turn.tiles b hb quiet none_ fits ce ue mode thawed home first
      exact ⟨t, run, .of_eq hbm, left, sram⟩
    · obtain ⟨t, run, sram, hbm, left⟩ := turn.writes b hb quiet none_ fits ce ue mode running room passes
      exact ⟨t, run, .of_eq sram, left, hbm⟩
    · obtain ⟨t, run, sram, hbm, left⟩ := turn.reads b hb quiet none_ fits mode thawed home passes
      exact ⟨t, run, .of_eq hbm, left, sram⟩
  · exact lantern_refused owner calm held read live unissued ready drains thawed refused bad ups b

end Sys2Proof.Machine
end

section
/-! SUPPORT. DMA engines: the transfers of a Spire, and the read of a descriptor. -/

namespace Sys2Proof.Machine

/-! The transfers of a Spire. -/

/-- A transfer that changes is found as what it has become. -/
theorem Spire.xfer_onXfer {y : Spire} {u id : Nat} {x : Xfer} (held : y.xfer u id = some x) {f : Xfer → Xfer} (same : ∀ t : Xfer, t.id = id → (f t).id = id) :
    (y.onXfer u id f).xfer u id = some (f x) := by
  have found : x.id = id := by simpa using List.find?_some held
  have kept : ((fun t : Xfer => decide (t.id = id)) ∘ fun t : Xfer => if t.id = id then f t else t) = fun t => decide (t.id = id) := by
    funext t
    dsimp only [Function.comp_apply]
    by_cases h : t.id = id
    · rw [if_pos h, same t h, h]
    · rw [if_neg h]
  rw [Spire.xfer, Spire.onXfer_unit, List.find?_map, kept, ← Spire.xfer, held]
  exact congrArg some (if_pos found)

/-- A transfer that changes, as its state finds it. -/
theorem State.xfer_onXfer {s : State} {sp u id : Nat} {x : Xfer} (held : (s.spire sp).xfer u id = some x) {f : Xfer → Xfer}
    (same : ∀ t : Xfer, t.id = id → (f t).id = id) : ((s.onSpire sp fun y => y.onXfer u id f).spire sp).xfer u id = some (f x) := by
  rw [State.spire_onSpire]
  exact Spire.xfer_onXfer held same

/-- What stays of a stopped transfer has its number and its requests. -/
theorem Xfer.stop_kept {x y : Xfer} (h : x.stop.1 = some y) : y.id = x.id ∧ y.reqs = x.reqs := by
  unfold Xfer.stop at h
  split at h
  · cases h
    exact ⟨rfl, rfl⟩
  · dsimp only at h
    split at h
    · exact nomatch h
    · split at h
      · exact nomatch h
      · cases h
        exact ⟨rfl, rfl⟩

/-- A freeze of an engine keeps no transfer in it but those that were there, with their requests. -/
theorem State.freeze_engine_reqs {s : State} {sp u reason detail addr ctx window : Nat} {y : Xfer}
    (hy : y ∈ ((s.freeze sp (u + 1) reason detail addr ctx window).spire sp).unit u) : ∃ z ∈ (s.spire sp).unit u, y.id = z.id ∧ y.reqs = z.reqs := by
  obtain e | ⟨n, e⟩ := s.freeze_spire sp (u + 1) reason detail addr ctx window
  · rw [e] at hy
    exact ⟨y, hy, rfl, rfl⟩
  · have stopped : (Spire.unit { (s.spire sp).afterFreeze (u + 1) reason ctx detail (s.countOf sp) s.tickWord with seqFrozenAt := n } u) =
        (((s.spire sp).unit u).map Xfer.stop).filterMap fun r => r.1 := by
      show (((s.spire sp).record (u + 1) reason ctx detail (s.countOf sp) s.tickWord (BitVec.ofNat 6 (2 ^ (u + 1)))).stopUnit u).unit u = _
      rw [Spire.stopUnit_unit, Spire.record_unit]
    rw [e, stopped, List.mem_filterMap] at hy
    obtain ⟨_, hr, kept⟩ := hy
    obtain ⟨z, hz, rfl⟩ := List.mem_map.mp hr
    exact ⟨z, hz, Xfer.stop_kept kept⟩

/-! Reads of the Cupolas. -/

/-- A line that a Cupola does not hold is not held after an error of it is met. -/
theorem Cupola.meets_fresh {c : Cupola} {line : Nat} (fresh : c.holds line = false) (e : CupolaErr) : (c.meets line e).holds line = false := by
  cases e with
  | none => exact fresh
  | corrected => exact (congrArg (Cupola.holds · line) (if_neg (Bool.eq_false_iff.mp fresh))).trans fresh
  | line => exact (congrArg (Cupola.holds · line) (if_neg (Bool.eq_false_iff.mp fresh))).trans fresh
  | tag => exact congrArg (fun k : CupolaSet => (k.wayOf line).isSome) (Tbl.get_put_same ..)

theorem Cupola.look_fresh {c : Cupola} {line : Nat} (fresh : c.holds line = false) : (c.look line).holds line = false :=
  List.foldlRecOn (motive := fun a : Cupola => a.holds line = false) _ _ fresh fun _ h e _ => Cupola.meets_fresh h e.2

/-- A read of the Belfry region fails on the first uncorrectable burst of its first line, where no Cupola holds the line. -/
theorem State.belfryRead_bad {s : State} {h a b : Nat} (fresh : (s.cupola h).holds (a / 256) = false) (bad : s.badBurst (a / 256 * 256) 256 = some b) (n : Nat) :
    (s.belfryRead h a n).1 = some b := by
  have first : linesOf a n = a / 256 :: (List.range ((a + n - 1) / 256 - a / 256)).map fun i => i + 1 + a / 256 := by
    rw [linesOf, List.range_succ_eq_map, List.map_cons, List.map_map, Nat.zero_add]
    rfl
  unfold State.belfryRead
  rw [first, List.foldl_cons]
  simp only [Cupola.look_fresh fresh, Bool.false_eq_true, if_false, bad]
  refine List.foldlRecOn (motive := fun acc : Option Nat × State => acc.1 = some b) _ _ rfl fun acc failed line _ => ?_
  rw [failed]
  exact failed

/-- A burst that has turned uncorrectable is the one that a read of its line meets. -/
theorem State.badBurst_spoiled {s : State} (hb : s.core.hbmBad = []) (a : Nat) :
    (s.hbmSpoil (some a)).badBurst (a / 256 * 256) 256 = some (a / 32 * 32) := by
  have alone : (s.hbmSpoil (some a)).core.hbmBad = [a / 32] := by
    show a / 32 :: s.core.hbmBad.filter _ = _
    rw [hb, List.filter_nil]
  have low : a / 32 * 32 < a / 256 * 256 + 256 := by omega
  have high : a / 256 * 256 < a / 32 * 32 + 32 := by omega
  rw [State.badBurst, State.badIn, alone, List.filter_cons_of_pos (by simp only [low, high, decide_true, Bool.and_self])]
  rfl

theorem State.cupolaMeets_cacheless (s : State) (h line : Nat) (e : CupolaErr) : (s.cupolaMeets h line e).cacheless = s.cacheless := by
  unfold State.cupolaMeets
  split <;> rfl

theorem State.cupolaMeets_spire (s : State) (h line : Nat) (e : CupolaErr) (i : Nat) : (s.cupolaMeets h line e).spire i = s.spire i := by
  unfold State.cupolaMeets
  split <;> rfl

/-- A read of the Belfry region that meets no uncorrectable burst leaves the Spires and what lasts, whatever its line and its bursts meet. -/
theorem State.belfryRead_met {s : State} (hb : s.core.hbmBad = []) (h a n line : Nat) (cup : CupolaErr) (bursts : BurstRec) :
    ∃ m, ((s.cupolaMeets h line cup).countBursts a bursts).belfryRead h a n = (none, m) ∧ m.lasting = s.lasting ∧ ∀ i, m.spire i = s.spire i := by
  obtain ⟨counts, counted⟩ := (s.cupolaMeets h line cup).countBursts_eq a bursts
  have bad : ((s.cupolaMeets h line cup).countBursts a bursts).core.hbmBad = [] := by
    rw [counted]
    exact (State.eq_of_cacheless (·.core.hbmBad) (fun _ => rfl) (s.cupolaMeets_cacheless ..)).trans hb
  refine ⟨_, Prod.ext (State.belfryRead_clean bad h a n).1 rfl, ?_, fun i => ?_⟩
  · rw [State.belfryRead_lasting, State.countBursts_lasting]
    exact State.eq_of_cacheless State.lasting (fun _ => rfl) (s.cupolaMeets_cacheless ..)
  · rw [State.belfryRead_spire, State.countBursts_spire, State.cupolaMeets_spire]

/-! The read of a descriptor. -/

/-- Where the descriptor of a transfer of a partition stands. -/
def State.descAt (s : State) (p : Nat) (x : Xfer) : Nat := (s.part p).plan.base + (s.part p).plan.descTable + 128 * x.index

/-- What makes a descriptor that has been read freeze its engine: a stale handle of a checked pool, or a tile side past the
tile memory. -/
def State.descBad (s : State) (sp p : Nat) (x : Xfer) (d : Desc) : Prop :=
  (Desc.hchk d = true ∧ s.staleInPool sp p (Desc.hpool d) x.handle = true) ∨ Desc.tileRangeOk d (fld x.handle 19 0) = false

section

variable {s : State} {sp : Fin 16} {p : Nat} {u : Fin 5} {x : Xfer} (owner : s.owner sp.val = some p) (held : (s.spire sp.val).xfer u.val x.id = some x)
  (unread : x.read = false) (live : x.stopped = false)

include owner held unread live

/-- While its line waits on a fill, the read has not completed. -/
theorem descriptorReadDone_waits {cup : CupolaErr}
    (waits : (s.cupolaMeets (halfOf sp.val) (s.descAt p x / 256) cup).belfryWaits (halfOf sp.val) (s.descAt p x) 128 = true) (bursts : BurstRec) :
    execDescriptorReadDone sp u x.id false s cup bursts = .next s := by
  unfold execDescriptorReadDone
  simp only [held, owner, unread, live, Bool.false_eq_true, or_self, if_false]
  exact if_pos waits

/-- A read that meets an uncorrectable burst freezes its engine. -/
theorem descriptorReadDone_spoiled (hb : s.core.hbmBad = []) (calm : (s.part p).reset = .none)
    (goes : s.belfryWaits (halfOf sp.val) (s.descAt p x) 128 = false) (fresh : (s.cupola (halfOf sp.val)).holds (s.descAt p x / 256) = false) (bursts : BurstRec) :
    ∃ t, execDescriptorReadDone sp u x.id true s .none bursts = .next t ∧ SameSram s t ∧ SameHbm s t ∧ bit1 (t.spire sp.val).frozen (u.val + 1) = true := by
  obtain ⟨counts, counted⟩ := (s.hbmSpoil (some (s.descAt p x))).countBursts_eq (s.descAt p x) bursts
  have failed := State.belfryRead_bad (s := (s.hbmSpoil (some (s.descAt p x))).countBursts (s.descAt p x) bursts) (h := halfOf sp.val) (a := s.descAt p x)
    (by rw [counted]; exact fresh) (by rw [counted]; exact State.badBurst_spoiled hb _) 128
  have lasting := ((s.hbmSpoil (some (s.descAt p x))).countBursts (s.descAt p x) bursts).belfryRead_lasting (halfOf sp.val) (s.descAt p x) 128
  rw [State.countBursts_lasting] at lasting
  generalize read : ((s.hbmSpoil (some (s.descAt p x))).countBursts (s.descAt p x) bursts).belfryRead (halfOf sp.val) (s.descAt p x) 128 = acc at failed lasting
  obtain ⟨b, m⟩ := acc
  cases failed
  have run : execDescriptorReadDone sp u x.id true s .none bursts = .next (m.freeze sp.val (u.val + 1) 9 (s.descAt p x / 32 * 32) (s.descAt p x / 32 * 32)) := by
    unfold State.descAt at read goes ⊢
    unfold execDescriptorReadDone
    simp only [held, owner, unread, live, Bool.false_eq_true, or_self, if_false, if_true, State.cupolaMeets, read]
    exact if_neg (Bool.eq_false_iff.mp goes)
  have frozen : (m.freeze sp.val (u.val + 1) 9 (s.descAt p x / 32 * 32) (s.descAt p x / 32 * 32)).lasting = (s.hbmSpoil (some (s.descAt p x))).lasting :=
    (State.freeze_lasting ..).trans lasting
  have owner' : m.owner sp.val = some p := (State.eq_of_lasting (·.owner sp.val) (fun _ => rfl) lasting).trans owner
  have calm' : (m.part p).reset = .none := (State.eq_of_lasting (fun a => (a.part p).reset) (fun _ => rfl) lasting).trans calm
  exact ⟨_, run, fun tile a => State.eq_of_lasting (s := s.hbmSpoil (some (s.descAt p x))) (·.sramByte tile a) (fun _ => rfl) frozen,
    fun a => State.eq_of_lasting (s := s.hbmSpoil (some (s.descAt p x))) (·.hbmByte a) (fun _ => rfl) frozen, State.freeze_master owner' calm' (by omega) (by omega) ..⟩

/-- A transfer whose descriptor has been read. -/
def State.described (s : State) (sp u : Nat) (x : Xfer) (d : Desc) (n : Nat) : State :=
  s.onSpire sp fun y => y.onXfer u x.id fun t => { t with desc := d, read := true, readyAt := n }

/-- What becomes of a descriptor that has been read. -/
theorem descriptorReadDone_reads {cup : CupolaErr} {bursts : BurstRec} {m : State}
    (goes : (s.cupolaMeets (halfOf sp.val) (s.descAt p x / 256) cup).belfryWaits (halfOf sp.val) (s.descAt p x) 128 = false)
    (read : ((s.cupolaMeets (halfOf sp.val) (s.descAt p x / 256) cup).countBursts (s.descAt p x) bursts).belfryRead (halfOf sp.val) (s.descAt p x) 128 = (none, m)) :
    let d := m.hbmRead (s.descAt p x) 128
    let t := m.described sp.val u.val x d (s.countOf sp.val + 4)
    execDescriptorReadDone sp u x.id false s cup bursts =
      if Desc.hchk d ∧ s.staleInPool sp.val p (Desc.hpool d) x.handle then .next (t.freeze sp.val (u.val + 1) 8 x.index 0)
      else if !Desc.tileRangeOk d (fld x.handle 19 0) then .next (t.freeze sp.val (u.val + 1) 7 x.index 0)
      else .next t := by
  have spoil : s.hbmSpoil none = s := rfl
  unfold State.descAt at read goes ⊢
  unfold execDescriptorReadDone
  simp only [held, owner, unread, live, Bool.false_eq_true, or_self, if_false, spoil, read]
  exact if_neg (Bool.eq_false_iff.mp goes)

/-- A read that meets no uncorrectable burst gives the transfer its descriptor, which freezes its engine where it is bad. -/
theorem descriptorReadDone_described {cup : CupolaErr} (hb : s.core.hbmBad = []) (calm : (s.part p).reset = .none)
    (goes : (s.cupolaMeets (halfOf sp.val) (s.descAt p x / 256) cup).belfryWaits (halfOf sp.val) (s.descAt p x) 128 = false) (bursts : BurstRec) :
    ∃ t, execDescriptorReadDone sp u x.id false s cup bursts = .next t ∧ SameSram s t ∧ SameHbm s t ∧ t.parts = s.parts ∧
      (¬s.descBad sp.val p x (s.hbmRead (s.descAt p x) 128) →
        (t.spire sp.val).xfer u.val x.id = some { x with desc := s.hbmRead (s.descAt p x) 128, read := true, readyAt := s.countOf sp.val + 4 } ∧
        (t.spire sp.val).frozen = (s.spire sp.val).frozen) ∧
      (s.descBad sp.val p x (s.hbmRead (s.descAt p x) 128) → bit1 (t.spire sp.val).frozen (u.val + 1) = true) := by
  obtain ⟨m, read, lasting, spires⟩ := State.belfryRead_met hb (halfOf sp.val) (s.descAt p x) 128 (s.descAt p x / 256) cup bursts
  have run := descriptorReadDone_reads owner held unread live goes read
  have bytes : m.hbmRead (s.descAt p x) 128 = s.hbmRead (s.descAt p x) 128 := State.eq_of_lasting (·.hbmRead _ 128) (fun _ => rfl) lasting
  dsimp only at run
  rw [bytes] at run
  by_cases h : s.descBad sp.val p x (s.hbmRead (s.descAt p x) 128)
  · have same : (m.described sp.val u.val x (s.hbmRead (s.descAt p x) 128) (s.countOf sp.val + 4)).lasting = s.lasting :=
      (State.onSpire_lasting ..).trans lasting
    obtain ⟨reason, run⟩ : ∃ reason, execDescriptorReadDone sp u x.id false s cup bursts =
        .next ((m.described sp.val u.val x (s.hbmRead (s.descAt p x) 128) (s.countOf sp.val + 4)).freeze sp.val (u.val + 1) reason x.index 0) := by
      by_cases stale : Desc.hchk (s.hbmRead (s.descAt p x) 128) = true ∧ s.staleInPool sp.val p (Desc.hpool (s.hbmRead (s.descAt p x) 128)) x.handle = true
      · exact ⟨8, run.trans (if_pos stale)⟩
      · exact ⟨7, run.trans ((if_neg stale).trans (if_pos (by rw [h.resolve_left stale]; rfl)))⟩
    have frozen := (State.freeze_lasting (m.described sp.val u.val x (s.hbmRead (s.descAt p x) 128) (s.countOf sp.val + 4)) sp.val (u.val + 1) reason
      x.index 0 0 0xFF).trans same
    exact ⟨_, run, fun tile a => State.eq_of_lasting (·.sramByte tile a) (fun _ => rfl) frozen, fun a => State.eq_of_lasting (·.hbmByte a) (fun _ => rfl) frozen,
      State.eq_of_lasting (·.parts) (fun _ => rfl) frozen, fun sound => absurd h sound, fun _ => State.freeze_master
        ((State.eq_of_lasting (·.owner sp.val) (fun _ => rfl) same).trans owner)
        ((State.eq_of_lasting (fun a => (a.part p).reset) (fun _ => rfl) same).trans calm) (by omega) (by omega) ..⟩
  · obtain ⟨fresh, inside⟩ := not_or.mp h
    have reached : ¬(!Desc.tileRangeOk (s.hbmRead (s.descAt p x) 128) (fld x.handle 19 0)) = true := by simpa using inside
    have own : (m.described sp.val u.val x (s.hbmRead (s.descAt p x) 128) (s.countOf sp.val + 4)).spire sp.val = (s.spire sp.val).onXfer u.val x.id
        fun t => { t with desc := s.hbmRead (s.descAt p x) 128, read := true, readyAt := s.countOf sp.val + 4 } := by
      rw [State.described, State.spire_onSpire, spires]
    refine ⟨_, run.trans ((if_neg fresh).trans (if_neg reached)), fun tile a => State.eq_of_lasting (·.sramByte tile a) (fun _ => rfl) lasting,
      fun a => State.eq_of_lasting (·.hbmByte a) (fun _ => rfl) lasting, State.eq_of_lasting (·.parts) (fun _ => rfl) lasting, fun _ => ?_, fun wrong => absurd wrong h⟩
    rw [own]
    exact ⟨Spire.xfer_onXfer held fun _ h => h, rfl⟩

end

end Sys2Proof.Machine
end

section
/-! SUPPORT. DMA engines: what a request is made of, and how it is put on its way. -/

namespace Sys2Proof.Machine

/-! The bytes of a request. -/

/-- The pieces that are gathered from rows that carry the bytes of a tile carry the bytes of their own places. -/
theorem gather_bytes {rowFar : Nat → Int} {rowTile : Nat → Nat} {row : Nat → Nat × List Byte × Counts} {rows : Nat} {rd : Nat → Byte}
    (plain : ∀ r, (row r).2.1 = (List.range (row r).1).map fun i => rd (rowTile r + i)) (f : Nat) (block : Option Int) (sum r b : Nat) :
    ∀ q ∈ (gather rowFar rowTile row rows f block sum r b).1, q.bytes = (List.range q.len).map fun i => rd (q.taddr + i) := by
  induction f generalizing block sum r b with
  | zero => exact fun _ hq => nomatch hq
  | succ f ih =>
    intro q hq
    unfold gather at hq
    dsimp only at hq
    split_ifs at hq
    · exact nomatch hq
    · exact ih _ _ _ _ q hq
    · exact nomatch hq
    · obtain rfl | hq := List.mem_cons.mp hq
      · dsimp only
        rw [plain]
        refine List.ext_getElem (by simp only [List.length_take, List.length_drop, List.length_map, List.length_range]; omega) fun i _ _ => ?_
        simp only [List.getElem_take, List.getElem_drop, List.getElem_map, List.getElem_range, Nat.add_assoc]
      · exact ih _ _ _ _ q hq

/-- A row of tiles that no pack unit takes carries the bytes of its place. -/
theorem Desc.rowBytes_plain {d : Desc} (dir : Desc.dir d = true) (plain : Desc.pack d = false) (h r : Nat) (rd hold : Nat → Byte) :
    (Desc.rowBytes d h r rd hold).2.1 = (List.range (Desc.rowBytes d h r rd hold).1).map fun i => rd (Desc.rowTile d h r + i) := by
  simp [Desc.rowBytes, dir, plain]

/-- What a step of a STREAM, REMOTE or SPAN transfer gathers comes from the rows of its source tile. -/
theorem State.nextStep_gots {s : State} {sp p : Nat} {x : Xfer} {g : Step} (e : s.nextStep sp p x = some g) : ∃ (rowFar : Nat → Int) (hold : Nat → Nat → Byte),
    g.gots = (gather rowFar (Desc.rowTile x.desc (fld x.handle 19 0))
      (fun r => Desc.rowBytes x.desc (fld x.handle 19 0) r (s.byteBefore (s.countOf sp + 1) g.source) (hold r)) (Desc.rows x.desc) 1024 none 0 x.atRow x.atByte).1 := by
  unfold State.nextStep at e
  dsimp only at e
  split at e
  · exact nomatch e
  · cases e
    exact ⟨_, _, rfl⟩

theorem makeReq_eq {id : Nat} {kind : ReqKind} {cls : ReqClass} {base : Int} {tiles : List Nat} {gs : List Got} {r : Req}
    (e : makeReq id kind cls base tiles gs = some r) : r.id = id ∧ r.kind = kind ∧ r.bytes = gs.flatMap (·.bytes) ∧
      ∃ low : Int, r.pieces = gs.map fun q => ⟨(q.far - low).toNat, q.taddr, q.len⟩ := by
  unfold makeReq at e
  split at e
  · exact nomatch e
  · dsimp only at e
    split at e
    · exact nomatch e
    · cases e
      exact ⟨rfl, rfl, rfl, _, rfl⟩

theorem State.gatherStep_eq {s : State} {p : Nat} {x : Xfer} {c : ReqClass} {id : Nat} {g : Step} {r : Req} (e : s.gatherStep p x c id g = some r) :
    r.id = id ∧ r.kind = Desc.dataKind x.desc ∧ r.source = g.source ∧ r.bytes = g.gots.flatMap (·.bytes) ∧
      ∃ low : Int, r.pieces = g.gots.map fun q => ⟨(q.far - low).toNat, q.taddr, q.len⟩ := by
  obtain ⟨r', made, rfl⟩ := Option.map_eq_some_iff.mp e
  obtain ⟨id', kind, bytes, pieces⟩ := makeReq_eq made
  exact ⟨id', kind, rfl, bytes, pieces⟩

/-- A request from tiles that no pack unit makes carries what a read of its pieces sees. -/
theorem State.gatherStep_bytes {s : State} {sp p : Nat} {x : Xfer} {c : ReqClass} {id : Nat} {g : Step} {r : Req} (step : s.stepOf sp p x = some g)
    (e : s.gatherStep p x c id g = some r) (dir : Desc.dir x.desc = true) (plain : Desc.pack x.desc = false) (kind : Desc.kind x.desc ≠ 2) :
    r.bytes = r.pieces.flatMap fun q => s.readBefore (s.countOf sp + 1) r.source q.taddr q.len := by
  obtain ⟨-, -, source, bytes, low, pieces⟩ := State.gatherStep_eq e
  have next : s.nextStep sp p x = some g := by
    rw [State.stepOf, if_neg kind] at step
    split at step
    · exact nomatch step
    · exact step
  obtain ⟨rowFar, hold, gots⟩ := State.nextStep_gots next
  have each : ∀ q ∈ g.gots, q.bytes = s.readBefore (s.countOf sp + 1) g.source q.taddr q.len := by
    rw [gots]
    exact gather_bytes (fun r => Desc.rowBytes_plain dir plain (fld x.handle 19 0) r _ (hold r)) 1024 none 0 x.atRow x.atByte
  rw [bytes, pieces, source, List.flatMap_map]
  exact List.flatMap_congr each

/-! What is put on its way. -/

/-- A transfer that has issued one more request. -/
def Xfer.withReq (x : Xfer) (r : Req) : Xfer := { x with reqs := x.reqs ++ [r], issued := x.issued + 1 }

/-- A request that is on its way is one of its transfer. -/
def State.joined (s : State) (sp u id : Nat) (r : Req) : State := s.onSpire sp fun y => y.onXfer u id (·.withReq r)

/-- A request has been put on its way: the Spires, the tiles and HBM are as they were. -/
structure Departs (a b : State) : Prop where
  spires : b.core.spires = a.core.spires
  sram : b.core.sram = a.core.sram
  hbm : b.core.hbm = a.core.hbm

theorem State.cupola_setCupola (s : State) (h : Nat) (c : Cupola) : (s.setCupola h c).cupola h = c := Tbl.get_put_same ..

theorem Departs.trans {a b c : State} (h : Departs a b) (k : Departs b c) : Departs a c :=
  ⟨k.spires.trans h.spires, k.sram.trans h.sram, k.hbm.trans h.hbm⟩

theorem State.freshId_departs (s : State) : Departs s s.freshId.2 := ⟨rfl, rfl, rfl⟩

theorem State.setCupola_departs (s : State) (h : Nat) (c : Cupola) : Departs s (s.setCupola h c) := ⟨rfl, rfl, rfl⟩

theorem State.enterRead_departs (s : State) (q : QRead) : Departs s (s.enterRead q) := by
  unfold State.enterRead
  dsimp only
  split <;> exact ⟨rfl, rfl, rfl⟩

theorem State.enterRead_cupola (s : State) (q : QRead) (h : Nat) : (s.enterRead q).cupola h = s.cupola h := by
  unfold State.enterRead
  dsimp only
  split <;> rfl

/-- A read enters the queue of its controller where there is room. -/
theorem State.enterRead_reads {s : State} {q : QRead} (room : (s.ctl (pseudoOf q.far)).reads.length < 64) :
    ((s.enterRead q).ctl (pseudoOf q.far)).reads = (s.ctl (pseudoOf q.far)).reads ++ [{ q with bytes := s.hbmRead q.far q.len }] := by
  unfold State.enterRead
  dsimp only
  rw [if_pos (by exact room)]
  exact congrArg Ctl.reads (Tbl.get_put_same ..)

section

variable (s : State) {sp u : Nat} {x : Xfer} {r : Req}

theorem State.launch_sent (kind : r.kind = .write ∨ r.kind = .remote ∨ r.kind = .spanOut) :
    s.launch sp u x r = s.freshId.2.joined sp u x.id { r with phase := .mesh, sent := s.core.nextId, landed := 0 } := by
  unfold State.launch
  obtain kind | kind | kind := kind <;> (conv_lhs => rw [kind]) <;> rfl

theorem State.launch_slot (kind : r.kind = .spanIn) : s.launch sp u x r = s.freshId.2.joined sp u x.id
    { r with bytes := s.slotRead x.part (Desc.port x.desc) r.far r.len, phase := .mesh, sent := s.core.nextId, landed := 0 } := by
  unfold State.launch
  rw [kind]
  rfl

theorem State.launch_queued (kind : r.kind = .list ∨ (r.kind = .read ∧ Desc.cupola x.desc = false)) :
    s.launch sp u x r = (s.enterRead ⟨sp, u, x.id, r.id, r.far, r.len, [], 0⟩).joined sp u x.id r := by
  unfold State.launch
  obtain kind | ⟨kind, straight⟩ := kind
  · rw [kind]
    rfl
  · rw [kind]
    simp only [straight, Bool.false_eq_true, if_false]
    rfl

theorem State.launch_cupola (kind : r.kind = .read) (through : Desc.cupola x.desc = true) :
    s.launch sp u x r = (s.cupolaRead sp u x.id r).1.joined sp u x.id (s.cupolaRead sp u x.id r).2 := by
  unfold State.launch
  rw [kind]
  simp only [through, if_true]
  rfl

/-- A hit of a Cupola. -/
theorem State.cupolaRead_hit (hit : ((s.cupola (halfOf sp)).look (r.far / 256)).holds (r.far / 256) = true) (id : Nat) :
    Departs s (s.cupolaRead sp u id r).1 ∧
      (s.cupolaRead sp u id r).2 = { r with bytes := s.hbmRead r.far r.len, phase := .mesh, sent := s.core.nextId, landed := 0 } := by
  unfold State.cupolaRead
  simp only [hit, if_true]
  exact ⟨⟨rfl, rfl, rfl⟩, rfl⟩

/-- A miss of a Cupola joins a pending fill of its line, begins one, or waits for one of the 512 to end. -/
theorem State.cupolaRead_miss (miss : ((s.cupola (halfOf sp)).look (r.far / 256)).holds (r.far / 256) = false) (id : Nat) :
    let c := (s.cupola (halfOf sp)).look (r.far / 256)
    let b := s.cupolaRead sp u id r
    Departs s b.1 ∧ b.2 = { r with phase := .fill } ∧
      (∀ f, c.fills = [f] → f.line = r.far / 256 → (b.1.cupola (halfOf sp)).fills = [{ f with waiters := f.waiters ++ [(sp, u, id, r.id)] }]) ∧
      (c.fills.any (fun f => decide (f.line = r.far / 256)) = false →
        (c.fills.length < 512 → (b.1.cupola (halfOf sp)).fills = c.fills ++ [⟨r.far / 256, false, [(sp, u, id, r.id)]⟩] ∧
          (b.1.cupola (halfOf sp)).misses = wrap48 c.misses 1) ∧
        (512 ≤ c.fills.length → (b.1.cupola (halfOf sp)).fills = c.fills ∧
          (b.1.cupola (halfOf sp)).queued = c.queued ++ [(r.far / 256, sp, u, id, r.id)])) := by
  dsimp only
  unfold State.cupolaRead
  simp only [miss, Bool.false_eq_true, if_false]
  generalize (s.cupola (halfOf sp)).look (r.far / 256) = c
  split
  · rename_i pending
    refine ⟨⟨rfl, rfl, rfl⟩, rfl, fun f one line => ?_, fun none_ => absurd pending (by rw [none_]; decide)⟩
    rw [State.cupola_setCupola, one]
    simp only [List.map_cons, List.map_nil, line, if_true]
  · rename_i fresh
    have absent : ∀ f, c.fills = [f] → f.line ≠ r.far / 256 := fun f one line => fresh (by simp [one, line])
    split
    · rename_i room
      refine ⟨(s.setCupola_departs ..).trans (State.enterRead_departs ..), rfl, fun f one line => absurd line (absent f one),
        fun _ => ⟨fun _ => ?_, fun full => absurd room (Nat.not_lt.mpr full)⟩⟩
      rw [State.startFill, State.enterRead_cupola, State.cupola_setCupola]
      exact ⟨rfl, rfl⟩
    · rename_i full
      refine ⟨⟨rfl, rfl, rfl⟩, rfl, fun f one line => absurd line (absent f one), fun _ => ⟨fun room => absurd room full, fun _ => ?_⟩⟩
      rw [State.cupola_setCupola]
      exact ⟨rfl, rfl⟩

end

end Sys2Proof.Machine
end

section
/-! SUPPORT. DMA engines: the steps of a transfer at its turn, and the request that it issues. -/

namespace Sys2Proof.Machine

/-! The steps of a transfer. -/

/-- A state but for its Spires, the banks in use and its numbers. -/
def State.stepless (s : State) : State := { s with core := { s.core with spires := [], bankUse := [], nextId := 0 } }

theorem State.eq_of_stepless {γ : Type} (g : State → γ) (hg : ∀ a : State, g a.stepless = g a) {s t : State} (h : t.stepless = s.stepless) : g t = g s := by
  rw [← hg t, h, hg]

/-- A state in which a transfer has taken its steps and the number of its request: beside Spires and banks in use it is the one
before, and it holds the transfer as given. -/
structure Stepped (s a : State) (sp u : Nat) (y : Xfer) : Prop where
  rest : a.stepless = s.stepless
  next : a.core.nextId = s.core.nextId + 1
  held : (a.spire sp).xfer u y.id = some y

theorem Stepped.store {s : State} {sp u : Nat} {x y : Xfer} (held : (s.spire sp).xfer u x.id = some x) (id : y.id = x.id) (reqs : y.reqs = x.reqs)
    (issued : y.issued = x.issued) (stopped : y.stopped = x.stopped) : Stepped s (s.freshId.2.storeXfer sp u y) sp u y where
  rest := rfl
  next := rfl
  held := by
    have found : (s.freshId.2.spire sp).xfer u y.id = some x := by
      rw [id]
      exact held
    refine (State.xfer_onXfer found (f := fun z => { y with reqs := z.reqs, issued := z.issued, stopped := z.stopped }) fun _ _ => rfl).trans ?_
    rw [← reqs, ← issued, ← stopped]

theorem State.noteStep_eq {a : State} {x : Xfer} (clean : Desc.dir x.desc = true → a.core.sramCe = [] ∧ a.core.sramUe = []) (sp : Nat) (g : Step) :
    ∃ banks, a.noteStep sp x g = ({ a with core := { a.core with bankUse := banks } } : State).onCtr sp
      fun k => { k with sat := sat32 k.sat g.counts.overflow, nan := sat32 k.nan g.counts.nanRemoved } := by
  unfold State.noteStep
  cases dir : Desc.dir x.desc with
  | false => exact ⟨a.core.bankUse, rfl⟩
  | true =>
    obtain ⟨ce, ue⟩ := clean dir
    obtain ⟨banks, e⟩ := State.readTiles_eq ce ue sp (g.reads.map fun q => (g.source, q.1, q.2))
    exact ⟨banks, by rw [if_pos rfl, e]⟩

/-- What a step reads of its tiles takes banks, and is counted. -/
theorem Stepped.note {s a : State} {sp u : Nat} {y x : Xfer} (h : Stepped s a sp u y)
    (clean : Desc.dir x.desc = true → s.core.sramCe = [] ∧ s.core.sramUe = []) (g : Step) : Stepped s (a.noteStep sp x g) sp u y := by
  have ce : a.core.sramCe = s.core.sramCe := State.eq_of_stepless (·.core.sramCe) (fun _ => rfl) h.rest
  have ue : a.core.sramUe = s.core.sramUe := State.eq_of_stepless (·.core.sramUe) (fun _ => rfl) h.rest
  obtain ⟨banks, e⟩ := State.noteStep_eq (a := a) (x := x) (fun dir => ce ▸ ue ▸ clean dir) sp g
  rw [e]
  refine ⟨h.rest, h.next, ?_⟩
  rw [State.onCtr, State.spire_onSpire]
  exact h.held

/-! The request that is issued. -/

/-- A request of a transfer is accounted for. -/
def State.accounted (s : State) (sp u id : Nat) (c : ReqClass) (n : Nat) : State := s.onSpire sp fun y => y.account c u id n

/-- The turn of a transfer is over: its request is accounted for, and its pack unit has given out bytes. -/
def State.finished (s : State) (sp u : Nat) (x : Xfer) (c : ReqClass) (n : Nat) : State :=
  (s.accounted sp u x.id c n).onSpire sp fun y => { y with packFree := if Desc.pack x.desc then Tbl.put 0 u n y.packFree else y.packFree }

theorem State.accounted_ctl (s : State) (sp u id v w : Nat) (r : Req) (c : ReqClass) (n k : Nat) :
    ((s.joined sp u id r).accounted sp v w c n).ctl k = s.ctl k := rfl

theorem State.finished_ctl (s : State) (sp u id v : Nat) (r : Req) (x : Xfer) (c : ReqClass) (n k : Nat) :
    ((s.joined sp u id r).finished sp v x c n).ctl k = s.ctl k := rfl

theorem State.finished_cupola (s : State) (sp u id v : Nat) (r : Req) (x : Xfer) (c : ReqClass) (n k : Nat) :
    ((s.joined sp u id r).finished sp v x c n).cupola k = s.cupola k := rfl

theorem Spire.account_unit (y : Spire) (c : ReqClass) (e id n v : Nat) : (y.account c e id n).unit v = y.unit v := by
  unfold Spire.account
  dsimp only
  split <;> rfl

/-- The request of a transfer that has taken its steps is issued once it is accounted for. -/
theorem Stepped.accounted {s a b : State} {sp p u : Nat} {y : Xfer} (h : Stepped s a sp u y) (owner : s.owner sp = some p) (way : Departs a b)
    (c : ReqClass) (r : Req) : Issued s ((b.joined sp u y.id r).accounted sp u y.id c (s.countOf sp)) sp p u (y.withReq r) := by
  have count : s.countOf sp = (s.part p).ccyc := by simp only [State.countOf, owner]
  have sram : a.core.sram = s.core.sram := State.eq_of_stepless (·.core.sram) (fun _ => rfl) h.rest
  have hbm : a.core.hbm = s.core.hbm := State.eq_of_stepless (·.core.hbm) (fun _ => rfl) h.rest
  have held : (b.spire sp).xfer u y.id = some y := by
    rw [State.spire, way.spires]
    exact h.held
  refine ⟨.of_eq (way.sram.trans sram), .of_eq (way.hbm.trans hbm), ?_, ?_⟩
  · rw [State.accounted, State.spire_onSpire, count]
    rfl
  · rw [State.accounted, State.spire_onSpire, Spire.xfer, Spire.account_unit]
    exact State.xfer_onXfer held fun _ h => h

theorem Issued.packed {s t : State} {sp p u : Nat} {y : Xfer} (h : Issued s t sp p u y) (f : Spire → Tbl Nat) :
    Issued s (t.onSpire sp fun z => { z with packFree := f z }) sp p u y where
  sram := h.sram
  hbm := h.hbm
  free := by
    rw [State.spire_onSpire]
    exact h.free
  held := by
    rw [State.spire_onSpire]
    exact h.held

/-- So it is at the end of its turn. -/
theorem Stepped.issued {s a b : State} {sp p u : Nat} {y : Xfer} (h : Stepped s a sp u y) (owner : s.owner sp = some p) (way : Departs a b) {x : Xfer}
    (id : x.id = y.id) (c : ReqClass) (r : Req) : Issued s ((b.joined sp u x.id r).finished sp u x c (s.countOf sp)) sp p u (y.withReq r) := by
  rw [State.finished, id]
  exact (h.accounted owner way c r).packed _

/-- A read of a transfer that has taken its steps enters the queue of its controller. -/
theorem Stepped.enters {s a : State} {sp u : Nat} {y : Xfer} (h : Stepped s a sp u y) (id : Nat) {r : Req} (room : (s.ctl (pseudoOf r.far)).reads.length < 64) :
    ((a.enterRead ⟨sp, u, id, r.id, r.far, r.len, [], 0⟩).ctl (pseudoOf r.far)).reads =
      (s.ctl (pseudoOf r.far)).reads ++ [⟨sp, u, id, r.id, r.far, r.len, s.hbmRead r.far r.len, 0⟩] := by
  have ctl : a.ctl (pseudoOf r.far) = s.ctl (pseudoOf r.far) := State.eq_of_stepless (·.ctl (pseudoOf r.far)) (fun _ => rfl) h.rest
  have bytes : a.hbmRead r.far r.len = s.hbmRead r.far r.len := State.eq_of_stepless (·.hbmRead r.far r.len) (fun _ => rfl) h.rest
  rw [← ctl] at room
  rw [← ctl, ← bytes]
  exact State.enterRead_reads (q := ⟨sp, u, id, r.id, r.far, r.len, [], 0⟩) room

section

variable {s a : State} {sp p u : Nat} {x y : Xfer} (h : Stepped s a sp u y) (owner : s.owner sp = some p) (id : x.id = y.id) (c : ReqClass) {r : Req}

include h owner id

/-- A request that its tiles give their bytes enters the mesh. -/
theorem Stepped.sends (kind : r.kind = .write ∨ r.kind = .remote ∨ r.kind = .spanOut) :
    Issued s ((a.launch sp u x r).finished sp u x c (s.countOf sp)) sp p u (y.withReq (s.sentOf r)) := by
  rw [State.launch_sent a kind, h.next]
  exact h.issued owner a.freshId_departs id c (s.sentOf r)

/-- So does one that a slot store gives its bytes. -/
theorem Stepped.sendsSlot (kind : r.kind = .spanIn) : Issued s ((a.launch sp u x r).finished sp u x c (s.countOf sp)) sp p u
    (y.withReq (s.sentOf { r with bytes := s.slotRead x.part (Desc.port x.desc) r.far r.len })) := by
  have bytes : a.slotRead x.part (Desc.port x.desc) r.far r.len = s.slotRead x.part (Desc.port x.desc) r.far r.len :=
    State.eq_of_stepless (·.slotRead x.part (Desc.port x.desc) r.far r.len) (fun _ => rfl) h.rest
  rw [State.launch_slot a kind, h.next, bytes]
  exact h.issued owner a.freshId_departs id c (s.sentOf { r with bytes := s.slotRead x.part (Desc.port x.desc) r.far r.len })

/-- A read of a window enters the queue of its controller. -/
theorem Stepped.queues (kind : r.kind = .read) (straight : Desc.cupola x.desc = false) :
    Issued s ((a.launch sp u x r).finished sp u x c (s.countOf sp)) sp p u (y.withReq r) ∧
    ((s.ctl (pseudoOf r.far)).reads.length < 64 → (((a.launch sp u x r).finished sp u x c (s.countOf sp)).ctl (pseudoOf r.far)).reads =
      (s.ctl (pseudoOf r.far)).reads ++ [⟨sp, u, x.id, r.id, r.far, r.len, s.hbmRead r.far r.len, 0⟩]) := by
  rw [State.launch_queued a (.inr ⟨kind, straight⟩), State.finished_ctl]
  exact ⟨h.issued owner (State.enterRead_departs ..) id c r, h.enters x.id⟩

/-- A read that its Cupola holds enters the mesh at once. -/
theorem Stepped.hits (kind : r.kind = .read) (through : Desc.cupola x.desc = true)
    (hit : ((s.cupola (halfOf sp)).look (r.far / 256)).holds (r.far / 256) = true) : Issued s ((a.launch sp u x r).finished sp u x c (s.countOf sp)) sp p u
      (y.withReq (s.sentOf { r with bytes := s.hbmRead r.far r.len })) := by
  have cupola : a.cupola (halfOf sp) = s.cupola (halfOf sp) := State.eq_of_stepless (·.cupola (halfOf sp)) (fun _ => rfl) h.rest
  have bytes : a.hbmRead r.far r.len = s.hbmRead r.far r.len := State.eq_of_stepless (·.hbmRead r.far r.len) (fun _ => rfl) h.rest
  obtain ⟨way, served⟩ := State.cupolaRead_hit (u := u) (r := r) (sp := sp) a (by rw [cupola]; exact hit) x.id
  rw [State.launch_cupola a kind through, served, h.next, bytes]
  exact h.issued owner way id c (s.sentOf { r with bytes := s.hbmRead r.far r.len })

/-- One that it does not hold waits on a fill. -/
theorem Stepped.misses (kind : r.kind = .read) (through : Desc.cupola x.desc = true)
    (miss : ((s.cupola (halfOf sp)).look (r.far / 256)).holds (r.far / 256) = false) :
    let k := (s.cupola (halfOf sp)).look (r.far / 256)
    let t := (a.launch sp u x r).finished sp u x c (s.countOf sp)
    Issued s t sp p u (y.withReq { r with phase := .fill }) ∧
      (∀ f, k.fills = [f] → f.line = r.far / 256 → (t.cupola (halfOf sp)).fills = [{ f with waiters := f.waiters ++ [(sp, u, x.id, r.id)] }]) ∧
      (k.fills.any (fun f => decide (f.line = r.far / 256)) = false →
        (k.fills.length < 512 → (t.cupola (halfOf sp)).fills = k.fills ++ [⟨r.far / 256, false, [(sp, u, x.id, r.id)]⟩] ∧
          (t.cupola (halfOf sp)).misses = wrap48 k.misses 1) ∧
        (512 ≤ k.fills.length → (t.cupola (halfOf sp)).fills = k.fills ∧ (t.cupola (halfOf sp)).queued = k.queued ++ [(r.far / 256, sp, u, x.id, r.id)])) := by
  have cupola : a.cupola (halfOf sp) = s.cupola (halfOf sp) := State.eq_of_stepless (·.cupola (halfOf sp)) (fun _ => rfl) h.rest
  have missed := State.cupolaRead_miss (u := u) (r := r) (sp := sp) a (by rw [cupola]; exact miss) x.id
  rw [cupola] at missed
  obtain ⟨way, waits, fills⟩ := missed
  dsimp only
  rw [State.launch_cupola a kind through, waits, State.finished_cupola]
  exact ⟨h.issued owner way id c _, fills⟩

end

end Sys2Proof.Machine
end

section
/-! SUPPORT. DMA engines: the transfer whose turn it is. -/

namespace Sys2Proof.Machine

theorem Xfer.holdSpan_free {x : Xfer} (free : x.holds = false) (g : Step) : x.holdSpan g = none := by simp [Xfer.holdSpan, free]

section

variable {s : State} {sp p u : Nat} {x : Xfer} {c : ReqClass}

/-! The next data request. -/

theorem State.issueData_refused (buffer : x.gathered = none) {g : Step} (step : s.stepOf sp p x = some g) (fails : s.stepPasses p x g = false) :
    s.issueData sp p u x c = s.windowViolation sp u x ((g.gots.map (·.far)).headD 0) := by
  unfold State.issueData
  simp only [buffer, step, fails, Bool.not_false, if_true]

/-- The request of one step, with nothing behind it that joins. -/
theorem State.issueData_alone (buffer : x.gathered = none) {g : Step} (step : s.stepOf sp p x = some g) (passes : s.stepPasses p x g = true)
    (free : x.holds = false) {r : Req} (made : s.gatherStep p x c s.core.nextId g = some r)
    (last : Desc.dataKind x.desc = .write → ∀ h, s.stepOf sp p (x.advance g) = some h → s.stepPasses p x h = false ∨ (x.advance g).listOpen h = true) :
    s.issueData sp p u x c = (((s.freshId.2.storeXfer sp u (x.advance g)).noteStep sp x g).launch sp u x r).finished sp u x c (s.countOf sp) := by
  unfold State.issueData
  simp only [buffer, step, passes, Bool.not_true, Bool.false_eq_true, if_false, Xfer.holdSpan_free free, State.freshId_fst, made]
  split
  · rfl
  · rename_i h next
    split at next
    · rename_i write
      exact if_pos (by simpa using last (by simpa using write) h next)
    · exact nomatch next

/-- A write whose transfer moves on to the next block, which enters the write-combine buffer. -/
theorem State.issueData_moves (buffer : x.gathered = none) {g h : Step} (step : s.stepOf sp p x = some g) (passes : s.stepPasses p x g = true)
    (free : x.holds = false) {r : Req} (made : s.gatherStep p x c s.core.nextId g = some r) (write : Desc.dataKind x.desc = .write)
    (next : s.stepOf sp p (x.advance g) = some h) (through : s.stepPasses p x h = true) (closed : (x.advance g).listOpen h = false) :
    s.issueData sp p u x c = ((((s.freshId.2.storeXfer sp u { (x.advance g).advance h with gathered := s.gatherStep p x c 0 h }).noteStep sp x g).noteStep sp x h).launch
      sp u x r).finished sp u x c (s.countOf sp) := by
  have held : (x.advance g).holds = false := free
  unfold State.issueData
  simp only [buffer, step, passes, Bool.not_true, Bool.false_eq_true, if_false, Xfer.holdSpan_free free, State.freshId_fst, made, write, beq_self_eq_true, if_true,
    next, through, closed, or_self, Xfer.holdSpan_free held]
  rfl

section

variable {r : Req} (buffer : x.gathered = some r)

include buffer

/-- The block in the write-combine buffer, with nothing behind it. -/
theorem State.issueData_ends (none_ : ∀ g, s.stepOf sp p x = some g → s.stepPasses p x g = false) : s.issueData sp p u x c =
    ((s.freshId.2.storeXfer sp u { x with gathered := none }).launch sp u x { r with id := s.core.nextId }).finished sp u x c (s.countOf sp) := by
  unfold State.issueData
  simp only [buffer, State.freshId_fst]
  split
  · rfl
  · rename_i g step
    exact if_pos (by rw [none_ g step]; rfl)

/-- The block in the write-combine buffer, with the next one behind it. -/
theorem State.issueData_follows {g : Step} (step : s.stepOf sp p x = some g) (passes : s.stepPasses p x g = true) (free : x.holds = false) :
    s.issueData sp p u x c = (((s.freshId.2.storeXfer sp u { x.advance g with gathered := s.gatherStep p x c 0 g }).noteStep sp x g).launch
      sp u x { r with id := s.core.nextId }).finished sp u x c (s.countOf sp) := by
  unfold State.issueData
  simp only [buffer, step, passes, Bool.not_true, Bool.false_eq_true, if_false, Xfer.holdSpan_free free, State.freshId_fst]
  rfl

end

end

/-! The turn. -/

section

variable {s : State} {sp : Fin 16} {p u : Nat} {x : Xfer} {c : ReqClass} (turn : HasTurn s sp.val p u c x)

include turn

/-- The transfer whose turn it is waits for its banks. -/
theorem HasTurn.waits (data : s.listTurn sp.val p x = false) (meets : s.issueFits sp.val p x = false) (cup : CupolaErr) :
    execDmaRequestIssue sp [] s cup = .next s := by
  unfold execDmaRequestIssue
  simp only [turn.owner, turn.turn, if_neg (Nat.not_lt.mpr turn.free), data, meets, Bool.not_false, Bool.and_self, if_true]

/-- The transfer whose turn it is issues the read of a block of its list, or a request of its data. -/
theorem HasTurn.issues (goes : s.listTurn sp.val p x = true ∨ s.issueFits sp.val p x = true) {cup : CupolaErr} (sound : cup = .none ∨ Desc.cupola x.desc = false) :
    execDmaRequestIssue sp [] s cup = .next (if s.listTurn sp.val p x then s.issueList sp.val p u x else s.issueData sp.val p u x c) := by
  have ready : ¬(!s.listTurn sp.val p x && !s.issueFits sp.val p x) = true := by
    obtain list | fits := goes
    · simp [list]
    · simp [fits]
  have met : (if Desc.cupola x.desc = true then cup else .none) = CupolaErr.none := by
    obtain rfl | straight := sound
    · exact ite_self _
    · rw [straight]
      rfl
  have unset : s.upset [] = s := rfl
  unfold execDmaRequestIssue
  simp only [turn.owner, turn.turn, if_neg (Nat.not_lt.mpr turn.free), if_neg ready, met, unset, State.cupolaMeets, if_true]

/-- What its window refuses is not issued, and freezes the engine. -/
theorem HasTurn.violation (calm : (s.part p).reset = .none) (hu : u < 4) (off : Int) : Refused s (s.windowViolation sp.val u x off) sp.val u where
  memory := .of_lasting (State.freeze_lasting ..) fun _ => State.freeze_mbx ..
  frozen := State.freeze_master turn.owner calm (by omega) (by omega) ..
  ctls := ⟨State.freeze_core_eq (·.ctls) (fun _ => rfl) .., State.freeze_core_eq (·.cupolas) (fun _ => rfl) ..⟩
  turn := Spire.eq_of_unloaded (·.issueFree) (fun _ => rfl) (State.freeze_unloaded ..)
  reqs := fun _ => State.freeze_engine_reqs

/-- What its window refuses, of the data of its step, is not issued. -/
theorem HasTurn.refused (data : s.listTurn sp.val p x = false) (fits : s.issueFits sp.val p x = true) (calm : (s.part p).reset = .none) (hu : u < 4)
    (buffer : x.gathered = none) {g : Step} (step : s.stepOf sp.val p x = some g) (fails : s.stepPasses p x g = false) :
    ∃ t, execDmaRequestIssue sp [] s .none = .next t ∧ Refused s t sp.val u := by
  refine ⟨_, turn.issues (.inr fits) (.inl rfl), ?_⟩
  rw [if_neg (Bool.eq_false_iff.mp data), State.issueData_refused buffer step fails]
  exact turn.violation calm hu _

end

/-! The blocks of a list. -/

/-- The offset in its window of the next block of its list that a transfer reads. -/
def Xfer.listOff (x : Xfer) : Nat := (Desc.listBase x.desc x.sel / 256 + x.listAsked) * 256

/-- The first byte of that block that the list holds. -/
def Xfer.listLow (x : Xfer) : Nat := max x.listOff (Desc.listBase x.desc x.sel)

/-- Whether its window permits the read of that block. -/
def State.listPasses (s : State) (p : Nat) (x : Xfer) : Bool :=
  windowPasses (s.cfg.window p (Desc.window x.desc)) false x.listLow (x.listOff + 256 - x.listLow)

/-- The request that reads it. -/
def State.listReq (s : State) (p : Nat) (x : Xfer) : Req :=
  { id := s.core.nextId, kind := .list, cls := .read, far := (s.cfg.window p (Desc.window x.desc)).addr x.listOff, len := 256, tiles := [], pieces := [],
    bytes := [], phase := .far }

/-- A transfer that has asked for one more block of its list. -/
def Xfer.asked (x : Xfer) : Xfer := { x with listAsked := x.listAsked + 1 }

theorem State.issueList_refused {s : State} {p : Nat} {x : Xfer} (fails : s.listPasses p x = false) (sp u : Nat) :
    s.issueList sp p u x = s.windowViolation sp u x x.listLow :=
  if_pos (congrArg not fails)

theorem State.issueList_passes {s : State} {p : Nat} {x : Xfer} (passes : s.listPasses p x = true) (sp u : Nat) : s.issueList sp p u x =
    ((s.freshId.2.onSpire sp fun y => y.onXfer u x.id Xfer.asked).launch sp u x (s.listReq p x)).accounted sp u x.id .read (s.countOf sp) :=
  if_neg (by
    show ¬(!s.listPasses p x) = true
    rw [passes]
    decide)

section

variable {s : State} {sp : Fin 16} {p u : Nat} {x : Xfer} {c : ReqClass} (turn : HasTurn s sp.val p u c x) (list : s.listTurn sp.val p x = true)

include turn list

theorem HasTurn.listRefused (calm : (s.part p).reset = .none) (hu : u < 4) (fails : s.listPasses p x = false) :
    ∃ t, execDmaRequestIssue sp [] s .none = .next t ∧ Refused s t sp.val u := by
  refine ⟨_, turn.issues (.inl list) (.inl rfl), ?_⟩
  rw [if_pos list, State.issueList_refused fails]
  exact turn.violation calm hu _

/-- The read of a block of its list enters the queue of its controller. -/
theorem HasTurn.listQueued (passes : s.listPasses p x = true) : ∃ t, execDmaRequestIssue sp [] s .none = .next t ∧
    Issued s t sp.val p u (x.asked.withReq (s.listReq p x)) ∧
    ((s.ctl (pseudoOf (s.listReq p x).far)).reads.length < 64 → (t.ctl (pseudoOf (s.listReq p x).far)).reads = (s.ctl (pseudoOf (s.listReq p x).far)).reads ++
      [⟨sp.val, u, x.id, (s.listReq p x).id, (s.listReq p x).far, (s.listReq p x).len, s.hbmRead (s.listReq p x).far (s.listReq p x).len, 0⟩]) := by
  have step : Stepped s (s.freshId.2.onSpire sp.val fun y => y.onXfer u x.id Xfer.asked) sp.val u x.asked :=
    ⟨rfl, rfl, State.xfer_onXfer (s := s.freshId.2) turn.held fun _ h => h⟩
  refine ⟨_, turn.issues (.inl list) (.inl rfl), ?_⟩
  rw [if_pos list, State.issueList_passes passes, State.launch_queued _ (.inl rfl), State.accounted_ctl]
  exact ⟨step.accounted turn.owner (State.enterRead_departs ..) .read (s.listReq p x), step.enters x.id⟩

end

/-! Data. -/

section

variable {s : State} {sp : Fin 16} {p u : Nat} {x : Xfer} {c : ReqClass} (turn : HasTurn s sp.val p u c x)
  (data : s.listTurn sp.val p x = false) (fits : s.issueFits sp.val p x = true)

include turn data fits

theorem HasTurn.issuesData {cup : CupolaErr} (sound : cup = .none ∨ Desc.cupola x.desc = false) :
    execDmaRequestIssue sp [] s cup = .next (s.issueData sp.val p u x c) := by
  rw [turn.issues (.inr fits) sound, if_neg (Bool.eq_false_iff.mp data)]

/-- A block that waits in the write-combine buffer is issued alone, where nothing follows. -/
theorem HasTurn.ends {r : Req} (buffer : x.gathered = some r) (kind : r.kind = .write)
    (none_ : ∀ g, s.stepOf sp.val p x = some g → s.stepPasses p x g = false) : ∃ t, execDmaRequestIssue sp [] s .none = .next t ∧
      Issued s t sp.val p u (Xfer.withReq { x with gathered := none } (s.sentOf { r with id := s.core.nextId })) := by
  refine ⟨_, turn.issuesData data fits (.inl rfl), ?_⟩
  rw [State.issueData_ends buffer none_]
  exact (Stepped.store (y := { x with gathered := none }) turn.held rfl rfl rfl rfl).sends turn.owner rfl c (.inl kind)

variable (free : x.holds = false)

include free

/-- The next block takes its place in the buffer, where one follows. -/
theorem HasTurn.follows {r : Req} (buffer : x.gathered = some r) (kind : r.kind = .write) {g : Step} (step : s.stepOf sp.val p x = some g)
    (passes : s.stepPasses p x g = true) : ∃ t, execDmaRequestIssue sp [] s .none = .next t ∧
      Issued s t sp.val p u (Xfer.withReq { x.advance g with gathered := s.gatherStep p x c 0 g } (s.sentOf { r with id := s.core.nextId })) := by
  refine ⟨_, turn.issuesData data fits (.inl rfl), ?_⟩
  rw [State.issueData_follows buffer step passes free]
  exact ((Stepped.store (y := { x.advance g with gathered := s.gatherStep p x c 0 g }) turn.held rfl rfl rfl rfl).note turn.clean g).sends turn.owner rfl c (.inl kind)

variable (buffer : x.gathered = none) {g : Step} (step : s.stepOf sp.val p x = some g) (passes : s.stepPasses p x g = true) {r : Req}
  (made : s.gatherStep p x c s.core.nextId g = some r)

include buffer step passes made

/-- A transfer that has taken the step of its request alone. -/
theorem HasTurn.alone {cup : CupolaErr} (sound : cup = .none ∨ Desc.cupola x.desc = false) (last : Desc.dataKind x.desc = .write →
      ∀ h, s.stepOf sp.val p (x.advance g) = some h → s.stepPasses p x h = false ∨ (x.advance g).listOpen h = true) :
    ∃ a, Stepped s a sp.val u (x.advance g) ∧
      execDmaRequestIssue sp [] s cup = .next ((a.launch sp.val u x r).finished sp.val u x c (s.countOf sp.val)) :=
  ⟨_, (Stepped.store (y := x.advance g) turn.held rfl rfl rfl rfl).note turn.clean g,
    (turn.issuesData data fits sound).trans (congrArg _ (State.issueData_alone buffer step passes free made last))⟩

/-- A write is issued as its transfer moves on to the next block. -/
theorem HasTurn.moves (write : Desc.dataKind x.desc = .write) {h : Step} (next : s.stepOf sp.val p (x.advance g) = some h) (through : s.stepPasses p x h = true)
    (closed : (x.advance g).listOpen h = false) : ∃ t, execDmaRequestIssue sp [] s .none = .next t ∧
      Issued s t sp.val p u (Xfer.withReq { (x.advance g).advance h with gathered := s.gatherStep p x c 0 h } (s.sentOf r)) := by
  obtain ⟨-, kind, -⟩ := State.gatherStep_eq made
  refine ⟨_, turn.issuesData data fits (.inl rfl), ?_⟩
  rw [State.issueData_moves buffer step passes free made write next through closed]
  exact (((Stepped.store (y := { (x.advance g).advance h with gathered := s.gatherStep p x c 0 h }) turn.held rfl rfl rfl rfl).note turn.clean g).note turn.clean
    h).sends turn.owner rfl c (.inl (kind.trans write))

end

end Sys2Proof.Machine
end

section
/-! SUPPORT. DMA engines: the ends of requests and transfers. -/

namespace Sys2Proof.Machine

section

variable {s : State} {sp : Fin 16} {u : Fin 4} {x : Xfer} (held : (s.spire sp.val).xfer u.val x.id = some x)

include held

/-! Requests. -/

section

variable {r : Req} (found : x.req r.id = some r)

include found

theorem findReq_held : s.findReq sp.val u.val x.id r.id = some (x, r) := by
  simp only [State.findReq, held, found, Option.map_some]

/-- The end of a request waits for earlier acknowledgements of its gateway. -/
theorem dmaRequestComplete_waits (behind : s.acksAhead sp.val u.val r = true) : execDmaRequestComplete sp u x.id r.id s = .next s := by
  rw [execDmaRequestComplete, findReq_held held found]
  exact if_neg fun h => by simp [behind] at h

/-- A request whose bytes are complete leaves its transfer. -/
theorem dmaRequestComplete_ends (done : r.phase = .done) (first : s.acksAhead sp.val u.val r = false) (live : x.stopped = false) :
    ∃ t, execDmaRequestComplete sp u x.id r.id s = .next t ∧ { t with core := s.core } = s ∧
      { t.core with spires := s.core.spires, ctls := s.core.ctls } = s.core ∧ (∀ i, i ≠ sp.val → t.spire i = s.spire i) ∧
      (t.spire sp.val).xfer u.val x.id = some { x with reqs := x.reqs.filter (fun q => decide (q.id ≠ r.id)) } := by
  have run : execDmaRequestComplete sp u x.id r.id s = .next (s.endReq sp.val u.val x.id r.id) := by
    rw [execDmaRequestComplete, findReq_held held found]
    exact if_pos ⟨done, by rw [first]; rfl⟩
  obtain ⟨ctls, ended⟩ := s.endReq_eq sp.val u.val x.id r.id
  have less := Spire.xfer_onXfer held (f := fun x => { x with reqs := x.reqs.filter (fun q => decide (q.id ≠ r.id)) }) fun _ h => h
  refine ⟨_, run, ?_, ?_, fun i hi => ?_, ?_⟩
  · rw [ended]
    rfl
  · rw [ended]
    rfl
  · rw [ended]
    exact State.spire_onSpire_ne _ _ hi
  · rw [ended, State.spire_onSpire]
    show ((s.spire sp.val).ended u.val x.id r.id).xfer u.val x.id = _
    unfold Spire.ended
    simp only [less, live, Bool.false_eq_true, false_and, if_false]

end

/-! DRAIN. -/

/-- A DRAIN transfer is released once every earlier transfer has left. -/
theorem drainRelease_releases (read : x.read = true) (drains : Desc.drain x.desc = true) (drained : (s.spire sp.val).drained x.order = true) :
    ∃ t, execDrainRelease sp u x.id s = .next t ∧ OnlySpire s t sp.val ∧ (t.spire sp.val).xfer u.val x.id = some { x with released := true } := by
  refine ⟨s.onSpire sp.val fun y => y.onXfer u.val x.id fun t => { t with released := true }, ?_, OnlySpire.setSpire .., State.xfer_onXfer held fun _ h => h⟩
  unfold execDrainRelease
  rw [held]
  exact if_pos ⟨read, drains, drained⟩

/-! Transfers. -/

theorem transferComplete_pushes (complete : x.complete = true) : execTransferComplete sp u x.id s = .next (s.completionPush sp.val u.val x) := by
  unfold execTransferComplete
  simp only [held, complete, Bool.not_true, Bool.false_eq_true, if_false]

end

/-- The handle that a completion push carries. -/
def Xfer.pushHandle (x : Xfer) : W32 := if Desc.cmode x.desc = 2 then Desc.literal x.desc else x.handle

/-- A transfer leaves its engine, its gate counts up, and its Spire goes on. -/
def State.left (s : State) (sp u : Nat) (x : Xfer) : State := ((s.gateUp x).onSpire sp fun y => y.dropXfer u x.id).resume sp

/-- What a transfer that leaves changes, once its completion push has changed its Spire. -/
theorem State.left_eq {s b : State} {sp : Nat} (only : OnlySpire s b sp) (quiet : Quiet b sp) (hb : s.core.hbmBad = []) (u : Nat) (x : Xfer) :
    SpireAndCupolas (s.gateUp x) (b.left sp u x) sp ∧ ((b.left sp u x).spire sp).unit u = ((b.spire sp).unit u).filter (fun z => decide (z.id ≠ x.id)) ∧
      (∀ j, ((b.left sp u x).spire sp).queue j = (b.spire sp).queue j) ∧ ((b.left sp u x).spire sp).ctr = (b.spire sp).ctr := by
  have gate : b.gateUp x = (s.gateUp x).onCore fun _ => b.core := by
    have same : b = s.onCore fun _ => b.core := (congrArg (fun a : State => ({ a with core := b.core } : State)) only.outside :)
    exact (congrArg (State.gateUp · x) same).trans (State.gateUp_onCore ..)
  have core : (b.gateUp x).core = b.core := State.gateUp_core ..
  have spire (i : Nat) : (b.gateUp x).spire i = b.spire i := by rw [State.spire, core]; rfl
  have own : ((b.gateUp x).onSpire sp fun y => y.dropXfer u x.id).spire sp = (b.spire sp).dropXfer u x.id := by rw [State.spire_onSpire, spire]
  have goes := State.resume_buffered (s := (b.gateUp x).onSpire sp fun y => y.dropXfer u x.id) (sp := sp)
    (quiet.of_ctxs fun k _ => by rw [own]; rfl) ((congrArg Core.hbmBad core).trans ((only.core_eq (·.hbmBad) fun _ => rfl).trans hb))
  refine ⟨⟨?_, ?_, fun i hi => ?_⟩, ?_, fun j => ?_, ?_⟩
  · calc ({ b.left sp u x with core := (s.gateUp x).core } : State)
      _ = { b.gateUp x with core := (s.gateUp x).core } := (congrArg (fun a : State => ({ a with core := (s.gateUp x).core } : State)) goes.rest :)
      _ = s.gateUp x := by rw [gate]; rfl
  · rw [State.gateUp_core s]
    calc ({ (b.left sp u x).core with spires := s.core.spires, cupolas := s.core.cupolas } : Core)
      _ = { (b.gateUp x).core with spires := s.core.spires, cupolas := s.core.cupolas } :=
        (congrArg (fun a : State => ({ a.core with spires := s.core.spires, cupolas := s.core.cupolas } : Core)) goes.rest :)
      _ = { b.core with spires := s.core.spires, cupolas := s.core.cupolas } := by rw [core]
      _ = s.core := (congrArg (fun k : Core => ({ k with cupolas := s.core.cupolas } : Core)) only.inside :)
  · calc (b.left sp u x).spire i
      _ = b.spire i := (goes.others i hi).trans ((State.spire_onSpire_ne _ _ hi).trans (spire i))
      _ = s.spire i := only.others i hi
      _ = (s.gateUp x).spire i := by rw [State.spire, State.spire, State.gateUp_core]
  · exact (goes.spire_eq (·.unit u) (fun _ => rfl) sp).trans (by rw [own, Spire.dropXfer_unit])
  · exact (goes.spire_eq (·.queue j) (fun _ => rfl) sp).trans (by rw [own]; rfl)
  · exact (goes.spire_eq (·.ctr) (fun _ => rfl) sp).trans (by rw [own]; rfl)

section

variable {s : State} {sp u : Nat} {x : Xfer}

theorem State.completionPush_silent (silent : Desc.cmode x.desc = 0) : s.completionPush sp u x = s.left sp u x := if_pos silent

section

variable (pushes : Desc.cmode x.desc ≠ 0)

include pushes

section

variable (home : Desc.cremote x.desc = false)

include home

theorem State.completionPush_local : s.completionPush sp u x =
    match s.pushLocal sp (Desc.cqueue x.desc) x.pushHandle (s.countOf sp) with
    | some b => b.left sp u x
    | none => s.onSpire sp fun y => y.onXfer u x.id fun t => { t with push := .waiting } :=
  (if_neg pushes).trans (if_neg (Bool.eq_false_iff.mp home))

theorem State.completionPush_made {b : State} (made : s.pushLocal sp (Desc.cqueue x.desc) x.pushHandle (s.countOf sp) = some b) :
    s.completionPush sp u x = b.left sp u x := by
  rw [State.completionPush_local pushes home, made]

theorem State.completionPush_waits (full : s.pushLocal sp (Desc.cqueue x.desc) x.pushHandle (s.countOf sp) = none) :
    s.completionPush sp u x = s.onSpire sp fun y => y.onXfer u x.id fun t => { t with push := .waiting } := by
  rw [State.completionPush_local pushes home, full]

end

/-- A remote completion push sets out. -/
theorem State.completionPush_remote (away : Desc.cremote x.desc = true) (unsent : x.push = .none) : s.completionPush sp u x =
    (s.sendPush sp (.transfer u x.id) (Desc.cspire x.desc) (Desc.cqueue x.desc) x.pushHandle).2.onSpire sp fun y =>
      y.onXfer u x.id fun t => { t with push := .sent } :=
  (if_neg pushes).trans ((if_pos away).trans (if_neg (by rw [unsent]; decide)))

end

end

end Sys2Proof.Machine
end

section
/-! SUPPORT. Transfers, settled. -/

namespace Sys2Proof.Machine

/-! Completion. -/

section

variable {s : State} {sp : Fin 16} {u : Fin 4} {x : Xfer} (held : (s.spire sp.val).xfer u.val x.id = some x) (complete : x.complete = true)

include held complete

section

variable (quiet : Quiet s sp.val) (hb : s.core.hbmBad = [])

include quiet hb

/-- A transfer with no completion push to make any more leaves. -/
theorem transferComplete_leaves {b : State} (only : OnlySpire s b sp.val) (ctxs : (b.spire sp.val).ctxs = (s.spire sp.val).ctxs)
    (units : (b.spire sp.val).units = (s.spire sp.val).units) (made : s.completionPush sp.val u.val x = b.left sp.val u.val x) :
    ∃ t, execTransferComplete sp u x.id s = .next t ∧
      ((t.spire sp.val).unit u.val = ((s.spire sp.val).unit u.val).filter (fun z => decide (z.id ≠ x.id)) ∧ SpireAndCupolas (s.gateUp x) t sp.val) ∧
      (∀ j, (t.spire sp.val).queue j = (b.spire sp.val).queue j) ∧ (t.spire sp.val).ctr = (b.spire sp.val).ctr := by
  have idle : Quiet b sp.val := quiet.of_ctxs fun k _ => (congrArg (fun l : Tbl Ctx => Tbl.get {} k l) ctxs :)
  have unit : (b.spire sp.val).unit u.val = (s.spire sp.val).unit u.val := congrArg (Tbl.get [] u.val) units
  obtain ⟨frame, gone, queue, ctr⟩ := State.left_eq only idle hb u.val x
  exact ⟨_, (transferComplete_pushes held complete).trans (congrArg _ made), ⟨unit ▸ gone, frame⟩, queue, ctr⟩

/-- A transfer whose completion push changes its Spire leaves. -/
theorem transferComplete_made {f : Spire → Spire} (pushes : Desc.cmode x.desc ≠ 0) (home : Desc.cremote x.desc = false)
    (made : s.pushLocal sp.val (Desc.cqueue x.desc) x.pushHandle (s.countOf sp.val) = some (s.onSpire sp.val f))
    (ctxs : ∀ y, (f y).ctxs = y.ctxs) (units : ∀ y, (f y).units = y.units) : ∃ t, execTransferComplete sp u x.id s = .next t ∧
      ((t.spire sp.val).unit u.val = ((s.spire sp.val).unit u.val).filter (fun z => decide (z.id ≠ x.id)) ∧ SpireAndCupolas (s.gateUp x) t sp.val) ∧
      (∀ j, (t.spire sp.val).queue j = (f (s.spire sp.val)).queue j) ∧ (t.spire sp.val).ctr = (f (s.spire sp.val)).ctr := by
  have own : (s.onSpire sp.val f).spire sp.val = f (s.spire sp.val) := State.spire_onSpire ..
  rw [← own]
  exact transferComplete_leaves held complete quiet hb (OnlySpire.setSpire ..) (by rw [own, ctxs]) (by rw [own, units])
    (State.completionPush_made pushes home made)

end

/-- A completion push that its Spire does not take waits. -/
theorem transferComplete_waits (pushes : Desc.cmode x.desc ≠ 0) (home : Desc.cremote x.desc = false)
    (full : s.pushLocal sp.val (Desc.cqueue x.desc) x.pushHandle (s.countOf sp.val) = none) (q : Nat) : ∃ t, execTransferComplete sp u x.id s = .next t ∧
    OnlySpire s t sp.val ∧ (t.spire sp.val).queue q = (s.spire sp.val).queue q ∧ (t.spire sp.val).xfer u.val x.id = some { x with push := .waiting } := by
  refine ⟨_, (transferComplete_pushes held complete).trans (congrArg _ (State.completionPush_waits pushes home full)), OnlySpire.setSpire .., ?_,
    State.xfer_onXfer held fun _ h => h⟩
  rw [State.spire_onSpire]
  rfl

/-- A remote completion push sets out. -/
theorem transferComplete_remote (pushes : Desc.cmode x.desc ≠ 0) (away : Desc.cremote x.desc = true) (unsent : x.push = .none) :
    ∃ t, execTransferComplete sp u x.id s = .next t ∧ (t.spire sp.val).xfer u.val x.id = some { x with push := .sent } ∧
      SameSram s t ∧ SameHbm s t ∧ (∀ i, i ≠ sp.val → t.spire i = s.spire i) ∧
      t.core.pushes = s.core.pushes ++ [⟨s.core.nextId, sp.val, (s.owner sp.val).getD 16, .transfer u.val x.id, Desc.cspire x.desc, Desc.cqueue x.desc, x.pushHandle,
        .flying, 0⟩] :=
  ⟨_, (transferComplete_pushes held complete).trans (congrArg _ (State.completionPush_remote pushes away unsent)),
    State.xfer_onXfer (s := (s.sendPush sp.val (.transfer u.val x.id) (Desc.cspire x.desc) (Desc.cqueue x.desc) x.pushHandle).2) held fun _ h => h,
    fun _ _ => rfl, fun _ => rfl, fun _ hi => State.spire_onSpire_ne _ _ hi, rfl⟩

end

/-! The data request of one step. -/

section

variable {s : State} {sp : Fin 16} {p u : Nat} {x : Xfer} {c : ReqClass} (turn : HasTurn s sp.val p u c x)
  (data : s.listTurn sp.val p x = false) (fits : s.issueFits sp.val p x = true) (free : x.holds = false) (buffer : x.gathered = none)
  {g : Step} (step : s.stepOf sp.val p x = some g) (passes : s.stepPasses p x g = true) {r : Req} (made : s.gatherStep p x c s.core.nextId g = some r)

include turn data fits free buffer step passes made

/-- One that needs no place in memory but its tiles enters the mesh. -/
theorem HasTurn.sends (kind : Desc.dataKind x.desc = .write ∨ Desc.dataKind x.desc = .remote ∨ Desc.dataKind x.desc = .spanOut)
    (last : Desc.dataKind x.desc = .write → ∀ h, s.stepOf sp.val p (x.advance g) = some h → s.stepPasses p x h = false ∨ (x.advance g).listOpen h = true) :
    ∃ t, execDmaRequestIssue sp [] s .none = .next t ∧ Issued s t sp.val p u ((x.advance g).withReq (s.sentOf r)) := by
  obtain ⟨-, made_, -⟩ := State.gatherStep_eq made
  obtain ⟨a, stepped, run⟩ := turn.alone data fits free buffer step passes made (.inl rfl) last
  exact ⟨_, run, stepped.sends turn.owner rfl c (made_ ▸ kind)⟩

/-- One that is no write is issued alone. -/
theorem HasTurn.unwritten {kind : ReqKind} (known : Desc.dataKind x.desc = kind) (reads : kind ≠ .write) {cup : CupolaErr}
    (sound : cup = .none ∨ Desc.cupola x.desc = false) : r.kind = kind ∧ ∃ a, Stepped s a sp.val u (x.advance g) ∧
      execDmaRequestIssue sp [] s cup = .next ((a.launch sp.val u x r).finished sp.val u x c (s.countOf sp.val)) := by
  obtain ⟨-, made_, -⟩ := State.gatherStep_eq made
  exact ⟨made_.trans known, turn.alone data fits free buffer step passes made sound fun write => absurd (known.symm.trans write) reads⟩

end

/-- Settles O20: descriptors are read, requests issued or refused, and transfers end, each by the rule of its step. -/
theorem transfersRun : Obligations.TransfersRun := by
  refine ⟨fun s sp p u x cup bursts owner held unread live hb calm _ => ⟨fun waits => descriptorReadDone_waits owner held unread live waits bursts,
      fun goes => descriptorReadDone_described owner held unread live hb calm goes bursts,
      fun goes fresh => descriptorReadDone_spoiled owner held unread live hb calm goes fresh bursts⟩,
    fun s sp u x held => ⟨fun p c turn => ?_, fun r found _ behind => dmaRequestComplete_waits held found behind,
      fun r found done first live => dmaRequestComplete_ends held found done first live, fun read drains drained => drainRelease_releases held read drains drained,
      fun complete unsent quiet hb => ?_⟩⟩
  · refine ⟨fun list => ⟨fun passes => turn.listQueued list passes, fun fails calm => turn.listRefused list calm u.isLt fails⟩,
      fun data meets cup => turn.waits data meets cup, fun data fits free => ⟨fun g step buffer =>
        ⟨fun fails calm => turn.refused data fits calm u.isLt buffer step fails, fun r passes made => ?_⟩,
      fun r buffer kind => ⟨turn.ends data fits buffer kind, fun g step passes => turn.follows data fits free buffer kind step passes⟩⟩⟩
    refine ⟨fun reads straight cup => ?_, fun reads through => ⟨fun hit => ?_, fun miss => ?_⟩, fun tiles => ?_, fun slot => ?_,
      fun write last => turn.sends data fits free buffer step passes made (.inl write) fun _ => last,
      fun write h next through closed => turn.moves data fits free buffer step passes made write next through closed, State.gatherStep_bytes step made⟩
    · obtain ⟨kind, a, stepped, run⟩ := turn.unwritten data fits free buffer step passes made reads (by decide) (cup := cup) (.inr straight)
      obtain ⟨issued, queued⟩ := stepped.queues turn.owner rfl c kind straight
      exact ⟨_, run, issued, queued⟩
    · obtain ⟨kind, a, stepped, run⟩ := turn.unwritten data fits free buffer step passes made reads (by decide) (.inl rfl)
      exact ⟨_, run, stepped.hits turn.owner rfl c kind through hit⟩
    · obtain ⟨kind, a, stepped, run⟩ := turn.unwritten data fits free buffer step passes made reads (by decide) (.inl rfl)
      exact ⟨_, run, stepped.misses turn.owner rfl c kind through miss⟩
    · exact turn.sends data fits free buffer step passes made (.inr tiles) fun write => by obtain k | k := tiles <;> exact nomatch k.symm.trans write
    · obtain ⟨kind, a, stepped, run⟩ := turn.unwritten data fits free buffer step passes made slot (by decide) (.inl rfl)
      exact ⟨_, run, stepped.sendsSlot turn.owner rfl c kind⟩
  · refine ⟨fun silent => ?_, fun pushes home => ⟨fun stale => ?_, fun fresh unused => ?_, fun fresh used thawed room => ?_, fun fresh used full => ?_⟩,
      fun pushes away => transferComplete_remote held complete pushes away unsent⟩
    · obtain ⟨t, run, left, queues, -⟩ := transferComplete_leaves held complete quiet hb (OnlySpire.refl ..) rfl rfl (State.completionPush_silent silent)
      exact ⟨t, run, left, queues⟩
    · obtain ⟨t, run, left, queues, ctr⟩ := transferComplete_made held complete quiet hb pushes home (State.pushLocal_stale stale _) (fun _ => rfl) fun _ => rfl
      exact ⟨t, run, left, queues, congrArg SpireCtr.staleHandle ctr⟩
    · obtain ⟨t, run, left, queues, -⟩ := transferComplete_leaves held complete quiet hb (OnlySpire.refl ..) rfl rfl
        (State.completionPush_made pushes home (State.pushLocal_unused fresh unused _))
      exact ⟨t, run, left, queues⟩
    · have made := (State.pushLocal_eq used thawed x.pushHandle (s.countOf sp.val)).trans (if_pos (.inr room))
      obtain ⟨t, run, left, queues, -⟩ := transferComplete_made held complete quiet hb pushes home made (fun y => Spire.pushed_eq (·.ctxs) (fun _ _ _ => rfl) ..)
        fun y => Spire.pushed_eq (·.units) (fun _ _ _ => rfl) ..
      have pushed := (s.spire sp.val).pushed_queue false (Desc.cqueue x.desc) x.pushHandle (s.countOf sp.val)
      refine ⟨t, run, left, (queues _).trans ?_⟩
      rw [show s.staleFor sp.val (Desc.cqueue x.desc) x.pushHandle = false from fresh]
      exact pushed
    · exact transferComplete_waits held complete pushes home (State.pushLocal_full fresh used full _) _

end Sys2Proof.Machine
end

section
/-! SUPPORT. Packets: requests in flight, freezes, and writes to a tile byte by byte. -/

namespace Sys2Proof.Machine

/-! Requests. -/

theorem State.findReq_found {s : State} {sp u xid rid : Nat} {x : Xfer} {r : Req} (h : s.findReq sp u xid rid = some (x, r)) :
    (s.spire sp).xfer u xid = some x ∧ x.req rid = some r := by
  unfold State.findReq at h
  split at h
  · exact nomatch h
  · next y held =>
    obtain ⟨q, found, same⟩ := Option.map_eq_some_iff.mp h
    cases same
    exact ⟨held, found⟩

/-- A request that changes is found as what it has become. -/
theorem Xfer.req_onReq {x : Xfer} {id : Nat} {r : Req} (found : x.req id = some r) {f : Req → Req} (same : ∀ q, (f q).id = q.id) :
    (x.onReq id f).req id = some (f r) := by
  have own : r.id = id := by simpa using List.find?_some found
  have kept : ((fun q : Req => decide (q.id = id)) ∘ fun q : Req => if q.id = id then f q else q) = fun q => decide (q.id = id) := by
    funext q
    dsimp only [Function.comp_apply]
    split
    · rw [same]
    · rfl
  rw [Xfer.req, Xfer.onReq, List.find?_map, kept, ← Xfer.req, found]
  exact congrArg some (if_pos own)

theorem State.findReq_onReq {s : State} {sp u xid rid : Nat} {x : Xfer} {r : Req} (h : s.findReq sp u xid rid = some (x, r)) {f : Req → Req}
    (same : ∀ q, (f q).id = q.id) : (s.onReq sp u xid rid f).findReq sp u xid rid = some (x.onReq rid f, f r) := by
  obtain ⟨held, found⟩ := State.findReq_found h
  have held' : ((s.onReq sp u xid rid f).spire sp).xfer u xid = some (x.onReq rid f) := State.xfer_onXfer held fun _ e => e
  rw [State.findReq, held']
  exact congrArg (Option.map _) (Xfer.req_onReq found same)

/-- A request that changes leaves what is read off the Spires beside their transfers. -/
theorem State.onReq_spire {γ : Type} (g : Spire → γ) (hg : ∀ y : Spire, g y.unitless = g y) (s : State) (sp u xid rid : Nat) (f : Req → Req) (k : Nat) :
    g ((s.onReq sp u xid rid f).spire k) = g (s.spire k) := by
  by_cases hk : k = sp
  · rw [hk, State.onReq, State.spire_onSpire, ← hg]
    exact hg (s.spire sp)
  · rw [State.onReq, State.spire_onSpire_ne _ _ hk]

/-! Freezes. -/

theorem Spire.stopUnit_sramUe (x : Spire) (u : Nat) : (x.stopUnit u).ctr.sramUe = x.ctr.sramUe := rfl

theorem Spire.stopAllUnits_sramUe (x : Spire) : x.stopAllUnits.ctr.sramUe = x.ctr.sramUe := by
  simp only [Spire.stopAllUnits, List.foldl_cons, List.foldl_nil, Spire.stopUnit_sramUe]

theorem Spire.record_ctr (x : Spire) (master reason ctx detail ccyc tick : Nat) (mask : BitVec 6) :
    (x.record master reason ctx detail ccyc tick mask).ctr = x.ctr := by
  unfold Spire.record
  dsimp only
  split <;> rfl

/-- A freeze of a sequencer counts no error. -/
theorem State.freeze_sramUe (s : State) (sp reason detail addr : Nat) :
    ((s.freeze sp 0 reason detail addr).spire sp).ctr.sramUe = (s.spire sp).ctr.sramUe := by
  obtain e | ⟨n, e⟩ := s.freeze_spire sp 0 reason detail addr 0 0xFF
  · rw [e]
  · rw [e]
    show ((s.spire sp).afterFreeze 0 reason 0 detail (s.countOf sp) s.tickWord).ctr.sramUe = _
    rw [Spire.afterFreeze, if_pos rfl, if_pos rfl, Spire.stopAllUnits_sramUe, Spire.record_ctr]

/-- Freezing the Spires of a partition freezes each that has an owner in no reset. -/
theorem State.freezeAll_freezes {s : State} {p sp q : Nat} (own : sp ∈ s.spiresOf p) (owner : s.owner sp = some q) (calm : (s.part q).reset = .none)
    (reason detail addr : Nat) : bit1 ((s.freezeAll p reason detail addr).spire sp).frozen 0 = true := by
  obtain ⟨l, r, e⟩ := List.append_of_mem own
  unfold State.freezeAll
  rw [e, List.foldl_append, List.foldl_cons]
  refine List.foldlRecOn (motive := fun a : State => bit1 (a.spire sp).frozen 0 = true) r _ ?_ (fun a ha k _ => State.freeze_keeps_frozen ha ..)
  have before : (l.foldl (fun (a : State) k => a.freeze k 0 reason detail addr) s).lasting = s.lasting :=
    foldl_keeps State.lasting _ (fun _ _ => State.freeze_lasting ..) l s
  exact State.freeze_frozen ((State.eq_of_lasting (·.owner sp) (fun _ => rfl) before).trans owner) (State.eq_of_lasting (·.part q) (fun _ => rfl) before ▸ calm) ..

theorem State.freezeAll_core_eq {γ : Type} (g : Core → γ) (hg : ∀ c : Core, g { c with spires := [], writeBacks := [] } = g c) (s : State)
    (p reason detail addr : Nat) : g (s.freezeAll p reason detail addr).core = g s.core :=
  foldl_keeps (fun a : State => g a.core) _ (fun _ _ => State.freeze_core_eq g hg ..) _ _

/-! Writes to a tile. -/

/-- How far a place in a tile's SRAM lies behind another one, going round. -/
def sramAhead (from_ a : Nat) : Nat := (a % 0x40000 + 0x40000 - from_ % 0x40000) % 0x40000

theorem sramKey_inj {tile a k b : Nat} : sramKey k b = sramKey tile a ↔ k = tile ∧ sramAhead a b = 0 := by
  unfold sramKey sramAhead
  omega

theorem sramAhead_succ {a b : Nat} (h : sramAhead a b ≠ 0) : sramAhead (a + 1) b = sramAhead a b - 1 := by
  unfold sramAhead at *
  omega

theorem sramAhead_succ_self {a b : Nat} (h : sramAhead a b = 0) : sramAhead (a + 1) b = 0x3FFFF := by
  unfold sramAhead at *
  omega

/-- A read of a tile after a run of writes that is shorter than its SRAM. -/
theorem get_putSram (tile : Nat) (bs : List Byte) : ∀ (a : Nat) (m : Bytes) (k b : Nat), bs.length < 0x40000 →
    Tbl.get 0#8 (sramKey k b) (putSram m tile a bs) =
      if k = tile ∧ sramAhead a b < bs.length then bs.getD (sramAhead a b) 0#8 else Tbl.get 0#8 (sramKey k b) m := by
  induction bs with
  | nil => exact fun a m k b _ => (if_neg fun h => absurd h.2 (Nat.not_lt_zero _)).symm
  | cons v bs ih =>
    intro a m k b short
    rw [List.length_cons] at short
    rw [putSram, ih (a + 1) _ k b (by omega), Tbl.get_put]
    simp only [sramKey_inj, List.length_cons]
    by_cases here : sramAhead a b = 0
    · have past : ¬sramAhead (a + 1) b < bs.length := by rw [sramAhead_succ_self here]; omega
      by_cases hk : k = tile <;> simp [here, past, hk]
    · obtain ⟨i, place⟩ := Nat.exists_eq_succ_of_ne_zero here
      have next : sramAhead (a + 1) b = i := by rw [sramAhead_succ here, place]; rfl
      simp [place, next]

/-- What a write to a tile that no command makes changes of the core: the tile, the errors it overwrites, and what reads of it may find. -/
theorem State.tileWrite_core_eq {γ : Type} (g : Core → γ) (hg : ∀ c : Core, g { c with acc := [], sram := [], sramCe := [], sramUe := [] } = g c) (s : State)
    (tile a : Nat) (bs : List Byte) : g (s.tileWrite tile a bs).core = g s.core := by
  obtain ⟨x, e⟩ := s.takeFree.2.breakSpans_eq (spireOfTile tile) s.free tile a bs.length (s.countOf (spireOfTile tile))
  show g ((s.takeFree.2.breakSpans (spireOfTile tile) s.free tile a bs.length (s.countOf (spireOfTile tile))).sramWrite tile a bs).core = g s.core
  rw [e, ← hg]
  exact hg s.core

theorem State.tileWrite_sram (s : State) (tile a : Nat) (bs : List Byte) : (s.tileWrite tile a bs).core.sram = putSram s.core.sram tile a bs := by
  obtain ⟨x, e⟩ := s.takeFree.2.breakSpans_eq (spireOfTile tile) s.free tile a bs.length (s.countOf (spireOfTile tile))
  show ((s.takeFree.2.breakSpans (spireOfTile tile) s.free tile a bs.length (s.countOf (spireOfTile tile))).sramWrite tile a bs).core.sram = _
  rw [e]
  rfl

end Sys2Proof.Machine
end

section
/-! SUPPORT. Arbitrated packets: what lands, what waits, and what is discarded. -/

namespace Sys2Proof.Machine

open Host (Outcome)

/-! The landing buffers of the tiles of a packet. -/

theorem foldl_room_lt {f : Nat → Nat} {n : Nat} (l : List Nat) (m : Nat) :
    l.foldl (fun m t => min m (4096 - f t)) m < n ↔ m < n ∨ ∃ t ∈ l, 4096 - f t < n := by
  induction l generalizing m with
  | nil => simp
  | cons t l ih => rw [List.foldl_cons, ih, min_lt_iff, List.exists_mem_cons_iff, or_assoc]

theorem get_foldl_append (add : List Landed) {l : List Nat} (once : l.Nodup) (m : Tbl (List Landed)) (k : Nat) :
    Tbl.get [] k (l.foldl (fun m t => Tbl.put [] t (Tbl.get [] t m ++ add) m) m) = Tbl.get [] k m ++ (if k ∈ l then add else []) := by
  induction l generalizing m with
  | nil => exact (List.append_nil _).symm
  | cons t l ih =>
    obtain ⟨fresh, once⟩ := List.nodup_cons.mp once
    rw [List.foldl_cons, ih once, Tbl.get_put]
    by_cases hk : k = t
    · subst hk
      simp [fresh]
    · simp [hk]

/-- The bytes that a request's packet carries. -/
def Req.landLen (r : Req) (sp u xid : Nat) : Nat := (r.landing sp u xid).foldl (fun a l => a + l.bytes.length) 0

/-- How much of them has landed once the next flit has. -/
def Req.landUpto (r : Req) (sp u xid : Nat) : Nat := min (r.landLen sp u xid) (r.landed + 128)

/-- A request of whose packet the first `upto` of `len` bytes have landed. -/
def Req.flit (r : Req) (upto len : Nat) : Req :=
  if upto < len then { r with landed := upto } else { r with landed := upto, phase := .landing, left := r.tiles }

theorem Req.flit_id (r : Req) (upto len : Nat) : (r.flit upto len).id = r.id := by
  unfold Req.flit
  split <;> rfl

/-- The next flit of a request's packet lands in its tiles. -/
def State.landFlit (s : State) (sp u xid : Nat) (r : Req) : State :=
  s.onCore fun c => { c with
    landing := r.tiles.foldl (fun m t => Tbl.put [] t (Tbl.get [] t m ++ cutItems (r.landing sp u xid) r.landed (r.landUpto sp u xid)) m) c.landing
    ports := r.tiles ++ c.ports }

/-- A tile can take no flit in the present ccyc: no room, or its port has taken other data. -/
def State.refusesFlit (s : State) (tile : Nat) : Prop := 4096 < s.landed tile + 128 ∨ tile ∈ s.core.ports ∨ s.portReserved tile = true

/-- The next flit of a request's packet has landed in each of its tiles. -/
structure Lands (s t : State) (sp u xid : Nat) (r : Req) : Prop where
  sram : SameSram s t
  hbm : SameHbm s t
  ports : t.core.ports = r.tiles ++ s.core.ports
  landing : ∀ tile, Tbl.get [] tile t.core.landing =
    Tbl.get [] tile s.core.landing ++ (if tile ∈ r.tiles then cutItems (r.landing sp u xid) r.landed (r.landUpto sp u xid) else [])
  req : (t.findReq sp u xid r.id).map Prod.snd = some (r.flit (r.landUpto sp u xid) (r.landLen sp u xid))
  mesh : t.core.mesh = s.core.mesh

section

variable {s : State} {sp u : Nat} {x : Xfer} {r : Req}

theorem State.landPacket_waits (full : ∃ tile ∈ r.tiles, s.refusesFlit tile) : s.landPacket sp u x r = s := by
  obtain ⟨tile, mine, refuses⟩ := full
  refine if_pos ?_
  obtain room | port := refuses
  · exact .inl ((foldl_room_lt ..).mpr (.inr ⟨tile, mine, by omega⟩))
  · exact .inr (.inr (List.any_eq_true.mpr ⟨tile, mine, by simpa using port⟩))

theorem State.landPacket_lands (found : s.findReq sp u x.id r.id = some (x, r)) (once : r.tiles.Nodup) (more : r.landed < r.landLen sp u x.id)
    (takes : ∀ tile ∈ r.tiles, ¬s.refusesFlit tile) : Lands s (s.landPacket sp u x r) sp u x.id r := by
  have goes : s.landPacket sp u x r = (s.landFlit sp u x.id r).onReq sp u x.id r.id (·.flit (r.landUpto sp u x.id) (r.landLen sp u x.id)) := by
    refine if_neg ?_
    rintro (room | none_ | port)
    · obtain small | ⟨tile, mine, full⟩ := (foldl_room_lt ..).mp room
      · exact absurd small (by decide)
      · exact takes tile mine (.inl (by omega))
    · have : r.landUpto sp u x.id = r.landed := none_
      unfold Req.landUpto at this
      omega
    · obtain ⟨tile, mine, port⟩ := List.any_eq_true.mp port
      exact takes tile mine (.inr (by simpa using port))
  rw [goes]
  refine ⟨fun _ _ => rfl, fun _ => rfl, rfl, get_foldl_append _ once _, ?_, rfl⟩
  rw [State.findReq_onReq (s := s.landFlit sp u x.id r) found fun q => q.flit_id ..]
  rfl

end

/-! The end of a packet's way. -/

/-- A state with other counters of the mesh. -/
def State.onMesh (s : State) (f : MeshCtr → MeshCtr) : State := s.onCore fun c => { c with mesh := f c.mesh }

/-- A state in which one more packet has been found uncorrectable (R337); a free value stands for the address that the error may need. -/
def State.packetSpoilt (s : State) : State := s.takeFree.2.onMesh fun m => { m with ue := sat32 m.ue 1 }

/-- An engine whose request is over has been frozen: what memory holds, the mesh and the frozen master. -/
structure Dropped (s t : State) (sp u : Nat) (mesh : MeshCtr) : Prop where
  sram : SameSram s t
  hbm : SameHbm s t
  mesh : t.core.mesh = mesh
  frozen : bit1 (t.spire sp).frozen (u + 1) = true

/-- The end of a request leaves what is read off the core beside the Spires and the controllers. -/
theorem State.endReq_core_eq {γ : Type} (g : Core → γ) (hg : ∀ c : Core, g { c with spires := [], ctls := [] } = g c) (s : State) (sp u xid rid : Nat) :
    g (s.endReq sp u xid rid).core = g s.core := by
  obtain ⟨ctls, e⟩ := s.endReq_eq sp u xid rid
  rw [e, ← hg]
  exact hg s.core

theorem State.endReq_rest (s : State) (sp u xid rid : Nat) : { s.endReq sp u xid rid with core := s.core } = s := by
  obtain ⟨ctls, e⟩ := s.endReq_eq sp u xid rid
  rw [e]
  rfl

/-- A packet that is discarded ends its request and freezes its engine. -/
theorem State.endReq_freeze {s : State} {sp p : Nat} {u : Fin 5} (owner : s.owner sp = some p) (calm : (s.part p).reset = .none) (xid rid reason detail addr : Nat) :
    Dropped s ((s.endReq sp u.val xid rid).freeze sp (u.val + 1) reason detail addr) sp u.val s.core.mesh where
  sram := .of_eq ((State.freeze_core_eq (·.sram) (fun _ => rfl) ..).trans (State.endReq_core_eq (·.sram) (fun _ => rfl) ..))
  hbm := .of_eq ((State.freeze_core_eq (·.hbm) (fun _ => rfl) ..).trans (State.endReq_core_eq (·.hbm) (fun _ => rfl) ..))
  mesh := (State.freeze_core_eq (·.mesh) (fun _ => rfl) ..).trans (State.endReq_core_eq (·.mesh) (fun _ => rfl) ..)
  frozen := by
    have rest := s.endReq_rest sp u.val xid rid
    have owner' : (s.endReq sp u.val xid rid).owner sp = some p := (congrArg (State.owner · sp) rest).trans owner
    have calm' : ((s.endReq sp u.val xid rid).part p).reset = .none := (congrArg (fun a : State => (a.part p).reset) rest).trans calm
    exact State.freeze_master owner' calm' (Nat.succ_ne_zero _) (by omega) ..

section

variable {s : State} {sp u : Nat} {x : Xfer} {r : Req} (kind : r.kind = .read)

include kind

/-- A read request's packet bound to a tile of another partition is a delivery violation (R326). -/
theorem State.deliver_foreign (away : ∃ tile ∈ r.tiles, s.owner (spireOfTile tile) ≠ some x.part) : s.deliver sp u x r =
    ((s.onMesh fun m => { m with delivery := sat32 m.delivery 1 }).endReq sp u x.id r.id).freeze sp (u + 1) 5 x.index 0 := by
  have bound : r.tiles.any (fun t => decide (s.owner (spireOfTile t) ≠ some x.part)) = true := by simpa using away
  unfold State.deliver
  rw [if_neg (by simp [kind]), if_neg (by simp [kind]), if_pos bound]
  rfl

theorem State.deliver_home (home : ∀ tile ∈ r.tiles, s.owner (spireOfTile tile) = some x.part) (live : x.stopped = false) :
    s.deliver sp u x r = s.landPacket sp u x r := by
  have bound : ¬r.tiles.any (fun t => decide (s.owner (spireOfTile t) ≠ some x.part)) = true := by simpa using home
  unfold State.deliver
  rw [if_neg (by simp [kind]), if_neg (by simp [kind]), if_neg bound, if_neg (by simp [live]), if_neg (by simp [kind]), if_neg (by simp [kind])]

end

/-- A packet of a read request has come to its end, or waits for an earlier one (R329). -/
def State.arrive (s : State) (sp u : Nat) (x : Xfer) (r : Req) : State := if s.overtakes sp u r = true then s else s.deliver sp u x r

/-! The packet of a read request. -/

section

variable {s : State} {sp : Fin 16} {u : Fin 5} {x : Xfer} {r : Req} (found : s.findReq sp.val u.val x.id r.id = some (x, r)) (flies : r.phase = .mesh)
  (kind : r.kind = .read)

include found flies kind

omit found in
/-- It waits for nothing but an earlier packet of its way. -/
theorem State.packet_waits_iff (a : State) : (r.phase ≠ .mesh ∨ a.overtakes sp.val u.val r = true ∨ (!a.heldFits x r) = true) ↔ a.overtakes sp.val u.val r = true := by
  have fits : a.heldFits x r = true := by simp [State.heldFits, kind]
  simp [flies, fits]

/-- What becomes of it, by the fault that it meets. -/
theorem arbitratedPacket_eq (fault : PacketFault) : ∃ addr, execArbitratedPacket sp u x.id r.id fault s = .next (match fault with
    | .data => (s.packetSpoilt.endReq sp.val u.val x.id r.id).freeze sp.val (u.val + 1) 0x0A addr addr
    | .engine => (s.packetSpoilt.endReq sp.val u.val x.id r.id).freezeAll x.part 0x0A addr addr
    | .tag router => (s.packetSpoilt.onReq sp.val u.val x.id r.id
        fun q => { q with phase := .lost }).event 0x0205 3 none router.val
    | .corrected words => (s.takeFree.2.onMesh fun m => { m with ce := sat32 m.ce words }).arrive sp.val u.val x r
    | .none => s.takeFree.2.arrive sp.val u.val x r) := by
  have goes : ¬(r.phase = .landing ∨ r.phase = .lost ∨ (r.phase = .done ∧ (!r.acknowledged) = true)) := by simp [flies]
  refine ⟨if r.kind = .hold ∧ Desc.kind x.desc = 3 then sramAperture (r.tiles.headD 0) r.far else r.errorAddr s.free, ?_⟩
  unfold execArbitratedPacket
  rw [found]
  refine (if_neg goes).trans ?_
  cases fault with
  | none => exact congrArg Outcome.next (if_congr (State.packet_waits_iff flies kind _) rfl rfl)
  | corrected words => exact congrArg Outcome.next (if_congr (State.packet_waits_iff flies kind _) rfl rfl)
  | data => rfl
  | engine => rfl
  | tag router => rfl

theorem arbitratedPacket_sound : execArbitratedPacket sp u x.id r.id .none s = .next (s.takeFree.2.arrive sp.val u.val x r) :=
  (arbitratedPacket_eq found flies kind .none).choose_spec

theorem arbitratedPacket_corrected (words : Nat) : execArbitratedPacket sp u x.id r.id (.corrected words) s =
    .next ((s.takeFree.2.onMesh fun m => { m with ce := sat32 m.ce words }).arrive sp.val u.val x r) :=
  (arbitratedPacket_eq found flies kind (.corrected words)).choose_spec

/-- One that an earlier packet of its way is ahead of waits (R329). -/
theorem arbitratedPacket_behind (behind : s.overtakes sp.val u.val r = true) :
    ∃ t, execArbitratedPacket sp u x.id r.id .none s = .next t ∧ t.core = s.core :=
  ⟨_, arbitratedPacket_sound found flies kind, (congrArg State.core (if_pos behind : s.takeFree.2.arrive sp.val u.val x r = s.takeFree.2) :)⟩

/-- One whose data is uncorrectable is discarded, and freezes its engine (R337). -/
theorem arbitratedPacket_data {p : Nat} (owner : s.owner sp.val = some p) (calm : (s.part p).reset = .none) :
    ∃ t, execArbitratedPacket sp u x.id r.id .data s = .next t ∧ SameSram s t ∧ SameHbm s t ∧
      t.core.mesh.ue = sat32 s.core.mesh.ue 1 ∧ bit1 (t.spire sp.val).frozen (u.val + 1) = true := by
  obtain ⟨addr, run⟩ := arbitratedPacket_eq found flies kind .data
  obtain ⟨sram, hbm, mesh, frozen⟩ := State.endReq_freeze (s := s.packetSpoilt) (u := u) owner calm x.id r.id 0x0A addr addr
  exact ⟨_, run, sram, hbm, congrArg MeshCtr.ue mesh, frozen⟩

/-- One whose engine field is uncorrectable is discarded, and freezes every Spire of its partition (R337). -/
theorem arbitratedPacket_engine : ∃ t, execArbitratedPacket sp u x.id r.id .engine s = .next t ∧ SameSram s t ∧ SameHbm s t ∧
    t.core.mesh.ue = sat32 s.core.mesh.ue 1 ∧
    ∀ i ∈ s.spiresOf x.part, ∀ p, s.owner i = some p → (s.part p).reset = .none → bit1 (t.spire i).frozen 0 = true := by
  obtain ⟨addr, run⟩ := arbitratedPacket_eq found flies kind .engine
  have rest : { s.packetSpoilt.endReq sp.val u.val x.id r.id with core := s.packetSpoilt.core } = s.packetSpoilt := State.endReq_rest ..
  refine ⟨_, run, .of_eq ?_, .of_eq ?_, ?_, fun i mine p owner calm => ?_⟩
  · exact (State.freezeAll_core_eq (·.sram) (fun _ => rfl) ..).trans (s.packetSpoilt.endReq_core_eq (·.sram) (fun _ => rfl) ..)
  · exact (State.freezeAll_core_eq (·.hbm) (fun _ => rfl) ..).trans (s.packetSpoilt.endReq_core_eq (·.hbm) (fun _ => rfl) ..)
  · exact (State.freezeAll_core_eq (·.mesh.ue) (fun _ => rfl) ..).trans (s.packetSpoilt.endReq_core_eq (·.mesh.ue) (fun _ => rfl) ..)
  · have mine' : i ∈ (s.packetSpoilt.endReq sp.val u.val x.id r.id).spiresOf x.part := (congrArg (State.spiresOf · x.part) rest :) ▸ mine
    have owner' : (s.packetSpoilt.endReq sp.val u.val x.id r.id).owner i = some p := (congrArg (State.owner · i) rest).trans owner
    have calm' : ((s.packetSpoilt.endReq sp.val u.val x.id r.id).part p).reset = .none := (congrArg (fun b : State => (b.part p).reset) rest).trans calm
    exact State.freezeAll_freezes mine' owner' calm' ..

/-- One whose tag is uncorrectable is lost, is logged, and freezes nothing (R337). -/
theorem arbitratedPacket_tag (router : Fin 4096) : ∃ t, execArbitratedPacket sp u x.id r.id (.tag router) s = .next t ∧ SameSram s t ∧ SameHbm s t ∧
    t.core.mesh.ue = sat32 s.core.mesh.ue 1 ∧ t.log.pos = s.log.pos + 1 ∧ (∀ i, (t.spire i).frozen = (s.spire i).frozen) ∧
    (t.findReq sp.val u.val x.id r.id).map Prod.snd = some { r with phase := .lost } := by
  obtain ⟨addr, run⟩ := arbitratedPacket_eq found flies kind (.tag router)
  let b := s.packetSpoilt.onReq sp.val u.val x.id r.id fun q => { q with phase := .lost }
  have core : (b.event 0x0205 3 none router.val).core = b.core := State.event_core ..
  refine ⟨_, run, .of_eq ?_, .of_eq ?_, ?_, State.event_pos .., fun i => ?_, ?_⟩
  · exact (congrArg Core.sram core :)
  · exact (congrArg Core.hbm core :)
  · exact (congrArg (fun c : Core => c.mesh.ue) core :)
  · exact (congrArg Spire.frozen (State.event_spire ..)).trans (s.packetSpoilt.onReq_spire (·.frozen) (fun _ => rfl) ..)
  · have same : (b.event 0x0205 3 none router.val).findReq sp.val u.val x.id r.id = b.findReq sp.val u.val x.id r.id := by
      unfold State.findReq
      rw [State.event_spire]
    refine (congrArg (Option.map Prod.snd) same).trans ?_
    exact congrArg (Option.map Prod.snd) (State.findReq_onReq (s := s.packetSpoilt) found (f := fun q => { q with phase := .lost }) fun _ => rfl)

/-! One that nothing is ahead of. -/

section

variable (first : s.overtakes sp.val u.val r = false)

include first

omit found flies kind in
theorem State.arrive_first : s.arrive sp.val u.val x r = s.deliver sp.val u.val x r := if_neg (Bool.eq_false_iff.mp first)

/-- One to a tile of another partition is discarded, and freezes its engine. -/
theorem arbitratedPacket_foreign {p : Nat} (owner : s.owner sp.val = some p) (calm : (s.part p).reset = .none)
    (away : ∃ tile ∈ r.tiles, s.owner (spireOfTile tile) ≠ some x.part) :
    ∃ t, execArbitratedPacket sp u x.id r.id .none s = .next t ∧ SameSram s t ∧ SameHbm s t ∧
      t.core.mesh.delivery = sat32 s.core.mesh.delivery 1 ∧ bit1 (t.spire sp.val).frozen (u.val + 1) = true := by
  have run := arbitratedPacket_sound found flies kind
  rw [State.arrive_first (s := s.takeFree.2) first, State.deliver_foreign (s := s.takeFree.2) kind away] at run
  obtain ⟨sram, hbm, mesh, frozen⟩ := State.endReq_freeze (s := s.takeFree.2.onMesh fun m => { m with delivery := sat32 m.delivery 1 }) (u := u) owner calm
    x.id r.id 5 x.index 0
  exact ⟨_, run, sram, hbm, congrArg MeshCtr.delivery mesh, frozen⟩

variable (live : x.stopped = false) (home : ∀ tile ∈ r.tiles, s.owner (spireOfTile tile) = some x.part)

include live home

/-- One to a tile that can take no flit waits. -/
theorem arbitratedPacket_waits (full : ∃ tile ∈ r.tiles, s.refusesFlit tile) :
    ∃ t, execArbitratedPacket sp u x.id r.id .none s = .next t ∧ t.core = s.core := by
  have run := arbitratedPacket_sound found flies kind
  rw [State.arrive_first (s := s.takeFree.2) first, State.deliver_home (s := s.takeFree.2) kind home live, State.landPacket_waits (s := s.takeFree.2) full] at run
  exact ⟨_, run, rfl⟩

section

variable (once : r.tiles.Nodup) (more : r.landed < r.landLen sp.val u.val x.id) (takes : ∀ tile ∈ r.tiles, ¬s.refusesFlit tile)

include once more takes

/-- The next flit of one to tiles that can take it lands. -/
theorem arbitratedPacket_lands : ∃ t, execArbitratedPacket sp u x.id r.id .none s = .next t ∧ Lands s t sp.val u.val x.id r := by
  have run := arbitratedPacket_sound found flies kind
  rw [State.arrive_first (s := s.takeFree.2) first, State.deliver_home (s := s.takeFree.2) kind home live] at run
  obtain ⟨sram, hbm, ports, landing, req, mesh⟩ := State.landPacket_lands (s := s.takeFree.2) found once more takes
  exact ⟨_, run, sram, hbm, ports, landing, req, mesh⟩

/-- So it does with single-bit errors, which are counted. -/
theorem arbitratedPacket_lands_corrected (words : Nat) : ∃ t, execArbitratedPacket sp u x.id r.id (.corrected words) s = .next t ∧
    Lands (s.onMesh fun m => { m with ce := sat32 m.ce words }) t sp.val u.val x.id r := by
  have run := arbitratedPacket_corrected found flies kind words
  rw [State.arrive_first (s := s.takeFree.2.onMesh _) first, State.deliver_home (s := s.takeFree.2.onMesh _) kind home live] at run
  obtain ⟨sram, hbm, ports, landing, req, mesh⟩ := State.landPacket_lands (s := s.takeFree.2.onMesh fun m => { m with ce := sat32 m.ce words }) found once more takes
  exact ⟨_, run, sram, hbm, ports, landing, req, mesh⟩

end

end

end

end Sys2Proof.Machine
end

section
/-! SUPPORT. Landing buffers: what drains into SRAM, what waits, and what is dropped. -/

namespace Sys2Proof.Machine

theorem State.banksFree_iff (s : State) (sp tile a n : Nat) : s.banksFree sp tile a n = true ↔ ∀ b ∈ banksOf a n, b ∉ s.banksUsed sp tile := by
  simp [State.banksFree]

/-! What drains. -/

/-- How many bytes of landed data drain at once: those up to the end of a 64 B line (R152). -/
def Landed.drains (l : Landed) : Nat := min l.bytes.length (64 - l.taddr % 64)

theorem Landed.length_drains (l : Landed) : (l.bytes.take l.drains).length = l.drains := List.length_take_of_le (Nat.min_le_left ..)

theorem Landed.drains_lt (l : Landed) : l.drains < 0x40000 := by
  unfold Landed.drains
  omega

/-- What stands in a landing buffer once its oldest data has drained. -/
def Landed.leaves (l : Landed) (rest : List Landed) : List Landed :=
  if l.drains < l.bytes.length then { l with taddr := l.taddr + l.drains, bytes := l.bytes.drop l.drains } :: rest else rest

/-- A request whose data has drained in one of its tiles: it is complete where that was the last one (R252). -/
def Req.drainedFrom (r : Req) (tile : Nat) : Req :=
  let t := r.left.filter (· ≠ tile)
  { r with left := t, phase := if t.isEmpty ∧ r.phase = .landing then .done else r.phase }

/-- The state in which the oldest data of a tile's landing buffer has been written. -/
def State.drainWrite (s : State) (tile : Nat) (l : Landed) (errs : LineErr) : State :=
  let f := s.landingErrors tile l.taddr l.drains (l.bytes.take l.drains) errs
  (f.1.tileWrite tile l.taddr f.2).useBanks (spireOfTile tile) .drain [(tile, l.taddr, l.drains)]

/-- What the memory holds once the oldest data leaves: it is written, but for what a stopped transfer has read (R290). -/
def State.drainMemory (s : State) (tile : Nat) (l : Landed) (errs : LineErr) : State := if s.dropsLanded l = true then s else s.drainWrite tile l errs

/-- A state in whose landing buffer of a tile the given data is left. -/
def State.leave (s : State) (tile : Nat) (left : List Landed) : State := s.onCore fun c => { c with landing := Tbl.put [] tile left c.landing }

/-- The oldest data has left a tile's landing buffer: all else but the requests of transfers is as in a given state. -/
structure Drained (m t : State) (tile : Nat) (left : List Landed) : Prop where
  landing : ∀ k, Tbl.get [] k t.core.landing = if k = tile then left else Tbl.get [] k m.core.landing
  sram : t.core.sram = m.core.sram
  hbm : t.core.hbm = m.core.hbm
  spire : ∀ k, (t.spire k).unitless = (m.spire k).unitless

section

variable {s : State} {tile : Fin 4096} {l : Landed} {rest : List Landed} (held : Tbl.get [] tile.val s.core.landing = l :: rest)

include held

theorem landingBufferDrain_waits (kept : s.dropsLanded l = false) (used : ¬s.banksFree (spireOfTile tile.val) tile.val l.taddr l.drains = true) (errs : LineErr) :
    execLandingBufferDrain tile s errs = .next s := by
  unfold execLandingBufferDrain
  rw [held]
  refine if_pos ?_
  rw [kept, Bool.not_false, Bool.true_and, Bool.not_eq_true']
  exact Bool.eq_false_iff.mpr used

theorem landingBufferDrain_goes (free : s.dropsLanded l = true ∨ s.banksFree (spireOfTile tile.val) tile.val l.taddr l.drains = true) (errs : LineErr) :
    ∃ t, execLandingBufferDrain tile s errs = .next t ∧
      Drained (s.drainMemory tile.val l errs) t tile.val (l.leaves rest) := by
  have goes : ¬(!s.dropsLanded l && !s.banksFree (spireOfTile tile.val) tile.val l.taddr l.drains) = true := by
    obtain h | h := free <;> simp [h]
  have run : execLandingBufferDrain tile s errs =
      if (l.leaves rest).any (fun m => decide (m.spire = l.spire) && decide (m.unit = l.unit) && decide (m.xfer = l.xfer) && decide (m.req = l.req)) = true
      then .next ((s.drainMemory tile.val l errs).leave tile.val (l.leaves rest))
      else .next (((s.drainMemory tile.val l errs).leave tile.val (l.leaves rest)).onReq l.spire l.unit l.xfer l.req (·.drainedFrom tile.val)) := by
    unfold execLandingBufferDrain
    rw [held]
    exact if_neg goes
  rw [run]
  split
  · exact ⟨_, rfl, fun _ => Tbl.get_put .., rfl, rfl, fun _ => rfl⟩
  · exact ⟨_, rfl, fun _ => Tbl.get_put .., rfl, rfl, fun _ => State.onReq_spire Spire.unitless (fun _ => rfl) ((s.drainMemory tile.val l errs).leave _ _) ..⟩

end

/-! The write. -/

theorem State.useBanks_core_eq {γ : Type} (g : Core → γ) (hb : ∀ c : Core, g { c with bankUse := [] } = g c) (s : State) (sp : Nat) (k : BankAccess)
    (l : List (Nat × Nat × Nat)) : g (s.useBanks sp k l).core = g s.core := by
  obtain ⟨u, e⟩ := s.useBanks_eq sp k l
  rw [e]
  exact (hb { s.core with bankUse := u }).symm.trans (hb s.core)

theorem State.drainWrite_core_eq {γ : Type} (g : Core → γ) (hg : ∀ c : Core, g { c with acc := [], sram := [], sramCe := [], sramUe := [] } = g c)
    (hb : ∀ c : Core, g { c with bankUse := [] } = g c) (s : State) (tile : Nat) (l : Landed) (errs : LineErr) :
    g (s.drainWrite tile l errs).core = g (s.landingErrors tile l.taddr l.drains (l.bytes.take l.drains) errs).1.core := by
  let f := s.landingErrors tile l.taddr l.drains (l.bytes.take l.drains) errs
  exact (State.useBanks_core_eq g hb (f.1.tileWrite tile l.taddr f.2) ..).trans (f.1.tileWrite_core_eq g hg tile l.taddr f.2)

theorem State.drainWrite_sram (s : State) (tile : Nat) (l : Landed) (errs : LineErr) :
    let f := s.landingErrors tile l.taddr l.drains (l.bytes.take l.drains) errs
    (s.drainWrite tile l errs).core.sram = putSram f.1.core.sram tile l.taddr f.2 := by
  intro f
  exact (State.useBanks_core_eq (·.sram) (fun _ => rfl) (f.1.tileWrite tile l.taddr f.2) ..).trans (State.tileWrite_sram ..)

/-! Errors. -/

/-- What a drain finds leaves what is read off the core beside the Spires and the scheduled writes. -/
theorem State.landingErrors_core_eq {γ : Type} (g : Core → γ) (hg : ∀ c : Core, g { c with spires := [], writeBacks := [] } = g c) (s : State)
    (tile a n : Nat) (bs : List Byte) (errs : LineErr) : g (s.landingErrors tile a n bs errs).1.core = g s.core := by
  unfold State.landingErrors
  dsimp only
  split
  · rw [← hg]
    exact hg s.core
  · refine (State.freeze_core_eq g hg ..).trans ?_
    rw [← hg]
    exact hg s.core

/-- A state whose drain has met one uncorrectable word, and `ce` words with a single-bit error. -/
def State.metDouble (s : State) (tile ce : Nat) : State :=
  (s.onCtr (spireOfTile tile) fun c => { c with sramCe := sat32 c.sramCe ce, sramUe := sat32 c.sramUe 1 }).takeFree.2

theorem State.metDouble_sramUe (s : State) (tile ce : Nat) :
    ((s.metDouble tile ce).spire (spireOfTile tile)).ctr.sramUe = sat32 (s.spire (spireOfTile tile)).ctr.sramUe 1 :=
  congrArg (fun y : Spire => y.ctr.sramUe) (State.spire_onSpire s (spireOfTile tile) fun x =>
    { x with ctr := { x.ctr with sramCe := sat32 x.ctr.sramCe ce, sramUe := sat32 x.ctr.sramUe 1 } })

/-- An uncorrectable word that a drain meets is counted, and freezes the Spire of the tile. -/
theorem State.landingErrors_double {s : State} {tile a n p : Nat} {k : Fin 8} (owner : s.owner (spireOfTile tile) = some p) (calm : (s.part p).reset = .none)
    (starts : a < a - a % 64 + 8 * k.val + 8) (reaches : a - a % 64 + 8 * k.val < a + n) (bs : List Byte) :
    let y := (s.landingErrors tile a n bs ⟨[], [k]⟩).1.spire (spireOfTile tile)
    y.ctr.sramUe = sat32 (s.spire (spireOfTile tile)).ctr.sramUe 1 ∧ bit1 y.frozen 0 = true := by
  have met : [k].eraseDups.filter (fun k : Fin 8 => decide (a < a - a % 64 + 8 * k.val + 8) && decide (a - a % 64 + 8 * k.val < a + n)) = [k] := by
    simp [List.eraseDups_cons, starts, reaches]
  obtain ⟨ce, addr, e⟩ : ∃ ce addr, (s.landingErrors tile a n bs ⟨[], [k]⟩).1 = (s.metDouble tile ce).freeze (spireOfTile tile) 0 0x0A addr addr := by
    unfold State.landingErrors
    dsimp only
    rw [met]
    exact ⟨_, _, rfl⟩
  dsimp only
  rw [e]
  exact ⟨(State.freeze_sramUe ..).trans (s.metDouble_sramUe tile ce), State.freeze_frozen (s := s.metDouble tile ce) (p := p) owner calm ..⟩

/-! A drain. -/

section

variable {s : State} {tile : Fin 4096} {l : Landed} {rest : List Landed} (held : Tbl.get [] tile.val s.core.landing = l :: rest)

include held

/-- What a stopped transfer has read leaves the buffer unwritten. -/
theorem landingBufferDrain_drops (drops : s.dropsLanded l = true) (errs : LineErr) :
    ∃ t, execLandingBufferDrain tile s errs = .next t ∧ Drained s t tile.val (l.leaves rest) := by
  have goes := landingBufferDrain_goes held (.inl drops) errs
  rwa [State.drainMemory, if_pos drops] at goes

variable (kept : s.dropsLanded l = false) (free : s.banksFree (spireOfTile tile.val) tile.val l.taddr l.drains = true)

include kept free

/-- What else stands there is written. -/
theorem landingBufferDrain_writes (errs : LineErr) :
    ∃ t, execLandingBufferDrain tile s errs = .next t ∧ Drained (s.drainWrite tile.val l errs) t tile.val (l.leaves rest) := by
  have goes := landingBufferDrain_goes held (.inr free) errs
  rwa [State.drainMemory, if_neg (Bool.eq_false_iff.mp kept)] at goes

/-- Sound data reaches its places in the tile. -/
theorem landingBufferDrain_sound : ∃ t, execLandingBufferDrain tile s ⟨[], []⟩ = .next t ∧ SameHbm s t ∧
    (∀ k a, t.sramByte k a = if k = tile.val ∧ sramAhead l.taddr a < l.drains then l.bytes.getD (sramAhead l.taddr a) 0#8 else s.sramByte k a) ∧
    ∀ k, Tbl.get [] k t.core.landing = if k = tile.val then l.leaves rest else Tbl.get [] k s.core.landing := by
  obtain ⟨t, run, landing, sram, hbm, -⟩ := landingBufferDrain_writes held kept free ⟨[], []⟩
  have buffers : (s.drainWrite tile.val l ⟨[], []⟩).core.landing = s.core.landing := State.drainWrite_core_eq (·.landing) (fun _ => rfl) (fun _ => rfl) ..
  refine ⟨t, run, .of_eq (hbm.trans (State.drainWrite_core_eq (·.hbm) (fun _ => rfl) (fun _ => rfl) ..)), fun k a => ?_, fun k => buffers ▸ landing k⟩
  have put : t.core.sram = putSram s.core.sram tile.val l.taddr (l.bytes.take l.drains) := sram.trans (s.drainWrite_sram ..)
  have short : (l.bytes.take l.drains).length < 0x40000 := by rw [l.length_drains]; exact l.drains_lt
  rw [State.sramByte, put, get_putSram _ _ _ _ _ _ short, l.length_drains]
  refine ite_congr rfl (fun inside => ?_) fun _ => rfl
  rw [List.getD_eq_getElem?_getD, List.getElem?_take_of_lt inside.2, List.getD_eq_getElem?_getD]

/-- An uncorrectable word is counted, and freezes the Spire of the tile. -/
theorem landingBufferDrain_double {p : Nat} {k : Fin 8} (owner : s.owner (spireOfTile tile.val) = some p) (calm : (s.part p).reset = .none)
    (starts : l.taddr < l.taddr - l.taddr % 64 + 8 * k.val + 8) (reaches : l.taddr - l.taddr % 64 + 8 * k.val < l.taddr + l.drains) :
    ∃ t, execLandingBufferDrain tile s ⟨[], [k]⟩ = .next t ∧ SameHbm s t ∧
      (t.spire (spireOfTile tile.val)).ctr.sramUe = sat32 (s.spire (spireOfTile tile.val)).ctr.sramUe 1 ∧
      bit1 (t.spire (spireOfTile tile.val)).frozen 0 = true := by
  obtain ⟨t, run, -, -, hbm, spire⟩ := landingBufferDrain_writes held kept free ⟨[], [k]⟩
  obtain ⟨counted, frozen⟩ := State.landingErrors_double owner calm starts reaches (l.bytes.take l.drains)
  have same : (s.drainWrite tile.val l ⟨[], [k]⟩).spire (spireOfTile tile.val) =
      (s.landingErrors tile.val l.taddr l.drains (l.bytes.take l.drains) ⟨[], [k]⟩).1.spire (spireOfTile tile.val) :=
    State.drainWrite_core_eq (fun c : Core => (Tbl.get {} (spireOfTile tile.val) c.spires : Spire)) (fun _ => rfl) (fun _ => rfl) ..
  have rest := spire (spireOfTile tile.val)
  rw [same] at rest
  refine ⟨t, run, .of_eq (hbm.trans ?_), (congrArg (fun y : Spire => y.ctr.sramUe) rest).trans counted,
    (congrArg (fun y : Spire => bit1 y.frozen 0) rest).trans frozen⟩
  exact (State.drainWrite_core_eq (·.hbm) (fun _ => rfl) (fun _ => rfl) ..).trans (State.landingErrors_core_eq (·.hbm) (fun _ => rfl) ..)

end

end Sys2Proof.Machine
end

section
/-! SUPPORT. Packets and landing buffers, settled. -/

namespace Sys2Proof.Machine

theorem Lands.all {s t : State} {sp u xid : Nat} {r : Req} (h : Lands s t sp u xid r) : SameSram s t ∧ SameHbm s t ∧ t.core.ports = r.tiles ++ s.core.ports ∧
    (∀ tile, Tbl.get [] tile t.core.landing = Tbl.get [] tile s.core.landing ++
      (if tile ∈ r.tiles then cutItems (r.landing sp u xid) r.landed (r.landUpto sp u xid) else [])) ∧
    (t.findReq sp u xid r.id).map Prod.snd = some (r.flit (r.landUpto sp u xid) (r.landLen sp u xid)) := ⟨h.sram, h.hbm, h.ports, h.landing, h.req⟩

theorem Drained.all {s t : State} {tile : Nat} {left : List Landed} (h : Drained s t tile left) : SameSram s t ∧ SameHbm s t ∧
    ∀ k, Tbl.get [] k t.core.landing = if k = tile then left else Tbl.get [] k s.core.landing := ⟨.of_eq h.sram, .of_eq h.hbm, h.landing⟩

/-- Settles O21: a packet by what stands at its tiles and by the fault it meets, and a landing buffer by what it holds and by its banks. -/
theorem packetsDeliver : Obligations.PacketsDeliver := by
  refine fun s sp u x r => ⟨fun found flies kind live => ⟨arbitratedPacket_behind found flies kind, fun first => ⟨fun home once more => ⟨fun takes => ?_, fun full => ?_⟩,
      fun p owner calm _ => arbitratedPacket_foreign found flies kind first owner calm⟩,
    fun p owner calm _ => arbitratedPacket_data found flies kind owner calm, arbitratedPacket_engine found flies kind, arbitratedPacket_tag found flies kind⟩,
    fun tile l rest held => ⟨fun drops errs => ?_, fun kept used errs => ?_, fun kept free => ?_⟩, rfl⟩
  · have takes' : ∀ tile ∈ r.tiles, ¬s.refusesFlit tile := fun tile mine => by
      obtain ⟨room, port, unreserved⟩ := takes tile mine
      simp [State.refusesFlit, port, unreserved, room]
    refine ⟨?_, fun words => ?_⟩
    · obtain ⟨t, run, lands⟩ := arbitratedPacket_lands found flies kind first live home once more takes'
      exact ⟨t, run, lands.all, lands.mesh⟩
    · obtain ⟨t, run, lands⟩ := arbitratedPacket_lands_corrected found flies kind first live home once more takes' words
      exact ⟨t, run, lands.all, lands.mesh⟩
  · exact arbitratedPacket_waits found flies kind first live home full
  · obtain ⟨t, run, drained⟩ := landingBufferDrain_drops held drops errs
    exact ⟨t, run, drained.all⟩
  · obtain ⟨b, mine, taken⟩ := used
    exact landingBufferDrain_waits held kept (fun free => (s.banksFree_iff ..).mp free b mine taken) errs
  · have free' := (s.banksFree_iff (spireOfTile tile.val) tile.val l.taddr l.drains).mpr free
    exact ⟨landingBufferDrain_sound held kept free', fun k p owner calm => landingBufferDrain_double held kept free' owner calm⟩

end Sys2Proof.Machine
end

section
/-! SUPPORT. The controllers of HBM: what they take and serve, and what the bursts of a request meet. -/

namespace Sys2Proof.Machine

/-! The queues. -/

/-- A state with other controllers. -/
def State.withCtls (s : State) (ctls : Tbl Ctl) : State := s.onCore fun c => { c with ctls := ctls }

theorem State.enterWrite_takes {s : State} {a : Nat} (room : (s.ctl (pseudoOf a)).writes < 64) : ∃ ctls, s.enterWrite a = some (s.withCtls ctls) :=
  State.enterWrite_room room

/-- A write queue that is full takes no write. -/
theorem State.enterWrite_full {s : State} {a : Nat} (full : 64 ≤ (s.ctl (pseudoOf a)).writes) : s.enterWrite a = none := if_neg (Nat.not_lt.mpr full)

section

variable {s : State} {a sp u xid rid : Nat} {q : QRead}
  (queued : (s.ctl (pseudoOf a)).reads.find? (fun r => decide (r.sp = sp ∧ r.unit = u ∧ r.xfer = xid ∧ r.req = rid)) = some q)

include queued

/-- A read whose turn it is not stays in its queue. -/
theorem State.serveRead_waits (later : (s.ctl (pseudoOf a)).mayServe q = false) : s.serveRead a sp u xid rid = none := by
  unfold State.serveRead
  simp only [queued, later, Bool.false_eq_true, if_false]

/-- A read that is served leaves its queue with the bytes it has, and nothing but the controllers changes. -/
theorem State.serveRead_serves (next : (s.ctl (pseudoOf a)).mayServe q = true) :
    ∃ ctls, s.serveRead a sp u xid rid = some (q.bytes, s.withCtls ctls) := by
  unfold State.serveRead
  simp only [queued, next, if_true]
  exact ⟨_, rfl⟩

end

/-! The bursts that a request meets. -/

/-- A state with other controllers, other counts of the stacks, and other uncorrectable bursts. -/
def State.withBursts (s : State) (ctls : Tbl Ctl) (counts : Tbl Stack) (bad : List Nat) : State :=
  { s with core := { s.core with ctls := ctls, hbmStacks := counts, hbmBad := bad } }

/-- Where no burst was uncorrectable, the only one may be that which a request has just met. -/
theorem State.bursts_met {s : State} (hb : s.core.hbmBad = []) (ctls : Tbl Ctl) (bad : Option Nat) (a : Nat) (b : BurstRec) :
    ∃ counts, ((s.withCtls ctls).hbmSpoil bad).countBursts a b =
      s.withBursts ctls counts (bad.map (· / 32)).toList := by
  have spoilt : (s.withCtls ctls).hbmSpoil bad = s.withBursts ctls s.core.hbmStacks (bad.map (· / 32)).toList := by
    cases bad with
    | none => simp only [State.hbmSpoil, State.withCtls, State.onCore, State.withBursts, Option.map_none, Option.toList_none, ← hb]
    | some f => simp only [State.hbmSpoil, State.withCtls, State.onCore, State.withBursts, hb, List.filter_nil, Option.map_some, Option.toList_some]
  obtain ⟨counts, counted⟩ := (s.withBursts ctls s.core.hbmStacks (bad.map (· / 32)).toList).countBursts_eq a b
  exact ⟨counts, (congrArg (State.countBursts · a b) spoilt).trans counted⟩

/-- The burst of an address that a read covers is one that the read meets. -/
theorem State.badBurst_covered {s : State} {a f n : Nat} (bad : s.core.hbmBad = [f / 32]) (low : a ≤ f) (high : f < a + n) :
    s.badBurst a n = some (f / 32 * 32) := by
  have meets : (decide (f / 32 * 32 < a + n) && decide (a < f / 32 * 32 + 32)) = true := by
    simp only [Bool.and_eq_true, decide_eq_true_eq]
    omega
  rw [State.badBurst, State.badIn, bad, List.filter_cons_of_pos (by exact meets)]
  rfl

/-- No write meets an uncorrectable burst where there is none. -/
theorem State.badBeneath_none {s : State} (hb : s.core.hbmBad = []) (r : Req) : s.badBeneath r = [] := by
  rw [State.badBeneath, hb]
  rfl

/-- A burst that a write fills only in part, and does meet, is beneath it. -/
theorem State.badBeneath_part {s : State} {f : Nat} {r : Req} (bad : s.core.hbmBad = [f]) (part : r.covers f = false)
    (meets : ∃ q ∈ r.pieces, f * 32 < r.far + q.far + q.len ∧ r.far + q.far < f * 32 + 32) : s.badBeneath r = [f] := by
  have hit : (!r.covers f && r.pieces.any fun q => decide (f * 32 < r.far + q.far + q.len) && decide (r.far + q.far < f * 32 + 32)) = true := by
    simpa [part] using meets
  rw [State.badBeneath, bad, List.filter_cons_of_pos (by exact hit)]
  rfl

theorem State.countUe_eq (s : State) (l : List Nat) : ∃ counts, s.countUe l = { s with core := { s.core with hbmStacks := counts } } := by
  refine List.foldlRecOn (motive := fun a : State => ∃ counts, a = { s with core := { s.core with hbmStacks := counts } }) l _ ⟨s.core.hbmStacks, rfl⟩ ?_
  rintro a ⟨counts, rfl⟩ b -
  exact ⟨_, rfl⟩

/-- A request that met uncorrectable bursts is over: they are counted, and its engine is frozen. -/
def State.burstFreeze (s : State) (bursts : List Nat) (sp u xid rid addr : Nat) : State :=
  ((s.countUe bursts).endReq sp u xid rid).freeze sp (u + 1) 9 addr addr

theorem State.burstFreeze_frame {s : State} {sp p : Nat} {u : Fin 4} (owner : s.owner sp = some p) (calm : (s.part p).reset = .none)
    (ctls : Tbl Ctl) (counts : Tbl Stack) (bad bursts : List Nat) (xid rid addr : Nat) :
    let t := (s.withBursts ctls counts bad).burstFreeze bursts sp u.val xid rid addr
    SameSram s t ∧ SameHbm s t ∧ bit1 (t.spire sp).frozen (u.val + 1) = true := by
  obtain ⟨counts, counted⟩ := (s.withBursts ctls counts bad).countUe_eq bursts
  rw [State.burstFreeze, counted]
  obtain ⟨sram, hbm, -, frozen⟩ := State.endReq_freeze (s := s.withBursts ctls counts bad) (u := u.castSucc) owner calm xid rid 9 addr addr
  exact ⟨sram, hbm, frozen⟩

/-! Data that sets out. -/

/-- A request has its bytes, which set out for its tiles. -/
def State.dataOut (s : State) (sp u xid rid : Nat) (bytes : Req → List Byte) : State :=
  (s.onReq sp u xid rid fun q => { q with bytes := bytes q }).sendReq sp u xid rid

section

variable {s : State} {sp u xid rid : Nat} {x : Xfer} {r : Req} (found : s.findReq sp u xid rid = some (x, r))

include found

theorem State.dataOut_findReq (bytes : Req → List Byte) : ((s.dataOut sp u xid rid bytes).findReq sp u xid rid).map Prod.snd =
    some { r with bytes := bytes r, phase := .mesh, sent := s.core.nextId, landed := 0 } := by
  have given := State.findReq_onReq found (f := fun q => { q with bytes := bytes q }) fun _ => rfl
  exact congrArg (Option.map Prod.snd) (State.findReq_onReq (s := (s.onReq sp u xid rid fun q => { q with bytes := bytes q }).freshId.2) given
    (f := fun q => { q with phase := .mesh, sent := s.core.nextId, landed := 0 }) fun _ => rfl)

theorem State.sendAccepted_findReq : ((s.sendAccepted sp u xid rid).findReq sp u xid rid).map Prod.snd =
    some { r with phase := .done, sent := s.core.nextId } :=
  congrArg (Option.map Prod.snd) (State.findReq_onReq (s := s.freshId.2) found (f := fun q => { q with phase := .done, sent := s.core.nextId }) fun _ => rfl)

end

/-- A request that changes leaves the other Spires. -/
theorem State.onReq_spire_ne (s : State) {sp i : Nat} (other : i ≠ sp) (u xid rid : Nat) (f : Req → Req) : (s.onReq sp u xid rid f).spire i = s.spire i :=
  State.spire_onSpire_ne _ _ other

theorem State.dataOut_spire (s : State) {sp i : Nat} (other : i ≠ sp) (u xid rid : Nat) (bytes : Req → List Byte) :
    (s.dataOut sp u xid rid bytes).spire i = s.spire i :=
  (State.onReq_spire_ne (s.onReq sp u xid rid fun q => { q with bytes := bytes q }).freshId.2 other u xid rid _).trans (s.onReq_spire_ne other ..)

end Sys2Proof.Machine
end

section
/-! SUPPORT. The pieces of a write, byte by byte. -/

namespace Sys2Proof.Machine

/-- HBM after the pieces of a write, each with its share of the bytes. -/
def putPieces (far : Nat) : List Piece → List Byte → Bytes → Bytes
  | [], _, m => m
  | p :: ps, bs, m => putPieces far ps (bs.drop p.len) (putHbm m (far + p.far) (bs.take p.len))

/-- What a write changes is the bytes of HBM, the Cupolas, and which bursts are uncorrectable. -/
theorem State.writePieces_eq (s : State) (r : Req) : ∃ cupolas bad,
    s.writePieces r = { s with core := { s.core with hbm := putPieces r.far r.pieces r.bytes s.core.hbm, cupolas := cupolas, hbmBad := bad } } := by
  have fold (ps : List Piece) : ∀ (a : State) (bs : List Byte), ∃ cupolas bad,
      (ps.foldl (fun (a : State × List Byte) p => (a.1.hbmWrite (r.far + p.far) (a.2.take p.len), a.2.drop p.len)) (a, bs)).1 =
        { a with core := { a.core with hbm := putPieces r.far ps bs a.core.hbm, cupolas := cupolas, hbmBad := bad } } := by
    induction ps with
    | nil => exact fun a bs => ⟨a.core.cupolas, a.core.hbmBad, rfl⟩
    | cons p ps ih => exact fun a bs => ih (a.hbmWrite (r.far + p.far) (bs.take p.len)) (bs.drop p.len)
  obtain ⟨cupolas, bad, e⟩ := fold r.pieces s r.bytes
  exact ⟨cupolas, _, congrArg (fun a : State => a.onCore fun c => { c with hbmBad := c.hbmBad.filter fun b => !r.covers b }) e⟩

/-- Whether a piece of a request at an address covers another address. -/
def Piece.covers (p : Piece) (far a : Nat) : Prop := far + p.far ≤ a ∧ a < far + p.far + p.len

/-- A byte that no piece covers stays. -/
theorem get_putPieces_outside {far a : Nat} (ps : List Piece) : ∀ (bs : List Byte) (m : Bytes), (∀ p ∈ ps, ¬p.covers far a) →
    Tbl.get 0#8 a (putPieces far ps bs m) = Tbl.get 0#8 a m := by
  induction ps with
  | nil => exact fun _ _ _ => rfl
  | cons p ps ih =>
    intro bs m outside
    obtain ⟨here, rest⟩ := List.forall_mem_cons.mp outside
    have short : (bs.take p.len).length ≤ p.len := List.length_take_le ..
    unfold Piece.covers at here
    rw [putPieces, ih _ _ rest, putHbm, Tbl.get_putRun, if_neg (by omega)]

/-- A byte of a piece that no later piece covers is its byte of the request. -/
theorem get_putPieces_inside {far i : Nat} {q : Piece} {post : List Piece} (inside : i < q.len) (last : ∀ p ∈ post, ¬p.covers far (far + q.far + i))
    (pre : List Piece) : ∀ (bs : List Byte) (m : Bytes), (pre.map (·.len)).sum + q.len ≤ bs.length →
    Tbl.get 0#8 (far + q.far + i) (putPieces far (pre ++ q :: post) bs m) = bs.getD ((pre.map (·.len)).sum + i) 0#8 := by
  induction pre with
  | nil =>
    intro bs m enough
    rw [List.map_nil, List.sum_nil, Nat.zero_add] at *
    have whole : (bs.take q.len).length = q.len := List.length_take_of_le enough
    rw [List.nil_append, putPieces, get_putPieces_outside post _ _ last, putHbm, Tbl.get_putRun, if_pos (by omega), Nat.add_sub_cancel_left,
      List.getD_eq_getElem?_getD, List.getD_eq_getElem?_getD, List.getElem?_take_of_lt inside]
  | cons p pre ih =>
    intro bs m enough
    rw [List.map_cons, List.sum_cons] at *
    rw [List.cons_append, putPieces, ih _ _ (by rw [List.length_drop]; omega), List.getD_eq_getElem?_getD, List.getD_eq_getElem?_getD, List.getElem?_drop,
      Nat.add_assoc]

end Sys2Proof.Machine
end

section
/-! SUPPORT. Requests that the controllers answer: writes that are accepted, and reads that are served. -/

namespace Sys2Proof.Machine

section

variable {s : State} {sp : Fin 16} {u : Fin 4} {x : Xfer} {r : Req} (found : s.findReq sp.val u.val x.id r.id = some (x, r)) (far : r.phase = .far) (b : BurstRec)

include found far

/-! Writes. -/

section

variable (kind : r.kind = .write) (running : s.core.hbmMode = .running)

include kind running

/-- A write whose controller has no room waits. -/
theorem hbmWriteAccept_full (full : 64 ≤ (s.ctl (pseudoOf r.far)).writes) (bad : Bool) : execHbmWriteAccept sp u x.id r.id bad s b = .next s := by
  unfold execHbmWriteAccept
  simp only [found, far, kind, running, ne_eq, not_true_eq_false, or_self, if_false, State.enterWrite_full full]

section

variable (hb : s.core.hbmBad = []) (room : (s.ctl (pseudoOf r.far)).writes < 64)

include hb room

/-- What a write that its controller takes comes to: it is performed, unless an uncorrectable burst is beneath it. -/
theorem hbmWriteAccept_takes (bad : Bool) : ∃ ctls counts, let m := s.withBursts ctls counts ((if bad then some r.far else none).map (· / 32)).toList
    (m.badBeneath r = [] → execHbmWriteAccept sp u x.id r.id bad s b = .next ((m.writePieces r).sendAccepted sp.val u.val x.id r.id)) ∧
    (∀ f l, m.badBeneath r = f :: l →
      execHbmWriteAccept sp u x.id r.id bad s b = .next (m.burstFreeze (m.badBeneath r) sp.val u.val x.id r.id (f * 32))) := by
  obtain ⟨ctls, enters⟩ := State.enterWrite_takes room
  obtain ⟨counts, met⟩ := State.bursts_met hb ctls (if bad then some r.far else none) r.far b
  refine ⟨ctls, counts, fun good => ?_, fun f l beneath => ?_⟩
  · unfold execHbmWriteAccept
    simp only [found, far, kind, running, ne_eq, not_true_eq_false, or_self, if_false, enters, met, good]
  · unfold execHbmWriteAccept
    simp only [found, far, kind, running, ne_eq, not_true_eq_false, or_self, if_false, enters, met, beneath]
    rfl

/-- An accepted write puts its pieces into HBM, in their order, and its acknowledgement sets out. -/
theorem hbmWriteAccept_writes : ∃ t, execHbmWriteAccept sp u x.id r.id false s b = .next t ∧ SameSram s t ∧
    t.core.hbm = putPieces r.far r.pieces r.bytes s.core.hbm ∧
    (t.findReq sp.val u.val x.id r.id).map Prod.snd = some { r with phase := .done, sent := s.core.nextId } := by
  obtain ⟨ctls, counts, run, -⟩ := hbmWriteAccept_takes found far b kind running hb room false
  obtain ⟨cupolas, bad, written⟩ := (s.withBursts ctls counts []).writePieces_eq r
  refine ⟨_, run (State.badBeneath_none rfl r), ?_, ?_, ?_⟩
  · exact .of_eq (congrArg (·.core.sram) written)
  · exact congrArg (·.core.hbm) written
  · have found' : ((s.withBursts ctls counts []).writePieces r).findReq sp.val u.val x.id r.id = some (x, r) :=
      (congrArg (State.findReq · sp.val u.val x.id r.id) written).trans found
    refine (State.sendAccepted_findReq found').trans ?_
    exact congrArg (fun n => some { r with phase := .done, sent := n }) (congrArg (·.core.nextId) written :)

/-- One that fills only a part of an uncorrectable burst is not performed, and freezes its engine. -/
theorem hbmWriteAccept_spoilt {p : Nat} (owner : s.owner sp.val = some p) (calm : (s.part p).reset = .none) (part : r.covers (r.far / 32) = false)
    (meets : ∃ q ∈ r.pieces, r.far / 32 * 32 < r.far + q.far + q.len ∧ r.far + q.far < r.far / 32 * 32 + 32) :
    ∃ t, execHbmWriteAccept sp u x.id r.id true s b = .next t ∧ SameSram s t ∧ SameHbm s t ∧ bit1 (t.spire sp.val).frozen (u.val + 1) = true := by
  obtain ⟨ctls, counts, -, run⟩ := hbmWriteAccept_takes found far b kind running hb room true
  exact ⟨_, run _ _ (State.badBeneath_part rfl part meets), State.burstFreeze_frame owner calm ..⟩

end

end

/-! Reads. -/

section

variable (kind : r.kind = .read) {q : QRead}
  (queued : (s.ctl (pseudoOf r.far)).reads.find? (fun q => decide (q.sp = sp.val ∧ q.unit = u.val ∧ q.xfer = x.id ∧ q.req = r.id)) = some q)

include kind queued

/-- A read whose turn it is not waits. -/
theorem hbmReadComplete_waits (later : (s.ctl (pseudoOf r.far)).mayServe q = false) (bad : Option Nat) :
    execHbmReadComplete sp u x.id r.id bad s b = .next s := by
  unfold execHbmReadComplete
  simp only [found, far, kind, ne_eq, not_true_eq_false, false_and, or_self, if_false, State.serveRead_waits queued later]

section

variable (hb : s.core.hbmBad = []) (next : (s.ctl (pseudoOf r.far)).mayServe q = true)

include hb next

/-- What a read that is served comes to: its bytes set out, unless it meets an uncorrectable burst. -/
theorem hbmReadComplete_serves (bad : Option Nat) : ∃ ctls counts, let m := s.withBursts ctls counts (bad.map (· / 32)).toList
    (m.badBurst r.far r.len = none → x.stopped = false →
      execHbmReadComplete sp u x.id r.id bad s b = .next (m.dataOut sp.val u.val x.id r.id fun _ => q.bytes)) ∧
    (∀ f, m.badBurst r.far r.len = some f →
      execHbmReadComplete sp u x.id r.id bad s b = .next (m.burstFreeze (m.badIn r.far r.len) sp.val u.val x.id r.id f)) := by
  obtain ⟨ctls, served⟩ := State.serveRead_serves queued next
  obtain ⟨counts, met⟩ := State.bursts_met hb ctls bad r.far b
  refine ⟨ctls, counts, fun good live => ?_, fun f hit => ?_⟩
  · unfold execHbmReadComplete
    simp only [found, far, kind, ne_eq, not_true_eq_false, false_and, or_self, if_false, served, met, good, live, Bool.false_eq_true]
    rfl
  · unfold execHbmReadComplete
    simp only [found, far, kind, ne_eq, not_true_eq_false, false_and, or_self, if_false, served, met, hit]
    rfl

/-- A read that meets no uncorrectable burst gets the bytes that it took as it was accepted. -/
theorem hbmReadComplete_answers (live : x.stopped = false) : ∃ t, execHbmReadComplete sp u x.id r.id none s b = .next t ∧ SameSram s t ∧ SameHbm s t ∧
    { t with core := s.core } = s ∧ (∀ i, i ≠ sp.val → t.spire i = s.spire i) ∧
    (t.findReq sp.val u.val x.id r.id).map Prod.snd = some { r with bytes := q.bytes, phase := .mesh, sent := s.core.nextId, landed := 0 } := by
  obtain ⟨ctls, counts, run, -⟩ := hbmReadComplete_serves found far b kind queued hb next none
  exact ⟨_, run (State.badBurst_none rfl ..) live, fun _ _ => rfl, fun _ => rfl, rfl, fun i other => State.dataOut_spire _ other ..,
    State.dataOut_findReq (s := s.withBursts ctls counts []) found _⟩

/-- One that meets an uncorrectable burst freezes its engine. -/
theorem hbmReadComplete_spoilt {p a : Nat} (owner : s.owner sp.val = some p) (calm : (s.part p).reset = .none) (low : r.far ≤ a) (high : a < r.far + r.len) :
    ∃ t, execHbmReadComplete sp u x.id r.id (some a) s b = .next t ∧ SameSram s t ∧ SameHbm s t ∧ bit1 (t.spire sp.val).frozen (u.val + 1) = true := by
  obtain ⟨ctls, counts, -, run⟩ := hbmReadComplete_serves found far b kind queued hb next (some a)
  exact ⟨_, run _ (State.badBurst_covered rfl low high), State.burstFreeze_frame owner calm ..⟩

end

end

end

end Sys2Proof.Machine
end

section
/-! SUPPORT. Fills of the Cupolas. -/

namespace Sys2Proof.Machine

/-! Lines that are placed. -/

theorem Cupola.touch_eq (c : Cupola) (line : Nat) : ∃ sets, c.touch line = { c with sets := sets } := by
  unfold Cupola.touch
  dsimp only
  split
  · exact ⟨_, rfl⟩
  · exact ⟨c.sets, rfl⟩

/-- Placing a line changes the sets alone. -/
theorem Cupola.place_eq (c : Cupola) (line : Nat) : ∃ sets, c.place line = { c with sets := sets } := by
  unfold Cupola.place
  dsimp only
  split
  · exact c.touch_eq line
  · exact ⟨_, rfl⟩

theorem Tbl.mem_insert_self {α : Type} (k : Nat) (v : α) (t : Tbl α) : (k, v) ∈ Tbl.insert k v t := by
  induction t with
  | nil => exact List.mem_singleton_self _
  | cons e t ih =>
    rw [Tbl.insert]
    split
    · exact List.mem_cons_self
    · split
      · exact List.mem_cons_self
      · exact List.mem_cons_of_mem _ ih

/-- The line that a way has been given is found in its set. -/
theorem CupolaSet.wayOf_given (ways : Tbl Nat) (w line tree : Nat) : (CupolaSet.wayOf { ways := Tbl.put 0 w (line + 1) ways, tree := tree } line).isSome = true := by
  have entry : (w, line + 1) ∈ Tbl.put 0 w (line + 1) ways := by
    rw [Tbl.put, if_neg (Nat.succ_ne_zero line)]
    exact Tbl.mem_insert_self ..
  rw [CupolaSet.wayOf, Option.isSome_map, List.find?_isSome]
  exact ⟨_, entry, decide_eq_true rfl⟩

theorem Cupola.touch_holds {c : Cupola} {line : Nat} (held : c.holds line = true) : (c.touch line).holds line = true := by
  obtain ⟨w, way⟩ := Option.isSome_iff_exists.mp held
  unfold Cupola.touch
  simp only [way]
  rw [Cupola.holds, Tbl.get_put_same]
  exact held

/-- A line that has been placed is held. -/
theorem Cupola.place_holds (c : Cupola) (line : Nat) : (c.place line).holds line = true := by
  unfold Cupola.place
  dsimp only
  split
  · next held => exact Cupola.touch_holds held
  · rw [Cupola.holds, Tbl.get_put_same]
    exact CupolaSet.wayOf_given ..

/-- Without reads that queue for want of a fill, none starts. -/
theorem State.dequeue_idle {s : State} {h : Nat} (none_ : (s.cupola h).queued = []) (n : Nat) : s.dequeue n h = s := by
  cases n with
  | zero => rfl
  | succ n =>
    unfold State.dequeue
    simp only [none_]

/-! The end of a fill. -/

/-- A Cupola whose fill of a line has ended: the line is placed, unless a write to it was accepted meanwhile. -/
def Cupola.filled (c : Cupola) (line : Nat) (stale : Bool) : Cupola :=
  let c1 := { c with fills := c.fills.filter (fun g => decide (g.line ≠ line)) }
  if stale then c1 else c1.place line

/-- A read that waited for a fill has its bytes, or is over where its transfer has been stopped. -/
def State.fillGives (s : State) (sp u xid rid : Nat) : State :=
  match s.findReq sp u xid rid with
  | none => s
  | some (x, _) => if x.stopped then s.endReq sp u xid rid else s.dataOut sp u xid rid fun q => s.hbmRead q.far q.len

theorem State.fillGives_live {s : State} {sp u xid rid : Nat} {x : Xfer} {r : Req} (found : s.findReq sp u xid rid = some (x, r)) (live : x.stopped = false) :
    s.fillGives sp u xid rid = s.dataOut sp u xid rid fun q => s.hbmRead q.far q.len := by
  unfold State.fillGives
  simp only [found, live, Bool.false_eq_true, if_false]

theorem Cupola.filled_queues (c : Cupola) (line : Nat) (stale : Bool) :
    (c.filled line stale).fills = c.fills.filter (fun g => decide (g.line ≠ line)) ∧ (c.filled line stale).queued = c.queued := by
  cases stale with
  | true => exact ⟨rfl, rfl⟩
  | false =>
    obtain ⟨sets, e⟩ := Cupola.place_eq { c with fills := c.fills.filter (fun g => decide (g.line ≠ line)) } line
    rw [Cupola.filled, if_neg Bool.false_ne_true, e]
    exact ⟨rfl, rfl⟩

/-- A state in which a controller has answered for a fill, and its Cupola has taken the line. -/
def State.fillEnds (s : State) (h line : Nat) (stale : Bool) (ctls : Tbl Ctl) (counts : Tbl Stack) : State :=
  (s.withBursts ctls counts []).setCupola h ((s.cupola h).filled line stale)

theorem Cupola.filled_holds (c : Cupola) (line : Nat) : (c.filled line false).holds line = true := Cupola.place_holds ..

section

variable {s : State} {east : Bool} {line sp u : Nat} {x : Xfer} {r : Req} {f : Fill} {q : QRead} (hb : s.core.hbmBad = [])
  (pending : (s.cupola (b2n east)).fills.find? (fun f => decide (f.line = line)) = some f) (idle : (s.cupola (b2n east)).queued = [])
  (queued : (s.ctl (pseudoOf (line * 256))).reads.find? (fun q => decide (q.sp = 16 + b2n east ∧ q.unit = 0 ∧ q.xfer = line ∧ q.req = 0)) = some q)
  (next : (s.ctl (pseudoOf (line * 256))).mayServe q = true) (waits : f.waiters = [(sp, u, x.id, r.id)])
  (found : s.findReq sp u x.id r.id = some (x, r)) (live : x.stopped = false)

include hb pending idle queued next waits found live

/-- A fill that ends gives the one read that waits its bytes, and its Cupola the line. -/
theorem cupolaFillComplete_delivers (b : BurstRec) : ∃ ctls counts, execCupolaFillComplete east line none s b =
    .next ((s.fillEnds (b2n east) line f.stale ctls counts).dataOut sp u x.id r.id fun q => s.hbmRead q.far q.len) := by
  obtain ⟨ctls, served⟩ := State.serveRead_serves queued next
  obtain ⟨counts, met⟩ := State.bursts_met hb ctls none (line * 256) b
  have good : (s.withBursts ctls counts []).badBurst (line * 256) 256 = none := State.badBurst_none rfl ..
  have still : ((s.fillEnds (b2n east) line f.stale ctls counts).cupola (b2n east)).queued = [] := by
    rw [State.fillEnds, State.cupola_setCupola, (Cupola.filled_queues ..).2, idle]
  have run : execCupolaFillComplete east line none s b = .next (f.waiters.foldl (fun a w => a.fillGives w.1 w.2.1 w.2.2.1 w.2.2.2)
      ((s.fillEnds (b2n east) line f.stale ctls counts).dequeue ((s.cupola (b2n east)).queued.length + 1) (b2n east))) := by
    unfold execCupolaFillComplete
    simp only [pending, served, met, Option.map_none, Option.toList_none, good]
    rfl
  rw [State.dequeue_idle still, waits, List.foldl_cons, List.foldl_nil] at run
  exact ⟨ctls, counts, run.trans (congrArg _ (State.fillGives_live (s := s.fillEnds (b2n east) line f.stale ctls counts) found live))⟩

end

end Sys2Proof.Machine
end

section
/-! SUPPORT. Window scrubs. -/

namespace Sys2Proof.Machine

/-! What a change of an object leaves. -/

/-- A change of an object is a change of the store, and the notices and answers that it brings. -/
theorem State.setObj_leaves {γ : Type} (g : State → γ) (store : ∀ (a : State) (f : StoreSt), g { a with store := f } = g a)
    (event : ∀ (a : State) code sev part detail, g (a.event code sev part detail) = g a) (post : ∀ (a : State) fn bs, g (a.post fn bs) = g a)
    (ended : ∀ (a : State) p, g (a.endUnselectable p) = g a) (s : State) (i : Nat) (x : ObjSt) : g (s.setObj i x) = g s := by
  unfold State.setObj
  dsimp only
  split
  · exact store ..
  · split
    · exact store ..
    · split
      · rw [post, post, event, store]
      · rw [foldl_keeps g State.endUnselectable ended, post, post, event, store]

/-- The accesses and imports that wait. -/
def State.waits (s : State) : List WaitOp × List (Nat × Nat × List Byte × Nat) := (s.host.waiting, s.host.heldImports)

theorem State.signal_waits (s : State) (fn vec : Nat) : (s.signal fn vec).waits = s.waits := by
  unfold State.signal
  split <;> rfl

theorem State.event_waits (s : State) (code sev : Nat) (part : Option Nat) (detail : Nat) (ext : Option (List Byte)) :
    (s.event code sev part detail ext).waits = s.waits := by
  unfold State.event
  dsimp only
  rw [apply_ite State.waits, State.signal_waits, ite_self]
  cases ext <;> rfl

theorem State.post_waits (s : State) (fn : Nat) (bs : List Byte) : (s.post fn bs).waits = s.waits := by
  unfold State.post
  dsimp only
  split
  · rfl
  · exact State.signal_waits ..

theorem State.endUnselectable_waits (s : State) (p : Nat) : (s.endUnselectable p).waits = s.waits := by
  unfold State.endUnselectable
  split
  · rfl
  · split
    · exact State.post_waits ..
    · rfl

theorem State.setObj_waits (s : State) (i : Nat) (x : ObjSt) : (s.setObj i x).waits = s.waits :=
  State.setObj_leaves State.waits (fun _ _ => rfl) (fun _ _ _ _ _ => State.event_waits ..) State.post_waits State.endUnselectable_waits s i x

/-- A change of one partition leaves of each what it does not set. -/
theorem State.onPart_partField {γ : Type} (g : Part → γ) {f : Part → Part} (same : ∀ x, g (f x) = g x) (s : State) (k p : Nat) :
    g ((s.onPart k f).part p) = g (s.part p) := by
  by_cases h : p = k
  · rw [h, State.part_onPart, same]
  · rw [State.part_onPart_ne _ _ h]

theorem State.endUnselectable_scrubs (p : Nat) (s : State) (k : Nat) : ((s.endUnselectable k).part p).scrubs = (s.part p).scrubs := by
  unfold State.endUnselectable
  split
  · rfl
  · split
    · exact (congrArg (fun l : Tbl Part => Part.scrubs (Tbl.get {} p l)) (State.finish_parts ..)).trans
        (s.onPart_partField Part.scrubs (f := fun y => { y with switch := none }) (fun _ => rfl) k p)
    · rfl

theorem State.setObj_scrubs (p : Nat) (s : State) (i : Nat) (x : ObjSt) : ((s.setObj i x).part p).scrubs = (s.part p).scrubs :=
  State.setObj_leaves (fun a => (a.part p).scrubs) (fun _ _ => rfl) (fun _ _ _ _ _ => by rw [State.event_part])
    (fun _ _ _ => by rw [State.part, State.post_parts]; rfl) (State.endUnselectable_scrubs p) s i x

/-! Step 6 of a reset begins. -/

/-- Where objects are to be staged again, the rest of the device stays, and the partition goes on to the next step of its reset. -/
structure Restages (s t : State) (p : Nat) : Prop where
  core : t.core = s.core
  ports : t.ports = s.ports
  waits : t.waits = s.waits
  scrubs : (t.part p).scrubs = (s.part p).scrubs
  reset : (t.part p).reset = .restage ∨ (t.part p).reset = .restart

theorem State.beginRestage_restages (s : State) (p : Nat) : Restages s (s.beginRestage p) p := by
  unfold State.beginRestage
  dsimp only
  generalize (List.range s.cfg.objects.length).filter _ = lost
  have kept {γ : Type} (g : State → γ) (set : ∀ (a : State) i x, g (a.setObj i x) = g a) :
      g (lost.foldl (fun (a : State) i => a.setObj i { a.obj i with staging := .notStaged, badReadBacks := 0 }) s) = g s :=
    foldl_keeps g _ (fun a i => set a i _) lost s
  refine ⟨kept State.core State.setObj_core, kept State.ports State.setObj_ports, kept State.waits State.setObj_waits, ?_, ?_⟩
  · rw [State.part_onPart]
    exact kept (fun a => (a.part p).scrubs) (State.setObj_scrubs p)
  · rw [State.part_onPart]
    dsimp only
    split
    · exact .inr rfl
    · exact .inl rfl

/-! What waits for a scrub. -/

/-- Nothing waits for a scrub: no access of a host, no import, and no WRITE from another device. -/
structure State.Unawaited (s : State) : Prop where
  waits : s.waits = ([], [])
  writes : ∀ i, i < 8 → (s.port i).heldWrites = []

theorem State.releaseWrites_idle {s : State} (none_ : ∀ i, i < 8 → (s.port i).heldWrites = []) : ∃ ports, s.releaseWrites = { s with ports := ports } := by
  refine (List.foldlRecOn (motive := fun a : State => (∃ ports, a = { s with ports := ports }) ∧ ∀ i, i < 8 → (a.port i).heldWrites = []) (List.range 8) _
    ⟨⟨s.ports, rfl⟩, none_⟩ ?_).1
  rintro a ⟨⟨ports, rfl⟩, still⟩ j mine
  rw [still j (List.mem_range.mp mine)]
  refine ⟨⟨_, rfl⟩, fun i hi => ?_⟩
  by_cases h : i = j
  · subst h
    exact congrArg Port.heldWrites (State.port_onPort ..)
  · exact (congrArg Port.heldWrites (State.port_onPort_ne _ _ h)).trans (still i hi)

/-- Where nothing waits, nothing goes on. -/
theorem State.Unawaited.releases {s : State} (idle : s.Unawaited) :
    s.releaseWaiting.releaseWrites.releaseImports.core = s.core ∧ s.releaseWaiting.releaseWrites.releaseImports.parts = s.parts := by
  obtain ⟨waiting, imports⟩ := Prod.mk.inj idle.waits
  have waited : s.releaseWaiting = { s with host := { s.host with waiting := [] } } := by rw [State.releaseWaiting, waiting]; rfl
  obtain ⟨ports, written⟩ := State.releaseWrites_idle (s := { s with host := { s.host with waiting := [] } }) idle.writes
  rw [waited, written, State.releaseImports]
  dsimp only
  rw [imports]
  exact ⟨rfl, rfl⟩

/-! The end of a scrub. -/

/-- A window of a partition stands zeroed, and those of `rest` are left to scrub. -/
def State.scrubbed (s : State) (p w : Nat) (rest : List Nat) : State :=
  ((s.meetSoft ((s.cfg.window p w).addr 0) (s.cfg.window p w).bytes).hbmZero ((s.cfg.window p w).addr 0) (s.cfg.window p w).bytes).setPart p
    { s.part p with scrubs := rest }

/-- Where no write of the device's own waits, none goes on. -/
theorem State.releaseOwn_idle {s : State} {p : Nat} (none_ : (s.part p).heldWrites = []) (w : Nat) :
    s.releaseOwn p w = s.onPart p fun y => { y with heldWrites := [] } := by
  rw [State.releaseOwn, none_]
  rfl

section

variable (s : State) (p w : Nat) (rest : List Nat)

theorem State.scrubbed_lasting : (s.scrubbed p w rest).core.sram = s.core.sram ∧ (s.scrubbed p w rest).ports = s.ports ∧
    (s.scrubbed p w rest).core.hbm = Tbl.clear ((s.cfg.window p w).addr 0) (s.cfg.window p w).bytes s.core.hbm := by
  have soft := s.meetSoft_lasting ((s.cfg.window p w).addr 0) (s.cfg.window p w).bytes
  have sram := State.eq_of_lasting (·.core.sram) (fun _ => rfl) soft
  have ports := State.eq_of_lasting (·.ports) (fun _ => rfl) soft
  exact ⟨sram, ports, congrArg (Tbl.clear _ _) (State.eq_of_lasting (·.core.hbm) (fun _ => rfl) soft)⟩

theorem State.scrubbed_part : (s.scrubbed p w rest).part p = { s.part p with scrubs := rest } := State.part_setPart ..

theorem State.meetSoft_waits (a n : Nat) : (s.meetSoft a n).waits = s.waits := by
  unfold State.meetSoft
  dsimp only
  split
  · rfl
  · exact congrArg (fun h : HostSt => (h.waiting, h.heldImports)) (State.countEach_records ..).2

theorem State.scrubbed_waits : (s.scrubbed p w rest).waits = s.waits := State.meetSoft_waits s ((s.cfg.window p w).addr 0) (s.cfg.window p w).bytes

/-- The state that a scrubbed window leaves: the scrub of the next one, or step 6 of the reset. -/
def State.scrubNext : State :=
  let t := (s.scrubbed p w rest).onPart p fun y => { y with heldWrites := [] }
  if rest.isEmpty then t.beginRestage p else t

theorem State.scrubNext_goes : (s.scrubNext p w rest).core = (s.scrubbed p w rest).core ∧ (s.scrubNext p w rest).ports = s.ports ∧
    (s.scrubNext p w rest).waits = s.waits ∧ ((s.scrubNext p w rest).part p).scrubs = rest ∧
    (rest ≠ [] → ((s.scrubNext p w rest).part p).reset = (s.part p).reset) ∧
    (rest = [] → ((s.scrubNext p w rest).part p).reset = .restage ∨ ((s.scrubNext p w rest).part p).reset = .restart) := by
  have ports := (s.scrubbed_lasting p w rest).2.1
  have waits := s.scrubbed_waits p w rest
  have part : ((s.scrubbed p w rest).onPart p fun y => { y with heldWrites := [] }).part p = { s.part p with scrubs := rest, heldWrites := [] } := by
    rw [State.part_onPart, State.scrubbed_part]
  cases rest with
  | nil =>
    have restages := ((s.scrubbed p w []).onPart p fun y => { y with heldWrites := [] }).beginRestage_restages p
    exact ⟨restages.core, restages.ports.trans ports, restages.waits.trans waits, restages.scrubs.trans (congrArg Part.scrubs part),
      fun h => absurd rfl h, fun _ => restages.reset⟩
  | cons v rest =>
    have reset := congrArg Part.reset part
    exact ⟨rfl, ports, waits, congrArg Part.scrubs part, fun _ => reset, fun h => nomatch h⟩

end

section

variable {s : State} {p : Fin 16} {w : Nat} {rest : List Nat} (scrubs : (s.part p.val).reset = .scrub)
  (windows : (s.part p.val).scrubs = w :: rest) (goes : s.goesOn = true)

/-- A scrub whose writes find no room in some write queue goes on. -/
theorem windowScrubDone_waits (full : ∃ e ∈ s.core.ctls, 16 ≤ e.2.writes) : execWindowScrubDone p s = .next s := by
  have held : s.core.ctls.any (fun e => decide (16 ≤ e.2.writes)) = true := by simpa using full
  exact if_pos (.inr (.inr held))

include scrubs windows goes

/-- A scrub that ends goes on to the next one, or to step 6 of the reset, and what waited for it goes on. -/
theorem windowScrubDone_ends (room : ∀ e ∈ s.core.ctls, e.2.writes < 16) (own : (s.part p.val).heldWrites = []) :
    execWindowScrubDone p s = .next (s.scrubNext p.val w rest).releaseWaiting.releaseWrites.releaseImports := by
  have free : s.core.ctls.any (fun e => decide (16 ≤ e.2.writes)) = false := by simpa using room
  have idle : ((s.scrubbed p.val w rest).part p.val).heldWrites = [] := by rw [State.scrubbed_part]; exact own
  rw [State.scrubNext, ← State.releaseOwn_idle idle w]
  unfold execWindowScrubDone
  refine (if_neg (by simp [scrubs, goes, free])).trans ?_
  rw [windows]
  rfl

/-- A scrub that ends zeroes its window. With windows left the next one follows, and else step 6 of the reset. -/
theorem windowScrubDone_zeroes (room : ∀ e ∈ s.core.ctls, e.2.writes < 16) (idle : s.Unawaited) (own : (s.part p.val).heldWrites = []) :
    ∃ t, execWindowScrubDone p s = .next t ∧ t.core = (s.scrubbed p.val w rest).core ∧ (t.part p.val).scrubs = rest ∧
      (rest ≠ [] → (t.part p.val).reset = .scrub) ∧ (rest = [] → (t.part p.val).reset = .restage ∨ (t.part p.val).reset = .restart) := by
  obtain ⟨core, ports, waits, left, more, last⟩ := s.scrubNext_goes p.val w rest
  have idle' : (s.scrubNext p.val w rest).Unawaited := by
    refine ⟨waits.trans idle.waits, fun i hi => ?_⟩
    rw [State.port, ports]
    exact idle.writes i hi
  obtain ⟨core', parts⟩ := idle'.releases
  have part := congrArg (Tbl.get ({} : Part) p.val) parts
  exact ⟨_, windowScrubDone_ends scrubs windows goes room own, core'.trans core, (congrArg Part.scrubs part).trans left,
    fun h => (congrArg Part.reset part).trans ((more h).trans scrubs), fun h => (last h).imp (congrArg Part.reset part).trans (congrArg Part.reset part).trans⟩

end

end Sys2Proof.Machine
end

section
/-! SUPPORT. The memory side, settled. -/

namespace Sys2Proof.Machine

/-- Settles O23: a write by its pieces, a read and a fill by the turn that their controller gives them, and a scrub by its window. -/
theorem memoryAnswers : Obligations.MemoryAnswers := by
  refine fun s hb => ⟨fun sp u x r b found far => ⟨fun kind running => ⟨fun full bad => ?_, fun room => ?_, fun p room owner calm _ part meets => ?_⟩,
    fun kind q queued => ⟨fun later bad => ?_, fun next live => ?_, fun p a next owner calm _ low high => ?_⟩⟩,
    fun east line sp u x r f q b pending idle queued next waits found live => ?_,
    fun p w rest scrubs windows goes => ⟨fun full => windowScrubDone_waits full, fun room waiting imports own writes => ?_⟩⟩
  · exact hbmWriteAccept_full found far b kind running full bad
  · obtain ⟨t, run, sram, hbm, req⟩ := hbmWriteAccept_writes found far b kind running hb room
    refine ⟨t, run, sram, req, fun a outside => ?_, fun pre q post pieces enough i inside last => ?_⟩
    · rw [State.hbmByte, hbm]
      exact get_putPieces_outside r.pieces r.bytes _ outside
    · have covered : (pre.map (·.len)).sum + q.len ≤ r.bytes.length := by
        rw [enough, pieces]
        simp only [List.map_append, List.map_cons, List.sum_append, List.sum_cons]
        omega
      rw [State.hbmByte, hbm, pieces]
      refine get_putPieces_inside inside (fun y hy here => last y hy ?_) pre r.bytes _ covered
      unfold Piece.covers at here
      omega
  · exact hbmWriteAccept_spoilt found far b kind running hb room owner calm part meets
  · exact hbmReadComplete_waits found far b kind queued later bad
  · exact hbmReadComplete_answers found far b kind queued hb next live
  · exact hbmReadComplete_spoilt found far b kind queued hb next owner calm low high
  · obtain ⟨ctls, counts, run⟩ := cupolaFillComplete_delivers hb pending idle queued next waits found live b
    have filled : ((s.fillEnds (b2n east) line f.stale ctls counts).cupola (b2n east)) = _ := State.cupola_setCupola ..
    refine ⟨_, run, fun _ _ => rfl, fun _ => rfl, State.dataOut_findReq (s := s.fillEnds (b2n east) line f.stale ctls counts) found _, fun fresh => ?_, ?_⟩
    · exact (congrArg (Cupola.holds · line) filled).trans (by rw [fresh]; exact Cupola.filled_holds ..)
    · exact (congrArg Cupola.fills filled).trans (Cupola.filled_queues ..).1
  · obtain ⟨t, run, core, left, goes_on, ends⟩ := windowScrubDone_zeroes scrubs windows goes room ⟨congrArg₂ Prod.mk waiting imports, writes⟩ own
    obtain ⟨sram, -, hbm⟩ := s.scrubbed_lasting p.val w rest
    refine ⟨t, run, .of_eq ((congrArg Core.sram core).trans sram), left, goes_on, ends, fun a => ?_⟩
    rw [State.hbmByte, core, hbm]
    exact Tbl.get_clear ..

end Sys2Proof.Machine
end

section
/-! SUPPORT. What changes of objects and failing replicas leave as they were: the core, the boot ROM's memories, the index of the
store and its failing blocks. -/

namespace Sys2Proof.Machine

/-! Objects. -/

@[simp] theorem State.endUnselectable_store (s : State) (p : Nat) : (s.endUnselectable p).store = s.store := by
  unfold State.endUnselectable
  split
  · rfl
  · split
    · exact State.finish_store ..
    · rfl

/-- A change of an object changes the store in that object alone. -/
@[simp] theorem State.setObj_store (s : State) (i : Nat) (x : ObjSt) : (s.setObj i x).store = { s.store with objs := Tbl.put {} i x s.store.objs } := by
  unfold State.setObj
  dsimp only
  split
  · rfl
  · split
    · rfl
    · split
      · simp
      · rw [foldl_keeps State.store State.endUnselectable State.endUnselectable_store]
        simp

@[simp] theorem State.setObj_obj (s : State) (i : Nat) (x : ObjSt) : (s.setObj i x).obj i = x := by
  rw [State.obj, State.setObj_store, Tbl.get_put_same]

theorem State.setObj_obj_other (s : State) {i j : Nat} (x : ObjSt) (h : j ≠ i) : (s.setObj i x).obj j = s.obj j := by
  rw [State.obj, State.setObj_store, Tbl.get_put_other _ _ _ h, State.obj]

/-- Where no switch waits, none ends. -/
theorem State.endUnselectables_idle {s : State} (none_ : ∀ p, (s.part p).switch = none) (l : List Nat) : l.foldl State.endUnselectable s = s := by
  induction l with
  | nil => rfl
  | cons p l ih =>
    have here : s.endUnselectable p = s := by rw [State.endUnselectable, none_ p]
    rw [List.foldl_cons, here, ih]

theorem State.setObj_parts {s : State} (none_ : ∀ p, (s.part p).switch = none) (i : Nat) (x : ObjSt) : (s.setObj i x).parts = s.parts := by
  unfold State.setObj
  dsimp only
  split
  · rfl
  · split
    · rfl
    · split
      · simp
      · rw [State.endUnselectables_idle fun p => ?_]
        · simp
        · rw [State.part, State.post_parts, State.post_parts, State.event_parts]
          exact none_ p

/-! What does not go by objects. -/

/-- What changes of objects, of partitions and of the staging under way leave as it was. -/
def State.stock (s : State) : Core × Rom × List Replica × List Nat := (s.core, s.rom, s.store.index, s.store.failing)

theorem State.eq_of_stock {s t : State} (h : t.stock = s.stock) :
    t.core = s.core ∧ t.rom = s.rom ∧ t.store.index = s.store.index ∧ t.store.failing = s.store.failing := by
  simpa [State.stock] using h

@[simp] theorem State.event_stock (s : State) (code sev : Nat) (part : Option Nat) (detail : Nat) (ext : Option (List Byte)) :
    (s.event code sev part detail ext).stock = s.stock := by
  simp [State.stock]

@[simp] theorem State.setObj_stock (s : State) (i : Nat) (x : ObjSt) : (s.setObj i x).stock = s.stock := by
  simp [State.stock]

/-- The end of a restaging is a change of partitions. -/
theorem State.noteRestage_leaves {γ : Type} (g : State → γ) (set : ∀ (a : State) p x, g (a.setPart p x) = g a) (s : State) :
    g s.noteRestage = g s := by
  refine foldl_keeps g _ (fun a p => ?_) _ _
  dsimp only
  split
  · rfl
  · split <;> exact set ..

@[simp] theorem State.noteRestage_store (s : State) : s.noteRestage.store = s.store := State.noteRestage_leaves State.store (fun _ _ _ => rfl) s

@[simp] theorem State.noteRestage_stock (s : State) : s.noteRestage.stock = s.stock := State.noteRestage_leaves State.stock (fun _ _ _ => rfl) s

@[simp] theorem State.refreshObjects_stock (s : State) : s.refreshObjects.stock = s.stock :=
  foldl_keeps State.stock _ (fun _ _ => State.setObj_stock ..) _ _

@[simp] theorem State.restage_stock (s : State) : s.restage.stock = s.stock := by
  unfold State.restage
  split
  · rfl
  · split
    · rfl
    · split
      · rfl
      · rfl
      · exact State.setObj_stock ..

/-- A replica that fails is marked in the index. -/
theorem State.failReplica_stock (s : State) (x : Replica) : (s.failReplica x).stock = (s.onStore fun t => t.putReplica x { x with failed := true }).stock := by
  rw [State.failReplica, State.noteRestage_stock, State.restage_stock, State.refreshObjects_stock]

@[simp] theorem State.logWear_stock (s : State) : s.logWear.stock = s.stock := by
  have warn (a : State) (p : Prop) [Decidable p] (code : Nat) (sev w : Nat) (f : StoreSt → StoreSt) (same : (a.onStore f).stock = a.stock) :
      (if p then (a.onStore f).event code sev none w else a).stock = a.stock := by
    split
    · exact (State.event_stock ..).trans same
    · rfl
  exact (warn _ _ _ _ _ _ rfl).trans (warn s _ _ _ _ _ rfl)

/-! Wear. -/

/-- The core and the boot ROM's memories. -/
def State.coreRom (s : State) : Core × Rom := (s.core, s.rom)

theorem State.coreRom_of_stock {s t : State} (h : t.stock = s.stock) : t.coreRom = s.coreRom := congrArg (fun q => (q.1, q.2.1)) h

@[simp] theorem State.checkWorn_coreRom (s : State) (k : Nat) : (s.checkWorn k).coreRom = s.coreRom := by
  unfold State.checkWorn
  split
  · exact State.coreRom_of_stock ((State.event_stock ..).trans rfl)
  · rfl

@[simp] theorem State.retireBlock_coreRom (s : State) (b : Nat) (byStatus : Bool) : (s.retireBlock b byStatus).coreRom = s.coreRom := by
  unfold State.retireBlock
  split
  · rfl
  · have event := State.coreRom_of_stock (State.event_stock (s.onStore fun t => t.drop b) 0x0408 1 none
      (b + (targetOf b / 8) * 2 ^ 32 + (targetOf b % 8) * 2 ^ 36 + b2n byStatus * 2 ^ 40) none)
    exact (State.checkWorn_coreRom ..).trans event

/-- What follows work on the flash changes neither the core nor the boot ROM's memories. -/
@[simp] theorem State.noteWear_coreRom (s : State) : s.noteWear.coreRom = s.coreRom :=
  (State.coreRom_of_stock (State.logWear_stock _)).trans (foldl_keeps State.coreRom _ (fun _ _ => State.retireBlock_coreRom ..) _ _)

/-- Where no block fails, none is retired. -/
theorem State.noteWear_stock {s : State} (none_ : s.store.failing = []) : s.noteWear.stock = s.stock := by
  rw [State.noteWear, none_]
  exact State.logWear_stock s

end Sys2Proof.Machine
end

section
/-! SUPPORT. Staging: the start, and what its bytes come to. -/

namespace Sys2Proof.Machine

theorem exec_stagingStart (s : State) : exec .stagingStart s = execStagingStart s := rfl
theorem exec_stagingComplete (bad : Option Nat) (bursts : List (Nat × BurstRec)) (s : State) :
    exec (.stagingComplete bad bursts) s = execStagingComplete bad s bursts := rfl

/-! Equal memories, byte by byte. -/

theorem same_of_coreRom {s t : State} (h : t.coreRom = s.coreRom) : SameSram s t ∧ SameHbm s t ∧ SameFlash s t := by
  obtain ⟨core, rom⟩ := Prod.mk.inj h
  exact ⟨fun _ _ => by rw [State.sramByte, core, State.sramByte], fun _ => by rw [State.hbmByte, core, State.hbmByte], fun _ => by rw [rom]⟩

/-! Reads of extents. -/

/-- Reads of extents change the modes of targets, the reads of blocks and the counters of channels alone. -/
theorem StoreSt.noteExtents_leaves {γ : Type} (g : StoreSt → γ) (tgt : ∀ (t : StoreSt) x, g { t with tgt := x } = g t)
    (reads : ∀ (t : StoreSt) x, g { t with reads := x } = g t) (ctr : ∀ (t : StoreSt) x, g { t with ctr := x } = g t) (t : StoreSt) (es : List Extent) :
    g (t.noteExtents es) = g t := by
  have touch (t : StoreSt) (b : Nat) : g (t.touch b) = g t := by
    unfold StoreSt.touch
    dsimp only
    split
    · rfl
    · exact tgt ..
  refine foldl_keeps g _ (fun a e => ?_) _ _
  exact (foldl_keeps g _ (fun _ _ => ctr ..) _ _).trans ((reads ..).trans (touch ..))

/-- The state in which a staging has read the units of its replica. -/
def State.unitsRead (s : State) (x : Replica) (bursts : List (Nat × BurstRec)) : State :=
  (s.onStore fun t => t.noteExtents x.extents).countEach bursts

/-! The start. -/

section

variable {s0 s : State} (edge : s0.dueEdge = s) (runs : s.storeRuns = true)

include edge runs

theorem stagingStart_takes {i : Nat} {o : ObjCfg} {x : Replica} (idle : s.store.staging = none) (next : s.stagingOrder.find? s.mayStage = some i)
    (listed : s.cfg.objects[i]? = some o) (whole : s.store.index.find? (fun y => y.serves o && !y.failed) = some x) : execStagingStart s0 =
      .next ((s.onStore fun t => { t with staging := some ⟨i, x.replica⟩ }).setObj i { s.obj i with staging := .staging }) := by
  simp [execStagingStart, edge, runs, idle, next, listed, whole]

variable {r : StageRun} {o : ObjCfg} {x : Replica} (run : s.store.staging = some r) (listed : s.cfg.objects[r.obj]? = some o)
  (source : s.store.index.find? (fun y => y.serves o && decide (y.replica = r.replica)) = some x)

include run listed source

theorem stagingComplete_unread (gone : s.store.replicaUnits x = none) (bad : Option Nat) (bursts : List (Nat × BurstRec)) :
    execStagingComplete bad s0 bursts = .next ((s.onStore fun t => t.noteExtents x.extents).failReplica x).noteWear := by
  simp [execStagingComplete, edge, runs, run, listed, source, gone]

theorem stagingComplete_read {us : List Codeword} (units : s.store.replicaUnits x = some us) (bad : Option Nat) (bursts : List (Nat × BurstRec)) :
    execStagingComplete bad s0 bursts =
      .next ((s.unitsRead x bursts).stageBytes r.obj o x (s.openUnits x us) bad) := by
  simp [State.unitsRead, execStagingComplete, edge, runs, run, listed, source, units]

end

/-! The replica fails. -/

/-- A replica that fails where no block does is marked in the index. -/
theorem State.failReplica_index {s : State} (none_ : s.store.failing = []) (x : Replica) :
    (s.failReplica x).noteWear.store.index = s.store.index.map (fun y => if y = x then { x with failed := true } else y) := by
  obtain ⟨-, -, index, failing⟩ := State.eq_of_stock (s.failReplica_stock x)
  obtain ⟨-, -, index', -⟩ := State.eq_of_stock (State.noteWear_stock (failing.trans none_))
  exact index'.trans index

theorem State.failReplica_coreRom (s : State) (x : Replica) : (s.failReplica x).noteWear.coreRom = s.coreRom :=
  (State.noteWear_coreRom _).trans ((State.coreRom_of_stock (s.failReplica_stock x)).trans rfl)

/-! The write. -/

/-- With no uncorrectable burst, a write of the device puts its bytes into HBM. -/
theorem State.ownWrite_lasting {s : State} (clean : s.core.hbmBad = []) (f a : Nat) (bs : List Byte) :
    (State.ownWrite f s a bs).lasting = { s.lasting with core := { sram := s.core.sram, hbm := putHbm s.core.hbm a bs } } := by
  have written : ((s.meetSoft a bs.length).hbmWrite a bs).lasting = { s.lasting with core := { sram := s.core.sram, hbm := putHbm s.core.hbm a bs } } := by
    have soft : ((s.meetSoft a bs.length).lasting.hbmWrite a bs).lasting = (s.lasting.hbmWrite a bs).lasting := by rw [State.meetSoft_lasting]
    refine soft.trans ?_
    simp [State.hbmWrite, State.onCore, State.lasting, clean]
  cases f with
  | zero => exact written
  | succ f =>
    have whole : s.badPartial a bs.length = none := by simp [State.badPartial, State.badEdges, State.badIn, clean]
    rw [State.ownWrite, whole]
    split
    · next empty =>
      rw [List.isEmpty_iff.mp empty]
      simp [State.lasting, putHbm, Tbl.putRun, clean]
    · exact written

/-- Where an object's body goes. -/
def State.destOf (s : State) (o : ObjCfg) : Nat := (s.cfg.window o.part o.window).addr o.destOff

/-- The body that a payload holds, whatever it is worth. -/
def bodyOf (plain : List Byte) : List Byte := (skeinPrefix plain.length plain).1

/-- Whether the frames of a payload are undamaged and its body is well-formed. -/
def wholeBody (o : ObjCfg) (plain : List Byte) : Prop := (skeinPrefix plain.length plain).2 = true ∧ bodyOk (bodyOf plain) o.bodyLen = true

/-- The bytes of an object stand at its destination. -/
def State.bodyPlaced (s : State) (o : ObjCfg) (plain : List Byte) : State := State.ownWrite 2 s (s.destOf o) ((bodyOf plain).take o.bodyLen)

section

variable {s : State} (i : Nat) {o : ObjCfg} {x : Replica} {plain : List Byte}

theorem State.stageBytes_wrong (wrong : sha384 plain ≠ x.digest) (bad : Option Nat) :
    s.stageBytes i o x plain bad = ((s.bodyPlaced o plain).failReplica x).noteWear := if_pos wrong

theorem State.stageBytes_malformed (right : sha384 plain = x.digest) (broken : ¬wholeBody o plain) (bad : Option Nat) : s.stageBytes i o x plain bad =
    (s.bodyPlaced o plain).endStaging i { (s.bodyPlaced o plain).obj i with state := .malformed, staging := .notStaged } := by
  refine (if_neg (not_not_intro right)).trans (if_pos ?_)
  simpa [wholeBody, bodyOf, -not_and, Decidable.not_and_iff_or_not] using broken

theorem State.stageBytes_resident (right : sha384 plain = x.digest) (whole : wholeBody o plain) (clean : (s.bodyPlaced o plain).core.hbmBad = []) :
    s.stageBytes i o x plain none = (s.bodyPlaced o plain).endStaging i { (s.bodyPlaced o plain).obj i with staging := .resident } := by
  obtain ⟨frames, formed⟩ := whole
  have none_ : (s.bodyPlaced o plain).badBurst (s.destOf o) o.bodyLen = none := by simp [State.badBurst, State.badIn, clean]
  refine (if_neg (not_not_intro right)).trans ((if_neg ?_).trans ?_)
  · simpa [bodyOf] using And.intro frames formed
  · show (match (s.bodyPlaced o plain).badBurst (s.destOf o) o.bodyLen with | none => _ | some a => _) = _
    rw [none_]
    rfl

end

/-! The end. -/

@[simp] theorem State.endStaging_store (s : State) (i : Nat) (x : ObjSt) :
    (s.endStaging i x).store = { s.store with staging := none, objs := Tbl.put {} i x s.store.objs } := by
  rw [State.endStaging, State.noteRestage_store, State.setObj_store]
  rfl

theorem State.endStaging_coreRom (s : State) (i : Nat) (x : ObjSt) : (s.endStaging i x).coreRom = s.coreRom :=
  State.coreRom_of_stock ((State.noteRestage_stock _).trans ((State.setObj_stock ..).trans rfl))

theorem State.endStaging_obj (s : State) (i : Nat) (x : ObjSt) : (s.endStaging i x).obj i = x := by
  rw [State.obj, State.endStaging_store, Tbl.get_put_same]

/-- A staging has read its units and written its bytes: SRAM, the boot ROM, the objects and the index are as they were. -/
structure Placed (s w : State) (a : Nat) (bs : List Byte) : Prop where
  sram : w.core.sram = s.core.sram
  hbm : w.core.hbm = putHbm s.core.hbm a bs
  bad : w.core.hbmBad = []
  rom : w.rom = s.rom
  index : w.store.index = s.store.index
  failing : w.store.failing = s.store.failing
  objs : w.store.objs = s.store.objs

theorem State.unitsRead_placed {s : State} (clean : s.core.hbmBad = []) (x : Replica) (bursts : List (Nat × BurstRec)) (o : ObjCfg) (plain : List Byte) :
    Placed s ((s.unitsRead x bursts).bodyPlaced o plain) (s.destOf o) ((bodyOf plain).take o.bodyLen) := by
  have read : (s.unitsRead x bursts).lasting = (s.onStore fun t => t.noteExtents x.extents).lasting := State.countEach_lasting ..
  have same {γ : Type} (g : State → γ) (lasts : ∀ a : State, g a.lasting = g a) (store : g (s.onStore fun t => t.noteExtents x.extents) = g s) :
      g (s.unitsRead x bursts) = g s := (State.eq_of_lasting g lasts read).trans store
  have cfg : (s.unitsRead x bursts).destOf o = s.destOf o := same (·.destOf o) (fun _ => rfl) rfl
  have wrote := State.ownWrite_lasting ((same (·.core.hbmBad) (fun _ => rfl) rfl).trans clean) 2 ((s.unitsRead x bursts).destOf o) ((bodyOf plain).take o.bodyLen)
  rw [cfg, same (·.core.sram) (fun _ => rfl) rfl, same (·.core.hbm) (fun _ => rfl) rfl, read] at wrote
  rw [State.bodyPlaced, cfg]
  exact {
    sram := congrArg (·.core.sram) wrote
    hbm := congrArg (·.core.hbm) wrote
    bad := congrArg (·.core.hbmBad) wrote
    rom := congrArg (·.rom) wrote
    index := (congrArg (·.store.index) wrote).trans (s.store.noteExtents_leaves (·.index) (fun _ _ => rfl) (fun _ _ => rfl) (fun _ _ => rfl) _)
    failing := (congrArg (·.store.failing) wrote).trans (s.store.noteExtents_leaves (·.failing) (fun _ _ => rfl) (fun _ _ => rfl) (fun _ _ => rfl) _)
    objs := (congrArg (·.store.objs) wrote).trans (s.store.noteExtents_leaves (·.objs) (fun _ _ => rfl) (fun _ _ => rfl) (fun _ _ => rfl) _) }

/-- What a staging does to the memories, whatever its digest and its body come to. -/
theorem State.stageBytes_coreRom {s : State} (i : Nat) {o : ObjCfg} {x : Replica} {plain : List Byte} (clean : (s.bodyPlaced o plain).core.hbmBad = []) :
    (s.stageBytes i o x plain none).coreRom = (s.bodyPlaced o plain).coreRom := by
  by_cases right : sha384 plain = x.digest
  · by_cases whole : wholeBody o plain
    · rw [State.stageBytes_resident i right whole clean, State.endStaging_coreRom]
    · rw [State.stageBytes_malformed i right whole, State.endStaging_coreRom]
  · rw [State.stageBytes_wrong i right, State.failReplica_coreRom]

/-- A byte of HBM after a write that takes at most the first `n` bytes of a body. -/
theorem get_putHbm_take {m : Bytes} {a n : Nat} {bs : List Byte} :
    (∀ b, (b < a ∨ a + n ≤ b) → Tbl.get 0#8 b (putHbm m a (bs.take n)) = Tbl.get 0#8 b m) ∧
    (∀ i, i < n → i < bs.length → Tbl.get 0#8 (a + i) (putHbm m a (bs.take n)) = bs.getD i 0#8) := by
  have len : (bs.take n).length = min n bs.length := List.length_take
  refine ⟨fun b out => ?_, fun i low high => ?_⟩
  · rw [putHbm, Tbl.get_putRun, if_neg (by omega)]
  · rw [putHbm, Tbl.get_putRun, if_pos (by omega), Nat.add_sub_cancel_left, List.getD_eq_getElem?_getD, List.getElem?_take_of_lt low,
      List.getD_eq_getElem?_getD]

end Sys2Proof.Machine
end

section
/-! SUPPORT. Staging, settled. -/

namespace Sys2Proof.Machine

/-- Settles O24: a staging starts with a change of its object; one that ends has written its bytes first, and its digest and body decide what follows. -/
theorem stagingPlacesObjects : Obligations.StagingPlacesObjects := by
  intro s0 s edge runs
  refine ⟨fun i o x idle next listed whole => ?_, fun r bursts o x run listed source => ⟨fun gone bad => ?_, fun us units clean => ?_⟩⟩
  · rw [exec_stagingStart, stagingStart_takes edge runs idle next listed whole]
    refine ⟨_, rfl, ?_, ?_, ?_, fun j other => ?_, State.setObj_core .., State.setObj_rom .., fun none_ => State.setObj_parts (s := s.onStore _) none_ ..⟩
    · rw [State.setObj_store]
      rfl
    · rw [State.setObj_obj]
    · rw [State.setObj_obj]
    · exact State.setObj_obj_other _ _ other
  · rw [exec_stagingComplete, stagingComplete_unread edge runs run listed source gone]
    have failing := s.store.noteExtents_leaves (·.failing) (fun _ _ => rfl) (fun _ _ => rfl) (fun _ _ => rfl) x.extents
    have index := s.store.noteExtents_leaves (·.index) (fun _ _ => rfl) (fun _ _ => rfl) (fun _ _ => rfl) x.extents
    refine ⟨_, rfl, fun none_ => ?_, same_of_coreRom (State.failReplica_coreRom ..)⟩
    exact (State.failReplica_index (s := s.onStore fun t => t.noteExtents x.extents) (failing.trans none_) x).trans (congrArg (List.map _) index)
  · rw [exec_stagingComplete, stagingComplete_read edge runs run listed source units]
    have placed := s.unitsRead_placed clean x bursts o (s.openUnits x us)
    generalize s.openUnits x us = plain at *
    obtain ⟨core, rom⟩ := Prod.mk.inj (State.stageBytes_coreRom (x := x) r.obj placed.bad)
    obtain ⟨outside, inside⟩ := get_putHbm_take (m := s.core.hbm) (a := s.destOf o) (n := o.bodyLen) (bs := bodyOf plain)
    have byte (b : Nat) : ((s.unitsRead x bursts).stageBytes r.obj o x plain none).hbmByte b =
        Tbl.get 0#8 b (putHbm s.core.hbm (s.destOf o) ((bodyOf plain).take o.bodyLen)) := by
      rw [State.hbmByte, core, placed.hbm]
    have obj : ((s.unitsRead x bursts).bodyPlaced o plain).obj r.obj = s.obj r.obj := by rw [State.obj, placed.objs, State.obj]
    refine ⟨_, rfl, fun _ _ => ?_, fun _ => ?_, fun b out => (byte b).trans (outside b out), fun i low high => (byte _).trans (inside i low high),
      fun right => ?_, fun wrong none_ => ?_⟩
    · rw [State.sramByte, core, placed.sram, State.sramByte]
    · rw [rom, placed.rom]
    · by_cases whole : wholeBody o plain
      · rw [State.stageBytes_resident _ right whole placed.bad, State.endStaging_store, State.endStaging_obj, obj]
        exact ⟨rfl, placed.index, fun _ => ⟨rfl, rfl⟩, fun broken => absurd whole broken⟩
      · rw [State.stageBytes_malformed _ right whole, State.endStaging_store, State.endStaging_obj]
        exact ⟨rfl, placed.index, fun fits => absurd fits whole, fun _ => ⟨rfl, rfl⟩⟩
    · rw [State.stageBytes_wrong _ wrong, State.failReplica_index (placed.failing.trans none_), placed.index]

end Sys2Proof.Machine
end

section
/-! SUPPORT. Reads of a codeword that becomes correct: which block counts the read, and which one the ladder's further reads. -/

namespace Sys2Proof.Machine

theorem exec_codewordRead (ch : Fin 16) (g : Fin 8) (block page slot : Nat) (l : LadderRec) (s : State) :
    exec (.codewordRead ch g block page slot l) s = execCodewordRead ch g block page slot l s := rfl

/-- A read of a codeword that some step of the ladder makes correct counts a read, and then goes down the ladder. -/
theorem codewordRead_corrects {s : State} {ch : Fin 16} {g : Fin 8} {block page slot : Nat} {l : LadderRec} {step : Nat × Nat} (up : s.nandUp = true)
    (reached : s.store.reaches (8 * ch.val + g.val) block = true) (inPage : slot < 4)
    (decoded : s.store.readsErased (codewordAt (blockAt ch.val g.val block) page slot) l.zeros = false)
    (ends : ladderStep (s.store.tg (8 * ch.val + g.val)).retry l (s.store.written (codewordAt (blockAt ch.val g.val block) page slot)) = step)
    (correct : step.1 ≠ 4) : execCodewordRead ch g block page slot l s =
      .next (s.onStore fun t => (t.noteRead (blockAt ch.val g.val block) 1).climb (codewordAt (blockAt ch.val g.val block) page slot) step) := by
  simp [execCodewordRead, up, reached, Nat.not_le.mpr inPage, decoded, ends, correct]
  rfl

theorem StoreSt.noteRead_reads (t : StoreSt) (b pages : Nat) : Tbl.get 0 b (t.noteRead b pages).reads = Tbl.get 0 b t.reads + pages :=
  Tbl.get_put_same ..

/-- The ladder's further reads are counted for the block that the flash address names in bits [31:0] (R396), and for no other. -/
theorem StoreSt.climb_reads_other (t : StoreSt) {a c : Nat} (step : Nat × Nat) (other : c ≠ blockOf a) :
    Tbl.get 0 c (t.climb a step).reads = Tbl.get 0 c t.reads :=
  Tbl.get_put_other _ _ _ other

end Sys2Proof.Machine
end

section
/-! SUPPORT. NAND events, refuted. -/

namespace Sys2Proof.Machine

/-- A device whose target has more blocks in its LUN than bits [31:10] of a flash address can number (R396). The discovery of the
model bounds no such count. A unit stands in block 2^22 of that LUN, whose block address is 2^32. -/
def pastField : State where
  store := { inUse := true, targets := [0], luns := 1, blocks := 2 ^ 22 + 1, pages := 12, cells := [(2 ^ 32, some { ns := 1, objId := 5, unit := 0, content := .unit [] })] }
  rom := { keys := true }
  boot := { complete := true }
  power := { mode := .running }

/-- A codeword that only step 3 of the ladder makes correct, with 65 zero bits in its page. -/
def softRead : LadderRec := { step1 := false, step2 := none, step3 := true, zeros := some 65 }

/-- The codeword is read at block address 2^32, and its flash address names another block. -/
theorem pastField_reads :
    let k := 8 * (0 : Fin 16).val + (0 : Fin 8).val
    let b := blockAt (0 : Fin 16).val (0 : Fin 8).val (2 ^ 25)
    let a := codewordAt b 0 0
    pastField.nandUp = true ∧ pastField.store.reaches k (2 ^ 25) = true ∧ b = 2 ^ 32 ∧ blockOf a = 0 ∧
      pastField.store.readsErased a softRead.zeros = false ∧ ladderStep (pastField.store.tg k).retry softRead (pastField.store.written a) = (3, 0) ∧
      ladderReads (pastField.store.tg k).retry (3, 0) = 3 := by
  intro k b a
  and_intros <;> decide +kernel

/-- Refutes O25: at a block address of 33 bits the ladder's further reads are counted for another block than the one that is read. A LUN
of more than 2^22 blocks gives one, for which R396 has no bits and which the statement does not exclude: of 1 + 3 reads the block at
2^32 counts 1, and block 0 the others. -/
theorem not_nandEventsAct : ¬ Obligations.NandEventsAct := by
  intro h
  obtain ⟨up, reached, block, named, decoded, ends, further⟩ := pastField_reads
  obtain ⟨-, corrected⟩ := (h pastField 0 0 up).1 (2 ^ 25) 0 0 softRead reached (by decide)
  obtain ⟨t, run, ⟨-, -, counted⟩, -⟩ := (corrected decoded).1 (by rw [ends]; decide)
  rw [exec_codewordRead, codewordRead_corrects up reached (by decide) decoded ends (by decide)] at run
  obtain rfl := Host.Outcome.next.inj run
  have other : blockAt (0 : Fin 16).val (0 : Fin 8).val (2 ^ 25) ≠ blockOf (codewordAt (blockAt (0 : Fin 16).val (0 : Fin 8).val (2 ^ 25)) 0 0) := by
    rw [named, block]
    decide
  have once := (StoreSt.climb_reads_other _ (3, 0) other).trans (pastField.store.noteRead_reads _ 1)
  rw [ends, further] at counted
  exact absurd (counted.symm.trans once) (by omega)

end Sys2Proof.Machine
end

section
/-! SUPPORT. The pod: what notices and control records leave as it was. -/

namespace Sys2Proof.Machine

/-- An interrupt changes the host's functions alone. -/
theorem State.signal_eq (s : State) (f v : Nat) : ∃ h, s.signal f v = { s with host := h } := by
  unfold State.signal
  split
  · exact ⟨s.host, rfl⟩
  · exact ⟨_, rfl⟩

/-- A state in which something has been logged and signalled. -/
def State.noted (s : State) (l : Log) (h : HostSt) : State := { s with log := l, host := h }

@[simp] theorem State.noted_port (s : State) (l : Log) (h : HostSt) (i : Nat) : (s.noted l h).port i = s.port i := rfl
@[simp] theorem State.noted_tick (s : State) (l : Log) (h : HostSt) : (s.noted l h).tick = s.tick := rfl
@[simp] theorem State.noted_cfg (s : State) (l : Log) (h : HostSt) : (s.noted l h).cfg = s.cfg := rfl
@[simp] theorem State.noted_log (s : State) (l : Log) (h : HostSt) : (s.noted l h).log = l := rfl

/-- An event without an extension entry takes one position of the log. -/
theorem State.event_eq (s : State) (code sev : Nat) (part : Option Nat) (detail : Nat) :
    ∃ l h, s.event code sev part detail = s.noted l h ∧ l.pos = s.log.pos + 1 := by
  unfold State.event
  dsimp only
  split
  · obtain ⟨h, e⟩ := State.signal_eq { s.logSlot _ with log := _ } pfFn 1
    exact ⟨_, h, e, rfl⟩
  · exact ⟨_, s.host, rfl, rfl⟩

/-- So does one that the PF's pod interrupt goes with. -/
theorem State.alert_eq (s : State) (code sev detail : Nat) :
    ∃ l h, (s.event code sev none detail).signal pfFn 2 = s.noted l h ∧ l.pos = s.log.pos + 1 := by
  obtain ⟨l, h, e, pos⟩ := s.event_eq code sev none detail
  obtain ⟨k, e'⟩ := (s.event code sev none detail).signal_eq pfFn 2
  exact ⟨l, k, by rw [e', e]; rfl, pos⟩

theorem PodOnly.noted {s t : State} (only : PodOnly s t) (l : Log) (h : HostSt) : PodOnly s (t.noted l h) := only

/-! Records on the downstream ports. -/

/-- A control record sent on every downstream port. -/
def State.sendDown (s : State) (r : CtrlOut) : State := (portsOf s.cfg.beaconDown).foldl (fun (a : State) i => a.sendCtrl i r.bytes r.since) s

theorem State.sendDown_eq (s : State) (r : CtrlOut) : ∃ x, s.sendDown r = { s with ports := x } ∧
    ∀ i, (Tbl.get ({} : Port) i x).ctrl = (s.port i).ctrl ++ (if i ∈ portsOf s.cfg.beaconDown then [r] else []) :=
  foldl_sendCtrl r.bytes r.since (portsOf_nodup _) s

/-- A record that waits on every downstream port, in a device whose tick alone has changed beside that. -/
structure SentWith (s t : State) (r : CtrlOut) (k : Tick) : Prop where
  only : PodOnly s t
  tick : t.tick = k
  sent : SentDown s t r
  log : t.log = s.log

theorem State.sendDown_then (s : State) (r : CtrlOut) (k : Tick) : SentWith s { s.sendDown r with tick := k } r k := by
  obtain ⟨x, e, sent⟩ := s.sendDown_eq r
  rw [e]
  exact ⟨rfl, rfl, sent, rfl⟩

theorem State.sendDown_after (s : State) (r : CtrlOut) (k : Tick) : SentWith s (State.sendDown { s with tick := k } r) r k := by
  obtain ⟨x, e, sent⟩ := State.sendDown_eq { s with tick := k } r
  rw [e]
  exact ⟨rfl, rfl, sent, rfl⟩

/-- Further changes of the tick leave what has been sent. -/
theorem SentWith.retick {s t : State} {r : CtrlOut} {k : Tick} (h : SentWith s t r k) (m : Tick) : SentWith s { t with tick := m } r m :=
  ⟨h.only, rfl, h.sent, h.log⟩

end Sys2Proof.Machine
end

section
/-! SUPPORT. Beacons and HOLD. -/

namespace Sys2Proof.Machine

theorem exec_beacon (port : Fin 8) (rec : BeaconRec) (s : State) : exec (.beacon port rec) s = execBeacon port rec s := rfl
theorem exec_hold (port : Option (Fin 8)) (tick : W64) (podId : W32) (s : State) : exec (.hold port tick podId) s = execHold port tick podId s := rfl

/-- The beacon that goes on downstream: one more hop, and the delay so far. -/
def State.beaconOn (s : State) (port : Nat) (rec : BeaconRec) : CtrlOut :=
  ⟨beaconRecord (rec.hops.toNat + 1) (s.cfg.pod && rec.idle) rec.rootId.toNat (rec.delay.toNat + 16 * (s.port port).linkNs.getD 0)
    rec.tick.toNat rec.podId.toNat, some s.time⟩

/-- How long a beacon has been on its way from the root, in time units. -/
def State.beaconAge (s : State) (port : Nat) (rec : BeaconRec) : Nat :=
  rec.delay.toNat * unitsPerNs / 16 + (s.port port).linkNs.getD 0 * unitsPerNs

/-- A beacon that has been heard and goes on. -/
def State.beaconHeard (s : State) (port : Nat) (rec : BeaconRec) : State :=
  { s.sendDown (s.beaconOn port rec) with tick := { (s.sendDown (s.beaconOn port rec)).tick with heard := s.time, lostAt := none } }

theorem State.sendDown_tick (s : State) (r : CtrlOut) : (s.sendDown r).tick = s.tick := by
  obtain ⟨x, e, -⟩ := s.sendDown_eq r
  rw [e]

theorem State.beaconHeard_sent (s : State) (port : Nat) (rec : BeaconRec) :
    SentWith s (s.beaconHeard port rec) (s.beaconOn port rec) { s.tick with heard := s.time, lostAt := none } := by
  unfold State.beaconHeard
  rw [State.sendDown_tick]
  exact s.sendDown_then ..

section
variable {s : State} {port : Fin 8} {rec : BeaconRec} (complete : s.boot.complete = true) (stays : s.tick.left = false)
  (follows : s.cfg.follows = true) (up : port.val = s.cfg.beaconUp) (trained : (s.port port.val).trained = true) (pod : rec.podId.toNat = s.cfg.podId)
include complete stays follows up trained pod

/-- What a beacon does that this device takes. -/
theorem execBeacon_taken :
    let u := s.beaconHeard port.val rec
    let target : Int := ((s.time + s.cfg.beaconDelay * unitsPerNs : Nat) : Int) - (s.beaconAge port.val rec : Nat)
    let late := ((s.time : Int) - target).toNat
    let v := { u with tick := { u.tick with
      due := some (.beacon rec.tick.toNat, s.time + (target - (s.time : Int)).toNat, s.cfg.pod && rec.idle)
      decided := (target - ((s.cfg.beaconDelay * unitsPerNs : Nat) : Int)).toNat } }
    let w := { v with tick := { v.tick with beaconLate := sat32 v.tick.beaconLate 1, beaconLateRun := some (rec.tick.toNat / 256) } }
    execBeacon port rec s = if s.tick.halted then .next u else if late = 0 then .next v
      else .next (if s.tick.beaconLateRun = some (rec.tick.toNat / 256) then w else w.event 0x0504 2 none (late / unitsPerNs % 2 ^ 32)) :=
  if_neg (by simp [complete, stays, follows, up, up ▸ trained, pod])

/-- A device whose edges have stopped only passes the beacon on. -/
theorem execBeacon_halted (halted : s.tick.halted = true) : execBeacon port rec s = .next (s.beaconHeard port.val rec) := by
  rw [execBeacon_taken complete stays follows up trained pod, if_pos halted]

/-- A beacon in time places the edge. -/
theorem execBeacon_timely (halted : s.tick.halted = false) (timely : s.beaconAge port.val rec ≤ s.cfg.beaconDelay * unitsPerNs) :
    execBeacon port rec s = .next { s.beaconHeard port.val rec with tick := { (s.beaconHeard port.val rec).tick with
      due := some (.beacon rec.tick.toNat, s.time + s.cfg.beaconDelay * unitsPerNs - s.beaconAge port.val rec, s.cfg.pod && rec.idle)
      decided := s.time - s.beaconAge port.val rec } } := by
  rw [execBeacon_taken complete stays follows up trained pod, if_neg (by simp [halted]), if_pos (by omega)]
  have placed : s.time + (((s.time + s.cfg.beaconDelay * unitsPerNs : Nat) : Int) - s.beaconAge port.val rec - s.time).toNat =
      s.time + s.cfg.beaconDelay * unitsPerNs - s.beaconAge port.val rec := by omega
  have decided : (((s.time + s.cfg.beaconDelay * unitsPerNs : Nat) : Int) - s.beaconAge port.val rec - (s.cfg.beaconDelay * unitsPerNs : Nat)).toNat =
      s.time - s.beaconAge port.val rec := by omega
  rw [placed, decided]

/-- One that comes too late makes the edge at once, and is counted. -/
theorem execBeacon_late (halted : s.tick.halted = false) (late : s.cfg.beaconDelay * unitsPerNs < s.beaconAge port.val rec) :
    let k := { (s.beaconHeard port.val rec).tick with
      due := some (.beacon rec.tick.toNat, s.time, s.cfg.pod && rec.idle), decided := s.time - s.beaconAge port.val rec
      beaconLate := sat32 (s.beaconHeard port.val rec).tick.beaconLate 1, beaconLateRun := some (rec.tick.toNat / 256) }
    ∃ d, execBeacon port rec s = .next (if s.tick.beaconLateRun = some (rec.tick.toNat / 256) then { s.beaconHeard port.val rec with tick := k }
      else ({ s.beaconHeard port.val rec with tick := k } : State).event 0x0504 2 none d) := by
  intro k
  rw [execBeacon_taken complete stays follows up trained pod, if_neg (by simp [halted]), if_neg (by omega)]
  have now : s.time + (((s.time + s.cfg.beaconDelay * unitsPerNs : Nat) : Int) - s.beaconAge port.val rec - s.time).toNat = s.time := by omega
  have decided : (((s.time + s.cfg.beaconDelay * unitsPerNs : Nat) : Int) - s.beaconAge port.val rec - (s.cfg.beaconDelay * unitsPerNs : Nat)).toNat =
      s.time - s.beaconAge port.val rec := by omega
  rw [now, decided]
  exact ⟨_, rfl⟩

end

/-! HOLD. -/

/-- A tick root sends HOLD after 100 µs of silence. -/
theorem execHold_root {s : State} (ticking : s.ticking = true) (root : s.cfg.isRoot = true) (silent : s.tick.heard + 100 * unitsPerUs ≤ s.time)
    (tick : W64) (podId : W32) :
    execHold none tick podId s = .next (State.sendDown { s with tick := { s.tick with heard := s.time } } ⟨holdRecord s.tickWord s.cfg.podId, none⟩) :=
  if_pos ⟨root, ticking, by omega⟩

/-- A HOLD from upstream is heard and goes on. -/
theorem execHold_heard {s : State} {port : Fin 8} {podId : W32} (complete : s.boot.complete = true) (stays : s.tick.left = false)
    (follows : s.cfg.follows = true) (up : port.val = s.cfg.beaconUp) (trained : (s.port port.val).trained = true) (pod : podId.toNat = s.cfg.podId)
    (tick : W64) :
    execHold (some port) tick podId s =
      .next (State.sendDown { s with tick := { s.tick with heard := s.time } } ⟨holdRecord tick.toNat podId.toNat, none⟩) :=
  if_pos ⟨follows, complete, by simp [stays], up, trained, pod⟩

/-- Settles O50: a beacon goes on downstream and is heard, before its age decides what edge it makes. -/
theorem beaconsPlaceEdges : Obligations.BeaconsPlaceEdges := by
  refine ⟨fun s port rec complete stays halted follows up trained pod => ?_, fun s port rec ticking => ?_⟩
  · have h := s.beaconHeard_sent port.val rec
    exact ⟨_, execBeacon_halted complete stays follows up trained pod halted, h.only, h.tick, h.sent⟩
  · obtain ⟨complete, halted, stays⟩ := s.ticking_iff.mp ticking
    refine ⟨fun follows up trained pod => ?_, fun root silent tick podId => ?_, fun tick podId follows up trained pod => ?_⟩
    · intro link delay idle
      have h := s.beaconHeard_sent port.val rec
      rcases Nat.lt_or_ge (s.cfg.beaconDelay * unitsPerNs) delay with late | timely
      · obtain ⟨d, e⟩ := execBeacon_late complete stays follows up trained pod halted late
        rw [h.tick] at e
        have m := h.retick { s.tick with
          heard := s.time, lostAt := none, due := some (.beacon rec.tick.toNat, s.time, idle), decided := s.time - delay
          beaconLate := sat32 s.tick.beaconLate 1, beaconLateRun := some (rec.tick.toNat / 256) }
        refine ⟨_, e, ?_⟩
        split
        · exact ⟨m.only, m.sent, rfl, rfl, rfl, fun timely => absurd late (by omega), fun _ => ⟨rfl, rfl, congrArg Log.pos m.log⟩⟩
        · obtain ⟨l, k, logged, pos⟩ := State.event_eq { s.beaconHeard port.val rec with tick := _ } 0x0504 2 none d
          rw [logged]
          exact ⟨m.only.noted l k, m.sent, rfl, rfl, rfl, fun timely => absurd late (by omega), fun _ => ⟨rfl, rfl, by rw [← m.log]; exact pos⟩⟩
      · have e := execBeacon_timely complete stays follows up trained pod halted timely
        rw [h.tick] at e
        have m := h.retick { s.tick with
          heard := s.time, lostAt := none, decided := s.time - delay
          due := some (.beacon rec.tick.toNat, s.time + s.cfg.beaconDelay * unitsPerNs - delay, idle) }
        exact ⟨_, e, m.only, m.sent, rfl, rfl, rfl, fun _ => ⟨rfl, rfl, m.log⟩, fun late => absurd late (by omega)⟩
    · have h := s.sendDown_after ⟨holdRecord s.tickWord s.cfg.podId, none⟩ { s.tick with heard := s.time }
      exact ⟨_, execHold_root ticking root silent tick podId, h.only, h.tick, h.sent⟩
    · have h := s.sendDown_after ⟨holdRecord tick.toNat s.cfg.podId, none⟩ { s.tick with heard := s.time }
      exact ⟨_, pod ▸ execHold_heard complete stays follows up trained pod tick, h.only, h.tick, h.sent⟩

end Sys2Proof.Machine
end

section
/-! SUPPORT. DONE records, beacon loss and leaving the pod. -/

namespace Sys2Proof.Machine

theorem exec_done (port : Fin 8) (rec : DoneRec) (s : State) : exec (.done port rec) s = execDone port rec s := rfl
theorem exec_bootDonePod (s : State) : exec .bootDonePod s = execBootDonePod s := rfl
theorem exec_beaconLost (s : State) : exec .beaconLost s = execBeaconLost s := rfl
theorem exec_leftPod (s : State) : exec .leftPod s = execLeftPod s := rfl
theorem exec_leave (port : Fin 8) (dev : BitVec 8) (podId : W32) (s : State) : exec (.leave port dev podId) s = execLeave port dev podId s := rfl

/-! DONE. -/

/-- A device that has not published reports nothing. -/
theorem State.sendDone_waits {s : State} (own : s.tick.ownDone = false) : s.sendDone = s :=
  if_neg (by simp [own])

/-- One that has published, and whose children have reported, reports upstream. -/
theorem State.sendDone_reports {s : State} {n : Nat} (pod : s.cfg.pod = true) (count : s.tick.count = some n) (own : s.tick.ownDone = true)
    (first : s.tick.doneSent = false) (follows : s.cfg.follows = true) (below : ∀ j ∈ portsOf s.cfg.beaconDown, bit1 s.tick.doneFrom j = true) :
    s.sendDone = State.sendCtrl { s with tick := { s.tick with doneSent := true } } s.cfg.beaconUp
      (doneRecord (s.tick.idleReq || s.tick.idleAsked) (s.tick.doneDevices + 1) n s.cfg.podId) := by
  unfold State.sendDone
  dsimp only
  rw [if_pos ⟨pod, by simp [count], own, by simp [first], List.all_eq_true.mpr below⟩, if_pos follows, State.tickWord, count]
  rfl

/-- The tick once a child's DONE for the tick in progress is noted. -/
def Tick.doneNoted (k : Tick) (i : Nat) (rec : DoneRec) : Tick :=
  { k with doneFrom := k.doneFrom ||| BitVec.ofNat 8 (2 ^ i), idleReq := k.idleReq || rec.idleReq, doneDevices := k.doneDevices + rec.devices.toNat }

section
variable {s : State} {port : Fin 8} {rec : DoneRec} (pod : s.cfg.pod = true) (down : bitOf s.cfg.beaconDown port.val = true)
  (trained : (s.port port.val).trained = true) (same : rec.podId.toNat = s.cfg.podId)
include pod down trained same

theorem execDone_boot (boot : rec.tick.toNat = 2 ^ 64 - 1) (first : bit1 s.tick.bootDone port.val = false) :
    execDone port rec s = .next { s with tick := { s.tick with
      bootDone := s.tick.bootDone ||| BitVec.ofNat 8 (2 ^ port.val), doneDevices := s.tick.doneDevices + rec.devices.toNat } } := by
  unfold execDone
  dsimp only
  rw [if_neg (by simp [pod, down, trained, same]), if_pos boot, if_neg (by simp [first])]

theorem execDone_stale (tick : rec.tick.toNat ≠ 2 ^ 64 - 1) (other : some rec.tick.toNat ≠ s.tick.count) : execDone port rec s = .next s := by
  unfold execDone
  dsimp only
  rw [if_neg (by simp [pod, down, trained, same]), if_neg tick, if_neg (by simp [other])]

theorem execDone_tick (tick : rec.tick.toNat ≠ 2 ^ 64 - 1) (now : some rec.tick.toNat = s.tick.count) (first : bit1 s.tick.doneFrom port.val = false) :
    execDone port rec s = .next (State.sendDone { s with tick := s.tick.doneNoted port.val rec }) := by
  unfold execDone
  dsimp only
  rw [if_neg (by simp [pod, down, trained, same]), if_neg tick, if_pos ⟨now, by simp [first]⟩]
  rfl

end

/-- A device whose boot and whose children's boots are complete reports its own. -/
theorem execBootDonePod_reports {s : State} (pod : s.cfg.pod = true) (complete : s.boot.complete = true) (follows : s.cfg.follows = true)
    (first : s.tick.bootDoneSent = false) (below : ∀ j ∈ portsOf s.cfg.beaconDown, bit1 s.tick.bootDone j = true) :
    execBootDonePod s = .next (State.sendCtrl { s with tick := { s.tick with bootDoneSent := true } } s.cfg.beaconUp
      (doneRecord false (s.tick.doneDevices + 1) (2 ^ 64 - 1) s.cfg.podId)) :=
  if_pos ⟨pod, complete, follows, by simp [first], List.all_eq_true.mpr below⟩

theorem PodOnly.sendCtrl (s : State) (k : Tick) (i : Nat) (bs : List Byte) : PodOnly s (State.sendCtrl { s with tick := k } i bs) := rfl

/-! Beacon loss. -/

/-- 1 ms of silence is a loss, which is noted. -/
theorem execBeaconLost_lost {s : State} (follows : s.cfg.follows = true) (ticking : s.ticking = true) (first : s.tick.lostAt = none)
    (silent : s.tick.heard + unitsPerMs ≤ s.time) :
    ∃ l h, execBeaconLost s = .next (State.noted { s with tick := { s.tick with lostAt := some s.time } } l h) ∧ l.pos = s.log.pos + 1 := by
  obtain ⟨l, h, noted, pos⟩ := State.alert_eq { s with tick := { s.tick with lostAt := some s.time } } 0x0505 3 0
  unfold execBeaconLost
  rw [if_pos ⟨follows, ticking, by simp [first], by omega⟩, noted]
  exact ⟨l, h, rfl, pos⟩

/-! Leaving the pod. -/

/-- A record sent on each living port of a list without repetitions waits on those ports, and nothing else changes. -/
theorem foldl_sendLiving (bs : List Byte) {l : List Nat} (once : l.Nodup) (s : State) :
    ∃ x, l.foldl (fun (a : State) i => if (a.port i).lives then a.sendCtrl i bs else a) s = { s with ports := x } ∧
      ∀ i ∈ l, (Tbl.get ({} : Port) i x).ctrl = (s.port i).ctrl ++ (if (s.port i).lives = true then [⟨bs, none⟩] else []) := by
  suffices h : ∃ x, l.foldl (fun (a : State) i => if (a.port i).lives then a.sendCtrl i bs else a) s = { s with ports := x } ∧
      ∀ i, (Tbl.get ({} : Port) i x).ctrl = (s.port i).ctrl ++ (if i ∈ l ∧ (s.port i).lives = true then [⟨bs, none⟩] else []) by
    obtain ⟨x, e, hx⟩ := h
    exact ⟨x, e, fun i hi => by simp [hx, hi]⟩
  induction l generalizing s with
  | nil => exact ⟨s.ports, rfl, fun i => by simp [State.port]⟩
  | cons k l ih =>
    obtain ⟨hk, once⟩ := List.nodup_cons.mp once
    rw [List.foldl_cons]
    split
    · rename_i lives
      obtain ⟨x, e, hx⟩ := ih once (s.sendCtrl k bs)
      refine ⟨x, e, fun i => ?_⟩
      rw [hx, State.sendCtrl]
      by_cases h : i = k
      · subst h
        simp [hk, lives]
      · rw [State.port_onPort_ne _ _ h]
        simp [h]
    · rename_i dead
      obtain ⟨x, e, hx⟩ := ih once s
      refine ⟨x, e, fun i => ?_⟩
      rw [hx]
      by_cases h : i = k
      · subst h
        simp [dead]
      · simp [h]

/-- A fold of changes of partitions: each partition of the list changes once, and nothing else does. -/
theorem foldl_onPart (f : Part → Part) {l : List Nat} (once : l.Nodup) (s : State) :
    ∃ x, l.foldl (fun (a : State) p => a.onPart p f) s = { s with parts := x } ∧
      ∀ p, Tbl.get {} p x = if p ∈ l then f (s.part p) else s.part p := by
  induction l generalizing s with
  | nil => exact ⟨s.parts, rfl, fun _ => rfl⟩
  | cons k l ih =>
    obtain ⟨hk, once⟩ := List.nodup_cons.mp once
    obtain ⟨x, e, hx⟩ := ih once (s.onPart k f)
    refine ⟨x, e, fun p => ?_⟩
    rw [hx]
    by_cases h : p = k
    · subst h
      simp [hk]
    · rw [State.part_onPart_ne _ _ h]
      simp [h]

/-- Every status record that waits for a scrub is dropped. -/
theorem State.dropRecords_all (s : State) : ∃ x, s.dropRecords (fun _ => true) = { s with parts := x } ∧
    ∀ p, Tbl.get ({} : Part) p x = { s.part p with heldWrites :=
      if p ∈ s.definedParts then (s.part p).heldWrites.filter (fun h => h.2.2.2.isNone) else (s.part p).heldWrites } := by
  obtain ⟨x, e, hx⟩ := foldl_onPart (fun x => { x with heldWrites := x.heldWrites.filter (fun h => h.2.2.2.isNone || !true) }) s.definedParts_nodup s
  refine ⟨x, e, fun p => ?_⟩
  rw [hx]
  by_cases h : p ∈ s.definedParts <;> simp [h]

/-- What leaving the pod changes: records on the ports, the partitions' records that wait, the tick, and notices. -/
theorem execLeftPod_leaves {s : State} (follows : s.cfg.follows = true) (ticking : s.ticking = true) (must : s.mustLeave = true) :
    ∃ x y l h, execLeftPod s = .next (State.noted { s with ports := x, parts := y, tick := { s.tick with left := true, due := none } } l h) ∧
      (∀ i ∈ List.range 8, (Tbl.get ({} : Port) i x).ctrl = (s.port i).ctrl ++
        (if (s.port i).lives = true then [⟨s.leaveRecord, none⟩] else [])) ∧
      (∀ p, Tbl.get ({} : Part) p y = { s.part p with heldWrites :=
        if p ∈ s.definedParts then (s.part p).heldWrites.filter (fun h => h.2.2.2.isNone) else (s.part p).heldWrites }) ∧
      l.pos = s.log.pos + 1 := by
  unfold execLeftPod
  dsimp only
  rw [if_pos ⟨follows, ticking, must⟩]
  obtain ⟨x, sent, hx⟩ := foldl_sendLiving s.leaveRecord List.nodup_range s
  obtain ⟨y, dropped, hy⟩ := State.dropRecords_all { s with ports := x }
  rw [sent, dropped]
  obtain ⟨l, h, noted, pos⟩ := State.alert_eq { s with ports := x, parts := y, tick := { s.tick with left := true, due := none } } 0x0506 4 0
  exact ⟨x, y, l, h, congrArg _ noted, hx, hy, pos⟩

/-- A neighbour that leaves is noted on its port. -/
theorem execLeave_noted {s : State} {port : Fin 8} {podId : W32} (trained : (s.port port.val).trained = true)
    (first : (s.port port.val).partnerLeft = false) (pod : podId.toNat = s.cfg.podId) (dev : BitVec 8) :
    ∃ l h, execLeave port dev podId s = .next ((s.setPort port.val { s.port port.val with partnerLeft := true }).noted l h) ∧
      l.pos = s.log.pos + 1 := by
  unfold execLeave
  dsimp only
  rw [if_neg (by simp [trained, first, pod])]
  obtain ⟨l, h, noted, pos⟩ := (s.setPort port.val { s.port port.val with partnerLeft := true }).alert_eq 0x0507 3 (port.val + dev.toNat * 2 ^ 8)
  exact ⟨l, h, congrArg _ noted, pos⟩

/-- Settles O51: each record is noted, and what it is the last to wait for follows in the same step. -/
theorem podReportsAndLeaves : Obligations.PodReportsAndLeaves := by
  refine ⟨fun s port rec pod => ⟨fun down trained same => ?_, fun complete follows first below => ?_⟩,
    fun s => ⟨fun follows ticking first silent => ?_,
      fun follows ticking must => ?_, fun follows ticking stays => if_neg (by simp [stays]), fun port dev podId trained first same => ?_⟩⟩
  · intro i bit n
    refine ⟨execDone_boot pod down trained same, execDone_stale pod down trained same, fun tick now first => ?_⟩
    intro noted
    rw [exec_done, execDone_tick pod down trained same tick now first]
    refine ⟨fun own => ?_, fun own unsent follows below => ?_⟩
    · exact congrArg _ (State.sendDone_waits (s := { s with tick := s.tick.doneNoted port.val rec }) own)
    · rw [State.sendDone_reports (s := { s with tick := s.tick.doneNoted port.val rec }) pod now.symm own unsent follows below]
      refine ⟨_, rfl, PodOnly.sendCtrl .., rfl, ?_⟩
      rw [State.sendCtrl, State.port_onPort]
      rfl
  · rw [exec_bootDonePod, execBootDonePod_reports pod complete follows first below]
    refine ⟨_, rfl, PodOnly.sendCtrl .., rfl, ?_⟩
    rw [State.sendCtrl, State.port_onPort]
    rfl
  · obtain ⟨l, h, e, pos⟩ := execBeaconLost_lost follows ticking first silent
    exact ⟨_, e, rfl, rfl, rfl, pos⟩
  · obtain ⟨x, y, l, h, e, sent, dropped, pos⟩ := execLeftPod_leaves follows ticking must
    exact ⟨_, e, rfl, dropped, rfl, fun i hi => sent i (List.mem_range.mpr hi), by simp [State.ticking], pos⟩
  · obtain ⟨l, h, e, pos⟩ := execLeave_noted trained first same dev
    have gone : (((s.setPort port.val { s.port port.val with partnerLeft := true }).noted l h).port port.val) =
      { s.port port.val with partnerLeft := true } := s.port_setPort port.val _
    exact ⟨_, e, rfl, rfl, gone, fun j hj => State.port_setPort_ne _ _ hj, by simp [State.mayCarry, gone], pos⟩

end Sys2Proof.Machine
end

section
/-! SUPPORT. One Span port: what changes it alone, and how it goes down or into a retrain. -/

namespace Sys2Proof.Machine

/-! Frames. -/

theorem PortOnly.refl (s : State) (i : Nat) : PortOnly s s i := ⟨rfl, fun _ _ => rfl, fun _ => rfl⟩

theorem PortOnly.trans {s t u : State} {i : Nat} (h : PortOnly s t i) (k : PortOnly t u i) : PortOnly s u i where
  outside := (congrArg (fun a : State => { a with ports := s.ports, log := s.log, host := s.host }) k.outside).trans h.outside
  others j hj := (k.others j hj).trans (h.others j hj)
  store a := (k.store a).trans (h.store a)

theorem PortOnly.setPort {s t : State} {i : Nat} (h : PortOnly s t i) {x : Port} (store : x.store = (t.port i).store) :
    PortOnly s (t.setPort i x) i where
  outside := h.outside
  others j hj := (State.port_setPort_ne _ _ hj).trans (h.others j hj)
  store a := by rw [State.port_setPort, store, h.store]

/-- A new value of a port that keeps its slot store. -/
theorem State.setPort_only (s : State) {i : Nat} {x : Port} (store : x.store = (s.port i).store) : PortOnly s (s.setPort i x) i :=
  (PortOnly.refl s i).setPort store

/-- Notices change neither the port nor what lies outside it. -/
theorem PortOnly.noted {s t : State} {i : Nat} (only : PortOnly s t i) (l : Log) (h : HostSt) : PortOnly s (t.noted l h) i :=
  ⟨only.outside, only.others, only.store⟩

/-! Going down. -/

/-- A port that has gone down. -/
def Port.downed (x : Port) (good : BitVec 6) : Port :=
  { x with phase := .down, width := 0, good := good, retraining := false, linkNs := none }

theorem State.portDown_eq (s : State) (i : Nat) (good : BitVec 6) :
    ∃ l h, s.portDown i good = (s.setPort i ((s.port i).downed good)).noted l h ∧ l.pos = s.log.pos + (if (s.port i).width = 0 then 1 else 2) := by
  unfold State.portDown
  dsimp only
  split
  · exact State.event_eq (s.setPort i ((s.port i).downed good)) 0x0501 3 none i
  · obtain ⟨l, h, narrowed, pos⟩ := State.event_eq (s.setPort i ((s.port i).downed good)) 0x0502 2 none _
    obtain ⟨m, k, down, pos'⟩ := ((s.setPort i ((s.port i).downed good)).noted l h).event_eq 0x0501 3 none i
    exact ⟨m, k, (congrArg (State.event · 0x0501 3 none i) narrowed).trans down, pos'.trans (congrArg (· + 1) pos)⟩

theorem State.portDown_wentDown (s : State) (i : Nat) (good : BitVec 6) : WentDown s (s.portDown i good) i := by
  obtain ⟨l, h, e, pos⟩ := s.portDown_eq i good
  rw [e]
  refine ⟨(s.setPort_only (by rfl)).noted l h, ?_, ?_, pos⟩ <;> rw [State.noted_port, State.port_setPort] <;> rfl

/-! Retrains and lane groups. -/

/-- A port whose retrain begins. -/
def Port.retrained (x : Port) (good : BitVec 6) (now : Nat) : Port :=
  { x with
    phase := .training, retraining := true, since := now, good := good, linkNs := none, badHeads := 0
    retrainTimes := x.retrainTimes.filter (fun t => decide (now - t ≤ 1000 * unitsPerMs)) ++ [now]
    ctr := { x.ctr with retrains := sat32 x.ctr.retrains 1 } }

/-- Before the third retrain within a second, the lane groups are those given. -/
theorem State.retrain_begins {s : State} {i : Nat} {good : BitVec 6} (enough : 2 ≤ goodCount good) (few : s.recentRetrains i < 2) :
    s.retrain i good = s.setPort i ((s.port i).retrained good s.time) := by
  have short : decide (3 ≤ ((s.port i).retrainTimes.filter (fun t => decide (s.time - t ≤ 1000 * unitsPerMs)) ++ [s.time]).length) = false := by
    rw [decide_eq_false_iff_not, List.length_append, List.length_singleton]
    unfold State.recentRetrains at few
    omega
  unfold State.retrain
  dsimp only
  rw [short]
  exact if_neg (Nat.not_lt.mpr enough)

theorem State.retrained_only {s : State} {i : Nat} (good : BitVec 6) : PortOnly s (s.setPort i ((s.port i).retrained good s.time)) i :=
  s.setPort_only (by rfl)

section
variable {s : State} {i group : Nat} (trained : (s.port i).trained = true)
include trained

theorem Port.phase_of_trained : (s.port i).phase ≠ .training ∧ (s.port i).phase ≠ .off ∧ (s.port i).phase ≠ .down := by
  unfold Port.trained at trained
  cases h : (s.port i).phase <;> simp_all

/-- A good lane group of a trained port fails: the port goes down where fewer than two are left, and retrains else. -/
theorem State.failGroup_trained (good : bit1 (s.port i).good group = true) :
    s.failGroup i group = if goodCount ((s.port i).good &&& ~~~(BitVec.ofNat 6 (2 ^ group))) < 2
      then s.portDown i ((s.port i).good &&& ~~~(BitVec.ofNat 6 (2 ^ group))) else s.retrain i ((s.port i).good &&& ~~~(BitVec.ofNat 6 (2 ^ group))) := by
  obtain ⟨h, off, down⟩ := Port.phase_of_trained trained
  unfold State.failGroup
  dsimp only
  rw [if_neg h, if_neg (by simp [good, off, down])]

end

end Sys2Proof.Machine
end

section
/-! SUPPORT. Ports that meet. -/

namespace Sys2Proof.Machine

theorem exec_link (port : Fin 8) (rec : LinkRec) (s : State) : exec (.link port rec) s = execLink port rec s := rfl
theorem exec_ping (port : Fin 8) (pong : Bool) (sent arrived : W64) (s : State) :
    exec (.ping port pong sent arrived) s = execPing port pong sent arrived s := rfl
theorem exec_credit (port : Fin 8) (c0 c1 c2 : BitVec 8) (s : State) : exec (.credit port c0 c1 c2) s = execCredit port c0 c1 c2 s := rfl

/-- A port that may have come into use. -/
theorem State.tryUp_eq (s : State) (i : Nat) (x : Port) : (s.setPort i x).tryUp i = (s.setPort i x).setPort i
    { x with phase := if x.phase = .ctrl ∧ x.partner.isSome ∧ x.mismatch = false ∧ x.linkNs.isSome then .up else x.phase } := by
  unfold State.tryUp State.onPort
  rw [State.port_setPort]
  congr 1
  simp only [Bool.not_eq_true']
  split <;> rfl

/-- A port that refuses its partner, which is logged. -/
theorem State.mismatch_eq (s : State) (i field : Nat) (x : Port) :
    ∃ l h, (s.setPort i x).mismatch i field = ((s.setPort i x).setPort i { x with mismatch := true, phase := .ctrl }).noted l h ∧
      l.pos = s.log.pos + 1 := by
  unfold State.mismatch State.onPort
  rw [State.port_setPort]
  exact State.event_eq ((s.setPort i x).setPort i { x with mismatch := true, phase := .ctrl }) 0x0508 3 none _

/-- The port that two changes in a row leave. -/
theorem PortOnly.twice (s : State) {i : Nat} {x y : Port} (hx : x.store = (s.port i).store) (hy : y.store = x.store) :
    PortOnly s ((s.setPort i x).setPort i y) i :=
  (s.setPort_only hx).setPort (by rw [State.port_setPort, hy])

section
variable {s : State} {port : Fin 8} (trained : (s.port port.val).trained = true)
include trained

theorem execLink_matches {rec : LinkRec} (same : s.linkDiffers port.val rec = none) :
    execLink port rec s = .next ((s.setPort port.val { s.port port.val with partner := some rec }).tryUp port.val) := by
  unfold execLink
  dsimp only
  rw [if_neg (by simp [trained]), same]

theorem execLink_differs {rec : LinkRec} {f : Nat} (differs : s.linkDiffers port.val rec = some f) (first : (s.port port.val).mismatch = false) :
    execLink port rec s = .next ((s.setPort port.val { s.port port.val with partner := some rec }).mismatch port.val f) := by
  unfold execLink
  dsimp only
  rw [if_neg (by simp [trained]), differs, first]
  rfl

theorem execPing_ping (sent arrived : W64) :
    execPing port false sent arrived s = .next (s.sendCtrl port.val (leBytes 1 7 ++ leBytes 15 0 ++ leBytes 8 s.nsSinceReset)) := by
  unfold execPing
  dsimp only
  exact (if_neg (by simp [trained])).trans (if_pos rfl)

theorem execPing_pong {a : Nat} (pinged : (s.port port.val).pingAt = some a) (sent arrived : W64) :
    let ns := ((s.nsSinceReset - a) - (sent.toNat - arrived.toNat)) / 2
    let t := s.setPort port.val { s.port port.val with pingAt := none, linkNs := some ns }
    execPing port true sent arrived s = .next (if (s.cfg.port port.val).maxLinkNs < ns
      then (if (s.port port.val).mismatch then t else t.mismatch port.val 8) else t.tryUp port.val) := by
  intro ns t
  unfold execPing
  dsimp only
  rw [if_neg (by simp [trained]), if_neg (by simp), pinged]
  dsimp only
  split <;> rfl

/-- Credits come back to each channel. -/
theorem execCredit_returns (c0 c1 c2 : BitVec 8) : ∃ m, execCredit port c0 c1 c2 s = .next (s.setPort port.val { s.port port.val with credits := m }) ∧
    ∀ k, Tbl.get 64 k m = Tbl.get 64 k (s.port port.val).credits +
      (if k = 0 then c0.toNat else if k = 1 then c1.toNat else if k = 2 then c2.toNat else 0) := by
  unfold execCredit
  dsimp only
  rw [if_neg (by simp [trained])]
  refine ⟨_, rfl, fun k => ?_⟩
  simp only [Tbl.get_put]
  by_cases h2 : k = 2
  · simp [h2]
  · by_cases h1 : k = 1
    · simp [h1]
    · by_cases h0 : k = 0
      · simp [h0]
      · simp [h0, h1, h2]

end

/-- Settles O52: what a record leaves on the port decides, with what stands there, whether it comes into use. -/
theorem portsMeet : Obligations.PortsMeet := by
  intro s port i x trained
  refine ⟨fun rec => ⟨fun same => ?_, fun f differs first => ?_⟩, fun sent arrived => ?_, fun sent arrived a pinged => ?_, fun c0 c1 c2 => ?_⟩
  · rw [exec_link, execLink_matches trained same, State.tryUp_eq]
    refine ⟨_, rfl, PortOnly.twice s (by rfl) (by rfl), rfl, ?_⟩
    rw [State.port_setPort]
    simp [x, i]
  · obtain ⟨l, h, refused, pos⟩ := s.mismatch_eq i f { x with partner := some rec }
    rw [exec_link, execLink_differs trained differs first, refused]
    refine ⟨_, rfl, (PortOnly.twice s (by rfl) (by rfl)).noted l h, pos, ?_⟩
    rw [State.noted_port, State.port_setPort]
  · rw [exec_ping, execPing_ping trained]
    exact ⟨_, rfl, s.setPort_only (by rfl), State.port_onPort ..⟩
  · intro ns
    rw [exec_ping, execPing_pong trained pinged]
    refine ⟨fun fits => ?_, fun long first => ?_⟩
    · rw [if_neg (Nat.not_lt.mpr fits), State.tryUp_eq]
      refine ⟨_, rfl, PortOnly.twice s (by rfl) (by rfl), rfl, ?_⟩
      rw [State.port_setPort]
      simp [x, i, ns]
    · obtain ⟨l, h, refused, pos⟩ := s.mismatch_eq i 8 { x with pingAt := none, linkNs := some ns }
      rw [if_pos long, if_neg (by simpa using first), refused]
      refine ⟨_, rfl, (PortOnly.twice s (by rfl) (by rfl)).noted l h, pos, ?_⟩
      rw [State.noted_port, State.port_setPort]
  · obtain ⟨m, e, credits⟩ := execCredit_returns trained c0 c1 c2
    rw [exec_credit, e]
    refine ⟨_, rfl, s.setPort_only (by rfl), rfl, ?_⟩
    rw [State.port_setPort]
    exact credits

end Sys2Proof.Machine
end

section
/-! SUPPORT. Training. -/

namespace Sys2Proof.Machine

open Host (Outcome)

theorem exec_spanTrainingDone (port : Fin 8) (good : BitVec 6) (s : State) : exec (.spanTrainingDone port good) s = execSpanTrainingDone port good s := rfl
theorem exec_spanTrainingTimeout (port : Fin 8) (s : State) : exec (.spanTrainingTimeout port) s = execSpanTrainingTimeout port s := rfl
theorem exec_laneGroupFail (port : Fin 8) (group : Fin 6) (s : State) : exec (.laneGroupFail port group) s = .next (s.failGroup port.val group.val) := rfl

theorem Port.trainLimit_pos (x : Port) : 0 < x.trainLimit := by
  unfold Port.trainLimit unitsPerMs unitsPerUs
  split <;> decide

/-- The lane groups that a training at both ends leaves in use. -/
def Port.goodAfter (x : Port) (good : BitVec 6) : BitVec 6 := (if x.retraining then good &&& x.good else good) &&& ~~~x.failed

/-- The width that they give. -/
def State.widthAfter (s : State) (i : Nat) (good : BitVec 6) : Nat :=
  widthFor (goodCount good) (if (s.port i).width = 0 then (s.cfg.port i).planWidth else min (s.port i).width (s.cfg.port i).planWidth)

/-- The width that a training begins from. -/
def State.widthBefore (s : State) (i : Nat) : Nat := if (s.port i).retraining then (s.port i).width else (s.cfg.port i).planWidth

/-- A port whose training has completed. -/
def Port.trainedAt (x : Port) (width : Nat) (good : BitVec 6) (now : Nat) : Port :=
  { x with
    phase := .ctrl, retraining := false, width := width, good := good, frames := 0, badHeads := 0, resend := x.unacked.length
    replaysInRow := 0, ackAt := now, linkNs := none, pingAt := none
    ctr := { x.ctr with replays := sat32 x.ctr.replays (b2n (!x.unacked.isEmpty)) } }

/-- The records that a port sends when its training completes. -/
def State.meetsWith (s : State) (i : Nat) : State := (s.sendCtrl i (s.linkRecord i)).sendCtrl i (leBytes 1 6 ++ leBytes 23 0)

section
variable {s : State} {port : Fin 8} (training : (s.port port.val).phase = .training)
include training

theorem execSpanTrainingDone_late (good : BitVec 6) (late : (s.port port.val).since + (s.port port.val).trainLimit < s.time) :
    execSpanTrainingDone port good s = .next (s.portDown port.val (s.port port.val).good) := by
  unfold execSpanTrainingDone
  dsimp only
  rw [if_neg (not_not_intro training), if_pos (by omega)]

variable (timely : ¬(s.port port.val).since + (s.port port.val).trainLimit < s.time) {good : BitVec 6}
include timely

theorem execSpanTrainingDone_fewer (fewer : goodCount ((s.port port.val).goodAfter good) < 2 ∨
      s.widthAfter port.val ((s.port port.val).goodAfter good) = 0) :
    execSpanTrainingDone port good s = .next (s.portDown port.val ((s.port port.val).goodAfter good)) := by
  have := (s.port port.val).trainLimit_pos
  unfold execSpanTrainingDone
  dsimp only
  rw [if_neg (not_not_intro training), if_neg (by omega)]
  exact if_pos fewer

theorem execSpanTrainingDone_trains (enough : 2 ≤ goodCount ((s.port port.val).goodAfter good))
    (wide : s.widthAfter port.val ((s.port port.val).goodAfter good) ≠ 0) :
    let g := (s.port port.val).goodAfter good
    let w := s.widthAfter port.val g
    let t := s.setPort port.val ((s.port port.val).trainedAt w g s.time)
    execSpanTrainingDone port good s = .next
      (State.meetsWith (if w = s.widthBefore port.val then t else t.degraded port.val (s.widthBefore port.val) w g) port.val) := by
  have := (s.port port.val).trainLimit_pos
  unfold execSpanTrainingDone
  dsimp only
  rw [if_neg (not_not_intro training), if_neg (by omega)]
  exact if_neg (not_or.mpr ⟨Nat.not_lt.mpr enough, wide⟩)

end

theorem State.meetsWith_port (s : State) (i : Nat) : (s.meetsWith i).port i =
    { s.port i with ctrl := (s.port i).ctrl ++ [⟨s.linkRecord i, none⟩, ⟨leBytes 1 6 ++ leBytes 23 0, none⟩] } := by
  simp [State.meetsWith, State.sendCtrl]

theorem PortOnly.meetsWith {s t : State} {i : Nat} (h : PortOnly s t i) : PortOnly s (t.meetsWith i) i := (h.setPort (by rfl)).setPort (by rfl)

/-- A LINK record goes by the configuration and the port's good lane groups. -/
theorem State.linkRecord_congr {s t : State} {i : Nat} (cfg : t.cfg = s.cfg) (good : (t.port i).good = (s.port i).good) :
    t.linkRecord i = s.linkRecord i := by
  unfold State.linkRecord
  rw [cfg, good]

/-- A change of width is logged, where there is one. -/
theorem State.degraded_unless (s : State) (i old new : Nat) (good : BitVec 6) (same : Prop) [Decidable same] :
    ∃ l h, (if same then s else s.degraded i old new good) = s.noted l h ∧ l.pos = s.log.pos + (if same then 0 else 1) := by
  split
  · exact ⟨s.log, s.host, rfl, rfl⟩
  · exact s.event_eq ..

theorem execSpanTrainingTimeout_due {s : State} {port : Fin 8} (training : (s.port port.val).phase = .training)
    (late : (s.port port.val).since + (s.port port.val).trainLimit ≤ s.time) :
    execSpanTrainingTimeout port s = .next (s.portDown port.val (s.port port.val).good) :=
  if_pos ⟨training, by omega⟩

theorem execSpanTrainingTimeout_early {s : State} {port : Fin 8} (early : s.time < (s.port port.val).since + (s.port port.val).trainLimit) :
    execSpanTrainingTimeout port s = .next s :=
  if_neg fun ⟨_, late⟩ => by
    have := (s.port port.val).trainLimit_pos
    omega

/-- Settles O53: whichever way training goes, the port is trained, goes down or retrains, and nothing else changes. -/
theorem portsTrain : Obligations.PortsTrain := by
  intro s port i x
  refine ⟨fun training good => ?_, fun training => ⟨fun h => ?_, fun h => ?_⟩, fun group => ?_, fun group held => ?_⟩
  · intro late g w old
    rw [exec_spanTrainingDone]
    refine ⟨fun h => ?_, fun timely enough wide => ?_, fun timely fewer => ?_⟩
    · rw [execSpanTrainingDone_late training good h]
      exact ⟨_, rfl, s.portDown_wentDown ..⟩
    · obtain ⟨l, h, logged, pos⟩ := (s.setPort i (x.trainedAt w g s.time)).degraded_unless i old w g (w = old)
      let t := (s.setPort i (x.trainedAt w g s.time)).noted l h
      have stands : (t.meetsWith i).port i = _ := (t.meetsWith_port i).trans (by rw [State.noted_port, State.port_setPort])
      have same : (t.meetsWith i).linkRecord i = t.linkRecord i :=
        State.linkRecord_congr rfl (by rw [stands, State.noted_port, State.port_setPort])
      refine ⟨t.meetsWith i, (execSpanTrainingDone_trains training timely enough wide).trans
          (congrArg (fun a : State => Outcome.next (a.meetsWith i)) logged),
        ((s.setPort_only (by rfl)).noted l h).meetsWith, ?_⟩
      rw [same, stands]
      refine ⟨rfl, rfl, rfl, rfl, rfl, rfl, ?_, rfl, pos⟩
      cases none_ : x.unacked <;> simp [Port.trainedAt, none_, b2n]
    · rw [execSpanTrainingDone_fewer training timely fewer]
      exact ⟨_, rfl, s.portDown_wentDown ..⟩
  · rw [exec_spanTrainingTimeout, execSpanTrainingTimeout_due training h]
    exact ⟨_, rfl, s.portDown_wentDown ..⟩
  · exact execSpanTrainingTimeout_early h
  · intro bit training
    exact congrArg _ (if_pos training)
  · intro good
    rw [exec_laneGroupFail]
    refine ⟨fun trained fewer => ?_, fun trained enough few => ?_⟩
    · rw [State.failGroup_trained trained held, if_pos fewer]
      exact ⟨_, rfl, s.portDown_wentDown ..⟩
    · rw [State.failGroup_trained trained held, if_neg (Nat.not_lt.mpr enough), State.retrain_begins enough few]
      refine ⟨_, rfl, State.retrained_only good, rfl, ?_⟩
      rw [State.port_setPort]
      exact ⟨rfl, rfl, rfl, rfl, rfl⟩

end Sys2Proof.Machine
end

section
/-! SUPPORT. Slots: the flits that depart, and what a departure leaves. -/

namespace Sys2Proof.Machine

theorem exec_spanSlot (port : Fin 8) (s : State) : exec (.spanSlot port) s = execSpanSlot port s := rfl

/-- The ACK and NAK that a port puts into a flit's header. -/
def Port.link (x : Port) : Nat := x.rxSeq * 2 ^ 16 + b2n x.nak * 2 ^ 28

theorem Port.makeFlit_eq (x : Port) (fields : Nat) (body : List Byte) : x.makeFlit fields body = flitOf (fields + x.link) body := by
  rw [Port.link, ← Nat.add_assoc]
  rfl

/-! Departures. -/

/-- A port from which a flit has departed. -/
def Port.departs (x : Port) (f : FlitRec) : Port :=
  { x with sent := some f, nak := false, slot := x.slot + 1, frames := x.frames + 1, head := if x.frames % 10 = 0 then x.frameHeader else x.head }

theorem State.sendFlit_eq (s : State) (i : Nat) (f : FlitRec) : s.sendFlit i f = s.setPort i ((s.port i).departs f) := rfl

@[simp] theorem State.sendFlit_port (s : State) (i : Nat) (f : FlitRec) : (s.sendFlit i f).port i = (s.port i).departs f := State.port_setPort ..

/-- Two values of a port at the same flit slot. -/
structure Port.SameSlot (y x : Port) : Prop where
  slot : y.slot = x.slot
  frames : y.frames = x.frames
  width : y.width = x.width
  head : y.head = x.head

theorem Port.SameSlot.frameHeader {y x : Port} (h : y.SameSlot x) : y.frameHeader = x.frameHeader := by
  unfold Port.frameHeader
  rw [h.slot, h.frames, h.width]

/-- A flit departs from a port that has changed in nothing that its slots go by. -/
theorem State.sendFlit_departed {s a : State} {i : Nat} (only : PortOnly s a i) (same : (a.port i).SameSlot (s.port i)) (f : FlitRec) :
    Departed s (a.sendFlit i f) i f where
  sent := by rw [State.sendFlit_port]; rfl
  slot := by
    rw [State.sendFlit_port, ← same.slot, ← same.frames]
    exact ⟨rfl, rfl⟩
  nak := by rw [State.sendFlit_port]; rfl
  head := by
    rw [State.sendFlit_port, ← same.frames, ← same.head, ← same.frameHeader]
    rfl
  only := only.setPort (by rfl)

theorem State.sendFlit_now (s : State) (i : Nat) (f : FlitRec) : Departed s (s.sendFlit i f) i f :=
  State.sendFlit_departed (.refl s i) ⟨rfl, rfl, rfl, rfl⟩ f

/-- A port that keeps a flit until it is acknowledged. -/
def Port.sequenced (x : Port) (f : FlitRec) (now : Nat) : Port :=
  { x with txSeq := (x.txSeq + 1) % 4096, unacked := x.unacked ++ [f], ackAt := if x.unacked.isEmpty then now else x.ackAt }

/-- The sequenced flit that departs next. -/
def Port.nextFlit (x : Port) (fields : Nat) (body : List Byte) : FlitRec := flitOf (fields + x.txSeq * 16 + x.link) body

theorem State.sendSequenced_eq (s : State) (i fields : Nat) (body : List Byte) : s.sendSequenced i fields body =
    (s.setPort i ((s.port i).sequenced ((s.port i).nextFlit fields body) s.time)).sendFlit i ((s.port i).nextFlit fields body) := by
  have same : (s.port i).makeFlit (fields + (s.port i).txSeq * 16) body = (s.port i).nextFlit fields body := Port.makeFlit_eq ..
  rw [← same]
  rfl

theorem State.sendSequenced_port (s : State) (i fields : Nat) (body : List Byte) : (s.sendSequenced i fields body).port i =
    ((s.port i).sequenced ((s.port i).nextFlit fields body) s.time).departs ((s.port i).nextFlit fields body) := by
  rw [State.sendSequenced_eq, State.sendFlit_port, State.port_setPort]

theorem State.sendSequenced_departed {s a : State} {i : Nat} (only : PortOnly s a i) (same : (a.port i).SameSlot (s.port i)) (fields : Nat)
    (body : List Byte) : Departed s (a.sendSequenced i fields body) i ((a.port i).nextFlit fields body) := by
  rw [State.sendSequenced_eq]
  refine State.sendFlit_departed (only.setPort (by rfl)) ?_ _
  rw [State.port_setPort]
  exact ⟨same.slot, same.frames, same.width, same.head⟩

/-! Control flits. -/

/-- The records of a control flit, 24 B each. -/
def State.controlBody (s : State) (i : Nat) : List Byte :=
  (((s.port i).ctrl.take 10).map s.departing).flatMap (fun r => r.take 24 ++ leBytes (24 - r.length) 0)

/-- Where no credit is owed, the control flit carries the first ten records that wait. -/
theorem State.sendControl_eq {s : State} {i : Nat} (none_ : (s.port i).owed.all (fun e => decide (e.2 = 0)) = true) :
    ∃ ping, s.sendControl i = (s.setPort i { s.port i with ctrl := (s.port i).ctrl.drop 10, pingAt := ping }).sendFlit i
      (flitOf (3 + (s.port i).link) (s.controlBody i ++ leBytes (240 - (s.controlBody i).length) 0)) := by
  have paid : (s.port i).owed.any (fun e => decide (e.2 ≠ 0)) = false := by
    rw [List.all_eq_true] at none_
    rw [List.any_eq_false]
    exact fun e he => by simpa using none_ e he
  unfold State.sendControl
  dsimp only
  rw [paid, Bool.false_and]
  simp only [Port.makeFlit_eq, Bool.false_eq_true, if_false, List.nil_append, List.length_nil, Nat.sub_zero]
  exact ⟨_, rfl⟩

/-! Scheduled and bulk flits. -/

/-- The header of a partition's next SCHED flit, but for its number and the port's ACK and NAK. -/
def State.entryHeader (s : State) (i p : Nat) : Nat :=
  1 + p * 2 ^ 32 + (s.part p).tickNo % 256 * 2 ^ 36 + ((s.port i).lane p).txAt % 65536 * 2 ^ 44

/-- A port whose partition's TX entry has departed in its own slot. -/
def Port.entrySent (x : Port) (p : Nat) : Port :=
  { x.onLane p (fun l => { l with txAt := l.txAt + 1 }) with ctr := { x.ctr with lagSlots := sat48 x.ctr.lagSlots 0 } }

theorem Port.entrySent_lane (x : Port) (p : Nat) : (x.entrySent p).lane p = { x.lane p with txAt := (x.lane p).txAt + 1 } :=
  x.lane_onLane p (fun l => { l with txAt := l.txAt + 1 })

/-- A TX entry sent in its own slot. -/
theorem State.sendEntry_timely (s : State) (i p : Nat) (e : TxEntry) : s.sendEntry i p e 0 =
    (s.sendSequenced i (s.entryHeader i p) (s.slotRead p i e.addr 240)).onPort i (fun x => x.entrySent p) := by
  unfold State.sendEntry
  dsimp only
  rw [if_neg (by simp)]
  simp only [Nat.add_zero, ne_eq, not_true_eq_false, decide_false, Bool.or_false]
  rfl

/-- A port whose message under way on VC 1 has given its next flit. -/
def Port.bulkTaken (x : Port) (m : BulkOut) (rest : List (List Byte)) : Port :=
  { x with
    credits := Tbl.put 64 2 (Tbl.get 64 2 x.credits - 1) x.credits
    out := Tbl.put none 1 (if rest.isEmpty then none else some { m with opened := true, bodies := rest }) x.out }

/-- The header of that flit, but for its number and the port's ACK and NAK. -/
def BulkOut.header (m : BulkOut) (rest : List (List Byte)) : Nat :=
  2 + b2n (!m.opened) * 2 ^ 29 + b2n rest.isEmpty * 2 ^ 30 + m.part * 2 ^ 32 + 1 * 2 ^ 44 + m.sub * 2 ^ 46

/-- A message under way on VC 1 sends its next flit. -/
theorem State.sendBulkFlit_under {s : State} {i : Nat} {m : BulkOut} {b : List Byte} {rest : List (List Byte)}
    (under : Tbl.get none 1 (s.port i).out = some m) (bodies : m.bodies = b :: rest) (own : m.back = none)
    (credit : (s.port i).creditFor m ≠ 0) (room : (s.port i).unacked.length < 1024) :
    s.sendBulkFlit i 1 = some ((s.setPort i ((s.port i).bulkTaken m rest)).sendSequenced i (m.header rest) b) := by
  have next : s.nextMessage i 1 = some (m, s.port i) := by
    unfold State.nextMessage
    dsimp only
    rw [under]
  unfold State.sendBulkFlit
  rw [next]
  dsimp only
  rw [if_neg (by omega), bodies]
  refine congrArg some ?_
  split
  · rename_i back
    cases own.symm.trans back
  · rfl

theorem State.sendBulkFlit_none {s : State} {i vc : Nat} (next : s.nextMessage i vc = none) : s.sendBulkFlit i vc = none := by
  unfold State.sendBulkFlit
  rw [next]

/-! The slot. -/

section
variable {s : State} {port : Fin 8} (trained : (s.port port.val).trained = true)
include trained

theorem execSpanSlot_control (slot : (s.port port.val).slot % 25 = 24) : execSpanSlot port s = .next (s.sendControl port.val) := by
  unfold execSpanSlot
  dsimp only
  rw [if_neg (by simp [trained]), if_pos slot]

variable (slot : (s.port port.val).slot % 25 ≠ 24)
include slot

theorem execSpanSlot_quiet (quiet : s.mayCarry port.val = false) :
    execSpanSlot port s = .next (s.sendFlit port.val (flitOf (s.port port.val).link (leBytes 240 0))) := by
  unfold execSpanSlot
  dsimp only
  rw [if_neg (by simp [trained]), if_neg slot, if_pos (by simp [quiet]), Port.makeFlit_eq, Nat.zero_add]

variable (carries : s.mayCarry port.val = true) (fresh : (s.port port.val).resend = 0)
include carries fresh

/-- What a slot for SCHED and BULK flits sends where no replay is under way. -/
theorem execSpanSlot_carries : execSpanSlot port s = .next (match s.dueEntry port.val with
    | some (p, e, grow) => s.sendEntry port.val p e grow
    | none => (s.sendBulkFlit port.val 1).getD ((s.sendBulkFlit port.val 0).getD
      (s.sendFlit port.val (flitOf (s.port port.val).link (leBytes 240 0))))) := by
  unfold execSpanSlot
  dsimp only
  rw [if_neg (by simp [trained]), if_neg slot, if_neg (by simp [carries]), if_neg (not_not_intro fresh), Port.makeFlit_eq, Nat.zero_add]
  cases s.dueEntry port.val with
  | some d => rfl
  | none =>
    cases s.sendBulkFlit port.val 1 with
    | some t => rfl
    | none => cases s.sendBulkFlit port.val 0 <;> rfl

end

/-- The place in the program that moves on leaves the departure. -/
theorem Departed.entrySent {s t : State} {i : Nat} {f : FlitRec} (h : Departed s t i f) (p : Nat) :
    Departed s (t.onPort i (fun x => x.entrySent p)) i f where
  sent := by rw [State.port_onPort]; exact h.sent
  slot := by rw [State.port_onPort]; exact h.slot
  nak := by rw [State.port_onPort]; exact h.nak
  head := by rw [State.port_onPort]; exact h.head
  only := h.only.setPort (by rfl)

/-- Settles O54: the slot's number, and then what waits, give the flit. -/
theorem slotsDepart : Obligations.SlotsDepart := by
  intro s port i x link trained
  refine ⟨fun slot paid => ?_, fun slot quiet => ?_, fun slot carries fresh => ?_⟩
  · intro body
    obtain ⟨ping, e⟩ := State.sendControl_eq paid
    rw [exec_spanSlot, execSpanSlot_control trained slot, e]
    refine ⟨_, rfl, State.sendFlit_departed (s.setPort_only (by rfl)) ?_ _, ?_⟩
    · rw [State.port_setPort]
      exact ⟨rfl, rfl, rfl, rfl⟩
    · rw [State.sendFlit_port, State.port_setPort]
      exact ⟨rfl, rfl⟩
  · rw [exec_spanSlot, execSpanSlot_quiet trained slot quiet]
    refine ⟨_, rfl, s.sendFlit_now .., ?_⟩
    rw [State.sendFlit_port]
    rfl
  · rw [exec_spanSlot, execSpanSlot_carries trained slot carries fresh]
    refine ⟨fun p e due => ?_, fun m b rest due under vc bodies own credit room => ?_, fun due none1 none0 => ?_⟩
    · intro l f
      have same : x.nextFlit (s.entryHeader i p) (s.slotRead p i e.addr 240) = f :=
        congrArg (flitOf · _) (by simp only [link, Port.link, State.entryHeader, l, x]; omega)
      have departed : Departed s (s.sendSequenced i (s.entryHeader i p) (s.slotRead p i e.addr 240)) i f := by
        rw [← same]
        exact State.sendSequenced_departed (.refl s i) ⟨rfl, rfl, rfl, rfl⟩ ..
      rw [due]
      dsimp only
      rw [State.sendEntry_timely]
      refine ⟨_, rfl, departed.entrySent p, ?_⟩
      rw [State.port_onPort, State.sendSequenced_port]
      exact ⟨congrArg (x.unacked ++ [·]) same, rfl, Port.entrySent_lane ..⟩
    · intro f
      have same : (x.bulkTaken m rest).nextFlit (m.header rest) b = f :=
        congrArg (flitOf · _) (by simp only [link, Port.link, Port.bulkTaken, BulkOut.header]; omega)
      have departed := State.sendSequenced_departed (a := s.setPort i (x.bulkTaken m rest)) (s.setPort_only (by rfl))
        (by rw [State.port_setPort]; exact ⟨rfl, rfl, rfl, rfl⟩) (m.header rest) b
      rw [State.port_setPort, same] at departed
      rw [due]
      dsimp only
      rw [State.sendBulkFlit_under under bodies own credit room]
      refine ⟨_, rfl, departed, ?_⟩
      rw [Option.getD_some, State.sendSequenced_port, State.port_setPort, same]
      refine ⟨rfl, Tbl.get_put_same .., (Tbl.get_put_same ..).trans ?_⟩
      simp only [List.isEmpty_iff]
    · rw [due, State.sendBulkFlit_none none1, State.sendBulkFlit_none none0]
      refine ⟨_, rfl, s.sendFlit_now .., ?_⟩
      rw [Option.getD_none, Option.getD_none, State.sendFlit_port]
      rfl

end Sys2Proof.Machine
end

section
/-! SUPPORT. Received flits: what each of them leaves. -/

namespace Sys2Proof.Machine

theorem exec_spanFrame (port : Fin 8) (frame : FrameRec) (s : State) : exec (.spanFrame port frame) s = execSpanFrame port frame s := rfl

/-! What arrives beside. -/

/-- A port but for its replay. -/
def Port.unreplayed (x : Port) : Port := { x with unacked := [], resend := 0, ackAt := 0, replaysInRow := 0 }

/-- What is read off a port but for its replay is the same wherever that is. -/
theorem Port.eq_of_unreplayed {γ : Type} (g : Port → γ) (hg : ∀ x : Port, g x.unreplayed = g x) {x y : Port} (h : y.unreplayed = x.unreplayed) :
    g y = g x := by
  rw [← hg y, h, hg]

theorem Port.acked_unreplayed (x : Port) (ack now : Nat) : (x.acked ack now).unreplayed = x.unreplayed := by
  unfold Port.acked
  split <;> rfl

theorem Port.acked_none {x : Port} (all : x.unacked = []) (ack now : Nat) : x.acked ack now = x := by
  unfold Port.acked
  rw [all]
  rfl

/-- One port has changed, and nothing else. -/
structure PortApart (s t : State) (i : Nat) : Prop where
  outside : { t with ports := s.ports } = s
  others : ∀ j, j ≠ i → t.port j = s.port j

theorem PortApart.refl (s : State) (i : Nat) : PortApart s s i := ⟨rfl, fun _ _ => rfl⟩

theorem PortApart.trans {s t u : State} {i : Nat} (h : PortApart s t i) (k : PortApart t u i) : PortApart s u i where
  outside := (congrArg (fun a : State => { a with ports := s.ports }) k.outside).trans h.outside
  others j hj := (k.others j hj).trans (h.others j hj)

theorem PortApart.setPort {s t : State} {i : Nat} (h : PortApart s t i) (x : Port) : PortApart s (t.setPort i x) i :=
  ⟨h.outside, fun j hj => (State.port_setPort_ne _ _ hj).trans (h.others j hj)⟩

theorem PortApart.eq {s t : State} {i : Nat} (h : PortApart s t i) {γ : Type} (g : State → γ)
    (hg : ∀ a : State, g { a with ports := s.ports } = g a) :
    g t = g s := by
  rw [← hg t, h.outside]

theorem PortApart.only {s t : State} {i : Nat} (h : PortApart s t i) (store : (t.port i).store = (s.port i).store) : PortOnly s t i where
  outside := (congrArg (fun a : State => { a with log := s.log, host := s.host }) h.outside :)
  others := h.others
  store a := by rw [store]

/-- What IDLE flits change: the replay of the port that they come on, if it has flits to send again. -/
structure Idled (s t : State) (i : Nat) : Prop where
  apart : PortApart s t i
  port : (t.port i).unreplayed = (s.port i).unreplayed
  still : (s.port i).unacked = [] → t.port i = s.port i

theorem Idled.refl (s : State) (i : Nat) : Idled s s i := ⟨.refl s i, rfl, fun _ => rfl⟩

theorem Idled.trans {s t u : State} {i : Nat} (h : Idled s t i) (k : Idled t u i) : Idled s u i where
  apart := h.apart.trans k.apart
  port := k.port.trans h.port
  still all := (k.still (by rw [h.still all, all])).trans (h.still all)

theorem Idled.trained {s t : State} {i : Nat} (h : Idled s t i) : (t.port i).trained = (s.port i).trained :=
  Port.eq_of_unreplayed Port.trained (fun _ => rfl) h.port

theorem Idled.only {s t : State} {i : Nat} (h : Idled s t i) : PortOnly s t i :=
  h.apart.only (Port.eq_of_unreplayed Port.store (fun _ => rfl) h.port)

/-- An IDLE flit gives an ACK and no more. -/
theorem State.takeFlit_idle {s : State} {i : Nat} {f : FlitRec} (trained : (s.port i).trained = true) (idle : idles f = true) :
    Idled s (s.takeFlit i f) i := by
  obtain ⟨⟨type, good⟩, calm⟩ : (f.type = 0 ∧ f.good = true) ∧ bit1 f.header 28 = false := by simpa [idles] using idle
  have e : s.takeFlit i f = s.setPort i ((s.port i).acked (fld f.header 27 16) s.time) := by
    unfold State.takeFlit
    dsimp only
    rw [if_neg (by simp [trained]), if_neg (by simp [type]), if_neg (by simp [good]), if_neg (by simp [calm]), State.acceptFlit]
    dsimp only
    rw [if_pos (by simp [type]), State.dropFlit, if_neg (by simp [type])]
  rw [e]
  refine ⟨(PortApart.refl s i).setPort _, ?_, fun all => ?_⟩
  · rw [State.port_setPort, Port.acked_unreplayed]
  · rw [State.port_setPort, Port.acked_none all]

theorem foldl_idles {i : Nat} {l : List FlitRec} (idle : ∀ f ∈ l, idles f = true) {s : State} (trained : (s.port i).trained = true) :
    Idled s (l.foldl (fun (a : State) f => a.takeFlit i f) s) i := by
  induction l generalizing s with
  | nil => exact .refl s i
  | cons f l ih =>
    have first := State.takeFlit_idle trained (idle f List.mem_cons_self)
    exact first.trans (ih (fun g hg => idle g (List.mem_cons_of_mem f hg)) (first.trained.trans trained))

/-! Flits that are lost. -/

/-- A port that has counted flits of TYPE SCHED as discarded. -/
def Port.discards (x : Port) (n : Nat) : Port := { x with ctr := { x.ctr with schedDiscard := n } }

theorem sat32_zero {n : Nat} (h : n < 2 ^ 32) : sat32 n 0 = n := by
  unfold sat32
  omega

theorem sat32_sat32 (n k m : Nat) : sat32 (sat32 n k) m = sat32 n (k + m) := by
  unfold sat32
  omega

theorem sat32_lt (n k : Nat) : sat32 n k < 2 ^ 32 := by
  unfold sat32
  omega

/-- The flits of a frame that doesn't decode are lost, and those of TYPE SCHED counted. -/
theorem foldl_dropFlit (i : Nat) (l : List FlitRec) (s : State) : ∃ n,
    let t := l.foldl (fun (a : State) f => a.dropFlit i f) s
    PortOnly s t i ∧ t.log = s.log ∧ t.port i = (s.port i).discards n ∧
      ((s.port i).ctr.schedDiscard < 2 ^ 32 → n = sat32 (s.port i).ctr.schedDiscard (l.filter (fun f => decide (f.type = 1))).length) := by
  induction l generalizing s with
  | nil => exact ⟨_, .refl s i, rfl, rfl, fun h => (sat32_zero h).symm⟩
  | cons f l ih =>
    obtain ⟨n, only, log, port, count⟩ := ih (s.dropFlit i f)
    refine ⟨n, ?_⟩
    rw [List.foldl_cons]
    by_cases sched : f.type = 1
    · have drop : s.dropFlit i f = s.setPort i ((s.port i).discards (sat32 (s.port i).ctr.schedDiscard 1)) := if_pos sched
      rw [drop] at only log port count ⊢
      rw [State.port_setPort] at port count
      refine ⟨(s.setPort_only (by rfl)).trans only, log, port, fun _ => ?_⟩
      rw [count (sat32_lt ..), Port.discards, sat32_sat32, List.filter_cons_of_pos (by simpa using sched), List.length_cons, Nat.add_comm]
    · have drop : s.dropFlit i f = s := if_neg sched
      rw [drop] at only log port count ⊢
      rw [List.filter_cons_of_neg (by simpa using sched)]
      exact ⟨only, log, port, count⟩

/-- A port that has received a sequenced flit with a wrong CRC, of TYPE SCHED. -/
def Port.missed (x : Port) : Port :=
  (Port.discard { x with ctr := { x.ctr with flitCrc := sat32 x.ctr.flitCrc 1 } }).discards (sat32 x.ctr.schedDiscard 1)

theorem Port.discard_ctr (x : Port) : x.discard.ctr = x.ctr := by
  unfold Port.discard
  split <;> rfl

theorem Port.discard_rxSeq (x : Port) : x.discard.rxSeq = x.rxSeq := by
  unfold Port.discard
  split <;> rfl

theorem Port.discard_fixes (x : Port) : x.discard.fixes = x.fixes := by
  unfold Port.discard
  split <;> rfl

theorem Port.discard_phase (x : Port) : x.discard.phase = x.phase := by
  unfold Port.discard
  split <;> rfl

theorem Port.discard_nak {x : Port} (first : x.discarding = false) : x.discard.nak = true := by
  unfold Port.discard
  rw [if_neg (by simp [first])]

theorem Port.missed_unreplayed (x : Port) : x.missed.unreplayed = x.unreplayed.missed := by
  unfold Port.missed Port.discard
  cases h : x.discarding <;> simp [Port.unreplayed, Port.discards, h]

theorem Port.missed_fixes (x : Port) : x.missed.fixes = x.fixes := Port.discard_fixes _

theorem Port.missed_trained (x : Port) : x.missed.trained = x.trained := by
  unfold Port.trained
  rw [show x.missed.phase = x.phase from Port.discard_phase _]

/-- A SCHED flit with a wrong CRC. -/
theorem State.takeFlit_bad {s : State} {i : Nat} {f : FlitRec} (trained : (s.port i).trained = true) (sched : f.type = 1) (bad : f.good = false) :
    PortOnly s (s.takeFlit i f) i ∧ (s.takeFlit i f).port i = (s.port i).missed := by
  have e : s.takeFlit i f = State.schedDiscard (s.setPort i (Port.discard { s.port i with
      ctr := { (s.port i).ctr with flitCrc := sat32 (s.port i).ctr.flitCrc 1 } })) i := by
    unfold State.takeFlit
    dsimp only
    rw [if_neg (by simp [trained]), if_neg (by simp [sched]), if_pos (by simp [bad]), if_pos (.inl sched), State.dropFlit, if_pos sched]
  rw [e]
  refine ⟨(s.setPort_only (by exact Port.discard_store _)).setPort (by rfl), ?_⟩
  rw [State.schedDiscard, State.port_onPort, State.port_setPort, Port.missed, Port.discards, Port.discard_ctr]

end Sys2Proof.Machine
end

section
/-! SUPPORT. RX actions: the flit in its turn, and what it leaves in the slot store. -/

namespace Sys2Proof.Machine

/-! The bytes of an RX action. -/

/-- Pieces of two lists, joined pair by pair into pieces of the same length. -/
theorem length_flatMap_pieces {k n : Nat} (pos : 0 < k) {a b : List Byte} (ha : a.length = n * k) (hb : b.length = n * k)
    {g : List Byte × List Byte → List Byte} (hg : ∀ q, (g q).length = k) :
    (((piecesOf a.length k a).zip (piecesOf b.length k b)).flatMap g).length = n * k := by
  have whole : n ≤ n * k := Nat.le_mul_of_pos_right n pos
  rw [piecesOf_whole pos (ha ▸ whole) ha, piecesOf_whole pos (hb ▸ whole) hb, List.length_flatMap]
  simp [hg]

theorem reduceBytes_length (red : Nat) {a b : List Byte} {n : Nat} (ha : a.length = n * 4) (hb : b.length = n * 4) :
    (reduceBytes red a b).length = n * 4 := by
  unfold reduceBytes
  split
  · exact length_flatMap_pieces (by decide) ha hb fun _ => leBytes_length ..
  · have h := length_flatMap_pieces (k := 2) (n := n * 2) (by decide) (a := a) (b := b) (by omega) (by omega)
      (g := fun q => leBytes 2 (Elem.bf16.convert (Val.sum [Elem.bf16.decode (leNat q.1), Elem.bf16.decode (leNat q.2)])).code)
      fun _ => leBytes_length ..
    omega

theorem rxBytes_length (action : Nat) {old body : List Byte} {n : Nat} (ho : old.length = n * 4) (hb : body.length = n * 4) :
    (rxBytes action old body).length = n * 4 := by
  unfold rxBytes
  split
  · exact hb
  · exact reduceBytes_length _ hb ho

/-! The slot store. -/

@[simp] theorem State.slotRead_length (s : State) (p i off n : Nat) : (s.slotRead p i off n).length = n := by
  simp [State.slotRead]

/-- A region reads back what was written into it. -/
theorem State.slotRead_written {t : State} {p i off : Nat} {bs : List Byte} {m : Bytes}
    (store : (t.port i).store = Tbl.putRun 0#8 ((t.cfg.lane p i).base + off) bs m) (fits : off + bs.length ≤ (t.cfg.lane p i).size) :
    t.slotRead p i off bs.length = bs := by
  refine List.ext_getElem (State.slotRead_length ..) fun k h₁ h₂ => ?_
  simp only [State.slotRead, List.getElem_map, List.getElem_range]
  rw [if_pos (by omega), store, Tbl.get_putRun, if_pos (by omega), Nat.add_sub_cancel_left, List.getD_eq_getElem _ _ h₂]

/-! The flit in its turn. -/

/-- A SCHED flit for a partition that runs this tick names the RX action that its program has next on a port. -/
structure RxNext (s : State) (i : Nat) (f : FlitRec) (e : RxEntry) : Prop where
  thawed : bit1 (s.part (fld f.header 35 32)).slotsFrozen i = false
  plays : s.plays (fld f.header 35 32) = true
  tick : fld f.header 43 36 = (s.part (fld f.header 35 32)).tickNo % 256
  entry : ((s.port i).lane (fld f.header 35 32)).program.bind (fun g => g.rx[((s.port i).lane (fld f.header 35 32)).rxAt]?) = some e
  turn : fld f.header 59 44 = ((s.port i).lane (fld f.header 35 32)).rxAt % 65536
  fits : e.addr + 240 ≤ (s.cfg.lane (fld f.header 35 32) i).size

/-- It is the port's next sequenced flit too, and nothing waits for an ACK. -/
structure RxDue (s : State) (i : Nat) (f : FlitRec) (e : RxEntry) : Prop where
  next : RxNext s i f e
  up : (s.port i).phase = .up
  all : (s.port i).unacked = []
  seq : f.seq = ((s.port i).rxSeq + 1) % 4096

/-- What the RX action goes by: the port's lanes, the partitions and the configuration. -/
theorem RxNext.congr {s t : State} {i : Nat} {f : FlitRec} {e : RxEntry} (h : RxNext s i f e) (apart : PortApart s t i)
    (lanes : (t.port i).lanes = (s.port i).lanes) : RxNext t i f e := by
  have part : t.part (fld f.header 35 32) = s.part (fld f.header 35 32) := apart.eq (State.part · _) fun _ => rfl
  have plays : t.plays (fld f.header 35 32) = s.plays (fld f.header 35 32) := apart.eq (State.plays · _) fun _ => rfl
  have lane : (t.port i).lane (fld f.header 35 32) = (s.port i).lane (fld f.header 35 32) := by
    unfold Port.lane
    rw [lanes]
  have cfg : t.cfg = s.cfg := apart.eq State.cfg fun _ => rfl
  exact ⟨part ▸ h.thawed, plays ▸ h.plays, part ▸ h.tick, lane ▸ h.entry, lane ▸ h.turn, cfg ▸ h.fits⟩

/-- IDLE flits before it leave it due. -/
theorem RxDue.idled {s t : State} {i : Nat} {f : FlitRec} {e : RxEntry} (h : RxDue s i f e) (k : Idled s t i) : RxDue t i f e := by
  have port := k.still h.all
  exact ⟨h.next.congr k.apart (by rw [port]), by rw [port, h.up], by rw [port, h.all], by rw [port, h.seq]⟩

/-- A port on which an RX action has been accepted. -/
def Port.rxTaken (x : Port) (p seq now : Nat) (e : RxEntry) (store : Bytes) : Port :=
  { x.onLane p (fun l => { l with rxAt := l.rxAt + 1 }) with
    rxSeq := seq, discarding := false, store := store
    pendingRx := x.pendingRx ++ [⟨p, now + 20 * unitsPerNs, if e.push then some (e.spire, e.queue, e.literal) else none⟩] }

theorem Port.rxTaken_rxAt (x : Port) (p seq now : Nat) (e : RxEntry) (store : Bytes) :
    ((x.rxTaken p seq now e store).lane p).rxAt = (x.lane p).rxAt + 1 :=
  congrArg Lane.rxAt (x.lane_onLane p (fun l => { l with rxAt := l.rxAt + 1 }))

/-- The slot store after an RX action. -/
def State.rxStore (s : State) (i : Nat) (f : FlitRec) (e : RxEntry) : Bytes :=
  Tbl.putRun 0#8 ((s.cfg.lane (fld f.header 35 32) i).base + e.addr)
    (rxBytes e.action (s.slotRead (fld f.header 35 32) i e.addr 240) f.body) (s.port i).store

section
variable {s : State} {i : Nat} {f : FlitRec} {e : RxEntry}

/-- The RX action of a flit. -/
theorem RxNext.takeSched (h : RxNext s i f e) : s.takeSched i f =
    (s.slotWrite (fld f.header 35 32) i e.addr (rxBytes e.action (s.slotRead (fld f.header 35 32) i e.addr 240) f.body)).onPort i fun y =>
      { y.onLane (fld f.header 35 32) (fun l => { l with rxAt := l.rxAt + 1 }) with
        pendingRx := y.pendingRx ++
          [⟨fld f.header 35 32, s.time + 20 * unitsPerNs, if e.push then some (e.spire, e.queue, e.literal) else none⟩] } := by
  have := h.fits
  unfold State.takeSched
  dsimp only
  rw [if_neg (by omega), if_neg (by simp [h.thawed, h.plays, h.tick]), h.entry]
  exact if_pos h.turn

/-- The state once the link layer has accepted a flit that acknowledges nothing. -/
def State.seqTaken (s : State) (i : Nat) (f : FlitRec) : State :=
  (s.setPort i (s.port i)).setPort i { s.port i with rxSeq := f.seq, discarding := false }

theorem State.seqTaken_port : (s.seqTaken i f).port i = { s.port i with rxSeq := f.seq, discarding := false } := State.port_setPort ..

theorem State.seqTaken_apart : PortApart s (s.seqTaken i f) i := ((PortApart.refl s i).setPort _).setPort _

theorem State.seqTaken_slotRead (p off n : Nat) : (s.seqTaken i f).slotRead p i off n = s.slotRead p i off n := by
  unfold State.slotRead
  rw [State.seqTaken_port]
  rfl

/-- The link layer accepts the flit in its turn. -/
theorem RxDue.takeFlit (h : RxDue s i f e) (type : f.type = 1) (good : f.good = true) (calm : bit1 f.header 28 = false) :
    s.takeFlit i f = (s.seqTaken i f).takeSched i f := by
  have trained : (s.port i).trained = true := by simp [Port.trained, h.up]
  unfold State.takeFlit
  dsimp only
  rw [if_neg (by simp [trained]), if_neg (by simp [type]), if_neg (by simp [good]), if_neg (by simp [calm]), Port.acked_none h.all, State.acceptFlit]
  dsimp only
  rw [State.port_setPort, if_neg (by simp [type, h.up]), if_neg (not_not_intro h.seq), if_pos type]
  rfl

/-- Writing an RX action's bytes, all of which lie in the region. -/
theorem RxNext.slotWrite_port (h : RxNext s i f e) (body : f.body.length = 240) :
    ((s.slotWrite (fld f.header 35 32) i e.addr (rxBytes e.action (s.slotRead (fld f.header 35 32) i e.addr 240) f.body)).port i) =
      { s.port i with store := s.rxStore i f e } := by
  have fits := h.fits
  have bytes := rxBytes_length e.action (s.slotRead_length (fld f.header 35 32) i e.addr 240) (n := 60) body
  rw [State.slotWrite, State.port_onPort, List.take_of_length_le (by omega)]
  rfl

/-- The bytes of the RX action stand where its entry says. -/
theorem RxNext.rxStore_read (h : RxNext s i f e) (body : f.body.length = 240) {t : State} (cfg : t.cfg = s.cfg)
    (store : (t.port i).store = s.rxStore i f e) :
    t.slotRead (fld f.header 35 32) i e.addr 240 = rxBytes e.action (s.slotRead (fld f.header 35 32) i e.addr 240) f.body := by
  have bytes := rxBytes_length e.action (s.slotRead_length (fld f.header 35 32) i e.addr 240) (n := 60) body
  have read := State.slotRead_written (t := t) (p := fld f.header 35 32) (store.trans (by rw [State.rxStore, cfg])) (by rw [bytes, cfg]; exact h.fits)
  rwa [bytes] at read

/-- No other byte of the slot store changes. -/
theorem State.rxStore_apart (body : f.body.length = 240) {a : Nat} (apart : a < (s.cfg.lane (fld f.header 35 32) i).base + e.addr ∨
    (s.cfg.lane (fld f.header 35 32) i).base + e.addr + 240 ≤ a) : Tbl.get 0#8 a (s.rxStore i f e) = Tbl.get 0#8 a (s.port i).store := by
  have bytes := rxBytes_length e.action (s.slotRead_length (fld f.header 35 32) i e.addr 240) (n := 60) body
  rw [State.rxStore, Tbl.get_putRun, if_neg (by omega)]

/-- Its RX action is carried out on the slot store. -/
theorem RxDue.acts (h : RxDue s i f e) (type : f.type = 1) (good : f.good = true) (calm : bit1 f.header 28 = false) (body : f.body.length = 240) :
    PortApart s (s.takeFlit i f) i ∧
      (s.takeFlit i f).port i = (s.port i).rxTaken (fld f.header 35 32) f.seq s.time e (s.rxStore i f e) := by
  have next : RxNext (s.seqTaken i f) i f e := h.next.congr State.seqTaken_apart (by rw [State.seqTaken_port])
  rw [h.takeFlit type good calm, next.takeSched]
  refine ⟨(State.seqTaken_apart.setPort _).setPort _, ?_⟩
  rw [State.port_onPort, next.slotWrite_port body, State.rxStore, State.seqTaken_slotRead, State.seqTaken_port]
  rfl

end

end Sys2Proof.Machine
end

section
/-! SUPPORT. Received frames, replays and RX actions, settled. -/

namespace Sys2Proof.Machine

theorem exec_replayTimeout (port : Fin 8) (s : State) : exec (.replayTimeout port) s = execReplayTimeout port s := rfl
theorem exec_rxActionComplete (port : Fin 8) (s : State) : exec (.rxActionComplete port) s = execRxActionComplete port s := rfl

/-! Frames. -/

/-- The corrected symbols of the latest 1 ms, those of a frame among them. -/
def Port.fixesWith (x : Port) (now : Nat) (frame : FrameRec) : List (Nat × Nat × Nat) :=
  (x.fixes.filter (fun q => decide (now - q.1 ≤ 1000 * unitsPerMs)))
    ++ ((frame.corrected.zipIdx.filter (fun q => decide (q.1 ≠ 0))).map (fun q => (now, q.2, q.1)))

/-- A port that has met a frame with a good header. -/
def Port.framed (x : Port) (now : Nat) (frame : FrameRec) : Port :=
  { x with
    fixes := x.fixesWith now frame, badHeads := 0
    ctr := { x.ctr with
      fecSymbols := wrap48 x.ctr.fecSymbols (frame.corrected.foldl (· + ·) 0), uncorr := sat32 x.ctr.uncorr (b2n (!frame.decoded)) } }

/-- The lane groups that fail by the corrected symbols of the latest 1 ms, those of a frame among them. -/
def State.noisyWith (s : State) (i : Nat) (frame : FrameRec) : List Nat :=
  ({ s.port i with fixes := (s.port i).fixesWith s.time frame } : Port).noisyGroups s.time

/-- Such lane groups go by the corrected symbols alone. -/
theorem Port.noisyGroups_congr {x y : Port} (h : y.fixes = x.fixes) (now : Nat) : y.noisyGroups now = x.noisyGroups now := by
  unfold Port.noisyGroups Port.corrected
  rw [h]

theorem State.noisyWith_of_fixes {s : State} {i : Nat} {frame : FrameRec} {y : Port} (h : y.fixes = (s.port i).fixesWith s.time frame) :
    y.noisyGroups s.time = s.noisyWith i frame := Port.noisyGroups_congr h _

theorem PortOnly.time {s t : State} {i : Nat} (h : PortOnly s t i) : t.time = s.time := (congrArg State.time h.outside :)

section
variable {s u : State} {port : Fin 8} {frame : FrameRec} (edge : s.dueEdge = u)
    (trained : (u.port port.val).trained = true)
  (head : crc16 (frame.header.take 8) = le frame.header 8 2)
include edge trained head

/-- A frame with a good header: its flits, then the lane groups. -/
theorem execSpanFrame_headed :
    let v := frame.flits.foldl (fun (a : State) f => if frame.decoded then a.takeFlit port.val f else a.dropFlit port.val f)
      (u.setPort port.val ((u.port port.val).framed u.time frame))
    execSpanFrame port frame s = .next (((v.port port.val).noisyGroups u.time).foldl (fun (a : State) g => a.failGroup port.val g) v) := by
  subst edge
  unfold execSpanFrame
  dsimp only
  rw [if_neg (by simp [trained]), if_pos head, if_neg (by simp)]
  rfl

/-- The flits of one that doesn't decode are lost. -/
theorem execSpanFrame_lost (lost : frame.decoded = false) : ∃ v n,
    execSpanFrame port frame s = .next
      ((u.noisyWith port.val frame).foldl (fun (a : State) g => a.failGroup port.val g) v) ∧
      PortOnly u v port.val ∧ v.log = u.log ∧ v.port port.val = ((u.port port.val).framed u.time frame).discards n ∧
      ((u.port port.val).ctr.schedDiscard < 2 ^ 32 →
        n = sat32 (u.port port.val).ctr.schedDiscard (frame.flits.filter (fun f => decide (f.type = 1))).length) := by
  have e := execSpanFrame_headed edge trained head
  simp only [lost, Bool.false_eq_true, if_false] at e
  obtain ⟨n, only, log, stands, count⟩ := foldl_dropFlit port.val frame.flits (u.setPort port.val ((u.port port.val).framed u.time frame))
  rw [State.port_setPort] at stands count
  rw [State.noisyWith_of_fixes (by rw [stands]; rfl)] at e
  exact ⟨_, n, e, (u.setPort_only (by rfl)).trans only, log, stands, count⟩

/-- One whose flits but one are IDLE, and whose lanes are quiet. -/
theorem execSpanFrame_one (decoded : frame.decoded = true) (quiet : u.noisyWith port.val frame = [])
    {pre post : List FlitRec} {f : FlitRec}
    (flits : frame.flits = pre ++ f :: post) (idle : ∀ g ∈ pre ++ post, idles g = true)
    (keeps : ∀ a, Idled (u.setPort port.val ((u.port port.val).framed u.time frame)) a port.val →
      ((a.takeFlit port.val f).port port.val).trained = true ∧ ((a.takeFlit port.val f).port port.val).fixes = (u.port port.val).fixesWith u.time frame) :
    ∃ a t, execSpanFrame port frame s = .next t ∧ Idled (u.setPort port.val ((u.port port.val).framed u.time frame)) a port.val ∧
      Idled (a.takeFlit port.val f) t port.val := by
  have e := execSpanFrame_headed edge trained head
  simp only [decoded, if_true, flits, List.foldl_append, List.foldl_cons] at e
  have before := foldl_idles (fun g hg => idle g (List.mem_append_left post hg)) (s := u.setPort port.val ((u.port port.val).framed u.time frame))
    (by rw [State.port_setPort]; exact trained)
  obtain ⟨trained', fixes⟩ := keeps _ before
  have after := foldl_idles (fun g hg => idle g (List.mem_append_right pre hg)) trained'
  rw [State.noisyWith_of_fixes ((Port.eq_of_unreplayed Port.fixes (fun _ => rfl) after.port).trans fixes), quiet] at e
  exact ⟨_, _, e, before, after⟩

end

/-! Replays and pushes. -/

/-- A port that sends what is unacknowledged again. -/
def Port.replays (x : Port) (now : Nat) : Port :=
  { x with resend := x.unacked.length, replaysInRow := x.replaysInRow + 1, ackAt := now, ctr := { x.ctr with replays := sat32 x.ctr.replays 1 } }

/-- After 2 µs without an ACK what is unacknowledged is sent again, or after 8 times the port retrains. -/
theorem execReplayTimeout_due {s : State} {port : Fin 8} (up : (s.port port.val).phase = .up) (some_ : (s.port port.val).unacked ≠ [])
    (long : (s.port port.val).ackAt + 2 * unitsPerUs ≤ s.time) : execReplayTimeout port s = .next
      (if 8 ≤ (s.port port.val).replaysInRow then s.retrain port.val (s.port port.val).good
        else s.setPort port.val ((s.port port.val).replays s.time)) := by
  unfold execReplayTimeout
  dsimp only
  rw [if_pos ⟨up, by simp [some_], by omega⟩, State.startReplay]
  dsimp only
  rw [if_neg (by simp [some_])]
  rfl

/-- The oldest RX action whose time has come is complete, and sends its push. -/
theorem execRxActionComplete_due {s : State} {port : Fin 8} {r : RxPending} {rest : List RxPending}
    (oldest : (s.port port.val).pendingRx = r :: rest) (due : r.at_ ≤ s.time) :
    let t := s.setPort port.val { s.port port.val with pendingRx := rest }
    execRxActionComplete port s = .next (match r.push with
      | none => t
      | some (sp, q, h) => (t.sendPush sp .spanRx sp q h).2) := by
  intro t
  unfold execRxActionComplete
  dsimp only
  rw [oldest]
  dsimp only
  rw [if_neg (by omega)]
  cases r.push <;> rfl

/-- A port that keeps its slot store, and a push, leave every memory as it was. -/
theorem SameMemory.of_push (s : State) {i : Nat} {x : Port} (store : x.store = (s.port i).store) (sp q : Nat) (h : W32) :
    SameMemory s ((s.setPort i x).sendPush sp .spanRx sp q h).2 where
  sram _ _ := rfl
  hbm _ := rfl
  flash _ := rfl
  image _ := rfl
  slots j a := by
    by_cases hj : j = i
    · subst hj
      exact ((s.setPort_only store).store a :)
    · exact congrArg (fun y : Port => Tbl.get 0#8 a y.store) (s.port_setPort_ne x hj)
  mailboxes _ _ := ⟨rfl, rfl⟩

/-! What a frame does. -/

/-- A lane group of a port that has met a frame fails. -/
theorem State.failGroup_framed {u v : State} {i g n : Nat} {frame : FrameRec} (only : PortOnly u v i)
    (stands : v.port i = ((u.port i).framed u.time frame).discards n) (trained : (u.port i).trained = true) (held : bit1 (u.port i).good g = true) :
    let good := (u.port i).good &&& ~~~(BitVec.ofNat 6 (2 ^ g))
    (goodCount good < 2 → PortOnly u (v.failGroup i g) i ∧ ((v.failGroup i g).port i).phase = .down) ∧
    (2 ≤ goodCount good → u.recentRetrains i < 2 → PortOnly u (v.failGroup i g) i ∧
      ((v.failGroup i g).port i).phase = .training ∧ ((v.failGroup i g).port i).retraining = true ∧ ((v.failGroup i g).port i).good = good) := by
  intro good
  have same : (v.port i).good = (u.port i).good := by rw [stands]; rfl
  have retrains : v.recentRetrains i = u.recentRetrains i := by
    unfold State.recentRetrains
    rw [stands, only.time]
    rfl
  have fails := State.failGroup_trained (s := v) (group := g) (by rw [stands]; exact trained) (by rw [same]; exact held)
  rw [same] at fails
  refine ⟨fun fewer => ?_, fun enough few => ?_⟩
  · obtain ⟨down, phase, -⟩ := v.portDown_wentDown i good
    rw [fails, if_pos fewer]
    exact ⟨only.trans down, phase⟩
  · rw [fails, if_neg (Nat.not_lt.mpr enough), State.retrain_begins enough (retrains ▸ few)]
    refine ⟨only.trans (State.retrained_only good), ?_⟩
    rw [State.port_setPort]
    exact ⟨rfl, rfl, rfl⟩

/-- What a SCHED flit with a wrong CRC leaves of its frame. -/
theorem execSpanFrame_bad {s u : State} {port : Fin 8} {frame : FrameRec} (edge : s.dueEdge = u)
    (trained : (u.port port.val).trained = true)
    (head : crc16 (frame.header.take 8) = le frame.header 8 2) (decoded : frame.decoded = true) (quiet : u.noisyWith port.val frame = [])
    {pre post : List FlitRec} {f : FlitRec}
    (flits : frame.flits = pre ++ f :: post) (idle : ∀ g ∈ pre ++ post, idles g = true) (sched : f.type = 1) (bad : f.good = false) :
    ∃ t, execSpanFrame port frame s = .next t ∧ PortOnly u t port.val ∧
      (t.port port.val).unreplayed = ((u.port port.val).framed u.time frame).missed.unreplayed := by
  have miss {a : State} (h : Idled (u.setPort port.val ((u.port port.val).framed u.time frame)) a port.val) :
      PortOnly a (a.takeFlit port.val f) port.val ∧
        ((a.takeFlit port.val f).port port.val).unreplayed = ((u.port port.val).framed u.time frame).missed.unreplayed := by
    have live : (a.port port.val).trained = true := by
      rw [h.trained, State.port_setPort]
      exact trained
    obtain ⟨only, stands⟩ := State.takeFlit_bad live sched bad
    refine ⟨only, ?_⟩
    have port := h.port
    rw [State.port_setPort] at port
    rw [stands, Port.missed_unreplayed, port, Port.missed_unreplayed]
  obtain ⟨a, t, e, before, after⟩ := execSpanFrame_one edge trained head decoded quiet flits idle fun a h => by
    have stands := (miss h).2
    exact ⟨(Port.eq_of_unreplayed Port.trained (fun _ => rfl) stands).trans ((Port.missed_trained _).trans trained),
      (Port.eq_of_unreplayed Port.fixes (fun _ => rfl) stands).trans (Port.missed_fixes _)⟩
  exact ⟨t, e, ((u.setPort_only (by rfl)).trans before.only).trans ((miss before).1.trans after.only), after.port.trans (miss before).2⟩

/-- What a SCHED flit in its turn leaves of its frame. -/
theorem execSpanFrame_rx {s u : State} {port : Fin 8} {frame : FrameRec} (edge : s.dueEdge = u)
    (trained : (u.port port.val).trained = true)
    (head : crc16 (frame.header.take 8) = le frame.header 8 2) (decoded : frame.decoded = true) (quiet : u.noisyWith port.val frame = [])
    {pre post : List FlitRec} {f : FlitRec} {r : RxEntry}
    (flits : frame.flits = pre ++ f :: post) (idle : ∀ g ∈ pre ++ post, idles g = true) (due : RxDue u port.val f r) (type : f.type = 1)
    (good : f.good = true) (calm : bit1 f.header 28 = false) (body : f.body.length = 240) :
    ∃ t, execSpanFrame port frame s = .next t ∧ PortApart u t port.val ∧
      t.port port.val = ((u.port port.val).framed u.time frame).rxTaken (fld f.header 35 32) f.seq u.time r (u.rxStore port.val f r) := by
  have headed : PortApart u (u.setPort port.val ((u.port port.val).framed u.time frame)) port.val := (PortApart.refl u port.val).setPort _
  have stands := u.port_setPort port.val ((u.port port.val).framed u.time frame)
  have first : RxDue (u.setPort port.val ((u.port port.val).framed u.time frame)) port.val f r :=
    ⟨due.next.congr headed (by rw [stands]; rfl), by rw [stands]; exact due.up, by rw [stands]; exact due.all, by rw [stands]; exact due.seq⟩
  have taken {a : State} (h : Idled (u.setPort port.val ((u.port port.val).framed u.time frame)) a port.val) :
      PortApart u (a.takeFlit port.val f) port.val ∧ (a.takeFlit port.val f).port port.val =
        ((u.port port.val).framed u.time frame).rxTaken (fld f.header 35 32) f.seq u.time r (u.rxStore port.val f r) := by
    obtain ⟨apart, here⟩ := (first.idled h).acts type good calm body
    have same : a.port port.val = (u.port port.val).framed u.time frame := (h.still first.all).trans stands
    have store : a.rxStore port.val f r = u.rxStore port.val f r := by
      unfold State.rxStore State.slotRead
      rw [same, h.apart.eq State.cfg fun _ => rfl]
      rfl
    rw [same, store, h.apart.eq State.time fun _ => rfl] at here
    exact ⟨(headed.trans h.apart).trans apart, here⟩
  obtain ⟨a, t, e, before, after⟩ := execSpanFrame_one edge trained head decoded quiet flits idle fun a h => by
    rw [(taken h).2]
    exact ⟨trained, rfl⟩
  obtain ⟨apart, here⟩ := taken before
  exact ⟨t, e, apart.trans after.apart, (after.still (by rw [here]; exact due.all)).trans here⟩

/-- Settles O55: a frame is its header, then its flits one by one, of which IDLE ones change the replay alone, then the lane groups. -/
theorem flitsArrive : Obligations.FlitsArrive := by
  intro s port i
  refine ⟨fun u frame edge => ?_, ?_⟩
  · intro x one trained head fixes noisy
    refine ⟨fun g lost only held => ?_, fun lost quiet => ?_, fun f decoded quiet alone sched bad => ?_,
      fun f e decoded quiet alone up type good seq calm all => ?_⟩
    · intro good
      obtain ⟨v, n, run, outside, -, stands, -⟩ := execSpanFrame_lost edge trained head lost
      rw [show u.noisyWith i frame = [g] from only] at run
      obtain ⟨fewer, enough⟩ := State.failGroup_framed outside stands trained held
      exact ⟨fun h => ⟨_, run, fewer h⟩, fun h few => ⟨_, run, enough h few⟩⟩
    · obtain ⟨v, n, run, outside, log, stands, count⟩ := execSpanFrame_lost edge trained head lost
      rw [show u.noisyWith i frame = [] from quiet] at run
      refine ⟨v, run, outside, log, ?_⟩
      rw [stands]
      exact ⟨by simp [Port.discards, Port.framed, lost, b2n, x, i], count, rfl, rfl⟩
    · obtain ⟨pre, post, flits, idle⟩ := alone
      obtain ⟨t, run, outside, stands⟩ := execSpanFrame_bad edge trained head decoded quiet flits idle sched bad
      refine ⟨t, run, outside, (Port.eq_of_unreplayed Port.rxSeq (fun _ => rfl) stands).trans (Port.discard_rxSeq _), ?_⟩
      rw [Port.eq_of_unreplayed Port.ctr (fun _ => rfl) stands]
      refine ⟨?_, rfl, fun first => (Port.eq_of_unreplayed Port.nak (fun _ => rfl) stands).trans (Port.discard_nak first)⟩
      exact congrArg PortCtr.flitCrc (Port.discard_ctr _)
    · intro p l thawed plays tick entry turn fits body action
      obtain ⟨pre, post, flits, idle⟩ := alone
      have next : RxNext u i f e := ⟨thawed, plays, tick, entry, turn, fits⟩
      obtain ⟨t, run, only, here⟩ := execSpanFrame_rx edge trained head decoded quiet flits idle ⟨next, up, all, seq⟩ type good calm body
      have store : (t.port i).store = u.rxStore i f e := by
        rw [here]
        rfl
      refine ⟨t, run, only.eq State.core fun _ => rfl, only.eq State.parts fun _ => rfl, only.others, by rw [here]; rfl, ?_, by rw [here]; rfl,
        next.rxStore_read body (only.eq State.cfg fun _ => rfl) store, fun a apart => ?_⟩
      · rw [here]
        exact Port.rxTaken_rxAt ..
      · rw [store]
        exact State.rxStore_apart body apart
  · intro x
    refine ⟨fun up some_ long => ⟨fun few => ?_, fun many enough few => ?_⟩, fun r rest oldest due => ⟨fun none_ => ?_, fun sp q h push => ?_⟩⟩
    · rw [exec_replayTimeout, execReplayTimeout_due up some_ long, if_neg (Nat.not_le.mpr few)]
      rfl
    · rw [exec_replayTimeout, execReplayTimeout_due up some_ long, if_pos many, State.retrain_begins enough few]
      refine ⟨_, rfl, State.retrained_only _, ?_⟩
      rw [State.port_setPort]
      exact ⟨rfl, rfl, rfl⟩
    · rw [exec_rxActionComplete, execRxActionComplete_due oldest due, none_]
    · rw [exec_rxActionComplete, execRxActionComplete_due oldest due, push]
      exact ⟨_, rfl, congrArg Port.pendingRx (s.port_setPort i _), SameMemory.of_push s (by rfl) sp q h, rfl⟩

end Sys2Proof.Machine
end
